-- ==== Sys2Proof/Word.lean ====
section
/-! DEFINITION. Sys2Proof/Word.lean: the word types of the YD3208 (R5, R6) and the small enumerations that the
commands' operands use. -/

namespace Sys2Proof

/-- An internal register or message word: 32 bits (R5). -/
abbrev Word := BitVec 32
/-- One byte of SRAM, of a CMIS page or of a message. -/
abbrev Byte := BitVec 8
/-- A line lane L0 to L8. -/
abbrev Line := Fin 9
/-- A host lane H0 to H15. -/
abbrev HLane := Fin 16
/-- A mailbox m of R284. -/
abbrev MBox := Fin 15
/-- A Hawser port: 0 HA, 1 HB, 2 HC. -/
abbrev Port := Fin 3

/-- What the host streams of a line transmitter bring, one entry for each interval of 256 core cycles: blocks of stream
A, or of the only stream, and blocks of stream B. A block is the 120 bits of a codeword's payload, and in L100 128 bits
of the stream (R47, R75). -/
abbrev TxData := List (List (BitVec 128) × List (BitVec 128))

/-- What a line transmitter's streams A and B brought, interval by interval. -/
def txOf (a b : List (List (BitVec 128))) : TxData := a.zipIdx.map fun x => (x.1, b.getD x.2 [])

/-- What a line transmitter sent up to an event of its lane. -/
structure LaneTx where
  lane : Line
  data : TxData
  deriving DecidableEq, Repr

/-- The fill, in host UI, to which the elastic buffer of a stream moves (R74). -/
structure StreamFill where
  streamB : Bool
  fill : Int
  deriving DecidableEq, Repr

/-- The levels of the traffic that a host transmitter sent, oldest first. -/
structure HostLevels where
  lane : HLane
  levels : List (Fin 4)
  deriving DecidableEq, Repr

/-- A requester of the management interconnect (R16), coded as in TOP_DECERR_STAT.REQ. -/
inductive Req where
  | cleat
  | rigger (core : Fin 4)
  | host
  | dma
  | hawser
  | jtag
  deriving DecidableEq, Repr

/-- What an SRAM read finds stored in the word it reads, beyond the errors the state already marks: nothing, a
single flipped bit of the 72, or an uncorrectable error (R393). -/
inductive Upset where
  | none
  | bit (b : Fin 72)
  | double (b0 b1 : Fin 72)
  deriving DecidableEq, Repr

/-- The path by which a protected word is read (the rows of R395): an SRAM read of a requester, a staging read of DMA
channel 0, the frame that DMA channel 1 was sending, a data-path port, the Capstan stores with the codeword concerned,
the coefficient memory of a line lane, and Cleat's RAM. -/
inductive ReadPath where
  | riggerFetch (core : Fin 4)
  | riggerLoad (core : Fin 4)
  | cleat
  | hawser
  | jtag
  | hostWindow
  | dma0
  | dma1 (src dst : Fin 128) (type : Byte) (tag : BitVec 16)
  | dataPath
  | candidate (n : Line) (streamB : Bool) (pos : Nat)
  | engine (n : Line) (streamB : Bool) (pos : Nat)
  | coefficient (n : Line)
  | cleatRam
  deriving DecidableEq, Repr

/-- A receiver or transmitter unit whose pending changes can apply without framing (R54, R156). -/
inductive LaneUnit where
  | tx (n : Line)
  | rx (n : Line)
  | hostRx (h : HLane)
  | hostTx (h : HLane)
  deriving DecidableEq, Repr

/-- A receiver of AM framing (R474): the two host streams a line transmitter carries, the two line streams a line
receiver carries, or a host lane's own stream. -/
inductive Framer where
  | ltx (n : Line) (streamB : Bool)
  | lrx (n : Line) (streamB : Bool)
  | hst (h : HLane)
  deriving DecidableEq, Repr

/-- One symbol period of a line receiver: the ADC code that arrives, the level that the MLSE decides for the symbol whose
z leaves the alignment delay, and the level that an AM group has there (R108, R111, R127). -/
structure RxSample where
  code : BitVec 8
  level : Fin 4
  am : Option (Fin 4)
  deriving DecidableEq, Repr

/-- What a line receiver takes, oldest first. -/
abbrev RxData := List RxSample

/-- The samples of a receiver from its ADC codes, the levels decided, and the levels that AM groups have. -/
def rxOf (codes : List (BitVec 8)) (lv : List (Fin 4)) (am : List (Option (Fin 4))) : RxData :=
  codes.zipIdx.map fun c => { code := c.1, level := lv.getD c.2 0, am := am.getD c.2 none }

/-- What a line receiver took up to an event of its lane. -/
structure LaneRx where
  lane : Line
  data : RxData
  deriving DecidableEq, Repr

/-- What a checker's receiver took: samples of a line lane, or codes of a host lane, as the unit is. -/
structure CheckerData where
  unit : LaneUnit
  line : RxData
  host : List (BitVec 8)
  deriving DecidableEq, Repr

/-- The ADC codes of a codeword's window, and the symbols between the oldest stage-1 output kept and its first symbol
(R131, R207). -/
structure CwWindow where
  codes : List (BitVec 8)
  off : Nat
  deriving DecidableEq, Repr

/-- The training block of a visit: codes, levels decided, and the symbols between the oldest stage-1 output kept and its first
symbol (R119, R207). -/
structure VisitBlock where
  codes : List (BitVec 8)
  levels : List (Fin 4)
  off : Nat
  deriving DecidableEq, Repr

/-- The soft values of a Lanyard block, and whether the pairs slip by one (R208). -/
structure SoftBlock where
  soft : List (BitVec 4)
  slip : Bool
  deriving DecidableEq, Repr

/-- A symbol that Fathom samples: its value, its decided level and that of the symbol before (R364). -/
structure SymbolSample where
  value : BitVec 32
  level : BitVec 2
  prev : BitVec 2
  deriving DecidableEq, Repr

/-- What a Hawser line has brought: code groups, and where there was none; cdr says that the CDR lost lock (R415). -/
structure LineReport where
  cdr : Bool
  groups : List (Option (BitVec 10))
  deriving DecidableEq, Repr

/-- A segment of a message or of a staged result, and whether it is the first and the last (R419, R427). -/
structure Segment where
  bytes : List Byte
  first : Bool
  last : Bool
  deriving DecidableEq, Repr

/-- What an EPOCH frame names: the epoch, and the major versions of the leader's Rigger and ROM (R434, R435). -/
structure EpochMark where
  epoch : Word
  rigger : Byte
  rom : Byte
  deriving DecidableEq, Repr

/-- The answer to an ASSIGN (R424). -/
inductive AssignReply where
  | done (next : Nat)
  | loop
  | other
  | full
  deriving DecidableEq, Repr

/-- The content of a STATUS frame (R418, R419): the 32 bytes of CAPS, the digest, the error bound in 0.1 ns, the marks
TIME_SUSPECT, its cause DEPTH and DIVERGED, the ports ACTIVE and STANDBY (R442 byte 30), the depth and the upstream
index. -/
structure HwStatus where
  caps : List Byte
  digest : Word
  e : Nat
  suspect : Bool
  suspectDepth : Bool
  diverged : Bool
  ports : Byte
  depth : Nat
  up : Nat
  deriving DecidableEq, Repr

/-- What reaches a port with a frame (R419, R421): its source and destination index (128: broadcast), its hop count,
its LSEQ, and whether CRC and framing are good. -/
structure HwHdr where
  src : Nat
  dst : Nat
  hops : Nat
  lseq : Byte
  good : Bool
  deriving DecidableEq, Repr

/-- A level of a sideband ball: its voltage in mV, none while it is undriven, and how long it holds in ns (R255, R460). -/
structure PinLevel where
  mv : Option (BitVec 12)
  ns : BitVec 32
  deriving DecidableEq, Repr

/-- I3C common command codes (R252): those the target supports, with the address or the length that they carry, and any
other. -/
inductive Ccc where
  | entdaa (a : BitVec 7)
  | setdasa (a : BitVec 7)
  | setnewda (a : BitVec 7)
  | rstdaa
  | getpid
  | getbcr
  | getdcr
  | getmwl
  | getmrl
  | getstatus
  | setmwl (k : BitVec 16)
  | setmrl (k : BitVec 16)
  | other (code : Byte)
  deriving DecidableEq, Repr

/-- CMIS statuses of a CDB command (R271, R272, R348, R269). -/
inductive CdbStatus where
  | success | inProgress | failed | unknownCommand | rangeError | aborted | failedBusy
  deriving DecidableEq, Repr

/-- CMIS ConfigStatus values (R263). -/
inductive ConfigStatus where
  | undefined | success | rejected | invalidAppSel | partialDataPath | invalidDataPath | lanesInUse | invalidSI
  deriving DecidableEq, Repr

/-- What the sections POLICY, DECLARATIONS and CMIS_DEFAULTS of a personality say (R339): policy bits and narrowed
masks, sender-policy entries, quotas by class; opcodes declared, L8 present, media code, host password; bytes of
page 02h and the input of the module temperature. -/
structure PersDecl where
  policyBits : BitVec 6
  changedBy : List (Nat × BitVec 6)
  policy : List (Nat × BitVec 6)
  quotas : List (Nat × Nat)
  opcodes : BitVec 32
  l8 : Bool
  media : Byte
  password : Word
  thresholds : List (Nat × Byte)
  tempSource : Nat
  deriving DecidableEq, Repr, Inhabited

/-- An SRAM fault of the start-up test that no repair covers yet (R403): its bank, whether it is a row or a column, the
index, and the page that it lies in, from the start of SRAM. -/
structure SramFault where
  bank : Fin 64
  row : Bool
  index : BitVec 16
  page : Nat
  deriving DecidableEq, Repr

/-- What the start-up self-test finds beyond factory repairs (R402, R403): SRAM faults, engines and line lanes out of
order, Cleat RAM beyond its spare rows, and the other blocks that fail (bits 17 to 20). -/
structure SelfTest where
  sram : List SramFault
  engines : List (Fin 6)
  lanes : List Line
  cleatRam : Bool
  blocks : BitVec 22
  deriving DecidableEq, Repr

end Sys2Proof
end

