-- ==== Sys2Proof/Config.lean ====
section
/-! DEFINITION. Sys2Proof/Config.lean: what an implementation of the YD3208 fixes and the spec does not state, and the
free values of the model. None has a body: no proof can rest on a value of one. -/

namespace Sys2Proof.Config

/-- Coefficient i of the default Lanyard filter set: R204 gives its response, not its numbers. -/
opaque lydDefaultCoef : Nat → BitVec 16

/-- A value the spec leaves open: the first argument names the place in the model that needs it, the second is the
step counter of the state, so that each use is a fresh value. -/
opaque free : Nat → Nat → Word

/-- A value the spec leaves open that depends on the operands alone: the place, and the operands. -/
opaque freeOf : Nat → List Int → Word

/-- Column i of the parity-check matrix of the (128,120) extended Hamming code of IEEE 802.3dj, bit i being the i-th
in transmission order: R75 and R116 name the code and do not print it. -/
opaque hammingCol : Nat → BitVec 8

/-- Seed of the PRBS test patterns of each lane: R95 fixes one per lane and does not give it. -/
opaque prbsSeed : Nat → BitVec 31

/-- Level of symbol i of SSPRQ, which R95 takes from IEEE 802.3 and does not print. -/
opaque ssprq : Nat → BitVec 2

/-- Measured forward voltage of the laser of lane n in mV: R21 sets VLAS by it, and no register shows it.
DESIGN CHOICE, log 21. -/
opaque laserVf : Nat → BitVec 12

/-- The Hann window's 64 values and cos(2πi/64), in the precision of the mask monitor, which R85 does not give.
DESIGN CHOICE, log 173. -/
opaque hann : Nat → Rat
opaque cos64 : Nat → Rat

/-- The root-raised-cosine pulse of R198 at multiples of 0.1 µs, and the carrier cos(2π × 5i/32) at sample i, in the
generator's precision, which R198 does not give. DESIGN CHOICE, log 173. -/
opaque rrc : Int → Rat
opaque carrier : Nat → Rat

/-- Side coefficient j of half-band filter HB1 or HB2, at distance 2j + 1 from the centre: R201 fixes them and does not give
them. DESIGN CHOICE, log 173. -/
opaque halfBand : Nat → Nat → Rat

/-- Gains of the timing loop for each BW: of the offset in 0.01 ppm, and of the phase in UI (R111 gives the bandwidths).
DEDUCED, log 155. -/
opaque loopFreq : Nat → Rat
opaque loopPhase : Nat → Rat

/-- TYPE of a CAPS frame, and the payload of a frame of a TYPE that says these numbers: R418 and R419 give neither.
DESIGN CHOICE, log 164. -/
opaque hawserCapsType : Byte
opaque hawserContent : Nat → List Nat → List Byte

/-- SHA-384 of a byte string (R338, R353): the spec names the function and does not print it. PRESUMED, log 13. -/
opaque sha384 : List Byte → BitVec 384

/-- ECDSA P-384: the 96-byte signature verifies over the hash under the 97-byte public key (R338). -/
opaque ecdsaVerify : List Byte → BitVec 384 → List Byte → Bool

/-- What an unlock response signs (R354): a challenge of 32 random bytes, the serial number and the reset epoch, and the
level (true: FACTORY), in an order that is not given; the first argument tells one challenge from the next.
DEDUCED, log 178. -/
opaque unlockBytes : Nat → BitVec 64 → BitVec 16 → Bool → List Byte

/-- ECDSA P-384 with the device attestation key (R336, R353); the first argument tells one signing from the next. -/
opaque ecdsaSign : Nat → BitVec 384 → BitVec 768

/-- What the POLICY, DECLARATIONS and CMIS_DEFAULTS sections of a personality say: R339 gives their content, not
their layout. -/
opaque persDecl : List Byte → List Byte → List Byte → PersDecl

/-- Bytes over which R353 hashes the policy bits, the sender policy table and the quotas: their order is not given. -/
opaque policyBytes : BitVec 6 → List (Nat × BitVec 6) → List Nat → List Byte

/-- Bytes of the CMIS identity and advertising pages whose content R257 names and does not give, by page and offset.
DESIGN CHOICE, log 69. -/
opaque cmisConst : Nat → Nat → Byte

/-- The code of a VDM observable for the ratio num/den, in the format that CMIS 5.3 or the device gives its kind (R368): 0
media pre-FEC BER, 1 media errored frames, 2 wasted-slot ratio, 3 mean iterations, 4 host pre-FEC BER, 5 host errored
frames, 6 pilot SNR; and of the level transition parameter, from the means and the mean squares of the four levels.
DESIGN CHOICE, log 70. -/
opaque vdmCode : Nat → Nat → Nat → BitVec 16
opaque ltpCode : List Rat → BitVec 16

/-- The first code of an observable lies above the second, as the format of observable (group, number) has it.
DESIGN CHOICE, log 70. -/
opaque vdmAbove : Nat → Nat → BitVec 16 → BitVec 16 → Bool

/-- Bytes that I3C defines and R252 does not give: 0 for GETBCR, 1 for GETDCR, 2 and 3 for GETSTATUS. -/
opaque i3cByte : Nat → Byte

end Sys2Proof.Config
end

