-- ==== Sys2Proof/Syntax.lean ====
section
/-! DEFINITION. Sys2Proof/Syntax.lean: the commands of the block, one constructor per row of spec/opcode_table.json, each
with its operands: who sends it, which lane, port or mailbox it concerns, the value written, and what the outside
world measured or received where the command is an event. Each docstring gives the row's rule. -/

namespace Sys2Proof

/-- A command of the YD3208: an access, an operation, or an event at its pins and links. -/
inductive Instr where
  /-- R8: A requester writes an internal register that has no behaviour of its own, and each field changes as its type
  says. -/
  | registerWrite (q : Req) (k : Nat) (a v : Word)
  /-- R394: An SRAM write narrower than 64 bits reads, merges and rewrites the word, and is refused if the read finds
  an uncorrectable error. -/
  | sramPartialWrite (q : Req) (a : Word) (bs : List Byte) (u : Upset)
  /-- R393: An SRAM read corrects a single-bit error and writes the word back, or detects a double-bit error. -/
  | sramRead (path : ReadPath) (k : Nat) (a : Word) (u : Upset)
  /-- R398: A write of ECC_INJ_CTRL with ARM set prepares a corruption of the check bits at the next full write of the
  chosen word. -/
  | eccInjectArm (q : Req) (v : Word)
  /-- R397: A write of 1 to ECC_CTRL.LOG_CLR empties the error log. -/
  | eccLogClear (q : Req) (v : Word)
  /-- R396: The scrubber reads its next SRAM word on its timer and writes back a corrected word if no other write
  intervened. -/
  | scrubRead (u : Upset) (raced : Bool)
  /-- R73: The command changes the mode of the line lanes in its mask after the payload, power and map checks. -/
  | laneSetMode (m : MBox)
  /-- R73: The command changes the sources of the line lanes in its mask after the payload, power and map checks. -/
  | laneMap (m : MBox)
  /-- R45: A direct write of LTX_LANE_CFG is checked, then set pending for the next TX AM boundary, or rejected with
  CFG_REJ. -/
  | ltxLaneCfgWrite (q : Req) (n : Line) (v : Word)
  /-- R54: A change bound to a boundary of a lane without framing takes effect within 1 µs of its request or of the
  loss of framing. -/
  | pendingChangeNoFraming (u : LaneUnit)
  /-- R53: The first symbol of the line codeword carrying the reference stream's AM leaves the DAC, and every change
  bound to it applies together. -/
  | txAmBoundary (n : Line) (fillA fillB : Int) (data : TxData)
  /-- R53: The boundary symbol reaches the ADC input ball, and every receive change bound to it applies together. -/
  | rxAmBoundary (n : Line) (codes : List (BitVec 8)) (lv : List (Fin 4)) (am : List (Option (Fin 4)))
  /-- R474: An AM group of a stream is found, and lock is declared at the second group one AM period after the first.
  -/
  | amGroupArrival (f : Framer) (onPeriod : Bool)
  /-- R474: A due AM position passes without a valid group, and lock is lost at the fourth consecutive miss. -/
  | amPositionMissed (f : Framer)
  /-- R49: A window of codeword pairs ends and the receiver declares or loses slot lock by the zero-syndrome counts.
  -/
  | slotLockWindowEnd (n : Line) (even odd : Nat) (cwLock : Bool)
  /-- R61: LANE_PROTECT arm brings L8 to LIVE as a copy of Ln and starts checking the far end. -/
  | laneProtectArm (m : MBox)
  /-- R73: LANE_PROTECT disarm returns L8 to OFF, or is refused with CONFLICT while SWITCHED. -/
  | laneProtectDisarm (m : MBox)
  /-- R65: LANE_PROTECT switch starts an agreement as initiator for a switch to L8. -/
  | laneProtectSwitch (m : MBox)
  /-- R71: LANE_PROTECT revert starts an agreement to return Ln's receiver to use. -/
  | laneProtectRevert (m : MBox)
  /-- R61: Ten AM periods of failed checks end arming in ARM_FAIL. -/
  | protectArmTimeout
  /-- R65: At the agreed RX AM boundary this end's reorder buffer takes Ln's codewords from L8. -/
  | protectionSwitch
  /-- R71: At the agreed RX AM boundary this end returns to Ln's receiver and the state becomes ARMED. -/
  | protectionRevert
  /-- R70: After LOS or LOL on Ln while ARMED with emergency switching, the receiver switches at L8's next RX AM
  boundary and sends NOTIFY. -/
  | emergencySwitch
  /-- R72: A failure of L8's receiver while SWITCHED makes the reorder buffer release Ln's decisions and the state
  return to ARMED. -/
  | l8FailRevert
  /-- R72: At Ln's next RX AM boundary after an L8 failure, the receiver selection returns to Ln. -/
  | l8FailSelectionReturn
  /-- R224: An end reaches its final RX AM boundary and either hands the switch to hardware or abandons. -/
  | protectFinalPoint
  /-- R223: Every 2 ms the initiator repeats PROPOSE until it receives ACCEPT or ABANDON. -/
  | proposeRepeat
  /-- R224: The initiator abandons when no ACCEPT has arrived by its TX AM boundary k_i − 2. -/
  | proposeDeadline
  /-- R74: A buffer fill deviation passes ±64 host UI, so the buffer recentres, SLIP is set and the line output
  squelches. -/
  | elasticBufferSlip (n : Line) (f : StreamFill)
  /-- R76: The injector flips BITS bits in the selected codeword and counts it. -/
  | errorInjection (n : Line) (streamB : Bool) (block : BitVec 128)
  /-- R82: A write of 1 to LTX_SHAPE_CTRL.APPLY sets PEND, or sets REJ when MAIN is 15. -/
  | shapeApply (q : Req) (n : Line) (v : Word)
  /-- R99: The command writes shaping shadows and APPLY of the lanes in its mask as one update. -/
  | txSetShaping (m : MBox)
  /-- R99: The command writes pattern memory and selects a new test-pattern source for the lanes in its mask. -/
  | txLoadPattern (m : MBox)
  /-- R87: A write of LTX_MASK_CTRL or a limit register discards the estimate in progress and starts a new one. -/
  | maskCtrlWrite (q : Req) (n : Line) (m : Option (Fin 8)) (v : Word)
  /-- R85: After 2^AVG blocks the monitor updates the PSD, hits and SEQ in one cycle. -/
  | maskEstimateEnd (n : Line) (a b : List (List (BitVec 128)))
  /-- R89: The driver ends its hold at differential zero after a swing change and resumes at the new swing. -/
  | driverSwingResume (n : Line)
  /-- R93: The TX PLL completes its band calibration. -/
  | txPllBandCalComplete (p : Fin 5)
  /-- R93: The TX PLL locks to its reference host lane. -/
  | txPllLocked (p : Fin 5)
  /-- R93: DAC and driver calibration completes and the PLL reports READY. -/
  | txPllReady (p : Fin 5)
  /-- R93: A loss of TX PLL lock squelches both lanes, counts in LOSS_COUNT and clears READY. -/
  | txPllLockLoss (p : Fin 5)
  /-- R92: Within 2 µs the PLL moves to the lowest-numbered feeding host lane with signal and lock and returns to
  LOCKED. -/
  | txPllReferenceSwitch (p : Fin 5)
  /-- R92: HOLDOVER passes 1 ms without a feeding host lane. -/
  | txPllHoldoverExpiry (p : Fin 5)
  /-- R91: The PLL stops 10 µs after neither lane of its pair needs it. -/
  | txPllStop (p : Fin 5)
  /-- R98: A background TX calibration result is produced and applied, or discarded while frozen. -/
  | txCalResult (n : Line) (kind : Fin 3) (v : Word)
  /-- R98: A write of 1 to LTX_CAL_CTRL.REVERT loads the boot-time calibration at the next boundary. -/
  | txCalRevert (q : Req) (n : Line) (v : Word)
  /-- R124: The line receiver's photocurrent stays below LOS_TH for 2 µs and LOS asserts. -/
  | losAssert (n : Line)
  /-- R124: The reading stays 2 dB above LOS_TH for 10 µs and LOS deasserts, starting acquisition. -/
  | losDeassert (n : Line)
  /-- R124: Timing recovery loses lock and LOL asserts. -/
  | lolAssert (n : Line) (range : Bool)
  /-- R111: The phase error stays below 0.1 UI RMS for 2 µs, timing recovery reports lock and LOL deasserts. -/
  | timingRecoveryLock (n : Line) (freq : BitVec 16)
  /-- R100: The TIA loop brings the ADC RMS to target within one step. -/
  | tiaGainAcquired (n : Line) (gain : Fin 64)
  /-- R100: 20 µs after acquisition began the gain sits at a limit off target and ACQ_FAIL is set. -/
  | tiaAcqTimeout (n : Line) (high : Bool)
  /-- R103: A write of 1 to LRX_TIA_CTRL.RETRIM starts a 10 µs RMS measurement of the frozen gain. -/
  | tiaRetrim (q : Req) (n : Line) (v : Word)
  /-- R103: The RETRIM measurement ends and the new gain is held for the following RX AM boundary. -/
  | retrimMeasureDone (n : Line) (rms256 : Nat)
  /-- R105: Without RX framing the internal timer advances the sub-ADC rotation each AM period. -/
  | adcRotationTimer (n : Line) (data : RxData)
  /-- R116: The Chase decoder decides a received codeword and marks it a Capstan candidate when FAIL or unreliable. -/
  | firstPassDecode (n : Line) (streamB : Bool) (pos : Nat) (dt : Fin 64) (w : CwWindow) (tie : Word)
  /-- R119: A 10 µs Winch slot starts for its receiver, or is idle and counted starved. -/
  | winchSlot
  /-- R121: A visit ends, writes the pending set and updates σ², SNR_visit and FOM. -/
  | winchVisitEnd (b : VisitBlock)
  /-- R109: A write of 1 to WNC_LANE_CFGi.RESEED loads the start values into the pending set. -/
  | winchReseed (q : Req) (i : Fin 25) (v : Word)
  /-- R126: A receive background calibration result is applied, or discarded while frozen. -/
  | rxCalResult (n : Line) (kind : Fin 3) (v : Word)
  /-- R126: A write of 1 to LRX_CAL_CTRL.REVERT loads the boot-time calibration at the next boundary. -/
  | rxCalRevert (q : Req) (n : Line) (v : Word)
  /-- R127: The pattern checker sets SYNC after 64 error-free symbols. -/
  | checkerSyncAcquired (d : CheckerData)
  /-- R127: 32 symbol errors within 1,024 symbols clear SYNC, set SYNC_LOST and re-seed the checker. -/
  | checkerSyncLost (u : LaneUnit) (line : RxData) (host : List (BitVec 8))
  /-- R128: A write of ARM starts filling the capture region circularly and waiting for the trigger. -/
  | captureArm (q : Req) (n : Line) (v : Word)
  /-- R128: A write of ABORT stops the capture and keeps what was written. -/
  | captureAbort (q : Req) (n : Line) (v : Word)
  /-- R128: The selected trigger arrives and the capture continues for the post-trigger share. -/
  | captureTrigger (n : Line) (data : RxData)
  /-- R128: The post-trigger share is written and the capture stops with START reported. -/
  | captureStop (n : Line) (data : RxData)
  /-- R129: The command arms an ADC capture on one lane and completes when it stops. -/
  | captureAdc (m : MBox)
  /-- R129: No trigger arrives within the timeout, the capture is aborted and the command completes TIMED_OUT. -/
  | captureAdcTimeout (n : Line)
  /-- R129: The command sets Winch modes, steps, MLSE memory, calibration and reseed on the named receivers. -/
  | rxSetEqPolicy (m : MBox)
  /-- R139: Every 64 core cycles the scheduler places candidates in free contexts and wakes or gates engines. -/
  | sliceBoundary
  /-- R133: An iteration completes and the codeword converges, continues or becomes finished. -/
  | capstanIterationResult (e : Fin 6) (k : Fin 16) (dt : Fin 64) (tie : Word)
  /-- R138: A finished codeword enters the write-back queue when it has room and reaches the reorder buffer. -/
  | writebackEntry (e : Fin 6) (k : Fin 16) (dt : Fin 64)
  /-- R142: A codeword leaves the reorder buffer towards host framing at its release time. -/
  | codewordRelease (n : Line) (streamB : Bool) (dt : Fin 64)
  /-- R151: A window of RX AM periods ends, RATIO updates and the wasted-slot trigger may fire. -/
  | wasteWindowEnd
  /-- R154: The command writes Capstan policy fields and completes at the slice boundary where they take effect. -/
  | capstanSetPolicy (m : MBox)
  /-- R145: A write of CAP_CTRL.DEADLINE is applied, or discarded with WR_REJ while a lane holds slot lock. -/
  | deadlineWrite (q : Req) (v : Word)
  /-- R148: A write of CAP_SNAP.TAKE copies every Capstan counter in one cycle. -/
  | capstanSnapshot (q : Req)
  /-- R162: The host input swing stays below threshold for 2 µs and LOS asserts. -/
  | hostLosAssert (h : HLane)
  /-- R162: The host input swing stays 2 dB above threshold for 10 µs and LOS deasserts, starting the CTLE search. -/
  | hostLosDeassert (h : HLane)
  /-- R162: The host CDR phase error exceeds 0.25 UI RMS for 5 µs and LOL asserts. -/
  | hostLolAssert (h : HLane)
  /-- R162: The host CDR phase error stays below 0.1 UI RMS for 2 µs and LOL deasserts. -/
  | hostLolDeassert (h : HLane)
  /-- R157: Each 2 µs the search measures the eye at the current code and moves on, ending on the best code. -/
  | ctleSearchStep (h : HLane) (eye : Nat)
  /-- R161: Host framing is not locked within 3 ms of CDR lock and EQ_FAULT is set. -/
  | hostEqTimeout (h : HLane)
  /-- R156: The AM of a host stream reaches the receive balls and receiver changes bound to it apply. -/
  | hostRxFrameBoundary (h : HLane) (before after : List (BitVec 8))
  /-- R156: The AM of an outgoing host stream leaves the transmit balls and transmitter changes bound to it apply. -/
  | hostTxFrameBoundary (d : HostLevels)
  /-- R164: A write of 1 to HST_TX_CTRL.APPLY computes or checks the shadow and sets PEND, or sets REJ. -/
  | hostTxApply (q : Req) (h : HLane) (v : Word)
  /-- R170: A write of HST_TEST_CTRL.LPBK applies a loop-back within 1 µs, or is refused with LPBK_REJ. -/
  | hostLoopbackSet (q : Req) (h : HLane) (v : Word)
  /-- R171: A write that sets HST_RSM_CTRL.EN makes the lane lead of a monitor group, or is discarded with CFG_REJ. -/
  | rsmEnable (q : Req) (h : HLane) (v : Word)
  /-- R172: The lead monitor decodes one RS(544,514) codeword, counts it and sends a record to Fathom. -/
  | rsmCodeword (h : HLane) (skew : Nat) (corr : List (HLane × Nat)) (unc : Bool)
  /-- R174: A write of 1 to SNAP on the lead copies the counters of every group lane. -/
  | rsmSnapshot (q : Req) (h : HLane) (v : Word)
  /-- R175: The command writes host transmit and receive equalisation of the named lanes as one update. -/
  | hostSetEq (m : MBox)
  /-- R184: The command requests a target optical lane state for the lanes in its mask. -/
  | laneSetState (m : MBox)
  /-- R185: A write of OLC_CTRLn.REQ requests a target lane state and replaces any earlier target. -/
  | olcReqWrite (q : Req) (n : Line) (v : Word)
  /-- R188: The command starts a bounded diagnostic pattern or loop-back on one lane. -/
  | laneProbe (m : MBox)
  /-- R188: A write of OLC_PROBEn.GO starts the probe set in the register. -/
  | probeGo (q : Req) (n : Line) (v : Word)
  /-- R188: The probe duration ends and the lane returns to its RETURN state. -/
  | probeDurationEnd (n : Line)
  /-- R178: A channel's slew tick moves its output towards its target and plays a waveform entry. -/
  | slewTick (c : Fin 45)
  /-- R179: A write that changes RANGE ramps the LB output to 0, switches range and ramps to the new code. -/
  | lbRangeWrite (q : Req) (n : Line) (v : Word)
  /-- R181: A code register write becomes the channel target at once or is staged for its group's strobe. -/
  | olcCodeWrite (q : Req) (n : Line) (k : Fin 5) (v : Word)
  /-- R181: A write to OLC_STROBE turns every staged code of the named groups into its target. -/
  | strobeWrite (q : Req) (v : Word)
  /-- R182: A write of START begins waveform playback at entry 0, unless the range passes the region. -/
  | waveformStart (q : Req) (c : Fin 45) (v : Word)
  /-- R182: A write of STOP ends waveform playback. -/
  | waveformStop (q : Req) (c : Fin 45) (v : Word)
  /-- R180: A heater PWM period starts, with its rising and falling edges available as conversion triggers. -/
  | heaterPwmPeriod (n : Line) (j : Fin 2)
  /-- R186: A waiting LB ramp or other step obtains the power-grant token and starts. -/
  | tokenAcquired
  /-- R186: A ramp reaches 4.5 ms under the token, holds its output and releases the token. -/
  | tokenSegmentEnd (n : Line)
  /-- R186: A request without the token for 100 ms completes TIMED_OUT and the lane stays where it is. -/
  | tokenWaitTimeout (n : Line)
  /-- R187: The 5 ms limit passes, lanes not arrived return to BIAS and the command posts TIMED_OUT. -/
  | deferredLiveTimeout (n : Line)
  /-- R194: Cleat detects a laser safety fault and cuts the lanes concerned to OFF within 100 µs. -/
  | safetyFault (b : Fin 6) (n : Line)
  /-- R195: A write to OLC_FAULTn clears FAULT bits, or LOCKOUT where policy allows. -/
  | faultClear (q : Req) (n : Line) (v : Word)
  /-- R190: CMIS Tx disable cuts the lane as in a hard cut and holds it OFF with TXDIS. -/
  | txDisableSet (n : Line)
  /-- R190: Tx disable clears and the lane moves to its last requested state. -/
  | txDisableClear (n : Line)
  /-- R191: A dither waveform period ends and the bias-lock correlator forms CORR, updating the code after ACC
  periods. -/
  | lockinPeriodEnd (n : Line) (m : List (BitVec 12))
  /-- R390: A write of PWR_LANE_RST resets a line or host lane, returning it to OFF or squelch. -/
  | laneReset (q : Req) (v : Word)
  /-- R197: A write of LYD_CTRLn.TX_EN starts or stops the Lanyard transmitter and its encoder. -/
  | lydTxEnWrite (q : Req) (n : Line) (v : Word)
  /-- R205: A write of LYD_CTRLn.RX_EN starts the decimation chain from cleared memories, or stops and clears it. -/
  | lydRxEnWrite (q : Req) (n : Line) (v : Word)
  /-- R204: A channel FIR coefficient write is stored while the chain is stopped, or discarded with COEF_REJ. -/
  | lydCoefWrite (q : Req) (n : Line) (m : Fin 16) (v : Word)
  /-- R208: A 32-symbol block ends and the demodulator updates pilot SNR and PHY_LOCK. -/
  | lanyardBlock (n : Line) (data : RxData) (b : SoftBlock) (snr : BitVec 8) (fofs : BitVec 16)
  /-- R211: A transmitted frame ends and the highest-priority queued frame, or IDLE, starts. -/
  | lanyardFrameEnd (n : Line) (pilot : BitVec 48)
  /-- R210: A header is tested and the receiver moves between HUNT, PRESYNC and SYNC. -/
  | lanyardHeaderFound (n : Line) (hdr : List Byte) (body fcs : List Byte)
  /-- R212: HELLO_PER passes since the last HELLO and a HELLO frame is queued. -/
  | helloPeriod (n : Line)
  /-- R212: TEL_PER passes and a TELEMETRY frame is queued. -/
  | telemetryPeriod (n : Line) (request : Option (List Byte))
  /-- R212: TIME_PER passes and a TIME frame is queued. -/
  | timePeriod (n : Line)
  /-- R216: A HELLO frame creates, refreshes or replaces the lane's partner record and carries an anchor. -/
  | helloRx (n : Line) (b : List Byte) (pilot : BitVec 48)
  /-- R216: A partner's HELLO period passes without a HELLO, and at 8 misses the record is forgotten. -/
  | helloPeriodMissed (n : Line)
  /-- R214: A TELEMETRY frame from the far end is delivered to Rigger. -/
  | telemetryRx (n : Line) (b : List Byte)
  /-- R219: A TXADJ REQUEST is refused, answered as a duplicate, or written to the shaping shadow. -/
  | txadjRequestRx (n : Line) (b : List Byte)
  /-- R218: A TXADJ RESULT answering this end's request is delivered. -/
  | txadjResultRx (n : Line) (b : List Byte)
  /-- R221: A TIME frame anchors numbering and yields delta and theta for Logline. -/
  | timeRx (n : Line) (flags : BitVec 8) (b : List Byte) (pilot : BitVec 48)
  /-- R223: The responder checks a PROPOSE and answers ACCEPT with k_r or ABANDON. -/
  | protectProposeRx (n : Line) (b : List Byte)
  /-- R223: The initiator receives ACCEPT and sends CONFIRM. -/
  | protectAcceptRx (n : Line) (b : List Byte)
  /-- R223: The responder receives a matching CONFIRM. -/
  | protectConfirmRx (n : Line) (b : List Byte)
  /-- R224: An ABANDON ends the agreement at the receiving end. -/
  | protectAbandonRx (n : Line) (b : List Byte)
  /-- R224: A NOTIFY of a far-end emergency switch or revert posts event 0x78. -/
  | protectNotifyRx (n : Line) (b : List Byte)
  /-- R226: A USER fragment is reassembled and a complete message goes to the lowest free ring slot. -/
  | userFragmentRx (n : Line) (b : List Byte)
  /-- R226: A message not complete 50 ms after its first fragment is discarded and LOST counts. -/
  | userReassemblyTimeout (n : Line) (id : BitVec 8)
  /-- R226: A write to LYD_USER_FREE frees the named ring slots. -/
  | userSlotFree (q : Req) (v : Word)
  /-- R227: The command sets TX_EN, RX_EN, DEPTH and the frame periods. -/
  | lanyardConfig (m : MBox)
  /-- R226: The command queues one USER message on a lane and completes when its last fragment is sent. -/
  | lanyardSend (m : MBox)
  /-- R228: The last fragment is not sent within 1 s, the rest are discarded and LANYARD_SEND completes TIMED_OUT. -/
  | lanyardSendTimeout (n : Line)
  /-- R228: LANYARD_PARTNER action read returns the lane's partner identity and count. -/
  | lanyardPartnerRead (m : MBox)
  /-- R227: LANYARD_PARTNER action 1 sends a HELLO now. -/
  | lanyardPartnerHello (m : MBox)
  /-- R227: LANYARD_PARTNER action 2 forgets the lane's partner record. -/
  | lanyardPartnerForget (m : MBox)
  /-- R228: The command writes the TXADJ policy and captures the reference set. -/
  | lanyardTxadjPolicy (m : MBox)
  /-- R232: RAW wraps and OFFSET gains 2^48 × RATE in the same cycle. -/
  | rawWrap
  /-- R233: A write of APPLY_RATE applies RATE_NEW at the next tick, or is refused with RATE_REJ. -/
  | timeApplyRate (q : Req) (v : Word)
  /-- R233: A write of APPLY_STEP adds STEP to OFFSET at the next tick. -/
  | timeApplyStep (q : Req) (v : Word)
  /-- R237: A write of CLR_COARSE clears TIME_COARSE and zeroes TIM_UNCERT. -/
  | timeClearCoarse (q : Req) (v : Word)
  /-- R234: A read of TIM_SNAP_W0 captures RAW, ToD and flags into the requester's holding set. -/
  | timeSnapshotRead (q : Req) (w : Fin 5)
  /-- R243: A read of a queue's W0 pops the oldest stamp into the requester's holding set. -/
  | tsqPop (q : Req) (rx : Bool) (w : Fin 4)
  /-- R235: A read of TIM_AON_LO captures the high word. -/
  | aonCounterRead (q : Req) (high : Bool)
  /-- R245: A read of TIM_TTn_STAT captures the lane's delta and theta registers. -/
  | twoWayRead (q : Req) (n : Line) (w : Fin 5)
  /-- R246: A read of TIM_PPSI_W0 returns the capture and clears VALID. -/
  | ppsInRead (q : Req) (w : Fin 4)
  /-- R235: Every 4 h in ANCHOR Cleat wakes and records wraps of AON in EXT. -/
  | cleatAonWake
  /-- R246: A selected PPS_IN edge is stamped, overwriting an unread capture with OVR. -/
  | ppsInEdge (falling short : Bool)
  /-- R247: ToD plus compensation reaches a whole second and PPS_OUT goes active. -/
  | ppsOutSecond
  /-- R247: WIDTH µs after it went active, PPS_OUT returns inactive. -/
  | ppsOutPulseEnd
  /-- R248: The command sets ToD, and optionally RATE, at once or at the next PPS_IN edge. -/
  | timeSet (m : MBox)
  /-- R248: The command steps ToD, changes RATE or clears COARSE, at once or at a target time. -/
  | timeAdjust (m : MBox)
  /-- R248: The command sets the queue lanes, decimation and PPS_OUT control. -/
  | timeStampConfig (m : MBox)
  /-- R248: A TIME_SET at PPS sees no edge within 2 s and completes TIMED_OUT. -/
  | timeSetPpsTimeout
  /-- R238: RAW reaches the converted target of a scheduled action and the action fires. -/
  | scheduledTimeReached (k : Option (Fin 8))
  /-- R249: The host writes bytes to the lower page or selected page, with the field taking effect at its last byte.
  -/
  | i2cWrite (off : Byte) (data : List Byte)
  /-- R251: The host reads bytes with coherent latching of multi-byte fields and clear-on-read flags. -/
  | i2cRead (off : Option Byte) (k : Nat)
  /-- R252: An I3C common command code is served or NACKed. -/
  | i3cCcc (code : Ccc)
  /-- R256: A reset held 10 µs on SB0 or RESET_N causes an AON reset. -/
  | sidebandReset (p : PinLevel := ⟨some 0, 10000⟩)
  /-- R256: The CMIS software reset control causes an AON reset. -/
  | cmisSoftwareReset
  /-- R256: The low-power request from LPWn, LPMODE or LowPwrRequestSW changes and the module moves toward ACTIVE or
  KEEP. -/
  | lowPowerRequestChange (pin : Option PinLevel) (sw : Option Bool)
  /-- R253: MODSEL_N changes, enabling or disabling acknowledgement of the address. -/
  | modselChange (p : PinLevel)
  /-- R263: ApplyDPInit of a staged control set runs the checks and sets ConfigStatus. -/
  | cmisApplyDpinit (b : Fin 2) (k : Fin 2) (mask : BitVec 8)
  /-- R263: ApplyImmediate applies a staged set to active lanes whose AppSel is unchanged. -/
  | cmisApplyImmediate (b : Fin 2) (k : Fin 2) (mask : BitVec 8)
  /-- R261: A DPDeinit change starts DPInit or DPDeinit of a data path. -/
  | dpdeinitWrite (b : Fin 2) (v : BitVec 8)
  /-- R261: An OutputDisableTx change moves the data path between DPTxTurnOn and DPTxTurnOff. -/
  | outputDisableTxWrite (b : Fin 2) (v : BitVec 4)
  /-- R261: Every line lane of a data path reaches the awaited state and the data path moves to its next state. -/
  | datapathStateAdvance (h : HLane)
  /-- R266: Each evaluation latches alarm and warning flags whose conditions hold. -/
  | cmisFlagEvaluation
  /-- R265: CMIS monitor values are refreshed from their sources. -/
  | cmisMonitorRefresh
  /-- R268: A write of bytes 7Ah to 7Dh gives the host HOST.PRIV or returns it to HOST.USER. -/
  | hostPasswordEntry (v : Word)
  /-- R344: A write of bytes 76h to 79h by HOST.PRIV stores a new password in flash. -/
  | hostPasswordChange (v : Word)
  /-- R275: A write of CMD 01h starts an aligned 32-bit read on behalf of the host. -/
  | registerWindowRead (u : Upset)
  /-- R275: A write of CMD 02h starts an aligned 32-bit write on behalf of the host. -/
  | registerWindowWrite (u : Upset)
  /-- R275: The window access completes, STATUS and RDATA are set and BUSY clears. -/
  | windowAccessComplete
  /-- R276: A write of 01h to B8h byte F0h pops the oldest host completion. -/
  | completionRingPop
  /-- R277: A write of 01h to B9h byte 90h pops the oldest event. -/
  | eventQueuePop
  /-- R279: A write of 01h to BBh byte 82h copies a block of a Fathom snapshot into the window. -/
  | fathomReadoutCopy
  /-- R282: A write of 01h to BEh byte 82h copies eight counters, or gives DENIED without PERF_HOST_READ. -/
  | perfWindowCopy
  /-- R270: The host's freeze takes Fathom, Capstan and RS snapshots and sets freeze-done. -/
  | vdmFreeze
  /-- R270: The host's unfreeze sets unfreeze-done within 1 ms. -/
  | vdmUnfreeze
  /-- R271: CDB 0000h returns the status. -/
  | cdbQueryStatus
  /-- R271: CDB 0040h returns module features. -/
  | cdbModuleFeatures
  /-- R271: CDB 0041h returns firmware management features. -/
  | cdbFwMgmtFeatures
  /-- R271: CDB 0100h returns firmware information. -/
  | cdbGetFwInfo
  /-- R348: CDB 0101h checks the length, clears staging and opens a download. -/
  | cdbStartDownload (len : Nat) (header : List Byte)
  /-- R348: CDB 0102h discards the download. -/
  | cdbAbortDownload
  /-- R348: CDB 0103h copies an LPL block into staging. -/
  | cdbWriteBlockLpl (addr : Nat) (data : List Byte)
  /-- R348: CDB 0104h copies an EPL block into staging by DMA. -/
  | cdbWriteBlockEpl (addr : Nat) (data : List Byte)
  /-- R348: CDB 0107h checks the staged image and writes it to its flash area in background. -/
  | cdbCompleteDownload
  /-- R348: The background flash write of a completed download ends and is read back. -/
  | flashWriteComplete (ok : Bool)
  /-- R348: CDB 0109h restarts Rigger hitlessly into the last completed slot. -/
  | cdbRunImage (mode : Byte)
  /-- R349: CDB 010Ah makes the running slot committed and raises the anti-rollback counters. -/
  | cdbCommitImage
  /-- R271: Any other CDB command completes with failed, unknown command. -/
  | cdbUnknownCommand
  /-- R287: A write to a mailbox word or staging buffer is accepted or refused with ERR_CAUSE. -/
  | mailboxWordWrite (q : Req) (m : MBox) (w : Fin 16) (v : Word) (stg : Option (Fin 1024))
  /-- R288: A GO to an empty accepting mailbox sets FULL, stamps the identity and hands the message to the engine. -/
  | mailboxGo (q : Req) (m : MBox)
  /-- R291: The engine takes a full mailbox, runs the intake checks and queues the command or completes it at once. -/
  | mailboxTake
  /-- R294: A read of MBX_IRINGk_W0 pops the oldest internal completion into the holding set. -/
  | internalRingPop (q : Req) (k : Fin 3) (i : Fin 4)
  /-- R303: PING completes DONE with the result equal to word 2. -/
  | ping (m : MBox)
  /-- R303: GET_INFO writes 64 bytes of identity and quota information to staging. -/
  | getInfo (m : MBox)
  /-- R301: CANCEL cancels a queued command by identity and tag and reports the outcome. -/
  | cancel (m : MBox)
  /-- R302: FLUSH_COMPLETIONS discards the sender's ring, optionally the event queue, and posts its own completion
  first. -/
  | flushCompletions (m : MBox)
  /-- R335: SET_POLICY table 0 changes the allow mask of one opcode. -/
  | setPolicySender (m : MBox)
  /-- R335: SET_POLICY table 1 changes one policy bit. -/
  | setPolicyBit (m : MBox)
  /-- R335: SET_POLICY table 2 changes one class quota. -/
  | setPolicyQuota (m : MBox)
  /-- R310: KNOT_OPEN takes the lowest FREE slot, increments its generation and returns the handle. -/
  | knotOpen (m : MBox)
  /-- R313: KNOT_STAGE checks and adds register-write entries to an OPEN knot. -/
  | knotStage (m : MBox)
  /-- R319: An IMMEDIATE cinch checks the knot and applies it at readiness. -/
  | knotCinchImmediate (m : MBox)
  /-- R321: An AM cinch checks the knot and arms it for each lane's next boundary of the named direction. -/
  | knotCinchAm (m : MBox)
  /-- R319: A TIME cinch checks the knot and arms it for a target ToD. -/
  | knotCinchTime (m : MBox)
  /-- R326: A GANG cinch at the leader checks participants and sends PREPARE for application at T. -/
  | knotCinchGang (m : MBox)
  /-- R318: The cinch checks complete and the knot is ready, applied, armed or failed. -/
  | knotReady (k : Fin 8)
  /-- R324: KNOT_ABANDON frees an OPEN or ARMED knot with CANCELLED. -/
  | knotAbandon (m : MBox)
  /-- R324: KNOT_STATUS returns the slot status of the slot the handle names. -/
  | knotStatus (m : MBox)
  /-- R312: A knot OPEN for IDLE seconds is abandoned with TIMED_OUT and event 0x45. -/
  | knotIdleExpiry (k : Fin 8)
  /-- R322: AM_WAIT expires, failing an unapplied AM cinch or forcing the waiting lanes. -/
  | knotAmWaitExpiry (k : Fin 8)
  /-- R327: A participant checks the named knot and answers PREPARED or REFUSED. -/
  | gangPrepareRx (p : Port) (h : HwHdr) (sec : BitVec 48) (ns : BitVec 30) (handle : BitVec 16)
  /-- R327: The leader records a participant's PREPARED answer. -/
  | gangPreparedRx (p : Port) (h : HwHdr) (handle : BitVec 16)
  /-- R327: A participant's REFUSED makes the leader abort the gang cinch. -/
  | gangRefusedRx (p : Port) (h : HwHdr) (handle : BitVec 16) (status : BitVec 8)
  /-- R327: At T − LEAD/2 the leader sends COMMIT if every participant is prepared, otherwise ABORT. -/
  | gangDecisionPoint (k : Fin 8)
  /-- R327: Every 20 µs until T − 10 µs the leader repeats COMMIT to unacknowledged participants. -/
  | gangCommitRepeat (k : Fin 8) (acked : List (Fin 128))
  /-- R327: A participant receiving COMMIT moves its knot to ARMED. -/
  | gangCommitRx (p : Port) (h : HwHdr) (handle : BitVec 16)
  /-- R327: A participant receiving ABORT frees its prepared knot. -/
  | gangAbortRx (p : Port) (h : HwHdr) (handle : BitVec 16)
  /-- R329: The leader counts an APPLIED report and completes the cinch when all are in. -/
  | gangAppliedRx (p : Port) (h : HwHdr) (handle : BitVec 16)
  /-- R328: A knot still PREPARED at T − 10 µs is freed with TIMED_OUT and the device becomes DIVERGED. -/
  | participantDeadline (k : Fin 8)
  /-- R351: FW_STATUS writes 32 bytes of slot and counter status to staging. -/
  | fwStatus (m : MBox)
  /-- R352: FW_RESTART slot 0 restarts Rigger into the running slot, staying outstanding across the restart. -/
  | fwRestartRunning (m : MBox)
  /-- R352: FW_RESTART slot 1 restarts Rigger into the other slot without commit. -/
  | fwRestartOther (m : MBox)
  /-- R353: ATTEST writes a 352-byte signed report over the nonce to staging. -/
  | attestReport (m : MBox)
  /-- R353: ATTEST with word 10 bit 0 returns the device certificate. -/
  | attestCertificate (m : MBox)
  /-- R345: Rigger writes TOP_RIG_CTRL.READY, RUNNING becomes 1 and the watchdog starts. -/
  | riggerReady (c : Fin 4) (v : Word)
  /-- R345: A write of KICK restarts the watchdog period. -/
  | watchdogKick (c : Fin 4) (v : Word)
  /-- R345: The watchdog period expires without a kick and a restart with cause 0x03 starts. -/
  | watchdogExpiry
  /-- R346: A restart cause halts Rigger, posts RESET_ABORT completions and resets SYS. -/
  | riggerRestart
  /-- R346: The image is read into Rigger code and data and checked. -/
  | riggerImageLoaded
  /-- R346: An unrecoverable exception halts a Rigger core and starts a restart with cause 0x05. -/
  | riggerCoreHalt (core : Fin 4)
  /-- R354: The tester returns a signed response and Cleat unlocks DEBUG or FACTORY, or counts a failure. -/
  | debugUnlockResponse (factory : Bool) (key sig : List Byte)
  /-- R388: VIN reaches 3.135 V and start-up of rails, resonator and management PLL begins. -/
  | powerOn (unpowered : Bool)
  /-- R388: The resonator has not settled 10 ms after the rails, and start-up continues on the RC oscillator. -/
  | memsSettleTimeout
  /-- R341: The POR or AON reset is released and Cleat boots from ROM through OTP, patch, self-test and personality.
  -/
  | porRelease (scl sda : Bool) (t : SelfTest)
  /-- R341: The committed Rigger slot has been read and checked, and Rigger is released. -/
  | riggerRelease
  /-- R341: MgmtInit completes and the bus target answers in ModuleLowPwr. -/
  | mgmtinitComplete
  /-- R357: A write of MON_ADC_URG.GO requests one conversion of input CH. -/
  | urgentConversion (q : Req) (v : Word)
  /-- R357: An output-channel event requests a delayed conversion, or is dropped with MISSED when 8 wait. -/
  | triggeredConversionRequest (ch : Fin 45) (kind : Fin 3)
  /-- R357: Every PERIOD µs the sequencer starts converting its list, counting OVERRUN when late. -/
  | sequencerRound
  /-- R355: A monitor conversion ends, its result is computed and its window evaluated. -/
  | adcConversionEnd (code : BitVec 12)
  /-- R358: A write of REF_EN enables or disables the reference buffer. -/
  | referenceEnable (q : Req) (v : Word)
  /-- R358: 200 µs after REF_EN rises, REF_RDY rises and waiting conversions start. -/
  | referenceReady
  /-- R359: In ANCHOR every ANCHOR_PER × 10 ms the inputs marked ANCHOR are converted. -/
  | anchorMonitorRound (codes : List (BitVec 12))
  /-- R365: A write of START clears the active set and begins counting. -/
  | fathomStart (q : Req) (i : Fin 32) (v : Word)
  /-- R365: A write of STOP, or of configuration while running, ends counting without a snapshot. -/
  | fathomStop (q : Req) (i : Fin 32) (word : Fin 5) (v : Word)
  /-- R363: A sample is binned, extremes updated, or dropped above 16 per cycle. -/
  | fathomSample (i : Fin 32) (y : SymbolSample) (excess : Bool)
  /-- R365: A WINDOW or COUNT capture reaches its limit, takes a snapshot and posts FATHOM_DONE. -/
  | fathomCaptureEnd (i : Fin 32)
  /-- R366: The active and snapshot sets swap at the lane's RX AM boundary or within 1 µs. -/
  | fathomSnapshotSwap (i : Fin 32)
  /-- R366: The snapshot set is written to SRAM, SEQ increments and VALID sets. -/
  | fathomWriteoutDone (i : Fin 32)
  /-- R373: MON_CONFIG writes an instance's configuration and optionally starts it. -/
  | monConfig (m : MBox)
  /-- R373: MON_SNAPSHOT snapshots the named instances and completes when they are in SRAM. -/
  | monSnapshot (m : MBox)
  /-- R373: MON_SET_WINDOW writes a window's thresholds and configuration in one step. -/
  | monSetWindow (m : MBox)
  /-- R373: PERF_CONFIG action 0 writes the counter chain bits. -/
  | perfConfigChain (m : MBox)
  /-- R373: PERF_CONFIG action 1 configures one sampler. -/
  | perfConfigSampler (m : MBox)
  /-- R373: PERF_CONFIG action 2 clears the named OVF bits. -/
  | perfConfigClearOvf (m : MBox)
  /-- R369: A write of PMU_CTRL.TAKE copies all 256 counters in one cycle. -/
  | perfSnapshot (q : Req) (v : Word)
  /-- R369: A read of PMU_CNTj_LO captures the high word into the holding set. -/
  | perfCounterRead (q : Req) (j : BitVec 8) (high : Bool)
  /-- R371: A watched counter advances by PER, interrupting a Rigger core and capturing its PC. -/
  | samplerCrossing (k : Fin 4) (pc : BitVec 64)
  /-- R376: The bus stays idle for IDLE ms in ModuleLowPwr and an ANCHOR entry attempt runs its first check. -/
  | anchorIdleTimeout
  /-- R377: Rigger has saved and halted, the second check passes and clocks, RAW and rails stop. -/
  | anchorRiggerHalted
  /-- R377: Eight always-on cycles after it opened, the entry window closes and level wake events are sampled. -/
  | anchorWindowClose (cleat : Bool)
  /-- R379: A wake event in ANCHOR restores the rails and starts the wake sequence. -/
  | wakeEvent (k : Fin 5)
  /-- R379: The management PLL locks, RAW restarts after its sleep addition and the device is in KEEP. -/
  | wakeKeepReached
  /-- R378: Non-retained SRAM is zero-filled after wake. -/
  | wakeSramFilled
  /-- R375: VCORE, the core PLL and the CORE domain are up and the device is ACTIVE. -/
  | powerUpComplete
  /-- R375: After the last lane is OFF, CORE and VCORE are off and the device is in KEEP. -/
  | powerDownComplete
  /-- R375: With no line lane assigned for 100 ms, CORE and the core PLL are gated. -/
  | coreIdleGate
  /-- R381: The MEMS reference stops, the clocks move to the RC oscillator and every lit lane is reset. -/
  | memsReferenceLoss
  /-- R381: The reference has been present for 100 ms and REF_LOST clears. -/
  | referenceRestored
  /-- R382: A write of PWR_BLK_EN enables blocks or disables them, refusing with EN_REJ where not allowed. -/
  | blockEnableWrite (q : Req) (v : Word)
  /-- R382: 50 µs after re-enabling, a block's registers are at reset values. -/
  | blockEnableComplete (b : Fin 27)
  /-- R389: Cleat's write of PWR_RST.AON causes an AON reset with cause 04h. -/
  | softwareAonReset
  /-- R389: VIN or VAON falls below its threshold and a POR is caused. -/
  | brownOut (vinFell : Bool)
  /-- R389: Cleat fails to service its watchdog for 1 s and an AON reset follows. -/
  | aonWatchdogExpiry
  /-- R375: VIN is lost and the device goes OFF. -/
  | vinLoss
  /-- R391: Every 10 ms the power accounting registers update. -/
  | powerAccountingUpdate (mW mA : BitVec 16) (blocks : Vector (BitVec 16) 7)
  /-- R392: SET_POWER_STATE sets AUTO, FTH_RET and IDLE and may request one ANCHOR attempt. -/
  | setPowerState (m : MBox)
  /-- R392: GET_POWER_ACCOUNTING writes 64 bytes of accounting to staging and clears the peaks. -/
  | getPowerAccounting (m : MBox)
  /-- R400: RETIRE_PAGE copies a page to a spare page and redirects accesses to it. -/
  | retirePage (m : MBox)
  /-- R400: The repair ledger record of a retirement is written to flash in the background. -/
  | retireLedgerWritten
  /-- R405: BIST_RUN isolates and tests the named blocks in turn. -/
  | bistRun (m : MBox)
  /-- R406: A block's in-service test ends and the block is re-initialised. -/
  | bistBlockDone (failed : Bool) (us : BitVec 16) (m0 m1 m2 : BitVec 32)
  /-- R407: BIST_RESULT writes the selected self-test results to staging. -/
  | bistResult (m : MBox)
  /-- R397: ECC_LOG returns the error log. -/
  | eccLog (m : MBox)
  /-- R410: Each minute Cleat accumulates the lifetime counts. -/
  | lifetimeMinute
  /-- R410: Every 60 minutes and at ModulePwrDn a lifetime record is appended to flash. -/
  | lifetimeRecordAppend
  /-- R416: A write of HWS_PORTp_CTRL.EN moves a port between DISABLED and DETECT. -/
  | hawserPortEnable (q : Req) (p : Port) (v : Word)
  /-- R416: A write of RETRAIN returns the port to DETECT. -/
  | hawserRetrain (q : Req) (p : Port) (v : Word)
  /-- R416: A DETECT pulse senses the load and moves the port to TRAIN when found. -/
  | hawserDetectPulse (p : Port) (load : Bool)
  /-- R417: A training set carries a tap request and status, and both ends done moves the port to LOCK. -/
  | trainingSetRx (p : Port) (pre post : Fin 3) (done : Bool) (askPre askPost : Fin 3)
  /-- R416: The port achieves symbol lock and moves to CAPS. -/
  | hawserSymbolLock (p : Port)
  /-- R418: A CAPS frame is received and the port becomes ACTIVE or BLOCKED. -/
  | capsRx (p : Port) (caps : Vector Byte 32)
  /-- R416: TRAIN, LOCK or CAPS exceeds its limit and the port returns to DETECT. -/
  | hawserStateTimeout (p : Port)
  /-- R415: The Hawser receive swing stays low for 1 µs and the port returns to DETECT. -/
  | hawserLos (p : Port)
  /-- R415: CDR loss, excess code errors or missing commas return the port to DETECT. -/
  | hawserLol (p : Port) (l : LineReport)
  /-- R421: A LINK frame grants credits or requests a replay. -/
  | linkFrameRx (p : Port) (ack : Bool) (credits : Fin 17) (replay : Option Byte)
  /-- R431: Every SYNC_PER ms a follower sends SYNC_REQ upstream. -/
  | syncPeriod
  /-- R431: The upstream device stamps SYNC_REQ and answers SYNC_RESP. -/
  | syncReqRx (p : Port) (delay : BitVec 32)
  /-- R432: The follower computes theta and its servo steps or trims RATE. -/
  | syncRespRx (p : Port) (t2 t3 : BitVec 64) (e : BitVec 32) (coarse invalid : Bool)
  /-- R424: A device receiving ASSIGN takes an index or replies LOOP, OTHER or FULL. -/
  | assignRx (u : Port) (next : Fin 256) (leader : BitVec 64) (e : BitVec 16) (hops : Fin 128)
  /-- R424: A DONE reply returns a subtree's next index and ends the leader's run when last. -/
  | doneRx (p : Port) (r : AssignReply)
  /-- R426: The leader receives a member's STATUS with port changes, digest and flags. -/
  | statusRx (p : Port) (h : HwHdr) (st : HwStatus)
  /-- R426: 1 ms after the last topology report the leader runs discovery. -/
  | discoveryDelayExpiry
  /-- R434: A member adopts the configuration epoch and digest broadcast in a KNOT EPOCH frame. -/
  | epochRx (p : Port) (h : HwHdr) (e : EpochMark) (d : Word) (list : Option (List Word))
      (params : Option (BitVec 10 × BitVec 8))
  /-- R434: A member's epoch still lags 200 ms after the broadcast and it is DIVERGED. -/
  | epochLagTimeout (i : Fin 128)
  /-- R434: Every 100 ms a member recomputes its configuration digest. -/
  | digestRecompute
  /-- R430: A DROPPED notice completes the affected GANG_FORWARD with INTERNAL_FAULT. -/
  | droppedRx (p : Port) (h : HwHdr) (src dst : Fin 128) (type : Byte) (tag : BitVec 16)
  /-- R428: A forwarded message enters the lowest empty peer mailbox, or waits for one. -/
  | msgRx (p : Port) (h : HwHdr) (g : Segment) (ns : BitVec 16)
  /-- R435: An image segment is written by Hawser DMA into firmware staging. -/
  | pushRx (p : Port) (h : HwHdr) (offset : Fin 8388608) (bytes : List Byte) (last : Bool)
  /-- R428: The leader receives a mailbox take acknowledgement from a target. -/
  | takenRx (p : Port) (h : HwHdr) (tag : BitVec 16)
  /-- R428: The leader posts a returned completion as the GANG_FORWARD completion. -/
  | completionRx (p : Port) (h : HwHdr) (w0 : Word) (status orig : BitVec 8) (epoch : BitVec 16) (result : Word)
      (final : Bool) (mb : MBox) (g : Segment)
  /-- R427: GANG_FORWARD sends a message to a gang member as MSG segments. -/
  | gangForward (m : MBox)
  /-- R442: GANG_STATUS writes one 32-byte record per member to staging. -/
  | gangStatus (m : MBox)
  /-- R443: GANG_CONFIG action 0 sets and broadcasts TOL, SYNC_PER and AUTO_RELOAD. -/
  | gangConfigParameters (m : MBox)
  /-- R443: GANG_CONFIG action 1 sets and broadcasts the gang list. -/
  | gangConfigList (m : MBox)
  /-- R443: GANG_CONFIG action 2 runs discovery. -/
  | gangConfigRediscover (m : MBox)
  /-- R443: GANG_CONFIG action 3 pushes the leader's Rigger image to a member. -/
  | gangConfigPush (m : MBox)
  /-- R443: GANG_CONFIG action 4 reloads a member's listed configuration. -/
  | gangConfigReload (m : MBox)
  /-- R439: The token arrives on PGTKI and the device takes one pending step or passes it on. -/
  | pgtkiRise (head : Bool)
  /-- R439: PGTKI falls and the device's PGTKO follows low. -/
  | pgtkiFall
  /-- R439: PGREQ high for 1 µs after the head passed ends the round and the head clears the chain. -/
  | powerGrantRoundEnd
  /-- R439: A step under the token ends and the device releases PGREQ and passes the token. -/
  | powerGrantStepEnd (low : Bool)
  /-- R160: The host receiver's CDR first locks after LOS deasserts, which is event 3 and starts the count of four
  Winch visits. -/
  | hostCdrLock (h : HLane)
  /-- R380: The RX PLL of a line lane locks after its LRX datapath powers on, and LOS is evaluated from then on. -/
  | rxPllLock (n : Line)
  /-- R380: The host PLL of a quad locks after HSTq powers up, and host LOS is evaluated from then on. -/
  | hostPllLock (q : Fin 4)
  /-- R375: Within 60 µs of a lane being assigned, the gated core PLL has locked and the CORE domain is up again, and
  the Winch round starts at slot 0. -/
  | coreUngateComplete
  /-- R88: At the next 1.6 µs Lanyard symbol boundary, a pending change of DEPTH or EN of the subcarrier takes effect.
  -/
  | lanyardSymbolBoundary (d : LaneTx)
  /-- R205: The 40th output of the decimation chain after a start sets SETTLED, and the demodulator begins to use the
  outputs. -/
  | lanyardChainSettled (d : LaneRx)
  /-- R357: DELAY × 10 ns after its triggering event, a waiting triggered conversion becomes due and starts if the
  converter is free. -/
  | triggeredConversionDue (c : Fin 64)
  /-- R415: The received Hawser swing stays above 100 mV for 10 µs and the port's LOS deasserts. -/
  | hawserLosDeassert (p : Port)
  /-- R443: A GANG_CONFIG push that has not ended with the target's Commit within 30 s completes with TIMED_OUT. -/
  | gangPushTimeout (i : Fin 128)
  /-- R354: A FACTORY-unlocked test port enters boundary scan, and Cleat first cuts every lane with CAUSE 0x1. -/
  | boundaryScanEntry
  deriving DecidableEq, Repr

end Sys2Proof
end

