-- ==== Sys2Proof/Decode.lean ====
section
/-! DEFINITION. Sys2Proof/Decode.lean: the command that a word spells by the bits of the opcode table. -/

namespace Sys2Proof

/-- The block's table gives bits to none of its rows: every "fields" of spec/opcode_table.json is empty, since the
commands are accesses, operations and events of a block and no instruction words. No word spells a command.
DESIGN CHOICE, log 4. -/
def decodeTableWord (_nbits _w : Nat) : Option Instr := none

end Sys2Proof
end

