-- ==== Sys2Proof/Machine/Bank.lean ====
section
/-! DEFINITION. Sys2Proof/Machine/Bank.lean: sparse storage in one canonical form, used for the register bank (address,
word), the SRAM (address, byte) and every other sparse table: keys strictly rising, no entry equal to its default. -/

namespace Sys2Proof.Machine

/-- The entry at key k, if one is listed. -/
def Bank.find {α : Type} (b : List (Nat × α)) (k : Nat) : Option α :=
  match b with
  | [] => none
  | (a, v) :: t => if a = k then some v else if k < a then none else Bank.find t k

/-- The list with v listed at key k. -/
def Bank.insert {α : Type} (b : List (Nat × α)) (k : Nat) (v : α) : List (Nat × α) :=
  match b with
  | [] => [(k, v)]
  | (a, w) :: t =>
    if k < a then (k, v) :: (a, w) :: t
    else if a = k then (k, v) :: t
    else (a, w) :: Bank.insert t k v

/-- The list with nothing listed at key k. -/
def Bank.erase {α : Type} (b : List (Nat × α)) (k : Nat) : List (Nat × α) :=
  match b with
  | [] => []
  | (a, w) :: t => if a = k then t else if k < a then (a, w) :: t else (a, w) :: Bank.erase t k

/-- The value at key k, d where nothing is listed. -/
def Bank.get {α : Type} (b : List (Nat × α)) (k : Nat) (d : α) : α := (Bank.find b k).getD d

/-- Set key k to v, where an unlisted key reads d: writing d removes the entry. -/
def Bank.put {α : Type} [DecidableEq α] (b : List (Nat × α)) (k : Nat) (v d : α) : List (Nat × α) :=
  if v = d then Bank.erase b k else Bank.insert b k v

/-- Keys strictly rising from lo, no entry equal to the default of its key. -/
def Bank.wfFrom {α : Type} [DecidableEq α] (d : Nat → α) (lo : Nat) (b : List (Nat × α)) : Bool :=
  match b with
  | [] => true
  | (a, v) :: t => decide (lo ≤ a) && decide (v ≠ d a) && Bank.wfFrom d (a + 1) t

/-- The canonical form of a bank whose unlisted key k reads d k. -/
def Bank.wf {α : Type} [DecidableEq α] (d : Nat → α) (b : List (Nat × α)) : Bool := Bank.wfFrom d 0 b

end Sys2Proof.Machine
end

