-- ==== Sys2Proof/Machine/State.lean ====
section
/-! DEFINITION. Sys2Proof/Machine/State.lean: everything the spec gives the device as state, as plain data. Every register
of the map is one entry of the register bank, which lists only the registers that differ from their reset value;
state that no register holds stands in the records below, block by block. -/

namespace Sys2Proof.Machine

/-- The ways a command stops the machine with a fault. There is none: the spec gives every command of the block an
effect, a bus error or a discarded access among them, and the device goes on. -/
inductive Fault where
  deriving DecidableEq, Repr

/-- The ways a command is refused. -/
inductive Refusal where
  /-- The command has no meaning in the model yet; raised by exec's arms alone. It is safe. -/
  | notModelled (mnemonic : String)
  deriving DecidableEq, Repr

/-- Status codes (R295). -/
inductive Status where
  | done | deferred | replayed | badOpcode | badLength | denied | queueFull | resetAbort | timedOut | conflict
  | blockOff | versionMismatch | peerLost | cancelled | internalFault
  deriving DecidableEq, Repr

/-- Outcome of one bus access, in the order of the checks of R27; mbx is a mailbox refusal (R287). -/
inductive Acc where
  | ok | narrow | unmapped | denied | off | mbx | uncorrectable
  deriving DecidableEq, Repr

/-- What the last access, page transfer or event answered to its sender. -/
inductive Resp where
  | none
  | access (a : Acc) (data : BitVec 64)
  | ack (data : List Byte)
  | nack (accepted : Nat)
  deriving DecidableEq, Repr

/- Mailboxes and the command engine (R284 to R308). -/

/-- What the final completion of an executing command waits for. -/
inductive Wait where
  /-- the LTX_LANE_CFG changes of these line lanes (R73) -/
  | laneCfg (lanes : List Nat)
  /-- the protection state change of LANE_PROTECT action a (R73) -/
  | protect (action : Nat)
  /-- the TX shaping copy of these line lanes (R99) -/
  | shaping (lanes : List Nat)
  /-- the pattern source of these line lanes (R99) -/
  | pattern (lanes : List Nat)
  /-- the equaliser-policy effects on these line lanes (R129) -/
  | eqPolicy (lanes : List Nat)
  /-- the capture of line lane n (R129) -/
  | capture (n : Nat)
  /-- the power states requested of these line lanes: target, and the lanes still on their way (R185, R187) -/
  | laneState (target : Nat) (lanes : List Nat) (failed : List Nat) (deferredLive : Bool)
  /-- the probe of line lane n (R188) -/
  | probe (n : Nat)
  /-- the changes of these host lanes (R175): h for a transmitter, 16 + h for a receiver -/
  | hostEq (lanes : List Nat)
  /-- a Lanyard message in transmission (R228) -/
  | lanyardSend (lane : Nat)
  /-- a forwarded TXADJ request (R218) -/
  | txadj (lane : Nat) (id : Nat)
  /-- the cinch of knot slot k (R317) -/
  | knot (k : Nat)
  /-- a scheduled time set or adjust (R248) -/
  | time
  /-- the Fathom snapshots still to be written, and the lowest instance named (R373) -/
  | fathom (left : List Nat) (lowest : Nat)
  /-- the blocks under test (R405) -/
  | bist
  /-- the Rigger restart of FW_RESTART (R352) -/
  | fwRestart
  /-- a forwarded command: target gang index, and the sequence number of the forwarding (R427) -/
  | gangForward (target : Nat) (fid : Nat)
  /-- a push of the gang map to the members still to answer (R443) -/
  | gangPush (members : List Nat)
  /-- the digest of a member that is being reloaded (R443) -/
  | gangReload (target : Nat)
  /-- the discovery round asked for (R443) -/
  | gangRediscover
  /-- the slice boundary at which CAPSTAN_SET_POLICY takes effect (R154) -/
  | slice
  /-- personality code (R307) -/
  | personality
  deriving DecidableEq, Repr

/-- Progress of an outstanding command (R292, R293). -/
inductive Stage where
  | queued
  | executing (w : Wait)
  deriving DecidableEq, Repr

/-- An outstanding command: its take number, mailbox, message as taken, progress, the mailboxes of the duplicates
attached to it (R300), each with whether it locked its staging buffer, and whether the command itself did (R289). -/
structure Cmd where
  id : Nat
  m : Nat
  words : List Word
  stage : Stage := .queued
  locked : Bool := false
  /-- the duplicates attached: mailbox, staging lock, and RAW at the take -/
  dups : List (Nat × Bool × BitVec 48) := []
  /-- RAW at its take -/
  taken : BitVec 48 := 0
  deriving DecidableEq, Repr

/-- A completion entry (R294). -/
structure Cpl where
  w0 : Word
  status : Status
  orig : Status
  epoch : BitVec 16
  result : Word
  final : Bool
  m : Nat
  seq : BitVec 16
  deriving DecidableEq, Repr

/-- An event-queue entry (R298). -/
structure Evt where
  code : Nat
  lane : Nat
  seq : BitVec 16
  arg : Word
  raw : BitVec 48
  anchor : Bool
  deriving DecidableEq, Repr

/-- A completion ring: its entries oldest first, the completions generated for it, and whether its last completion
was dropped because it was full (R297). -/
structure Ring where
  entries : List Cpl := []
  gen : BitVec 16 := 0
  dropping : Bool := false
  deriving DecidableEq, Repr

/-- One tag of a replay window: the tag, the take number of its command, its final completion once posted (status
and result). -/
structure WinEntry where
  tag : BitVec 16
  id : Nat
  final : Option (Status × Word) := none
  deriving DecidableEq, Repr

/-- The command engine beyond its registers. -/
structure Mbx where
  outstanding : List Cmd := []
  nextId : Nat := 0
  /-- the mailbox from which the round robin of R290 looks next -/
  rr : Nat := 0
  host : Ring := {}
  internal : Vector Ring 3 := Vector.replicate 3 {}
  /-- the replay window of each identity, oldest tag first (R299) -/
  windows : List (Nat × List WinEntry) := []
  events : List Evt := []
  evGen : BitVec 16 := 0
  /-- allow masks that differ from the default senders of R307, by opcode (R308) -/
  policy : List (Nat × BitVec 6) := []
  /-- the policy bits of R334, as loaded or changed -/
  policyBits : BitVec 6 := 0x3C
  /-- the narrowed "Changed by" masks a personality loaded, by bit (R334): bit 1 HOST.PRIV, bit 3 RIGGER -/
  changedBy : List (Nat × BitVec 6) := []
  /-- the policy was changed since boot (R353) -/
  policyChanged : Bool := false
  deriving DecidableEq, Repr

/- SRAM and its error-correcting code (R393 to R400). -/

/-- An error-log entry (R397): which memory, the word, whether uncorrectable, the corrected bit, the first requester,
the count, RAW at the first occurrence, and its age for replacement. -/
structure EccEntry where
  mem : Nat
  addr : Word
  unc : Bool
  bit : Nat
  req : Nat
  count : Nat
  raw : BitVec 48
  age : Nat
  deriving DecidableEq, Repr

/-- ECC state beyond its registers: flipped bits of stored words by physical word address, the error log, and the
retire map (entry e ↦ retired page number). -/
structure Ecc where
  flips : List (Nat × List Nat) := []
  log : List EccEntry := []
  nextAge : Nat := 0
  retired : List Nat := []
  /-- ledger records of retirements still to be written in the background (R400) -/
  ledgerPending : List Nat := []
  deriving DecidableEq, Repr

/- Logline time (R229 to R248). Times of day are integers in units of 1/65,536 ns. -/

/-- A time stamp of an AM boundary (R243). -/
structure Stamp where
  coarse : Bool
  invalid : Bool
  seqValid : Bool
  lane : Nat
  seq : Nat
  tod : Int
  deriving DecidableEq, Repr

/-- A change of the clock (R233): rate, step or set. -/
structure TimeApply where
  rate : Option Nat := none
  step : Option Int := none
  set : Option Int := none
  deriving DecidableEq, Repr

/-- The one shared place for a pending time command (R248): TIME_SET at PPS, or TIME_ADJUST at a target time given as
ToD and, converted, as RAW (R238). -/
structure TimePend where
  cmd : Nat
  change : TimeApply
  clear : Bool
  target : Option (Int × BitVec 48)
  deriving DecidableEq, Repr

/-- One requester's holding sets (R234): the snapshot, the two queues' entries, the AON high word, the PPS capture,
and the two-way values by lane; each is the words after the one whose read captures. -/
structure Holding where
  snap : List Word := []
  txq : List Word := []
  rxq : List Word := []
  aonHi : Word := 0
  pps : List Word := []
  twoWay : List (Nat × List Word) := []
  /-- the high words captured by counter reads, by counter (R369) -/
  pmuHi : List (Nat × Word) := []
  /-- the internal ring entry popped last (R294), by ring -/
  ring : List (Nat × List Word) := []
  deriving DecidableEq, Repr

/-- Logline beyond its registers. -/
structure Tim where
  raw : BitVec 48 := 0
  /-- RAW counts: after the release of the reset, in KEEP and ACTIVE (R229) -/
  running : Bool := false
  offset : Int := 0
  aon : BitVec 40 := 0
  /-- ns since the last always-on clock edge -/
  aonPhase : Nat := 0
  /-- wraps of AON that Cleat has not yet recorded in EXT (R235) -/
  aonWraps : Nat := 0
  rawE : BitVec 48 := 0
  aE : Nat := 0
  /-- the always-on clock source changed since ANCHOR was entered (R236) -/
  srcChanged : Bool := false
  /-- applies requested while RAW is stopped, with the command that waits (R233) -/
  held : List (TimeApply × Bool × Option Nat) := []
  pend : Option TimePend := none
  holding : Vector Holding 9 := Vector.replicate 9 {}
  txq : List Stamp := []
  rxq : List Stamp := []
  twoWay : Vector (Int × Int) 9 := Vector.replicate 9 (0, 0)
  ppsTod : Int := 0
  ppsOut : Bool := false
  /-- the width of the latest PPS_OUT pulse in µs (R247) -/
  ppsWidth : Nat := 0
  /-- the last whole second that PPS_OUT marked or that a set, a step or its enable passed over (R247) -/
  ppsSec : Int := 0
  deriving DecidableEq, Repr

/- Monitors, Fathom and the performance counters (R355 to R373). -/

/-- A conversion in progress: its input, whether it is the urgent one, and the calibration latched at its start
(R356). -/
structure Conv where
  input : Nat
  urgent : Bool
  gain : Nat
  offs : Int
  deriving DecidableEq, Repr

/-- A set of Fathom counts: bins by number, samples counted, extremes, and the saturation flag (R363). -/
structure Bins where
  bins : List (Nat × Nat) := []
  count : Nat := 0
  low : Int := 0
  high : Int := 0
  sat : Bool := false
  deriving DecidableEq, Repr

/-- A Fathom instance beyond its registers (R363 to R366). -/
structure Fathom where
  active : Bins := {}
  snap : Bins := {}
  /-- the first saturation after START was posted -/
  satPosted : Bool := false
  startRaw : BitVec 48 := 0
  /-- a snapshot waits for its boundary -/
  req : Bool := false
  /-- the snapshot set is being written to SRAM -/
  writing : Bool := false
  deriving DecidableEq, Repr

/-- The monitor ADC, Fathom and the counters beyond their registers. -/
structure Mon where
  conv : Option Conv := none
  urgent : Option Nat := none
  /-- waiting triggered conversions: input, and whether due (R357) -/
  triggered : List (Nat × Bool) := []
  /-- events seen since the last conversion, by triggered input (EVERY) -/
  every : List (Nat × Nat) := []
  /-- slots of the sequencer round still to convert -/
  slots : List Nat := []
  /-- a sequencer round is due and waits for the previous one -/
  roundLate : Bool := false
  /-- Cleat has set REF_EN at boot and sets SEQ_EN when the reference is ready (R358) -/
  bootSeq : Bool := false
  /-- REF_EN as it stood when ANCHOR was reached; in ANCHOR it is 1 only around each round (R359) -/
  refKept : Bool := false
  /-- by window: the zone of the latest result and how many results in a row lay there (R361) -/
  runs : List (Nat × (Nat × Nat)) := []
  fathom : Vector Fathom 32 := Vector.replicate 32 {}
  counters : List (Nat × BitVec 48) := []
  copy : List (Nat × BitVec 48) := []
  /-- count of the watched counter when each sampler was armed (R371) -/
  samplerBase : Vector (BitVec 48) 4 := Vector.replicate 4 0
  deriving DecidableEq, Repr

/- Firmware and trust (R331 to R354). -/

/-- OTP and fuses (R336), the factory's programming of this device; hashes are SHA-384 values, 0 in an unprogrammed
slot. DESIGN CHOICE, log 11. -/
structure Otp where
  vendor : Vector (BitVec 384) 4 := Vector.replicate 4 0
  vendorSet : BitVec 4 := 0
  revoked : BitVec 4 := 0
  maker : Vector (BitVec 384) 2 := Vector.replicate 2 0
  makerSet : BitVec 2 := 0
  rigger : Nat := 0
  pers : Nat := 0
  patch : Nat := 0
  screening : Byte := 0
  /-- sideband profile: discrete, or multi-level (R254) -/
  discrete : Bool := false
  provId : BitVec 48 := 0
  /-- MON_INc_CAL of the inputs that OTP calibrates (R355), by input, 0 where none is listed -/
  cal : List (Nat × Word) := []
  compat : Bool := false
  dbgLock : Bool := false
  dbgPermanent : Bool := false
  password : Word := 0
  deriving DecidableEq, Repr

/-- A boot record copy (R337): valid CRC, sequence number, committed slot (true: B), validity of the staged
personality. -/
structure BootRec where
  ok : Bool := false
  seq : Nat := 0
  slotB : Bool := false
  stagedValid : Bool := false
  deriving DecidableEq, Repr

/-- An open download (R348): the announced length, and the header's image type once its header has arrived. -/
structure Download where
  len : Nat
  deriving DecidableEq, Repr

/-- A flash write of a completed download in progress: image type, and where it goes. -/
structure FlashWrite where
  type : Nat
  slotB : Bool
  len : Nat
  deriving DecidableEq, Repr

/-- A Rigger restart in progress (R346): its cause, the slot it starts, the slot it came from, whether it was asked
for by CDB Run, the FW_RESTART that waits, and whether the image has been loaded and checked. -/
structure Restart where
  cause : Nat
  slotB : Bool
  prev : Bool
  run : Bool
  cmd : Option Nat
  loaded : Bool := false
  /-- the image asked for has failed, and the previous slot is started instead -/
  back : Bool := false
  deriving DecidableEq, Repr

/-- Levels of the test port (R354). -/
inductive Debug where
  | locked | debug | factory
  deriving DecidableEq, Repr

/-- Firmware, boot and trust beyond the registers. -/
structure Fw where
  epoch : BitVec 16 := 0
  serial : BitVec 64 := 0
  /-- Cleat ROM revision -/
  rom : Word := 0
  /-- Rigger has reported ready and runs; a Rigger core is running code at all -/
  running : Bool := false
  released : Bool := false
  /-- personality code runs in Rigger; a personality has passed R340 at boot -/
  persLoaded : Bool := false
  otp : Otp := {}
  /-- flash bytes that differ from FFh, by offset (R337, R408) -/
  flash : List (Nat × Byte) := []
  boot : Vector BootRec 2 := Vector.replicate 2 {}
  /-- slot that runs (true: B), the slot the last Complete wrote, and whether the staged personality runs -/
  slotB : Bool := false
  completed : Option Bool := none
  stagedRuns : Bool := false
  patchApplied : Bool := false
  download : Option Download := none
  write : Option FlashWrite := none
  restart : Option Restart := none
  restarts : BitVec 16 := 0
  /-- restarts with causes 3 to 5 in the order of their coming: slot, and RAW (R347) -/
  faults : List (Bool × BitVec 48) := []
  /-- Rigger runs the other slot after cause 0x06 -/
  fellBack : Bool := false
  /-- Rigger has reported ready since its start, so that the watchdog runs where it is enabled (R345), and RAW when its
  period last started -/
  wdog : Bool := false
  wdogAt : BitVec 48 := 0
  /-- declarations in force: opcodes 0xE0 + j by bit j, L8 present, media code (R39), host password -/
  opcodes : BitVec 32 := 0
  l8 : Bool := false
  media : Byte := 0
  /-- PIC sensor input that gives the module temperature, 0 for the hottest die sensor (R265) -/
  tempInput : Nat := 0
  password : Word := 0
  /-- the password a host has stored in flash (R344); the certificate in flash (R353) -/
  pwFlash : Option Word := none
  cert : List Byte := []
  debug : Debug := .locked
  debugFails : Nat := 0
  boundaryScan : Bool := false
  deriving DecidableEq, Repr

/- Knots (R309 to R330). The state and outcome of a slot are its registers. -/

/-- A staged entry. -/
structure KEntry where
  addr : Nat
  data : Word
  deriving DecidableEq, Repr

/-- A participant of a gang cinch (R327): its gang index, the handle of its knot, the status it answered with (0 for
PREPARED), COMMIT acknowledged, and how it ended. -/
structure KPart where
  idx : Nat
  handle : Nat
  answer : Option Nat := none
  acked : Bool := false
  applied : Bool := false
  diverged : Bool := false
  deriving DecidableEq, Repr

/-- A knot slot beyond its registers. -/
structure Knot where
  /-- its entries, in staging order, until the slot is FREE -/
  entries : List KEntry := []
  /-- the KNOT_CINCH that works on it, and whether its checks still run (R318) -/
  cmd : Option Nat := none
  checking : Bool := false
  /-- blocks that its entries target, held until the slot is FREE (R323) -/
  held : List Nat := []
  /-- the target of a TIME or GANG cinch, as ToD and as RAW; it lay less than 5 µs ahead at the take (R319) -/
  target : Option (Int × BitVec 48) := none
  late : Bool := false
  /-- a gang cinch: this device leads it; PREPARE has been sent; COMMIT has; the knot of the leader has applied -/
  leads : Bool := false
  asked : Bool := false
  committed : Bool := false
  applied : Bool := false
  parts : List KPart := []
  deriving DecidableEq, Repr

structure Knt where
  slots : Vector Knot 8 := Vector.replicate 8 {}
  deriving DecidableEq, Repr

/- Hawser links and gangs (R412 to R443). -/

/-- What a Hawser frame says (R419). -/
inductive HwMsg where
  | link (chan credits : Nat) (replay : Option Byte)
  | training (pre post : Fin 3) (tapPre tapPost : Nat) (done atLimit : Bool)
  | caps (bytes : List Byte)
  | syncReq
  | syncResp (t2 t3 : Int) (e : Nat) (coarse invalid : Bool)
  | assign (next : Nat) (leader : BitVec 64) (epoch : BitVec 16)
  | done (r : AssignReply)
  | status (st : HwStatus)
  | prepare (t : Int) (handle : Nat)
  | prepared (handle : Nat)
  | refused (handle status : Nat)
  | commit (handle : Nat)
  | abort (handle : Nat)
  | applied (handle : Nat)
  | epoch (e d : Word) (rigger rom : Byte)
  | parameters (tol syncPer : Nat)
  | gangList (l : List Word)
  | dropped (src dst type : Nat) (tag : BitVec 16)
  | msg (bytes : List Byte) (first last : Bool)
  | push (offset : Nat) (bytes : List Byte) (last : Bool)
  | taken (tag : BitVec 16)
  | completion (c : Cpl) (staged : List Byte) (first last : Bool)
  deriving DecidableEq, Repr

/-- A frame handed to a port's transmitter: the port, its header fields, and its content. -/
structure HwSend where
  port : Nat
  src : Nat
  dst : Nat
  hops : Nat := 0
  lseq : Byte := 0
  msg : HwMsg
  deriving DecidableEq, Repr

/-- A symbol of the line: data, a K symbol named by its byte, or a code group that is none of the code's. -/
inductive HwSym where
  | data (b : Byte)
  | k (b : Byte)
  | bad
  deriving DecidableEq, Repr

/-- One reliable channel of a port (R421): request or acknowledgement. -/
structure HwChan where
  txSeq : Byte := 0
  rxSeq : Byte := 0
  credits : Nat := 0
  /-- the last 16 frames sent, oldest first, and those that wait for a credit -/
  replay : List HwSend := []
  waiting : List HwSend := []
  /-- replays in a row without success -/
  tries : Nat := 0
  deriving DecidableEq, Repr

/-- A Hawser port beyond its registers. -/
structure HwPort where
  /-- training (R417): requests made by this end; each end has reported done -/
  requests : Nat := 0
  mine : Bool := false
  theirs : Bool := false
  caps : List Byte := []
  capsIn : Bool := false
  creditIn : Bool := false
  /-- request and acknowledgement channels -/
  req : HwChan := {}
  ack : HwChan := {}
  /-- gang indexes reached through this port as a child port: first and last -/
  child : Option (Nat × Nat) := none
  /-- the line out (R412, R414): running disparity, symbols since the last skip set, the code groups of the last frame -/
  txRd : Bool := false
  txSince : Nat := 0
  line : List (BitVec 10) := []
  /-- the line in: running disparity, ages of the code errors of the last 1,024 symbols, symbols since a K28.5, and whether a
  skip set is coming in -/
  rxRd : Bool := false
  rxErrs : List Nat := []
  rxComma : Nat := 0
  rxSkip : Bool := false
  /-- the elastic buffer, whether a skip set is leaving it, and the frames under way behind it, the innermost first (R414,
  R420); one with a code error is none -/
  elastic : List HwSym := []
  outSkip : Bool := false
  frames : List (Option (List Byte)) := []
  deriving DecidableEq, Repr

/-- What the leader knows of a member (R426, R442). -/
structure Member where
  idx : Nat
  serial : BitVec 64
  depth : Nat
  up : Nat
  version : Word
  rom : Word
  epoch : Word
  digest : Word
  e : Nat
  ports : Byte
  diverged : Bool
  quarantine : Bool
  suspect : Bool
  suspectDepth : Bool
  deriving DecidableEq, Repr

/-- A discovery run at the leader, or the pass of a member's subtree (R424): ports still to try, the port whose answer
is awaited, and next. -/
structure Disc where
  ports : List Nat
  await : Option Nat
  next : Nat
  deriving DecidableEq, Repr

/-- A command forwarded to a member (R427, R428): the take number of the GANG_FORWARD, the target, and the forwarding
tag. -/
structure Forward where
  cmd : Nat
  target : Nat
  tag : BitVec 16
  /-- the target has taken it -/
  taken : Bool := false
  deriving DecidableEq, Repr

/-- A reload of a member by this leader (R434): the member, the tag of the command forwarded last, how far it has come (1
open, 2 stage, 3 cinch), and the handle of the member's knot. -/
structure Reload where
  target : Nat
  tag : BitVec 16
  stage : Nat
  handle : Nat := 0
  deriving DecidableEq, Repr

/-- Hawser and the gang beyond the registers. DESIGN CHOICE, log 120. -/
structure Hws where
  ports : Vector HwPort 3 := Vector.replicate 3 {}
  /-- frames sent, in order -/
  sent : List HwSend := []
  /-- indexed in the run of epoch DISC_STAT.EPOCH, under this leader; none while alone -/
  leader : Option (BitVec 64) := none
  disc : Option Disc := none
  /-- the answers of the run met so far: OTHER, FULL -/
  metOther : Bool := false
  metFull : Bool := false
  /-- the members known, the leader's own record excepted, and those of the run before -/
  members : List Member := []
  before : List Member := []
  /-- a topology report waits for its run (R426) -/
  report : Bool := false
  gangList : List Word := []
  /-- members whose epoch lagged at the last broadcast, until they report -/
  lagging : List Nat := []
  /-- an image pushed to this device (R435): 0 none, 1 its flash write, 2 its Run -/
  pushed : Nat := 0
  /-- members being reloaded by this leader -/
  reloads : List Reload := []
  /-- the leader's digest, as its last EPOCH said -/
  leadDigest : Option Word := none
  fwdTag : BitVec 16 := 0
  forwards : List Forward := []
  /-- messages that wait for an empty peer mailbox: the port they came by, words, extended payload (R428) -/
  inbox : List (Nat × List Word × List Byte) := []
  /-- segments of messages and of staged results that await their last: port and source, and for the second the
  completion's word 0 (R427, R428) -/
  parts : List (Nat × Nat × List Byte) := []
  staged : List (Nat × Nat × Word × List Byte) := []
  /-- the leader's major versions, of Rigger and of the Cleat ROM, as its last EPOCH said (R435) -/
  majors : Option (Byte × Byte) := none

  /-- time discipline of a follower (R431 to R433): t1 of the exchange open; the servo's sums, in 1/65,536 ns and as
  RATE; exchanges in a row within 2 ns; exchanges in a row good enough to clear the mark -/
  t1 : Option Int := none
  integ : Int := 0
  rate0 : Nat := 4294967296
  stepped : Bool := false
  close : Nat := 0
  clear : Nat := 0
  upE : Nat := 0
  e : Nat := 0
  deriving DecidableEq, Repr

/- CMIS management (R249 to R283). -/

/-- CMIS module states (R260); noAnswer during MgmtInit. -/
inductive ModState where
  | noAnswer | lowPwr | pwrUp | ready | pwrDn | fault
  deriving DecidableEq, Repr

/-- CMIS data-path states (R261). -/
inductive DpState where
  | deactivated | init | initialized | txTurnOn | activated | txTurnOff | deinit
  deriving DecidableEq, Repr

/-- A data path: its host and line lanes, the mode of its line lanes with their sources, and its state. -/
structure DataPath where
  host : List Nat
  line : List Nat
  cfg : List (Nat × Word)
  state : DpState := .deactivated
  /-- it could not reach ARMED and is not retried until the host sets DPDeinit or applies anew (R262) -/
  gaveUp : Bool := false
  deriving DecidableEq, Repr

/-- The register window of page B0h (R274). -/
structure Window where
  addr : Word := 0
  wdata : Word := 0
  rdata : Word := 0
  status : Nat := 0
  autoInc : Bool := false
  /-- the access under way: its status, and the word of a read -/
  held : Option (Nat × Option Word) := none
  deriving DecidableEq, Repr

/-- The CDB instance (R271, R272): busy with a command, and the CMIS status of the last one with its vendor byte. -/
structure Cdb where
  busy : Option Nat := none
  status : CdbStatus := .success
  vendor : Nat := 0
  reply : List Byte := []
  deriving DecidableEq, Repr

/-- A statistic of VDM over a data-path interval (R368): the totals of its source at the latest sample; errors and bits of
the interval; the samples of the least and the greatest ratio; and the latest sample. -/
structure VdmStat where
  errs : Nat := 0
  bits : Nat := 0
  num : Nat := 0
  den : Nat := 0
  low : Option (Nat × Nat) := none
  high : Option (Nat × Nat) := none
  cur : Nat × Nat := (0, 0)
  deriving DecidableEq, Repr

/-- The management interface. DESIGN CHOICE, log 12. PRESUMED, log 73. -/
structure Cmis where
  mod : ModState := .noAnswer
  faultCause : Nat := 0
  page : Byte := 0
  bank : Byte := 0
  /-- the address at which a read without an offset continues (R249) -/
  addr : Nat := 0
  /-- control bytes that software has written, by bank × 65,536 + page × 256 + offset, 00h where none is listed -/
  bytes : List (Nat × Byte) := []
  /-- latched flags and sources that the module reports, by the same key -/
  flags : List (Nat × Byte) := []
  priv : Bool := false
  /-- I3C: dynamic address, and the two lengths -/
  dynAddr : Option (BitVec 7) := none
  mwl : Nat := 128
  mrl : Nat := 128
  /-- pins: MODSEL_N, LPWn or LPMODE, the interrupt -/
  modselHigh : Bool := true
  lowPin : Bool := false
  /-- SB0 was decided low last: its low zone, or RESET_N low -/
  rstLow : Bool := false
  irq : Bool := false
  paths : List DataPath := []
  /-- OutputDisableTx by line lane -/
  outDis : List Nat := []
  /-- ConfigStatus by host lane -/
  config : List (Nat × ConfigStatus) := []
  /-- latched turn-on failures by line lane (R262) -/
  failed : List Nat := []
  /-- CMIS monitor values, by monitor and lane -/
  monitors : List (Nat × Nat) := []
  /-- VDM freeze-done and unfreeze-done; the statistics of VDM by kind and lane, RAW at their latest sample, and the
  observables as the freeze found them (R367, R368) -/
  frozen : Bool := false
  unfrozen : Bool := false
  vdm : List (Nat × VdmStat) := []
  vdmAt : BitVec 48 := 0
  vdmHeld : List Nat := []
  window : Window := {}
  cdb : Cdb := {}
  /-- host writes logged while Rigger is stopped: bank, page, offset, bytes (R269) -/
  log : List (Nat × Nat × Nat × List Byte) := []
  /-- Fathom and counter windows: copied bytes and the copy's status (R279, R282) -/
  fathom : List Byte := []
  perf : List Byte := []
  perfStatus : Nat := 0
  deriving DecidableEq, Repr

/- Power, reset and self-test (R374 to R411). -/

/-- How far an ANCHOR entry has come (R377). -/
inductive Entry where
  | idle | halting | window
  deriving DecidableEq, Repr

/-- Power beyond the registers. -/
structure Pwr where
  /-- VIN is valid; a POR or AON reset is asserted -/
  vin : Bool := false
  held : Bool := true
  /-- how far an ANCHOR entry has come (R377) -/
  entry : Entry := .idle
  /-- wake under way: its code, and the AON count at entry (R379) -/
  wake : Option Nat := none
  /-- always-on cycles in the sleep under way or just ended, in ms for event 0x0C -/
  slept : Nat := 0
  /-- a POR or AON reset has found the MEMS reference missing -/
  rcStart : Bool := false
  /-- PWR_BLK_EN bits to clear once a knot lets go, and bits re-enabled that come up (R382) -/
  disable : List Nat := []
  enable : List Nat := []
  /-- ms in ANCHOR, KEEP and ACTIVE since boot, in ns -/
  nsAnchor : Nat := 0
  nsKeep : Nat := 0
  nsActive : Nat := 0
  deriving DecidableEq, Repr

/-- A record of BIST_RESULT SELECT 0 (R407): outcome, µs, and three measures. -/
structure BstRec where
  outcome : Nat := 0
  us : Nat := 0
  m0 : Word := 0
  m1 : Word := 0
  m2 : Word := 0
  deriving DecidableEq, Repr

/-- Self-test and service life beyond the registers. -/
structure Bst where
  /-- the running BIST_RUN, if its command is still outstanding, and the blocks still to test, lowest first -/
  cmd : Option Nat := none
  left : List Nat := []
  fail : Nat := 0
  recs : Vector BstRec 22 := Vector.replicate 22 {}
  /-- spare rows and columns used, by bank -/
  spares : List (Nat × (Nat × Nat)) := []
  /-- repair ledger (R409): records of the current half, oldest first, and which half is current -/
  ledger : List (List Byte) := []
  half : Nat := 0
  ledgerSeq : Nat := 0
  /-- engines and lanes held out by a start-up failure (R403) -/
  engOut : List Nat := []
  laneOut : List Nat := []
  safe : Bool := false
  /-- and Rigger is not released (R404) -/
  noRigger : Bool := false
  /-- lifetime counters by 4-byte word of the record (R410), as they count and as last appended; the sequence, ring
  position, and minutes since the last append -/
  life : List (Nat × Word) := []
  lifeSaved : List (Nat × Word) := []
  lifeSeq : Nat := 0
  lifePos : Nat := 0
  lifeAge : Nat := 0
  deriving DecidableEq, Repr
/- The line and host lanes (R35 to R129, R155 to R175). Which host lanes feed which line lane is LTX_LANE_CFG; locks,
counts and pending bits are the registers' own fields. -/

/-- The search of one AM framer: a first group was found one period before (R474), and the due positions missed in a
row since the last valid group. -/
structure Search where
  found : Bool := false
  missed : Nat := 0
  deriving DecidableEq, Repr

/-- The settings that a symbol is sent with (R79): taps and pre-distortion in the layout of LTX_FIR_TAPm and LTX_PD_ENTq,
the main cursor, PD_EN and POL_INV. -/
structure TxSet where
  taps : List Word := [0, 0x1000000, 0, 0, 0, 0, 0, 0]
  pd : List Word := List.replicate 16 0
  main : Nat := 3
  pdEn : Bool := false
  inv : Bool := false
  deriving DecidableEq, Repr

/-- A symbol in stages 5 to 9 of a transmitter (R79): its level, the raw code that SRC 6 sends in its place (R95), its
Lanyard sample in DAC LSBs, and the settings it is sent with. -/
structure TxSym where
  level : Nat := 0
  raw : Option Int := none
  lyd : Rat := 0
  set : TxSet := {}
  deriving DecidableEq, Repr

/-- A line transmitter beyond its registers: the pending LTX_LANE_CFG, the framers of its two streams, the active set
of everything that changes at a boundary, calibration, and the reasons to squelch. -/
structure Ltx where
  pendCfg : Word := 0
  a : Search := {}
  b : Search := {}
  /-- active LTX_MAP_CFG (R84) -/
  mapAct : Nat := 0
  /-- active swing, and the hold at differential zero after a change (R89) -/
  swingAct : Nat := 0x14
  swingHold : Bool := false
  /-- active taps and pre-distortion, in the layout of LTX_FIR_TAPm and LTX_PD_ENTq (R82) -/
  taps : List Word := [0, 0x1000000, 0, 0, 0, 0, 0, 0]
  pd : List Word := List.replicate 16 0
  /-- active pattern source (R95) -/
  patSrc : Nat := 0
  /-- the subcarrier as it is being added (R88) -/
  lydEn : Bool := false
  lydDepth : Nat := 12
  /-- calibration in use, as measured at boot, and waiting for the boundary, by kind (R98), and the kinds measured since
  the boot -/
  cal : List (Nat × Word) := []
  calBoot : List (Nat × Word) := []
  calKinds : List Nat := []
  calPend : List (Nat × Word) := []
  revert : Bool := false
  /-- consecutive estimates in which each bin exceeded its limit (R86) -/
  maskRuns : List Nat := List.replicate 32 0
  /-- squelched for want of host framing (R74, R476, R46), and for want of a ready PLL (R93) -/
  sqFrame : Bool := false
  sqPll : Bool := false
  /-- the shadow as it stood before the complete update that waits for the boundary (R83) -/
  shadow : Option (List Word) := none
  /-- RAW time and stamp of the latest two TX AM boundaries, the latest first (R215, R220) -/
  amLog : List (BitVec 48 × Stamp) := []
  /-- the precoder's last output P (R77) -/
  pre : Nat := 0
  /-- the codeword last sent with injected errors (R76), and by stream the codewords since the last injection -/
  sent : BitVec 128 := 0
  injA : Nat := 0
  injB : Nat := 0
  /-- fill of the elastic buffers of streams A and B, and the centres that R74 measures them from, in host UI -/
  fillA : Int := 0
  fillB : Int := 0
  centreA : Int := 0
  centreB : Int := 0
  /-- blocks of either stream that wait for a slot, and whether the next slot is stream B's (R47) -/
  qa : List (BitVec 128) := []
  qb : List (BitVec 128) := []
  slotB : Bool := false
  /-- released decisions that replace the transmit input in a media input loop-back (R189), by stream; in L100 the bits
  of the next block -/
  loopA : List (BitVec 128) := []
  loopB : List (BitVec 128) := []
  loopBits : List Bool := []
  /-- the pattern generator (R95, R96): its shift register, the symbols sent of the pattern, and the stored range in
  64-byte units as it stood when the source changed -/
  lfsr : Nat := 0
  patPos : Nat := 0
  patBase : Nat := 0
  patLen : Nat := 1
  /-- the last 28 symbols, the newest last: the fifteenth is the next to be converted, whose FIR context they are -/
  tail : List TxSym := List.replicate 28 {}
  /-- DAC codes of the symbols converted by the latest command, and the values of v in the monitor's interval (R85) -/
  out : List Int := []
  vs : List Rat := []
  /-- the estimate in progress (R85): blocks taken, and the sums of the bins' squared magnitudes and of the mean square -/
  maskBlocks : Nat := 0
  maskBins : List Rat := []
  maskPow : Rat := 0
  /-- symbols since the last Lanyard symbol boundary (R198) -/
  lydT : Nat := 0
  deriving DecidableEq, Repr

/-- A TX PLL (R90 to R93): the fields that LTX_PLL_STAT of its lanes shows, whether HOLDOVER has lasted over 1 ms,
whether LOCKING is the relock after a loss, and whether it follows a recovered receive clock (R189). -/
structure TxPll where
  state : Nat := 0
  ready : Bool := false
  band : Nat := 0
  ref : Nat := 0
  long : Bool := false
  relock : Bool := false
  rxRef : Bool := false
  deriving DecidableEq, Repr

/-- An equaliser set: FFE taps, main-cursor index, and the MLSE reference table or, for a host lane, the DFE tap. -/
structure EqSet where
  taps : List Int := []
  main : Nat := 0
  refs : List Int := []
  deriving DecidableEq, Repr

/-- A pattern checker (R127): the register of a PRBS, the symbols it is seeded with so far; for SSPRQ and the square wave
the place in the sequence once found, and until then the latest levels; error-free symbols in a row; and the symbols since
each error of the last 1,024 symbols. -/
structure Chk where
  reg : Nat := 0
  seen : Nat := 0
  pos : Option Nat := none
  recent : List Nat := []
  run : Nat := 0
  errs : List Nat := []
  deriving DecidableEq, Repr

/-- A line receiver beyond its registers. -/
structure Lrx where
  /-- the last 47 ADC codes, the newest first (R108), and the z values that wait for the stage-1 estimate, the oldest
  first (R207) -/
  line : List (BitVec 8) := List.replicate 47 0
  zq : List Int := []
  /-- the two levels decided last, the newest first -/
  lv : List Nat := [0, 0]
  /-- timing recovery (R111): tracked offset in 0.01 ppm, phase in UI, and the z and the level before -/
  trFreq : Rat := 0
  trPhase : Rat := 0
  trZ : Rat := 0
  trRef : Nat := 0
  /-- symbols decided at each level since the last TELEMETRY, and the sums of their z and e² (R214) -/
  lvN : List Nat := [0, 0, 0, 0]
  lvZ : List Rat := [0, 0, 0, 0]
  lvE : List Rat := [0, 0, 0, 0]
  chk : Chk := {}
  /-- the capture's trigger has come; bytes written after the trigger was taken (R128) -/
  capTrig : Bool := false
  capPost : Nat := 0
  a : Search := {}
  b : Search := {}
  /-- the active MANUAL of the TIA (R101) -/
  manAct : Bool := false
  /-- a RETRIM measures; then its gain waits for the boundary (R103) -/
  retrimming : Bool := false
  gainPend : Option Nat := none
  /-- pending equaliser set, held while LRX_EQ_STAT.PEND is 1 (R109) -/
  eqPend : EqSet := {}
  /-- active MEM and PH_OFFS (R111, R112) -/
  memAct : Nat := 0
  phAct : Nat := 0
  /-- measured coefficients of the sub-ADC out of service, and by sub-ADC those in use and those first measured after
  boot (R106, R126) -/
  adcPend : Option Word := none
  adcCoef : List (Nat × Word) := []
  adcBoot : List (Nat × Word) := []
  /-- calibration in use and as measured at boot, by kind (R126); the kinds measured since the boot; results waiting -/
  cal : List (Nat × Word) := []
  calBoot : List (Nat × Word) := []
  calKinds : List Nat := []
  calPend : List (Nat × Word) := []
  revert : Bool := false
  /-- LOL is not evaluated until LOS first deasserts, and after a mode change until timing first locks (R124) -/
  lolHeld : Bool := true
  lolMode : Bool := false
  /-- the far end lies outside the rotator's range (R19) -/
  outOfRange : Bool := false
  /-- Winch visits since event 3 of R118, up to four -/
  visits : Nat := 0
  /-- next byte of the capture region, and bytes written since ARM (R128) -/
  capPos : Nat := 0
  capCount : Nat := 0
  /-- the last 64 RX AM boundaries: the time of each, and its stamp (R215, R221) -/
  history : List (BitVec 48 × Stamp) := []
  /-- no RX AM boundary has come since lock was acquired; boundaries of the history that have (R215) -/
  first : Bool := true
  sinceLock : Nat := 0
  deriving DecidableEq, Repr

/-- A host lane beyond its registers. -/
structure Hst where
  /-- the last 31 ADC codes, the newest first, and the level decided last (R158) -/
  line : List (BitVec 8) := List.replicate 31 0
  dec : Nat := 0
  chk : Chk := {}
  /-- the pattern generator (R169): its register and the symbols sent of the pattern -/
  lfsr : Nat := 0
  patPos : Nat := 0
  /-- the last five levels sent, the newest first, and the output voltages that the latest command gave, in mV (R163) -/
  tail : List Nat := List.replicate 5 0
  out : List Rat := []
  /-- decisions of its receiver that an input loop-back has still to send (R170) -/
  loop : List Nat := []
  /-- the shadow, with MANUAL, as it stood before the complete update that waits for the boundary (R175) -/
  shadow : Option (List Word) := none
  rx : Search := {}
  /-- CTLE search in progress: the code under measurement and the best eye so far with its code (R157) -/
  search : Option (Nat × Nat × Nat) := none
  eqPend : EqSet := {}
  dfeAct : Bool := true
  /-- active transmitter set (R164) -/
  fir0 : Word := 0x2000000
  fir1 : Word := 0
  swing : Nat := 0x32
  /-- squelch causes 2, 3 and 4 of R167 as they hold the output -/
  c2 : Bool := false
  c3 : Bool := false
  c4 : Bool := true
  /-- active pattern source (R169) -/
  patSrc : Nat := 0
  /-- the CDR is locked (R160); LOL is held at 0 until it first locks at a new rate (R475) -/
  cdr : Bool := false
  lolHeld : Bool := false
  /-- its mode before an intermediate map left it without a delivering line lane, 0 where none has (R44) -/
  held : Nat := 0
  visits : Nat := 0
  /-- the HST_RSM counters as they count (R172): CW, CORR_CW, CORR_SYM, UNCORR, LANE_SYM -/
  rsm : Vector (BitVec 48) 5 := Vector.replicate 5 0
  deriving DecidableEq, Repr

/-- Winch (R119 to R123): the receiver being visited, whether that visit's result is spoiled, and by receiver the
figure of merit in 0.1 dB, the error variance of its last visit, and whether AUTO has reached its tracking step. -/
structure Winch where
  /-- the first slot since CORE powered up has started -/
  started : Bool := false
  visiting : Option Nat := none
  /-- as the visit started: its mode is FROZEN, its step exponent MU, and the set it builds on (R120, R121) -/
  hold : Bool := false
  mu : Nat := 0
  base : EqSet := {}
  /-- as the training block was captured: the active set, MEM or DFE_EN, and the stage-1 estimates (R121, R159, R207) -/
  act : EqSet := {}
  mem2 : Bool := false
  dfe : Bool := false
  est : List Int := []
  spoiled : Bool := false
  /-- it began before event 3 of the receiver's acquisition, and does not count towards event 4 (R118, R160) -/
  early : Bool := false
  fom : List (Nat × Rat) := []
  sigma2 : List (Nat × Rat) := []
  track : List (Nat × Bool) := []
  /-- by host receiver, of its latest visit: for each level decided the symbols, the sum of y and that of e² (R368) -/
  levels : List (Nat × List (Nat × Rat × Rat)) := []
  deriving DecidableEq, Repr

/-- The protection of one line lane by L8 (R60 to R72). The open agreement is LYD_AGREE_SEQ and LYD_AGREE_STAT. -/
structure Prot where
  lane : Nat := 0
  onFom : Bool := false
  onRatio : Bool := false
  onEmergency : Bool := false
  lead : Nat := 48
  /-- the cause to record when the open agreement succeeds, and whether it asks for a revert -/
  cause : Nat := 0
  revert : Bool := false
  nextId : BitVec 8 := 0
  /-- an emergency switch waits for L8's boundary (R70); a selection return for Ln's (R72) -/
  emergency : Bool := false
  returning : Bool := false
  /-- the far end confirmed over HELLO; Δ has been measured -/
  confirmed : Bool := false
  measured : Bool := false
  /-- Δ as measured, in ns (R63); as frozen at the switch (R146) -/
  delta : Int := 0
  deltaS : Int := 0
  /-- trigger state of R151 to R153 -/
  fomLow : Nat := 0
  fomReady : Bool := true
  ratioReady : Bool := true
  windowLeft : Nat := 0
  /-- the window in progress began before the latest revert -/
  windowOld : Bool := false
  windowRet : BitVec 48 := 0
  windowWst : BitVec 48 := 0
  /-- disarming: L8 is on its way to OFF -/
  disarming : Bool := false
  deriving DecidableEq, Repr

/-- All lanes. -/
structure Lanes where
  tx : Vector Ltx 9 := Vector.replicate 9 {}
  rx : Vector Lrx 9 := Vector.replicate 9 {}
  host : Vector Hst 16 := Vector.replicate 16 {}
  pll : Vector TxPll 5 := Vector.replicate 5 {}
  /-- line lanes in the order in which their configuration took effect, latest first (R44) -/
  order : List Nat := [0, 1, 2, 3, 4, 5, 6, 7]
  winch : Winch := {}
  prot : Prot := {}
  deriving DecidableEq, Repr

/- Optical front-end control (R176 to R196) and the power-grant token (R386, R438 to R440). -/

/-- Waveform playback: the next entry, and the repetitions left (none: until STOP). -/
structure Play where
  entry : Nat
  left : Option Nat
  /-- it is the shaped turn-on ramp of R182 -/
  turnOn : Bool := false
  deriving DecidableEq, Repr

/-- An output channel beyond its registers: its target as loaded, the code staged for the strobe, the slewed value, the
heater current in use (R180), the laser range in use, and the playback. -/
structure Chan where
  target : Nat := 0
  staged : Nat := 0
  slewed : Nat := 0
  ilim : Nat := 0
  range : Nat := 1
  /-- the RANGE sequence of R179: the range to switch to once the output is at 0; then the ramp up runs -/
  rangeNew : Option Nat := none
  rangeUp : Bool := false
  play : Option Play := none
  /-- the entry of an ABS waveform being played, and whether playback ended at the latest tick -/
  absTarget : Option Nat := none
  ended : Bool := false
  /-- a laser output is high-impedance: from power-on to its first code, and from a cut to its next ramp (R177, R194) -/
  hiZ : Bool := true
  deriving DecidableEq, Repr

/-- A probe asked for or running (R188). -/
structure Probe where
  kind : Nat
  src : Nat
  ret : Nat
  held : Bool
  deriving DecidableEq, Repr

/-- Optical control of one lane beyond its registers: the state last requested (R190), the probe, the RAW times of the
faults of the last 60 s, and the lock-in loop's sums. -/
structure Olc where
  last : Nat := 0
  probe : Option Probe := none
  faults : List (BitVec 48) := []
  /-- a request ended while its ramp waited for the token: the laser output holds until the next request (R186) -/
  rampHeld : Bool := false
  lockSum : Int := 0
  lockPeriods : Nat := 0
  lockQuiet : Nat := 0
  deriving DecidableEq, Repr

/-- A step that needs the power-grant token (R386). -/
inductive PStep where
  | vcore | core | vdrv | vlas
  | hst (q : Nat)
  | ltx (p : Nat)
  | lrx (n : Nat)
  | ramp (n : Nat)
  deriving DecidableEq, Repr

/-- The power-grant wires and steps, and what is powered. -/
structure Grant where
  /-- PGTKI reads high; it lies above 2.6 V, so that the device is the head -/
  tkIn : Bool := false
  head : Bool := false
  tkOut : Bool := false
  /-- other devices pull PGREQ low -/
  reqIn : Bool := false
  /-- the device has passed the token in this round -/
  passed : Bool := false
  pending : List PStep := []
  /-- RAW when each pending step came up -/
  since : List (PStep × BitVec 48) := []
  running : Option PStep := none
  /-- rails and datapaths powered -/
  on : List PStep := []
  deriving DecidableEq, Repr

/-- The optical block. -/
structure Optics where
  lane : Vector Olc 9 := Vector.replicate 9 {}
  chan : Vector Chan 45 := Vector.replicate 45 {}
  grant : Grant := {}
  deriving DecidableEq, Repr

/- The Lanyard (R197 to R228). -/

/-- A Lanyard frame queued on a lane: its TYPE and content bytes. -/
structure LFrame where
  type : Nat
  content : List Byte
  deriving DecidableEq, Repr

/-- A USER message in reassembly (R226): identity, fragment count, and the fragments received by index. -/
structure UserRx where
  id : Nat
  count : Nat
  frags : List (Nat × List Byte)
  deriving DecidableEq, Repr

/-- The decimation chain of a Lanyard receiver (R201 to R205): the CIC's integrators and combs modulo 2^75 and the symbols
since its last output; the memories of the filters, the newest value first, and whether their next value gives an output;
the latest stage-1 outputs, the newest first; outputs since the start, up to 40; and the outputs that the latest command
delivered. Stage outputs have 17 fractional bits. -/
structure Chain where
  integ : List Nat := List.replicate 5 0
  comb : List Nat := List.replicate 5 0
  phase : Nat := 0
  hb1 : List Int := List.replicate 11 0
  hb1Odd : Bool := false
  hb2 : List Int := List.replicate 19 0
  hb2Odd : Bool := false
  fir : List Int := List.replicate 63 0
  firOdd : Bool := false
  est : List Int := List.replicate 12 0
  count : Nat := 0
  out : List Int := []
  deriving DecidableEq, Repr

/-- The Viterbi decoder (R208): the metric of each of the 64 states and the last 64 bits on the way to it, the newest
first; the soft value that waits for the second of its pair; the hard decisions of the pairs not yet delivered, the newest
first; and the last six bits delivered. -/
structure Vit where
  metric : List Int := List.replicate 64 0
  path : List (List Bool) := List.replicate 64 []
  half : Option Int := none
  hard : List (Bool × Bool) := []
  enc : BitVec 6 := 0
  deriving DecidableEq, Repr

/-- The Lanyard of one lane beyond its registers. -/
structure Lyd where
  chain : Chain := {}
  vit : Vit := {}
  /-- bits decoded by the latest block, in order -/
  bits : List Bool := []
  /-- frames queued, and the bytes of the frame being sent (none: nothing has started) -/
  queue : List LFrame := []
  cur : List Byte := []
  /-- SEQ of the next frame (R209) -/
  seq : BitVec 8 := 0
  /-- the encoder's last six information bits (R200), the bits of the frame already encoded, and the coded bit that waits
  for its symbol -/
  encoder : BitVec 6 := 0
  bit : Nat := 0
  coded : List Bool := []
  /-- place of the next symbol in its block (R199), and the last ten symbols, the newest first -/
  slot : Nat := 0
  syms : List Int := []
  /-- the driver was not modulated at some moment of the frame in flight, which is lost (R197) -/
  lost : Bool := false
  /-- blocks in a row at 6 dB or more, below 3 dB; bad headers in a row (R208, R210) -/
  good : Nat := 0
  bad : Nat := 0
  badHeaders : Nat := 0
  /-- DC-block estimate with 24 fractional bits (R206) -/
  dc : Int := 0
  /-- USER messages being sent (R226): MSG_ID and the command that waits for the last fragment -/
  userTx : List (Nat × Nat) := []
  userId : BitVec 8 := 0
  userRx : List UserRx := []
  /-- reference set of R219: taps and MAIN -/
  refTaps : List Int := []
  refMain : Nat := 3
  /-- results given to REQUESTs: serial, REQ_ID, RESULT content and RAW time; RAW time of the last one applied by
  serial; and the REQUEST whose copy is awaited -/
  results : List (BitVec 64 × Nat × List Byte × BitVec 48) := []
  applied : List (BitVec 64 × BitVec 48) := []
  waiting : Option (BitVec 64 × Nat) := none
  /-- latest TIME frame received: ANCHOR_SEQ and TX_TS, with its validity -/
  echo : Option (Nat × Option Int) := none
  /-- RX stamp of the boundary that this frame's anchor names, as it was found at reception (R220) -/
  echoRx : Option Int := none
  /-- RAW time of the latest HELLO -/
  heard : BitVec 48 := 0
  /-- body of the latest frame passed to the personality (R210) -/
  passed : List Byte := []
  /-- content of the latest TELEMETRY and TXADJ RESULT delivered to Rigger -/
  telemetry : List Byte := []
  txadjResult : List Byte := []
  /-- first-pass codewords, candidates, FAILs and differing bits since the last TELEMETRY, and the retired and wasted
  slots at that moment (R214) -/
  telCw : Nat := 0
  telCand : Nat := 0
  telFail : Nat := 0
  telBits : Nat := 0
  telRet : BitVec 48 := 0
  telWst : BitVec 48 := 0
  deriving DecidableEq, Repr

/- Capstan (R130 to R154). Times are core cycles of 1/3 ns; a nanosecond is three. -/

/-- Where an admitted codeword is: a candidate, in a context of an engine, or in the write-back queue (R137). -/
inductive CapPlace where
  | candidate
  | context (engine slot : Nat)
  | writeback
  deriving DecidableEq, Repr

/-- A codeword in Capstan or in the reorder buffer. -/
structure CapCw where
  /-- line lane of the receiver, stream, and where the codeword stands in its stream -/
  lane : Nat
  streamB : Bool
  pos : Nat
  /-- t_fp and the deadline (R130, R146) -/
  tfp : Int
  deadline : Int
  /-- it was decoded in slot or codeword lock, and is counted (R132); it was a candidate; it was admitted -/
  counted : Bool
  cand : Bool
  adm : Bool
  /-- its place in Capstan, if it is there; it has left the reorder buffer -/
  place : Option CapPlace
  released : Bool := false
  /-- when its result entered, or will enter, the reorder buffer -/
  ready : Option Int := none
  /-- its ring entry (R147), and the lane whose ring holds it -/
  entry : Nat
  ring : Nat
  /-- when its latest iteration ended, or its context took it: the next issue is no earlier -/
  since : Int := 0
  /-- z of its 64 symbols and 16 on each side; extrinsic output of the last decoding, in half units; CL -/
  z : List Rat
  le : List Int
  cl : Nat
  /-- latest decision first, the first-pass decision last: one more than the iterations spent -/
  trail : List (BitVec 128)
  /-- best valid decision and its reliability in half units; it has converged -/
  best : Option (BitVec 128 × Nat)
  converged : Bool := false
  deriving DecidableEq, Repr

/-- An iteration that was issued at the last opportunity of a slice ends in the next one (R137): context, the codeword's
name, and when that codeword's iteration before ended. -/
structure CapFlight where
  engine : Nat
  slot : Nat
  key : Nat × Bool × Nat
  since : Int
  deriving DecidableEq, Repr

/-- Capstan beyond its registers. -/
structure Cap where
  /-- the latest slice boundary -/
  now : Int := 0
  cws : List CapCw := []
  /-- slice order: lane, stream and position of the candidates not placed at the boundary (R139) -/
  order : List (Nat × Bool × Nat) := []
  /-- rotating lane pointer -/
  pointer : Nat := 0
  /-- engines awake; waking, with the boundaries still to come; idle slices in a row, by engine (R150) -/
  awake : List Nat := []
  waking : List (Nat × Nat) := []
  idle : List (Nat × Nat) := []
  /-- iterations ended, and opportunities found starved-back and starved-front, since the latest boundary -/
  issued : Nat := 0
  stuck : Nat := 0
  front : Nat := 0
  /-- contexts that may hold an iteration issued before the latest boundary -/
  flight : List CapFlight := []
  /-- engines of which a context has been occupied since the latest boundary (R150) -/
  used : List Nat := []
  /-- the core cycle of each codeword that the reorder port has moved of late (R138) -/
  port : List Int := []
  /-- next ring entry of each lane; by stream 2n + B, the position, release time and payload released last -/
  ringPos : Vector Nat 9 := Vector.replicate 9 0
  lastRel : List (Nat × (Nat × Int × BitVec 120)) := []
  /-- policy in force: CAP_CTRL, CAP_CONV, CAP_PWR and CAP_LANE_CFGn as of the latest boundary (R141) -/
  ctrl : Word := 0x00C00801
  conv : Word := 8
  pwr : Word := 0x003F0402
  laneCfg : Vector Word 9 := Vector.replicate 9 0x118
  /-- the counters of R148 as they count: RET, WST, SF, SB, and by 8n + c those of lane n -/
  slots : Vector (BitVec 48) 4 := Vector.replicate 4 0
  lanes : List (Nat × BitVec 48) := []
  /-- first-pass codewords of each lane, and the bits in which their decisions differ from h (R368) -/
  fpCw : Vector Nat 9 := Vector.replicate 9 0
  fpBits : Vector Nat 9 := Vector.replicate 9 0
  /-- commands that complete at the next slice boundary (R154) -/
  waiting : List Nat := []
  deriving DecidableEq, Repr
/-- The YD3208. -/
structure State where
  /-- the registers that differ from their reset value, by address, in canonical form (Machine/Bank.lean) -/
  regs : List (Nat × Word) := []
  /-- the SRAM bytes that differ from the zero fill of R22, by physical address, in canonical form -/
  sram : List Host.Cell := []
  mbx : Mbx := {}
  ecc : Ecc := {}
  tim : Tim := {}
  mon : Mon := {}
  fw : Fw := {}
  hws : Hws := {}
  knt : Knt := {}
  cmis : Cmis := {}
  pwr : Pwr := {}
  bst : Bst := {}
  lanes : Lanes := {}
  optics : Optics := {}
  lyd : Vector Lyd 9 := Vector.replicate 9 {}
  cap : Cap := {}
  /-- what the last command answered to its sender -/
  resp : Resp := .none
  /-- the model's own counter behind its free values -/
  fresh : Nat := 0
  /-- the model's own queue of waiting commands, first in, first out -/
  pending : List Instr := []
  deriving DecidableEq, Repr

/-- The device right after a reset: no register differs from its reset value, the SRAM is zero-filled, the reset is
still asserted and Cleat has not started (R22, R341, R388). DESIGN CHOICE, log 3. DESIGN CHOICE, log 10. -/
def State.reset : State := {}

end Sys2Proof.Machine
end

