-- ==== Sys2Proof/Machine/HwLine.lean ====
section
/-! DEFINITION. Sys2Proof/Machine/HwLine.lean: status codes, bytes and their checks, and the Hawser line: 8b/10b code groups, the symbols
of a frame, skip sets, and the receiver's elastic buffer (R412 to R415, R419). -/

namespace Sys2Proof.Machine

/-- Little-endian bytes of v, k of them (R5). -/
def leBytes (k v : Nat) : List Byte := (List.range k).map fun i => BitVec.ofNat 8 (v / 256 ^ i)

/-- Big-endian bytes of v, k of them (R5). -/
def beBytes (k v : Nat) : List Byte := (leBytes k v).reverse

/-- The value of little-endian bytes. -/
def leVal (bs : List Byte) : Nat := bs.foldr (fun b a => a * 256 + b.toNat) 0

/-- The value of big-endian bytes. -/
def beVal (bs : List Byte) : Nat := bs.foldl (fun a b => a * 256 + b.toNat) 0

/-- One bit of the reflected CRC-32 of IEEE 802.3. -/
def crc32Step (c : Nat) (b : Bool) : Nat :=
  let one := (c % 2 = 1) != b
  (c / 2) ^^^ (if one then 0xEDB88320 else 0)

/-- CRC-32 with the IEEE 802.3 polynomial. -/
def crc32 (bs : List Byte) : Nat :=
  ((bs.flatMap fun b => (List.range 8).map fun i => b.getLsbD i).foldl crc32Step 0xFFFFFFFF) ^^^ 0xFFFFFFFF

/-- The code of a status (R295). -/
def Status.code : Status → Nat
  | .done => 0x00 | .deferred => 0x01 | .replayed => 0x02 | .badOpcode => 0x10 | .badLength => 0x11
  | .denied => 0x12 | .queueFull => 0x13 | .resetAbort => 0x14 | .timedOut => 0x15 | .conflict => 0x16
  | .blockOff => 0x17 | .versionMismatch => 0x18 | .peerLost => 0x19 | .cancelled => 0x1A | .internalFault => 0x1F

/-! ## 8b/10b code groups (R412)

The code is that of IEEE 802.3 clause 36, which the spec names and does not print. PRESUMED, log 163. A code group has
its first bit on the wire as its most significant one. -/

/-- The 6-bit and the 4-bit sub-blocks at negative running disparity. -/
def subSix : List (BitVec 6) :=
  [0b100111, 0b011101, 0b101101, 0b110001, 0b110101, 0b101001, 0b011001, 0b111000,
   0b111001, 0b100101, 0b010101, 0b110100, 0b001101, 0b101100, 0b011100, 0b010111]
  ++ [0b011011, 0b100011, 0b010011, 0b110010, 0b001011, 0b101010, 0b011010, 0b111010,
      0b110011, 0b100110, 0b010110, 0b110110, 0b001110, 0b101110, 0b011110, 0b101011]
def subFour : List (BitVec 4) := [0b1011, 0b1001, 0b0101, 0b1100, 0b1101, 0b1010, 0b0110, 0b1110]

/-- How many bits are 1. -/
def onesOf {w : Nat} (b : BitVec w) : Nat := ((List.range w).filter fun i => b.getLsbD i).length

/-- Running disparity, positive as true, after each sub-block and after a code group. -/
def rdSix (rd : Bool) (b : BitVec 6) : Bool :=
  if 3 < onesOf b || b = 0b000111 then true else if onesOf b < 3 || b = 0b111000 then false else rd
def rdFour (rd : Bool) (b : BitVec 4) : Bool :=
  if 2 < onesOf b || b = 0b0011 then true else if onesOf b < 2 || b = 0b1100 then false else rd
def rdAfter (rd : Bool) (g : BitVec 10) : Bool := rdFour (rdSix rd (g.extractLsb' 4 6)) (g.extractLsb' 0 4)

/-- The 6-bit sub-block of x, and the 4-bit sub-block of y that follows it; special says that it is a K symbol. -/
def encSix (rd special : Bool) (x : Nat) : BitVec 6 :=
  let b := if special && x = 28 then 0b001111 else subSix.getD x 0
  if rd && (onesOf b ≠ 3 || x = 7) then ~~~b else b
def encFour (rd special : Bool) (x y : Nat) : BitVec 4 :=
  let alt := special || (!rd && [17, 18, 20].contains x) || (rd && [11, 13, 14].contains x)
  let b := if y = 7 && alt then 0b0111 else subFour.getD y 0
  let plus := if onesOf b ≠ 2 || y = 3 then ~~~b else b
  if special then (if rd then plus else ~~~plus) else if rd then plus else b

/-- The code group of a symbol. PRESUMED, log 163. -/
def codeGroup (rd special : Bool) (b : Byte) : BitVec 10 :=
  let x := b.toNat % 32
  let six := encSix rd special x
  six ++ encFour (rdSix rd six) special x (b.toNat / 32)
def HwSym.group (rd : Bool) : HwSym → BitVec 10
  | .data b => codeGroup rd false b
  | .k b => codeGroup rd true b
  | .bad => 0

/-- The twelve K symbols of the code, and those that have a use (R413): K28.5, K28.0, K28.3, K28.2, K27.7, K29.7 and K30.7. -/
def kCodes : List Byte := [0x1C, 0x3C, 0x5C, 0x7C, 0x9C, 0xBC, 0xDC, 0xFC, 0xF7, 0xFB, 0xFD, 0xFE]
def kUsed : List Byte := [0xBC, 0x1C, 0x7C, 0x5C, 0xFB, 0xFD, 0xFE]

/-- The symbol that a code group stands for at one running disparity. PRESUMED, log 163. -/
def symbolAt (rd : Bool) (g : BitVec 10) : Option HwSym :=
  match (kCodes.map HwSym.k).find? fun x => x.group rd = g with
  | some x => some x
  | none => ((List.range 256).map fun i => HwSym.data (BitVec.ofNat 8 i)).find? fun x => x.group rd = g

/-- The symbol received, and whether it is a code or disparity error: a K symbol without a use is a code error (R413).
PRESUMED, log 163. -/
def symbolOf (rd : Bool) (g : BitVec 10) : HwSym × Bool :=
  match symbolAt rd g with
  | some (.k b) => if kUsed.contains b then (.k b, false) else (.bad, true)
  | some x => (x, false)
  | none => ((symbolAt (!rd) g).getD .bad, true)

/-! ## What a frame puts on the line (R413, R419) -/

/-- TYPE of a frame; of CAPS and of training sets the spec gives none. -/
def HwMsg.type : HwMsg → Nat
  | .link .. => 0x01 | .syncReq => 0x02 | .syncResp .. => 0x03 | .assign .. => 0x04 | .done .. => 0x05
  | .status .. => 0x06 | .dropped .. => 0x08 | .msg .. => 0x10 | .push .. => 0x11 | .taken .. => 0x12
  | .completion .. => 0x13 | .training .. => 0 | .caps .. => Config.hawserCapsType.toNat
  | _ => 0x07

/-- A frame of this TYPE is known (R419). -/
def typeKnown (t : Nat) : Bool := (1 ≤ t && t ≤ 8) || (0x10 ≤ t && t ≤ 0x13) || t = Config.hawserCapsType.toNat

/-- The reliable channel a frame uses: request (false), acknowledgement (true), or none for control frames. -/
def HwMsg.chan (m : HwMsg) : Option Bool :=
  match m with
  | .msg .. | .push .. => some false
  | .taken .. | .completion .. => some true
  | _ => none

/-- First and last segment (R419 header byte 7). -/
def HwMsg.segment : HwMsg → Bool × Bool
  | .msg _ first last => (first, last)
  | .completion _ _ first last => (first, last)
  | .push off _ last => (off = 0, last)
  | _ => (true, true)

/-- What a frame says, as numbers, where the spec gives its payload no layout. -/
def HwMsg.numbers : HwMsg → List Nat
  | .link c n r => match r with | some q => [c, n, 1, q.toNat] | none => [c, n, 0, 0]
  | .training pre post tp tq d l => [pre.val, post.val, tp, tq, d.toNat, l.toNat]
  | .syncResp t2 t3 e c i => [(t2 % 2 ^ 64).toNat, (t3 % 2 ^ 64).toNat, e, c.toNat, i.toNat]
  | .assign n l e => [n, l.toNat, e.toNat]
  | .done r => match r with | .done n => [0, n] | .loop => [1] | .other => [2] | .full => [3]
  | .status st => [st.digest.toNat, st.e, st.suspect.toNat, st.suspectDepth.toNat, st.diverged.toNat, st.ports.toNat, st.depth,
      st.up]
  | .prepare t h => [0, (t % 2 ^ 96).toNat, h] | .prepared h => [1, h] | .refused h st => [2, h, st] | .commit h => [3, h]
  | .abort h => [4, h] | .applied h => [5, h] | .epoch e d a b => [6, e.toNat, d.toNat, a.toNat, b.toNat]
  | .parameters t p => [7, t, p] | .gangList l => 8 :: l.map BitVec.toNat
  | .dropped src dst t tag => [src, dst, t, tag.toNat]
  | .push off l _ => off :: l.map BitVec.toNat
  | .taken t => [t.toNat]
  | .completion c _ _ _ => [c.w0.toNat, c.status.code, c.orig.code, c.epoch.toNat, c.result.toNat, c.final.toNat, c.m]
  | _ => []

/-- The payload of a frame, up to 256 bytes in multiples of 4 (R418, R419); one without a layout in the spec is free.
DESIGN CHOICE, log 164. -/
def HwMsg.payload (m : HwMsg) : List Byte :=
  let free := Config.hawserContent m.type m.numbers
  let l := match m with
    | .msg b _ _ => b
    | .caps b => b
    | .status st => st.caps ++ free
    | .completion _ b first _ => if first then free else b
    | _ => free
  (l.take 256).take (l.length / 4 * 4)

/-- The symbols of a frame: start symbol, header, payload, CRC-32 and end symbol; of a training set, K28.5 and 15 data
symbols (R417). -/
def HwSend.symbols (x : HwSend) : List HwSym :=
  match x.msg with
  | .training .. => .k 0xBC :: (List.range 15).map fun i => .data ((Config.hawserContent 0 x.msg.numbers).getD i 0)
  | m =>
    let l := m.payload
    let seg := m.segment
    let head := leBytes 1 m.type ++ leBytes 1 x.hops ++ leBytes 1 x.dst ++ leBytes 1 x.src ++ leBytes 2 l.length
      ++ [x.lseq, BitVec.ofNat 8 (seg.1.toNat + 2 * seg.2.toNat)]
    let start : Byte := match m.chan with | none => 0x7C | some true => 0x5C | some false => 0xFB
    .k start :: (head ++ l ++ leBytes 4 (crc32 (head ++ l))).map HwSym.data ++ [.k 0xFD]

/-- One symbol goes out: after every 1,280 symbols the skip set K28.5 K28.0 goes before it, inside a frame too (R414). -/
def HwPort.sendSymbol (t : HwPort) (x : HwSym) : HwPort :=
  let put := fun (t : HwPort) (x : HwSym) =>
    let g := x.group t.txRd
    { t with txRd := rdAfter t.txRd g, line := t.line ++ [g] }
  let t := if 1280 ≤ t.txSince then { put (put t (.k 0xBC)) (.k 0x1C) with txSince := 0 } else t
  { put t x with txSince := t.txSince + 1 }

/-- n idle sets K28.5 D16.2 have gone out since the frame before, with their skip sets: an idle set keeps the running
disparity, a skip set inverts it. -/
def HwPort.idle (t : HwPort) (n : Nat) : HwPort :=
  let total := t.txSince + 2 * n
  let skips := (total - 1) / 1280
  { t with txSince := total - 1280 * skips, txRd := t.txRd != decide (skips % 2 = 1) }

/-- A frame goes out after n idle sets; line is what it puts on the line. -/
def HwPort.sendFrame (t : HwPort) (n : Nat) (x : HwSend) : HwPort :=
  x.symbols.foldl HwPort.sendSymbol { t.idle n with line := [] }

/-! ## What a receiver makes of the line (R413 to R415) -/

/-- A code group comes in at the recovered clock: errors and commas are noted, and the symbol enters the elastic buffer,
which leaves out a K28.0 of a skip set while it is more than half full. Errors are kept as their ages in symbols.
DESIGN CHOICE, log 165. -/
def HwPort.groupIn (t : HwPort) (g : BitVec 10) : HwPort × Bool :=
  let (x, err) := symbolOf t.rxRd g
  let skip := t.rxSkip && x = .k 0x1C
  let t := { t with
    rxRd := rdAfter t.rxRd g
    rxErrs := ((t.rxErrs.map (· + 1)).filter (· < 1024)) ++ (if err then [0] else [])
    rxComma := if x = .k 0xBC then 0 else t.rxComma + 1
    rxSkip := x = .k 0xBC || skip }
  (if (skip && 8 < t.elastic.length) || 16 ≤ t.elastic.length then t else { t with elastic := t.elastic ++ [x] }, err)

/-- The next symbol leaves the elastic buffer at the local clock; a K28.0 of a skip set is repeated while the buffer is less
than half full. DESIGN CHOICE, log 165. -/
def HwPort.symbolOut (t : HwPort) : Option HwSym × HwPort :=
  match t.elastic with
  | [] => (none, t)
  | x :: rest =>
    let skip := t.outSkip && x = .k 0x1C
    let t := { t with outSkip := x = .k 0xBC || skip }
    if skip && t.elastic.length < 8 then (some x, t) else (some x, { t with elastic := rest })

/-- The frames under way take the symbol: a start symbol opens one, inside another too (R420); K30.7 voids one; a code error
spoils one; the bytes of one that ends well come out. Skip sets leave them as they are. -/
def HwPort.frameStep (t : HwPort) (x : HwSym) : Option (List Byte) × HwPort :=
  match x, t.frames with
  | .k b, fs =>
    if [0x7C, 0x5C, 0xFB].contains b then (none, { t with frames := some [] :: fs })
    else match fs with
      | f :: rest =>
        if b = 0xFD then (f, { t with frames := rest })
        else if b = 0xFE then (none, { t with frames := rest }) else (none, t)
      | [] => (none, t)
  | .data b, f :: rest => (none, { t with frames := f.map (· ++ [b]) :: rest })
  | .bad, _ :: rest => (none, { t with frames := none :: rest })
  | _, [] => (none, t)

/-- The frame is whole, its CRC is right, and its TYPE is unknown (R419). -/
def frameUnknown (l : List Byte) : Bool :=
  let body := l.take (l.length - 4)
  12 ≤ l.length && leVal (l.drop (l.length - 4)) = crc32 body && !typeKnown (leVal (body.take 1))

/-- More than 8 code or disparity errors within 1,024 symbols, or no K28.5 within 2,560 (R415). -/
def HwPort.lost (t : HwPort) : Bool := 8 < t.rxErrs.length || 2560 ≤ t.rxComma

end Sys2Proof.Machine
end

