-- ==== Sys2Proof/Machine/Regs.lean ====
section
/-! DEFINITION. Sys2Proof/Machine/Regs.lean: the register tables of the spec as data (R6, R8, R10 and the
"Registers" section of every chapter): each register's address, repetition, reset domain and fields, with each
field's type and reset value, and the named fields the meanings read and write. -/

namespace Sys2Proof.Machine

/-- Field types of R8. -/
inductive Kind where
  | ro | rw | rw1c | wo | rc | rwl
  deriving DecidableEq, Repr

/-- Reset domains of R10; a LANE register follows the lane given by its first index. -/
inductive Dom where
  | por | aon | sys | line | line8 | host
  deriving DecidableEq, Repr

/-- One field of a register: bits hi down to lo, its type, and its reset value by the register's two indices. -/
structure FieldD where
  hi : Nat
  lo : Nat
  kind : Kind
  rst : Nat → Nat → Nat

/-- One register of the map, repeated n1 times at stride s1 and, inside that, n2 times at stride s2. -/
structure RegD where
  base : Nat
  n1 : Nat := 1
  s1 : Nat := 0
  n2 : Nat := 1
  s2 : Nat := 0
  dom : Dom
  fields : List FieldD

/-- A named field of a register. -/
structure Fld where
  reg : RegD
  hi : Nat
  lo : Nat

/-- Address of the register's repetition (n, m). -/
def RegD.addr (r : RegD) (n m : Nat) : Nat := r.base + r.s1 * n + r.s2 * m

/-- Reset value of the register's repetition (n, m). -/
def RegD.reset (r : RegD) (n m : Nat) : Word :=
  BitVec.ofNat 32 (r.fields.foldl (fun a f => a + (f.rst n m % 2 ^ (f.hi + 1 - f.lo)) * 2 ^ f.lo) 0)

/-- The repetition of r that lies at address a, if one does. -/
def RegD.index? (r : RegD) (a : Nat) : Option (Nat × Nat) :=
  if a < r.base then none
  else
    let d := a - r.base
    let n := if r.s1 = 0 then 0 else d / r.s1
    let e := if r.s1 = 0 then d else d % r.s1
    let m := if r.s2 = 0 then 0 else e / r.s2
    if n < r.n1 && m < r.n2 && r.s1 * n + r.s2 * m = d then some (n, m) else none


/-- Coefficient i of the default Lanyard filter set, 32 taps (R204). DESIGN CHOICE, log 49. -/
def lydDefaultCoef (i : Nat) : Nat := (Config.lydDefaultCoef i).toNat

namespace R

def TOP_ID : RegD := { base := 0x10000000, dom := .por, fields := [
    ⟨31, 16, .ro, fun _ _ => 0x3208⟩, ⟨15, 8, .ro, fun _ _ => 0xa1⟩, ⟨7, 0, .ro, fun _ _ => 0⟩] }
def TOP_DECERR_ADDR : RegD := { base := 0x10000020, dom := .aon, fields := [⟨31, 0, .ro, fun _ _ => 0⟩] }
def TOP_DECERR_STAT : RegD := { base := 0x10000024, dom := .aon, fields := [
    ⟨23, 22, .ro, fun _ _ => 0⟩, ⟨20, 20, .ro, fun _ _ => 0⟩, ⟨19, 16, .ro, fun _ _ => 0⟩,
    ⟨15, 0, .rc, fun _ _ => 0⟩] }
def LTX_LANE_CFG : RegD := { base := 0x20000000, n1 := 9, s1 := 0x100000, dom := .line, fields := [
    ⟨20, 20, .rw, fun _ _ => 0⟩, ⟨19, 16, .rw, fun _ _ => 0⟩,
    ⟨15, 12, .rw, fun n _ => if n = 8 then 0 else 2 * n + 1⟩, ⟨11, 8, .rw, fun n _ => if n = 8 then 0 else 2 * n⟩,
    ⟨2, 0, .rw, fun _ _ => 0⟩] }
def LTX_AM_SEQ : RegD := { base := 0x20000004, n1 := 9, s1 := 0x100000, dom := .line, fields := [
    ⟨11, 0, .ro, fun _ _ => 0⟩] }
def LTX_LANE_STAT : RegD := { base := 0x20000008, n1 := 9, s1 := 0x100000, dom := .line, fields := [
    ⟨3, 3, .rw1c, fun _ _ => 0⟩, ⟨2, 2, .ro, fun _ _ => 0⟩, ⟨1, 1, .ro, fun _ _ => 0⟩, ⟨0, 0, .ro, fun _ _ => 0⟩] }
def LRX_FRAME_STAT : RegD := { base := 0x30000000, n1 := 9, s1 := 0x100000, dom := .line, fields := [
    ⟨3, 3, .rw1c, fun _ _ => 0⟩, ⟨2, 2, .ro, fun _ _ => 0⟩, ⟨1, 1, .ro, fun _ _ => 0⟩, ⟨0, 0, .ro, fun _ _ => 0⟩] }
def LRX_AM_SEQ : RegD := { base := 0x30000004, n1 := 9, s1 := 0x100000, dom := .line, fields := [
    ⟨31, 31, .ro, fun _ _ => 0⟩, ⟨11, 0, .ro, fun _ _ => 0⟩] }
def LRX_PROT_STAT : RegD := { base := 0x30800008, dom := .line8, fields := [
    ⟨31, 16, .ro, fun _ _ => 0⟩, ⟨11, 8, .ro, fun _ _ => 0⟩, ⟨7, 7, .rw1c, fun _ _ => 0⟩,
    ⟨6, 6, .rw1c, fun _ _ => 0⟩, ⟨2, 0, .ro, fun _ _ => 0⟩] }
def LRX_PROT_SKEW : RegD := { base := 0x3080000c, dom := .line8, fields := [⟨15, 0, .ro, fun _ _ => 0⟩] }
def LTX_SLIP_STAT : RegD := { base := 0x2000000c, n1 := 9, s1 := 0x100000, dom := .line, fields := [
    ⟨31, 24, .ro, fun _ _ => 0⟩, ⟨23, 16, .ro, fun _ _ => 0⟩, ⟨15, 4, .ro, fun _ _ => 0⟩, ⟨1, 1, .ro, fun _ _ => 0⟩,
    ⟨0, 0, .rw1c, fun _ _ => 0⟩] }
def LTX_MAP_CFG : RegD := { base := 0x20000010, n1 := 9, s1 := 0x100000, dom := .line, fields := [
    ⟨1, 1, .rw, fun _ _ => 0⟩, ⟨0, 0, .rw, fun _ _ => 0⟩] }
def LTX_ERR_INJ : RegD := { base := 0x20000014, n1 := 9, s1 := 0x100000, dom := .line, fields := [
    ⟨31, 31, .rw, fun _ _ => 0⟩, ⟨30, 29, .rw, fun _ _ => 0⟩, ⟨28, 24, .rw, fun _ _ => 1⟩,
    ⟨23, 16, .rw, fun _ _ => 0⟩, ⟨15, 0, .rw, fun _ _ => 0⟩] }
def LTX_ERR_INJ_CNT : RegD := { base := 0x20000018, n1 := 9, s1 := 0x100000, dom := .line, fields := [
    ⟨31, 0, .rc, fun _ _ => 0⟩] }
def LTX_SHAPE_CTRL : RegD := { base := 0x20000020, n1 := 9, s1 := 0x100000, dom := .line, fields := [
    ⟨11, 8, .rw, fun _ _ => 3⟩, ⟨5, 5, .rw, fun _ _ => 0⟩, ⟨4, 4, .ro, fun _ _ => 0⟩, ⟨3, 3, .rw1c, fun _ _ => 0⟩,
    ⟨0, 0, .wo, fun _ _ => 0⟩] }
def LTX_SHAPE_STAT : RegD := { base := 0x20000024, n1 := 9, s1 := 0x100000, dom := .line, fields := [
    ⟨31, 20, .ro, fun _ _ => 0⟩, ⟨19, 16, .ro, fun _ _ => 3⟩, ⟨12, 12, .ro, fun _ _ => 0⟩] }
def LTX_CLIP_CNT : RegD := { base := 0x20000028, n1 := 9, s1 := 0x100000, dom := .line, fields := [
    ⟨31, 0, .rc, fun _ _ => 0⟩] }
def LTX_FIR_TAP : RegD := { base := 0x20000040, n1 := 9, s1 := 0x100000, n2 := 8, s2 := 4, dom := .line, fields := [
    ⟨25, 16, .rw, fun _ m => if m = 1 then 0x100 else 0⟩, ⟨9, 0, .rw, fun _ _ => 0⟩] }
def LTX_PD_ENT : RegD := { base := 0x20000080, n1 := 9, s1 := 0x100000, n2 := 16, s2 := 4, dom := .line, fields := [
    ⟨31, 24, .rw, fun _ _ => 0⟩, ⟨23, 16, .rw, fun _ _ => 0⟩, ⟨15, 8, .rw, fun _ _ => 0⟩,
    ⟨7, 0, .rw, fun _ _ => 0⟩] }
def LTX_MASK_CTRL : RegD := { base := 0x200000c0, n1 := 9, s1 := 0x100000, dom := .line, fields := [
    ⟨15, 12, .rw, fun _ _ => 1⟩, ⟨11, 8, .rw, fun _ _ => 0xa⟩, ⟨1, 1, .rw, fun _ _ => 0⟩,
    ⟨0, 0, .rw, fun _ _ => 0⟩] }
def LTX_MASK_STAT : RegD := { base := 0x200000c4, n1 := 9, s1 := 0x100000, dom := .line, fields := [
    ⟨31, 24, .ro, fun _ _ => 0⟩, ⟨20, 16, .ro, fun _ _ => 0⟩, ⟨15, 2, .ro, fun _ _ => 0⟩, ⟨1, 1, .ro, fun _ _ => 0⟩,
    ⟨0, 0, .rw1c, fun _ _ => 0⟩] }
def LTX_MASK_HITS : RegD := { base := 0x200000c8, n1 := 9, s1 := 0x100000, dom := .line, fields := [
    ⟨31, 0, .ro, fun _ _ => 0⟩] }
def LTX_MASK_LIM : RegD := { base := 0x200000e0, n1 := 9, s1 := 0x100000, n2 := 8, s2 := 4, dom := .line, fields := [
    ⟨31, 24, .rw, fun _ _ => 0⟩, ⟨23, 16, .rw, fun _ _ => 0⟩, ⟨15, 8, .rw, fun _ _ => 0⟩,
    ⟨7, 0, .rw, fun _ _ => 0⟩] }
def LTX_PSD : RegD := { base := 0x20000120, n1 := 9, s1 := 0x100000, n2 := 8, s2 := 4, dom := .line, fields := [
    ⟨31, 24, .ro, fun _ _ => 0⟩, ⟨23, 16, .ro, fun _ _ => 0⟩, ⟨15, 8, .ro, fun _ _ => 0⟩,
    ⟨7, 0, .ro, fun _ _ => 0⟩] }
def LTX_PLL_STAT : RegD := { base := 0x20000100, n1 := 9, s1 := 0x100000, dom := .line, fields := [
    ⟨31, 24, .rc, fun _ _ => 0⟩, ⟨19, 16, .ro, fun _ _ => 0⟩, ⟨11, 10, .ro, fun _ _ => 0⟩, ⟨3, 3, .ro, fun _ _ => 0⟩,
    ⟨2, 0, .ro, fun _ _ => 0⟩] }
def LTX_DRV_CFG : RegD := { base := 0x20000140, n1 := 9, s1 := 0x100000, dom := .line, fields := [
    ⟨5, 0, .rw, fun _ _ => 0x14⟩] }
def LTX_LYD_ADD : RegD := { base := 0x20000150, n1 := 9, s1 := 0x100000, dom := .line, fields := [
    ⟨8, 8, .rw, fun _ _ => 0⟩, ⟨4, 0, .rw, fun _ _ => 0xc⟩] }
def LTX_PAT_CTRL : RegD := { base := 0x20000160, n1 := 9, s1 := 0x100000, dom := .line, fields := [
    ⟨21, 16, .rw, fun _ _ => 8⟩, ⟨8, 8, .rw, fun _ _ => 0⟩, ⟨5, 5, .rw1c, fun _ _ => 0⟩, ⟨4, 4, .ro, fun _ _ => 0⟩,
    ⟨3, 0, .rw, fun _ _ => 0⟩] }
def LTX_PAT_BASE : RegD := { base := 0x20000164, n1 := 9, s1 := 0x100000, dom := .line, fields := [
    ⟨21, 6, .rw, fun _ _ => 0⟩] }
def LTX_PAT_LEN : RegD := { base := 0x20000168, n1 := 9, s1 := 0x100000, dom := .line, fields := [
    ⟨22, 6, .rw, fun _ _ => 1⟩] }
def LTX_CAL_CTRL : RegD := { base := 0x20000180, n1 := 9, s1 := 0x100000, dom := .line, fields := [
    ⟨1, 1, .wo, fun _ _ => 0⟩, ⟨0, 0, .rw, fun _ _ => 0⟩] }
def LTX_CAL_STAT : RegD := { base := 0x20000184, n1 := 9, s1 := 0x100000, dom := .line, fields := [
    ⟨31, 20, .ro, fun _ _ => 0⟩, ⟨15, 0, .ro, fun _ _ => 0⟩] }
def LRX_TIA_CTRL : RegD := { base := 0x30000010, n1 := 9, s1 := 0x100000, dom := .line, fields := [
    ⟨16, 16, .wo, fun _ _ => 0⟩, ⟨8, 8, .rw, fun _ _ => 0⟩, ⟨5, 0, .rw, fun _ _ => 0x18⟩] }
def LRX_TIA_STAT : RegD := { base := 0x30000014, n1 := 9, s1 := 0x100000, dom := .line, fields := [
    ⟨13, 8, .ro, fun _ _ => 0x18⟩, ⟨3, 3, .rw1c, fun _ _ => 0⟩, ⟨2, 2, .ro, fun _ _ => 0⟩, ⟨1, 1, .ro, fun _ _ => 0⟩,
    ⟨0, 0, .ro, fun _ _ => 0⟩] }
def LRX_ADC_STAT : RegD := { base := 0x30000020, n1 := 9, s1 := 0x100000, dom := .line, fields := [
    ⟨22, 16, .ro, fun _ _ => 0x40⟩, ⟨14, 8, .ro, fun _ _ => 0⟩, ⟨0, 0, .ro, fun _ _ => 1⟩] }
def LRX_ADC_CLIP : RegD := { base := 0x30000024, n1 := 9, s1 := 0x100000, dom := .line, fields := [
    ⟨31, 0, .rc, fun _ _ => 0⟩] }
def LRX_FP_CW : RegD := { base := 0x30000064, n1 := 9, s1 := 0x100000, dom := .line, fields := [
    ⟨31, 0, .rc, fun _ _ => 0⟩] }
def LRX_FP_CORR : RegD := { base := 0x30000068, n1 := 9, s1 := 0x100000, dom := .line, fields := [
    ⟨31, 0, .rc, fun _ _ => 0⟩] }
def LRX_FP_CAND : RegD := { base := 0x3000006c, n1 := 9, s1 := 0x100000, dom := .line, fields := [
    ⟨31, 0, .rc, fun _ _ => 0⟩] }
def LRX_FP_FAIL : RegD := { base := 0x30000070, n1 := 9, s1 := 0x100000, dom := .line, fields := [
    ⟨31, 0, .rc, fun _ _ => 0⟩] }
def LRX_CHK_SYM : RegD := { base := 0x30000098, n1 := 9, s1 := 0x100000, dom := .line, fields := [
    ⟨31, 0, .rc, fun _ _ => 0⟩] }
def LRX_CHK_BIT : RegD := { base := 0x3000009c, n1 := 9, s1 := 0x100000, dom := .line, fields := [
    ⟨31, 0, .rc, fun _ _ => 0⟩] }
def LRX_EQ_CTRL : RegD := { base := 0x30000030, n1 := 9, s1 := 0x100000, dom := .line, fields := [
    ⟨13, 8, .rw, fun _ _ => 0xc⟩, ⟨1, 1, .rw, fun _ _ => 0⟩, ⟨0, 0, .rw, fun _ _ => 0⟩] }
def LRX_EQ_STAT : RegD := { base := 0x30000034, n1 := 9, s1 := 0x100000, dom := .line, fields := [
    ⟨31, 20, .ro, fun _ _ => 0⟩, ⟨19, 4, .ro, fun _ _ => 0⟩, ⟨1, 1, .rw1c, fun _ _ => 0⟩,
    ⟨0, 0, .ro, fun _ _ => 0⟩] }
def LRX_TR_CTRL : RegD := { base := 0x30000040, n1 := 9, s1 := 0x100000, dom := .line, fields := [
    ⟨15, 8, .rw, fun _ _ => 0⟩, ⟨4, 4, .rw, fun _ _ => 1⟩, ⟨1, 0, .rw, fun _ _ => 1⟩] }
def LRX_TR_STAT : RegD := { base := 0x30000044, n1 := 9, s1 := 0x100000, dom := .line, fields := [
    ⟨31, 16, .ro, fun _ _ => 0⟩, ⟨0, 0, .ro, fun _ _ => 0⟩] }
def LRX_LOS_CFG : RegD := { base := 0x30000050, n1 := 9, s1 := 0x100000, dom := .line, fields := [
    ⟨7, 0, .rw, fun _ _ => 0xa⟩] }
def LRX_LOS_STAT : RegD := { base := 0x30000054, n1 := 9, s1 := 0x100000, dom := .line, fields := [
    ⟨31, 24, .rc, fun _ _ => 0⟩, ⟨23, 16, .rc, fun _ _ => 0⟩, ⟨3, 3, .rw1c, fun _ _ => 0⟩,
    ⟨2, 2, .rw1c, fun _ _ => 0⟩, ⟨1, 1, .ro, fun _ _ => 0⟩, ⟨0, 0, .ro, fun _ _ => 1⟩] }
def LRX_FP_CFG : RegD := { base := 0x30000060, n1 := 9, s1 := 0x100000, dom := .line, fields := [
    ⟨7, 0, .rw, fun _ _ => 8⟩] }
def LRX_CAL_CTRL : RegD := { base := 0x30000080, n1 := 9, s1 := 0x100000, dom := .line, fields := [
    ⟨1, 1, .wo, fun _ _ => 0⟩, ⟨0, 0, .rw, fun _ _ => 0⟩] }
def LRX_CAL_STAT : RegD := { base := 0x30000084, n1 := 9, s1 := 0x100000, dom := .line, fields := [
    ⟨31, 20, .ro, fun _ _ => 0⟩, ⟨15, 0, .ro, fun _ _ => 0⟩] }
def LRX_CHK_CTRL : RegD := { base := 0x30000090, n1 := 9, s1 := 0x100000, dom := .line, fields := [
    ⟨21, 16, .rw, fun _ _ => 8⟩, ⟨8, 8, .rw, fun _ _ => 0⟩, ⟨3, 0, .rw, fun _ _ => 0⟩] }
def LRX_CHK_STAT : RegD := { base := 0x30000094, n1 := 9, s1 := 0x100000, dom := .line, fields := [
    ⟨1, 1, .rw1c, fun _ _ => 0⟩, ⟨0, 0, .ro, fun _ _ => 0⟩] }
def LRX_CAP_CTRL : RegD := { base := 0x300000a0, n1 := 9, s1 := 0x100000, dom := .line, fields := [
    ⟨14, 12, .rw, fun _ _ => 0⟩, ⟨8, 8, .rw, fun _ _ => 0⟩, ⟨5, 4, .rw, fun _ _ => 0⟩, ⟨1, 1, .wo, fun _ _ => 0⟩,
    ⟨0, 0, .wo, fun _ _ => 0⟩] }
def LRX_CAP_STAT : RegD := { base := 0x300000a4, n1 := 9, s1 := 0x100000, dom := .line, fields := [
    ⟨31, 29, .ro, fun _ _ => 0⟩, ⟨19, 0, .ro, fun _ _ => 0⟩] }
def LRX_FFE_TAP : RegD := { base := 0x30000100, n1 := 9, s1 := 0x100000, n2 := 24, s2 := 4, dom := .line, fields := [
    ⟨27, 16, .rw, fun _ _ => 0⟩, ⟨11, 0, .rw, fun _ m => if m = 6 then 0x400 else 0⟩] }
def LRX_MLSE_REF : RegD := { base := 0x30000200, n1 := 9, s1 := 0x100000, n2 := 16, s2 := 4, dom := .line, fields := [
    ⟨31, 24, .rw, fun _ _ => 0x40⟩, ⟨23, 16, .rw, fun _ _ => 0x15⟩, ⟨15, 8, .rw, fun _ _ => 0xeb⟩,
    ⟨7, 0, .rw, fun _ _ => 0xc0⟩] }
def WNC_CTRL : RegD := { base := 0x39000000, dom := .aon, fields := [⟨0, 0, .rw, fun _ _ => 1⟩] }
def WNC_STAT : RegD := { base := 0x39000004, dom := .aon, fields := [
    ⟨31, 16, .ro, fun _ _ => 0⟩, ⟨5, 0, .ro, fun _ _ => 0⟩] }
def WNC_SLOT_RET : RegD := { base := 0x39000010, dom := .aon, fields := [⟨31, 0, .rc, fun _ _ => 0⟩] }
def WNC_SLOT_WST : RegD := { base := 0x39000014, dom := .aon, fields := [⟨31, 0, .rc, fun _ _ => 0⟩] }
def WNC_SLOT_SF : RegD := { base := 0x39000018, dom := .aon, fields := [⟨31, 0, .rc, fun _ _ => 0⟩] }
def WNC_SLOT_SB : RegD := { base := 0x3900001c, dom := .aon, fields := [⟨31, 0, .rc, fun _ _ => 0⟩] }
def WNC_LANE_CFG : RegD := { base := 0x39000100, n1 := 25, s1 := 4, dom := .aon, fields := [
    ⟨24, 24, .wo, fun _ _ => 0⟩, ⟨19, 16, .rw, fun _ _ => 3⟩, ⟨15, 12, .rw, fun _ _ => 0xa⟩,
    ⟨11, 8, .rw, fun _ _ => 6⟩, ⟨1, 0, .rw, fun _ _ => 0⟩] }
def WNC_FOM : RegD := { base := 0x39000200, n1 := 25, s1 := 4, dom := .aon, fields := [
    ⟨31, 31, .ro, fun _ _ => 0⟩, ⟨25, 16, .ro, fun _ _ => 0⟩, ⟨9, 0, .ro, fun _ _ => 0⟩] }
def CAP_CTRL : RegD := { base := 0x38000000, dom := .aon, fields := [
    ⟨24, 16, .rw, fun _ _ => 0xc0⟩, ⟨11, 8, .rw, fun _ _ => 8⟩, ⟨0, 0, .rw, fun _ _ => 1⟩] }
def CAP_STAT : RegD := { base := 0x38000004, dom := .aon, fields := [
    ⟨29, 24, .ro, fun _ _ => 0⟩, ⟨21, 16, .ro, fun _ _ => 0⟩, ⟨1, 1, .rw1c, fun _ _ => 0⟩,
    ⟨0, 0, .ro, fun _ _ => 0⟩] }
def CAP_CONV : RegD := { base := 0x38000008, dom := .aon, fields := [⟨7, 0, .rw, fun _ _ => 8⟩] }
def CAP_PWR : RegD := { base := 0x3800000c, dom := .aon, fields := [
    ⟨21, 16, .rw, fun _ _ => 0x3f⟩, ⟨11, 8, .rw, fun _ _ => 4⟩, ⟨2, 0, .rw, fun _ _ => 2⟩] }
def CAP_WAKES : RegD := { base := 0x38000010, dom := .aon, fields := [⟨31, 0, .rc, fun _ _ => 0⟩] }
def CAP_SNAP : RegD := { base := 0x38000014, dom := .aon, fields := [
    ⟨31, 16, .ro, fun _ _ => 0⟩, ⟨0, 0, .wo, fun _ _ => 0⟩] }
def CAP_STORE : RegD := { base := 0x38000018, dom := .aon, fields := [
    ⟨27, 16, .rc, fun _ _ => 0⟩, ⟨11, 0, .ro, fun _ _ => 0⟩] }
def CAP_SLOT_LO : RegD := { base := 0x38000020, n1 := 4, s1 := 8, dom := .aon, fields := [
    ⟨31, 0, .ro, fun _ _ => 0⟩] }
def CAP_SLOT_HI : RegD := { base := 0x38000024, n1 := 4, s1 := 8, dom := .aon, fields := [
    ⟨15, 0, .ro, fun _ _ => 0⟩] }
def CAP_PROT_CFG : RegD := { base := 0x38000040, dom := .aon, fields := [
    ⟨27, 24, .rw, fun _ _ => 1⟩, ⟨23, 16, .rw, fun _ _ => 4⟩, ⟨15, 8, .rw, fun _ _ => 0x10⟩,
    ⟨7, 0, .rw, fun _ _ => 0x20⟩] }
def CAP_PROT_FOM : RegD := { base := 0x38000044, dom := .aon, fields := [⟨9, 0, .rw, fun _ _ => 0xaa⟩] }
def CAP_PROT_STAT : RegD := { base := 0x38000048, dom := .aon, fields := [
    ⟨9, 9, .rw1c, fun _ _ => 0⟩, ⟨8, 8, .rw1c, fun _ _ => 0⟩, ⟨7, 0, .ro, fun _ _ => 0⟩] }
def CAP_LANE_CFG : RegD := { base := 0x38000100, n1 := 9, s1 := 4, dom := .aon, fields := [
    ⟨17, 17, .ro, fun _ _ => 0⟩, ⟨16, 16, .rw, fun _ _ => 0⟩, ⟨8, 8, .rw, fun _ _ => 1⟩,
    ⟨7, 0, .rw, fun _ _ => 0x18⟩] }
def CAP_LCNT_LO : RegD := { base := 0x38000200, n1 := 9, s1 := 0x40, n2 := 8, s2 := 8, dom := .aon, fields := [
    ⟨31, 0, .ro, fun _ _ => 0⟩] }
def CAP_LCNT_HI : RegD := { base := 0x38000204, n1 := 9, s1 := 0x40, n2 := 8, s2 := 8, dom := .aon, fields := [
    ⟨15, 0, .ro, fun _ _ => 0⟩] }
def HST_LANE_STAT : RegD := { base := 0x40000000, n1 := 16, s1 := 0x100000, dom := .host, fields := [
    ⟨31, 24, .rc, fun _ _ => 0⟩, ⟨23, 16, .rc, fun _ _ => 0⟩, ⟨15, 12, .ro, fun _ _ => 0xf⟩,
    ⟨11, 11, .ro, fun _ _ => 0⟩, ⟨10, 9, .ro, fun _ _ => 0⟩, ⟨4, 4, .ro, fun _ _ => 0⟩, ⟨3, 3, .rw1c, fun _ _ => 0⟩,
    ⟨2, 2, .rw1c, fun _ _ => 0⟩, ⟨1, 1, .ro, fun _ _ => 0⟩, ⟨0, 0, .ro, fun _ _ => 1⟩] }
def HST_LOS_CFG : RegD := { base := 0x40000004, n1 := 16, s1 := 0x100000, dom := .host, fields := [
    ⟨7, 0, .rw, fun _ _ => 5⟩] }
def HST_RX_CTRL : RegD := { base := 0x40000010, n1 := 16, s1 := 0x100000, dom := .host, fields := [
    ⟨20, 16, .rw, fun _ _ => 8⟩, ⟨12, 12, .rw, fun _ _ => 0⟩, ⟨11, 8, .rw, fun _ _ => 6⟩,
    ⟨0, 0, .rw, fun _ _ => 1⟩] }
def HST_RX_STAT : RegD := { base := 0x40000014, n1 := 16, s1 := 0x100000, dom := .host, fields := [
    ⟨27, 24, .ro, fun _ _ => 6⟩, ⟨23, 8, .ro, fun _ _ => 0⟩, ⟨2, 2, .rw1c, fun _ _ => 0⟩,
    ⟨1, 1, .rw1c, fun _ _ => 0⟩, ⟨0, 0, .ro, fun _ _ => 0⟩] }
def HST_DFE : RegD := { base := 0x40000018, n1 := 16, s1 := 0x100000, dom := .host, fields := [
    ⟨9, 0, .rw, fun _ _ => 0⟩] }
def HST_TX_CTRL : RegD := { base := 0x40000040, n1 := 16, s1 := 0x100000, dom := .host, fields := [
    ⟨24, 18, .rw, fun _ _ => 0x32⟩, ⟨17, 16, .rw, fun _ _ => 1⟩, ⟨14, 12, .rw, fun _ _ => 0⟩,
    ⟨10, 8, .rw, fun _ _ => 0⟩, ⟨7, 7, .rw, fun _ _ => 0⟩, ⟨6, 6, .rw, fun _ _ => 0⟩, ⟨5, 5, .rw, fun _ _ => 0⟩,
    ⟨2, 2, .rw1c, fun _ _ => 0⟩, ⟨1, 1, .ro, fun _ _ => 0⟩, ⟨0, 0, .wo, fun _ _ => 0⟩] }
def HST_TX_FIR0 : RegD := { base := 0x40000044, n1 := 16, s1 := 0x100000, dom := .host, fields := [
    ⟨26, 18, .rw, fun _ _ => 0x80⟩, ⟨17, 9, .rw, fun _ _ => 0⟩, ⟨8, 0, .rw, fun _ _ => 0⟩] }
def HST_TX_FIR1 : RegD := { base := 0x40000048, n1 := 16, s1 := 0x100000, dom := .host, fields := [
    ⟨26, 18, .rw, fun _ _ => 0⟩, ⟨17, 9, .rw, fun _ _ => 0⟩, ⟨8, 0, .rw, fun _ _ => 0⟩] }
def HST_TX_STAT : RegD := { base := 0x4000004c, n1 := 16, s1 := 0x100000, dom := .host, fields := [
    ⟨7, 6, .ro, fun _ _ => 0⟩, ⟨2, 0, .ro, fun _ _ => 1⟩] }
def HST_TEST_CTRL : RegD := { base := 0x40000060, n1 := 16, s1 := 0x100000, dom := .host, fields := [
    ⟨21, 16, .rw, fun _ _ => 8⟩, ⟨12, 12, .rw1c, fun _ _ => 0⟩, ⟨9, 8, .rw, fun _ _ => 0⟩, ⟨4, 4, .rw, fun _ _ => 0⟩,
    ⟨3, 0, .rw, fun _ _ => 0⟩] }
def HST_CHK_CTRL : RegD := { base := 0x40000064, n1 := 16, s1 := 0x100000, dom := .host, fields := [
    ⟨21, 16, .rw, fun _ _ => 8⟩, ⟨9, 9, .rw1c, fun _ _ => 0⟩, ⟨8, 8, .ro, fun _ _ => 0⟩, ⟨4, 4, .rw, fun _ _ => 0⟩,
    ⟨3, 0, .rw, fun _ _ => 0⟩] }
def HST_CHK_SYM : RegD := { base := 0x40000068, n1 := 16, s1 := 0x100000, dom := .host, fields := [
    ⟨31, 0, .rc, fun _ _ => 0⟩] }
def HST_CHK_BIT : RegD := { base := 0x4000006c, n1 := 16, s1 := 0x100000, dom := .host, fields := [
    ⟨31, 0, .rc, fun _ _ => 0⟩] }
def HST_RSM_CTRL : RegD := { base := 0x40000080, n1 := 16, s1 := 0x100000, dom := .host, fields := [
    ⟨31, 16, .rw, fun _ _ => 0⟩, ⟨8, 8, .rw, fun _ _ => 0⟩, ⟨1, 1, .wo, fun _ _ => 0⟩, ⟨0, 0, .rw, fun _ _ => 0⟩] }
def HST_RSM_STAT : RegD := { base := 0x40000084, n1 := 16, s1 := 0x100000, dom := .host, fields := [
    ⟨31, 16, .ro, fun _ _ => 0⟩, ⟨5, 4, .ro, fun _ _ => 0⟩, ⟨2, 2, .rw1c, fun _ _ => 0⟩, ⟨1, 1, .rw1c, fun _ _ => 0⟩,
    ⟨0, 0, .ro, fun _ _ => 0⟩] }
def HST_RSM_LO : RegD := { base := 0x400000a0, n1 := 16, s1 := 0x100000, n2 := 5, s2 := 8, dom := .host, fields := [
    ⟨31, 0, .ro, fun _ _ => 0⟩] }
def HST_RSM_HI : RegD := { base := 0x400000a4, n1 := 16, s1 := 0x100000, n2 := 5, s2 := 8, dom := .host, fields := [
    ⟨15, 0, .ro, fun _ _ => 0⟩] }
def HST_FFE_TAP : RegD := { base := 0x40000100, n1 := 16, s1 := 0x100000, n2 := 16, s2 := 4, dom := .host, fields := [
    ⟨27, 16, .rw, fun _ _ => 0⟩, ⟨11, 0, .rw, fun _ m => if m = 4 then 0x400 else 0⟩] }
def OLC_CTRL : RegD := { base := 0x50000000, n1 := 9, s1 := 0x100, dom := .line, fields := [
    ⟨2, 0, .rw, fun _ _ => 0⟩] }
def OLC_STAT : RegD := { base := 0x50000004, n1 := 9, s1 := 0x100, dom := .aon, fields := [
    ⟨31, 24, .ro, fun _ _ => 0⟩, ⟨19, 16, .ro, fun _ _ => 0⟩, ⟨9, 9, .ro, fun _ _ => 0⟩, ⟨8, 8, .ro, fun _ _ => 0⟩,
    ⟨7, 7, .ro, fun _ _ => 0⟩, ⟨6, 4, .ro, fun _ _ => 0⟩, ⟨3, 3, .ro, fun _ _ => 0⟩, ⟨2, 0, .ro, fun _ _ => 0⟩] }
def OLC_PROBE : RegD := { base := 0x50000008, n1 := 9, s1 := 0x100, dom := .line, fields := [
    ⟨31, 16, .rw, fun _ _ => 0xa⟩, ⟨13, 12, .rw, fun _ _ => 0⟩, ⟨11, 8, .rw, fun _ _ => 1⟩,
    ⟨5, 4, .rw, fun _ _ => 0⟩, ⟨0, 0, .wo, fun _ _ => 0⟩] }
def OLC_FAULT : RegD := { base := 0x5000000c, n1 := 9, s1 := 0x100, dom := .aon, fields := [
    ⟨31, 24, .ro, fun _ _ => 0⟩, ⟨8, 8, .rwl, fun _ _ => 0⟩, ⟨5, 0, .rw1c, fun _ _ => 0⟩] }
def OLC_CODE : RegD := { base := 0x50000010, n1 := 9, s1 := 0x100, n2 := 5, s2 := 4, dom := .line, fields := [
    ⟨31, 31, .ro, fun _ _ => 0⟩, ⟨30, 30, .ro, fun _ _ => 0⟩, ⟨29, 29, .rw1c, fun _ _ => 0⟩,
    ⟨24, 24, .rw, fun _ k => if k = 0 then 1 else 0⟩, ⟨21, 16, .rw, fun _ _ => 0⟩, ⟨15, 0, .rw, fun _ _ => 0⟩] }
def OLC_LOCK_CFG : RegD := { base := 0x50000040, n1 := 9, s1 := 0x100, dom := .aon, fields := [
    ⟨31, 31, .rw, fun _ _ => 0⟩, ⟨30, 30, .rw, fun _ _ => 0⟩, ⟨29, 29, .rw, fun _ _ => 0⟩,
    ⟨28, 28, .rw, fun _ _ => 0⟩, ⟨27, 24, .rw, fun _ _ => 4⟩, ⟨23, 16, .rw, fun _ _ => 8⟩,
    ⟨15, 0, .rw, fun _ _ => 0⟩] }
def OLC_LOCK_STAT : RegD := { base := 0x50000044, n1 := 9, s1 := 0x100, dom := .aon, fields := [
    ⟨31, 31, .ro, fun _ _ => 0⟩, ⟨15, 0, .ro, fun _ _ => 0⟩] }
def OLC_SAFE_LIM : RegD := { base := 0x50000050, n1 := 9, s1 := 0x100, dom := .aon, fields := [
    ⟨31, 16, .rwl, fun _ _ => 0⟩, ⟨15, 15, .rwl, fun _ _ => 0⟩, ⟨11, 0, .rwl, fun _ _ => 0⟩] }
def OLC_STROBE : RegD := { base := 0x50000f00, dom := .aon, fields := [⟨3, 0, .wo, fun _ _ => 0⟩] }
def OLC_STROBE_CFG : RegD := { base := 0x50000f04, dom := .aon, fields := [⟨3, 0, .rw, fun _ _ => 0xf⟩] }
def OLC_SAFE_GLB : RegD := { base := 0x50000f10, dom := .aon, fields := [
    ⟨31, 16, .rwl, fun _ _ => 0⟩, ⟨15, 8, .rwl, fun _ _ => 0x73⟩] }
def OLC_VLAS : RegD := { base := 0x50000f14, dom := .aon, fields := [
    ⟨27, 16, .ro, fun _ _ => 0⟩, ⟨11, 0, .ro, fun _ _ => 0⟩] }
def OLC_CH_CFG : RegD := { base := 0x50001000, n1 := 45, s1 := 0x20, dom := .aon, fields := [
    ⟨31, 30, .rw, fun _ _ => 0⟩, ⟨25, 16, .rw, fun c _ => if c % 5 = 0 then 25 else 1⟩,
    ⟨15, 0, .rw, fun c _ => if c % 5 = 0 then 512 else if c % 5 < 3 then 64 else 16⟩] }
def OLC_CH_WAV : RegD := { base := 0x50001004, n1 := 45, s1 := 0x20, dom := .aon, fields := [
    ⟨31, 30, .rw, fun _ _ => 0⟩, ⟨29, 29, .rw, fun _ _ => 0⟩, ⟨27, 16, .rw, fun _ _ => 0⟩, ⟨1, 1, .wo, fun _ _ => 0⟩,
    ⟨0, 0, .wo, fun _ _ => 0⟩] }
def OLC_CH_WBASE : RegD := { base := 0x50001008, n1 := 45, s1 := 0x20, dom := .aon, fields := [
    ⟨21, 6, .rw, fun _ _ => 0⟩] }
def OLC_CH_WLEN : RegD := { base := 0x5000100c, n1 := 45, s1 := 0x20, dom := .aon, fields := [
    ⟨22, 6, .rw, fun _ _ => 1⟩] }
def OLC_CH_OUT : RegD := { base := 0x50001010, n1 := 45, s1 := 0x20, dom := .aon, fields := [
    ⟨31, 31, .ro, fun _ _ => 0⟩, ⟨30, 30, .ro, fun _ _ => 0⟩, ⟨29, 29, .ro, fun _ _ => 0⟩,
    ⟨15, 0, .ro, fun _ _ => 0⟩] }
def LYD_CTRL : RegD := { base := 0x58000000, n1 := 9, s1 := 0x1000, dom := .line, fields := [
    ⟨11, 8, .rw, fun _ _ => 0xc⟩, ⟨2, 2, .rw, fun _ _ => 0⟩, ⟨1, 1, .rw, fun _ _ => 0⟩, ⟨0, 0, .rw, fun _ _ => 0⟩] }
def LYD_PHY_STAT : RegD := { base := 0x58000004, n1 := 9, s1 := 0x1000, dom := .line, fields := [
    ⟨31, 16, .ro, fun _ _ => 0⟩, ⟨15, 8, .ro, fun _ _ => 0⟩, ⟨7, 6, .ro, fun _ _ => 0⟩, ⟨5, 5, .rw1c, fun _ _ => 0⟩,
    ⟨4, 4, .rw1c, fun _ _ => 0⟩, ⟨3, 3, .ro, fun _ _ => 0⟩, ⟨0, 0, .ro, fun _ _ => 0⟩] }
def LYD_TX_FRAMES : RegD := { base := 0x58000010, n1 := 9, s1 := 0x1000, dom := .line, fields := [
    ⟨31, 0, .rc, fun _ _ => 0⟩] }
def LYD_RX_FRAMES : RegD := { base := 0x58000014, n1 := 9, s1 := 0x1000, dom := .line, fields := [
    ⟨31, 0, .rc, fun _ _ => 0⟩] }
def LYD_FCS_ERR : RegD := { base := 0x58000018, n1 := 9, s1 := 0x1000, dom := .line, fields := [
    ⟨31, 0, .rc, fun _ _ => 0⟩] }
def LYD_DROP : RegD := { base := 0x5800001c, n1 := 9, s1 := 0x1000, dom := .line, fields := [
    ⟨31, 0, .rc, fun _ _ => 0⟩] }
def LYD_VIT_CORR : RegD := { base := 0x58000020, n1 := 9, s1 := 0x1000, dom := .line, fields := [
    ⟨31, 0, .rc, fun _ _ => 0⟩] }
def LYD_ANCHOR_ERR : RegD := { base := 0x58000024, n1 := 9, s1 := 0x1000, dom := .line, fields := [
    ⟨31, 0, .rc, fun _ _ => 0⟩] }
def LYD_PTR_PART : RegD := { base := 0x58000040, n1 := 9, s1 := 0x1000, dom := .line, fields := [
    ⟨31, 0, .ro, fun _ _ => 0⟩] }
def LYD_PTR_SER_LO : RegD := { base := 0x58000044, n1 := 9, s1 := 0x1000, dom := .line, fields := [
    ⟨31, 0, .ro, fun _ _ => 0⟩] }
def LYD_PTR_SER_HI : RegD := { base := 0x58000048, n1 := 9, s1 := 0x1000, dom := .line, fields := [
    ⟨31, 0, .ro, fun _ _ => 0⟩] }
def LYD_PTR_INFO : RegD := { base := 0x5800004c, n1 := 9, s1 := 0x1000, dom := .line, fields := [
    ⟨31, 31, .ro, fun _ _ => 0⟩, ⟨27, 24, .ro, fun _ _ => 0⟩, ⟨23, 20, .ro, fun _ _ => 0⟩,
    ⟨19, 16, .ro, fun _ _ => 0xf⟩, ⟨15, 0, .ro, fun _ _ => 0⟩] }
def LYD_PTR_CAP : RegD := { base := 0x58000050, n1 := 9, s1 := 0x1000, dom := .line, fields := [
    ⟨31, 24, .ro, fun _ _ => 0⟩, ⟨23, 20, .ro, fun _ _ => 0xf⟩, ⟨18, 16, .ro, fun _ _ => 0⟩,
    ⟨15, 0, .ro, fun _ _ => 0⟩] }
def LYD_PTR_AGE : RegD := { base := 0x58000054, n1 := 9, s1 := 0x1000, dom := .line, fields := [
    ⟨31, 24, .ro, fun _ _ => 0⟩, ⟨19, 16, .ro, fun _ _ => 0⟩, ⟨15, 0, .ro, fun _ _ => 0⟩] }
def LYD_TXADJ_POL : RegD := { base := 0x58000060, n1 := 9, s1 := 0x1000, dom := .line, fields := [
    ⟨31, 24, .rw, fun _ _ => 0xa⟩, ⟨23, 14, .rw, fun _ _ => 0x100⟩, ⟨13, 6, .rw, fun _ _ => 0x20⟩,
    ⟨5, 5, .rw, fun _ _ => 0⟩, ⟨2, 2, .rw, fun _ _ => 0⟩, ⟨1, 0, .rw, fun _ _ => 0⟩] }
def LYD_TXADJ_STAT : RegD := { base := 0x58000064, n1 := 9, s1 := 0x1000, dom := .line, fields := [
    ⟨31, 24, .ro, fun _ _ => 0⟩, ⟨23, 16, .ro, fun _ _ => 0⟩, ⟨15, 8, .ro, fun _ _ => 0⟩,
    ⟨7, 0, .ro, fun _ _ => 0⟩] }
def LYD_FIR : RegD := { base := 0x58000100, n1 := 9, s1 := 0x1000, n2 := 16, s2 := 4, dom := .line, fields := [
    ⟨31, 16, .rw, fun _ q => lydDefaultCoef (2 * q + 1)⟩, ⟨15, 0, .rw, fun _ q => lydDefaultCoef (2 * q)⟩] }
def LYD_PER : RegD := { base := 0x5800f000, dom := .aon, fields := [
    ⟨23, 16, .rw, fun _ _ => 0xa⟩, ⟨15, 8, .rw, fun _ _ => 0xa⟩, ⟨7, 0, .rw, fun _ _ => 5⟩] }
def LYD_PART_CNT : RegD := { base := 0x5800f004, dom := .aon, fields := [⟨3, 0, .ro, fun _ _ => 0⟩] }
def LYD_USER_STAT : RegD := { base := 0x5800f010, dom := .aon, fields := [
    ⟨31, 16, .rc, fun _ _ => 0⟩, ⟨15, 0, .ro, fun _ _ => 0⟩] }
def LYD_USER_FREE : RegD := { base := 0x5800f014, dom := .aon, fields := [⟨15, 0, .wo, fun _ _ => 0⟩] }
def LYD_AGREE_SEQ : RegD := { base := 0x5800f030, dom := .aon, fields := [
    ⟨27, 16, .ro, fun _ _ => 0⟩, ⟨11, 0, .ro, fun _ _ => 0⟩] }
def LYD_AGREE_STAT : RegD := { base := 0x5800f034, dom := .aon, fields := [
    ⟨31, 24, .ro, fun _ _ => 0⟩, ⟨23, 20, .ro, fun _ _ => 0⟩, ⟨19, 16, .ro, fun _ _ => 0⟩,
    ⟨15, 8, .ro, fun _ _ => 0⟩, ⟨7, 6, .ro, fun _ _ => 0⟩, ⟨2, 0, .ro, fun _ _ => 0⟩] }
def TIM_STAT : RegD := { base := 0x12000004, dom := .aon, fields := [
    ⟨31, 16, .ro, fun _ _ => 0⟩, ⟨4, 4, .ro, fun _ _ => 0⟩, ⟨3, 3, .ro, fun _ _ => 0⟩, ⟨2, 2, .rw1c, fun _ _ => 0⟩,
    ⟨1, 1, .ro, fun _ _ => 1⟩, ⟨0, 0, .ro, fun _ _ => 0⟩] }
def TIM_SNAP_W0 : RegD := { base := 0x12000010, dom := .aon, fields := [⟨31, 0, .ro, fun _ _ => 0⟩] }
def TIM_SNAP_TOD : RegD := { base := 0x12000014, n1 := 3, s1 := 4, dom := .aon, fields := [
    ⟨31, 0, .ro, fun _ _ => 0⟩] }
def TIM_SNAP_W4 : RegD := { base := 0x12000020, dom := .aon, fields := [
    ⟨31, 31, .ro, fun _ _ => 0⟩, ⟨30, 30, .ro, fun _ _ => 0⟩, ⟨15, 0, .ro, fun _ _ => 0⟩] }
def TIM_RATE_LO : RegD := { base := 0x12000030, dom := .aon, fields := [⟨31, 0, .ro, fun _ _ => 0⟩] }
def TIM_RATE_HI : RegD := { base := 0x12000034, dom := .aon, fields := [⟨7, 0, .ro, fun _ _ => 1⟩] }
def TIM_RATE_NEW_LO : RegD := { base := 0x12000038, dom := .aon, fields := [⟨31, 0, .rw, fun _ _ => 0⟩] }
def TIM_RATE_NEW_HI : RegD := { base := 0x1200003c, dom := .aon, fields := [⟨7, 0, .rw, fun _ _ => 1⟩] }
def TIM_STEP_LO : RegD := { base := 0x12000040, dom := .aon, fields := [⟨31, 0, .rw, fun _ _ => 0⟩] }
def TIM_STEP_HI : RegD := { base := 0x12000044, dom := .aon, fields := [⟨31, 0, .rw, fun _ _ => 0⟩] }
def TIM_ADJ_CTRL : RegD := { base := 0x12000048, dom := .aon, fields := [
    ⟨2, 2, .wo, fun _ _ => 0⟩, ⟨1, 1, .wo, fun _ _ => 0⟩, ⟨0, 0, .wo, fun _ _ => 0⟩] }
def TIM_UNCERT : RegD := { base := 0x12000050, dom := .aon, fields := [⟨31, 0, .ro, fun _ _ => 0⟩] }
def TIM_SLEEP : RegD := { base := 0x12000054, dom := .aon, fields := [⟨31, 0, .ro, fun _ _ => 0⟩] }
def TIM_AON_LO : RegD := { base := 0x12000060, dom := .aon, fields := [⟨31, 0, .ro, fun _ _ => 0⟩] }
def TIM_AON_HI : RegD := { base := 0x12000064, dom := .aon, fields := [
    ⟨31, 8, .ro, fun _ _ => 0⟩, ⟨7, 0, .ro, fun _ _ => 0⟩] }
def TIM_TSQ_CFG : RegD := { base := 0x12000080, n1 := 2, s1 := 0x10, dom := .aon, fields := [
    ⟨19, 16, .rw, fun _ _ => 0⟩, ⟨8, 0, .rw, fun _ _ => 0⟩] }
def TIM_TSQ_STAT : RegD := { base := 0x12000084, n1 := 2, s1 := 0x10, dom := .aon, fields := [
    ⟨31, 16, .rc, fun _ _ => 0⟩, ⟨7, 7, .rw1c, fun _ _ => 0⟩, ⟨6, 0, .ro, fun _ _ => 0⟩] }
def TIM_TSQ_W : RegD := { base := 0x120000a0, n1 := 2, s1 := 0x10, n2 := 4, s2 := 4, dom := .aon, fields := [
    ⟨31, 0, .ro, fun _ _ => 0⟩] }
def TIM_PPSI_CTRL : RegD := { base := 0x12000100, dom := .aon, fields := [
    ⟨1, 1, .rw, fun _ _ => 0⟩, ⟨0, 0, .rw, fun _ _ => 0⟩] }
def TIM_PPSI_COMP : RegD := { base := 0x12000104, dom := .aon, fields := [⟨31, 0, .rw, fun _ _ => 0⟩] }
def TIM_PPSO_COMP : RegD := { base := 0x12000124, dom := .aon, fields := [⟨31, 0, .rw, fun _ _ => 0⟩] }
def TIM_TXCOMP : RegD := { base := 0x12000200, n1 := 9, s1 := 0x10, dom := .aon, fields := [
    ⟨31, 0, .rw, fun _ _ => 0⟩] }
def TIM_RXCOMP : RegD := { base := 0x12000204, n1 := 9, s1 := 0x10, dom := .aon, fields := [
    ⟨31, 0, .rw, fun _ _ => 0⟩] }
def TIM_ASYM : RegD := { base := 0x12000208, n1 := 9, s1 := 0x10, dom := .aon, fields := [
    ⟨31, 0, .rw, fun _ _ => 0⟩] }
def TIM_PPSI_W0 : RegD := { base := 0x12000108, dom := .aon, fields := [
    ⟨31, 31, .ro, fun _ _ => 0⟩, ⟨30, 30, .ro, fun _ _ => 0⟩, ⟨29, 28, .ro, fun _ _ => 0⟩] }
def TIM_PPSI_TOD : RegD := { base := 0x1200010c, n1 := 3, s1 := 4, dom := .aon, fields := [
    ⟨31, 0, .ro, fun _ _ => 0⟩] }
def TIM_PPSO_CTRL : RegD := { base := 0x12000120, dom := .aon, fields := [
    ⟨29, 8, .rw, fun _ _ => 0x186a0⟩, ⟨2, 2, .rw, fun _ _ => 0⟩, ⟨1, 1, .rw, fun _ _ => 0⟩,
    ⟨0, 0, .rw, fun _ _ => 0⟩] }
def TIM_TT_STAT : RegD := { base := 0x12000300, n1 := 9, s1 := 0x20, dom := .aon, fields := [
    ⟨31, 16, .ro, fun _ _ => 0⟩, ⟨2, 2, .ro, fun _ _ => 0⟩, ⟨1, 1, .ro, fun _ _ => 0⟩, ⟨0, 0, .ro, fun _ _ => 0⟩] }
def TIM_TT_LO : RegD := { base := 0x12000304, n1 := 9, s1 := 0x20, n2 := 2, s2 := 8, dom := .aon, fields := [
    ⟨31, 0, .ro, fun _ _ => 0⟩] }
def TIM_TT_HI : RegD := { base := 0x12000308, n1 := 9, s1 := 0x20, n2 := 2, s2 := 8, dom := .aon, fields := [
    ⟨15, 0, .ro, fun _ _ => 0⟩] }
def MBX_W0 : RegD := { base := 0x13000000, n1 := 15, s1 := 0x100, dom := .aon, fields := [
    ⟨31, 24, .ro, fun _ _ => 0⟩, ⟨23, 16, .rw, fun _ _ => 0⟩, ⟨15, 0, .rw, fun _ _ => 0⟩] }
def MBX_W : RegD := { base := 0x13000004, n1 := 15, s1 := 0x100, n2 := 15, s2 := 4, dom := .aon, fields := [
    ⟨31, 0, .rw, fun _ _ => 0⟩] }
def MBX_DB : RegD := { base := 0x13000040, n1 := 15, s1 := 0x100, dom := .aon, fields := [⟨0, 0, .wo, fun _ _ => 0⟩] }
def MBX_STAT : RegD := { base := 0x13000044, n1 := 15, s1 := 0x100, dom := .aon, fields := [
    ⟨31, 16, .ro, fun _ _ => 0⟩, ⟨15, 8, .ro, fun _ _ => 0⟩, ⟨4, 4, .ro, fun _ _ => 0⟩, ⟨3, 3, .rw1c, fun _ _ => 0⟩,
    ⟨2, 2, .rw1c, fun _ _ => 0⟩, ⟨1, 1, .ro, fun _ _ => 0⟩, ⟨0, 0, .ro, fun _ _ => 0⟩] }
def MBX_MASK : RegD := { base := 0x13000048, n1 := 15, s1 := 0x100, dom := .aon, fields := [
    ⟨0, 0, .rw, fun _ _ => 0⟩] }
def MBX_ENG_STAT : RegD := { base := 0x13001000, dom := .sys, fields := [
    ⟨31, 31, .ro, fun _ _ => 0⟩, ⟨11, 0, .ro, fun _ _ => 0⟩] }
def MBX_QUOTA : RegD := { base := 0x13001010, n1 := 6, s1 := 4, dom := .aon, fields := [
    ⟨11, 0, .rwl, fun _ _ => 0x100⟩] }
def MBX_USED : RegD := { base := 0x13001030, n1 := 6, s1 := 4, dom := .sys, fields := [⟨11, 0, .ro, fun _ _ => 0⟩] }
def MBX_RING_STAT : RegD := { base := 0x13001050, dom := .aon, fields := [
    ⟨31, 16, .ro, fun _ _ => 0⟩, ⟨15, 0, .ro, fun _ _ => 0⟩] }
def MBX_RING_LOST : RegD := { base := 0x13001054, dom := .aon, fields := [⟨31, 0, .rc, fun _ _ => 0⟩] }
def MBX_EVQ_STAT : RegD := { base := 0x13001058, dom := .aon, fields := [
    ⟨31, 16, .rc, fun _ _ => 0⟩, ⟨6, 0, .ro, fun _ _ => 0⟩] }
def MBX_IRING_W : RegD := { base := 0x13001100, n1 := 3, s1 := 0x20, n2 := 4, s2 := 4, dom := .aon, fields := [
    ⟨31, 0, .ro, fun _ _ => 0⟩] }
def MBX_IRING_STAT : RegD := { base := 0x13001110, n1 := 3, s1 := 0x20, dom := .aon, fields := [
    ⟨31, 16, .rc, fun _ _ => 0⟩, ⟨6, 0, .ro, fun _ _ => 0⟩] }
def KNT_CTRL : RegD := { base := 0x14000000, dom := .aon, fields := [
    ⟨23, 16, .rw, fun _ _ => 0xa⟩, ⟨15, 0, .rw, fun _ _ => 0x3c⟩] }
def KNT_STAT : RegD := { base := 0x14000004, dom := .aon, fields := [
    ⟨19, 16, .ro, fun _ _ => 0⟩, ⟨11, 0, .ro, fun _ _ => 0⟩] }
def KNT_GANG_CFG : RegD := { base := 0x14000008, dom := .aon, fields := [⟨15, 0, .rw, fun _ _ => 0xc8⟩] }
def KNT_SLOT_STAT : RegD := { base := 0x14000100, n1 := 8, s1 := 0x20, dom := .aon, fields := [
    ⟨31, 24, .ro, fun _ _ => 0⟩, ⟨23, 16, .ro, fun _ _ => 0⟩, ⟨15, 13, .ro, fun _ _ => 0⟩,
    ⟨12, 12, .ro, fun _ _ => 0⟩, ⟨11, 11, .ro, fun _ _ => 0⟩, ⟨9, 0, .ro, fun _ _ => 0⟩] }
def KNT_SLOT_INFO : RegD := { base := 0x14000104, n1 := 8, s1 := 0x20, dom := .aon, fields := [
    ⟨31, 24, .ro, fun _ _ => 0⟩, ⟨17, 16, .ro, fun _ _ => 0⟩, ⟨12, 12, .ro, fun _ _ => 0⟩,
    ⟨8, 0, .ro, fun _ _ => 0⟩] }
def KNT_SLOT_TGT : RegD := { base := 0x14000108, n1 := 8, s1 := 0x20, n2 := 3, s2 := 4, dom := .aon, fields := [
    ⟨31, 0, .ro, fun _ _ => 0⟩] }
def KNT_SLOT_LANES : RegD := { base := 0x14000114, n1 := 8, s1 := 0x20, dom := .aon, fields := [
    ⟨24, 16, .ro, fun _ _ => 0⟩, ⟨8, 0, .ro, fun _ _ => 0⟩] }
def KNT_SLOT_ERR : RegD := { base := 0x14000118, n1 := 8, s1 := 0x20, dom := .aon, fields := [
    ⟨31, 0, .ro, fun _ _ => 0⟩] }
def TOP_BOOT_STAT : RegD := { base := 0x10000100, dom := .aon, fields := [
    ⟨28, 26, .ro, fun _ _ => 0⟩, ⟨25, 25, .ro, fun _ _ => 0⟩, ⟨24, 24, .ro, fun _ _ => 0⟩,
    ⟨23, 16, .ro, fun _ _ => 0⟩, ⟨15, 8, .ro, fun _ _ => 0⟩, ⟨7, 0, .ro, fun _ _ => 0⟩] }
def TOP_RIG_CTRL : RegD := { base := 0x10000104, dom := .sys, fields := [
    ⟨8, 8, .wo, fun _ _ => 0⟩, ⟨0, 0, .wo, fun _ _ => 0⟩] }
def TOP_WDOG_CFG : RegD := { base := 0x10000108, dom := .aon, fields := [
    ⟨16, 16, .rwl, fun _ _ => 1⟩, ⟨15, 0, .rwl, fun _ _ => 0x1f4⟩] }
def TOP_OTP_SVN : RegD := { base := 0x1000010c, dom := .por, fields := [
    ⟨31, 31, .ro, fun _ _ => 0⟩, ⟨30, 30, .ro, fun _ _ => 0⟩, ⟨29, 28, .ro, fun _ _ => 0⟩,
    ⟨27, 24, .ro, fun _ _ => 0⟩, ⟨23, 16, .ro, fun _ _ => 0⟩, ⟨15, 8, .ro, fun _ _ => 0⟩,
    ⟨7, 0, .ro, fun _ _ => 0⟩] }
def MON_ADC_CTRL : RegD := { base := 0x15000000, dom := .aon, fields := [
    ⟨31, 24, .rw, fun _ _ => 0x64⟩, ⟨16, 16, .ro, fun _ _ => 0⟩, ⟨8, 8, .rw, fun _ _ => 0⟩,
    ⟨0, 0, .rw, fun _ _ => 0⟩] }
def MON_ADC_SEQ : RegD := { base := 0x15000004, dom := .aon, fields := [
    ⟨31, 16, .rw, fun _ _ => 0x3e8⟩, ⟨6, 0, .rw, fun _ _ => 0x40⟩] }
def MON_ADC_URG : RegD := { base := 0x15000008, dom := .aon, fields := [
    ⟨8, 8, .wo, fun _ _ => 0⟩, ⟨5, 0, .rw, fun _ _ => 0⟩] }
def MON_ADC_URGRES : RegD := { base := 0x1500000c, dom := .aon, fields := [
    ⟨31, 31, .ro, fun _ _ => 0⟩, ⟨30, 30, .ro, fun _ _ => 0⟩, ⟨15, 0, .ro, fun _ _ => 0⟩] }
def MON_ADC_STAT : RegD := { base := 0x15000010, dom := .aon, fields := [
    ⟨31, 16, .rc, fun _ _ => 0⟩, ⟨15, 0, .rc, fun _ _ => 0⟩] }
def MON_IRQ_STAT : RegD := { base := 0x15000020, dom := .aon, fields := [
    ⟨4, 4, .rw1c, fun _ _ => 0⟩, ⟨3, 3, .ro, fun _ _ => 0⟩, ⟨2, 2, .rw1c, fun _ _ => 0⟩, ⟨1, 1, .rw1c, fun _ _ => 0⟩,
    ⟨0, 0, .ro, fun _ _ => 0⟩] }
def MON_IRQ_EN : RegD := { base := 0x15000024, dom := .aon, fields := [
    ⟨12, 8, .rw, fun _ _ => 0x1f⟩, ⟨4, 0, .rw, fun _ _ => 0⟩] }
def MON_SEQ_LIST : RegD := { base := 0x15000040, n1 := 16, s1 := 4, dom := .aon, fields := [
    ⟨29, 24, .rw, fun q _ => 4 * q + 3⟩, ⟨21, 16, .rw, fun q _ => 4 * q + 2⟩, ⟨13, 8, .rw, fun q _ => 4 * q + 1⟩,
    ⟨5, 0, .rw, fun q _ => 4 * q⟩] }
def MON_IN_CFG : RegD := { base := 0x15000100, n1 := 64, s1 := 0x10, dom := .aon, fields := [
    ⟨31, 31, .rw, fun c _ => if 53 ≤ c ∧ c ≤ 59 then 1 else 0⟩, ⟨30, 28, .rw, fun _ _ => 0⟩,
    ⟨27, 22, .rw, fun _ _ => 0⟩, ⟨21, 12, .rw, fun _ _ => 0⟩, ⟨11, 0, .rw, fun _ _ => 1⟩] }
def MON_IN_CAL : RegD := { base := 0x15000104, n1 := 64, s1 := 0x10, dom := .aon, fields := [
    ⟨31, 16, .rwl, fun _ _ => 0⟩, ⟨15, 0, .rwl, fun _ _ => 0⟩] }
def MON_IN_RES : RegD := { base := 0x15000108, n1 := 64, s1 := 0x10, dom := .aon, fields := [
    ⟨31, 31, .ro, fun _ _ => 0⟩, ⟨30, 28, .ro, fun _ _ => 0⟩, ⟨27, 16, .ro, fun _ _ => 0⟩,
    ⟨15, 0, .ro, fun _ _ => 0⟩] }
def MON_WIN_LO : RegD := { base := 0x15000800, n1 := 80, s1 := 0x10, dom := .aon, fields := [
    ⟨31, 16, .rwl, fun _ _ => 0⟩, ⟨15, 0, .rwl, fun _ _ => 0⟩] }
def MON_WIN_HI : RegD := { base := 0x15000804, n1 := 80, s1 := 0x10, dom := .aon, fields := [
    ⟨31, 16, .rwl, fun _ _ => 0⟩, ⟨15, 0, .rwl, fun _ _ => 0⟩] }
def MON_WIN_CFG : RegD := { base := 0x15000808, n1 := 80, s1 := 0x10, dom := .aon, fields := [
    ⟨31, 31, .rw, fun _ _ => 0⟩, ⟨30, 30, .rw, fun _ _ => 0⟩, ⟨21, 16, .rw, fun w _ => if w < 64 then w else 0⟩,
    ⟨15, 8, .rw, fun _ _ => 0⟩, ⟨2, 0, .rw, fun _ _ => 1⟩] }
def MON_WIN_STAT : RegD := { base := 0x1500080c, n1 := 80, s1 := 0x10, dom := .aon, fields := [
    ⟨31, 16, .ro, fun _ _ => 0⟩, ⟨7, 7, .rw1c, fun _ _ => 0⟩, ⟨6, 3, .rw1c, fun _ _ => 0⟩,
    ⟨2, 0, .ro, fun _ _ => 0⟩] }
def MON_FTH_CFG : RegD := { base := 0x15002000, n1 := 32, s1 := 0x20, dom := .aon, fields := [
    ⟨31, 24, .rw, fun _ _ => 0⟩, ⟨23, 20, .rw, fun _ _ => 0xf⟩, ⟨19, 18, .rw, fun _ _ => 0⟩,
    ⟨17, 17, .rw, fun _ _ => 0⟩, ⟨16, 16, .ro, fun _ _ => 0⟩, ⟨1, 1, .wo, fun _ _ => 0⟩, ⟨0, 0, .wo, fun _ _ => 0⟩] }
def MON_FTH_FILT : RegD := { base := 0x15002004, n1 := 32, s1 := 0x20, dom := .aon, fields := [
    ⟨31, 0, .rw, fun _ _ => 0⟩] }
def MON_FTH_BASE : RegD := { base := 0x1500200c, n1 := 32, s1 := 0x20, dom := .aon, fields := [
    ⟨31, 0, .rw, fun _ _ => 0⟩] }
def MON_FTH_LIM : RegD := { base := 0x15002010, n1 := 32, s1 := 0x20, dom := .aon, fields := [
    ⟨31, 0, .rw, fun _ _ => 0⟩] }
def MON_FTH_BIN : RegD := { base := 0x15002008, n1 := 32, s1 := 0x20, dom := .aon, fields := [
    ⟨4, 0, .rw, fun _ _ => 0⟩] }
def MON_FTH_STAT : RegD := { base := 0x15002014, n1 := 32, s1 := 0x20, dom := .aon, fields := [
    ⟨31, 16, .ro, fun _ _ => 0⟩, ⟨7, 7, .ro, fun _ _ => 0⟩, ⟨6, 6, .ro, fun _ _ => 0⟩, ⟨5, 5, .rw1c, fun _ _ => 0⟩,
    ⟨4, 4, .ro, fun _ _ => 0⟩] }
def MON_FTH_DROP : RegD := { base := 0x15002018, n1 := 32, s1 := 0x20, dom := .aon, fields := [
    ⟨31, 0, .rc, fun _ _ => 0⟩] }
def PMU_CNT_LO : RegD := { base := 0x16000000, n1 := 256, s1 := 8, dom := .aon, fields := [
    ⟨31, 0, .ro, fun _ _ => 0⟩] }
def PMU_CNT_HI : RegD := { base := 0x16000004, n1 := 256, s1 := 8, dom := .aon, fields := [
    ⟨15, 0, .ro, fun _ _ => 0⟩] }
def PMU_CHAIN : RegD := { base := 0x16001000, n1 := 8, s1 := 4, dom := .aon, fields := [⟨31, 0, .rw, fun _ _ => 0⟩] }
def PMU_OVF : RegD := { base := 0x16001020, n1 := 8, s1 := 4, dom := .aon, fields := [⟨31, 0, .rw1c, fun _ _ => 0⟩] }
def PMU_CTRL : RegD := { base := 0x16001040, dom := .aon, fields := [
    ⟨16, 16, .rw, fun _ _ => 0⟩, ⟨0, 0, .wo, fun _ _ => 0⟩] }
def PMU_SAMP_CFG : RegD := { base := 0x16001100, n1 := 4, s1 := 0x10, dom := .aon, fields := [
    ⟨31, 31, .rw, fun _ _ => 0⟩, ⟨30, 30, .rw1c, fun _ _ => 0⟩, ⟨29, 29, .rw1c, fun _ _ => 0⟩,
    ⟨27, 26, .rw, fun _ _ => 0⟩, ⟨7, 0, .rw, fun _ _ => 0⟩] }
def PMU_SAMP_PER : RegD := { base := 0x16001104, n1 := 4, s1 := 0x10, dom := .aon, fields := [
    ⟨31, 0, .rw, fun _ _ => 0⟩] }
def PMU_SAMP_PC_LO : RegD := { base := 0x16001108, n1 := 4, s1 := 0x10, dom := .aon, fields := [
    ⟨31, 0, .ro, fun _ _ => 0⟩] }
def PMU_SAMP_PC_HI : RegD := { base := 0x1600110c, n1 := 4, s1 := 0x10, dom := .aon, fields := [
    ⟨31, 0, .ro, fun _ _ => 0⟩] }
def PWR_STATE : RegD := { base := 0x11000000, dom := .aon, fields := [
    ⟨8, 8, .ro, fun _ _ => 0⟩, ⟨5, 4, .ro, fun _ _ => 2⟩, ⟨3, 3, .ro, fun _ _ => 0⟩, ⟨1, 0, .ro, fun _ _ => 2⟩] }
def PWR_ANCHOR_CFG : RegD := { base := 0x11000004, dom := .aon, fields := [
    ⟨31, 16, .rw, fun _ _ => 0x64⟩, ⟨1, 1, .rw, fun _ _ => 0⟩, ⟨0, 0, .rw, fun _ _ => 1⟩] }
def PWR_REFUSE : RegD := { base := 0x11000008, dom := .aon, fields := [
    ⟨31, 24, .ro, fun _ _ => 0⟩, ⟨23, 16, .ro, fun _ _ => 0⟩, ⟨15, 0, .ro, fun _ _ => 0⟩] }
def PWR_REFUSE_CNT : RegD := { base := 0x1100000c, dom := .aon, fields := [
    ⟨31, 16, .rc, fun _ _ => 0⟩, ⟨15, 0, .rc, fun _ _ => 0⟩] }
def PWR_BLK_EN : RegD := { base := 0x11000020, dom := .aon, fields := [
    ⟨31, 31, .rw1c, fun _ _ => 0⟩, ⟨26, 26, .rw, fun _ _ => 1⟩, ⟨25, 25, .rw, fun _ _ => 1⟩,
    ⟨24, 24, .rw, fun _ _ => 1⟩, ⟨19, 16, .rw, fun _ _ => 0xf⟩, ⟨8, 0, .rw, fun _ _ => 0xff⟩] }
def PWR_CLK_STAT : RegD := { base := 0x11000024, dom := .aon, fields := [
    ⟨19, 16, .ro, fun _ _ => 0⟩, ⟨12, 4, .ro, fun _ _ => 0⟩, ⟨3, 3, .ro, fun _ _ => 0⟩, ⟨2, 2, .ro, fun _ _ => 0⟩,
    ⟨1, 1, .ro, fun _ _ => 0⟩, ⟨0, 0, .ro, fun _ _ => 0⟩] }
def PWR_REG_STAT : RegD := { base := 0x11000028, dom := .aon, fields := [
    ⟨9, 9, .ro, fun _ _ => 0⟩, ⟨8, 8, .ro, fun _ _ => 0⟩, ⟨6, 0, .ro, fun _ _ => 0xf⟩] }
def PWR_LANE_RST : RegD := { base := 0x11000030, dom := .aon, fields := [
    ⟨31, 16, .wo, fun _ _ => 0⟩, ⟨8, 0, .wo, fun _ _ => 0⟩] }
def PWR_RST : RegD := { base := 0x11000034, dom := .aon, fields := [⟨0, 0, .rwl, fun _ _ => 0⟩] }
def PWR_RST_CAUSE : RegD := { base := 0x11000038, dom := .por, fields := [⟨7, 0, .ro, fun _ _ => 1⟩] }
def PWR_OFFACC_ADDR : RegD := { base := 0x11000040, dom := .aon, fields := [⟨31, 0, .ro, fun _ _ => 0⟩] }
def PWR_OFFACC_STAT : RegD := { base := 0x11000044, dom := .aon, fields := [
    ⟨31, 24, .ro, fun _ _ => 0⟩, ⟨20, 20, .ro, fun _ _ => 0⟩, ⟨19, 16, .ro, fun _ _ => 0⟩,
    ⟨15, 0, .rc, fun _ _ => 0⟩] }
def PWR_ACCT : RegD := { base := 0x11000100, n1 := 8, s1 := 4, dom := .aon, fields := [
    ⟨31, 16, .ro, fun _ _ => 0⟩, ⟨15, 0, .ro, fun _ _ => 0⟩] }
def ECC_CTRL : RegD := { base := 0x17000000, dom := .aon, fields := [
    ⟨8, 8, .wo, fun _ _ => 0⟩, ⟨5, 0, .rw, fun _ _ => 0xa⟩] }
def ECC_STAT : RegD := { base := 0x17000004, dom := .aon, fields := [
    ⟨31, 16, .rc, fun _ _ => 0⟩, ⟨15, 8, .ro, fun _ _ => 0⟩, ⟨7, 7, .rw, fun _ _ => 1⟩, ⟨6, 0, .ro, fun _ _ => 0⟩] }
def ECC_SCRUB_STAT : RegD := { base := 0x17000008, dom := .aon, fields := [
    ⟨31, 22, .ro, fun _ _ => 0⟩, ⟨21, 0, .ro, fun _ _ => 0⟩] }
def ECC_INJ_ADDR : RegD := { base := 0x17000010, dom := .aon, fields := [⟨31, 0, .rwl, fun _ _ => 0⟩] }
def ECC_DMA_ADDR : RegD := { base := 0x17000024, dom := .aon, fields := [⟨31, 0, .ro, fun _ _ => 0⟩] }
def ECC_INJ_CTRL : RegD := { base := 0x17000014, dom := .aon, fields := [
    ⟨31, 31, .rwl, fun _ _ => 0⟩, ⟨16, 16, .rwl, fun _ _ => 0⟩, ⟨15, 8, .rwl, fun _ _ => 0⟩,
    ⟨7, 0, .rwl, fun _ _ => 0⟩] }
def ECC_DMA_STAT : RegD := { base := 0x17000020, dom := .aon, fields := [
    ⟨31, 16, .rc, fun _ _ => 0⟩, ⟨1, 0, .ro, fun _ _ => 0⟩] }
def ECC_LOG_W : RegD := { base := 0x17000100, n1 := 64, s1 := 0x10, n2 := 4, s2 := 4, dom := .aon, fields := [
    ⟨31, 0, .ro, fun _ _ => 0⟩] }
def ECC_RETIRE : RegD := { base := 0x17000800, n1 := 64, s1 := 4, dom := .aon, fields := [
    ⟨31, 31, .ro, fun _ _ => 0⟩, ⟨24, 12, .ro, fun _ _ => 0⟩] }
def BST_STAT : RegD := { base := 0x17800000, dom := .aon, fields := [⟨21, 0, .ro, fun _ _ => 0⟩] }
def BST_FAIL : RegD := { base := 0x17800004, dom := .aon, fields := [⟨21, 0, .ro, fun _ _ => 0⟩] }
def BST_LAST : RegD := { base := 0x17800008, dom := .aon, fields := [⟨21, 0, .ro, fun _ _ => 0⟩] }
def HWS_PORT_CTRL : RegD := { base := 0x60000000, n1 := 3, s1 := 0x40, dom := .aon, fields := [
    ⟨27, 24, .rw, fun _ _ => 0⟩, ⟨20, 16, .rw, fun _ _ => 8⟩, ⟨15, 15, .rw, fun _ _ => 0⟩, ⟨1, 1, .wo, fun _ _ => 0⟩,
    ⟨0, 0, .rw, fun _ _ => 0⟩] }
def HWS_PORT_STAT : RegD := { base := 0x60000004, n1 := 3, s1 := 0x40, dom := .aon, fields := [
    ⟨30, 24, .ro, fun _ _ => 0⟩, ⟨23, 16, .rc, fun _ _ => 0⟩, ⟨15, 12, .rc, fun _ _ => 0⟩,
    ⟨8, 8, .rw1c, fun _ _ => 0⟩, ⟨7, 7, .ro, fun _ _ => 0⟩, ⟨6, 6, .ro, fun _ _ => 0⟩, ⟨5, 5, .ro, fun _ _ => 0⟩,
    ⟨4, 4, .ro, fun _ _ => 1⟩, ⟨2, 0, .ro, fun _ _ => 0⟩] }
def HWS_PORT_ERR : RegD := { base := 0x60000008, n1 := 3, s1 := 0x40, dom := .aon, fields := [
    ⟨31, 0, .rc, fun _ _ => 0⟩] }
def HWS_PORT_REPLAY : RegD := { base := 0x6000000c, n1 := 3, s1 := 0x40, dom := .aon, fields := [
    ⟨31, 0, .rc, fun _ _ => 0⟩] }
def HWS_PORT_COMP : RegD := { base := 0x60000010, n1 := 3, s1 := 0x40, dom := .aon, fields := [
    ⟨31, 0, .rw, fun _ _ => 0⟩] }
def HWS_PORT_SER : RegD := { base := 0x60000014, n1 := 3, s1 := 0x40, n2 := 2, s2 := 4, dom := .aon, fields := [
    ⟨31, 0, .ro, fun _ _ => 0⟩] }
def HWS_PORT_FIR : RegD := { base := 0x6000001c, n1 := 3, s1 := 0x40, dom := .aon, fields := [
    ⟨19, 16, .ro, fun _ _ => 0⟩, ⟨12, 8, .ro, fun _ _ => 8⟩, ⟨0, 0, .ro, fun _ _ => 0⟩] }
def HWS_GANG_STAT : RegD := { base := 0x60000200, dom := .aon, fields := [
    ⟨30, 24, .ro, fun _ _ => 0⟩, ⟨23, 16, .ro, fun _ _ => 1⟩, ⟨13, 13, .ro, fun _ _ => 0⟩,
    ⟨12, 12, .ro, fun _ _ => 0⟩, ⟨11, 11, .ro, fun _ _ => 0⟩, ⟨10, 10, .ro, fun _ _ => 0⟩, ⟨9, 9, .ro, fun _ _ => 0⟩,
    ⟨8, 8, .ro, fun _ _ => 0⟩, ⟨7, 7, .ro, fun _ _ => 0⟩, ⟨6, 0, .ro, fun _ _ => 0⟩] }
def HWS_GANG_EPOCH : RegD := { base := 0x60000204, dom := .aon, fields := [⟨31, 0, .ro, fun _ _ => 0⟩] }
def HWS_GANG_DIGEST : RegD := { base := 0x60000208, dom := .aon, fields := [⟨31, 0, .ro, fun _ _ => 0⟩] }
def HWS_DISC_STAT : RegD := { base := 0x6000020c, dom := .aon, fields := [
    ⟨30, 24, .ro, fun _ _ => 0⟩, ⟨17, 16, .ro, fun _ _ => 3⟩, ⟨15, 0, .ro, fun _ _ => 0⟩] }
def HWS_TIME_CFG : RegD := { base := 0x60000220, dom := .aon, fields := [
    ⟨28, 28, .rw, fun _ _ => 1⟩, ⟨23, 16, .rw, fun _ _ => 1⟩, ⟨9, 0, .rw, fun _ _ => 0x32⟩] }
def HWS_TIME_STAT : RegD := { base := 0x60000224, dom := .aon, fields := [
    ⟨24, 24, .ro, fun _ _ => 0⟩, ⟨23, 16, .ro, fun _ _ => 0⟩, ⟨15, 0, .ro, fun _ _ => 0⟩] }
def HWS_TIME_THETA : RegD := { base := 0x60000228, dom := .aon, fields := [⟨31, 0, .ro, fun _ _ => 0⟩] }
def HWS_DROP : RegD := { base := 0x60000240, dom := .aon, fields := [
    ⟨31, 24, .rc, fun _ _ => 0⟩, ⟨23, 12, .rc, fun _ _ => 0⟩, ⟨11, 0, .rc, fun _ _ => 0⟩] }
def HWS_PG_STAT : RegD := { base := 0x60000280, dom := .aon, fields := [
    ⟨31, 16, .ro, fun _ _ => 0⟩, ⟨5, 5, .ro, fun _ _ => 0⟩, ⟨4, 4, .ro, fun _ _ => 0⟩, ⟨3, 3, .ro, fun _ _ => 0⟩,
    ⟨1, 1, .ro, fun _ _ => 0⟩, ⟨0, 0, .ro, fun _ _ => 0⟩] }
def HWS_PG_WAIT : RegD := { base := 0x60000284, dom := .aon, fields := [⟨15, 0, .rc, fun _ _ => 0⟩] }

end R

def table00 : List RegD :=
  [R.TOP_ID]

def table01 : List RegD :=
  [R.TOP_DECERR_ADDR, R.TOP_DECERR_STAT]

def table0203 : List RegD :=
  [R.LTX_LANE_CFG, R.LTX_AM_SEQ, R.LTX_LANE_STAT, R.LRX_FRAME_STAT, R.LRX_AM_SEQ, R.LRX_PROT_STAT, 
   R.LRX_PROT_SKEW, R.LTX_SLIP_STAT, R.LTX_MAP_CFG, R.LTX_ERR_INJ, R.LTX_ERR_INJ_CNT, R.LTX_SHAPE_CTRL, 
   R.LTX_SHAPE_STAT, R.LTX_CLIP_CNT, R.LTX_FIR_TAP, R.LTX_PD_ENT, R.LTX_MASK_CTRL, R.LTX_MASK_STAT, 
   R.LTX_MASK_HITS, R.LTX_MASK_LIM, R.LTX_PSD, R.LTX_PLL_STAT, R.LTX_DRV_CFG, R.LTX_LYD_ADD, R.LTX_PAT_CTRL, 
   R.LTX_PAT_BASE, R.LTX_PAT_LEN, R.LTX_CAL_CTRL, R.LTX_CAL_STAT]

def table04 : List RegD :=
  [R.LRX_TIA_CTRL, R.LRX_TIA_STAT, R.LRX_ADC_STAT, R.LRX_ADC_CLIP, R.LRX_FP_CW, R.LRX_FP_CORR, R.LRX_FP_CAND, 
   R.LRX_FP_FAIL, R.LRX_CHK_SYM, R.LRX_CHK_BIT, R.LRX_EQ_CTRL, R.LRX_EQ_STAT, R.LRX_TR_CTRL, R.LRX_TR_STAT, 
   R.LRX_LOS_CFG, R.LRX_LOS_STAT, R.LRX_FP_CFG, R.LRX_CAL_CTRL, R.LRX_CAL_STAT, R.LRX_CHK_CTRL, R.LRX_CHK_STAT, 
   R.LRX_CAP_CTRL, R.LRX_CAP_STAT, R.LRX_FFE_TAP, R.LRX_MLSE_REF, R.WNC_CTRL, R.WNC_STAT, R.WNC_SLOT_RET, 
   R.WNC_SLOT_WST, R.WNC_SLOT_SF, R.WNC_SLOT_SB, R.WNC_LANE_CFG, R.WNC_FOM]

def table05 : List RegD :=
  [R.CAP_CTRL, R.CAP_STAT, R.CAP_CONV, R.CAP_PWR, R.CAP_WAKES, R.CAP_SNAP, R.CAP_STORE, R.CAP_SLOT_LO, 
   R.CAP_SLOT_HI, R.CAP_PROT_CFG, R.CAP_PROT_FOM, R.CAP_PROT_STAT, R.CAP_LANE_CFG, R.CAP_LCNT_LO, R.CAP_LCNT_HI]

def table06 : List RegD :=
  [R.HST_LANE_STAT, R.HST_LOS_CFG, R.HST_RX_CTRL, R.HST_RX_STAT, R.HST_DFE, R.HST_TX_CTRL, R.HST_TX_FIR0, 
   R.HST_TX_FIR1, R.HST_TX_STAT, R.HST_TEST_CTRL, R.HST_CHK_CTRL, R.HST_CHK_SYM, R.HST_CHK_BIT, R.HST_RSM_CTRL, 
   R.HST_RSM_STAT, R.HST_RSM_LO, R.HST_RSM_HI, R.HST_FFE_TAP]

def table07 : List RegD :=
  [R.OLC_CTRL, R.OLC_STAT, R.OLC_PROBE, R.OLC_FAULT, R.OLC_CODE, R.OLC_LOCK_CFG, R.OLC_LOCK_STAT, 
   R.OLC_SAFE_LIM, R.OLC_STROBE, R.OLC_STROBE_CFG, R.OLC_SAFE_GLB, R.OLC_VLAS, R.OLC_CH_CFG, R.OLC_CH_WAV, 
   R.OLC_CH_WBASE, R.OLC_CH_WLEN, R.OLC_CH_OUT]

def table08 : List RegD :=
  [R.LYD_CTRL, R.LYD_PHY_STAT, R.LYD_TX_FRAMES, R.LYD_RX_FRAMES, R.LYD_FCS_ERR, R.LYD_DROP, R.LYD_VIT_CORR, 
   R.LYD_ANCHOR_ERR, R.LYD_PTR_PART, R.LYD_PTR_SER_LO, R.LYD_PTR_SER_HI, R.LYD_PTR_INFO, R.LYD_PTR_CAP, 
   R.LYD_PTR_AGE, R.LYD_TXADJ_POL, R.LYD_TXADJ_STAT, R.LYD_FIR, R.LYD_PER, R.LYD_PART_CNT, R.LYD_USER_STAT, 
   R.LYD_USER_FREE, R.LYD_AGREE_SEQ, R.LYD_AGREE_STAT]

def table09 : List RegD :=
  [R.TIM_STAT, R.TIM_SNAP_W0, R.TIM_SNAP_TOD, R.TIM_SNAP_W4, R.TIM_RATE_LO, R.TIM_RATE_HI, R.TIM_RATE_NEW_LO, 
   R.TIM_RATE_NEW_HI, R.TIM_STEP_LO, R.TIM_STEP_HI, R.TIM_ADJ_CTRL, R.TIM_UNCERT, R.TIM_SLEEP, R.TIM_AON_LO, 
   R.TIM_AON_HI, R.TIM_TSQ_CFG, R.TIM_TSQ_STAT, R.TIM_TSQ_W, R.TIM_PPSI_CTRL, R.TIM_PPSI_COMP, R.TIM_PPSO_COMP, 
   R.TIM_TXCOMP, R.TIM_RXCOMP, R.TIM_ASYM, R.TIM_PPSI_W0, R.TIM_PPSI_TOD, R.TIM_PPSO_CTRL, R.TIM_TT_STAT, 
   R.TIM_TT_LO, R.TIM_TT_HI]

def table11 : List RegD :=
  [R.MBX_W0, R.MBX_W, R.MBX_DB, R.MBX_STAT, R.MBX_MASK, R.MBX_ENG_STAT, R.MBX_QUOTA, R.MBX_USED, 
   R.MBX_RING_STAT, R.MBX_RING_LOST, R.MBX_EVQ_STAT, R.MBX_IRING_W, R.MBX_IRING_STAT]

def table12 : List RegD :=
  [R.KNT_CTRL, R.KNT_STAT, R.KNT_GANG_CFG, R.KNT_SLOT_STAT, R.KNT_SLOT_INFO, R.KNT_SLOT_TGT, R.KNT_SLOT_LANES, 
   R.KNT_SLOT_ERR]

def table13 : List RegD :=
  [R.TOP_BOOT_STAT, R.TOP_RIG_CTRL, R.TOP_WDOG_CFG, R.TOP_OTP_SVN]

def table14 : List RegD :=
  [R.MON_ADC_CTRL, R.MON_ADC_SEQ, R.MON_ADC_URG, R.MON_ADC_URGRES, R.MON_ADC_STAT, R.MON_IRQ_STAT, 
   R.MON_IRQ_EN, R.MON_SEQ_LIST, R.MON_IN_CFG, R.MON_IN_CAL, R.MON_IN_RES, R.MON_WIN_LO, R.MON_WIN_HI, 
   R.MON_WIN_CFG, R.MON_WIN_STAT, R.MON_FTH_CFG, R.MON_FTH_FILT, R.MON_FTH_BASE, R.MON_FTH_LIM, R.MON_FTH_BIN, 
   R.MON_FTH_STAT, R.MON_FTH_DROP, R.PMU_CNT_LO, R.PMU_CNT_HI, R.PMU_CHAIN, R.PMU_OVF, R.PMU_CTRL, 
   R.PMU_SAMP_CFG, R.PMU_SAMP_PER, R.PMU_SAMP_PC_LO, R.PMU_SAMP_PC_HI]

def table15 : List RegD :=
  [R.PWR_STATE, R.PWR_ANCHOR_CFG, R.PWR_REFUSE, R.PWR_REFUSE_CNT, R.PWR_BLK_EN, R.PWR_CLK_STAT, R.PWR_REG_STAT, 
   R.PWR_LANE_RST, R.PWR_RST, R.PWR_RST_CAUSE, R.PWR_OFFACC_ADDR, R.PWR_OFFACC_STAT, R.PWR_ACCT]

def table16 : List RegD :=
  [R.ECC_CTRL, R.ECC_STAT, R.ECC_SCRUB_STAT, R.ECC_INJ_ADDR, R.ECC_DMA_ADDR, R.ECC_INJ_CTRL, R.ECC_DMA_STAT, 
   R.ECC_LOG_W, R.ECC_RETIRE, R.BST_STAT, R.BST_FAIL, R.BST_LAST]

def table17 : List RegD :=
  [R.HWS_PORT_CTRL, R.HWS_PORT_STAT, R.HWS_PORT_ERR, R.HWS_PORT_REPLAY, R.HWS_PORT_COMP, R.HWS_PORT_SER, 
   R.HWS_PORT_FIR, R.HWS_GANG_STAT, R.HWS_GANG_EPOCH, R.HWS_GANG_DIGEST, R.HWS_DISC_STAT, R.HWS_TIME_CFG, 
   R.HWS_TIME_STAT, R.HWS_TIME_THETA, R.HWS_DROP, R.HWS_PG_STAT, R.HWS_PG_WAIT]

/-- The whole register map. -/
def regTable : List RegD :=
  table00 ++ table01 ++ table0203 ++ table04 ++ table05 ++ table06 ++ table07 ++ table08 ++ table09 ++ table11 ++
  table12 ++ table13 ++ table14 ++ table15 ++ table16 ++ table17

/-- The first register among rs that lies at address a, with its indices. -/
def findIn (rs : List RegD) (a : Nat) : Option (RegD × Nat × Nat) :=
  match rs with
  | [] => none
  | r :: rs => match r.index? a with
    | some (n, m) => some (r, n, m)
    | none => findIn rs a

/-- The register at address a of the internal map, if a chapter defines one there (R25). -/
def regAt (a : Nat) : Option (RegD × Nat × Nat) := findIn regTable a

namespace F

def TOP_DECERR_STAT_CAUSE : Fld := ⟨R.TOP_DECERR_STAT, 23, 22⟩
def TOP_DECERR_STAT_WRITE : Fld := ⟨R.TOP_DECERR_STAT, 20, 20⟩
def TOP_DECERR_STAT_REQ : Fld := ⟨R.TOP_DECERR_STAT, 19, 16⟩
def TOP_DECERR_STAT_COUNT : Fld := ⟨R.TOP_DECERR_STAT, 15, 0⟩
def LTX_LANE_CFG_SHADOW_EN : Fld := ⟨R.LTX_LANE_CFG, 20, 20⟩
def LTX_LANE_CFG_SHADOW_LANE : Fld := ⟨R.LTX_LANE_CFG, 19, 16⟩
def LTX_LANE_CFG_MODE : Fld := ⟨R.LTX_LANE_CFG, 2, 0⟩
def LTX_AM_SEQ_SEQ : Fld := ⟨R.LTX_AM_SEQ, 11, 0⟩
def LTX_LANE_STAT_CFG_REJ : Fld := ⟨R.LTX_LANE_STAT, 3, 3⟩
def LTX_LANE_STAT_PEND : Fld := ⟨R.LTX_LANE_STAT, 2, 2⟩
def LTX_LANE_STAT_AMLOCK_B : Fld := ⟨R.LTX_LANE_STAT, 1, 1⟩
def LTX_LANE_STAT_AMLOCK_A : Fld := ⟨R.LTX_LANE_STAT, 0, 0⟩
def LRX_FRAME_STAT_LOCK_LOST : Fld := ⟨R.LRX_FRAME_STAT, 3, 3⟩
def LRX_FRAME_STAT_AMLOCK_B : Fld := ⟨R.LRX_FRAME_STAT, 2, 2⟩
def LRX_FRAME_STAT_AMLOCK_A : Fld := ⟨R.LRX_FRAME_STAT, 1, 1⟩
def LRX_FRAME_STAT_SLOT_LOCK : Fld := ⟨R.LRX_FRAME_STAT, 0, 0⟩
def LRX_AM_SEQ_VALID : Fld := ⟨R.LRX_AM_SEQ, 31, 31⟩
def LRX_AM_SEQ_SEQ : Fld := ⟨R.LRX_AM_SEQ, 11, 0⟩
def LRX_PROT_STAT_SWITCHES : Fld := ⟨R.LRX_PROT_STAT, 31, 16⟩
def LRX_PROT_STAT_CAUSE : Fld := ⟨R.LRX_PROT_STAT, 11, 8⟩
def LRX_PROT_STAT_ASYM : Fld := ⟨R.LRX_PROT_STAT, 7, 7⟩
def LRX_PROT_STAT_SKEW_WARN : Fld := ⟨R.LRX_PROT_STAT, 6, 6⟩
def LRX_PROT_STAT_STATE : Fld := ⟨R.LRX_PROT_STAT, 2, 0⟩
def LRX_PROT_SKEW_DELTA : Fld := ⟨R.LRX_PROT_SKEW, 15, 0⟩
def LTX_SLIP_STAT_DEV_B : Fld := ⟨R.LTX_SLIP_STAT, 31, 24⟩
def LTX_SLIP_STAT_DEV_A : Fld := ⟨R.LTX_SLIP_STAT, 23, 16⟩
def LTX_SLIP_STAT_COUNT : Fld := ⟨R.LTX_SLIP_STAT, 15, 4⟩
def LTX_SLIP_STAT_SQUELCHED : Fld := ⟨R.LTX_SLIP_STAT, 1, 1⟩
def LTX_SLIP_STAT_SLIP : Fld := ⟨R.LTX_SLIP_STAT, 0, 0⟩
def LTX_MAP_CFG_PRECODE : Fld := ⟨R.LTX_MAP_CFG, 0, 0⟩
def LTX_ERR_INJ_EN : Fld := ⟨R.LTX_ERR_INJ, 31, 31⟩
def LTX_ERR_INJ_STREAM : Fld := ⟨R.LTX_ERR_INJ, 30, 29⟩
def LTX_ERR_INJ_BITS : Fld := ⟨R.LTX_ERR_INJ, 28, 24⟩
def LTX_ERR_INJ_POS : Fld := ⟨R.LTX_ERR_INJ, 23, 16⟩
def LTX_ERR_INJ_PERIOD : Fld := ⟨R.LTX_ERR_INJ, 15, 0⟩
def LTX_ERR_INJ_CNT_COUNT : Fld := ⟨R.LTX_ERR_INJ_CNT, 31, 0⟩
def LTX_SHAPE_CTRL_MAIN : Fld := ⟨R.LTX_SHAPE_CTRL, 11, 8⟩
def LTX_SHAPE_CTRL_PD_EN : Fld := ⟨R.LTX_SHAPE_CTRL, 5, 5⟩
def LTX_SHAPE_CTRL_PEND : Fld := ⟨R.LTX_SHAPE_CTRL, 4, 4⟩
def LTX_SHAPE_CTRL_REJ : Fld := ⟨R.LTX_SHAPE_CTRL, 3, 3⟩
def LTX_SHAPE_STAT_APPLY_SEQ : Fld := ⟨R.LTX_SHAPE_STAT, 31, 20⟩
def LTX_SHAPE_STAT_MAIN_ACT : Fld := ⟨R.LTX_SHAPE_STAT, 19, 16⟩
def LTX_SHAPE_STAT_PD_EN_ACT : Fld := ⟨R.LTX_SHAPE_STAT, 12, 12⟩
def LTX_CLIP_CNT_COUNT : Fld := ⟨R.LTX_CLIP_CNT, 31, 0⟩
def LTX_MASK_CTRL_PERSIST : Fld := ⟨R.LTX_MASK_CTRL, 15, 12⟩
def LTX_MASK_CTRL_AVG : Fld := ⟨R.LTX_MASK_CTRL, 11, 8⟩
def LTX_MASK_CTRL_IRQ_EN : Fld := ⟨R.LTX_MASK_CTRL, 1, 1⟩
def LTX_MASK_CTRL_EN : Fld := ⟨R.LTX_MASK_CTRL, 0, 0⟩
def LTX_MASK_STAT_SEQ : Fld := ⟨R.LTX_MASK_STAT, 31, 24⟩
def LTX_MASK_STAT_FIRST_BIN : Fld := ⟨R.LTX_MASK_STAT, 20, 16⟩
def LTX_MASK_STAT_EXC_COUNT : Fld := ⟨R.LTX_MASK_STAT, 15, 2⟩
def LTX_MASK_STAT_VALID : Fld := ⟨R.LTX_MASK_STAT, 1, 1⟩
def LTX_MASK_STAT_EXC : Fld := ⟨R.LTX_MASK_STAT, 0, 0⟩
def LTX_PLL_STAT_LOSS_COUNT : Fld := ⟨R.LTX_PLL_STAT, 31, 24⟩
def LTX_DRV_CFG_SWING : Fld := ⟨R.LTX_DRV_CFG, 5, 0⟩
def LTX_LYD_ADD_EN : Fld := ⟨R.LTX_LYD_ADD, 8, 8⟩
def LTX_LYD_ADD_DEPTH : Fld := ⟨R.LTX_LYD_ADD, 4, 0⟩
def LTX_PAT_CTRL_SQ_HALF : Fld := ⟨R.LTX_PAT_CTRL, 21, 16⟩
def LTX_PAT_CTRL_INVERT : Fld := ⟨R.LTX_PAT_CTRL, 8, 8⟩
def LTX_PAT_CTRL_ERR : Fld := ⟨R.LTX_PAT_CTRL, 5, 5⟩
def LTX_PAT_CTRL_PEND : Fld := ⟨R.LTX_PAT_CTRL, 4, 4⟩
def LTX_PAT_CTRL_SRC : Fld := ⟨R.LTX_PAT_CTRL, 3, 0⟩
def LTX_PAT_BASE_OFFSET : Fld := ⟨R.LTX_PAT_BASE, 21, 6⟩
def LTX_PAT_LEN_LENGTH : Fld := ⟨R.LTX_PAT_LEN, 22, 6⟩
def LTX_CAL_CTRL_FREEZE : Fld := ⟨R.LTX_CAL_CTRL, 0, 0⟩
def LTX_CAL_STAT_LAST_SEQ : Fld := ⟨R.LTX_CAL_STAT, 31, 20⟩
def LTX_CAL_STAT_UPDATES : Fld := ⟨R.LTX_CAL_STAT, 15, 0⟩
def LRX_TIA_CTRL_MANUAL : Fld := ⟨R.LRX_TIA_CTRL, 8, 8⟩
def LRX_TIA_CTRL_MAN_GAIN : Fld := ⟨R.LRX_TIA_CTRL, 5, 0⟩
def LRX_TIA_STAT_GAIN : Fld := ⟨R.LRX_TIA_STAT, 13, 8⟩
def LRX_TIA_STAT_ACQ_FAIL : Fld := ⟨R.LRX_TIA_STAT, 3, 3⟩
def LRX_TIA_STAT_RETRIM_PEND : Fld := ⟨R.LRX_TIA_STAT, 2, 2⟩
def LRX_TIA_STAT_ACQ_DONE : Fld := ⟨R.LRX_TIA_STAT, 1, 1⟩
def LRX_TIA_STAT_FROZEN : Fld := ⟨R.LRX_TIA_STAT, 0, 0⟩
def LRX_ADC_STAT_OUT_IDX : Fld := ⟨R.LRX_ADC_STAT, 22, 16⟩
def LRX_ADC_STAT_STEP : Fld := ⟨R.LRX_ADC_STAT, 14, 8⟩
def LRX_ADC_STAT_TIMER : Fld := ⟨R.LRX_ADC_STAT, 0, 0⟩
def LRX_ADC_CLIP_COUNT : Fld := ⟨R.LRX_ADC_CLIP, 31, 0⟩
def LRX_FP_CW_COUNT : Fld := ⟨R.LRX_FP_CW, 31, 0⟩
def LRX_FP_CORR_COUNT : Fld := ⟨R.LRX_FP_CORR, 31, 0⟩
def LRX_FP_CAND_COUNT : Fld := ⟨R.LRX_FP_CAND, 31, 0⟩
def LRX_FP_FAIL_COUNT : Fld := ⟨R.LRX_FP_FAIL, 31, 0⟩
def LRX_CHK_SYM_COUNT : Fld := ⟨R.LRX_CHK_SYM, 31, 0⟩
def LRX_CHK_BIT_COUNT : Fld := ⟨R.LRX_CHK_BIT, 31, 0⟩
def LRX_EQ_CTRL_MAIN : Fld := ⟨R.LRX_EQ_CTRL, 13, 8⟩
def LRX_EQ_CTRL_PRECODE : Fld := ⟨R.LRX_EQ_CTRL, 1, 1⟩
def LRX_EQ_CTRL_MEM : Fld := ⟨R.LRX_EQ_CTRL, 0, 0⟩
def LRX_EQ_STAT_APPLY_SEQ : Fld := ⟨R.LRX_EQ_STAT, 31, 20⟩
def LRX_EQ_STAT_UPDATES : Fld := ⟨R.LRX_EQ_STAT, 19, 4⟩
def LRX_EQ_STAT_WR_REJ : Fld := ⟨R.LRX_EQ_STAT, 1, 1⟩
def LRX_EQ_STAT_PEND : Fld := ⟨R.LRX_EQ_STAT, 0, 0⟩
def LRX_TR_CTRL_PH_OFFS : Fld := ⟨R.LRX_TR_CTRL, 15, 8⟩
def LRX_TR_CTRL_AM_AID : Fld := ⟨R.LRX_TR_CTRL, 4, 4⟩
def LRX_TR_CTRL_BW : Fld := ⟨R.LRX_TR_CTRL, 1, 0⟩
def LRX_TR_STAT_FREQ : Fld := ⟨R.LRX_TR_STAT, 31, 16⟩
def LRX_TR_STAT_LOCK : Fld := ⟨R.LRX_TR_STAT, 0, 0⟩
def LRX_LOS_STAT_LOL_COUNT : Fld := ⟨R.LRX_LOS_STAT, 31, 24⟩
def LRX_LOS_STAT_LOS_COUNT : Fld := ⟨R.LRX_LOS_STAT, 23, 16⟩
def LRX_LOS_STAT_LOL_CHG : Fld := ⟨R.LRX_LOS_STAT, 3, 3⟩
def LRX_LOS_STAT_LOS_CHG : Fld := ⟨R.LRX_LOS_STAT, 2, 2⟩
def LRX_LOS_STAT_LOL : Fld := ⟨R.LRX_LOS_STAT, 1, 1⟩
def LRX_LOS_STAT_LOS : Fld := ⟨R.LRX_LOS_STAT, 0, 0⟩
def LRX_FP_CFG_REL_TH : Fld := ⟨R.LRX_FP_CFG, 7, 0⟩
def LRX_CAL_CTRL_FREEZE : Fld := ⟨R.LRX_CAL_CTRL, 0, 0⟩
def LRX_CAL_STAT_LAST_SEQ : Fld := ⟨R.LRX_CAL_STAT, 31, 20⟩
def LRX_CAL_STAT_UPDATES : Fld := ⟨R.LRX_CAL_STAT, 15, 0⟩
def LRX_CHK_CTRL_SQ_HALF : Fld := ⟨R.LRX_CHK_CTRL, 21, 16⟩
def LRX_CHK_CTRL_INVERT : Fld := ⟨R.LRX_CHK_CTRL, 8, 8⟩
def LRX_CHK_CTRL_SRC : Fld := ⟨R.LRX_CHK_CTRL, 3, 0⟩
def LRX_CHK_STAT_SYNC_LOST : Fld := ⟨R.LRX_CHK_STAT, 1, 1⟩
def LRX_CHK_STAT_SYNC : Fld := ⟨R.LRX_CHK_STAT, 0, 0⟩
def LRX_CAP_CTRL_PRE : Fld := ⟨R.LRX_CAP_CTRL, 14, 12⟩
def LRX_CAP_CTRL_POINT : Fld := ⟨R.LRX_CAP_CTRL, 8, 8⟩
def LRX_CAP_CTRL_TRIG : Fld := ⟨R.LRX_CAP_CTRL, 5, 4⟩
def LRX_CAP_STAT_STATE : Fld := ⟨R.LRX_CAP_STAT, 31, 29⟩
def LRX_CAP_STAT_START : Fld := ⟨R.LRX_CAP_STAT, 19, 0⟩
def WNC_CTRL_EN : Fld := ⟨R.WNC_CTRL, 0, 0⟩
def WNC_STAT_ROUNDS : Fld := ⟨R.WNC_STAT, 31, 16⟩
def WNC_STAT_SLOT : Fld := ⟨R.WNC_STAT, 5, 0⟩
def WNC_SLOT_RET_COUNT : Fld := ⟨R.WNC_SLOT_RET, 31, 0⟩
def WNC_SLOT_WST_COUNT : Fld := ⟨R.WNC_SLOT_WST, 31, 0⟩
def WNC_SLOT_SF_COUNT : Fld := ⟨R.WNC_SLOT_SF, 31, 0⟩
def WNC_SLOT_SB_COUNT : Fld := ⟨R.WNC_SLOT_SB, 31, 0⟩
def WNC_LANE_CFG_FOM_AVG : Fld := ⟨R.WNC_LANE_CFG, 19, 16⟩
def WNC_LANE_CFG_MU_TRK : Fld := ⟨R.WNC_LANE_CFG, 15, 12⟩
def WNC_LANE_CFG_MU_ACQ : Fld := ⟨R.WNC_LANE_CFG, 11, 8⟩
def WNC_LANE_CFG_MODE : Fld := ⟨R.WNC_LANE_CFG, 1, 0⟩
def WNC_FOM_VALID : Fld := ⟨R.WNC_FOM, 31, 31⟩
def WNC_FOM_LAST : Fld := ⟨R.WNC_FOM, 25, 16⟩
def WNC_FOM_FOM : Fld := ⟨R.WNC_FOM, 9, 0⟩
def CAP_CTRL_DEADLINE : Fld := ⟨R.CAP_CTRL, 24, 16⟩
def CAP_CTRL_MAX_ITER : Fld := ⟨R.CAP_CTRL, 11, 8⟩
def CAP_CTRL_EN : Fld := ⟨R.CAP_CTRL, 0, 0⟩
def CAP_STAT_WR_REJ : Fld := ⟨R.CAP_STAT, 1, 1⟩
def CAP_CONV_CONV_TH : Fld := ⟨R.CAP_CONV, 7, 0⟩
def CAP_PWR_ENG_EN : Fld := ⟨R.CAP_PWR, 21, 16⟩
def CAP_PWR_GATE_IDLE : Fld := ⟨R.CAP_PWR, 11, 8⟩
def CAP_PWR_MIN_AWAKE : Fld := ⟨R.CAP_PWR, 2, 0⟩
def CAP_WAKES_COUNT : Fld := ⟨R.CAP_WAKES, 31, 0⟩
def CAP_SNAP_SEQ : Fld := ⟨R.CAP_SNAP, 31, 16⟩
def CAP_STORE_PEAK : Fld := ⟨R.CAP_STORE, 27, 16⟩
def CAP_PROT_CFG_FOM_PERSIST : Fld := ⟨R.CAP_PROT_CFG, 27, 24⟩
def CAP_PROT_CFG_MIN_SLOTS : Fld := ⟨R.CAP_PROT_CFG, 23, 16⟩
def CAP_PROT_CFG_WINDOW : Fld := ⟨R.CAP_PROT_CFG, 15, 8⟩
def CAP_PROT_CFG_WASTE_TH : Fld := ⟨R.CAP_PROT_CFG, 7, 0⟩
def CAP_PROT_FOM_FOM_TH : Fld := ⟨R.CAP_PROT_FOM, 9, 0⟩
def CAP_PROT_STAT_FIRED_FOM : Fld := ⟨R.CAP_PROT_STAT, 9, 9⟩
def CAP_PROT_STAT_FIRED_WST : Fld := ⟨R.CAP_PROT_STAT, 8, 8⟩
def CAP_PROT_STAT_RATIO : Fld := ⟨R.CAP_PROT_STAT, 7, 0⟩
def CAP_LANE_CFG_RELEASE_ACT : Fld := ⟨R.CAP_LANE_CFG, 17, 17⟩
def CAP_LANE_CFG_RELEASE : Fld := ⟨R.CAP_LANE_CFG, 16, 16⟩
def CAP_LANE_CFG_CAND_EN : Fld := ⟨R.CAP_LANE_CFG, 8, 8⟩
def CAP_LANE_CFG_SHARE : Fld := ⟨R.CAP_LANE_CFG, 7, 0⟩
def HST_LANE_STAT_LOL_COUNT : Fld := ⟨R.HST_LANE_STAT, 31, 24⟩
def HST_LANE_STAT_LOS_COUNT : Fld := ⟨R.HST_LANE_STAT, 23, 16⟩
def HST_LANE_STAT_FRAME_LOCK : Fld := ⟨R.HST_LANE_STAT, 4, 4⟩
def HST_LANE_STAT_LOL_CHG : Fld := ⟨R.HST_LANE_STAT, 3, 3⟩
def HST_LANE_STAT_LOS_CHG : Fld := ⟨R.HST_LANE_STAT, 2, 2⟩
def HST_LANE_STAT_LOL : Fld := ⟨R.HST_LANE_STAT, 1, 1⟩
def HST_LANE_STAT_LOS : Fld := ⟨R.HST_LANE_STAT, 0, 0⟩
def HST_RX_CTRL_MAIN : Fld := ⟨R.HST_RX_CTRL, 20, 16⟩
def HST_RX_CTRL_CTLE_MAN : Fld := ⟨R.HST_RX_CTRL, 12, 12⟩
def HST_RX_CTRL_CTLE_CODE : Fld := ⟨R.HST_RX_CTRL, 11, 8⟩
def HST_RX_CTRL_DFE_EN : Fld := ⟨R.HST_RX_CTRL, 0, 0⟩
def HST_RX_STAT_CTLE_ACT : Fld := ⟨R.HST_RX_STAT, 27, 24⟩
def HST_RX_STAT_UPDATES : Fld := ⟨R.HST_RX_STAT, 23, 8⟩
def HST_RX_STAT_EQ_FAULT : Fld := ⟨R.HST_RX_STAT, 2, 2⟩
def HST_RX_STAT_WR_REJ : Fld := ⟨R.HST_RX_STAT, 1, 1⟩
def HST_RX_STAT_PEND : Fld := ⟨R.HST_RX_STAT, 0, 0⟩
def HST_DFE_D : Fld := ⟨R.HST_DFE, 9, 0⟩
def HST_TX_CTRL_SWING : Fld := ⟨R.HST_TX_CTRL, 24, 18⟩
def HST_TX_CTRL_AMP_CODE : Fld := ⟨R.HST_TX_CTRL, 17, 16⟩
def HST_TX_CTRL_POST_CODE : Fld := ⟨R.HST_TX_CTRL, 14, 12⟩
def HST_TX_CTRL_PRE_CODE : Fld := ⟨R.HST_TX_CTRL, 10, 8⟩
def HST_TX_CTRL_SQ_DIS : Fld := ⟨R.HST_TX_CTRL, 7, 7⟩
def HST_TX_CTRL_OUT_DIS : Fld := ⟨R.HST_TX_CTRL, 6, 6⟩
def HST_TX_CTRL_MANUAL : Fld := ⟨R.HST_TX_CTRL, 5, 5⟩
def HST_TX_CTRL_REJ : Fld := ⟨R.HST_TX_CTRL, 2, 2⟩
def HST_TX_CTRL_PEND : Fld := ⟨R.HST_TX_CTRL, 1, 1⟩
def HST_TX_STAT_SRC_ACT : Fld := ⟨R.HST_TX_STAT, 7, 6⟩
def HST_TX_STAT_CAUSE : Fld := ⟨R.HST_TX_STAT, 2, 0⟩
def HST_TEST_CTRL_SQ_HALF : Fld := ⟨R.HST_TEST_CTRL, 21, 16⟩
def HST_TEST_CTRL_LPBK_REJ : Fld := ⟨R.HST_TEST_CTRL, 12, 12⟩
def HST_TEST_CTRL_LPBK : Fld := ⟨R.HST_TEST_CTRL, 9, 8⟩
def HST_TEST_CTRL_INVERT : Fld := ⟨R.HST_TEST_CTRL, 4, 4⟩
def HST_TEST_CTRL_SRC : Fld := ⟨R.HST_TEST_CTRL, 3, 0⟩
def HST_CHK_CTRL_SQ_HALF : Fld := ⟨R.HST_CHK_CTRL, 21, 16⟩
def HST_CHK_CTRL_SYNC_LOST : Fld := ⟨R.HST_CHK_CTRL, 9, 9⟩
def HST_CHK_CTRL_SYNC : Fld := ⟨R.HST_CHK_CTRL, 8, 8⟩
def HST_CHK_CTRL_INVERT : Fld := ⟨R.HST_CHK_CTRL, 4, 4⟩
def HST_CHK_CTRL_SRC : Fld := ⟨R.HST_CHK_CTRL, 3, 0⟩
def HST_CHK_SYM_COUNT : Fld := ⟨R.HST_CHK_SYM, 31, 0⟩
def HST_CHK_BIT_COUNT : Fld := ⟨R.HST_CHK_BIT, 31, 0⟩
def HST_RSM_CTRL_GROUP : Fld := ⟨R.HST_RSM_CTRL, 31, 16⟩
def HST_RSM_CTRL_DIR : Fld := ⟨R.HST_RSM_CTRL, 8, 8⟩
def HST_RSM_CTRL_EN : Fld := ⟨R.HST_RSM_CTRL, 0, 0⟩
def HST_RSM_STAT_SEQ : Fld := ⟨R.HST_RSM_STAT, 31, 16⟩
def HST_RSM_STAT_ROLE : Fld := ⟨R.HST_RSM_STAT, 5, 4⟩
def HST_RSM_STAT_CFG_REJ : Fld := ⟨R.HST_RSM_STAT, 2, 2⟩
def HST_RSM_STAT_ALIGN_FAIL : Fld := ⟨R.HST_RSM_STAT, 1, 1⟩
def HST_RSM_STAT_LOCK : Fld := ⟨R.HST_RSM_STAT, 0, 0⟩
def HST_RSM_LO_COUNT_LO : Fld := ⟨R.HST_RSM_LO, 31, 0⟩
def HST_RSM_HI_COUNT_HI : Fld := ⟨R.HST_RSM_HI, 15, 0⟩
def OLC_CTRL_REQ : Fld := ⟨R.OLC_CTRL, 2, 0⟩
def OLC_STAT_RESULT : Fld := ⟨R.OLC_STAT, 31, 24⟩
def OLC_STAT_CAUSE : Fld := ⟨R.OLC_STAT, 19, 16⟩
def OLC_STAT_TXDIS : Fld := ⟨R.OLC_STAT, 9, 9⟩
def OLC_STAT_DEFER : Fld := ⟨R.OLC_STAT, 8, 8⟩
def OLC_STAT_TOKEN_WAIT : Fld := ⟨R.OLC_STAT, 7, 7⟩
def OLC_STAT_TARGET : Fld := ⟨R.OLC_STAT, 6, 4⟩
def OLC_STAT_TRANS : Fld := ⟨R.OLC_STAT, 3, 3⟩
def OLC_STAT_STATE : Fld := ⟨R.OLC_STAT, 2, 0⟩
def OLC_FAULT_COUNT : Fld := ⟨R.OLC_FAULT, 31, 24⟩
def OLC_FAULT_LOCKOUT : Fld := ⟨R.OLC_FAULT, 8, 8⟩
def OLC_FAULT_FAULT : Fld := ⟨R.OLC_FAULT, 5, 0⟩
def OLC_CODE_WRITTEN : Fld := ⟨R.OLC_CODE, 31, 31⟩
def OLC_CODE_STAGED : Fld := ⟨R.OLC_CODE, 30, 30⟩
def OLC_CODE_CLAMP : Fld := ⟨R.OLC_CODE, 29, 29⟩
def OLC_CODE_ILIM : Fld := ⟨R.OLC_CODE, 21, 16⟩
def OLC_CODE_CODE : Fld := ⟨R.OLC_CODE, 15, 0⟩
def OLC_LOCK_CFG_EN : Fld := ⟨R.OLC_LOCK_CFG, 31, 31⟩
def OLC_LOCK_CFG_LOOP : Fld := ⟨R.OLC_LOCK_CFG, 30, 30⟩
def OLC_LOCK_CFG_HARM : Fld := ⟨R.OLC_LOCK_CFG, 29, 29⟩
def OLC_LOCK_CFG_SEL : Fld := ⟨R.OLC_LOCK_CFG, 28, 28⟩
def OLC_LOCK_CFG_SHIFT : Fld := ⟨R.OLC_LOCK_CFG, 27, 24⟩
def OLC_LOCK_CFG_ACC : Fld := ⟨R.OLC_LOCK_CFG, 23, 16⟩
def OLC_LOCK_CFG_SETPOINT : Fld := ⟨R.OLC_LOCK_CFG, 15, 0⟩
def OLC_LOCK_STAT_LOCKED : Fld := ⟨R.OLC_LOCK_STAT, 31, 31⟩
def OLC_LOCK_STAT_CORR : Fld := ⟨R.OLC_LOCK_STAT, 15, 0⟩
def OLC_SAFE_LIM_IMAX : Fld := ⟨R.OLC_SAFE_LIM, 31, 16⟩
def OLC_SAFE_LIM_MPD_CHK : Fld := ⟨R.OLC_SAFE_LIM, 15, 15⟩
def OLC_SAFE_LIM_MAX_SLEW : Fld := ⟨R.OLC_SAFE_LIM, 11, 0⟩
def OLC_STROBE_CFG_AUTO : Fld := ⟨R.OLC_STROBE_CFG, 3, 0⟩
def OLC_SAFE_GLB_ITOT : Fld := ⟨R.OLC_SAFE_GLB, 31, 16⟩
def OLC_SAFE_GLB_TJ_MAX : Fld := ⟨R.OLC_SAFE_GLB, 15, 8⟩
def OLC_CH_CFG_GROUP : Fld := ⟨R.OLC_CH_CFG, 31, 30⟩
def OLC_CH_CFG_DIV : Fld := ⟨R.OLC_CH_CFG, 25, 16⟩
def OLC_CH_CFG_STEP : Fld := ⟨R.OLC_CH_CFG, 15, 0⟩
def OLC_CH_WAV_MODE : Fld := ⟨R.OLC_CH_WAV, 31, 30⟩
def OLC_CH_WAV_TURN_ON : Fld := ⟨R.OLC_CH_WAV, 29, 29⟩
def OLC_CH_WAV_LOOP : Fld := ⟨R.OLC_CH_WAV, 27, 16⟩
def OLC_CH_WBASE_VALUE : Fld := ⟨R.OLC_CH_WBASE, 21, 6⟩
def OLC_CH_WLEN_VALUE : Fld := ⟨R.OLC_CH_WLEN, 22, 6⟩
def OLC_CH_OUT_PLAYING : Fld := ⟨R.OLC_CH_OUT, 30, 30⟩
def OLC_CH_OUT_RANGE_CHG : Fld := ⟨R.OLC_CH_OUT, 29, 29⟩
def OLC_CH_OUT_OUT : Fld := ⟨R.OLC_CH_OUT, 15, 0⟩
def LYD_CTRL_DCB_K : Fld := ⟨R.LYD_CTRL, 11, 8⟩
def LYD_CTRL_DCB_FREEZE : Fld := ⟨R.LYD_CTRL, 2, 2⟩
def LYD_CTRL_RX_EN : Fld := ⟨R.LYD_CTRL, 1, 1⟩
def LYD_CTRL_TX_EN : Fld := ⟨R.LYD_CTRL, 0, 0⟩
def LYD_PHY_STAT_FOFS : Fld := ⟨R.LYD_PHY_STAT, 31, 16⟩
def LYD_PHY_STAT_SNR : Fld := ⟨R.LYD_PHY_STAT, 15, 8⟩
def LYD_PHY_STAT_SYNC_ST : Fld := ⟨R.LYD_PHY_STAT, 7, 6⟩
def LYD_PHY_STAT_COEF_REJ : Fld := ⟨R.LYD_PHY_STAT, 5, 5⟩
def LYD_PHY_STAT_LOCK_LOST : Fld := ⟨R.LYD_PHY_STAT, 4, 4⟩
def LYD_PHY_STAT_SETTLED : Fld := ⟨R.LYD_PHY_STAT, 3, 3⟩
def LYD_PHY_STAT_PHY_LOCK : Fld := ⟨R.LYD_PHY_STAT, 0, 0⟩
def LYD_TX_FRAMES_COUNT : Fld := ⟨R.LYD_TX_FRAMES, 31, 0⟩
def LYD_RX_FRAMES_COUNT : Fld := ⟨R.LYD_RX_FRAMES, 31, 0⟩
def LYD_FCS_ERR_COUNT : Fld := ⟨R.LYD_FCS_ERR, 31, 0⟩
def LYD_DROP_COUNT : Fld := ⟨R.LYD_DROP, 31, 0⟩
def LYD_VIT_CORR_COUNT : Fld := ⟨R.LYD_VIT_CORR, 31, 0⟩
def LYD_ANCHOR_ERR_COUNT : Fld := ⟨R.LYD_ANCHOR_ERR, 31, 0⟩
def LYD_PTR_SER_LO_VALUE : Fld := ⟨R.LYD_PTR_SER_LO, 31, 0⟩
def LYD_PTR_SER_HI_VALUE : Fld := ⟨R.LYD_PTR_SER_HI, 31, 0⟩
def LYD_PTR_INFO_VALID : Fld := ⟨R.LYD_PTR_INFO, 31, 31⟩
def LYD_PTR_INFO_PARTNER_ID : Fld := ⟨R.LYD_PTR_INFO, 27, 24⟩
def LYD_PTR_INFO_FAR_LANE : Fld := ⟨R.LYD_PTR_INFO, 23, 20⟩
def LYD_PTR_INFO_HEARD : Fld := ⟨R.LYD_PTR_INFO, 19, 16⟩
def LYD_PTR_INFO_EPOCH : Fld := ⟨R.LYD_PTR_INFO, 15, 0⟩
def LYD_PTR_CAP_PROT_LANE : Fld := ⟨R.LYD_PTR_CAP, 23, 20⟩
def LYD_PTR_CAP_PROT_STATE : Fld := ⟨R.LYD_PTR_CAP, 18, 16⟩
def LYD_PTR_CAP_CAP : Fld := ⟨R.LYD_PTR_CAP, 15, 0⟩
def LYD_PTR_AGE_MODE : Fld := ⟨R.LYD_PTR_AGE, 31, 24⟩
def LYD_PTR_AGE_MISSED : Fld := ⟨R.LYD_PTR_AGE, 19, 16⟩
def LYD_TXADJ_POL_MIN_INT : Fld := ⟨R.LYD_TXADJ_POL, 31, 24⟩
def LYD_TXADJ_POL_SUM_MAX : Fld := ⟨R.LYD_TXADJ_POL, 23, 14⟩
def LYD_TXADJ_POL_MAX_DELTA : Fld := ⟨R.LYD_TXADJ_POL, 13, 6⟩
def LYD_TXADJ_POL_PD_ALLOW : Fld := ⟨R.LYD_TXADJ_POL, 5, 5⟩
def LYD_TXADJ_POL_REQ_EN : Fld := ⟨R.LYD_TXADJ_POL, 2, 2⟩
def LYD_TXADJ_POL_MODE : Fld := ⟨R.LYD_TXADJ_POL, 1, 0⟩
def LYD_TXADJ_STAT_APPLIED : Fld := ⟨R.LYD_TXADJ_STAT, 31, 24⟩
def LYD_TXADJ_STAT_REFUSED : Fld := ⟨R.LYD_TXADJ_STAT, 23, 16⟩
def LYD_TXADJ_STAT_LAST_ID : Fld := ⟨R.LYD_TXADJ_STAT, 15, 8⟩
def LYD_TXADJ_STAT_LAST_STATUS : Fld := ⟨R.LYD_TXADJ_STAT, 7, 0⟩
def LYD_PER_TEL_PER : Fld := ⟨R.LYD_PER, 23, 16⟩
def LYD_PER_TIME_PER : Fld := ⟨R.LYD_PER, 15, 8⟩
def LYD_PER_HELLO_PER : Fld := ⟨R.LYD_PER, 7, 0⟩
def LYD_PART_CNT_COUNT : Fld := ⟨R.LYD_PART_CNT, 3, 0⟩
def LYD_USER_STAT_LOST : Fld := ⟨R.LYD_USER_STAT, 31, 16⟩
def LYD_USER_STAT_OCC : Fld := ⟨R.LYD_USER_STAT, 15, 0⟩
def LYD_AGREE_SEQ_K_I : Fld := ⟨R.LYD_AGREE_SEQ, 27, 16⟩
def LYD_AGREE_SEQ_K_R : Fld := ⟨R.LYD_AGREE_SEQ, 11, 0⟩
def LYD_AGREE_STAT_AGREE_ID : Fld := ⟨R.LYD_AGREE_STAT, 31, 24⟩
def LYD_AGREE_STAT_LANE : Fld := ⟨R.LYD_AGREE_STAT, 23, 20⟩
def LYD_AGREE_STAT_VIA : Fld := ⟨R.LYD_AGREE_STAT, 19, 16⟩
def LYD_AGREE_STAT_REASON : Fld := ⟨R.LYD_AGREE_STAT, 15, 8⟩
def LYD_AGREE_STAT_ROLE : Fld := ⟨R.LYD_AGREE_STAT, 7, 6⟩
def LYD_AGREE_STAT_STAGE : Fld := ⟨R.LYD_AGREE_STAT, 2, 0⟩
def TIM_STAT_SLEEPS : Fld := ⟨R.TIM_STAT, 31, 16⟩
def TIM_STAT_CLKSRC : Fld := ⟨R.TIM_STAT, 4, 4⟩
def TIM_STAT_SET_PEND : Fld := ⟨R.TIM_STAT, 3, 3⟩
def TIM_STAT_RATE_REJ : Fld := ⟨R.TIM_STAT, 2, 2⟩
def TIM_STAT_TIME_INVALID : Fld := ⟨R.TIM_STAT, 1, 1⟩
def TIM_STAT_TIME_COARSE : Fld := ⟨R.TIM_STAT, 0, 0⟩
def TIM_RATE_LO_RATE : Fld := ⟨R.TIM_RATE_LO, 31, 0⟩
def TIM_RATE_HI_RATE : Fld := ⟨R.TIM_RATE_HI, 7, 0⟩
def TIM_RATE_NEW_LO_RATE : Fld := ⟨R.TIM_RATE_NEW_LO, 31, 0⟩
def TIM_RATE_NEW_HI_RATE : Fld := ⟨R.TIM_RATE_NEW_HI, 7, 0⟩
def TIM_STEP_LO_STEP : Fld := ⟨R.TIM_STEP_LO, 31, 0⟩
def TIM_STEP_HI_STEP : Fld := ⟨R.TIM_STEP_HI, 31, 0⟩
def TIM_UNCERT_VALUE : Fld := ⟨R.TIM_UNCERT, 31, 0⟩
def TIM_SLEEP_VALUE : Fld := ⟨R.TIM_SLEEP, 31, 0⟩
def TIM_AON_HI_EXT : Fld := ⟨R.TIM_AON_HI, 31, 8⟩
def TIM_TSQ_CFG_DEC_LOG : Fld := ⟨R.TIM_TSQ_CFG, 19, 16⟩
def TIM_TSQ_CFG_LANES : Fld := ⟨R.TIM_TSQ_CFG, 8, 0⟩
def TIM_TSQ_STAT_LOST : Fld := ⟨R.TIM_TSQ_STAT, 31, 16⟩
def TIM_TSQ_STAT_OVF : Fld := ⟨R.TIM_TSQ_STAT, 7, 7⟩
def TIM_PPSI_CTRL_EDGE : Fld := ⟨R.TIM_PPSI_CTRL, 1, 1⟩
def TIM_PPSI_CTRL_EN : Fld := ⟨R.TIM_PPSI_CTRL, 0, 0⟩
def TIM_PPSI_COMP_COMP : Fld := ⟨R.TIM_PPSI_COMP, 31, 0⟩
def TIM_PPSO_COMP_COMP : Fld := ⟨R.TIM_PPSO_COMP, 31, 0⟩
def TIM_TXCOMP_COMP : Fld := ⟨R.TIM_TXCOMP, 31, 0⟩
def TIM_RXCOMP_COMP : Fld := ⟨R.TIM_RXCOMP, 31, 0⟩
def TIM_ASYM_COMP : Fld := ⟨R.TIM_ASYM, 31, 0⟩
def TIM_PPSI_W0_VALID : Fld := ⟨R.TIM_PPSI_W0, 31, 31⟩
def TIM_PPSI_W0_OVR : Fld := ⟨R.TIM_PPSI_W0, 30, 30⟩
def TIM_PPSI_W0_FLAGS : Fld := ⟨R.TIM_PPSI_W0, 29, 28⟩
def TIM_PPSO_CTRL_WIDTH : Fld := ⟨R.TIM_PPSO_CTRL, 29, 8⟩
def TIM_PPSO_CTRL_POL : Fld := ⟨R.TIM_PPSO_CTRL, 2, 2⟩
def TIM_PPSO_CTRL_FORCE : Fld := ⟨R.TIM_PPSO_CTRL, 1, 1⟩
def TIM_PPSO_CTRL_EN : Fld := ⟨R.TIM_PPSO_CTRL, 0, 0⟩
def TIM_TT_STAT_COUNT : Fld := ⟨R.TIM_TT_STAT, 31, 16⟩
def TIM_TT_STAT_RANGE : Fld := ⟨R.TIM_TT_STAT, 2, 2⟩
def TIM_TT_STAT_COARSE : Fld := ⟨R.TIM_TT_STAT, 1, 1⟩
def TIM_TT_STAT_VALID : Fld := ⟨R.TIM_TT_STAT, 0, 0⟩
def MBX_W0_SENDER : Fld := ⟨R.MBX_W0, 31, 24⟩
def MBX_STAT_LAST_TAG : Fld := ⟨R.MBX_STAT, 31, 16⟩
def MBX_STAT_ERR_CAUSE : Fld := ⟨R.MBX_STAT, 15, 8⟩
def MBX_STAT_STG_BUSY : Fld := ⟨R.MBX_STAT, 4, 4⟩
def MBX_STAT_ERROR : Fld := ⟨R.MBX_STAT, 3, 3⟩
def MBX_STAT_EMPTY_IRQ : Fld := ⟨R.MBX_STAT, 2, 2⟩
def MBX_STAT_TAKEN : Fld := ⟨R.MBX_STAT, 1, 1⟩
def MBX_STAT_FULL : Fld := ⟨R.MBX_STAT, 0, 0⟩
def MBX_MASK_EMPTY_MASK : Fld := ⟨R.MBX_MASK, 0, 0⟩
def MBX_ENG_STAT_RUNNING : Fld := ⟨R.MBX_ENG_STAT, 31, 31⟩
def MBX_QUOTA_QUOTA : Fld := ⟨R.MBX_QUOTA, 11, 0⟩
def MBX_RING_STAT_PRODUCED : Fld := ⟨R.MBX_RING_STAT, 31, 16⟩
def MBX_RING_STAT_CONSUMED : Fld := ⟨R.MBX_RING_STAT, 15, 0⟩
def MBX_RING_LOST_COUNT : Fld := ⟨R.MBX_RING_LOST, 31, 0⟩
def MBX_EVQ_STAT_LOST : Fld := ⟨R.MBX_EVQ_STAT, 31, 16⟩
def MBX_IRING_STAT_LOST : Fld := ⟨R.MBX_IRING_STAT, 31, 16⟩
def KNT_CTRL_IDLE : Fld := ⟨R.KNT_CTRL, 15, 0⟩
def KNT_GANG_CFG_LEAD : Fld := ⟨R.KNT_GANG_CFG, 15, 0⟩
def KNT_SLOT_STAT_RESULT : Fld := ⟨R.KNT_SLOT_STAT, 31, 24⟩
def KNT_SLOT_STAT_GEN : Fld := ⟨R.KNT_SLOT_STAT, 23, 16⟩
def KNT_SLOT_STAT_STATE : Fld := ⟨R.KNT_SLOT_STAT, 15, 13⟩
def KNT_SLOT_STAT_INELIG : Fld := ⟨R.KNT_SLOT_STAT, 12, 12⟩
def KNT_SLOT_STAT_DIRTY : Fld := ⟨R.KNT_SLOT_STAT, 11, 11⟩
def KNT_SLOT_STAT_ENTRIES : Fld := ⟨R.KNT_SLOT_STAT, 9, 0⟩
def KNT_SLOT_INFO_OWNER : Fld := ⟨R.KNT_SLOT_INFO, 31, 24⟩
def KNT_SLOT_INFO_KIND : Fld := ⟨R.KNT_SLOT_INFO, 17, 16⟩
def KNT_SLOT_INFO_DIR : Fld := ⟨R.KNT_SLOT_INFO, 12, 12⟩
def KNT_SLOT_INFO_SET : Fld := ⟨R.KNT_SLOT_INFO, 8, 0⟩
def KNT_SLOT_LANES_FORCED : Fld := ⟨R.KNT_SLOT_LANES, 24, 16⟩
def KNT_SLOT_LANES_APPLIED : Fld := ⟨R.KNT_SLOT_LANES, 8, 0⟩
def KNT_SLOT_ERR_ADDR : Fld := ⟨R.KNT_SLOT_ERR, 31, 0⟩
def TOP_BOOT_STAT_ABSORBED : Fld := ⟨R.TOP_BOOT_STAT, 28, 26⟩
def TOP_BOOT_STAT_DBG_UNLOCKED : Fld := ⟨R.TOP_BOOT_STAT, 25, 25⟩
def TOP_BOOT_STAT_HELD : Fld := ⟨R.TOP_BOOT_STAT, 24, 24⟩
def TOP_BOOT_STAT_FAIL : Fld := ⟨R.TOP_BOOT_STAT, 23, 16⟩
def TOP_BOOT_STAT_LAST_CAUSE : Fld := ⟨R.TOP_BOOT_STAT, 15, 8⟩
def TOP_BOOT_STAT_BOOT : Fld := ⟨R.TOP_BOOT_STAT, 7, 0⟩
def TOP_WDOG_CFG_EN : Fld := ⟨R.TOP_WDOG_CFG, 16, 16⟩
def TOP_WDOG_CFG_PERIOD : Fld := ⟨R.TOP_WDOG_CFG, 15, 0⟩
def MON_ADC_CTRL_REF_RDY : Fld := ⟨R.MON_ADC_CTRL, 16, 16⟩
def MON_ADC_CTRL_SEQ_EN : Fld := ⟨R.MON_ADC_CTRL, 8, 8⟩
def MON_ADC_CTRL_REF_EN : Fld := ⟨R.MON_ADC_CTRL, 0, 0⟩
def MON_ADC_SEQ_LEN : Fld := ⟨R.MON_ADC_SEQ, 6, 0⟩
def MON_ADC_URG_CH : Fld := ⟨R.MON_ADC_URG, 5, 0⟩
def MON_ADC_URGRES_VALID : Fld := ⟨R.MON_ADC_URGRES, 31, 31⟩
def MON_ADC_URGRES_BUSY : Fld := ⟨R.MON_ADC_URGRES, 30, 30⟩
def MON_ADC_URGRES_RESULT : Fld := ⟨R.MON_ADC_URGRES, 15, 0⟩
def MON_ADC_STAT_MISSED : Fld := ⟨R.MON_ADC_STAT, 31, 16⟩
def MON_ADC_STAT_OVERRUN : Fld := ⟨R.MON_ADC_STAT, 15, 0⟩
def MON_IRQ_STAT_MISSED : Fld := ⟨R.MON_IRQ_STAT, 4, 4⟩
def MON_IRQ_STAT_FTH_SAT : Fld := ⟨R.MON_IRQ_STAT, 2, 2⟩
def MON_IRQ_STAT_FTH_DONE : Fld := ⟨R.MON_IRQ_STAT, 1, 1⟩
def MON_IRQ_EN_EVT : Fld := ⟨R.MON_IRQ_EN, 12, 8⟩
def MON_IN_CFG_ANCHOR : Fld := ⟨R.MON_IN_CFG, 31, 31⟩
def MON_IN_CFG_TRIG : Fld := ⟨R.MON_IN_CFG, 30, 28⟩
def MON_IN_CFG_TSRC : Fld := ⟨R.MON_IN_CFG, 27, 22⟩
def MON_IN_CFG_EVERY : Fld := ⟨R.MON_IN_CFG, 11, 0⟩
def MON_IN_CAL_GAIN : Fld := ⟨R.MON_IN_CAL, 31, 16⟩
def MON_IN_CAL_OFFS : Fld := ⟨R.MON_IN_CAL, 15, 0⟩
def MON_IN_RES_VALID : Fld := ⟨R.MON_IN_RES, 31, 31⟩
def MON_IN_RES_CODE : Fld := ⟨R.MON_IN_RES, 27, 16⟩
def MON_IN_RES_VALUE : Fld := ⟨R.MON_IN_RES, 15, 0⟩
def MON_WIN_LO_LO_ALM : Fld := ⟨R.MON_WIN_LO, 31, 16⟩
def MON_WIN_LO_LO_WRN : Fld := ⟨R.MON_WIN_LO, 15, 0⟩
def MON_WIN_HI_HI_ALM : Fld := ⟨R.MON_WIN_HI, 31, 16⟩
def MON_WIN_HI_HI_WRN : Fld := ⟨R.MON_WIN_HI, 15, 0⟩
def MON_WIN_CFG_EN : Fld := ⟨R.MON_WIN_CFG, 31, 31⟩
def MON_WIN_CFG_IRQ_EN : Fld := ⟨R.MON_WIN_CFG, 30, 30⟩
def MON_WIN_CFG_INPUT : Fld := ⟨R.MON_WIN_CFG, 21, 16⟩
def MON_WIN_CFG_HYST : Fld := ⟨R.MON_WIN_CFG, 15, 8⟩
def MON_WIN_CFG_PERSIST : Fld := ⟨R.MON_WIN_CFG, 2, 0⟩
def MON_WIN_STAT_COUNT : Fld := ⟨R.MON_WIN_STAT, 31, 16⟩
def MON_WIN_STAT_CHG : Fld := ⟨R.MON_WIN_STAT, 7, 7⟩
def MON_WIN_STAT_FLAGS : Fld := ⟨R.MON_WIN_STAT, 6, 3⟩
def MON_WIN_STAT_ZONE : Fld := ⟨R.MON_WIN_STAT, 2, 0⟩
def MON_FTH_CFG_SOURCE : Fld := ⟨R.MON_FTH_CFG, 31, 24⟩
def MON_FTH_CFG_MODE : Fld := ⟨R.MON_FTH_CFG, 19, 18⟩
def MON_FTH_CFG_ACCUM : Fld := ⟨R.MON_FTH_CFG, 17, 17⟩
def MON_FTH_CFG_RUN : Fld := ⟨R.MON_FTH_CFG, 16, 16⟩
def MON_FTH_BASE_VALUE : Fld := ⟨R.MON_FTH_BASE, 31, 0⟩
def MON_FTH_LIM_VALUE : Fld := ⟨R.MON_FTH_LIM, 31, 0⟩
def MON_FTH_BIN_SHIFT : Fld := ⟨R.MON_FTH_BIN, 4, 0⟩
def MON_FTH_STAT_SEQ : Fld := ⟨R.MON_FTH_STAT, 31, 16⟩
def MON_FTH_STAT_VALID : Fld := ⟨R.MON_FTH_STAT, 7, 7⟩
def MON_FTH_STAT_SAT_ACT : Fld := ⟨R.MON_FTH_STAT, 6, 6⟩
def MON_FTH_STAT_DONE : Fld := ⟨R.MON_FTH_STAT, 5, 5⟩
def MON_FTH_STAT_SNAP_PEND : Fld := ⟨R.MON_FTH_STAT, 4, 4⟩
def MON_FTH_DROP_COUNT : Fld := ⟨R.MON_FTH_DROP, 31, 0⟩
def PMU_CTRL_VIEW : Fld := ⟨R.PMU_CTRL, 16, 16⟩
def PMU_SAMP_CFG_EN : Fld := ⟨R.PMU_SAMP_CFG, 31, 31⟩
def PMU_SAMP_CFG_PEND : Fld := ⟨R.PMU_SAMP_CFG, 30, 30⟩
def PMU_SAMP_CFG_LOST : Fld := ⟨R.PMU_SAMP_CFG, 29, 29⟩
def PMU_SAMP_CFG_COUNTER : Fld := ⟨R.PMU_SAMP_CFG, 7, 0⟩
def PMU_SAMP_PER_VALUE : Fld := ⟨R.PMU_SAMP_PER, 31, 0⟩
def PMU_SAMP_PC_LO_VALUE : Fld := ⟨R.PMU_SAMP_PC_LO, 31, 0⟩
def PMU_SAMP_PC_HI_VALUE : Fld := ⟨R.PMU_SAMP_PC_HI, 31, 0⟩
def PWR_STATE_REF_LOST : Fld := ⟨R.PWR_STATE, 8, 8⟩
def PWR_STATE_TARGET : Fld := ⟨R.PWR_STATE, 5, 4⟩
def PWR_STATE_TRANS : Fld := ⟨R.PWR_STATE, 3, 3⟩
def PWR_STATE_STATE : Fld := ⟨R.PWR_STATE, 1, 0⟩
def PWR_ANCHOR_CFG_IDLE : Fld := ⟨R.PWR_ANCHOR_CFG, 31, 16⟩
def PWR_ANCHOR_CFG_FTH_RET : Fld := ⟨R.PWR_ANCHOR_CFG, 1, 1⟩
def PWR_ANCHOR_CFG_AUTO : Fld := ⟨R.PWR_ANCHOR_CFG, 0, 0⟩
def PWR_REFUSE_LAST : Fld := ⟨R.PWR_REFUSE, 31, 24⟩
def PWR_REFUSE_WAKE : Fld := ⟨R.PWR_REFUSE, 23, 16⟩
def PWR_REFUSE_WAKES : Fld := ⟨R.PWR_REFUSE, 15, 0⟩
def PWR_REFUSE_CNT_ABORTED : Fld := ⟨R.PWR_REFUSE_CNT, 31, 16⟩
def PWR_REFUSE_CNT_REFUSED : Fld := ⟨R.PWR_REFUSE_CNT, 15, 0⟩
def PWR_BLK_EN_EN_REJ : Fld := ⟨R.PWR_BLK_EN, 31, 31⟩
def PWR_BLK_EN_HWS : Fld := ⟨R.PWR_BLK_EN, 25, 25⟩
def PWR_BLK_EN_CORE : Fld := ⟨R.PWR_BLK_EN, 24, 24⟩
def PWR_BLK_EN_HSTQ : Fld := ⟨R.PWR_BLK_EN, 19, 16⟩
def PWR_BLK_EN_LANE : Fld := ⟨R.PWR_BLK_EN, 8, 0⟩
def PWR_CLK_STAT_HST_LOCK : Fld := ⟨R.PWR_CLK_STAT, 19, 16⟩
def PWR_CLK_STAT_RX_LOCK : Fld := ⟨R.PWR_CLK_STAT, 12, 4⟩
def PWR_CLK_STAT_AON_SRC : Fld := ⟨R.PWR_CLK_STAT, 3, 3⟩
def PWR_CLK_STAT_CORE_LOCK : Fld := ⟨R.PWR_CLK_STAT, 1, 1⟩
def PWR_CLK_STAT_MGMT_LOCK : Fld := ⟨R.PWR_CLK_STAT, 0, 0⟩
def PWR_RST_CAUSE_CAUSE : Fld := ⟨R.PWR_RST_CAUSE, 7, 0⟩
def PWR_OFFACC_STAT_DOMAIN : Fld := ⟨R.PWR_OFFACC_STAT, 31, 24⟩
def PWR_OFFACC_STAT_WRITE : Fld := ⟨R.PWR_OFFACC_STAT, 20, 20⟩
def PWR_OFFACC_STAT_REQ : Fld := ⟨R.PWR_OFFACC_STAT, 19, 16⟩
def PWR_OFFACC_STAT_COUNT : Fld := ⟨R.PWR_OFFACC_STAT, 15, 0⟩
def PWR_ACCT_PRESENT : Fld := ⟨R.PWR_ACCT, 31, 16⟩
def PWR_ACCT_AUX : Fld := ⟨R.PWR_ACCT, 15, 0⟩
def ECC_STAT_LOG_LOST : Fld := ⟨R.ECC_STAT, 31, 16⟩
def ECC_STAT_SCRUB_EN : Fld := ⟨R.ECC_STAT, 7, 7⟩
def ECC_SCRUB_STAT_PASSES : Fld := ⟨R.ECC_SCRUB_STAT, 31, 22⟩
def ECC_SCRUB_STAT_POS : Fld := ⟨R.ECC_SCRUB_STAT, 21, 0⟩
def ECC_INJ_ADDR_ADDR : Fld := ⟨R.ECC_INJ_ADDR, 31, 0⟩
def ECC_INJ_CTRL_ARM : Fld := ⟨R.ECC_INJ_CTRL, 31, 31⟩
def ECC_INJ_CTRL_KIND : Fld := ⟨R.ECC_INJ_CTRL, 16, 16⟩
def ECC_INJ_CTRL_BIT1 : Fld := ⟨R.ECC_INJ_CTRL, 15, 8⟩
def ECC_INJ_CTRL_BIT0 : Fld := ⟨R.ECC_INJ_CTRL, 7, 0⟩
def ECC_DMA_STAT_COUNT : Fld := ⟨R.ECC_DMA_STAT, 31, 16⟩
def ECC_DMA_STAT_HALTED : Fld := ⟨R.ECC_DMA_STAT, 1, 0⟩
def BST_STAT_PENDING : Fld := ⟨R.BST_STAT, 21, 0⟩
def BST_FAIL_FAIL : Fld := ⟨R.BST_FAIL, 21, 0⟩
def BST_LAST_FAIL : Fld := ⟨R.BST_LAST, 21, 0⟩
def HWS_PORT_CTRL_PRE : Fld := ⟨R.HWS_PORT_CTRL, 27, 24⟩
def HWS_PORT_CTRL_POST : Fld := ⟨R.HWS_PORT_CTRL, 20, 16⟩
def HWS_PORT_CTRL_FIR_MAN : Fld := ⟨R.HWS_PORT_CTRL, 15, 15⟩
def HWS_PORT_CTRL_EN : Fld := ⟨R.HWS_PORT_CTRL, 0, 0⟩
def HWS_PORT_STAT_PEER_IDX : Fld := ⟨R.HWS_PORT_STAT, 30, 24⟩
def HWS_PORT_STAT_DOWN_COUNT : Fld := ⟨R.HWS_PORT_STAT, 23, 16⟩
def HWS_PORT_STAT_TRAIN_FAIL : Fld := ⟨R.HWS_PORT_STAT, 15, 12⟩
def HWS_PORT_STAT_CHG : Fld := ⟨R.HWS_PORT_STAT, 8, 8⟩
def HWS_PORT_STAT_BLOCKED : Fld := ⟨R.HWS_PORT_STAT, 7, 7⟩
def HWS_PORT_STAT_STANDBY : Fld := ⟨R.HWS_PORT_STAT, 6, 6⟩
def HWS_PORT_STAT_LOL : Fld := ⟨R.HWS_PORT_STAT, 5, 5⟩
def HWS_PORT_STAT_LOS : Fld := ⟨R.HWS_PORT_STAT, 4, 4⟩
def HWS_PORT_STAT_STATE : Fld := ⟨R.HWS_PORT_STAT, 2, 0⟩
def HWS_PORT_ERR_COUNT : Fld := ⟨R.HWS_PORT_ERR, 31, 0⟩
def HWS_PORT_REPLAY_COUNT : Fld := ⟨R.HWS_PORT_REPLAY, 31, 0⟩
def HWS_PORT_FIR_PRE : Fld := ⟨R.HWS_PORT_FIR, 19, 16⟩
def HWS_PORT_FIR_POST : Fld := ⟨R.HWS_PORT_FIR, 12, 8⟩
def HWS_PORT_FIR_AT_LIMIT : Fld := ⟨R.HWS_PORT_FIR, 0, 0⟩
def HWS_GANG_STAT_DEPTH : Fld := ⟨R.HWS_GANG_STAT, 30, 24⟩
def HWS_GANG_STAT_SIZE : Fld := ⟨R.HWS_GANG_STAT, 23, 16⟩
def HWS_GANG_STAT_OVERSIZE : Fld := ⟨R.HWS_GANG_STAT, 13, 13⟩
def HWS_GANG_STAT_TIME_SUSPECT : Fld := ⟨R.HWS_GANG_STAT, 12, 12⟩
def HWS_GANG_STAT_QUARANTINE : Fld := ⟨R.HWS_GANG_STAT, 11, 11⟩
def HWS_GANG_STAT_DIVERGED : Fld := ⟨R.HWS_GANG_STAT, 10, 10⟩
def HWS_GANG_STAT_SPLIT : Fld := ⟨R.HWS_GANG_STAT, 9, 9⟩
def HWS_GANG_STAT_HOSTBUS : Fld := ⟨R.HWS_GANG_STAT, 8, 8⟩
def HWS_GANG_STAT_LEADER : Fld := ⟨R.HWS_GANG_STAT, 7, 7⟩
def HWS_GANG_STAT_INDEX : Fld := ⟨R.HWS_GANG_STAT, 6, 0⟩
def HWS_GANG_EPOCH_VALUE : Fld := ⟨R.HWS_GANG_EPOCH, 31, 0⟩
def HWS_DISC_STAT_SUB_HI : Fld := ⟨R.HWS_DISC_STAT, 30, 24⟩
def HWS_DISC_STAT_UP_PORT : Fld := ⟨R.HWS_DISC_STAT, 17, 16⟩
def HWS_DISC_STAT_EPOCH : Fld := ⟨R.HWS_DISC_STAT, 15, 0⟩
def HWS_TIME_CFG_AUTO_RELOAD : Fld := ⟨R.HWS_TIME_CFG, 28, 28⟩
def HWS_TIME_CFG_SYNC_PER : Fld := ⟨R.HWS_TIME_CFG, 23, 16⟩
def HWS_TIME_CFG_TOL : Fld := ⟨R.HWS_TIME_CFG, 9, 0⟩
def HWS_TIME_STAT_LOCKED : Fld := ⟨R.HWS_TIME_STAT, 24, 24⟩
def HWS_TIME_STAT_MISSED : Fld := ⟨R.HWS_TIME_STAT, 23, 16⟩
def HWS_TIME_STAT_E : Fld := ⟨R.HWS_TIME_STAT, 15, 0⟩
def HWS_TIME_THETA_THETA : Fld := ⟨R.HWS_TIME_THETA, 31, 0⟩
def HWS_DROP_DMA : Fld := ⟨R.HWS_DROP, 31, 24⟩
def HWS_DROP_ORPHAN : Fld := ⟨R.HWS_DROP, 23, 12⟩
def HWS_DROP_UNROUTABLE : Fld := ⟨R.HWS_DROP, 11, 0⟩
def HWS_PG_STAT_GRANTS : Fld := ⟨R.HWS_PG_STAT, 31, 16⟩
def HWS_PG_WAIT_LONGEST : Fld := ⟨R.HWS_PG_WAIT, 15, 0⟩

end F

end Sys2Proof.Machine
end

