-- ==== Sys2Proof/Machine/Ops.lean ====
section
/-! DEFINITION. Sys2Proof/Machine/Ops.lean: the operations every meaning shares: registers and their fields, counters,
the event queue, completions and the outstanding table, and SRAM bytes. -/

namespace Sys2Proof.Machine

/-! ## Registers -/

/-- The stored word of register r, repetition (n, m): its reset value while the bank lists none. -/
def State.word (s : State) (r : RegD) (n : Nat := 0) (m : Nat := 0) : Word :=
  Bank.get s.regs (r.addr n m) (r.reset n m)

/-- Store w in register r, repetition (n, m). -/
def State.setWord (s : State) (r : RegD) (w : Word) (n : Nat := 0) (m : Nat := 0) : State :=
  { s with regs := Bank.put s.regs (r.addr n m) w (r.reset n m) }

/-- Bits hi down to lo of a word. -/
def bitsOf (w : Word) (hi lo : Nat) : Nat := w.toNat / 2 ^ lo % 2 ^ (hi + 1 - lo)

/-- The word w with bits hi down to lo replaced by v. -/
def withBits (w : Word) (hi lo v : Nat) : Word :=
  BitVec.ofNat 32 (w.toNat - bitsOf w hi lo * 2 ^ lo + v % 2 ^ (hi + 1 - lo) * 2 ^ lo)

/-- The value of field f of repetition (n, m). -/
def State.get (s : State) (f : Fld) (n : Nat := 0) (m : Nat := 0) : Nat := bitsOf (s.word f.reg n m) f.hi f.lo

/-- A one-bit field as a Bool. -/
def State.flag (s : State) (f : Fld) (n : Nat := 0) (m : Nat := 0) : Bool := s.get f n m = 1

/-- Set field f of repetition (n, m) to v, truncated to the field. -/
def State.put (s : State) (f : Fld) (v : Nat) (n : Nat := 0) (m : Nat := 0) : State :=
  s.setWord f.reg (withBits (s.word f.reg n m) f.hi f.lo v) n m

/-- Set a one-bit field. -/
def State.putB (s : State) (f : Fld) (b : Bool) (n : Nat := 0) (m : Nat := 0) : State := s.put f b.toNat n m

/-- Add k to a counter that saturates at the width of its field. -/
def State.addSat (s : State) (f : Fld) (k : Nat) (n : Nat := 0) (m : Nat := 0) : State :=
  s.put f (min (s.get f n m + k) (2 ^ (f.hi + 1 - f.lo) - 1)) n m

/-- Count one more in a counter that wraps at the width of its field. -/
def State.incWrap (s : State) (f : Fld) (n : Nat := 0) (m : Nat := 0) : State := s.put f (s.get f n m + 1) n m

/-- A value of w bits read as two's complement. -/
def signed (w : Nat) (v : Nat) : Int := if v % 2 ^ w < 2 ^ (w - 1) then ↑(v % 2 ^ w) else ↑(v % 2 ^ w) - 2 ^ w

/-- The two's complement code of i in w bits. -/
def unsigned (w : Nat) (i : Int) : Nat := (i % 2 ^ w).toNat

/-- The value of field f as two's complement. -/
def State.geti (s : State) (f : Fld) (n : Nat := 0) (m : Nat := 0) : Int := signed (f.hi + 1 - f.lo) (s.get f n m)

/-- i clamped into lo to hi. -/
def clamp (lo hi i : Int) : Int := max lo (min hi i)

/-- num / den rounded to the nearest integer, ties to even (den positive). -/
def roundHalfEven (num den : Int) : Int :=
  let q := num / den
  let r := num % den
  if 2 * r < den then q else if 2 * r > den then q + 1 else if q % 2 = 0 then q else q + 1

/-- num / den rounded to the nearest integer, ties away from zero (den positive). -/
def roundHalfAway (num den : Int) : Int :=
  if num ≥ 0 then (2 * num + den) / (2 * den) else -((2 * -num + den) / (2 * den))

/-- A free value (Config.free) for the place named site, and the state whose counter it has used.
DESIGN CHOICE, log 5. -/
def State.free (s : State) (site : Nat) : Word × State := (Config.free site s.fresh, { s with fresh := s.fresh + 1 })

/-- A free integer among the two nearest to num/den (den positive), or the quotient itself where it is exact: for a
value that the spec stores in an integer field without stating the rounding. -/
def State.freeRound (s : State) (site : Nat) (num den : Int) : Int × State :=
  if num % den = 0 then (num / den, s)
  else
    let (w, s) := s.free site
    (num / den + (if w.getLsbD 0 then 1 else 0), s)

/-- Answer the sender of the command. -/
def State.answer (s : State) (r : Resp) : State := { s with resp := r }

/-- The lifetime counter of bytes 4w to 4w + 3 of the record gains k (R410). -/
def State.lifeAdd (s : State) (w : Nat) (k : Nat := 1) : State :=
  { s with bst := { s.bst with life := Bank.put s.bst.life w (Bank.get s.bst.life w 0 + BitVec.ofNat 32 k) 0 } }

/-! ## Time stamps of entries -/

/-- The device is in ANCHOR (R374). -/
def State.inAnchor (s : State) : Bool := s.get F.PWR_STATE_STATE = 1

/-! ## Performance counters (R368 to R370) -/

/-- Add k to performance counter j modulo 2^48; each wrap sets OVF and, where CHAIN joins them, counts in counter
j + 1. -/
def State.perfAdd (s : State) (fuel j k : Nat) : State :=
  let sum := (Bank.get s.mon.counters j 0).toNat + k
  let s := { s with mon := { s.mon with counters := Bank.put s.mon.counters j (BitVec.ofNat 48 sum) 0 } }
  if sum < 2 ^ 48 then s
  else
    let s := s.setWord R.PMU_OVF (s.word R.PMU_OVF (j / 32) ||| BitVec.ofNat 32 (2 ^ (j % 32))) (j / 32)
    match fuel with
    | 0 => s
    | fuel + 1 =>
      if (s.word R.PMU_CHAIN (j / 32)).getLsbD (j % 32) && j < 255 then s.perfAdd fuel (j + 1) (sum / 2 ^ 48) else s

/-- Count k events in performance counter j, unless CHAIN makes it count the wraps of counter j - 1 (R369). -/
def State.perf (s : State) (j : Nat) (k : Nat := 1) : State :=
  if 0 < j && (s.word R.PMU_CHAIN ((j - 1) / 32)).getLsbD ((j - 1) % 32) then s else s.perfAdd 255 j k

/-! ## Events (R298) -/

/-- Post an event: queued, or dropped and counted when the queue holds 64. DEDUCED, log 22. -/
def State.post (s : State) (code : Nat) (lane : Nat := 0xF) (arg : Nat := 0) : State :=
  let e : Evt := { code := code, lane := lane, seq := s.mbx.evGen, arg := BitVec.ofNat 32 arg, raw := s.tim.raw,
                   anchor := s.inAnchor }
  if s.mbx.events.length < 64 then
    { s with mbx := { s.mbx with events := s.mbx.events ++ [e], evGen := s.mbx.evGen + 1 } }.perf 0xEC
  else ({ s with mbx := { s.mbx with evGen := s.mbx.evGen + 1 } }.addSat F.MBX_EVQ_STAT_LOST 1).perf 0xED

/-- Post an event for which the spec defines no argument: its argument is a free value. DESIGN CHOICE, log 23. -/
def State.postBare (s : State) (code : Nat) (lane : Nat := 0xF) : State :=
  let (w, s) := s.free 6
  s.post code lane w.toNat

/-- Update the monitor record. -/
def State.modMon (s : State) (f : Mon → Mon) : State := { s with mon := f s.mon }

/-- Event s of R372 is posted: its EVT bit is 1. -/
def State.monEvt (s : State) (b : Nat) : Bool := s.get F.MON_IRQ_EN_EVT / 2 ^ b % 2 = 1

/-! ## Fathom (R363 to R366) -/

/-- Update Fathom instance i. -/
def State.modFathom (s : State) (i : Fin 32) (f : Fathom → Fathom) : State :=
  s.modMon fun m => { m with fathom := m.fathom.set i (f m.fathom[i]) }

/-- The bin of value v (R363). -/
def binOf (base : Int) (shift : Nat) (v : Int) : Nat := (clamp 0 255 ((v - base) / 2 ^ shift)).toNat

/-- Count one sample in a set (R363). -/
def Bins.add (b : Bins) (k : Nat) (v : Int) : Bins :=
  let c := Bank.get b.bins k 0
  { bins := Bank.put b.bins k (min (c + 1) 0xFFFFFFFF) 0
    count := (b.count + 1) % 2 ^ 48
    low := if b.count = 0 then v else min b.low v
    high := if b.count = 0 then v else max b.high v
    sat := b.sat || decide (c + 1 ≥ 0xFFFFFFFF) }

/-- The instance's SOURCE counts something (R364). -/
def fathomLive (s : State) (i : Nat) : Bool := 1 ≤ s.get F.MON_FTH_CFG_SOURCE i && s.get F.MON_FTH_CFG_SOURCE i ≤ 0x0A

/-- A COUNT capture has reached its LIMIT (R365). -/
def fathomFull (s : State) (i : Fin 32) : Bool :=
  s.get F.MON_FTH_CFG_MODE i = 2 && s.mon.fathom[i].active.count ≥ max 1 (s.get F.MON_FTH_LIM_VALUE i)

/-- Instance i counts the sample v; excess says that it is beyond 16 in its core cycle (R363). -/
def fathomSample (i : Fin 32) (v : Int) (excess : Bool) (s : State) : State :=
  if !s.flag F.MON_FTH_CFG_RUN i || !fathomLive s i || fathomFull s i then s
  else if excess then (s.addSat F.MON_FTH_DROP_COUNT 1 i).perf 0xFA
  else
    let k := binOf (s.geti F.MON_FTH_BASE_VALUE i) (s.get F.MON_FTH_BIN_SHIFT i) v
    let s := s.modFathom i fun f => { f with active := f.active.add k v }
    let s := s.putB F.MON_FTH_STAT_SAT_ACT s.mon.fathom[i].active.sat i
    if s.mon.fathom[i].active.sat && !s.mon.fathom[i].satPosted then
      let s := (s.modFathom i fun f => { f with satPosted := true }).put F.MON_IRQ_STAT_FTH_SAT 1
      if s.monEvt 2 then s.post 0x56 0xF i else s
    else s

/-- Offer a sample of source src to every running instance of that source whose FILT passes it (R364). -/
def fathomOffer (src : Nat) (pass : Word → Bool) (v : Int) (s : State) : State :=
  (List.finRange 32).foldl (fun s (i : Fin 32) =>
    if s.get F.MON_FTH_CFG_SOURCE i = src && pass (s.word R.MON_FTH_FILT i) then fathomSample i v false s else s) s

/-! ## Identities, classes and rings (R284, R292, R294) -/

/-- The quota class of an identity. -/
def classOf (ident : Nat) : Nat := if ident ≥ 0x80 then 5 else ident - 1

/-- Identity, opcode and tag of a message. -/
def Cmd.word (c : Cmd) (i : Nat) : Word := c.words.getD i 0
def Cmd.bits (c : Cmd) (i hi lo : Nat) : Nat := bitsOf (c.word i) hi lo
def Cmd.ident (c : Cmd) : Nat := c.bits 0 31 24
def Cmd.opcode (c : Cmd) : Nat := c.bits 0 23 16
def Cmd.tag (c : Cmd) : BitVec 16 := BitVec.ofNat 16 (c.bits 0 15 0)
def Cmd.noInterim (c : Cmd) : Bool := c.bits 1 0 0 = 1
def Cmd.extLen (c : Cmd) : Nat := c.bits 1 31 16

/-- Put a completion into a ring of the given capacity, or drop it; the second part says that it was dropped, the
third that it is the first dropped since the ring was last not full (R297). -/
def Ring.push (r : Ring) (cap : Nat) (c : Cpl) : Ring × Bool × Bool :=
  if r.entries.length < cap then
    ({ r with entries := r.entries ++ [{ c with seq := r.gen }], gen := r.gen + 1, dropping := false }, false, false)
  else ({ r with gen := r.gen + 1, dropping := true }, true, !r.dropping)

/-- Take the oldest entry off a ring. -/
def Ring.pop (r : Ring) : Ring := { r with entries := r.entries.tail, dropping := false }

/-! ## SRAM bytes and words (R29, R399) -/

/-- Where an access to SRAM address a goes: a retired page's accesses go to its spare page. -/
def State.phys (s : State) (a : Nat) : Nat :=
  match s.ecc.retired.findIdx? (fun p => p = a / 0x1000) with
  | some e => 0x81FC0000 + e * 0x1000 + a % 0x1000
  | none => a

/-- The byte stored at physical address p; unlisted bytes are zero (R22). -/
def State.physByte (s : State) (p : Nat) : Byte := Bank.get s.sram p 0

/-- Store a byte at physical address p. -/
def State.setPhysByte (s : State) (p : Nat) (v : Byte) : State := { s with sram := Bank.put s.sram p v 0 }

/-- The byte at SRAM address a. -/
def State.byte (s : State) (a : Nat) : Byte := s.physByte (s.phys a)

/-- Store a byte at SRAM address a. -/
def State.setByte (s : State) (a : Nat) (v : Byte) : State := s.setPhysByte (s.phys a) v

/-- The k bytes from SRAM address a on. -/
def State.bytes (s : State) (a k : Nat) : List Byte := (List.range k).map fun i => s.byte (a + i)

def State.modEcc (s : State) (f : Ecc → Ecc) : State := { s with ecc := f s.ecc }

/-- Flipped bits of the stored word at physical address p, a multiple of 8: 0 to 63 the data, 64 to 71 the check
bits. -/
def State.flips (s : State) (p : Nat) : List Nat := Bank.get s.ecc.flips p []

def State.setFlips (s : State) (p : Nat) (l : List Nat) : State :=
  s.modEcc fun e => { e with flips := Bank.put e.flips p l [] }

/-- Flip bit b once more. -/
def toggle (l : List Nat) (b : Nat) : List Nat := if l.contains b then l.filter fun x => !(x = b) else l ++ [b]

/-- After a full write of the word that holds address a: its check bits are good, unless an armed injection corrupts
them (R398). DEDUCED, log 99. -/
def State.eccWritten (s : State) (a : Nat) : State :=
  let w := a / 8 * 8
  if s.flag F.ECC_INJ_CTRL_ARM && s.get F.ECC_INJ_ADDR_ADDR / 8 * 8 = w then
    let b0 := s.get F.ECC_INJ_CTRL_BIT0
    let b1 := s.get F.ECC_INJ_CTRL_BIT1
    let bits := if s.flag F.ECC_INJ_CTRL_KIND then [b0, b1] else [b0]
    ((s.put F.ECC_INJ_CTRL_ARM 0).setFlips (s.phys w) ((bits.filter fun b => b < 72).foldl toggle []))
  else s.setFlips (s.phys w) []

/-- Store bytes from SRAM address a on (R393, R394): a word written whole is as new, and a single error of a word
written in part is corrected on the way. -/
def State.setBytes (s : State) (a : Nat) (bs : List Byte) : State :=
  let s := bs.zipIdx.foldl (fun s p => s.setByte (a + p.2) p.1) s
  (List.range (bs.length / 8 + 2)).foldl (fun s i =>
    let w := (a / 8 + i) * 8
    if a + bs.length ≤ w then s
    else if a ≤ w && w + 8 ≤ a + bs.length then s.eccWritten w
    else if (s.flips (s.phys w)).length = 1 then s.setFlips (s.phys w) []
    else s) s

/-- The staging buffer of mailbox m (R284). -/
def stagingBase (m : Nat) : Nat := 0x81F60000 + m * 0x1000

/-! ## Frames sent over Hawser (R419 to R425) -/

/-- The opcodes whose result goes to the staging buffer (R289, R307). -/
def opStaged (op : Nat) : Bool := [0x02, 0x07, 0x80, 0x91, 0x92, 0xA0, 0xA2].contains op

def State.hwPort (s : State) (p : Nat) : HwPort := s.hws.ports[Fin.ofNat 3 p]

def State.modPort (s : State) (p : Nat) (f : HwPort → HwPort) : State :=
  { s with hws := { s.hws with ports := s.hws.ports.set (Fin.ofNat 3 p) (f s.hws.ports[Fin.ofNat 3 p]) } }

def State.modHws (s : State) (f : Hws → Hws) : State := { s with hws := f s.hws }

/-- Own gang index. -/
def State.hwIndex (s : State) : Nat := s.get F.HWS_GANG_STAT_INDEX

/-- One reliable channel of a port, and its update. -/
def HwPort.chan (p : HwPort) (ack : Bool) : HwChan := if ack then p.ack else p.req
def HwPort.modChan (p : HwPort) (ack : Bool) (f : HwChan → HwChan) : HwPort :=
  if ack then { p with ack := f p.ack } else { p with req := f p.req }

/-- A frame goes out on its port's line, after as many idle sets as it happens to take. DESIGN CHOICE, log 164. -/
def State.hwLine (s : State) (x : HwSend) : State :=
  let (v, s) := s.free 31
  let s := s.modPort x.port fun t => t.sendFrame v.toNat x
  s.modHws fun h => { h with sent := h.sent ++ [x] }

/-- Put a frame of a reliable channel on the wire while the channel holds a credit; else it waits for one (R421).
DEDUCED, log 117. -/
def State.hwReliable (s : State) (ack : Bool) (x : HwSend) : State :=
  let c := (s.hwPort x.port).chan ack
  if c.credits = 0 then s.modPort x.port fun p => p.modChan ack fun c => { c with waiting := c.waiting ++ [x] }
  else
    let x := { x with lseq := c.txSeq }
    let s := s.modPort x.port fun p => p.modChan ack fun c =>
      { c with txSeq := c.txSeq + 1, credits := c.credits - 1,
               replay := (c.replay ++ [x]).drop (c.replay.length - 15) }
    s.hwLine x

/-- Hand a frame to the transmitter of port p. -/
def State.hwEmit (s : State) (p src dst hops : Nat) (m : HwMsg) : State :=
  let x : HwSend := { port := p, src := src, dst := dst, hops := hops, msg := m }
  match m.chan with
  | some ack => s.hwReliable ack x
  | none => s.hwLine x

/-- Port p is ACTIVE and its link carries frames. -/
def State.hwUp (s : State) (p : Nat) : Bool :=
  s.get F.HWS_PORT_STAT_STATE p = 5 && !s.flag F.HWS_PORT_STAT_STANDBY p && !s.flag F.HWS_PORT_STAT_BLOCKED p

/-- The port towards gang index d (R425), if it can carry frames. -/
def State.hwRoute (s : State) (d : Nat) : Option Nat :=
  let child := (List.range 3).find? fun p => match (s.hwPort p).child with
    | none => false
    | some (lo, hi) => lo ≤ d && d ≤ hi
  let p := child.getD (s.get F.HWS_DISC_STAT_UP_PORT)
  if p < 3 && s.hwUp p then some p else none

/-- Send frames of this device's own to gang index d; true when they could be routed. -/
def State.hwTryAll (s : State) (d : Nat) (ms : List HwMsg) : State × Bool :=
  match s.hwRoute d with
  | some p => (ms.foldl (fun s m => s.hwEmit p s.hwIndex d 0 m) s, true)
  | none => (s, false)

/-- Send one frame to gang index d. -/
def State.hwTry (s : State) (d : Nat) (m : HwMsg) : State × Bool := s.hwTryAll d [m]

/-- Bytes in segments of up to 256, each with whether it is the first and whether the last (R427). -/
def segments (l : List Byte) : List (List Byte × Bool × Bool) :=
  let k := max 1 ((l.length + 255) / 256)
  (List.range k).map fun i => ((l.drop (256 * i)).take 256, decide (i = 0), decide (i + 1 = k))

/-- The MSG frames of a message: its 16 words and its extended payload, in segments (R427). -/
def msgFrames (words : List Word) (ext : List Byte) : List HwMsg :=
  let l := (words.take 16).flatMap (fun w => leBytes 4 w.toNat) ++ ext
  (segments (l ++ List.replicate ((4 - l.length % 4) % 4) 0)).map fun x => .msg x.1 x.2.1 x.2.2

/-- The COMPLETION frames of a completion: itself, then the segments of its staged result (R428). DEDUCED, log 117. -/
def completionFrames (c : Cpl) (staged : List Byte) : List HwMsg :=
  if staged.isEmpty then [.completion c [] true true]
  else .completion c [] true false :: (segments staged).map fun x => .completion c x.1 false x.2.2

/-- Send a frame, or discard and count it (R425). -/
def State.hwSendTo (s : State) (d : Nat) (m : HwMsg) : State :=
  let (s, ok) := s.hwTry d m
  if ok then s else s.addSat F.HWS_DROP_UNROUTABLE 1

/-! ## Completions -/

/-- Post a completion (R294, R297) for the message word w0 that arrived in mailbox m: to the host ring, to the
internal ring of its identity, or over Hawser to the peer it came from, with its staged result (R428, R429). -/
def State.postCpl (s : State) (w0 : Word) (m : Nat) (st orig : Status) (result : Word) (final : Bool) : State :=
  let ident := bitsOf w0 31 24
  let c : Cpl := { w0 := w0, status := st, orig := orig, epoch := s.fw.epoch, result := result, final := final, m := m,
                   seq := 0 }
  if ident ≥ 0x80 then
    let staged := if final && st = .done && opStaged (bitsOf w0 23 16) then s.bytes (stagingBase m) result.toNat else []
    let (s, ok) := s.hwTryAll (ident - 0x80) (completionFrames c staged)
    if ok then s else s.addSat F.HWS_DROP_ORPHAN 1
  else if ident ≤ 2 then
    let (r, dropped, first) := s.mbx.host.push 256 c
    let s1 := { s with mbx := { s.mbx with host := r } }
    if dropped then
      let s2 := (s1.addSat F.MBX_RING_LOST_COUNT 1).perf 0xEB
      if first then s2.post 0x0A 0xF s.mbx.host.gen.toNat else s2
    else (s1.incWrap F.MBX_RING_STAT_PRODUCED).perf 0xEA
  else
    let k : Fin 3 := Fin.ofNat 3 (ident - 3)
    let (r, dropped, first) := s.mbx.internal[k].push 64 c
    let s1 := { s with mbx := { s.mbx with internal := s.mbx.internal.set k r } }
    if dropped then
      let s2 := (s1.addSat F.MBX_IRING_STAT_LOST 1 k).perf 0xEB
      if first then s2.post 0x0A 0xF s.mbx.internal[k].gen.toNat else s2
    else s1.perf 0xEA

/-! ## Replay windows (R299) -/

/-- The replay window of an identity. -/
def State.window (s : State) (ident : Nat) : List WinEntry := Bank.get s.mbx.windows ident []

/-- Replace the replay window of an identity. -/
def State.setWindow (s : State) (ident : Nat) (w : List WinEntry) : State :=
  { s with mbx := { s.mbx with windows := Bank.put s.mbx.windows ident w [] } }

/-- Note the final completion of command c in its window: cached, or, for RESET_ABORT and for a GANG_FORWARD that
completes with PEER_LOST (R429), the tag leaves. -/
def State.windowFinal (s : State) (c : Cmd) (st : Status) (result : Word) : State :=
  let w := s.window c.ident
  if st = .resetAbort || (st = .peerLost && c.opcode = 0x82) then s.setWindow c.ident (w.filter fun e => !(e.id = c.id))
  else s.setWindow c.ident (w.map fun e => if e.id = c.id then { e with final := some (st, result) } else e)

/-! ## The outstanding table (R292, R293, R296) -/

/-- Release the staging lock of mailbox m (R289). -/
def State.unlockStaging (s : State) (m : Nat) : State := s.put F.MBX_STAT_STG_BUSY 0 m

/-- A final completion of identity ident, us after its take, is offered to Fathom source 0x09 (R364). -/
def completionOffer (ident us : Nat) (s : State) : State :=
  fathomOffer 9 (fun f => f.getLsbD (classOf ident)) (Int.ofNat (min us (2 ^ 31 - 1))) s

/-- Microseconds since a take at RAW. DEDUCED, log 168. -/
def State.sinceTake (s : State) (raw : BitVec 48) : Nat := (s.tim.raw - raw).toNat / 1000

/-- Post the final completion of command c with status st, the original status beside it: it leaves the outstanding
table, its window caches the outcome, its staging lock ends, and every attached duplicate is answered REPLAYED
(R300). -/
def State.finishAs (s : State) (c : Cmd) (st orig : Status) (result : Nat) : State :=
  let res := BitVec.ofNat 32 result
  let c := (s.mbx.outstanding.find? fun d => d.id = c.id).getD c
  let s := { s with mbx := { s.mbx with outstanding := s.mbx.outstanding.filter fun d => !(d.id = c.id) } }
  let s := s.windowFinal c st res
  let s := if c.locked then s.unlockStaging c.m else s
  let s := completionOffer c.ident (s.sinceTake c.taken) (s.postCpl (c.word 0) c.m st orig res true)
  c.dups.foldl (fun s d =>
    let s := if d.2.1 then s.unlockStaging d.1 else s
    completionOffer c.ident (s.sinceTake d.2.2) (s.postCpl (c.word 0) d.1 .replayed st res true)) s

/-- Post the final completion of command c with a status of this device's own. -/
def State.finish (s : State) (c : Cmd) (st : Status) (result : Nat := 0) : State := s.finishAs c st st result

/-- Replace the outstanding command that has c's take number. -/
def State.setCmd (s : State) (c : Cmd) : State :=
  { s with mbx := { s.mbx with outstanding := s.mbx.outstanding.map fun d => if d.id = c.id then c else d } }

/-- Command c executes and waits for w, without an interim completion. -/
def State.await (s : State) (c : Cmd) (w : Wait) : State := s.setCmd { c with stage := .executing w }

/-- Command c executes, waits for w, and posts its interim completion unless NO_INTERIM is set (R296). -/
def State.defer (s : State) (c : Cmd) (w : Wait) : State :=
  let s := s.await c w
  if c.noInterim then s else s.postCpl (c.word 0) c.m .deferred .deferred 0 false

/-- Finish every outstanding command that waits as p says. -/
def State.finishWhere (s : State) (p : Wait → Bool) (st : Status) (result : Nat := 0) : State :=
  (s.mbx.outstanding.filter fun c => match c.stage with | .queued => false | .executing w => p w).foldl
    (fun s c => s.finish c st result) s

/-- Rewrite the wait of every executing command. -/
def State.mapWaits (s : State) (f : Wait → Wait) : State :=
  { s with mbx := { s.mbx with outstanding := s.mbx.outstanding.map fun c =>
      match c.stage with | .queued => c | .executing w => { c with stage := .executing (f w) } } }

/-- The outstanding command with take number i. -/
def State.cmdById (s : State) (i : Nat) : Option Cmd := s.mbx.outstanding.find? fun c => c.id = i

/-- The command of mailbox m that starts execution next: the oldest queued one (R293). Rigger executes the commands, and
none while it is stopped (R15). -/
def State.front (s : State) (m : MBox) : Option Cmd :=
  if s.fw.running then s.mbx.outstanding.find? fun c => c.m = m.val && c.stage = .queued else none

/-- Execute the front command of mailbox m with f, if its opcode is op; no such command, no event.
DESIGN CHOICE, log 7. -/
def runCmd (op : Nat) (m : MBox) (f : Cmd → State → State) (s : State) : State :=
  match s.front m with
  | none => s
  | some c => if c.opcode = op then f c s else s

/-! ## Staged results -/

/-- Finish command c with DONE after writing its result to its staging buffer (R289). -/
def State.finishStaged (s : State) (c : Cmd) (bs : List Byte) : State :=
  (s.setBytes (stagingBase c.m) bs).finish c .done bs.length

/-! ## Writes by field type (R8) -/

/-- The word after a write of v to the word old, for one field: RW and RWL fields take the written bits, a written 1
clears an RW1C bit, and RO, RC and WO fields keep theirs. -/
def writeField (old v : Word) (acc : Word) (f : FieldD) : Word :=
  match f.kind with
  | .rw | .rwl => withBits acc f.hi f.lo (bitsOf v f.hi f.lo)
  | .rw1c => withBits acc f.hi f.lo (bitsOf (old &&& ~~~v) f.hi f.lo)
  | _ => acc

/-- Write v to register r, repetition (n, m), each field as its type says and nothing else. -/
def State.writePlain (s : State) (r : RegD) (v : Word) (n : Nat := 0) (m : Nat := 0) : State :=
  let old := s.word r n m
  s.setWord r (r.fields.foldl (writeField old v) old) n m

end Sys2Proof.Machine
end

