-- ==== Sys2Proof/Machine/Monitor.lean ====
section
/-! DEFINITION. Sys2Proof/Machine/Monitor.lean: the monitor ADC, its windows, the Fathom histograms and the performance
counters (R355 to R373). -/

namespace Sys2Proof.Machine

/-! ## Results and windows (R355, R360, R361) -/

/-- Inputs 45 to 58, the temperatures, are signed (R355). -/
def inputSigned (c : Nat) : Bool := 45 ≤ c && c ≤ 58

/-- A 16-bit value in the sign of input c. -/
def inputValue (c v : Nat) : Int := if inputSigned c then signed 16 v else Int.ofNat (v % 2 ^ 16)

/-- The result of a conversion (R355). -/
def convResult (c code gain : Nat) (offs : Int) : Int :=
  let v := roundHalfEven (code * gain) 256 + offs
  if inputSigned c then clamp (-32768) 32767 v else clamp 0 65535 v

/-- The zone of a value (R360): 0 IN, 1 LO_WRN, 2 HI_WRN, 3 LO_ALM, 4 HI_ALM; the first test that holds. -/
def zoneOf (loAlm loWrn hiWrn hiAlm v : Int) : Nat :=
  if v > hiAlm then 4 else if v < loAlm then 3 else if v > hiWrn then 2 else if v < loWrn then 1 else 0

/-- How far a zone is from IN. -/
def zoneDist (z : Nat) : Nat := (z + 1) / 2

/-- A zone of the high side. -/
def zoneHigh (z : Nat) : Bool := z % 2 = 0 && z ≠ 0

/-- The zone after an inward move, if value v allows one (R361): it must lie at least hyst inside each threshold it
crosses. DEDUCED, log 93. -/
def zoneInward (loAlm loWrn hiWrn hiAlm hyst : Int) (z : Nat) (v : Int) : Nat :=
  if zoneHigh z then
    if v ≤ hiWrn - hyst && (z = 2 || v ≤ hiAlm - hyst) then 0
    else if z = 4 && v ≤ hiAlm - hyst then 2 else z
  else
    if v ≥ loWrn + hyst && (z = 1 || v ≥ loAlm + hyst) then 0
    else if z = 3 && v ≥ loAlm + hyst then 1 else z

/-- FLAGS bits that an outward move to zone z latches (R361). -/
def zoneFlags (z : Nat) : Nat := match z with | 1 => 1 | 2 => 2 | 3 => 5 | 4 => 10 | _ => 0

/-- Window w moves outward to zone z on value v (R361, R372). -/
def windowOutward (w z : Nat) (v : Int) (s : State) : State :=
  let s := s.put F.MON_WIN_STAT_ZONE z w
  let s := s.put F.MON_WIN_STAT_FLAGS (s.get F.MON_WIN_STAT_FLAGS w ||| zoneFlags z) w
  let s := (s.put F.MON_WIN_STAT_CHG 1 w).addSat F.MON_WIN_STAT_COUNT 1 w
  let s := s.perf 0xFB
  if s.flag F.MON_WIN_CFG_IRQ_EN w && s.monEvt 0 then s.post 0x54 0xF (w + z * 256 + unsigned 16 v * 65536) else s

/-- Window w compares value v of its input c (R360, R361). -/
def windowEval (c : Nat) (v : Int) (s : State) (w : Nat) : State :=
  if !s.flag F.MON_WIN_CFG_EN w then s
  else
    let th := fun f => inputValue c (s.get f w)
    let la := th F.MON_WIN_LO_LO_ALM
    let lw := th F.MON_WIN_LO_LO_WRN
    let hw := th F.MON_WIN_HI_HI_WRN
    let ha := th F.MON_WIN_HI_HI_ALM
    let z := zoneOf la lw hw ha v
    let cur := s.get F.MON_WIN_STAT_ZONE w
    let cur' := if cur = 0 then 0
      else if z = cur || (zoneHigh z = zoneHigh cur && zoneDist z > zoneDist cur) then cur
      else zoneInward la lw hw ha (s.get F.MON_WIN_CFG_HYST w) cur v
    let s := s.put F.MON_WIN_STAT_ZONE cur' w
    let (lz, ln) := Bank.get s.mon.runs w (0, 0)
    let run := if z = lz then ln + 1 else 1
    let s := s.modMon fun m => { m with runs := Bank.put m.runs w (z, run) (0, 0) }
    let outward := zoneDist z > zoneDist cur' && (cur' = 0 || zoneHigh z = zoneHigh cur')
    if outward && run ≥ max 1 (s.get F.MON_WIN_CFG_PERSIST w) then windowOutward w z v s else s

/-- The windows bound to input c: its own, and those of 64 to 79 that name it (R360). -/
def windowsOf (c : Nat) (s : State) : List Nat :=
  c :: ((List.range 16).map (· + 64)).filter fun w => s.get F.MON_WIN_CFG_INPUT w = c

/-- A conversion of input c gives the raw code: the result registers and windows follow (R355). -/
def convDone (c code gain : Nat) (offs : Int) (s : State) : State :=
  let v := convResult c code gain offs
  let s := ((s.put F.MON_IN_RES_VALID 1 c).put F.MON_IN_RES_CODE code c).put F.MON_IN_RES_VALUE (unsigned 16 v) c
  let s := s.perf 0xF8
  let s := (windowsOf c s).foldl (windowEval c v) s
  fathomOffer 5 (fun f => bitsOf f 5 0 = c) v s

/-! ## Conversion scheduling (R357, R358) -/

/-- Start a conversion of input c with the calibration as it stands (R356). -/
def convStart (c : Nat) (urgent : Bool) (s : State) : State :=
  s.modMon fun m => { m with conv := some { input := c, urgent := urgent, gain := s.get F.MON_IN_CAL_GAIN c,
                                            offs := s.geti F.MON_IN_CAL_OFFS c } }

/-- The inputs of one sequencer round, in slot order (R357). -/
def seqSlots (s : State) : List Nat :=
  (List.range (max 1 (min 64 (s.get F.MON_ADC_SEQ_LEN)))).map fun i =>
    (s.word R.MON_SEQ_LIST (i / 4)).toNat / 2 ^ (8 * (i % 4)) % 64

/-- With the converter free and the reference ready, start the next conversion: urgent, then due triggered ones, then
the sequencer (R357); none in ANCHOR (R359). -/
def convNext (s : State) : State :=
  if s.mon.conv.isSome || !s.flag F.MON_ADC_CTRL_REF_RDY || s.inAnchor then s
  else match s.mon.urgent with
    | some c => convStart c true (s.modMon fun m => { m with urgent := none })
    | none => match s.mon.triggered.find? fun t => t.2 with
      | some t => convStart t.1 false (s.modMon fun m => { m with triggered := m.triggered.erase t })
      | none => match s.mon.slots with
        | c :: rest => convStart c false (s.modMon fun m => { m with slots := rest })
        | [] => if s.mon.roundLate then
            match seqSlots s with
            | c :: rest => convStart c false (s.modMon fun m => { m with slots := rest, roundLate := false })
            | [] => s
          else s

/-- What a write of MON_ADC_URG does beyond storing CH (R357): a GO is ignored while BUSY. -/
def adcUrgWrite (v : Word) (s : State) : State :=
  if bitsOf v 8 8 = 1 && !s.flag F.MON_ADC_URGRES_BUSY then
    let s := (s.put F.MON_ADC_URGRES_BUSY 1).put F.MON_ADC_URGRES_VALID 0
    convNext (s.modMon fun m => { m with urgent := some (s.get F.MON_ADC_URG_CH) })
  else s

/-- What a write of MON_ADC_CTRL does beyond its fields: REF_RDY falls with REF_EN (R358). -/
def adcCtrlWrite (s : State) : State :=
  if s.flag F.MON_ADC_CTRL_REF_EN then s else s.put F.MON_ADC_CTRL_REF_RDY 0

/-- A trigger is dropped (R357, R372). -/
def triggerDrop (c : Nat) (s : State) : State :=
  let first := !s.flag F.MON_IRQ_STAT_MISSED
  let s := ((s.addSat F.MON_ADC_STAT_MISSED 1).perf 0xF9).put F.MON_IRQ_STAT_MISSED 1
  if first && s.monEvt 4 then s.post 0x58 0xF c else s

/-- Input c converts on events of kind k of output channel ch (R357). -/
def triggeredBy (s : State) (ch k c : Nat) : Bool :=
  s.get F.MON_IN_CFG_TRIG c = k && s.get F.MON_IN_CFG_TSRC c = ch

/-- One event of a trigger of input c: one conversion in every EVERY (R357). -/
def triggerEvent (s : State) (c : Nat) : State :=
  let seen := Bank.get s.mon.every c 0 + 1
  if seen < max 1 (s.get F.MON_IN_CFG_EVERY c) then
    s.modMon fun m => { m with every := Bank.put m.every c seen 0 }
  else
    let s := s.modMon fun m => { m with every := Bank.put m.every c 0 0 }
    if !s.flag F.MON_ADC_CTRL_REF_RDY || s.mon.triggered.length ≥ 8 then triggerDrop c s
    else s.modMon fun m => { m with triggered := m.triggered ++ [(c, false)] }

/-- TRIGGERED_CONVERSION_REQUEST: an event of kind k (1 rising, 2 falling heater edge, 3 playback tick) on output
channel ch. -/
def execTriggeredConversionRequest (ch : Fin 45) (kind : Fin 3) (s : State) : Host.Outcome State Fault Refusal :=
  .next (((List.range 64).filter (triggeredBy s ch (kind.val + 1))).foldl triggerEvent s)

/-- TRIGGERED_CONVERSION_DUE: the waiting conversion of input c becomes due. -/
def execTriggeredConversionDue (c : Fin 64) (s : State) : Host.Outcome State Fault Refusal :=
  if (c.val, false) ∈ s.mon.triggered then
    .next (convNext (s.modMon fun m =>
      { m with triggered := m.triggered.erase (c.val, false) ++ [(c.val, true)] }))
  else .next s

/-- SEQUENCER_ROUND: every PERIOD µs, while SEQ_EN; a round that cannot start on time counts OVERRUN. -/
def execSequencerRound (s : State) : Host.Outcome State Fault Refusal :=
  if !s.flag F.MON_ADC_CTRL_SEQ_EN || !s.flag F.MON_ADC_CTRL_REF_RDY then .next s
  else if s.mon.slots = [] && !s.mon.roundLate then .next (convNext (s.modMon fun m => { m with slots := seqSlots s }))
  else .next ((s.addSat F.MON_ADC_STAT_OVERRUN 1).modMon fun m => { m with roundLate := true })

/-- ADC_CONVERSION_END: the running conversion ends with this raw code. DESIGN CHOICE, log 6. -/
def execAdcConversionEnd (code : BitVec 12) (s : State) : Host.Outcome State Fault Refusal :=
  match s.mon.conv with
  | none => .next s
  | some cv =>
    let s := convDone cv.input code.toNat cv.gain cv.offs (s.modMon fun m => { m with conv := none })
    let s := if cv.urgent then
        ((s.put F.MON_ADC_URGRES_BUSY 0).put F.MON_ADC_URGRES_VALID 1).put F.MON_ADC_URGRES_RESULT
          (unsigned 16 (convResult cv.input code.toNat cv.gain cv.offs))
      else s
    .next (convNext s)

/-- REFERENCE_READY: 200 µs after REF_EN rose; at boot Cleat then sets SEQ_EN. -/
def execReferenceReady (s : State) : Host.Outcome State Fault Refusal :=
  if s.flag F.MON_ADC_CTRL_REF_EN && !s.flag F.MON_ADC_CTRL_REF_RDY then
    let s := s.put F.MON_ADC_CTRL_REF_RDY 1
    let s := if s.mon.bootSeq then (s.put F.MON_ADC_CTRL_SEQ_EN 1).modMon fun m => { m with bootSeq := false } else s
    .next (convNext s)
  else .next s

/-- ANCHOR_MONITOR_ROUND: in ANCHOR the inputs marked ANCHOR convert, in order of input; codes are their raw codes.
REF_EN, raised before the round, is low again after it (R359). -/
def execAnchorMonitorRound (codes : List (BitVec 12)) (s : State) : Host.Outcome State Fault Refusal :=
  if s.inAnchor then
    let ins := (List.range 64).filter fun c => s.flag F.MON_IN_CFG_ANCHOR c
    .next ((ins.zip codes).foldl (fun s p =>
      convDone p.1 p.2.toNat (s.get F.MON_IN_CAL_GAIN p.1) (s.geti F.MON_IN_CAL_OFFS p.1) s) s)
  else .next s

/-! ## Fathom: control and snapshots (R365, R366) -/

/-- Instance i stops counting, without a snapshot (R365). -/
def fathomStop (i : Fin 32) (s : State) : State := s.put F.MON_FTH_CFG_RUN 0 i

/-- Instance i clears its active set and counts (R365). -/
def fathomStart (i : Fin 32) (s : State) : State :=
  let s := s.modFathom i fun f => { f with active := {}, satPosted := false, startRaw := s.tim.raw }
  (s.put F.MON_FTH_STAT_SAT_ACT 0 i).put F.MON_FTH_CFG_RUN 1 i

/-- What a write of a configuration word of instance i does beyond its fields: it stops a running instance, and the
START bit of MON_FTHi_CFG starts it (R365). -/
def fathomWrite (i : Fin 32) (isCfg : Bool) (v : Word) (s : State) : State :=
  let s := fathomStop i s
  if isCfg && bitsOf v 0 0 = 1 then fathomStart i s else s

/-- Request a snapshot of instance i (R366). -/
def fathomRequest (i : Fin 32) (s : State) : State :=
  (s.modFathom i fun f => { f with req := true }).put F.MON_FTH_STAT_SNAP_PEND 1 i

/-- The value of a sample that source 0x01, 0x02 or 0x03 makes: z or y, which comes in 1/1,024, in 1/32 rounded half-even,
and the ADC code as it is, in 8 bits (R364). -/
def symbolValue (src : Nat) (v : Int) : Int := clamp (-128) 127 (if src = 2 then v else roundHalfEven v 32)

/-- FATHOM_SAMPLE: instance i is offered a symbol of source 0x01 to 0x03, with its decided level and that of the symbol
before, both of which FILT must pass. The records of the other sources come with the command that makes them.
DEDUCED, log 95. -/
def execFathomSample (i : Fin 32) (y : SymbolSample) (excess : Bool) (s : State) : Host.Outcome State Fault Refusal :=
  let src := s.get F.MON_FTH_CFG_SOURCE i
  let filt := s.word R.MON_FTH_FILT i
  if 1 ≤ src && src ≤ 3 && filt.getLsbD (4 + y.level.toNat) && filt.getLsbD (8 + y.prev.toNat) then
    .next (fathomSample i (symbolValue src y.value.toInt) excess s)
  else .next s

/-- A WINDOW capture has run for LIMIT µs of RAW time, or a COUNT capture counted LIMIT samples (R365). -/
def fathomEnded (s : State) (i : Fin 32) : Bool :=
  (s.get F.MON_FTH_CFG_MODE i = 1
      && (s.tim.raw - s.mon.fathom[i].startRaw).toNat ≥ 1000 * max 1 (s.get F.MON_FTH_LIM_VALUE i))
    || fathomFull s i

/-- Instance i stops with DONE and requests its snapshot; the end is reported (R365). -/
def fathomEnd (i : Fin 32) (s : State) : State :=
  let s := fathomRequest i (fathomStop i s)
  let s := (s.put F.MON_FTH_STAT_DONE 1 i).put F.MON_IRQ_STAT_FTH_DONE 1
  if s.monEvt 1 then s.post 0x55 0xF (i + s.get F.MON_FTH_STAT_SEQ i * 65536) else s

/-- FATHOM_CAPTURE_END. -/
def execFathomCaptureEnd (i : Fin 32) (s : State) : Host.Outcome State Fault Refusal :=
  if s.flag F.MON_FTH_CFG_RUN i && fathomEnded s i then .next (fathomEnd i s) else .next s

/-- The active set becomes the snapshot, and an empty set, or with ACCUM the same counts, becomes active (R366). -/
def fathomSwap (i : Fin 32) (s : State) : State :=
  let keep := s.flag F.MON_FTH_CFG_ACCUM i
  let s := s.modFathom i fun f => { f with snap := f.active, active := if keep then f.active else {}, req := false,
                                            writing := true }
  s.putB F.MON_FTH_STAT_SAT_ACT s.mon.fathom[i].active.sat i

/-- FATHOM_SNAPSHOT_SWAP: the requested snapshot is taken; it waits while the previous one is being written (R366). -/
def execFathomSnapshotSwap (i : Fin 32) (s : State) : Host.Outcome State Fault Refusal :=
  if s.mon.fathom[i].req && !s.mon.fathom[i].writing then .next (fathomSwap i s) else .next s

/-- The snapshot layout of R366. DEDUCED, log 94. -/
def fathomLayout (b : Bins) (seq : Nat) : List Byte :=
  ((List.range 256).map fun k => leBytes 4 (Bank.get b.bins k 0)).flatten
    ++ leBytes 4 (unsigned 32 b.low) ++ leBytes 4 (unsigned 32 b.high) ++ leBytes 4 (b.count % 2 ^ 32)
    ++ leBytes 4 (b.count / 2 ^ 32 + seq * 65536)
    ++ leBytes 4 (1 + b.sat.toNat * 2 + (if b.count = 0 then 4 else 0))

/-- The snapshot set of instance i stands in SRAM under the next number (R366). -/
def fathomWritten (i : Fin 32) (s : State) : State :=
  let seq := (s.get F.MON_FTH_STAT_SEQ i + 1) % 65536
  let s := s.setBytes (0x81B00000 + i * 0x800) (fathomLayout s.mon.fathom[i].snap seq)
  let s := (s.put F.MON_FTH_STAT_SEQ seq i).put F.MON_FTH_STAT_VALID 1 i
  let s := s.modFathom i fun f => { f with writing := false }
  s.putB F.MON_FTH_STAT_SNAP_PEND s.mon.fathom[i].req i

/-- The commands that wait for snapshots wait for instance i no more; those that waited for it last complete (R373). -/
def fathomAnswer (i : Fin 32) (s : State) : State :=
  let s := s.mapWaits fun w => match w with
    | .fathom left low => .fathom (left.erase i.val) low
    | w => w
  (s.mbx.outstanding.filterMap fun c => match c.stage with
    | .executing (.fathom [] low) => some (c, low)
    | _ => none).foldl (fun s p => s.finish p.1 .done (s.get F.MON_FTH_STAT_SEQ p.2)) s

/-- FATHOM_WRITEOUT_DONE: the snapshot set stands in SRAM, and the commands that waited for the last of their
instances complete (R366, R373). -/
def execFathomWriteoutDone (i : Fin 32) (s : State) : Host.Outcome State Fault Refusal :=
  if s.mon.fathom[i].writing then .next (fathomAnswer i (fathomWritten i s)) else .next s

/-! ## Commands 0x50 to 0x53 (R373) -/

/-- Instance i stops and takes the configuration of MON_CONFIG command c (R373). -/
def monConfigured (c : Cmd) (i : Fin 32) (s : State) : State :=
  let s := fathomStop i s
  let s := (((s.writePlain R.MON_FTH_CFG (c.word 3) i).writePlain R.MON_FTH_FILT (c.word 4) i).writePlain
    R.MON_FTH_BIN (c.word 5) i)
  (s.writePlain R.MON_FTH_BASE (c.word 6) i).writePlain R.MON_FTH_LIM (c.word 7) i

/-- MON_CONFIG. -/
def execMonConfig (m : MBox) (s : State) : Host.Outcome State Fault Refusal :=
  .next (runCmd 0x50 m (fun c s =>
    let i : Fin 32 := Fin.ofNat 32 (c.bits 2 4 0)
    let s := monConfigured c i s
    let s := if c.bits 2 8 8 = 1 then fathomStart i s else s
    s.finish c .done) s)

/-- The instances of a mask, lowest first. -/
def maskBits (k v : Nat) : List Nat := (List.range k).filter fun i => v / 2 ^ i % 2 = 1

/-- MON_SNAPSHOT: refused if a named instance has no source; else it waits until every snapshot is in SRAM. The spec
names no result for an empty mask: a free value. DESIGN CHOICE, log 96. -/
def execMonSnapshot (m : MBox) (s : State) : Host.Outcome State Fault Refusal :=
  .next (runCmd 0x51 m (fun c s =>
    let is := maskBits 32 (c.word 2).toNat
    if is.any fun i => !fathomLive s i then s.finish c .conflict
    else match is with
      | [] => let (v, s) := s.free 1
              s.finish c .done v.toNat
      | low :: _ =>
        let s := is.foldl (fun s i => fathomRequest (Fin.ofNat 32 i) s) s
        s.await c (.fathom is low)) s)

/-- A write of MON_WINw_CFG: windows 0 to 63 keep their input, which is RO there (R360). -/
def monWinCfgWrite (w : Nat) (v : Word) (s : State) : State :=
  s.writePlain R.MON_WIN_CFG (if w < 64 then withBits v 21 16 w else v) w

/-- Window w gets the thresholds and the configuration of command c. -/
def windowSet (c : Cmd) (w : Nat) (s : State) : State :=
  monWinCfgWrite w (c.word 5) ((s.writePlain R.MON_WIN_LO (c.word 3) w).writePlain R.MON_WIN_HI (c.word 4) w)

/-- MON_SET_WINDOW: the RWL policy of R362 lets Cleat change every window's thresholds and Rigger those from 9 on;
R473 judges only a change. -/
def execMonSetWindow (m : MBox) (s : State) : Host.Outcome State Fault Refusal :=
  .next (runCmd 0x52 m (fun c s =>
    let w := c.bits 2 6 0
    if w > 79 then s.finish c .badLength
    else
      let changes := s.word R.MON_WIN_LO w ≠ c.word 3 || s.word R.MON_WIN_HI w ≠ c.word 4
      let allowed := c.ident = 3 || (c.ident = 4 && w ≥ 9)
      if changes && !allowed then s.finish c .denied else (windowSet c w s).finish c .done) s)

/-- Sampler k is armed: its count starts from the watched counter as it stands (R371). DEDUCED, log 97. -/
def samplerArm (k : Fin 4) (s : State) : State :=
  let base := Bank.get s.mon.counters (s.get F.PMU_SAMP_CFG_COUNTER k) 0
  s.modMon fun m => { m with samplerBase := m.samplerBase.set k base }

/-- PERF_CONFIG with one of its actions; action 3 completes with BAD_OPCODE whichever row runs it. -/
def perfConfig (action : Nat) (f : Cmd → State → State) (m : MBox) (s : State) : Host.Outcome State Fault Refusal :=
  .next (runCmd 0x53 m (fun c s =>
    if c.bits 2 1 0 = 3 then s.finish c .badOpcode
    else if c.bits 2 1 0 = action then (f c s).finish c .done else s) s)

/-- PERF_CONFIG_CHAIN. -/
def execPerfConfigChain (m : MBox) (s : State) : Host.Outcome State Fault Refusal :=
  perfConfig 0 (fun c s => (List.range 8).foldl (fun s q => s.writePlain R.PMU_CHAIN (c.word (3 + q)) q) s) m s

/-- PERF_CONFIG_SAMPLER. -/
def execPerfConfigSampler (m : MBox) (s : State) : Host.Outcome State Fault Refusal :=
  perfConfig 1 (fun c s =>
    let k : Fin 4 := Fin.ofNat 4 (c.bits 2 9 8)
    samplerArm k ((s.writePlain R.PMU_SAMP_CFG (c.word 3) k).writePlain R.PMU_SAMP_PER (c.word 4) k)) m s

/-- PERF_CONFIG_CLEAR_OVF. -/
def execPerfConfigClearOvf (m : MBox) (s : State) : Host.Outcome State Fault Refusal :=
  perfConfig 2 (fun c s => (List.range 8).foldl (fun s q => s.writePlain R.PMU_OVF (c.word (3 + q)) q) s) m s

/-- What a write of PMU_CTRL does beyond VIEW: TAKE copies all counters in one cycle (R369). -/
def pmuCtrlWrite (v : Word) (s : State) : State :=
  if bitsOf v 0 0 = 1 then s.modMon fun m => { m with copy := m.counters } else s

/-- The count a read of counter j shows: live, or the copy while VIEW is 1 (R369). -/
def pmuRead (s : State) (j : Nat) : BitVec 48 :=
  Bank.get (if s.flag F.PMU_CTRL_VIEW then s.mon.copy else s.mon.counters) j 0

/-- Sampler k is on and its counter has advanced by PER since it was armed (R371). -/
def samplerDue (s : State) (k : Fin 4) : Bool :=
  s.flag F.PMU_SAMP_CFG_EN k
    && (Bank.get s.mon.counters (s.get F.PMU_SAMP_CFG_COUNTER k) 0 - s.mon.samplerBase[k]).toNat
      ≥ max 1 (s.get F.PMU_SAMP_PER_VALUE k)

/-- SAMPLER_CROSSING: pc is the program counter of the first instruction that the sampler's core has not retired; a
sample not yet read keeps its place (R371). -/
def execSamplerCrossing (k : Fin 4) (pc : BitVec 64) (s : State) : Host.Outcome State Fault Refusal :=
  if samplerDue s k then
    let s := if s.flag F.PMU_SAMP_CFG_PEND k then s.put F.PMU_SAMP_CFG_LOST 1 k
      else ((s.put F.PMU_SAMP_PC_LO_VALUE (pc.toNat % 2 ^ 32) k).put F.PMU_SAMP_PC_HI_VALUE (pc.toNat / 2 ^ 32) k).put
        F.PMU_SAMP_CFG_PEND 1 k
    .next (samplerArm k s)
  else .next s

end Sys2Proof.Machine
end

