-- ==== Sys2Proof/Machine/Time.lean ====
section
/-! DEFINITION. Sys2Proof/Machine/Time.lean: Logline's counters, time of day, stamps, queues and commands (R229 to R248).
Times of day are integers in units of 1/65,536 ns, modulo 2^48 seconds. -/

namespace Sys2Proof.Machine

/-- One second, and the modulus of 2^48 seconds, in units of 1/65,536 ns. -/
def secU : Int := 65536000000000
def todMod : Int := 2 ^ 48 * secU

/-- Update the time record. -/
def State.modTim (s : State) (f : Tim → Tim) : State := { s with tim := f s.tim }

/-- The signed difference of two RAW values (R230): positive when a is later. -/
def rawDiff (a b : BitVec 48) : Int := (Int.ofNat a.toNat - Int.ofNat b.toNat + 2 ^ 47) % 2 ^ 48 - 2 ^ 47

/-- RATE in force: 40 bits, 32 of them fractional nanoseconds per tick (R231). -/
def State.rate (s : State) : Nat := s.get F.TIM_RATE_HI_RATE * 2 ^ 32 + s.get F.TIM_RATE_LO_RATE

/-- Put a rate in force. -/
def State.setRate (s : State) (r : Nat) : State :=
  (s.put F.TIM_RATE_HI_RATE (r / 2 ^ 32)).put F.TIM_RATE_LO_RATE (r % 2 ^ 32)

/-- The time of day at RAW (R231): OFFSET + RAW × RATE, rounded half-even, modulo 2^48 seconds. -/
def State.tod (s : State) : Int :=
  (roundHalfEven (s.tim.offset * 65536 + Int.ofNat (s.tim.raw.toNat * s.rate)) 65536) % todMod

/-- The time quality flags TIME_COARSE and TIME_INVALID. -/
def State.coarse (s : State) : Bool := s.flag F.TIM_STAT_TIME_COARSE
def State.timeInvalid (s : State) : Bool := s.flag F.TIM_STAT_TIME_INVALID

/-- Words W1 to W3 of R243 for a time of day. -/
def todWords (t : Int) : List Word :=
  let t := t % todMod
  let sec := (t / secU).toNat
  let sub := (t % secU).toNat
  [BitVec.ofNat 32 (sec % 2 ^ 32), BitVec.ofNat 32 (sub % 65536 * 65536 + sec / 2 ^ 32), BitVec.ofNat 32 (sub / 65536)]

/-- The time of day given by seconds, nanoseconds and 1/65,536 ns. -/
def todOf (sec ns frac : Nat) : Int := Int.ofNat sec * secU + Int.ofNat (ns * 65536 + frac)

/-- A rate that R233 accepts: 0.999 to 1.001. -/
def rateOk (r : Nat) : Bool := 999 * 2 ^ 32 ≤ r * 1000 && r * 1000 ≤ 1001 * 2 ^ 32

/-- The RAW value at which ToD first reaches t (R238); RAW itself for a time that has come. DEDUCED, log 57. -/
def State.rawTarget (s : State) (t : Int) : BitVec 48 :=
  let ahead := t - s.tod
  if ahead ≤ 0 then s.tim.raw
  else
    let num := (t - s.tim.offset) * 65536
    s.tim.raw + BitVec.ofInt 48 ((num + (Int.ofNat s.rate - 1)) / Int.ofNat s.rate - Int.ofNat s.tim.raw.toNat)

/-- t lies more than 39 h ahead (R238). -/
def State.tooFar (s : State) (t : Int) : Bool := decide (t - s.tod > 140400 * secU)

/-- Convert every scheduled target again, as each apply does (R238). -/
def State.retarget (s : State) : State :=
  let s := s.modTim fun t => { t with pend := t.pend.map fun p =>
    { p with target := p.target.map fun g => (g.1, s.rawTarget g.1) } }
  { s with knt := { s.knt with slots := s.knt.slots.map fun k =>
      { k with target := k.target.map fun g => (g.1, s.rawTarget g.1) } } }

/-- After a step or set, PPS_OUT marks the next whole second of the new time (R247). -/
def State.ppsRealign (s : State) (before : Int) : State :=
  if s.tod < before then s.modTim fun t => { t with ppsSec := (s.tod + s.geti F.TIM_PPSO_COMP_COMP) / secU } else s

/-- Apply a change of the clock at this tick, in the order rate, step, set (R233). -/
def State.applyTime (s : State) (a : TimeApply) : State :=
  let before := s.tod
  let r := Int.ofNat s.tim.raw.toNat
  let s := match a.rate with
    | none => s
    | some new =>
      let d := roundHalfEven (r * (Int.ofNat s.rate - Int.ofNat new)) 65536
      (s.modTim fun t => { t with offset := (t.offset + d) % todMod }).setRate new
  let s := match a.step with
    | none => s
    | some k => s.modTim fun t => { t with offset := (t.offset + k) % todMod }
  let s := match a.set with
    | none => s
    | some g => s.modTim fun t =>
        { t with offset := (g - roundHalfEven (r * Int.ofNat s.rate) 65536) % todMod }
  (s.ppsRealign before).retarget

/-- Clear TIME_COARSE and zero TIM_UNCERT (R237). -/
def State.clearCoarse (s : State) : State := (s.put F.TIM_STAT_TIME_COARSE 0).put F.TIM_UNCERT_VALUE 0

/-- Apply a change now, or hold it while RAW is stopped (R233); the command that asked, if any, completes at the tick
of application with RAW [31:0] as its result (R248). A set clears both flags. DESIGN CHOICE, log 56. -/
def State.requestTime (s : State) (a : TimeApply) (clear : Bool) (cmd : Option Cmd) : State :=
  if s.tim.running then
    let s := s.applyTime a
    let s := if clear || a.set.isSome then s.clearCoarse else s
    let s := if a.set.isSome then s.put F.TIM_STAT_TIME_INVALID 0 else s
    match cmd with
    | none => s
    | some c => s.finish c .done (s.tim.raw.toNat % 2 ^ 32)
  else
    let s := s.modTim fun t => { t with held := t.held ++ [(a, clear, cmd.map fun c => c.id)] }
    match cmd with
    | none => s
    | some c => s.await c .time

/-- Apply everything held, once RAW runs again (R233). -/
def State.releaseHeld (s : State) : State :=
  let h := s.tim.held
  h.foldl (fun s p => s.requestTime p.1 p.2.1 (p.2.2.bind s.cmdById)) (s.modTim fun t => { t with held := [] })

/-- What a write of TIM_ADJ_CTRL does (R233, R237). -/
def timAdjWrite (v : Word) (s : State) : State :=
  let new := s.get F.TIM_RATE_NEW_HI_RATE * 2 ^ 32 + s.get F.TIM_RATE_NEW_LO_RATE
  let step := signed 64 (s.get F.TIM_STEP_HI_STEP * 2 ^ 32 + s.get F.TIM_STEP_LO_STEP)
  let wantRate := bitsOf v 0 0 = 1
  let s := if wantRate && !rateOk new then s.put F.TIM_STAT_RATE_REJ 1 else s
  let a : TimeApply := { rate := if wantRate && rateOk new then some new else none,
                         step := if bitsOf v 1 1 = 1 then some step else none }
  let s := if a.rate.isSome || a.step.isSome then s.requestTime a false none else s
  if bitsOf v 2 2 = 1 then s.clearCoarse else s

/-! ## Ticks and wraps (R229, R232, R235) -/

/-- RAW goes on by k ticks; OFFSET gains 2^48 × RATE at each wrap (R232). -/
def State.advanceRaw (s : State) (k : Nat) : State :=
  let sum := s.tim.raw.toNat + k
  s.modTim fun t => { t with raw := BitVec.ofNat 48 sum,
                             offset := (t.offset + Int.ofNat (sum / 2 ^ 48) * (2 ^ 32 * Int.ofNat s.rate)) % todMod }

/-- One edge of the always-on clock: AON counts, and a wrap waits for Cleat to record it, at once while awake
(R235). DEDUCED, log 59. -/
def State.aonEdge (s : State) : State :=
  let s := s.perf 2
  let wrap := s.tim.aon = BitVec.allOnes 40
  let s := s.modTim fun t => { t with aon := t.aon + 1 }
  if !wrap then s
  else if s.inAnchor then s.modTim fun t => { t with aonWraps := t.aonWraps + 1 }
  else s.incWrap F.TIM_AON_HI_EXT

/-- The time spent in the present power state gains k ns (R392). -/
def State.account (s : State) (k : Nat) : State :=
  match s.get F.PWR_STATE_STATE with
  | 1 => { s with pwr := { s.pwr with nsAnchor := s.pwr.nsAnchor + k } }
  | 2 => { s with pwr := { s.pwr with nsKeep := s.pwr.nsKeep + k } }
  | _ => { s with pwr := { s.pwr with nsActive := s.pwr.nsActive + k } }

/-- One tick of time, on which an empty queue spends its step: 1 ns of RAW while it runs, with an always-on clock edge
every 100 ns, and in ANCHOR one always-on clock period. The counters of the core and management clocks count with it
(R368): 3 GHz and 1 GHz. -/
def State.tick (s : State) : State :=
  if s.tim.running then
    let s := (s.advanceRaw 1).account 1
    let s := if s.flag F.PWR_CLK_STAT_CORE_LOCK then s.perf 0 3 else s
    let s := s.perf 1
    if s.tim.aonPhase + 1 ≥ 100 then (s.modTim fun t => { t with aonPhase := 0 }).aonEdge
    else s.modTim fun t => { t with aonPhase := t.aonPhase + 1 }
  else if s.inAnchor then (s.account 100).aonEdge
  else s

/-- RAW_WRAP: RAW stands at its last value and counts on. -/
def execRawWrap (s : State) : Host.Outcome State Fault Refusal :=
  if s.tim.running && s.tim.raw = BitVec.allOnes 48 then .next s.tick else .next s

/-- CLEAT_AON_WAKE: in ANCHOR Cleat records the wraps of AON in EXT. -/
def execCleatAonWake (s : State) : Host.Outcome State Fault Refusal :=
  if s.inAnchor then
    let k := s.tim.aonWraps
    .next ((s.put F.TIM_AON_HI_EXT (s.get F.TIM_AON_HI_EXT + k)).modTim fun t => { t with aonWraps := 0 })
  else .next s

/-- The extended AON count of 64 bits (R235). -/
def State.aonExt (s : State) : Nat := (s.get F.TIM_AON_HI_EXT + s.tim.aonWraps) * 2 ^ 40 + s.tim.aon.toNat

/-- PPS_OUT may go active (R247). -/
def ppsAllowed (s : State) : Bool :=
  s.flag F.TIM_PPSO_CTRL_EN && !s.inAnchor && (!s.timeInvalid || s.flag F.TIM_PPSO_CTRL_FORCE)

/-- A pulse of PPS_OUT ends at once where the output may not drive. -/
def ppsGate (s : State) : State := if ppsAllowed s then s else s.modTim fun t => { t with ppsOut := false }

/-- TIME_INVALID is set. -/
def State.invalidate (s : State) : State := ppsGate (s.put F.TIM_STAT_TIME_INVALID 1)

/-- RAW stops on the way into ANCHOR (R235, step 1). -/
def State.rawStop (s : State) : State :=
  s.modTim fun t => { t with running := false, rawE := t.raw, aE := s.aonExt, srcChanged := false, ppsOut := false }

/-- RAW restarts on the way out of ANCHOR (R235, steps 2 to 6, and R236), and everything held then applies. -/
def State.rawRestart (s : State) : State :=
  let d := s.aonExt - s.tim.aE
  let s := (s.modTim fun t => { t with raw := t.rawE }).advanceRaw (100 * d)
  let s := s.modTim fun t => { t with running := true, aonPhase := 0 }
  let s := s.put F.TIM_STAT_TIME_COARSE 1
  -- 100 ns per always-on period asleep; 50 ppm of that, rounded up, plus 100 ns
  let s := s.addSat F.TIM_UNCERT_VALUE (100 + (100 * d * 50 + 999999) / 1000000)
  let s := (s.put F.TIM_SLEEP_VALUE (min (d / 10000) (2 ^ 32 - 1))).incWrap F.TIM_STAT_SLEEPS
  let s := s.postBare 0x61
  let s := if s.tim.srcChanged then s.invalidate.postBare 0x62 else s
  s.releaseHeld

/-! ## Stamps and queues (R239 to R244) -/

/-- The stamp of a boundary of lane n at this tick, with its sequence number. -/
def State.stamp (s : State) (tx : Bool) (n seq : Nat) (seqValid : Bool) : Stamp :=
  { coarse := s.coarse, invalid := s.timeInvalid, seqValid := seqValid && !tx, lane := n, seq := seq,
    tod := (if tx then s.tod + s.geti F.TIM_TXCOMP_COMP n else s.tod - s.geti F.TIM_RXCOMP_COMP n) % todMod }

/-- A stamp is offered to its queue (R242, R244): index 0 is the TX queue, 1 the RX queue. -/
def State.queueStamp (s : State) (tx : Bool) (st : Stamp) : State :=
  let k := if tx then 0 else 1
  let dec := min 12 (s.get F.TIM_TSQ_CFG_DEC_LOG k)
  if s.get F.TIM_TSQ_CFG_LANES k / 2 ^ st.lane % 2 = 1 && st.seq % 2 ^ dec = 0 then
    let q := if tx then s.tim.txq else s.tim.rxq
    if q.length < 64 then
      (s.modTim fun t => if tx then { t with txq := q ++ [st] } else { t with rxq := q ++ [st] }).perf 0xFC
    else
      let first := !s.flag F.TIM_TSQ_STAT_OVF k
      let s := ((s.put F.TIM_TSQ_STAT_OVF 1 k).addSat F.TIM_TSQ_STAT_LOST 1 k).perf 0xFD
      if first then s.post 0x63 0xF k else s
  else s

/-- The words of a queue entry (R243). -/
def Stamp.words (st : Stamp) : List Word :=
  BitVec.ofNat 32 (2 ^ 31 + st.coarse.toNat * 2 ^ 30 + st.invalid.toNat * 2 ^ 29 + st.seqValid.toNat * 2 ^ 28
    + st.lane * 2 ^ 24 + st.seq % 4096) :: todWords st.tod

/-! ## Capture-on-read (R234, R243, R245, R246) -/

/-- The number of a requester, as in TOP_DECERR_STAT.REQ. -/
def reqNum : Req → Nat
  | .cleat => 0 | .rigger c => c.val + 1 | .host => 5 | .dma => 6 | .hawser => 7 | .jtag => 8

/-- Update the holding sets of requester q. -/
def State.modHold (s : State) (q : Req) (f : Holding → Holding) : State :=
  let i : Fin 9 := Fin.ofNat 9 (reqNum q)
  s.modTim fun t => { t with holding := t.holding.set i (f t.holding[i]) }

/-- The holding sets of requester q. -/
def State.hold (s : State) (q : Req) : Holding := s.tim.holding[Fin.ofNat 9 (reqNum q)]

/-- A read of TIM_SNAP_W0 captures the rest of the snapshot. -/
def snapRead (q : Req) (s : State) : Word × State :=
  let w4 := BitVec.ofNat 32 (s.coarse.toNat * 2 ^ 31 + s.timeInvalid.toNat * 2 ^ 30 + s.tim.raw.toNat / 2 ^ 32)
  (BitVec.ofNat 32 s.tim.raw.toNat, s.modHold q fun h => { h with snap := todWords s.tod ++ [w4] })

/-- A read of a queue's W0 pops its oldest stamp; an empty queue reads zero and zeroes the holding set. -/
def tsqRead (q : Req) (tx : Bool) (s : State) : Word × State :=
  let keep := fun (ws : List Word) (s : State) =>
    s.modHold q fun h => if tx then { h with txq := ws } else { h with rxq := ws }
  match (if tx then s.tim.txq else s.tim.rxq) with
  | [] => (0, keep [] s)
  | st :: rest =>
    (st.words.headD 0, keep st.words.tail
      (s.modTim fun t => if tx then { t with txq := rest } else { t with rxq := rest }))

/-- A read of TIM_AON_LO captures the high word. -/
def aonRead (q : Req) (s : State) : Word × State :=
  (BitVec.ofNat 32 s.tim.aon.toNat, s.modHold q fun h =>
    { h with aonHi := BitVec.ofNat 32 (s.get F.TIM_AON_HI_EXT * 256 + s.tim.aon.toNat / 2 ^ 32) })

/-- A read of TIM_TTn_STAT captures the lane's four value registers: delta then theta, low word first. -/
def twoWayRead (q : Req) (n : Line) (s : State) : Word × State :=
  let vals := fun (i : Int) => [BitVec.ofNat 32 (unsigned 48 i), BitVec.ofNat 32 (unsigned 48 i / 2 ^ 32)]
  let r := s.tim.twoWay[n]
  (s.word R.TIM_TT_STAT n, s.modHold q fun h =>
    { h with twoWay := Bank.put h.twoWay n (vals r.1 ++ vals r.2) [] })

/-- A read of TIM_PPSI_W0 returns the capture and clears VALID. -/
def ppsInRead (q : Req) (s : State) : Word × State :=
  (s.word R.TIM_PPSI_W0, (s.modHold q fun h => { h with pps := todWords s.tim.ppsTod }).put F.TIM_PPSI_W0_VALID 0)

/-! ## Two-way results (R245) -/

/-- A value saturated at 48 bits, and whether it was outside. -/
def sat48 (v : Int) : Int × Bool := (clamp (-(2 ^ 47)) (2 ^ 47 - 1) v, v < -(2 ^ 47) || v > 2 ^ 47 - 1)

/-- Logline takes a two-way result of lane n from the Lanyard: delta and theta are twice the values of R221, so that
the halves of R245 are taken once, rounded half-even. DEDUCED, log 58. -/
def State.twoWayResult (s : State) (n : Line) (delta2 theta2 : Int) (coarse : Bool) : State :=
  let asym := s.geti F.TIM_ASYM_COMP n
  let (th, o1) := sat48 (roundHalfEven (theta2 + asym) 2)
  let (de, o2) := sat48 (roundHalfEven (delta2 - asym) 2)
  let s := s.modTim fun t => { t with twoWay := t.twoWay.set n (de, th) }
  let s := (s.put F.TIM_TT_STAT_VALID 1 n).incWrap F.TIM_TT_STAT_COUNT n
  (s.putB F.TIM_TT_STAT_COARSE coarse n).putB F.TIM_TT_STAT_RANGE (o1 || o2) n

/-! ## PPS (R246, R247) -/

/-- The stamp of an input edge (R246). DESIGN CHOICE, log 55. -/
def ppsStamp (s : State) : State :=
  let s := s.putB F.TIM_PPSI_W0_OVR (s.flag F.TIM_PPSI_W0_VALID)
  let s := (s.put F.TIM_PPSI_W0_VALID 1).put F.TIM_PPSI_W0_FLAGS (s.coarse.toNat * 2 + s.timeInvalid.toNat)
  s.modTim fun t => { t with ppsTod := (s.tod - s.geti F.TIM_PPSI_COMP_COMP) % todMod }

/-- The scheduled change is gone. -/
def dropPend (s : State) : State := (s.modTim fun t => { t with pend := none }).put F.TIM_STAT_SET_PEND 0

/-- PPS_IN_EDGE: an edge at the ball; falling says which, short that its pulse lasts under 20 ns. A TIME_SET that waits
for it applies after the stamp. -/
def execPpsInEdge (falling short : Bool) (s : State) : Host.Outcome State Fault Refusal :=
  if !s.flag F.TIM_PPSI_CTRL_EN || short || s.inAnchor || s.flag F.TIM_PPSI_CTRL_EDGE ≠ falling then .next s
  else
    let s := ppsStamp s
    match s.tim.pend with
    | some { cmd := i, change := a, target := none, .. } => .next ((dropPend s).requestTime a false (s.cmdById i))
    | _ => .next s

/-- The whole second that ToD + PPS_OUT_COMP has reached. -/
def State.ppsNow (s : State) : Int := (s.tod + s.geti F.TIM_PPSO_COMP_COMP) / secU

/-- Width of a pulse of PPS_OUT in µs (R247). -/
def State.ppsWidthUs (s : State) : Nat := max 1 (min 500000 (s.get F.TIM_PPSO_CTRL_WIDTH))

/-- The level of the PPS_OUT ball, high as true: POL names its active level. -/
def State.ppsLevel (s : State) : Bool := s.tim.ppsOut != s.flag F.TIM_PPSO_CTRL_POL

/-- PPS_OUT_SECOND: a single pulse marks however many seconds were passed. -/
def execPpsOutSecond (s : State) : Host.Outcome State Fault Refusal :=
  if ppsAllowed s && s.ppsNow > s.tim.ppsSec then
    .next (s.modTim fun t => { t with ppsOut := true, ppsWidth := s.ppsWidthUs, ppsSec := s.ppsNow })
  else .next s

/-- PPS_OUT_PULSE_END. -/
def execPpsOutPulseEnd (s : State) : Host.Outcome State Fault Refusal :=
  .next (s.modTim fun t => { t with ppsOut := false })

/-- What a write of TIM_PPSO_CTRL does beyond its fields: an output newly enabled marks the seconds still to come,
and one that may not drive goes inactive. -/
def ppsoWrite (wasOn : Bool) (s : State) : State :=
  let s := if s.flag F.TIM_PPSO_CTRL_EN && !wasOn then s.modTim fun t => { t with ppsSec := s.ppsNow } else s
  ppsGate s

/-! ## Commands 0x60 to 0x62 (R248) -/

/-- Put a time command in the shared pending place; the one it replaces completes with CANCELLED. -/
def State.pendTime (s : State) (c : Cmd) (p : TimePend) : State :=
  let s := match s.tim.pend.bind fun o => s.cmdById o.cmd with
    | some old => s.finish old .cancelled
    | none => s
  let s := (s.modTim fun t => { t with pend := some p }).put F.TIM_STAT_SET_PEND 1
  s.await c .time

/-- The change that TIME_SET asks for: the time, and with its bit 1 the rate. -/
def Cmd.timeSet (c : Cmd) : TimeApply :=
  { rate := if c.bits 2 1 1 = 1 then some (c.bits 7 7 0 * 2 ^ 32 + (c.word 8).toNat) else none
    set := some (todOf (c.bits 3 15 0 * 2 ^ 32 + (c.word 4).toNat) (c.word 5).toNat (c.bits 6 15 0)) }

/-- TIME_SET. -/
def execTimeSet (m : MBox) (s : State) : Host.Outcome State Fault Refusal :=
  .next (runCmd 0x60 m (fun c s =>
    if (c.word 5).toNat > 999999999 || !c.timeSet.rate.all rateOk then s.finish c .badLength
    else if c.bits 2 0 0 = 0 then s.requestTime c.timeSet false (some c)
    else s.pendTime c { cmd := c.id, change := c.timeSet, clear := false, target := none }) s)

/-- The change that TIME_ADJUST asks for: with bit 1 the rate, with bit 0 a step. -/
def Cmd.timeAdjust (c : Cmd) : TimeApply :=
  { rate := if c.bits 2 1 1 = 1 then some (c.bits 5 7 0 * 2 ^ 32 + (c.word 6).toNat) else none
    step := if c.bits 2 0 0 = 1 then some (signed 64 ((c.word 3).toNat * 2 ^ 32 + (c.word 4).toNat)) else none }

/-- The time of day at which TIME_ADJUST with bit 3 applies. -/
def Cmd.adjustAt (c : Cmd) : Int := todOf (c.bits 7 15 0 * 2 ^ 32 + (c.word 8).toNat) (c.word 9).toNat 0

/-- TIME_ADJUST. -/
def execTimeAdjust (m : MBox) (s : State) : Host.Outcome State Fault Refusal :=
  .next (runCmd 0x61 m (fun c s =>
    let atTime := c.bits 2 3 3 = 1
    let clear := c.bits 2 2 2 = 1
    if !c.timeAdjust.rate.all rateOk || (atTime && ((c.word 9).toNat > 999999999 || s.tooFar c.adjustAt)) then
      s.finish c .badLength
    else if atTime then
      s.pendTime c { cmd := c.id, change := c.timeAdjust, clear := clear,
                     target := some (c.adjustAt, s.rawTarget c.adjustAt) }
    else s.requestTime c.timeAdjust clear (some c)) s)

/-- Argument word i of TIME_STAMP_CONFIG configures time-stamp queue k if its bit 20 is set. -/
def stampQueueSet (c : Cmd) (i k : Nat) (s : State) : State :=
  if c.bits i 20 20 = 1 then
    (s.put F.TIM_TSQ_CFG_LANES (c.bits i 8 0) k).put F.TIM_TSQ_CFG_DEC_LOG (c.bits i 19 16) k
  else s

/-- The queues and the pulse output as TIME_STAMP_CONFIG asks. -/
def stampConfigured (c : Cmd) (s : State) : State :=
  let s := stampQueueSet c 3 1 (stampQueueSet c 2 0 s)
  if c.bits 5 0 0 = 1 then ppsoWrite (s.flag F.TIM_PPSO_CTRL_EN) (s.writePlain R.TIM_PPSO_CTRL (c.word 4)) else s

/-- TIME_STAMP_CONFIG. -/
def execTimeStampConfig (m : MBox) (s : State) : Host.Outcome State Fault Refusal :=
  .next (runCmd 0x62 m (fun c s =>
    let bad := fun i => c.bits i 20 20 = 1 && c.bits i 19 16 > 12
    if bad 2 || bad 3 then s.finish c .badLength else (stampConfigured c s).finish c .done) s)

/-- TIME_SET_PPS_TIMEOUT: no edge within 2 s. -/
def execTimeSetPpsTimeout (s : State) : Host.Outcome State Fault Refusal :=
  match s.tim.pend with
  | some { cmd := i, target := none, .. } =>
    match s.cmdById i with
    | some c => .next ((dropPend s).finish c .timedOut)
    | none => .next (dropPend s)
  | _ => .next s

/-- The timed TIME_ADJUST fires: RAW has reached its target (R238). -/
def timeAdjustFires (s : State) : State :=
  match s.tim.pend with
  | some { cmd := i, change := a, clear := cl, target := some (_, r) } =>
    if s.tim.running && rawDiff s.tim.raw r ≥ 0 then
      let s := (s.modTim fun t => { t with pend := none }).put F.TIM_STAT_SET_PEND 0
      s.requestTime a cl (s.cmdById i)
    else s
  | _ => s

end Sys2Proof.Machine
end

