-- ==== Sys2Proof/Machine/Mail.lean ====
section
/-! DEFINITION. Sys2Proof/Machine/Mail.lean: mailboxes, intake, the replay windows, rings and the engine's own commands
(R284 to R303), and SET_POLICY (R334, R335). -/

namespace Sys2Proof.Machine

def State.modMbx (s : State) (f : Mbx → Mbx) : State := { s with mbx := f s.mbx }

/-! ## Mailbox writes (R284 to R289) -/

/-- The identity that a requester's GO stamps (R286); DMA has none. A message forwarded by Hawser is stamped by its
source instead. -/
def State.identOf (s : State) : Req → Nat
  | .host => if s.cmis.priv then 2 else 1
  | .cleat => 3
  | .rigger _ => 4
  | .jtag => 5
  | .hawser => 0x80
  | .dma => 0

/-- Mailbox m accepts a sender identity (R284). -/
def mbxAccepts (m ident : Nat) : Bool :=
  if m ≤ 5 then ident = 1 || ident = 2
  else if m ≤ 7 then ident = 2
  else if m ≤ 11 then ident ≥ 0x80
  else ident = m - 9

/-- Word w of mailbox m. -/
def State.mbxWord (s : State) (m w : Nat) : Word := if w = 0 then s.word R.MBX_W0 m else s.word R.MBX_W m (w - 1)

/-- The message that mailbox m holds. -/
def State.mbxMessage (s : State) (m : Nat) : List Word := (List.range 16).map (s.mbxWord m)

/-- A message needs the staging buffer (R289, R427). -/
def needsStaging (words : List Word) : Bool :=
  let c : Cmd := { id := 0, m := 0, words := words }
  c.extLen ≠ 0 || opStaged c.opcode || (c.opcode = 0x82 && opStaged (c.bits 2 15 8))

/-- A write is refused: ERROR and ERR_CAUSE record it (R287). -/
def State.mbxRefuse (s : State) (m cause : Nat) : State := (s.put F.MBX_STAT_ERROR 1 m).put F.MBX_STAT_ERR_CAUSE cause m

/-- Why a write of a word or of the doorbell of mailbox m is refused; 0 when it is not. -/
def mbxCause (s : State) (m ident : Nat) (go : Bool) : Nat :=
  if !mbxAccepts m ident then 0x02
  else if s.flag F.MBX_STAT_FULL m then 0x01
  else if go && s.flag F.MBX_STAT_STG_BUSY m && needsStaging (s.mbxMessage m) then 0x03
  else 0

/-- Write word w of mailbox m for a sender identity; the identity field of word 0 ignores writes. -/
def mbxWordWrite (m w ident : Nat) (v : Word) (s : State) : Acc × State :=
  match mbxCause s m ident false with
  | 0 => (.ok, if w = 0 then s.writePlain R.MBX_W0 v m else s.writePlain R.MBX_W v m (w - 1))
  | c => (.mbx, s.mbxRefuse m c)

/-- Write the doorbell of mailbox m (R288). -/
def mbxGo (m ident : Nat) (v : Word) (s : State) : Acc × State :=
  let go := bitsOf v 0 0 = 1
  match mbxCause s m ident go with
  | 0 =>
    if go then
      let s := (s.put F.MBX_STAT_FULL 1 m).put F.MBX_STAT_TAKEN 0 m
      let s := s.put F.MBX_W0_SENDER ident m
      (.ok, if needsStaging (s.mbxMessage m) then s.put F.MBX_STAT_STG_BUSY 1 m else s)
    else (.ok, s)
  | c => (.mbx, s.mbxRefuse m c)

/-- Why a write to the staging buffer of mailbox m is refused; 0 when it is not (R287, R332). -/
def stagingCause (s : State) (m ident : Nat) : Nat :=
  if !mbxAccepts m ident then 0x02 else if s.flag F.MBX_STAT_STG_BUSY m then 0x03 else 0

/-! ## Intake (R290 to R292) -/

/-- The opcodes of R307 below the personality's. -/
def opcodes : List Nat :=
  [0x01, 0x02, 0x03, 0x04, 0x05, 0x06, 0x07, 0x20, 0x21, 0x22, 0x23, 0x24, 0x25, 0x26, 0x27, 0x28, 0x29, 0x2A,
   0x40, 0x41, 0x42, 0x43, 0x44, 0x50, 0x51, 0x52, 0x53, 0x60, 0x61, 0x62, 0x70, 0x71, 0x72, 0x73, 0x80, 0x81, 0x82,
   0x90, 0x91, 0x92, 0x93, 0xA0, 0xA1, 0xA2]

/-- Opcodes whose default senders are every identity but HOST.USER (R307). -/
def privOpcodes : List Nat := [0x03, 0x06, 0x24, 0x53, 0x60, 0x61, 0x73, 0x81, 0x82, 0x90, 0x93, 0xA1]

/-- The default allow mask of an opcode. DEDUCED, log 76. -/
def defaultAllow (op : Nat) : BitVec 6 := if privOpcodes.contains op then 0x3E else 0x3F

/-- The allow mask in force (R308). -/
def State.allow (s : State) (op : Nat) : BitVec 6 := Bank.get s.mbx.policy op (defaultAllow op)

/-- A personality declares opcode op. -/
def State.declared (s : State) (op : Nat) : Bool := s.fw.persLoaded && op ≥ 0xE0 && s.fw.opcodes.getLsbD (op - 0xE0)

/-- Extended lengths that an opcode accepts, KNOT_CINCH and GANG_CONFIG by their kind and action. -/
def lenAccepted (c : Cmd) : Bool :=
  let l := c.extLen
  l ≤ 4096 && (match c.opcode with
  | 0x25 => l = 0 || l = 64
  | 0x2A => l % 64 = 0
  | 0x41 => l % 8 = 0
  | 0x42 => if c.bits 3 1 0 = 3 then l % 4 = 0 && l ≤ 512 else l = 0
  | 0x71 => true
  | 0x81 => if c.bits 2 2 0 = 1 then l % 4 = 0 && l ≤ 2048 else l = 0
  | 0x82 => true
  | op => op ≥ 0xE0 || l = 0)

/-- Outstanding commands counted against the quota of an identity: its own, so that each peer has one (R292). -/
def State.countOf (s : State) (ident : Nat) : Nat := (s.mbx.outstanding.filter fun c => c.ident = ident).length

/-- The quota of an identity; values above 2,048 act as 2,048. -/
def State.quotaOf (s : State) (ident : Nat) : Nat := min 2048 (s.get F.MBX_QUOTA_QUOTA (classOf ident))

/-- A message enters its sender's replay window and evicts the oldest tag past 32 (R299). -/
def State.windowEnter (s : State) (ident : Nat) (tag : BitVec 16) (id : Nat) : State :=
  if tag = 0 then s
  else
    let w := s.window ident ++ [{ tag := tag, id := id }]
    s.setWindow ident (w.drop (w.length - 32))

/-- The latest entry of a tag in an identity's window. -/
def State.windowFind (s : State) (ident : Nat) (tag : BitVec 16) : Option WinEntry :=
  (s.window ident).reverse.find? fun e => e.tag = tag

/-- The checks of R291 for the message c just taken, and what the first to fail does. -/
def intake (c : Cmd) (s : State) : State :=
  let refuse := fun (st : Status) (s : State) =>
    let s := completionOffer c.ident 0 (s.postCpl (c.word 0) c.m st st 0 true)
    if c.locked then s.unlockStaging c.m else s
  if c.bits 1 15 1 ≠ 0 || !(opcodes.contains c.opcode || s.declared c.opcode) then refuse .badOpcode s
  else if !lenAccepted c then refuse .badLength s
  else if !(s.allow c.opcode).getLsbD (classOf c.ident) then refuse .denied s
  else match (if c.tag = 0 then none else s.windowFind c.ident c.tag) with
    | some { final := some (st, res), .. } =>
      let s := completionOffer c.ident 0 (s.postCpl (c.word 0) c.m .replayed st res true)
      if c.locked then s.unlockStaging c.m else s
    | some { id := i, .. } =>
      match s.cmdById i with
      | some d => s.setCmd { d with dups := d.dups ++ [(c.m, c.locked, s.tim.raw)] }
      | none => s
    | none =>
      if s.countOf c.ident ≥ s.quotaOf c.ident || s.mbx.outstanding.length ≥ 2048 then refuse .queueFull s
      else
        let c := { c with id := s.mbx.nextId, taken := s.tim.raw,
                          stage := if c.opcode ≥ 0xE0 then .executing .personality else .queued }
        let s := s.modMbx fun x => { x with nextId := x.nextId + 1, outstanding := x.outstanding ++ [c] }
        s.windowEnter c.ident c.tag c.id

/-- The peer mailbox that a forwarded message enters: the lowest-numbered empty one, whose staging buffer is free if the
message needs it (R289, R428). DEDUCED, log 77. -/
def peerFree (s : State) (words : List Word) : Option Nat :=
  [8, 9, 10, 11].find? fun m => !s.flag F.MBX_STAT_FULL m && !(s.flag F.MBX_STAT_STG_BUSY m && needsStaging words)

/-- A forwarded message enters mailbox m with identity 0x80, its extended payload in the staging buffer.
DEDUCED, log 78. -/
def peerEnter (m : Nat) (words : List Word) (ext : List Byte) (s : State) : State :=
  let s := if ext.isEmpty then s else s.setBytes (stagingBase m) (ext.take 4096)
  let s := s.setWord R.MBX_W0 (words.getD 0 0) m
  let s := (List.range 15).foldl (fun s w => s.setWord R.MBX_W (words.getD (w + 1) 0) m w) s
  (mbxGo m 0x80 1 s).2

/-- Waiting messages enter peer mailboxes in order of arrival, and their request credits go back (R421, R428). -/
def inboxNext (fuel : Nat) (s : State) : State :=
  match fuel, s.hws.inbox with
  | fuel + 1, (p, words, ext) :: rest =>
    match peerFree s words with
    | some m =>
      let s := (peerEnter m words ext s).modHws fun h => { h with inbox := rest }
      inboxNext fuel (s.hwEmit p s.hwIndex 0 0 (.link 0 1 none))
    | none => s
  | _, _ => s

/-- The message of mailbox m is taken: the mailbox is empty again, and the message goes through intake (R288). -/
def takeMessage (m : Nat) (s : State) : State :=
  let words := s.mbxMessage m
  let c : Cmd := { id := 0, m := m, words := words, locked := needsStaging words }
  let s := (s.modMbx fun x => { x with rr := (m + 1) % 15 }).put F.MBX_STAT_FULL 0 m
  let s := ((s.put F.MBX_STAT_TAKEN 1 m).put F.MBX_STAT_EMPTY_IRQ 1 m).put F.MBX_STAT_LAST_TAG c.tag.toNat m
  let s := s.perf 0xE9
  let s := if c.ident ≥ 0x80 then s.hwSendTo (c.ident - 0x80) (.taken c.tag) else s
  intake c s

/-- The full mailbox that round robin takes next (R290). -/
def State.nextFull (s : State) : Option Nat :=
  ((List.range 15).map fun i => (s.mbx.rr + i) % 15).find? fun m => s.flag F.MBX_STAT_FULL m

/-- MAILBOX_TAKE: the next full mailbox in round robin is taken, while RUNNING is 1 (R288, R290); a peer gets TAKEN. -/
def execMailboxTake (s : State) : Host.Outcome State Fault Refusal :=
  let s := inboxNext 16 s
  if !s.flag F.MBX_ENG_STAT_RUNNING then .next s
  else
    match s.nextFull with
    | none => .next s
    | some m => .next (inboxNext 16 (takeMessage m s))

/-! ## Rings read by their readers (R276, R294) -/

/-- The four words of a completion entry. -/
def Cpl.entry (c : Cpl) : List Word :=
  [c.w0, BitVec.ofNat 32 (c.status.code * 2 ^ 24 + c.orig.code * 2 ^ 16 + c.epoch.toNat), c.result,
   BitVec.ofNat 32 (2 ^ 31 + c.final.toNat * 2 ^ 30 + c.m * 2 ^ 16 + c.seq.toNat)]

/-- The four words of an event entry (R298). -/
def Evt.entry (e : Evt) : List Word :=
  [BitVec.ofNat 32 (e.code * 2 ^ 24 + e.lane * 2 ^ 16 + e.seq.toNat), e.arg, BitVec.ofNat 32 e.raw.toNat,
   BitVec.ofNat 32 (2 ^ 31 + e.anchor.toNat * 2 ^ 30 + e.raw.toNat / 2 ^ 32)]

/-- A read of MBX_IRINGk_W0 by requester q pops the oldest entry into the holding set. -/
def iringRead (q : Req) (k : Nat) (s : State) : Word × State :=
  let i : Fin 3 := Fin.ofNat 3 k
  let e := match s.mbx.internal[i].entries with
    | [] => []
    | c :: _ => c.entry
  (e.headD 0, (s.modMbx fun x => { x with internal := x.internal.set i x.internal[i].pop }).modHold q fun h =>
    { h with ring := Bank.put h.ring i e.tail [] })

/-- COMPLETION_RING_POP: the host pops its oldest completion. -/
def execCompletionRingPop (s : State) : Host.Outcome State Fault Refusal :=
  match s.mbx.host.entries with
  | [] => .next s
  | _ => .next ((s.modMbx fun x => { x with host := x.host.pop }).incWrap F.MBX_RING_STAT_CONSUMED)

/-- EVENT_QUEUE_POP: the host pops the oldest event. -/
def execEventQueuePop (s : State) : Host.Outcome State Fault Refusal :=
  .next (s.modMbx fun x => { x with events := x.events.tail })

/-! ## Commands 0x01 to 0x05 -/

/-- PING. -/
def execPing (m : MBox) (s : State) : Host.Outcome State Fault Refusal :=
  .next (runCmd 0x01 m (fun c s => s.finish c .done (c.word 2).toNat) s)

/-- A flash byte; unlisted bytes are erased. -/
def State.flashByte (s : State) (o : Nat) : Byte := Bank.get s.fw.flash o 0xFF

/-- Flash offsets of a Rigger slot (true: B) and of the personality areas (true: staged) (R337). -/
def slotBase (b : Bool) : Nat := if b then 0x640000 else 0x40000
def persBase (staged : Bool) : Nat := if staged then 0xCC0000 else 0xC40000

/-- Four version bytes of the image at a flash offset (R338). -/
def State.versionAt (s : State) (o : Nat) : List Byte := (List.range 4).map fun i => s.flashByte (o + 8 + i)

/-- The running Rigger image's version, zero while none is released; the personality's, zero if none. -/
def State.riggerVersion (s : State) : List Byte :=
  if s.fw.released then s.versionAt (slotBase s.fw.slotB) else [0, 0, 0, 0]
def State.persVersion (s : State) : List Byte :=
  if s.fw.persLoaded then s.versionAt (persBase s.fw.stagedRuns) else [0, 0, 0, 0]

/-- GET_INFO's 64 bytes for command c (R303). -/
def infoBytes (c : Cmd) (s : State) : List Byte :=
  leBytes 4 (s.word R.TOP_ID).toNat ++ leBytes 8 s.fw.serial.toNat ++ leBytes 2 s.fw.epoch.toNat
    ++ leBytes 2 s.fw.restarts.toNat ++ s.riggerVersion ++ leBytes 4 s.fw.rom.toNat ++ s.persVersion
    ++ leBytes 2 (s.get F.MBX_QUOTA_QUOTA (classOf c.ident)) ++ leBytes 2 (s.countOf c.ident - 1)
    ++ leBytes 2 (s.mbx.outstanding.length - 1) ++ leBytes 1 c.ident ++ leBytes 1 c.m ++ List.replicate 28 0

/-- GET_INFO. -/
def execGetInfo (m : MBox) (s : State) : Host.Outcome State Fault Refusal :=
  .next (runCmd 0x02 m (fun c s => s.finishStaged c (infoBytes c s)) s)

/-- The identity that CANCEL names; 0 is the sender's own. -/
def Cmd.cancelOf (c : Cmd) : Nat := if c.bits 2 31 24 = 0 then c.ident else c.bits 2 31 24

/-- The tag that CANCEL names. -/
def Cmd.cancelTag (c : Cmd) : BitVec 16 := BitVec.ofNat 16 (c.bits 2 15 0)

/-- The sender may cancel the commands of the identity it names: its own, HOST.PRIV those of HOST.USER, and Cleat and
Rigger any (R301). -/
def Cmd.mayCancel (c : Cmd) : Bool :=
  c.cancelOf = c.ident || (c.ident = 2 && c.cancelOf = 1) || c.ident = 3 || c.ident = 4

/-- CANCEL (R301). DEDUCED, log 75. -/
def execCancel (m : MBox) (s : State) : Host.Outcome State Fault Refusal :=
  .next (runCmd 0x04 m (fun c s =>
    if c.cancelTag = 0 then s.finish c .badLength
    else if !c.mayCancel then s.finish c .denied
    else match s.windowFind c.cancelOf c.cancelTag with
      | none => s.finish c .done 0
      | some { final := some _, .. } => s.finish c .done 3
      | some { id := i, .. } =>
        match s.cmdById i with
        | none => s.finish c .done 0
        | some d =>
          if d.id ≠ c.id && d.stage = .queued then (s.finish d .cancelled).finish c .done 1
          else s.finish c .done 2) s)

/-- A ring without its entries. -/
def Ring.flushed (r : Ring) : Ring := { r with entries := [], dropping := false }

/-- The ring of an identity loses its entries (R302). -/
def State.flushRing (s : State) (ident : Nat) : State :=
  let k : Fin 3 := Fin.ofNat 3 (ident - 3)
  if ident ≤ 2 then
    (s.modMbx fun x => { x with host := x.host.flushed }).put F.MBX_RING_STAT_CONSUMED (s.get F.MBX_RING_STAT_PRODUCED)
  else if ident ≤ 5 then s.modMbx fun x => { x with internal := x.internal.set k x.internal[k].flushed }
  else s

/-- What FLUSH_COMPLETIONS answers: the completions it discards, and in the upper half the sender's commands still
outstanding (R302). -/
def State.flushResult (s : State) (c : Cmd) : Nat :=
  let host := c.ident ≤ 2
  let mine := fun (d : Cmd) => d.id ≠ c.id && (if host then d.ident ≤ 2 else d.ident = c.ident)
  let k : Fin 3 := Fin.ofNat 3 (c.ident - 3)
  let gone := if host then s.mbx.host.entries.length else if c.ident ≤ 5 then s.mbx.internal[k].entries.length else 0
  gone + (s.mbx.outstanding.filter mine).length * 2 ^ 16

/-- FLUSH_COMPLETIONS (R302). -/
def execFlushCompletions (m : MBox) (s : State) : Host.Outcome State Fault Refusal :=
  .next (runCmd 0x05 m (fun c s =>
    let res := s.flushResult c
    let s := s.flushRing c.ident
    let s := if c.bits 2 0 0 = 1 then s.modMbx fun x => { x with events := [] } else s
    s.finish c .done res) s)

/-! ## SET_POLICY (R334, R335) -/

/-- Run SET_POLICY if its TABLE is t; TABLE 3 completes with BAD_LENGTH. -/
def setPolicy (t : Nat) (m : MBox) (f : Cmd → State → State) (s : State) : State :=
  runCmd 0x03 m (fun c s =>
    if c.bits 2 1 0 = 3 then s.finish c .badLength
    else if c.bits 2 1 0 = t then f c s else s) s

/-- The senders of opcode op become those of mask (R334). DEDUCED, log 91. -/
def State.setAllow (s : State) (op : Nat) (mask : BitVec 6) : State :=
  s.modMbx fun x => { x with policy := Bank.put x.policy op mask (defaultAllow op),
                             policyChanged := x.policyChanged || s.allow op ≠ mask }

/-- Policy bit b becomes v (R335). -/
def State.setPolicyBit (s : State) (b : Nat) (v : Bool) : State :=
  let mask := BitVec.ofNat 6 (2 ^ b)
  s.modMbx fun x => { x with policyBits := (x.policyBits &&& ~~~mask) ||| (if v then mask else 0),
                             policyChanged := x.policyChanged || s.mbx.policyBits.getLsbD b ≠ v }

/-- SET_POLICY, TABLE 0. -/
def execSetPolicySender (m : MBox) (s : State) : Host.Outcome State Fault Refusal :=
  .next (setPolicy 0 m (fun c s =>
    let op := c.bits 2 15 8
    let old := s.allow op
    let new := BitVec.ofNat 6 (c.bits 3 5 0)
    let may := c.ident = 3 || (c.ident = 2 && (old ^^^ new) &&& 0x3E = 0) || (c.ident = 4 && op ≥ 0xE0)
    if !(opcodes.contains op || op ≥ 0xE0) then s.finish c .badLength
    else if !may || (op = 0x03 && !new.getLsbD 2) then s.finish c .denied
    else
      (s.setAllow op new).finish c .done old.toNat) s)

/-- Identities that may change policy bit b besides CLEAT: bit 1 HOST.PRIV, bit 3 RIGGER. -/
def changers (b : Nat) : BitVec 6 := match b with | 0 => 0x0A | 5 => 0 | _ => 0x08

/-- The same as a personality has narrowed it; none can widen it (R334). -/
def State.mayChange (s : State) (b : Nat) : BitVec 6 := changers b &&& Bank.get s.mbx.changedBy b (changers b)

/-- SET_POLICY, TABLE 1. -/
def execSetPolicyBit (m : MBox) (s : State) : Host.Outcome State Fault Refusal :=
  .next (setPolicy 1 m (fun c s =>
    let b := c.bits 2 15 8
    let old := s.mbx.policyBits.getLsbD b
    let new := c.bits 3 0 0 = 1
    if b > 5 then s.finish c .badLength
    else if c.ident ≠ 3 && !(s.mayChange b).getLsbD (classOf c.ident) then s.finish c .denied
    else
      (s.setPolicyBit b new).finish c .done old.toNat) s)

/-- The host may set the quotas of its own classes. -/
def State.hostQuota (s : State) : Bool := s.mbx.policyBits.getLsbD 1

/-- SET_POLICY, TABLE 2. -/
def execSetPolicyQuota (m : MBox) (s : State) : Host.Outcome State Fault Refusal :=
  .next (setPolicy 2 m (fun c s =>
    let k := c.bits 2 15 8
    let old := s.get F.MBX_QUOTA_QUOTA k
    if k > 5 then s.finish c .badLength
    else if c.ident ≠ 3 && !(c.ident = 2 && s.hostQuota && k ≤ 1) then s.finish c .denied
    else (s.put F.MBX_QUOTA_QUOTA (c.bits 3 11 0) k).finish c .done old) s)

end Sys2Proof.Machine
end

