-- ==== Sys2Proof/Machine/Ecc.lean ====
section
/-! DEFINITION. Sys2Proof/Machine/Ecc.lean: SECDED of the SRAM, the error log, injection, and the scrubber (R393 to
R398), the retire map (R399), and the commands ECC_LOG and RETIRE_PAGE (R397, R400). -/

namespace Sys2Proof.Machine

/-- What an upset adds to the flips of a word. -/
def upsetAdd (u : Upset) (l : List Nat) : List Nat :=
  match u with
  | .none => l
  | .bit b => toggle l b
  | .double b0 b1 => toggle (toggle l b0) b1

/-- Enter an error in the log (R397): at a listed word its entry counts on and turns uncorrectable where the word has;
a new word takes a free entry or the place of the oldest correctable one. The index of the entry, none if it was
dropped and counted. -/
def State.eccLog (s : State) (mem addr : Nat) (unc : Bool) (bit req : Nat) : Option Nat × State :=
  let a := BitVec.ofNat 32 addr
  let new : EccEntry := { mem := mem, addr := a, unc := unc, bit := if unc then 0xFF else bit, req := req, count := 1,
                          raw := s.tim.raw, age := s.ecc.nextAge }
  match s.ecc.log.findIdx? fun e => e.mem = mem && e.addr = a with
  | some i =>
    (some i, s.modEcc fun c => { c with log := c.log.modify i fun e =>
      { e with count := min 4095 (e.count + 1), unc := e.unc || unc, bit := if e.unc || unc then 0xFF else e.bit } })
  | none =>
    let s := s.modEcc fun c => { c with nextAge := c.nextAge + 1 }
    if s.ecc.log.length < 64 then (some s.ecc.log.length, s.modEcc fun c => { c with log := c.log ++ [new] })
    else
      let old := s.ecc.log.foldl (fun (m : Option Nat) e =>
        if e.unc then m else match m with | none => some e.age | some a => some (min a e.age)) none
      match old.bind fun a => s.ecc.log.findIdx? fun e => e.age = a with
      | some i => (some i, s.modEcc fun c => { c with log := c.log.set i new })
      | none => (none, s.addSat F.ECC_STAT_LOG_LOST 1)

/-- An error of memory mem is met: counted, logged, and posted as event 0x90 if it is uncorrectable (R395). The log
index of a dropped entry is a free value. DESIGN CHOICE, log 79. -/
def State.eccError (s : State) (mem addr : Nat) (unc : Bool) (bit req : Nat) : State :=
  let (i, s) := ((s.perf (if unc then 0xF5 else 0xF4)).lifeAdd (if unc then 99 else 100)).eccLog mem addr unc bit req
  if !unc then s
  else
    let (w, s) := s.free 16
    s.post 0x90 0xF (i.getD (w.toNat % 64) + mem * 256)

/-- Read the SRAM word that holds address a (R393): a single error is corrected and written back, two or more are
uncorrectable. True when the word is good. DEDUCED, log 19. DEDUCED, log 100. -/
def State.eccRead (s : State) (a req : Nat) (u : Upset) : Bool × State :=
  let w := a / 8 * 8
  let p := s.phys w
  match upsetAdd u (s.flips p) with
  | [] => (true, s.setFlips p [])
  | [b] => (true, (s.setFlips p []).eccError 0 w false b req)
  | l => (false, (s.setFlips p l).eccError 0 w true 0 req)

/-- The eight data bytes of the word that holds address a as they are stored, flips included. -/
def State.rawWord (s : State) (a : Nat) : List Byte :=
  let w := a / 8 * 8
  let fl := s.flips (s.phys w)
  (s.bytes w 8).zipIdx.map fun p => p.1 ^^^ BitVec.ofNat 8 ((fl.filter fun b => b / 8 = p.2).map fun b => 2 ^ (b % 8)).sum

/-- Write bytes at address a inside one word: a full word replaces it, less than that reads and merges first and is
refused where the read finds an uncorrectable error (R394). -/
def State.eccWrite (s : State) (a : Nat) (bs : List Byte) (req : Nat) (u : Upset) : Bool × State :=
  if bs.length = 8 then (true, s.setBytes a bs)
  else
    match s.eccRead a req u with
    | (true, s) => (true, s.setBytes a bs)
    | (false, s) => (false, s)

/-! ## The scrubber (R396) -/

/-- The scrubber reads the word at address a: a single error is corrected and written back, a double one is met
(R395, R396). -/
def scrubWord (a : Nat) (u : Upset) (raced : Bool) (s : State) : State :=
  let p := s.phys a
  match upsetAdd u (s.flips p) with
  | [] => s.setFlips p []
  | [b] => (if raced then s else s.setFlips p []).eccError 0 a false b 9
  | l => (if raced then s else s.setFlips p l).eccError 0 a true 0 9

/-- SCRUB_READ: the scrubber reads its next word; u is what it finds stored, raced says that another write has reached
the word since, so that nothing is written back. DEDUCED, log 98. -/
def execScrubRead (u : Upset) (raced : Bool) (s : State) : Host.Outcome State Fault Refusal :=
  if !s.flag F.ECC_STAT_SCRUB_EN || s.inAnchor then .next s
  else
    let pos := s.get F.ECC_SCRUB_STAT_POS
    let s := (scrubWord (0x80000000 + pos * 8) u raced s).put F.ECC_SCRUB_STAT_POS (pos + 1)
    .next (if pos + 1 = 4194304 then s.incWrap F.ECC_SCRUB_STAT_PASSES else s)

/-! ## The log's view (R397) -/

/-- The four words of a log entry. -/
def EccEntry.entry (e : EccEntry) : List Word :=
  [BitVec.ofNat 32 (2 ^ 31 + e.unc.toNat * 2 ^ 30 + e.mem * 2 ^ 27 + e.bit * 2 ^ 16 + e.req * 2 ^ 12 + e.count), e.addr,
   BitVec.ofNat 32 e.raw.toNat, BitVec.ofNat 32 (e.raw.toNat / 2 ^ 32)]

/-- A write of ECC_CTRL with LOG_CLR empties the log. -/
def eccCtrlWrite (v : Word) (s : State) : State :=
  if bitsOf v 8 8 = 1 then s.modEcc fun e => { e with log := [] } else s

/-- ECC_LOG: the 64 entries of 16 bytes go to staging, free entries zero. -/
def execEccLog (m : MBox) (s : State) : Host.Outcome State Fault Refusal :=
  .next (runCmd 0x92 m (fun c s =>
    let ws := s.ecc.log.flatMap EccEntry.entry
    s.finishStaged c ((ws ++ List.replicate (256 - ws.length) (0 : Word)).flatMap fun (w : Word) => leBytes 4 w.toNat)) s)

/-! ## Page retirement (R399, R400) -/

/-- Copy the page at address a to the spare page of entry e, word by word: a single error is corrected, an
uncorrectable one is kept. -/
def copyPage (a e : Nat) (s : State) : State :=
  (List.range 512).foldl (fun s i =>
    let src := a + i * 8
    let dst := 0x81FC0000 + e * 0x1000 + i * 8
    let (good, s) := s.eccRead src 0xB .none
    let s := (s.bytes src 8).zipIdx.foldl (fun s p => s.setPhysByte (dst + p.2) p.1) s
    s.setFlips dst (if good then [] else s.flips (s.phys src))) s

/-- RETIRE_PAGE. -/
def execRetirePage (m : MBox) (s : State) : Host.Outcome State Fault Refusal :=
  .next (runCmd 0x93 m (fun c s =>
    let a := (c.word 2).toNat
    if a % 0x1000 ≠ 0 || a < 0x80000000 || 0x81FBFFFF < a then s.finish c .badLength
    else match s.ecc.retired.findIdx? fun p => p = a / 0x1000 with
      | some e => s.finish c .done (e + 256)
      | none =>
        let e := s.ecc.retired.length
        if e ≥ 64 then s.finish c .queueFull
        else
          let s := (copyPage a e s).modEcc fun x =>
            { x with retired := x.retired ++ [a / 0x1000], ledgerPending := x.ledgerPending ++ [e] }
          s.finish c .done e) s)

end Sys2Proof.Machine
end

