-- ==== Sys2Proof/Machine/Lanes.lean ====
section
/-! DEFINITION. Sys2Proof/Machine/Lanes.lean: the crossbar and its check (R35 to R44), who feeds and who delivers each
host lane, the power-grant steps (R386, R439), squelch, the TX PLLs' choice of reference (R12, R90 to R92), and what
the loss of a framing does (R474, R476). -/

namespace Sys2Proof.Machine

/-! ## Access to the lane records -/

def State.tx (s : State) (n : Nat) : Ltx := s.lanes.tx[Fin.ofNat 9 n]
def State.rx (s : State) (n : Nat) : Lrx := s.lanes.rx[Fin.ofNat 9 n]
def State.hst (s : State) (h : Nat) : Hst := s.lanes.host[Fin.ofNat 16 h]
def State.pll (s : State) (p : Nat) : TxPll := s.lanes.pll[Fin.ofNat 5 p]

/-- Update all lanes. -/
def State.modLanes (s : State) (f : Lanes → Lanes) : State := { s with lanes := f s.lanes }

def State.modTx (s : State) (n : Nat) (f : Ltx → Ltx) : State :=
  s.modLanes fun l => { l with tx := l.tx.set (Fin.ofNat 9 n) (f l.tx[Fin.ofNat 9 n]) }
def State.modRx (s : State) (n : Nat) (f : Lrx → Lrx) : State :=
  s.modLanes fun l => { l with rx := l.rx.set (Fin.ofNat 9 n) (f l.rx[Fin.ofNat 9 n]) }
def State.modHst (s : State) (h : Nat) (f : Hst → Hst) : State :=
  s.modLanes fun l => { l with host := l.host.set (Fin.ofNat 16 h) (f l.host[Fin.ofNat 16 h]) }
def State.modPll (s : State) (p : Nat) (f : TxPll → TxPll) : State :=
  s.modLanes fun l => { l with pll := l.pll.set (Fin.ofNat 5 p) (f l.pll[Fin.ofNat 5 p]) }
def State.modWinch (s : State) (f : Winch → Winch) : State := s.modLanes fun l => { l with winch := f l.winch }
def State.modProt (s : State) (f : Prot → Prot) : State := s.modLanes fun l => { l with prot := f l.prot }

def State.lydOf (s : State) (n : Nat) : Lyd := s.lyd[Fin.ofNat 9 n]

def State.modLyd (s : State) (n : Nat) (f : Lyd → Lyd) : State :=
  { s with lyd := s.lyd.set (Fin.ofNat 9 n) (f s.lyd[Fin.ofNat 9 n]) }

/-- Do f for every number below k, in rising order. -/
def eachBelow (k : Nat) (f : Nat → State → State) (s : State) : State := (List.range k).foldl (fun s i => f i s) s

/-- Do f for every element, in order. -/
def eachOf (l : List Nat) (f : Nat → State → State) (s : State) : State := l.foldl (fun s i => f i s) s

/-! ## The crossbar -/

/-- Mode field of an LTX_LANE_CFG word: 0 unassigned, 1 L100, 2 L200, 3 L400. -/
def cfgMode (w : Word) : Nat := bitsOf w 2 0

/-- The source host lanes that an LTX_LANE_CFG word names: SRC_A and, in L400, SRC_B. -/
def cfgSources (w : Word) : List Nat :=
  match cfgMode w with
  | 1 => [bitsOf w 11 8]
  | 2 => [bitsOf w 11 8]
  | 3 => [bitsOf w 11 8, bitsOf w 15 12]
  | _ => []

/-- The lane whose configuration lane n runs: its own, and for L8 that of the lane it shadows (R42). -/
def State.cfgLane (s : State) (n : Nat) : Nat := if n = 8 then s.get F.LTX_LANE_CFG_SHADOW_LANE 8 else n

/-- Mode of line lane n; L8 has the mode of the lane it shadows, and none while it shadows none (R35). -/
def State.mode (s : State) (n : Nat) : Nat :=
  if n = 8 && !s.flag F.LTX_LANE_CFG_SHADOW_EN 8 then 0 else cfgMode (s.word R.LTX_LANE_CFG (s.cfgLane n))

/-- Source host lanes of line lane n. -/
def State.sources (s : State) (n : Nat) : List Nat :=
  if s.mode n = 0 then [] else cfgSources (s.word R.LTX_LANE_CFG (s.cfgLane n))

/-- Lanes of TX PLL p: a pair, or L8 alone. -/
def pairLanes (p : Nat) : List Nat := if p = 4 then [8] else [2 * p, 2 * p + 1]

/-- The other lane of n's pair, if it has one. -/
def partner (n : Nat) : Option Nat := if n = 8 then none else some (if n % 2 = 0 then n + 1 else n - 1)

/-- A crossbar map, given as the LTX_LANE_CFG words of L0 to L7, meets R42. -/
def mapValid (m : Nat → Word) : Bool :=
  let lanes := List.range 8
  let srcs := lanes.flatMap fun n => cfgSources (m n)
  (lanes.all fun n => cfgMode (m n) ≤ 3 && ((cfgSources (m n)).all fun h => h / 8 = n / 4)) && decide srcs.Nodup
    && (lanes.all fun n => cfgMode (m n) = 0 || (match partner n with
      | none => true
      | some k => cfgMode (m k) = 0 || cfgMode (m k) = cfgMode (m n)))

/-- The map as it will stand with every pending change applied (R44). -/
def State.mapAhead (s : State) (n : Nat) : Word :=
  if s.flag F.LTX_LANE_STAT_PEND n then (s.tx n).pendCfg else s.word R.LTX_LANE_CFG n

/-- The register partition of lane n's LTX and LRX blocks is on (R382, R60). -/
def State.laneOn (s : State) (n : Nat) : Bool := s.get F.PWR_BLK_EN_LANE / 2 ^ n % 2 = 1 && !s.pwr.enable.contains n

/-- L8 is declared present by the personality (R60). -/
def State.l8Present (s : State) : Bool := s.fw.l8

/-- The register partition of host lane h's quad is on. -/
def State.hostOn (s : State) (h : Nat) : Bool :=
  s.get F.PWR_BLK_EN_HSTQ / 2 ^ (h / 4) % 2 = 1 && !s.pwr.enable.contains (16 + h / 4)

/-- The line lane that host lane h feeds and that delivers its stream: of those that name it, the one whose
configuration took effect last (R44). -/
def State.feeds (s : State) (h : Nat) : Option Nat := s.lanes.order.find? fun n => (s.sources n).contains h

/-- The CORE domain is on: its partition enabled and the core PLL locked (R375, R382). -/
def State.coreOn (s : State) : Bool := s.flag F.PWR_CLK_STAT_CORE_LOCK && s.flag F.PWR_BLK_EN_CORE

/-- Some line lane is assigned a mode. -/
def State.assigned (s : State) : Bool := (List.range 8).any fun n => s.mode n ≠ 0

/-- Host lane h carries stream B of an L400 lane. -/
def State.isB (s : State) (h : Nat) : Bool :=
  match s.feeds h with
  | none => false
  | some n => s.mode n = 3 && (s.sources n).getLast? = some h

/-- A change that waits for its boundary names host lane h (R44). -/
def State.namedAhead (s : State) (h : Nat) : Bool :=
  (List.range 8).any fun n => s.flag F.LTX_LANE_STAT_PEND n && (cfgSources (s.tx n).pendCfg).contains h

/-- Mode of a host lane: 0 unused, 1 H100, 2 H200 (R36). One that an intermediate map leaves without a delivering line
lane keeps its mode, as a change that waits names it again (R44). -/
def State.hostMode (s : State) (h : Nat) : Nat :=
  match s.feeds h with
  | none => if s.namedAhead h then (s.hst h).held else 0
  | some n => if s.mode n = 1 then 1 else 2

/-- A host receiver has signal and lock. -/
def State.hostOk (s : State) (h : Nat) : Bool :=
  !s.flag F.HST_LANE_STAT_LOS h && !s.flag F.HST_LANE_STAT_LOL h && (s.hst h).cdr

/-- The receiver that delivers line lane n's streams: L8 while SWITCHED for n, unless L8 has failed (R167). -/
def State.deliverer (s : State) (n : Nat) : Nat :=
  if s.get F.LRX_PROT_STAT_STATE = 3 && s.lanes.prot.lane = n && !s.lanes.prot.returning then 8 else n

/-! ## Locks -/

/-- AM lock of stream A or B on the transmit side of lane n. -/
def State.txLock (s : State) (n : Nat) (b : Bool) : Bool :=
  s.flag (if b then F.LTX_LANE_STAT_AMLOCK_B else F.LTX_LANE_STAT_AMLOCK_A) n

/-- AM lock of stream A or B of line receiver n. -/
def State.rxLock (s : State) (n : Nat) (b : Bool) : Bool :=
  s.flag (if b then F.LRX_FRAME_STAT_AMLOCK_B else F.LRX_FRAME_STAT_AMLOCK_A) n

/-- TX AM boundaries of lane n exist (R54). -/
def State.txFramed (s : State) (n : Nat) : Bool := s.txLock n false

/-- RX AM boundaries of lane n exist (R54). -/
def State.rxFramed (s : State) (n : Nat) : Bool := s.rxLock n false

/-- The host framing of every stream that lane n carries is locked. -/
def State.txAllFramed (s : State) (n : Nat) : Bool := s.txLock n false && (s.mode n != 3 || s.txLock n true)

/-- Host TX frame boundaries of host lane h exist: the receiver that delivers its stream holds AM lock for it
(R156). -/
def State.hostTxFramed (s : State) (h : Nat) : Bool :=
  match s.feeds h with
  | none => false
  | some n => s.rxLock (s.deliverer n) (s.isB h)

/-! ## Squelch of a line output -/

/-- The line driver of lane n is modulated: LIVE, or a pattern PROBE with SRC 1 to 5, and not squelched, held or in a
RANGE sequence (R197, R179). -/
def State.modulated (s : State) (n : Nat) : Bool :=
  let st := s.get F.OLC_STAT_STATE n
  let probe := st = 4 && (match (s.optics.lane[Fin.ofNat 9 n]).probe with
    | some p => p.kind = 0 && 1 ≤ p.src && p.src ≤ 5
    | none => false)
  (st = 3 && (s.tx n).patSrc ≠ 6 || probe) && !s.flag F.LTX_SLIP_STAT_SQUELCHED n && !(s.tx n).swingHold
    && !s.flag F.OLC_CH_OUT_RANGE_CHG (5 * n)

/-- The loop-back that a probe of lane n holds: 1 media output, 2 media input (R189). -/
def State.laneLoop (s : State) (n : Nat) : Option Nat :=
  match (s.optics.lane[Fin.ofNat 9 n]).probe with
  | some p => if s.get F.OLC_STAT_STATE n = 4 && p.kind ≠ 0 then some p.kind else none
  | none => none

/-- A Lanyard frame in flight on lane n is lost where the driver is not modulated now (R197). -/
def State.lydLose (s : State) (n : Nat) : State :=
  if s.modulated n then s else s.modLyd n fun l => { l with lost := true }

/-- Lane n's optical state becomes st (R183). -/
def State.setLane (s : State) (n st : Nat) : State := (s.put F.OLC_STAT_STATE st n).lydLose n

/-- Set the reasons to squelch line lane n, and SQUELCHED with them. -/
def State.squelch (s : State) (n : Nat) (frame pll : Bool) : State :=
  ((s.modTx n fun t => { t with sqFrame := frame, sqPll := pll }).putB F.LTX_SLIP_STAT_SQUELCHED (frame || pll) n).lydLose n

/-- The lane that L8 copies, if it shadows one (R14, R42). -/
def State.copied (s : State) (n : Nat) : Bool := s.mode 8 ≠ 0 && s.cfgLane 8 = n && n ≠ 8

/-- The precoder of lane n starts anew, and so does that of its copy on L8 (R77, R78). -/
def State.preClear (s : State) (n : Nat) : State :=
  let s := s.modTx n fun t => { t with pre := 0 }
  if s.copied n then s.modTx 8 fun t => { t with pre := 0 } else s

/-! ## Squelch causes of a host output (R167, R168) -/

/-- Cause 4: the receiver that delivers the stream has LOS, LOL or no AM lock for it. -/
def State.noData (s : State) (h : Nat) : Bool :=
  match s.feeds h with
  | none => true
  | some n =>
    let r := s.deliverer n
    s.flag F.LRX_LOS_STAT_LOS r || s.flag F.LRX_LOS_STAT_LOL r || !s.rxLock r (s.isB h)

/-- Cause 3: the rotator of the receiver that delivers the stream is out of range (R19). -/
def State.rotatorOut (s : State) (h : Nat) : Bool :=
  match s.feeds h with
  | none => false
  | some n => (s.rx (s.deliverer n)).outOfRange

/-- The cause that HST_TX_STAT reports; cause 4 does not squelch a pattern (R169), and cause 1 holds while the quad is under
test (R405). -/
def State.hostCause (s : State) (h : Nat) : Nat :=
  if s.hostMode h = 0 || s.bst.left.head? = some (9 + h / 4) then 1
  else if (s.hst h).c2 then 2
  else if (s.hst h).c3 then 3
  else if (s.hst h).c4 && !s.flag F.HST_TX_CTRL_SQ_DIS h && (s.hst h).patSrc = 0 then 4
  else 0

/-- Causes 2 to 4 that hold now enter, and CAUSE is reported. Where cause 1 has held so far, none of the others has
entered before. -/
def State.refreshHost (s : State) (h : Nat) : State :=
  let held := s.get F.HST_TX_STAT_CAUSE h ≠ 1
  let s := s.modHst h fun t => { t with
    c2 := held && t.c2 || s.flag F.HST_TX_CTRL_OUT_DIS h, c3 := held && t.c3 || s.rotatorOut h, c4 := held && t.c4 || s.noData h }
  s.put F.HST_TX_STAT_CAUSE (s.hostCause h) h

/-- Every host output is refreshed. -/
def State.refreshHosts (s : State) : State := eachBelow 16 (fun h s => s.refreshHost h) s

/-- At a host TX frame boundary the causes that hold no more leave; where there is none, cause 2 alone. -/
def State.releaseHost (s : State) (h : Nat) (framed : Bool) : State :=
  let s := s.modHst h fun t => { t with
    c2 := s.flag F.HST_TX_CTRL_OUT_DIS h, c3 := !framed && t.c3 || s.rotatorOut h, c4 := !framed && t.c4 || s.noData h }
  s.put F.HST_TX_STAT_CAUSE (s.hostCause h) h

/-! ## Groups of the RS(544,514) monitor (R171, R173) -/

/-- The lanes of the group that lane h leads, none if it leads none. -/
def State.rsmGroup (s : State) (h : Nat) : List Nat :=
  if s.flag F.HST_RSM_CTRL_EN h then (List.range 16).filter fun k => s.get F.HST_RSM_CTRL_GROUP h / 2 ^ k % 2 = 1 else []

/-- Some lane of the group that h leads lacks framing in the direction that DIR chooses. -/
def State.rsmUnframed (s : State) (h : Nat) : Bool :=
  (s.rsmGroup h).any fun k =>
    if s.flag F.HST_RSM_CTRL_DIR h then !s.hostTxFramed k else !s.flag F.HST_LANE_STAT_FRAME_LOCK k

/-- The monitors whose groups lack framing lose LOCK. -/
def State.rsmCheck (s : State) : State :=
  eachBelow 16 (fun h s => if s.rsmUnframed h then s.put F.HST_RSM_STAT_LOCK 0 h else s) s

/-! ## The power-grant token (R386, R439) -/

def State.modGrant (s : State) (f : Grant → Grant) : State :=
  { s with optics := { s.optics with grant := f s.optics.grant } }

def State.grant (s : State) : Grant := s.optics.grant

/-- The device holds the token: the head while it drives PGTKO low, another device while PGTKI is high and it has not
passed the token on. -/
def Grant.holds (g : Grant) : Bool := if g.head then !g.passed else g.tkIn && !g.passed

/-- A rail or datapath is powered. -/
def State.powered (s : State) (p : PStep) : Bool := s.grant.on.contains p

/-- What a step does when it starts under the token: the rail or datapath comes on; a TX PLL starts its sequence
(R93); an LB ramp may move. -/
def State.stepStart (s : State) (p : PStep) : State :=
  match p with
  | .ramp n =>
    let s := s.put F.OLC_STAT_TOKEN_WAIT 0 n
    let c := Fin.ofNat 45 (5 * n)
    { s with optics := { s.optics with chan := s.optics.chan.set c { s.optics.chan[c] with hiZ := false } } }
  | .ltx k =>
    (s.modGrant fun g => { g with on := g.on ++ [p] }).modPll k fun t =>
      if t.state = 0 then { t with state := 1, ready := false, band := 0, relock := false, long := false } else t
  | _ => s.modGrant fun g => { g with on := g.on ++ [p] }

/-- Tenths of a millisecond that step p has waited (HWS_PG_WAIT). -/
def State.waited (s : State) (p : PStep) : Nat :=
  match s.grant.since.find? fun w => w.1 = p with
  | some (_, t) => (s.tim.raw - t).toNat / 100000
  | none => 0

/-- The next pending step starts if the device holds the token and no step runs. -/
def State.takeStep (s : State) : State :=
  match s.grant.pending with
  | [] => s
  | p :: rest =>
    if s.grant.running.isNone && s.grant.holds then
      let w := min 0xFFFF (max (s.get F.HWS_PG_WAIT_LONGEST) (s.waited p))
      let s := (s.put F.HWS_PG_WAIT_LONGEST w).incWrap F.HWS_PG_STAT_GRANTS
      (s.modGrant fun g => { g with
        pending := rest, running := some p, since := g.since.filter fun w => !(w.1 = p) }).stepStart p
    else s

/-- A step is wanted: it waits for the token, unless it is already under way or done. -/
def State.wantStep (s : State) (p : PStep) : State :=
  if s.grant.pending.contains p || s.grant.running = some p || s.powered p then s
  else
    let s := s.modGrant fun g => { g with
      pending := g.pending ++ [p], since := (g.since.filter fun w => !(w.1 = p)) ++ [(p, s.tim.raw)] }
    let s := match p with | .ramp n => s.put F.OLC_STAT_TOKEN_WAIT 1 n | _ => s
    s.takeStep

/-- A step of the device's own under the token has ended, or none was wanted (R439): the head passes the token while
PGREQ is low, and otherwise keeps it and takes its next step; another device passes it, unless PGTKI has fallen.
DEDUCED, log 118. -/
def State.pass (s : State) : State :=
  let s := s.modGrant fun g =>
    if g.head then { g with passed := g.reqIn, tkOut := g.reqIn } else { g with passed := true, tkOut := g.tkIn }
  s.takeStep

/-- The running step p ends. -/
def State.stepEnd (s : State) (p : PStep) : State :=
  if s.grant.running = some p then (s.modGrant fun g => { g with running := none }).pass else s

/-- A step is given up: it leaves the pending list, and its rail or datapath goes off. -/
def State.dropStep (s : State) (p : PStep) : State :=
  let s := s.stepEnd p
  s.modGrant fun g => { g with
    pending := g.pending.filter fun q => !(q = p), since := g.since.filter fun w => !(w.1 = p)
    on := g.on.filter fun q => !(q = p) }

/-! ## TX PLL references (R12, R14, R90, R92) -/

/-- The host lanes that feed the lanes of PLL p, in rising order. -/
def State.pllFeeds (s : State) (p : Nat) : List Nat :=
  let all := (pairLanes p).flatMap s.sources
  (List.range 16).filter fun h => all.contains h

/-- The source lane of the PLL of lane n's pair: the lowest-numbered host lane of the even lane, or SRC_A of the odd
lane when the even lane is unassigned. -/
def State.pairSource (s : State) (p : Nat) : Option Nat :=
  match (List.range 16).find? (fun h => (s.sources (2 * p)).contains h) with
  | some h => some h
  | none => (s.sources (2 * p + 1)).head?

/-- The source lane of PLL p; L8's PLL follows the lane it shadows. -/
def State.pllSource (s : State) (p : Nat) : Option Nat :=
  if p = 4 then (if s.mode 8 = 0 then none else s.pairSource (s.cfgLane 8 / 2)) else s.pairSource p

/-- The lowest-numbered feeding host lane with signal and lock. -/
def State.pllBest (s : State) (p : Nat) : Option Nat := (s.pllFeeds p).find? s.hostOk

/-- The reference at event 3 of R93: the source lane if it has signal and lock, else the best feeding lane. -/
def State.pllPick (s : State) (p : Nat) : Option Nat :=
  match s.pllSource p with
  | some h => if s.hostOk h then some h else s.pllBest p
  | none => s.pllBest p

/-- Band of a line mode in LTX_PLL_STAT.BAND, the mode's own code. -/
def State.pllBand (s : State) (p : Nat) : Nat :=
  match (pairLanes p).filter (fun n => !(s.mode n = 0)) with
  | [] => 0
  | n :: _ => s.mode n

/-- The PLL of lane n is ready to carry a LIVE lane: READY and not in HOLDOVER (R94). -/
def State.pllGood (s : State) (n : Nat) : Bool := (s.pll (n / 2)).ready && (s.pll (n / 2)).state = 4

/-- Host lane h has lost signal or lock: a PLL locked to it enters HOLDOVER (R92). DESIGN CHOICE, log 32. -/
def State.pllRefLost (s : State) (h : Nat) : State :=
  eachBelow 5 (fun p s =>
    if (s.pll p).state = 4 && (s.pll p).ref = h && !(s.pll p).rxRef then
      s.modPll p fun t => { t with state := 5, long := false }
    else s) s

/-! ## Loss of framing -/

/-- The event that trigger source k of R128 names has come to line receiver n: 1 RX AM boundary, 2 LOS or LOL, 3
LOCK_LOST. A capture that is armed for it has its trigger. DESIGN CHOICE, log 44. -/
def State.capSource (s : State) (n k : Nat) : State :=
  if s.get F.LRX_CAP_STAT_STATE n = 1 && s.get F.LRX_CAP_CTRL_TRIG n = k then s.modRx n fun t => { t with capTrig := true } else s

/-- The host framing of a stream of line transmitter n is lost (R474): the output squelches (R476). -/
def State.txFramingLost (s : State) (n : Nat) (b : Bool) : State :=
  let was := s.txLock n b
  let s := s.putB (if b then F.LTX_LANE_STAT_AMLOCK_B else F.LTX_LANE_STAT_AMLOCK_A) false n
  let s := s.modTx n fun t => if b then { t with b := {} } else { t with a := {} }
  if was then s.squelch n true (s.tx n).sqPll else s

/-- The AM framing of a stream of line receiver n is lost: for stream A, LOCK_LOST is set, the TIA loop unfreezes
(R100), the rotation timer takes over (R105), the numbering ends (R215), AUTO returns to its acquisition step (R120),
and in L100 slot lock goes too (R474). Host outputs fed from it lose their data (R167). -/
def State.rxFramingLost (s : State) (n : Nat) (b : Bool) : State :=
  let was := s.rxLock n b
  let s := s.putB (if b then F.LRX_FRAME_STAT_AMLOCK_B else F.LRX_FRAME_STAT_AMLOCK_A) false n
  let s := s.modRx n fun t => if b then { t with b := {} } else { t with a := {} }
  let s :=
    if was && !b then
      let s := (((s.put F.LRX_FRAME_STAT_LOCK_LOST 1 n).put F.LRX_TIA_STAT_FROZEN 0 n).put F.LRX_TIA_STAT_ACQ_DONE 0 n).put
        F.LRX_ADC_STAT_TIMER 1 n
      let s := ((s.capSource n 3).put F.LRX_AM_SEQ_VALID 0 n).modRx n fun t => { t with first := true, sinceLock := 0 }
      let s := s.modWinch fun w => { w with track := Bank.put w.track n false false }
      if s.mode n = 1 then s.put F.LRX_FRAME_STAT_SLOT_LOCK 0 n else s
    else s
  if was then s.refreshHosts.rsmCheck else s

/-- Slot lock or codeword lock of line receiver n is lost, and with it the framing of its streams (R49, R474). -/
def State.slotLost (s : State) (n : Nat) : State :=
  if s.flag F.LRX_FRAME_STAT_SLOT_LOCK n then
    let s := ((s.put F.LRX_FRAME_STAT_SLOT_LOCK 0 n).put F.LRX_FRAME_STAT_LOCK_LOST 1 n).capSource n 3
    let s := (s.put F.LRX_TIA_STAT_FROZEN 0 n).put F.LRX_TIA_STAT_ACQ_DONE 0 n
    let s := s.modWinch fun w => { w with track := Bank.put w.track n false false }
    (s.rxFramingLost n false).rxFramingLost n true
  else s

/-- Framing loss of line receiver n on LOS, LOL, a reset or a mode change (R125). -/
def State.rxLost (s : State) (n : Nat) : State :=
  let s := s.rxFramingLost n false
  let s := s.rxFramingLost n true
  let s := s.slotLost n
  s.modRx n fun t => { t with visits := 0 }

/-- The host receive framing of host lane h is lost, and with it the host framing of the line lanes it feeds
(R474, R476). -/
def State.hostLost (s : State) (h : Nat) : State :=
  let s := (s.put F.HST_LANE_STAT_FRAME_LOCK 0 h).modHst h fun t => { t with rx := {}, visits := 0 }
  let s := s.modWinch fun w => { w with track := Bank.put w.track (9 + h) false false }
  State.rsmCheck <| eachBelow 9 (fun n s =>
    match s.sources n with
    | [a] => if a = h then s.txFramingLost n false else s
    | [a, b] => if a = h then s.txFramingLost n false else if b = h then s.txFramingLost n true else s
    | _ => s) s

/-! ## Commands that wait for lanes -/

/-- Take lane n off the lists of the commands that wait as pick says, and finish those with none left. -/
def State.laneDone (s : State) (pick : Wait → Option (List Nat)) (put : List Nat → Wait) (n : Nat) : State :=
  let s := s.mapWaits fun w => match pick w with
    | some l => put (l.filter fun k => !(k = n))
    | none => w
  s.finishWhere (fun w => match pick w with | some l => l.isEmpty | none => false) .done

def State.cfgDone (s : State) (n : Nat) : State :=
  s.laneDone (fun w => match w with | .laneCfg l => some l | _ => none) .laneCfg n
def State.shapingDone (s : State) (n : Nat) : State :=
  s.laneDone (fun w => match w with | .shaping l => some l | _ => none) .shaping n
def State.patternDone (s : State) (n : Nat) : State :=
  s.laneDone (fun w => match w with | .pattern l => some l | _ => none) .pattern n
def State.eqDone (s : State) (n : Nat) : State :=
  s.laneDone (fun w => match w with | .eqPolicy l => some l | _ => none) .eqPolicy n
def State.hostEqDone (s : State) (n : Nat) : State :=
  s.laneDone (fun w => match w with | .hostEq l => some l | _ => none) .hostEq n

/-- Lane numbers of a mask of k bits in bits of a message word. -/
def maskLanes (k v : Nat) : List Nat := (List.range k).filter fun i => v / 2 ^ i % 2 = 1

end Sys2Proof.Machine
end

