-- ==== Sys2Proof/Machine/LineTx.lean ====
section
/-! DEFINITION. Sys2Proof/Machine/LineTx.lean: the line transmitter (R74 to R99): the sample arithmetic, shaping, the
spectral mask monitor, test patterns, calibration, the TX PLLs, and the two commands of the chapter. The boundary at
which its pending changes apply is in Machine/Boundary.lean. -/

namespace Sys2Proof.Machine

/-! ## Sample arithmetic (R77 to R81) -/

/-- Gray coding of a bit pair, first bit more significant: 00, 01, 11, 10 are levels 0, 1, 2, 3 (R77). -/
def grayLevel (b1 b0 : Bool) : Nat :=
  match b1, b0 with
  | false, false => 0 | false, true => 1 | true, true => 2 | true, false => 3

/-- Tap i of a set in the layout of LTX_FIR_TAPm: ten bits, eight of them fractional, in units of 1/256 (R80). -/
def firTap (taps : List Word) (i : Nat) : Int :=
  let w := taps.getD (i / 2) 0
  signed 10 (if i % 2 = 1 then bitsOf w 25 16 else bitsOf w 9 0)

/-- Pre-distortion entry i of a set in the layout of LTX_PD_ENTq. -/
def pdEntry (pd : List Word) (i : Nat) : Int := signed 8 (bitsOf (pd.getD (i / 4) 0) (8 * (i % 4) + 7) (8 * (i % 4)))

/-- Sum of the active taps, in 1/256: the DC gain of R88. -/
def firGain (taps : List Word) : Int := ((List.range 15).map (firTap taps)).sum

/-- Sum of the taps' magnitudes, in 1/256. -/
def firAbs (taps : List Word) : Int := ((List.range 15).map fun i => Int.ofNat (firTap taps i).natAbs).sum

/-- v of R79 for the symbol in the middle of the 29 symbols w, before the Lanyard adder: 127 y and the pre-distortion
entry, with the settings of that symbol; the raw code itself where SRC 6 sends one (R81). -/
def dacV (w : List TxSym) : Rat :=
  let c := w.getD 14 {}
  match c.raw with
  | some r => r
  | none =>
    let s := fun (j : Nat) => Int.ofNat (w.getD j {}).level
    let y := ((List.range 15).map fun i => firTap c.set.taps i * (2 * s (14 + c.set.main - i) - 3)).sum
    let e := (16 * s 13 + 4 * s 14 + s 15).toNat
    ((127 * y + (if c.set.pdEn then 768 * pdEntry c.set.pd e else 0) : Int) : Rat) / 768

/-- The DAC code of R79 from v, the Lanyard sample and POL_INV, and whether a clamp changed the value. -/
def dacCode (v lyd : Rat) (polInv : Bool) : Int × Bool :=
  let r := roundHalfEven (v + lyd).num (v + lyd).den
  let c := clamp (-128) 127 r
  let d := if polInv then clamp (-128) 127 (-c) else c
  (d, r != c || (polInv && -c != d))

/-- The settings that a symbol of lane n is sent with. -/
def State.txSet (s : State) (n : Nat) : TxSet :=
  { taps := (s.tx n).taps, pd := (s.tx n).pd, main := s.get F.LTX_SHAPE_STAT_MAIN_ACT n,
    pdEn := s.flag F.LTX_SHAPE_STAT_PD_EN_ACT n, inv := (s.tx n).mapAct / 2 % 2 = 1 }

/-! ## Codewords (R48, R75, R76) -/

/-- Syndrome of a word under the (128,120) extended Hamming code. -/
def syndrome (w : BitVec 128) : BitVec 8 :=
  (List.range 128).foldl (fun a i => if w.getLsbD i then a ^^^ Config.hammingCol i else a) 0

/-- The codeword of 120 payload bits (R75): the eight parity bits that follow them make the syndrome 0. -/
def hammingEncode (p : BitVec 128) : BitVec 128 :=
  let d := p &&& BitVec.ofNat 128 (2 ^ 120 - 1)
  match (List.range 256).find? fun q => syndrome (d ^^^ BitVec.ofNat 128 (q * 2 ^ 120)) = 0 with
  | some q => d ^^^ BitVec.ofNat 128 (q * 2 ^ 120)
  | none => d

/-- The 64 Gray levels of a codeword: each bit pair, the first bit in transmission order the more significant (R77). -/
def codeLevels (w : BitVec 128) : List Nat :=
  (List.range 64).map fun k => grayLevel (w.getLsbD (2 * k)) (w.getLsbD (2 * k + 1))

/-- The stream-B coset mask 0x5A on the last eight bits in transmission order, the most significant bit first; bit i
of the codeword is its i-th bit in transmission order. -/
def streamBMask : BitVec 128 := BitVec.ofNat 128 (((List.range 8).map fun i => 0x5A / 2 ^ (7 - i) % 2 * 2 ^ (120 + i)).sum)

/-- The bits that one injection flips: BITS of them from POS on, modulo 128. -/
def injectBits (bits pos : Nat) : BitVec 128 :=
  (List.range (min bits 16)).foldl (fun a i => a ^^^ BitVec.ofNat 128 (2 ^ ((pos + i) % 128))) 0

/-- The codeword cw as it is sent with BITS flipped bits from POS on, stream B under its mask (R76). -/
def injected (n : Line) (streamB : Bool) (cw : BitVec 128) (s : State) : BitVec 128 :=
  (if streamB && s.mode n = 3 then cw ^^^ streamBMask else cw)
    ^^^ injectBits (s.get F.LTX_ERR_INJ_BITS n) (s.get F.LTX_ERR_INJ_POS n)

/-- Injection is on and selects stream A or B of the lane, which carries that stream (R76). -/
def injects (n : Line) (streamB : Bool) (s : State) : Bool :=
  s.flag F.LTX_ERR_INJ_EN n && s.mode n != 0
    && (if streamB then s.get F.LTX_ERR_INJ_STREAM n ≠ 0 && s.mode n = 3 else s.get F.LTX_ERR_INJ_STREAM n ≠ 1)

/-- PERIOD codewords of the stream have passed since the last injection, so that the next one takes it (R76).
DESIGN CHOICE, log 131. -/
def injectTurn (n : Nat) (streamB : Bool) (s : State) : Bool :=
  s.get F.LTX_ERR_INJ_PERIOD n ≤ (if streamB then (s.tx n).injB else (s.tx n).injA)

/-- A codeword of the stream as the encoder gives it, in L100 a block of the host stream: stream B takes its mask, and
one in PERIOD + 1 its errors (R48, R76). -/
def txInject (n : Line) (streamB : Bool) (cw : BitVec 128) (s : State) : BitVec 128 × State :=
  let plain := if streamB && s.mode n = 3 then cw ^^^ streamBMask else cw
  if !injects n streamB s then (plain, s)
  else if injectTurn n streamB s then
    let out := injected n streamB cw s
    let s := s.modTx n fun t => if streamB then { t with sent := out, injB := 0 } else { t with sent := out, injA := 0 }
    (out, s.addSat F.LTX_ERR_INJ_CNT_COUNT 1 n)
  else (plain, s.modTx n fun t => if streamB then { t with injB := t.injB + 1 } else { t with injA := t.injA + 1 })

/-! ## Elastic buffer (R74) -/

/-- Deviation of a buffer's fill from its centre, as DEV_A and DEV_B show it. -/
def devShown (fill centre : Int) : Nat := unsigned 8 (clamp (-127) 127 (fill - centre))

/-- The buffer of a stream is centred where it stands: at a slip, and at the start of its stream's framing. -/
def bufferCentre (n : Nat) (streamB : Bool) (s : State) : State :=
  let s := s.modTx n fun t => if streamB then { t with centreB := t.fillB } else { t with centreA := t.fillA }
  s.put (if streamB then F.LTX_SLIP_STAT_DEV_B else F.LTX_SLIP_STAT_DEV_A) 0 n

/-- The buffer of a stream recentres, its framing is lost, on L8's copy too, and the output squelches (R74). -/
def bufferSlip (n : Nat) (streamB : Bool) (s : State) : State :=
  let s := (bufferCentre n streamB s).txFramingLost n streamB
  let s := if s.copied n then s.txFramingLost 8 streamB else s
  let s := (s.put F.LTX_SLIP_STAT_SLIP 1 n).addSat F.LTX_SLIP_STAT_COUNT 1 n
  (s.preClear n).squelch n true (s.tx n).sqPll

/-- The fill of a stream's buffer is now `fill` host UI: the deviation is shown, and beyond ±64 it is a slip. -/
def bufferFill (n : Nat) (streamB : Bool) (fill : Int) (s : State) : State :=
  let centre := if streamB then (s.tx n).centreB else (s.tx n).centreA
  let s := s.modTx n fun t => if streamB then { t with fillB := fill } else { t with fillA := fill }
  let s := s.put (if streamB then F.LTX_SLIP_STAT_DEV_B else F.LTX_SLIP_STAT_DEV_A) (devShown fill centre) n
  if 64 < (fill - centre).natAbs then bufferSlip n streamB s else s

/-- The fill of a stream's elastic buffer moves, to a slip where it passes ±64 host UI. -/
def execElasticBufferSlip (n : Line) (f : StreamFill) (s : State) : Host.Outcome State Fault Refusal :=
  if s.mode n = 0 || (f.streamB && s.mode n ≠ 3) then .next s else .next (bufferFill n f.streamB f.fill s)

/-! ## Shaping (R82, R83) -/

/-- APPLY: PEND, or REJ when MAIN is 15. -/
def shapeApply (n : Nat) (s : State) : State :=
  if s.get F.LTX_SHAPE_CTRL_MAIN n = 15 then s.put F.LTX_SHAPE_CTRL_REJ 1 n else s.put F.LTX_SHAPE_CTRL_PEND 1 n

/-- A write of LTX_SHAPE_CTRL. -/
def shapeCtrlWrite (n : Nat) (v : Word) (s : State) : State :=
  let s := s.writePlain R.LTX_SHAPE_CTRL v n
  if bitsOf v 0 0 = 1 && !s.flag F.LTX_SHAPE_CTRL_PEND n then shapeApply n s else s

/-- The shadow is copied to the active set (R82). DESIGN CHOICE, log 177. -/
def shapeCopy (n : Nat) (s : State) : State :=
  if s.flag F.LTX_SHAPE_CTRL_PEND n then
    let taps := (List.range 8).map fun m => s.word R.LTX_FIR_TAP n m
    let pd := (List.range 16).map fun q => s.word R.LTX_PD_ENT n q
    let s := s.modTx n fun t => { t with taps := taps, pd := pd, shadow := none }
    let s := (s.put F.LTX_SHAPE_STAT_MAIN_ACT (s.get F.LTX_SHAPE_CTRL_MAIN n) n).put F.LTX_SHAPE_STAT_PD_EN_ACT
      (s.get F.LTX_SHAPE_CTRL_PD_EN n) n
    (s.put F.LTX_SHAPE_STAT_APPLY_SEQ (s.get F.LTX_AM_SEQ_SEQ n) n).put F.LTX_SHAPE_CTRL_PEND 0 n
  else s

/-- The shadow of lane n, word for word, with LTX_SHAPE_CTRL for its PD_EN. -/
def State.shadow (s : State) (n : Nat) : List Word :=
  (List.range 8).map (fun m => s.word R.LTX_FIR_TAP n m) ++ (List.range 16).map (fun q => s.word R.LTX_PD_ENT n q)
    ++ [s.word R.LTX_SHAPE_CTRL n]

/-- A complete update of the shadow lands (R83): one that waits for the same boundary is taken back whole first. -/
def shadowBegin (n : Nat) (s : State) : State :=
  match (if s.flag F.LTX_SHAPE_CTRL_PEND n then (s.tx n).shadow else none) with
  | some ws =>
    let s := eachBelow 8 (fun m s => s.setWord R.LTX_FIR_TAP (ws.getD m 0) n m) s
    let s := eachBelow 16 (fun q s => s.setWord R.LTX_PD_ENT (ws.getD (8 + q) 0) n q) s
    s.put F.LTX_SHAPE_CTRL_PD_EN (bitsOf (ws.getD 24 0) 5 5) n
  | none => s.modTx n fun t => { t with shadow := some (s.shadow n) }

/-- Write the tap words of a set into the shadow, the bits above the two taps of each word dropped. -/
def shadowTaps (n : Nat) (ws : List Word) (s : State) : State :=
  eachBelow 8 (fun m s => s.writePlain R.LTX_FIR_TAP (ws.getD m 0) n m) s

/-- A direct register write of a shadow word is no part of an update that waits (R83). -/
def shadowWrite (n i : Nat) (s : State) : State :=
  s.modTx n fun t => { t with shadow := t.shadow.map fun ws => ws.set i ((s.shadow n).getD i 0) }

/-- Write 64 pre-distortion bytes into the shadow. -/
def shadowPd (n : Nat) (bs : List Byte) (s : State) : State :=
  eachBelow 16 (fun q s => s.setWord R.LTX_PD_ENT (BitVec.ofNat 32 (leVal ((bs.drop (4 * q)).take 4))) n q) s

/-- TX_SET_SHAPING command c prepares the shaping of lane n, which waits for its boundary; an earlier far-end request
still waiting is not applied at all (R83, R99). -/
def shapeLane (c : Cmd) (n : Nat) (s : State) : State :=
  let s := shadowBegin n s
  let s := if c.bits 2 16 16 = 1 then shadowTaps n ((List.range 8).map fun k => c.word (3 + k)) s else s
  let s := if c.bits 2 17 17 = 1 then shadowPd n (s.bytes (stagingBase c.m) 64) s else s
  let s := if c.bits 2 19 19 = 1 then s.put F.LTX_SHAPE_CTRL_PD_EN (c.bits 2 18 18) n else s
  let s := (s.put F.LTX_SHAPE_CTRL_MAIN (c.bits 2 27 24) n).put F.LTX_SHAPE_CTRL_PEND 1 n
  { s with lyd := s.lyd.set (Fin.ofNat 9 n) { s.lyd[Fin.ofNat 9 n] with waiting := none } }

/-- TX_SET_SHAPING (R99). -/
def execTxSetShaping (m : MBox) (s : State) : Host.Outcome State Fault Refusal :=
  .next (runCmd 0x25 m (fun c s =>
    let lanes := maskLanes 9 (c.bits 2 8 0)
    let ext := c.bits 2 17 17 = 1
    if c.bits 2 27 24 = 15 || c.extLen ≠ (if ext then 64 else 0) then s.finish c .badLength
    else if lanes.any fun n => !s.laneOn n then s.finish c .blockOff
    else
      let s := eachOf lanes (shapeLane c) s
      if lanes.isEmpty then s.finish c .done else s.await c (.shaping lanes)) s)

/-! ## Test patterns (R95 to R97, R99) -/

/-- A write of LTX_PAT_CTRL: a SRC outside the table makes the write ignored; a new source waits for the boundary.
DEDUCED, log 31. -/
def patCtrlWrite (n : Nat) (v : Word) (s : State) : State :=
  if bitsOf v 3 0 > 6 then s
  else
    let s := s.writePlain R.LTX_PAT_CTRL v n
    s.putB F.LTX_PAT_CTRL_PEND (s.get F.LTX_PAT_CTRL_SRC n ≠ (s.tx n).patSrc) n

/-- Pattern source src starts from its first symbol, over the range that the registers give now.
DESIGN CHOICE, log 132. -/
def patStart (n src : Nat) (s : State) : State :=
  let base := s.get F.LTX_PAT_BASE_OFFSET n
  let len := s.get F.LTX_PAT_LEN_LENGTH n
  (s.modTx n fun t => { t with
    patSrc := src, patPos := 0, lfsr := (Config.prbsSeed n).toNat, patBase := base, patLen := len }).lydLose n

/-- The stored range of lane n passes the 4 MiB region (R96). -/
def patBeyond (n : Nat) (s : State) : Bool := s.get F.LTX_PAT_BASE_OFFSET n + s.get F.LTX_PAT_LEN_LENGTH n > 0x10000

/-- A pending source change takes effect, or is refused (R96). DESIGN CHOICE, log 132. -/
def patApply (n : Nat) (s : State) : State :=
  if s.flag F.LTX_PAT_CTRL_PEND n then
    let src := s.get F.LTX_PAT_CTRL_SRC n
    let s := s.put F.LTX_PAT_CTRL_PEND 0 n
    if (src = 5 || src = 6) && patBeyond n s then
      (s.put F.LTX_PAT_CTRL_ERR 1 n).put F.LTX_PAT_CTRL_SRC (s.tx n).patSrc n
    else patStart n src s
  else s

/-- TX_LOAD_PATTERN command c gives lane n its pattern region and source; a source that is in use already starts anew
at the boundary (R95, R99). DESIGN CHOICE, log 133. -/
def patternLane (c : Cmd) (n : Nat) (s : State) : State :=
  let s := (s.put F.LTX_PAT_BASE_OFFSET (c.bits 3 21 0 / 64) n).put F.LTX_PAT_LEN_LENGTH (c.bits 4 22 0 / 64) n
  let s := patCtrlWrite n (BitVec.ofNat 32 (c.bits 2 19 16 + c.bits 2 30 30 * 2 ^ 8 + c.bits 2 29 24 * 2 ^ 16)) s
  if c.bits 2 19 16 ≤ 6 then s.put F.LTX_PAT_CTRL_PEND 1 n else s

/-- TX_LOAD_PATTERN names a range or a load place that is not whole blocks of 64 bytes within the 4 MiB of pattern memory
(R99): the range counts for the sources 5 and 6 that play it, the place where there is something to load.
DESIGN CHOICE, log 134. -/
def Cmd.patternBad (c : Cmd) : Bool :=
  let src := c.bits 2 19 16
  let off := c.bits 3 21 0
  let len := c.bits 4 22 0
  let load := c.bits 5 21 0
  c.extLen % 64 ≠ 0 || (c.extLen ≠ 0 && (load % 64 ≠ 0 || load + c.extLen > 0x400000))
    || ((src = 5 || src = 6) && (off % 64 ≠ 0 || len % 64 ≠ 0 || len < 64 || off + len > 0x400000))

/-- TX_LOAD_PATTERN (R99). An SRC outside the table of R95 changes no source. -/
def execTxLoadPattern (m : MBox) (s : State) : Host.Outcome State Fault Refusal :=
  .next (runCmd 0x2A m (fun c s =>
    let lanes := maskLanes 9 (c.bits 2 8 0)
    let load := c.bits 5 21 0
    if c.patternBad then s.finish c .badLength
    else if lanes.any fun n => !s.laneOn n then s.finish c .blockOff
    else
      let s := s.setBytes (0x81700000 + load) (s.bytes (stagingBase c.m) c.extLen)
      let s := eachOf lanes (patternLane c) s
      if lanes.isEmpty then s.finish c .done else s.await c (.pattern lanes)) s)

/-! ## Spectral mask monitor (R85 to R87) -/

/-- p of R85: round_half_even(-20 log10(pb / ptot)), saturating at 255: the first step whose upper edge the ratio
reaches, as no rational ratio lies on a tie. -/
def maskStep (pb ptot : Rat) : Nat :=
  ((List.range 255).find? fun p => ptot ^ 40 ≤ pb ^ 40 * 10 ^ (2 * p + 1)).getD 255

/-- The squared magnitude of FFT bin f of the 64 values xs under the Hann window (R85). DESIGN CHOICE, log 173. -/
def fftPower (xs : List Rat) (f : Nat) : Rat :=
  let part := fun (q : Nat) => ((List.range 64).map fun j =>
    Config.hann j * xs.getD j 0 * Config.cos64 ((f * j + q) % 64)).sum
  part 0 ^ 2 + part 48 ^ 2

/-- The monitor takes a block of 64 consecutive values of v, while its estimate wants one (R85). -/
def maskTake (n : Nat) (s : State) : State :=
  let xs := (s.tx n).vs.take 64
  let s := s.modTx n fun t => { t with vs := [] }
  if s.flag F.LTX_MASK_CTRL_EN n && xs.length = 64 && (s.tx n).maskBlocks < 2 ^ s.get F.LTX_MASK_CTRL_AVG n then
    s.modTx n fun t => { t with
      maskBlocks := t.maskBlocks + 1
      maskBins := (List.range 32).map fun b => t.maskBins.getD b 0 + fftPower xs (b + 1)
      maskPow := t.maskPow + (xs.map fun x => x * x).sum / 64 }
  else s

/-- The estimate in progress is discarded. -/
def maskClear (n : Nat) (s : State) : State := s.modTx n fun t => { t with maskBlocks := 0, maskBins := [], maskPow := 0 }

/-- p of monitor bin b over the blocks taken: a flat spectrum has 1/32 of the total power in each bin. Of no power at
all it is a free value. DEDUCED, log 135. DESIGN CHOICE, log 136. -/
def maskBin (n b : Nat) (s : State) : Nat × State :=
  let t := s.tx n
  if t.maskPow = 0 then let (w, s) := s.free 25; (w.toNat % 256, s)
  else (maskStep (t.maskBins.getD b 0 / (32 * ((List.range 64).map fun j => Config.hann j ^ 2).sum)) t.maskPow, s)

/-- p of all 32 bins. -/
def maskBinsOf (n : Nat) (s : State) : List Nat × State :=
  (List.range 32).foldl (fun a b => let (p, s) := maskBin n b a.2; (a.1 ++ [p], s)) ([], s)

/-- Byte b of a register quartet of LTX_MASK_LIMq or LTX_PSDq. -/
def maskByte (s : State) (r : RegD) (n b : Nat) : Nat := bitsOf (s.word r n (b / 4)) (8 * (b % 4) + 7) (8 * (b % 4))

/-- The spectrum p of an estimate is shown, with the bins beyond their limits, and the runs of estimates that each bin
has been beyond (R85, R86). -/
def maskResult (n : Line) (p : List Nat) (s : State) : State :=
  let beyond := (List.range 32).filter fun b => p.getD b 0 < maskByte s R.LTX_MASK_LIM n b
  let runs := (List.range 32).map fun b => if beyond.contains b then (s.tx n).maskRuns.getD b 0 + 1 else 0
  let s := eachBelow 8 (fun q s => s.setWord R.LTX_PSD (BitVec.ofNat 32
    ((List.range 4).map fun i => p.getD (4 * q + i) 0 * 2 ^ (8 * i)).sum) n q) s
  let s := s.setWord R.LTX_MASK_HITS (BitVec.ofNat 32 ((beyond.map fun b => 2 ^ b).sum)) n
  let s := (s.incWrap F.LTX_MASK_STAT_SEQ n).put F.LTX_MASK_STAT_VALID 1 n
  s.modTx n fun t => { t with maskRuns := runs }

/-- A bin that has been beyond its limit PERSIST times in a row is an excursion (R86). DEDUCED, log 29. -/
def maskJudge (n : Line) (s : State) : State :=
  match (List.range 32).find? fun b => max 1 (s.get F.LTX_MASK_CTRL_PERSIST n) ≤ (s.tx n).maskRuns.getD b 0 with
  | none => s
  | some b => ((s.put F.LTX_MASK_STAT_EXC 1 n).addSat F.LTX_MASK_STAT_EXC_COUNT 1 n).put F.LTX_MASK_STAT_FIRST_BIN b n

/-- The estimate of lane n has its 2^AVG blocks: its spectrum is shown and judged, and the next estimate begins. -/
def maskEstimate (n : Line) (s : State) : State :=
  if s.flag F.LTX_MASK_CTRL_EN n && 2 ^ s.get F.LTX_MASK_CTRL_AVG n ≤ (s.tx n).maskBlocks then
    let (p, s) := maskBinsOf n s
    maskClear n (maskJudge n (maskResult n p s))
  else s

/-- LTX_MASK_CTRL or a limit has been written, EN having been enBefore and nothing else changed where `same`: a change discards the estimate
in progress, and with it the runs of R86; VALID counts from the setting of EN. DESIGN CHOICE, log 30. -/
def maskChanged (n : Nat) (enBefore same : Bool) (s : State) : State :=
  if same then s
  else
    let s := (maskClear n s).modTx n fun t => { t with maskRuns := List.replicate 32 0 }
    if s.flag F.LTX_MASK_CTRL_EN n && !enBefore then s.put F.LTX_MASK_STAT_VALID 0 n else s

/-! ## Driver (R84, R89) -/

/-- A pending LTX_MAP_CFG and SWING take effect; a change of swing holds the driver at zero. -/
def driverApply (n : Nat) (s : State) : State :=
  let map := (s.word R.LTX_MAP_CFG n).toNat % 4
  let sw := s.get F.LTX_DRV_CFG_SWING n
  (s.modTx n fun t => { t with mapAct := map, swingAct := sw, swingHold := t.swingHold || t.swingAct != sw }).lydLose n

/-- At most 10 µs after a swing change the driver resumes. -/
def execDriverSwingResume (n : Line) (s : State) : Host.Outcome State Fault Refusal :=
  .next (s.modTx n fun t => { t with swingHold := false })

/-- A write of LTX_LYD_ADD: DEPTH outside 4 to 24 stores the nearer limit. -/
def lydAddWrite (n : Nat) (v : Word) (s : State) : State :=
  let s := s.writePlain R.LTX_LYD_ADD v n
  s.put F.LTX_LYD_ADD_DEPTH (max 4 (min 24 (s.get F.LTX_LYD_ADD_DEPTH n))) n

/-- Peak amplitude of the subcarrier in DAC LSBs (R88). -/
def State.lydPeak (s : State) (n : Nat) : Rat :=
  ((s.tx n).lydDepth : Rat) / 400 * 254 * ((firGain (s.tx n).taps : Rat) / 256) / 2

/-! ## Calibration (R98) -/

/-- Apply a calibration result of a kind, counted in LTX_CAL_STAT. The first result of a kind after a boot is the one
measured at boot (R98). DESIGN CHOICE, log 137. -/
def txCalApply (n : Nat) (r : Nat × Word) (s : State) : State :=
  let s := s.modTx n fun t => { t with
    cal := Bank.put t.cal r.1 r.2 0
    calBoot := if t.calKinds.contains r.1 then t.calBoot else Bank.put t.calBoot r.1 r.2 0
    calKinds := if t.calKinds.contains r.1 then t.calKinds else r.1 :: t.calKinds }
  (s.addSat F.LTX_CAL_STAT_UPDATES 1 n).put F.LTX_CAL_STAT_LAST_SEQ (s.get F.LTX_AM_SEQ_SEQ n) n

/-- Waiting results and a REVERT take effect at the boundary. -/
def txCalBoundary (n : Nat) (s : State) : State :=
  let s := (s.tx n).calPend.foldl (fun s r => txCalApply n r s) s
  s.modTx n fun t => { t with calPend := [], cal := if t.revert then t.calBoot else t.cal, revert := false }

/-- A background calibration produces a result: kind 0 DAC segments, 1 driver gain and offset, 2 timing skew, which
runs in ARMED only. A LIVE lane takes it at its TX AM boundary, another at once. -/
def execTxCalResult (n : Line) (kind : Fin 3) (v : Word) (s : State) : Host.Outcome State Fault Refusal :=
  let st := s.get F.OLC_STAT_STATE n
  let runs := if kind = 2 then st = 2 else 1 ≤ st && st ≤ 3
  if !runs || s.flag F.LTX_CAL_CTRL_FREEZE n then .next s
  else if st = 3 then .next (s.modTx n fun t => { t with calPend := t.calPend.filter (fun r => !(r.1 = kind.val)) ++ [(kind.val, v)] })
  else .next (txCalApply n (kind.val, v) s)

/-- A write of LTX_CAL_CTRL: FREEZE, which discards a result that waits, and REVERT for the next boundary. -/
def txCalCtrlWrite (n : Nat) (v : Word) (s : State) : State :=
  let s := s.writePlain R.LTX_CAL_CTRL v n
  let s := if s.flag F.LTX_CAL_CTRL_FREEZE n then s.modTx n fun t => { t with calPend := [] } else s
  if bitsOf v 1 1 = 1 then s.modTx n fun t => { t with revert := true } else s

/-! ## TX PLLs (R91 to R94) -/

/-- Squelch or release the lanes of PLL p for want of READY. -/
def pllSquelch (p : Nat) (on : Bool) (s : State) : State :=
  eachOf (pairLanes p) (fun n s => s.squelch n (s.tx n).sqFrame on) s

/-- A planned departure from lock for a band calibration (R93). -/
def pllRecal (p : Nat) (s : State) : State :=
  let s := s.modPll p fun t => { t with state := 2, ready := false, relock := false }
  pllSquelch p true s

/-- Event 2: band calibration complete. -/
def execTxPllBandCalComplete (p : Fin 5) (s : State) : Host.Outcome State Fault Refusal :=
  if (s.pll p).state = 1 || (s.pll p).state = 2 then
    .next (s.modPll p fun t => { t with state := 3, band := s.pllBand p, relock := false })
  else .next s

/-- An unplanned loss of lock: both lanes squelch, LOSS_COUNT counts, READY clears, and the PLL relocks. It can be lost in
HOLDOVER too. DEDUCED, log 138. -/
def execTxPllLockLoss (p : Fin 5) (s : State) : Host.Outcome State Fault Refusal :=
  if (s.pll p).state = 4 || (s.pll p).state = 5 then
    let was := (s.pll p).ready
    let s := s.modPll p fun t => { t with state := 3, ready := false, relock := was, long := false }
    let s := pllSquelch p true s
    .next (eachOf (pairLanes p) (fun n s => s.addSat F.LTX_PLL_STAT_LOSS_COUNT 1 n) s)
  else .next s

/-- In HOLDOVER the PLL moves to the lowest-numbered feeding host lane with signal and lock. -/
def execTxPllReferenceSwitch (p : Fin 5) (s : State) : Host.Outcome State Fault Refusal :=
  if (s.pll p).state = 5 then
    match s.pllBest p with
    | none => .next s
    | some h => .next (s.modPll p fun t => { t with state := 4, ref := h, long := false })
  else .next s

/-- HOLDOVER passes 1 ms: the frequency is no longer held, and a later relock takes up to 50 µs. -/
def execTxPllHoldoverExpiry (p : Fin 5) (s : State) : Host.Outcome State Fault Refusal :=
  if (s.pll p).state = 5 then .next (s.modPll p fun t => { t with long := true }) else .next s

/-- Lane n needs its PLL: it is in ARMED, LIVE or PROBE, or on its way from BIAS to ARMED (R91). -/
def State.needsPll (s : State) (n : Nat) : Bool :=
  2 ≤ s.get F.OLC_STAT_STATE n || (s.get F.OLC_STAT_STATE n = 1 && s.flag F.OLC_STAT_TRANS n && 2 ≤ s.get F.OLC_STAT_TARGET n)

/-- The PLL stops after neither lane of its pair needs it, and the datapath goes off with it (R382). -/
def execTxPllStop (p : Fin 5) (s : State) : Host.Outcome State Fault Refusal :=
  if (s.pll p).state = 0 || (pairLanes p).any s.needsPll then .next s
  else
    let s := s.modPll p fun _ => {}
    .next ((pllSquelch p false s).dropStep (.ltx p))

/-- The PLL a lane needs is started, unless it runs. DEDUCED, log 28. -/
def pllStart (p : Nat) (s : State) : State :=
  if (s.pll p).state = 0 then (pllSquelch p true s).wantStep (.ltx p) else s

end Sys2Proof.Machine
end

