-- ==== Sys2Proof/Machine/LydCore.lean ====
section
/-! DEFINITION. Sys2Proof/Machine/LydCore.lean: Lanyard frames in their queues (R209 to R212), loss of PHY_LOCK and of
the decimation chain (R205, R208), and the end of a protection agreement without a switch (R67, R224), which the loss
of a lock can cause. -/

namespace Sys2Proof.Machine

/-- The Lanyard of lane n is transmitted (R197). -/
def State.lydTxOn (s : State) (n : Nat) : Bool := s.flag F.LYD_CTRL_TX_EN n && s.modulated n

/-- Priority of a frame type: PROTECT, TXADJ, TIME, HELLO, TELEMETRY, USER (R211). -/
def lydPriority (t : Nat) : Nat :=
  match t with
  | 5 => 0 | 3 => 1 | 4 => 2 | 1 => 3 | 2 => 4 | _ => 5

/-- Queue a frame on lane n, behind those of its priority. -/
def State.lydQueue (s : State) (n type : Nat) (content : List Byte) : State :=
  s.modLyd n fun l => { l with
    queue := (l.queue.filter fun f => lydPriority f.type ≤ lydPriority type) ++ [⟨type, content⟩]
      ++ (l.queue.filter fun f => lydPriority f.type > lydPriority type) }

/-! ## Agreements (R65 to R68, R222 to R224) -/

/-- Stages of LYD_AGREE_STAT: an agreement is open while it is proposed, accepted or confirmed. -/
def State.agreeOpen (s : State) : Bool := 1 ≤ s.get F.LYD_AGREE_STAT_STAGE && s.get F.LYD_AGREE_STAT_STAGE ≤ 3

/-- A PROTECT frame's content (R222). -/
def protectContent (op id action lane k reason : Nat) : List Byte :=
  [op, id, action, lane, k / 256, k, reason, 0].map (BitVec.ofNat 8)

/-- Send a PROTECT frame of the open agreement. -/
def State.sendProtect (s : State) (op k reason : Nat) : State :=
  s.lydQueue (s.get F.LYD_AGREE_STAT_VIA) 5 (protectContent op (s.get F.LYD_AGREE_STAT_AGREE_ID)
    (if s.lanes.prot.revert then 3 else 2) (s.get F.LYD_AGREE_STAT_LANE) k reason)

/-- Event 0x77 PROTECT_RESULT with its REASON in the low byte; the spec does not lay out the outcome's bits.
DESIGN CHOICE, log 25. -/
def State.postProtectResult (s : State) (reason : Nat) : State :=
  let (w, s) := s.free 3
  s.post 0x77 (s.get F.LYD_AGREE_STAT_LANE) (reason % 256 + 256 * (w.toNat % 2 ^ 24))

/-- This end abandons the open agreement, or learns that the other end has: the initiator's CAUSE reads 0x7, the responder
posts PROTECT_RESULT, and a LANE_PROTECT that waits, be it one withdrawn under R68, completes with TIMED_OUT. -/
def State.abandon (s : State) (reason : Nat) (send : Bool) : State :=
  if s.agreeOpen then
    let role := s.get F.LYD_AGREE_STAT_ROLE
    let s := if send && s.lydTxOn (s.get F.LYD_AGREE_STAT_VIA) then s.sendProtect 4 0 reason else s
    let s := (s.put F.LYD_AGREE_STAT_STAGE 5).put F.LYD_AGREE_STAT_REASON reason
    let s := if role = 1 then s.put F.LRX_PROT_STAT_CAUSE 7 else s.postProtectResult reason
    let s := s.modProt fun p => { p with fomLow := 0 }
    s.finishWhere (fun w => w = .protect 2 || w = .protect 3) .timedOut
  else s

/-- Rigger stops before the final point of the open agreement, which ends as one whose Lanyard is lost (R224). -/
def State.agreeHalt (s : State) : State :=
  if s.agreeOpen then
    let s := if s.get F.LYD_AGREE_STAT_ROLE = 1 then s.put F.LRX_PROT_STAT_CAUSE 7 else s
    ((s.put F.LYD_AGREE_STAT_STAGE 5).put F.LYD_AGREE_STAT_REASON 7).modProt fun p => { p with fomLow := 0 }
  else s

/-- The Lanyard that carries the open agreement is lost (R67): the initiator abandons unless it has confirmed, the
responder unless it has the confirmation. -/
def State.agreeLinkLost (s : State) (n : Nat) : State :=
  if s.agreeOpen && s.get F.LYD_AGREE_STAT_VIA = n && s.get F.LYD_AGREE_STAT_STAGE ≠ 3 then s.abandon 7 true else s

/-! ## The physical layer's locks -/

/-- PHY_LOCK of lane n is lost, and frame delimiting with it (R208, R210). -/
def State.phyLost (s : State) (n : Nat) : State :=
  let was := s.flag F.LYD_PHY_STAT_PHY_LOCK n
  let s := ((s.put F.LYD_PHY_STAT_PHY_LOCK 0 n).put F.LYD_PHY_STAT_SYNC_ST 0 n).modLyd n fun l =>
    { l with good := 0, bad := 0, badHeaders := 0 }
  if was then (s.put F.LYD_PHY_STAT_LOCK_LOST 1 n).agreeLinkLost n else s

/-- The decimation chain of lane n restarts with cleared memories (R205). -/
def State.chainRestart (s : State) (n : Nat) : State :=
  ((s.phyLost n).put F.LYD_PHY_STAT_SETTLED 0 n).modLyd n fun l => { l with dc := 0, chain := {}, vit := {} }

end Sys2Proof.Machine
end

