-- ==== Sys2Proof/Machine/TxPath.lean ====
section
/-! DEFINITION. Sys2Proof/Machine/TxPath.lean: the samples of a line transmitter: the Lanyard's symbols and subcarrier
(R198 to R200), the test-pattern generator (R95, R96), codewords in their slots (R47, R75, R76), symbols through the FIR
to DAC codes (R77 to R81), L8's copy of them (R14, R97), and the blocks that the mask monitor takes (R85). -/

namespace Sys2Proof.Machine

/-! ## The Lanyard's coded bits and symbols (R199, R200) -/

/-- The two coded bits of an information bit after the last six (171 and 133 octal, the newest bit first). -/
def lydCode (st : BitVec 6) (b : Bool) : Bool × Bool :=
  let g := fun (mask : BitVec 6) => (List.range 6).foldl (fun a i => a ^^ (mask.getLsbD i && st.getLsbD i)) b
  -- st bit 5 is the bit before this one: 171 = 1 111001, 133 = 1 011011
  (g 0b111001#6, g 0b011011#6)

/-- The encoder's state after a bit. -/
def lydShift (st : BitVec 6) (b : Bool) : BitVec 6 := BitVec.ofNat 6 (st.toNat / 2 + (if b then 32 else 0))

/-- Bits of bytes, the most significant bit of each first. -/
def bitsMsb (bs : List Byte) : List Bool := bs.flatMap fun b => (List.range 8).map fun i => b.getLsbD (7 - i)

/-- A symbol takes its place in the block of 32: 1 or -1, the ten latest are kept. -/
def lydPush (a : Int) (l : Lyd) : Lyd := { l with syms := (a :: l.syms).take 10, slot := (l.slot + 1) % 32 }

/-- The next symbol (R199): the pilot in place 0, else the next coded bit, 0 as 1 and 1 as -1. A frame whose bits are all
encoded gives none. -/
def lydNext (l : Lyd) : Lyd :=
  if l.slot = 0 then lydPush 1 l
  else match l.coded with
    | b :: rest => lydPush (if b then -1 else 1) { l with coded := rest }
    | [] => match (bitsMsb l.cur)[l.bit]? with
      | none => l
      | some b =>
        let (x, y) := lydCode l.encoder b
        lydPush (if x then -1 else 1) { l with coded := [y], encoder := lydShift l.encoder b, bit := l.bit + 1 }

/-- The symbols that are left of the frame being sent. -/
def lydRest (n : Nat) (s : State) : State :=
  s.modLyd n fun l => (List.range (24 * l.cur.length)).foldl (fun l _ => lydNext l) l

/-! ## The subcarrier (R198) -/

/-- The envelope at sample i of the generator's sixteen between two symbols: the pulses of the ten latest symbols, five
symbols behind the newest one, of which none reaches further than four symbols. DESIGN CHOICE, log 173. -/
def lydEnv (syms : List Int) (i : Nat) : Rat :=
  ((List.range 10).map fun j =>
    let x : Int := 16 * Int.ofNat j + Int.ofNat i - 80
    if x.natAbs ≤ 64 then (syms.getD j 0 : Rat) * Config.rrc x else 0).sum

/-- Sample i of the generator, for a peak of 1: the carrier makes five turns in two symbols. -/
def lydGen (l : Lyd) (i : Nat) : Rat := lydEnv l.syms i * Config.carrier ((16 * (l.slot % 2) + i) % 32)

/-- DAC symbols in 0.1 µs, the time from one sample of the generator to the next, in each line mode (R35). -/
def symbolsPerSample (mode : Nat) : Rat :=
  match mode with
  | 3 => 68000 / 3
  | 2 => 34000 / 3
  | _ => 10625 / 2

/-- The Lanyard sample of the next symbol of lane n in DAC LSBs: the generator's samples at 10 MS/s, interpolated
linearly, at the peak of R88. -/
def State.lydSample (s : State) (n : Nat) : Rat :=
  if (s.tx n).lydEn then
    let x := ((s.tx n).lydT : Rat) / symbolsPerSample (s.mode n)
    let i := min 15 x.floor.toNat
    let f := x - i
    s.lydPeak n * ((1 - f) * lydGen (s.lydOf n) i + f * lydGen (s.lydOf n) (i + 1))
  else 0

/-! ## Test patterns (R95, R96) -/

/-- The next bit of PRBS13, 1 + x + x^2 + x^12 + x^13; bit i of r is the bit i + 1 places before.
PRESUMED, log 139. -/
def prbs13 (r : Nat) : Bool × Nat :=
  let b := (r.testBit 0 != r.testBit 1) != (r.testBit 11 != r.testBit 12)
  (b, (2 * r + b.toNat) % 2 ^ 31)

/-- The next bit of PRBS31, 1 + x^28 + x^31, which leaves inverted. PRESUMED, log 139. -/
def prbs31 (r : Nat) : Bool × Nat :=
  let b := r.testBit 27 != r.testBit 30
  (!b, (2 * r + b.toNat) % 2 ^ 31)

/-- A Gray-coded level of two bits of a PRBS, the first the more significant. -/
def prbsLevel (f : Nat → Bool × Nat) (r : Nat) : Nat × Nat :=
  let (b1, r) := f r
  let (b0, r) := f r
  (grayLevel b1 b0, r)

/-- SQ_HALF symbols at level 3, then SQ_HALF at level 0; 0 acts as 1, and 33 to 63 as 32. -/
def squareLevel (half i : Nat) : Nat := if i / max 1 (min 32 half) % 2 = 0 then 3 else 0

/-- Byte i of the stored range, which repeats without a gap; a range of no blocks acts as one. -/
def patByte (s : State) (n i : Nat) : Nat :=
  let t := s.tx n
  (s.byte (0x81700000 + t.patBase * 64 + i % (max 1 t.patLen * 64))).toNat

/-- What stage 4 passes on: a level, whether it is traffic, and the raw code that replaces it at stage 9. -/
structure TxIn where
  level : Nat
  traffic : Bool := true
  raw : Option Int := none

/-- The multiplexer of lane n (R95): the next symbol of the pattern source, or traffic g. SRC 6 sends stored codes while
traffic goes on underneath. DESIGN CHOICE, log 140. -/
def txMux (n : Nat) (g : Nat) (s : State) : TxIn × State :=
  let t := s.tx n
  let inv := fun (l : Nat) => if s.flag F.LTX_PAT_CTRL_INVERT n then 3 - l else l
  let adv := s.modTx n fun t => { t with patPos := t.patPos + 1 }
  match t.patSrc with
  | 0 => ({ level := g }, s)
  | 1 =>
    let (l, r) := prbsLevel prbs13 t.lfsr
    ({ level := inv l, traffic := false }, adv.modTx n fun t => { t with lfsr := r })
  | 2 =>
    let (l, r) := prbsLevel prbs31 t.lfsr
    ({ level := inv l, traffic := false }, adv.modTx n fun t => { t with lfsr := r })
  | 3 => ({ level := inv (Config.ssprq (t.patPos % 65535)).toNat, traffic := false }, adv)
  | 4 => ({ level := inv (squareLevel (s.get F.LTX_PAT_CTRL_SQ_HALF n) t.patPos), traffic := false }, adv)
  | 5 => ({ level := inv (patByte s n (t.patPos / 4) / 4 ^ (t.patPos % 4) % 4), traffic := false }, adv)
  | _ => ({ level := g, raw := some (signed 8 (patByte s n t.patPos)) }, adv)

/-! ## Symbols to DAC codes (R77 to R81) -/

/-- A symbol enters stage 5 of lane n, precoded if it is traffic and PRECODE is set, and the one with its whole context
behind it is converted: its v, its code, and a clip that counts. -/
def txSymbol (n : Nat) (x : TxIn) (s : State) : State :=
  let t := s.tx n
  let pre := x.traffic && t.mapAct % 2 = 1
  let lv := if pre then (x.level + 4 - t.pre) % 4 else x.level
  let w := t.tail ++ [{ level := lv, raw := x.raw, lyd := s.lydSample n, set := s.txSet n }]
  let c := w.getD 14 {}
  let v := dacV w
  let (code, clip) := match c.raw with
    | some r => (r, false)
    | none => dacCode v c.lyd c.set.inv
  let s := s.modTx n fun t => { t with
    pre := if pre then lv else t.pre, tail := w.drop 1, out := t.out ++ [code], vs := t.vs ++ [v], lydT := t.lydT + 1 }
  if clip then (s.addSat F.LTX_CLIP_CNT_COUNT 1 n).perf (0xA0 + n) 1 else s

/-- One symbol of lane n with traffic level g, and its copy on L8: L8 copies what the multiplexer of the lane gives,
unless its own source is a pattern (R78, R97). -/
def txLevel (n : Nat) (g : Nat) (s : State) : State :=
  let (x, s) := txMux n g s
  let s := txSymbol n x s
  if s.copied n then
    if (s.tx 8).patSrc = 0 then txSymbol 8 x s
    else let (y, s) := txMux 8 x.level s; txSymbol 8 y s
  else s

/-! ## Codewords in their slots (R47, R48, R75, R76) -/

/-- A block of a stream of lane n is encoded, injected, mapped and sent: 120 payload bits make a codeword, and in L100
the 128 bits go as they are. What IEEE 802.3dj does before the encoder has been done. DEDUCED, log 141. -/
def txBlock (n : Line) (streamB : Bool) (p : BitVec 128) (s : State) : State :=
  let cw := if s.mode n = 1 then p else hammingEncode p
  let (w, s) := txInject n streamB cw s
  eachOf (codeLevels w) (fun g s => txLevel n g s) s

/-- Blocks leave in slot order A0, B0, A1, B1, as long as the stream of the next slot has one; a lane of one stream
sends it in every slot (R47). -/
def txSlots (fuel : Nat) (n : Line) (s : State) : State :=
  match fuel with
  | 0 => s
  | fuel + 1 =>
    let b := s.mode n = 3 && (s.tx n).slotB
    match (if b then (s.tx n).qb else (s.tx n).qa) with
    | [] => s
    | p :: rest =>
      let s := s.modTx n fun t =>
        if b then { t with qb := rest, slotB := false } else { t with qa := rest, slotB := true }
      txSlots fuel n (txBlock n b p s)

/-- A media input loop-back takes lane n's transmit input from its receiver (R189). -/
def State.looped (s : State) (n : Nat) : Bool :=
  s.laneLoop n = some 2

/-- What the host streams of lane n bring in one interval of the mask monitor, 256 core cycles: blocks of stream A, or
of the only stream, and of stream B. In a media input loop-back the released decisions are sent instead. L8 has no
input of its own. -/
def txInterval (n : Line) (x : List (BitVec 128) × List (BitVec 128)) (s : State) : State :=
  if n = 8 || s.mode n = 0 then s
  else
    let s := s.modTx n fun t =>
      if s.looped n then { t with qa := t.qa ++ t.loopA, qb := t.qb ++ t.loopB, loopA := [], loopB := [] }
      else { t with qa := t.qa ++ x.1, qb := t.qb ++ x.2 }
    let s := txSlots ((s.tx n).qa.length + (s.tx n).qb.length) n s
    let s := maskTake n s
    if s.copied n then maskTake 8 s else s

/-- What lane n sends since the last command that said so, interval by interval. DESIGN CHOICE, log 142. -/
def txData (n : Line) (data : TxData) (s : State) : State :=
  let s := s.modTx n fun t => { t with out := [] }
  let s := if s.copied n then s.modTx 8 fun t => { t with out := [] } else s
  data.foldl (fun s x => txInterval n x s) s

/-! ## Commands -/

/-- The codeword of a selected stream whose turn it is takes its errors and is sent (R76). -/
def execErrorInjection (n : Line) (streamB : Bool) (block : BitVec 128) (s : State) : Host.Outcome State Fault Refusal :=
  if injects n streamB s && injectTurn n streamB s then .next (txBlock n streamB block s) else .next s

/-- An estimate of 2^AVG blocks ends, with what the lane has sent since the last command that said so. -/
def execMaskEstimateEnd (n : Line) (a b : List (List (BitVec 128))) (s : State) : Host.Outcome State Fault Refusal :=
  .next (maskEstimate n (txData n (txOf a b) s))

/-- A Lanyard symbol boundary: DEPTH and EN of the subcarrier take effect (R88), and the next symbol begins (R199). -/
def lydBoundary (n : Nat) (s : State) : State :=
  let next := s.modTx n fun t => { t with
    lydEn := s.flag F.LTX_LYD_ADD_EN n, lydDepth := s.get F.LTX_LYD_ADD_DEPTH n, lydT := 0 }
  if s.flag F.LYD_CTRL_TX_EN n then next.modLyd n lydNext else next

/-- 1.6 µs have passed, in which lane n sent the data given. -/
def execLanyardSymbolBoundary (d : LaneTx) (s : State) : Host.Outcome State Fault Refusal :=
  .next (lydBoundary d.lane (txData d.lane d.data s))

end Sys2Proof.Machine
end

