-- ==== Sys2Proof/Machine/RxPath.lean ====
section
/-! DEFINITION. Sys2Proof/Machine/RxPath.lean: the samples of a line receiver: the feed-forward equaliser (R108), the
Lanyard's decimation chain and the subtraction of its stage-1 estimate (R201 to R207), timing recovery (R111), the pattern
checkers (R127, R169) and ADC capture (R128); and the equaliser of a host receiver (R158). -/

namespace Sys2Proof.Machine

/-! ## Equaliser sets in force (R108, R112, R158) -/

/-- Start values of a line receiver, and of a host receiver. -/
def eqStart : EqSet :=
  { taps := (List.range 48).map fun i => if i = 12 then 1024 else 0, main := 12,
    refs := (List.range 64).map fun c => match c % 4 with | 0 => -64 | 1 => -21 | 2 => 21 | _ => 64 }
def eqStartHost : EqSet :=
  { taps := (List.range 32).map fun i => if i = 8 then 1024 else 0, main := 8, refs := [0] }

/-- Signed entry i of registers that hold per words of w bits at a spacing of p bits each. -/
def packed (s : State) (r : RegD) (n per w p i : Nat) : Int :=
  signed w (bitsOf (s.word r n (i / per)) (p * (i % per) + w - 1) (p * (i % per)))

/-- The active set of line receiver n: what LRX_FFE_TAPm, LRX_EQ_CTRL.MAIN and LRX_MLSE_REFq read. -/
def State.eqActive (s : State) (n : Nat) : EqSet :=
  { taps := (List.range 48).map (packed s R.LRX_FFE_TAP n 2 12 16), main := s.get F.LRX_EQ_CTRL_MAIN n,
    refs := (List.range 64).map (packed s R.LRX_MLSE_REF n 4 8 8) }

/-- The active set of host receiver h. -/
def State.eqActiveHost (s : State) (h : Nat) : EqSet :=
  { taps := (List.range 32).map (packed s R.HST_FFE_TAP h 2 12 16), main := s.get F.HST_RX_CTRL_MAIN h,
    refs := [s.geti F.HST_DFE_D h] }

/-! ## Feed-forward equaliser (R108, R158) -/

/-- Level of symbol c: -1, -1/3, +1/3, +1. -/
def levelOf (c : Nat) : Rat := (2 * (c : Rat) - 3) / 3

/-- An ADC code as a number. -/
def codeOf (a : BitVec 8) : Int := signed 8 a.toNat

/-- The taps' weighted sum of the codes of a window, the newest code first. -/
def tapSum (taps : List Int) (window : List (BitVec 8)) : Int := (List.zipWith (fun c a => c * codeOf a) taps window).sum

/-- The FFE output of a window in 1/1,024, within ±4.0; which way the bits below are rounded depends on the sum alone.
DESIGN CHOICE, log 154. -/
def ffeOut (taps : List Int) (window : List (BitVec 8)) : Int :=
  let x := tapSum taps window
  clamp (-4096) 4096 (x / 128 + (if x % 128 ≠ 0 && (Config.freeOf 26 [x]).getLsbD 0 then 1 else 0))

/-- The outputs of the windows of k codes that end at each code of `new`, after the codes of `line`, the newest first. -/
def ffeRun (taps : List Int) (line new : List (BitVec 8)) : List Int :=
  match new with
  | [] => []
  | a :: t => ffeOut taps (a :: line) :: ffeRun taps ((a :: line).take (taps.length - 1)) t

/-- The level nearest to y; between two of them it is either. DESIGN CHOICE, log 154. -/
def sliceLevel (y : Rat) : Nat :=
  let above := fun (t : Rat) => t < y || (t = y && (Config.freeOf 28 [y.num, y.den]).getLsbD 0)
  if above (2 / 3) then 3 else if above 0 then 2 else if above (-2 / 3) then 1 else 0

/-- y of a host receiver (R158): taps in 1/1,024, codes in 1/64, d in 1/256, and the level decided before. -/
def hostY (taps : List Int) (d : Int) (dfe : Bool) (window : List (BitVec 8)) (prev : Nat) : Rat :=
  let x := (List.zipWith (fun c a => c * signed 7 a.toNat) taps window).sum
  (x : Rat) / 65536 - (if dfe then (d : Rat) / 256 * levelOf prev else 0)

/-! ## The Lanyard's decimation chain (R201 to R207) -/

/-- R of the CIC in each line mode; an unassigned lane decimates as L100. -/
def cicRatio (mode : Nat) : Nat :=
  match mode with
  | 3 => 4096
  | 2 => 2048
  | _ => 1024

/-- A value passes the integrators, each of which adds what the one before holds. -/
def cicInteg (v : Nat) : List Nat → List Nat
  | [] => []
  | i :: t => let x := (i + v) % 2 ^ 75; x :: cicInteg x t

/-- A value passes the combs, each of which subtracts the value before: their new contents, and the output. -/
def cicComb (v : Nat) : List Nat → List Nat × Nat
  | [] => ([], v)
  | c :: t => let r := cicComb ((v + 2 ^ 75 - c) % 2 ^ 75) t; (v :: r.1, r.2)

/-- A stage output (R202): rounded half-even to 17 fractional bits, within 20 bits. -/
def stageOut (num den : Int) : Int := clamp (-524288) 524287 (roundHalfEven num den)

/-- Coefficient i of a half-band filter of len taps: 1/2 in the centre, and side coefficients at odd distances.
DESIGN CHOICE, log 173. -/
def halfBandTap (k len i : Nat) : Rat :=
  let d := (Int.ofNat i - Int.ofNat (len / 2)).natAbs
  if d = 0 then 1 / 2 else if d % 2 = 1 then Config.halfBand k (d / 2) else 0

/-- Output of half-band filter k of len taps over its memory. -/
def halfBandOut (k len : Nat) (mem : List Int) : Int :=
  let y := ((List.range len).map fun i => halfBandTap k len i * (mem.getD i 0 : Rat)).sum
  stageOut y.num y.den

/-- Coefficient h[i] of lane n's channel FIR (R204): h[62 - i] = h[i]. -/
def firCoef (s : State) (n i : Nat) : Int :=
  let j := min i (62 - i)
  signed 16 (bitsOf (s.word R.LYD_FIR n (j / 2)) (16 * (j % 2) + 15) (16 * (j % 2)))

/-- Output of lane n's channel FIR over its memory; coefficients have 15 fractional bits. -/
def firOut (s : State) (n : Nat) (mem : List Int) : Int :=
  stageOut ((List.range 63).map fun i => firCoef s n i * mem.getD i 0).sum 32768

/-- Stage 5 (R206): the next output, and the estimate, which moves by 2^-K of what it is off, its bits below 24 rounded
either way. DESIGN CHOICE, log 50. -/
def dcBlock (n : Nat) (x : Int) (s : State) : Int × State :=
  let m := (s.lydOf n).dc
  let y := stageOut (x * 128 - m) 128
  if s.flag F.LYD_CTRL_DCB_FREEZE n then (y, s)
  else
    let (d, s) := s.freeRound 7 (x * 128 - m) (2 ^ max 8 (s.get F.LYD_CTRL_DCB_K n))
    (y, s.modLyd n fun l => { l with dc := m + d })

def State.modChain (s : State) (n : Nat) (f : Chain → Chain) : State := s.modLyd n fun l => { l with chain := f l.chain }

/-- A value leaves stage 4: it passes the DC block and is delivered; from the 40th output on the chain is settled
(R205). -/
def chainDeliver (n : Nat) (x : Int) (s : State) : State :=
  let (y, s) := dcBlock n x s
  let s := s.modChain n fun c => { c with out := c.out ++ [y], count := min 40 (c.count + 1) }
  if (s.lydOf n).chain.count = 40 then s.put F.LYD_PHY_STAT_SETTLED 1 n else s

/-- A value enters the channel FIR, which delivers every second output. -/
def chainFir (n : Nat) (x : Int) (s : State) : State :=
  let odd := (s.lydOf n).chain.firOdd
  let s := s.modChain n fun c => { c with fir := (x :: c.fir).take 63, firOdd := !odd }
  if odd then chainDeliver n (firOut s n (s.lydOf n).chain.fir) s else s

/-- A value enters HB2. -/
def chainHb2 (n : Nat) (x : Int) (s : State) : State :=
  let odd := (s.lydOf n).chain.hb2Odd
  let s := s.modChain n fun c => { c with hb2 := (x :: c.hb2).take 19, hb2Odd := !odd }
  if odd then chainFir n (halfBandOut 2 19 (s.lydOf n).chain.hb2) s else s

/-- A stage-1 output is kept for the subtraction of R207, and enters HB1. -/
def chainHb1 (n : Nat) (x : Int) (s : State) : State :=
  let odd := (s.lydOf n).chain.hb1Odd
  let s := s.modChain n fun c => { c with est := (x :: c.est).take 12, hb1 := (x :: c.hb1).take 11, hb1Odd := !odd }
  if odd then chainHb2 n (halfBandOut 1 11 (s.lydOf n).chain.hb1) s else s

/-- The chain of lane n takes a z of the FFE, in 1/1,024: the CIC's sum, scaled by R^-5, leaves it every R symbols. -/
def chainStep (n : Nat) (z : Int) (s : State) : State :=
  let r := cicRatio (s.mode n)
  let integ := cicInteg (unsigned 75 z) (s.lydOf n).chain.integ
  if (s.lydOf n).chain.phase + 1 < r then s.modChain n fun c => { c with integ := integ, phase := c.phase + 1 }
  else
    let (comb, v) := cicComb (integ.getLastD 0) (s.lydOf n).chain.comb
    let s := s.modChain n fun c => { c with integ := integ, comb := comb, phase := 0 }
    chainHb1 n (stageOut (signed 75 v * 128) ((r : Int) ^ 5)) s

/-- The chain of lane n runs (R205). -/
def State.chainRuns (s : State) (n : Nat) : Bool := s.flag F.LYD_CTRL_RX_EN n && s.powered (.lrx n)

/-- The stage-1 estimate at half a symbol beyond `off` symbols after the moment of the oldest output of est, which are r
symbols apart: between two outputs it goes on a straight line (R207). -/
def lydEst (est : List Int) (r off : Nat) : Rat :=
  let e := fun (i : Nat) => (est.reverse.getD i 0 : Rat)
  let i := off / r
  (e i + (e (i + 1) - e i) * ((2 * (off % r) + 1 : Nat) : Rat) / (2 * r : Nat)) / 131072

/-- Symbols for which z waits, until the stage-1 output after it has come: the CIC's delay and one output more. -/
def alignDelay (r : Nat) : Nat := r + (5 * (r - 1) + 1) / 2

/-- z as the MLSE sees it, where the symbol stands `off` symbols after the oldest stage-1 output kept. -/
def zLess (est : List Int) (r off : Nat) (z : Int) : Rat := (z : Rat) / 1024 - lydEst est r off

/-! ## Timing recovery (R111) -/

/-- Lane n's timing loop runs: elsewhere it holds its last frequency (R125). -/
def timingRuns (s : State) (n : Nat) : Bool := !s.flag F.LRX_LOS_STAT_LOS n && !s.flag F.LRX_LOS_STAT_LOL n

/-- A symbol with its decision passes the Mueller-Müller phase detector and the second-order loop. The offset stays within
±200 ppm. DEDUCED, log 155. -/
def timingStep (n : Nat) (z : Rat) (level : Nat) (am : Option Nat) (s : State) : State :=
  let t := s.rx n
  let ref := if s.flag F.LRX_TR_CTRL_AM_AID n && s.rxFramed n then am.getD level else level
  let bw := s.get F.LRX_TR_CTRL_BW n
  let pd := z * levelOf t.trRef - t.trZ * levelOf ref
  let f := max (-20000) (min 20000 (t.trFreq + Config.loopFreq bw * pd))
  let s := s.modRx n fun t => { t with
    trFreq := f, trPhase := t.trPhase + f / 100000000 + Config.loopPhase bw * pd, trZ := z, trRef := ref }
  let (q, s) := s.freeRound 27 f.num f.den
  s.put F.LRX_TR_STAT_FREQ (unsigned 16 q) n

/-- The place of the phase rotator, in UI: the loop's phase and the static offset in force, PH_OFFS steps of 1/128. -/
def State.rotator (s : State) (n : Nat) : Rat := (s.rx n).trPhase + (signed 8 (s.rx n).phAct : Rat) / 128

/-! ## Pattern checkers (R127, R169) -/

/-- The Gray-demapped bits of a level. -/
def grayBits (l : Nat) : Bool × Bool := (decide (2 ≤ l), decide (l = 1 ∨ l = 2))

/-- The two bits of a level enter the register of a PRBS; inv says that the PRBS leaves inverted. -/
def prbsFeed (inv : Bool) (l reg : Nat) : Nat :=
  let (a, b) := grayBits l
  (4 * reg + 2 * (a != inv).toNat + (b != inv).toNat) % 2 ^ 31

/-- Level i of SSPRQ (source 3) or of the square wave, and the length of the sequence. -/
def seqLevel (src half i : Nat) : Nat := if src = 3 then (Config.ssprq (i % 65535)).toNat else squareLevel half i
def seqPeriod (src half : Nat) : Nat := if src = 3 then 65535 else 2 * max 1 (min 32 half)

/-- The place after the latest 64 levels, the newest first, where the sequence holds them: the first such phase. -/
def seqPhase (src half : Nat) (recent : List Nat) : Option Nat :=
  if recent.length < 64 then none
  else ((List.range (seqPeriod src half)).find? fun p =>
    recent.zipIdx.all fun x => x.1 = seqLevel src half (p + 63 - x.2)).map (· + 64)

/-- A level reaches a checker of source src: its next state, and the level that it expected, once it can say. -/
def Chk.next (c : Chk) (src half l : Nat) : Chk × Option Nat :=
  if src ≤ 2 then
    if c.seen < (if src = 1 then 7 else 16) then ({ c with reg := prbsFeed (src = 2) l c.reg, seen := c.seen + 1 }, none)
    else
      let (e, r) := prbsLevel (if src = 1 then prbs13 else prbs31) c.reg
      ({ c with reg := r }, some e)
  else match c.pos with
    | some i => ({ c with pos := some (i + 1) }, some (seqLevel src half i))
    | none =>
      let recent := (l :: c.recent).take 64
      let pos := seqPhase src half recent
      ({ c with recent := recent, pos := pos, run := if pos.isSome then 63 else 0 }, if pos.isSome then some l else none)

/-- Fields of a checker: SYNC, SYNC_LOST, SRC, INVERT, SQ_HALF, the counters of symbols and of bits, and its index. -/
def checker (u : LaneUnit) : Option (List Fld × Nat) :=
  match u with
  | .rx n => some ([F.LRX_CHK_STAT_SYNC, F.LRX_CHK_STAT_SYNC_LOST, F.LRX_CHK_CTRL_SRC, F.LRX_CHK_CTRL_INVERT,
      F.LRX_CHK_CTRL_SQ_HALF, F.LRX_CHK_SYM_COUNT, F.LRX_CHK_BIT_COUNT], n)
  | .hostRx h => some ([F.HST_CHK_CTRL_SYNC, F.HST_CHK_CTRL_SYNC_LOST, F.HST_CHK_CTRL_SRC, F.HST_CHK_CTRL_INVERT,
      F.HST_CHK_CTRL_SQ_HALF, F.HST_CHK_SYM_COUNT, F.HST_CHK_BIT_COUNT], h)
  | _ => none

/-- The engine of a checker. -/
def State.chk (s : State) (u : LaneUnit) : Chk :=
  match u with
  | .rx n => (s.rx n).chk
  | .hostRx h => (s.hst h).chk
  | _ => {}
def State.setChk (s : State) (u : LaneUnit) (c : Chk) : State :=
  match u with
  | .rx n => s.modRx n fun t => { t with chk := c }
  | .hostRx h => s.modHst h fun t => { t with chk := c }
  | _ => s

/-- A symbol of a checker that has sync is judged: wrong symbols and bits count, and 32 errors within 1,024 symbols end
sync. -/
def chkCount (u : LaneUnit) (f : List Fld) (n : Nat) (c : Chk) (l e : Nat) (s : State) : State :=
  let fld := fun (i : Nat) => f.getD i F.LRX_CHK_STAT_SYNC
  let bits := ((grayBits l).1 != (grayBits e).1).toNat + ((grayBits l).2 != (grayBits e).2).toNat
  let errs : List Nat := ((c.errs.map (· + 1)).filter (· < 1024)) ++ (if l = e then [] else [0])
  let s := if l = e then s else (s.addSat (fld 5) 1 n).addSat (fld 6) bits n
  if 32 ≤ errs.length then ((s.setChk u {}).put (fld 0) 0 n).put (fld 1) 1 n else s.setChk u { c with errs := errs }

/-- A level reaches checker u. Without sync, an error makes it seed anew from this level, and 64 symbols in a row
without one give sync. DEDUCED, log 156. -/
def chkLevel (u : LaneUnit) (level : Nat) (s : State) : State :=
  match checker u with
  | none => s
  | some (f, n) =>
    let fld := fun (i : Nat) => f.getD i F.LRX_CHK_STAT_SYNC
    let src := s.get (fld 2) n
    if src = 0 then s
    else
      let l := if s.flag (fld 3) n then 3 - level else level
      let half := s.get (fld 4) n
      match (s.chk u).next src half l with
      | (c, none) => s.setChk u c
      | (c, some e) =>
        if s.flag (fld 0) n then chkCount u f n c l e s
        else if l ≠ e then s.setChk u (({} : Chk).next src half l).1
        else if c.run < 63 then s.setChk u { c with run := c.run + 1 }
        else (s.setChk u { c with errs := [] }).put (fld 0) 1 n

/-! ## ADC capture (R128) -/

/-- Base of lane n's capture region (R29). -/
def capBase (n : Nat) : Nat := 0x80E00000 + n * 0x100000

/-- Samples are written circularly into the region. -/
def capWrite (n : Nat) (bs : List Byte) (s : State) : State :=
  let pos := (s.rx n).capPos
  let s := bs.zipIdx.foldl (fun s p => s.setByte (capBase n + (pos + p.2) % 0x100000) p.1) s
  s.modRx n fun t => { t with capPos := (pos + bs.length) % 0x100000, capCount := t.capCount + bs.length }

/-- A capture of lane n is armed or filling. -/
def capActive (s : State) (n : Nat) : Bool := s.get F.LRX_CAP_STAT_STATE n = 1 || s.get F.LRX_CAP_STAT_STATE n = 2

/-- The capture stops in the state given: START reports the oldest sample, and a waiting CAPTURE_ADC completes. -/
def capStop (n state : Nat) (st : Status) (s : State) : State :=
  let start := if 0x100000 ≤ (s.rx n).capCount then (s.rx n).capPos else 0
  let s := (s.put F.LRX_CAP_STAT_STATE state n).put F.LRX_CAP_STAT_START start n
  s.finishWhere (fun w => w = .capture n) st (if st = .done then start else 0)

/-- The byte that POINT selects of a sample: its ADC code, or z to 8 bits with 5 fractional bits. -/
def capByte (s : State) (n : Nat) (code : BitVec 8) (z : Int) : Byte :=
  if s.flag F.LRX_CAP_CTRL_POINT n then BitVec.ofNat 8 (unsigned 8 (clamp (-128) 127 (roundHalfEven z 32))) else code

/-- A sample reaches the capture of lane n: armed, it fills the region; triggered, it also counts towards the post-trigger
share, (8 - PRE)/8 of the region, at whose end the capture stops. -/
def capSample (n : Nat) (code : BitVec 8) (z : Int) (s : State) : State :=
  if capActive s n then
    let s := capWrite n [capByte s n code z] s
    if s.get F.LRX_CAP_STAT_STATE n = 2 then
      let s := s.modRx n fun t => { t with capPost := t.capPost + 1 }
      if (8 - s.get F.LRX_CAP_CTRL_PRE n) * 0x20000 ≤ (s.rx n).capPost then capStop n 3 .done s else s
    else s
  else s

/-! ## A receiver's samples -/

/-- Samples of a period: those at either end of the code range count as clipped (R107). -/
def adcClips (n : Nat) (codes : List (BitVec 8)) (s : State) : State :=
  let k := (codes.filter fun c => c = 127 || c = 128).length
  (s.addSat F.LRX_ADC_CLIP_COUNT k n).perf (0xB0 + n) k

/-- In a media input loop-back of an L100 lane its decisions become its transmit input (R115, R189). -/
def loopSymbol (n : Nat) (level : Nat) (s : State) : State :=
  if s.mode n = 1 && s.laneLoop n = some 2 then
    let (a, b) := grayBits level
    let bits := (s.tx n).loopBits ++ [a, b]
    if bits.length < 128 then s.modTx n fun t => { t with loopBits := bits }
    else s.modTx n fun t => { t with
      loopBits := [], loopA := t.loopA ++ [BitVec.ofNat 128 ((bits.zipIdx.map fun p => if p.1 then 2 ^ p.2 else 0).sum)] }
  else s

/-- A symbol is decided at the level given: it moves the timing loop and the checker, and counts for TELEMETRY with its
error from the reference table (R112, R214). -/
def rxSymbol (n : Line) (z : Rat) (level : Nat) (am : Option Nat) (s : State) : State :=
  let t := s.rx n
  let ctx := (if t.memAct = 1 then 16 * t.lv.getD 1 0 else 0) + 4 * t.lv.getD 0 0 + level
  let e := z - ((s.eqActive n).refs.getD ctx 0 : Rat) / 64
  let s := s.modRx n fun t => { t with
    lv := [level, t.lv.getD 0 0]
    lvN := t.lvN.set level (t.lvN.getD level 0 + 1)
    lvZ := t.lvZ.set level (t.lvZ.getD level 0 + z)
    lvE := t.lvE.set level (t.lvE.getD level 0 + e * e) }
  let s := if timingRuns s n then timingStep n z level am s else s
  chkLevel (.rx n) level (loopSymbol n level s)

/-- The code of a sample: in a media output loop-back the lane's own DAC codes reach its ADC (R189).
DEDUCED, log 157. -/
def rxCode (n : Nat) (code : BitVec 8) (s : State) : BitVec 8 × State :=
  match (if s.laneLoop n = some 1 then (s.tx n).out else []) with
  | [] => (code, s)
  | c :: rest => (BitVec.ofNat 8 (unsigned 8 c), s.modTx n fun t => { t with out := rest })

/-- A sample reaches line receiver n: its code enters the FFE, z the chain and the alignment delay, and the symbol that
leaves that delay is decided. DESIGN CHOICE, log 122. -/
def rxSample (n : Line) (x : RxSample) (s : State) : State :=
  let (code, s) := rxCode n x.code s
  let z := ffeOut (s.eqActive n).taps (code :: (s.rx n).line)
  let s := capSample n code z (adcClips n [code] s)
  let s := s.modRx n fun t => { t with line := (code :: t.line).take 47, zq := t.zq ++ [z] }
  let s := if s.chainRuns n then chainStep n z s else s
  let r := cicRatio (s.mode n)
  match (s.rx n).zq with
  | z :: rest =>
    if rest.length < alignDelay r then s
    else
      let c := (s.lydOf n).chain
      let s := s.modRx n fun t => { t with zq := rest }
      rxSymbol n (zLess c.est r (10 * r + c.phase - 1) z) x.level (x.am.map Fin.val) s
  | [] => s

/-- What line receiver n takes since the last command that said so (R108 to R128). DESIGN CHOICE, log 142. -/
def rxData (n : Line) (data : RxData) (s : State) : State :=
  let t := s.modChain n fun c => { c with out := [] }
  if s.powered (.lrx n) then data.foldl (fun s x => rxSample n x s) t else t

/-- An ADC code reaches host receiver h: the equaliser's output is decided, for the checker and for an input loop-back among others
(R158, R169, R170). -/
def hostSample (h : HLane) (code : BitVec 8) (s : State) : State :=
  let e := s.eqActiveHost h
  let t := s.hst h
  let l := sliceLevel (hostY e.taps (e.refs.getD 0 0) t.dfeAct (code :: t.line) t.dec)
  chkLevel (.hostRx h) l (s.modHst h fun t => { t with
    line := (code :: t.line).take 31, dec := l,
    loop := if s.get F.HST_TEST_CTRL_LPBK h = 1 then t.loop ++ [l] else [] })

/-- What host receiver h takes since the last command that said so. DESIGN CHOICE, log 142. -/
def hostData (h : HLane) (codes : List (BitVec 8)) (s : State) : State :=
  if s.powered (.hst (h / 4)) then codes.foldl (fun s c => hostSample h c s) s else s

end Sys2Proof.Machine
end

