-- ==== Sys2Proof/Machine/LineRx.lean ====
section
/-! DEFINITION. Sys2Proof/Machine/LineRx.lean: the line receiver (R100 to R129): equaliser sets, TIA, sub-ADC rotation, loss
of signal and of lock, calibration, the commands of the checkers and of ADC capture, and the chapter's two commands. -/

namespace Sys2Proof.Machine

/-! ## Equaliser sets (R108 to R110, R112, R158, R159) -/

/-- Store tap words, two taps of twelve bits a word. -/
def storeTaps (r : RegD) (n k : Nat) (taps : List Int) (s : State) : State :=
  eachBelow k (fun m s => s.setWord r
    (BitVec.ofNat 32 (unsigned 12 (taps.getD (2 * m) 0) + 65536 * unsigned 12 (taps.getD (2 * m + 1) 0))) n m) s

/-- Make a set active. -/
def State.eqLoad (s : State) (n : Nat) (e : EqSet) : State :=
  let s := (storeTaps R.LRX_FFE_TAP n 24 e.taps s).put F.LRX_EQ_CTRL_MAIN e.main n
  eachBelow 16 (fun q s => s.setWord R.LRX_MLSE_REF
    (BitVec.ofNat 32 (((List.range 4).map fun i => unsigned 8 (e.refs.getD (4 * q + i) 0) * 2 ^ (8 * i)).sum)) n q) s
def State.eqLoadHost (s : State) (h : Nat) (e : EqSet) : State :=
  ((storeTaps R.HST_FFE_TAP h 16 e.taps s).put F.HST_RX_CTRL_MAIN e.main h).put F.HST_DFE_D (unsigned 10 (e.refs.getD 0 0)) h

/-- The set that the next change builds on: the pending one if it waits, else the active one (R121). -/
def State.eqBase (s : State) (n : Nat) : EqSet :=
  if s.flag F.LRX_EQ_STAT_PEND n then (s.rx n).eqPend else s.eqActive n
def State.eqBaseHost (s : State) (h : Nat) : EqSet :=
  if s.flag F.HST_RX_STAT_PEND h then (s.hst h).eqPend else s.eqActiveHost h

/-- Write the pending set. -/
def State.eqStage (s : State) (n : Nat) (e : EqSet) : State :=
  (s.modRx n fun t => { t with eqPend := e }).put F.LRX_EQ_STAT_PEND 1 n
def State.eqStageHost (s : State) (h : Nat) (e : EqSet) : State :=
  (s.modHst h fun t => { t with eqPend := e }).put F.HST_RX_STAT_PEND 1 h

/-- The pending set is copied to the active set (R109, R159). -/
def State.eqCopy (s : State) (n : Nat) : State :=
  if s.flag F.LRX_EQ_STAT_PEND n then
    let s := (s.eqLoad n (s.rx n).eqPend).put F.LRX_EQ_STAT_PEND 0 n
    (s.addSat F.LRX_EQ_STAT_UPDATES 1 n).put F.LRX_EQ_STAT_APPLY_SEQ (s.get F.LRX_AM_SEQ_SEQ n) n
  else s
def State.eqCopyHost (s : State) (h : Nat) : State :=
  if s.flag F.HST_RX_STAT_PEND h then
    ((s.eqLoadHost h (s.hst h).eqPend).put F.HST_RX_STAT_PEND 0 h).addSat F.HST_RX_STAT_UPDATES 1 h
  else s

/-- A running Winch visit to receiver i loses its result (R123). -/
def State.winchSpoil (s : State) (i : Nat) : State :=
  if s.lanes.winch.visiting = some i then s.modWinch fun w => { w with spoiled := true } else s

/-- Reseed receiver i, numbered as in WNC_LANE_CFGi: the start values go to the pending set. -/
def State.reseed (s : State) (i : Nat) : State :=
  let s := s.winchSpoil i
  if i < 9 then s.eqStage i eqStart else s.eqStageHost (i - 9) eqStartHost

/-- Receiver i's Winch mode is FROZEN. -/
def State.frozen (s : State) (i : Nat) : Bool := 2 ≤ s.get F.WNC_LANE_CFG_MODE i

/-- Host software writes a part of the set: only while FROZEN, else WR_REJ (R110). -/
def eqWrite (n : Nat) (f : EqSet → EqSet) (s : State) : State :=
  if s.frozen n then s.eqStage n (f (s.eqBase n)) else s.put F.LRX_EQ_STAT_WR_REJ 1 n
def eqWriteHost (h : Nat) (f : EqSet → EqSet) (s : State) : State :=
  if s.frozen (9 + h) then s.eqStageHost h (f (s.eqBaseHost h)) else s.put F.HST_RX_STAT_WR_REJ 1 h

/-- Two taps of a tap word. -/
def setTapPair (m : Nat) (v : Word) (e : EqSet) : EqSet :=
  { e with taps := (e.taps.set (2 * m) (signed 12 (bitsOf v 11 0))).set (2 * m + 1) (signed 12 (bitsOf v 27 16)) }

/-- Four entries of a reference word. -/
def setRefQuad (q : Nat) (v : Word) (e : EqSet) : EqSet :=
  { e with refs := (List.range 4).foldl (fun l i => l.set (4 * q + i) (signed 8 (bitsOf v (8 * i + 7) (8 * i)))) e.refs }

/-- A write of LRX_EQ_CTRL: PRECODE and MEM are stored; MAIN follows R110, and 48 to 63 are discarded with WR_REJ.
DEDUCED, log 33. -/
def eqCtrlWrite (n : Nat) (v : Word) (s : State) : State :=
  let main := bitsOf v 13 8
  let s := (s.put F.LRX_EQ_CTRL_PRECODE (bitsOf v 1 1) n).put F.LRX_EQ_CTRL_MEM (bitsOf v 0 0) n
  if main > 47 then s.put F.LRX_EQ_STAT_WR_REJ 1 n
  else eqWrite n (fun e => { e with main := main }) s

/-! ## Gain (R100 to R103) -/

/-- |t| times 10^(-d/40), rounded half-even, by bisection over twelve bits; d in 0.5 dB steps. -/
def scaleMag (t : Nat) (d : Int) : Nat :=
  let up := 10 ^ d.toNat
  let dn := 10 ^ (-d).toNat
  let le := fun (q : Nat) => (2 * q - 1) ^ 40 * up < (2 * t) ^ 40 * dn || ((2 * q - 1) ^ 40 * up = (2 * t) ^ 40 * dn && q % 2 = 0)
  (List.range 12).foldl (fun q b => if le (q + 2 ^ (11 - b)) then q + 2 ^ (11 - b) else q) 0

/-- A tap after a gain rise of d half-decibels, saturating at its format (R102). -/
def scaleTap (d : Int) (t : Int) : Int :=
  clamp (-2048) 2047 (if t < 0 then -(scaleMag t.natAbs d : Int) else scaleMag t.natAbs d)

/-- Apply a TIA gain at an RX AM boundary: the compensating scale of the taps goes to the pending set, which the boundary
copies (R102, R109). -/
def tiaApply (n g : Nat) (s : State) : State :=
  let d := Int.ofNat g - Int.ofNat (s.get F.LRX_TIA_STAT_GAIN n)
  let s := s.put F.LRX_TIA_STAT_GAIN g n
  if d = 0 then s
  else
    let e := s.eqBase n
    s.eqStage n { e with taps := e.taps.map (scaleTap d) }

/-- The gain loop runs: automatic, not frozen, with signal. -/
def tiaLoop (n : Nat) (s : State) : Bool :=
  !(s.rx n).manAct && !s.flag F.LRX_TIA_STAT_FROZEN n && !s.flag F.LRX_LOS_STAT_LOS n

/-- The loop brings the ADC RMS to its target within one step, at the gain given. -/
def execTiaGainAcquired (n : Line) (gain : Fin 64) (s : State) : Host.Outcome State Fault Refusal :=
  if tiaLoop n s then .next ((s.put F.LRX_TIA_STAT_GAIN gain n).put F.LRX_TIA_STAT_ACQ_DONE 1 n) else .next s

/-- 20 µs after acquisition began the gain stands at a limit, off target. -/
def execTiaAcqTimeout (n : Line) (high : Bool) (s : State) : Host.Outcome State Fault Refusal :=
  if tiaLoop n s && !s.flag F.LRX_TIA_STAT_ACQ_DONE n then
    .next ((s.put F.LRX_TIA_STAT_GAIN (if high then 63 else 0) n).put F.LRX_TIA_STAT_ACQ_FAIL 1 n)
  else .next s

/-- A write of LRX_TIA_CTRL: RETRIM asks for a re-centring with MANUAL 0 and AMLOCK_A 1 (R103). -/
def tiaCtrlWrite (n : Nat) (v : Word) (s : State) : State :=
  let s := s.writePlain R.LRX_TIA_CTRL v n
  if bitsOf v 16 16 = 1 && !s.flag F.LRX_TIA_CTRL_MANUAL n && s.rxFramed n && !s.flag F.LRX_TIA_STAT_RETRIM_PEND n then
    (s.put F.LRX_TIA_STAT_RETRIM_PEND 1 n).modRx n fun t => { t with retrimming := true }
  else s

/-- Half-decibel steps by which the gain must rise to bring an RMS of r/256 codes to 32 codes, to the nearest step. -/
def retrimSteps (r : Nat) : Int :=
  let ge := fun (k : Int) => -- 40 log10 (8192 / r) is at least k - 1/2
    if k ≥ 1 then r ^ 80 * 10 ^ (2 * k - 1).toNat ≤ 8192 ^ 80 else r ^ 80 ≤ 8192 ^ 80 * 10 ^ (1 - 2 * k).toNat
  Int.ofNat ((List.range 127).filter fun i => ge (Int.ofNat i - 62)).length - 63

/-- The RETRIM measurement ends: the gain waits for the following boundary. -/
def execRetrimMeasureDone (n : Line) (rms256 : Nat) (s : State) : Host.Outcome State Fault Refusal :=
  if (s.rx n).retrimming then
    let g := clamp 0 63 (Int.ofNat (s.get F.LRX_TIA_STAT_GAIN n) + retrimSteps rms256)
    .next (s.modRx n fun t => { t with retrimming := false, gainPend := some g.toNat })
  else .next s

/-- Changes of MANUAL and MAN_GAIN, and a measured RETRIM gain, at a boundary; without framing the gain changes with no
compensation (R101, R102). -/
def tiaBoundary (n : Nat) (framed : Bool) (s : State) : State :=
  let man := s.flag F.LRX_TIA_CTRL_MANUAL n
  let s := s.modRx n fun t => { t with manAct := man }
  let set := fun (g : Nat) (s : State) => if framed then tiaApply n g s else s.put F.LRX_TIA_STAT_GAIN g n
  if man then
    let s := set (s.get F.LRX_TIA_CTRL_MAN_GAIN n) s
    (s.modRx n fun t => { t with gainPend := none, retrimming := false }).put F.LRX_TIA_STAT_RETRIM_PEND 0 n
  else match (s.rx n).gainPend with
    | none => s
    | some g =>
      if framed then
        ((set g s).modRx n fun t => { t with gainPend := none }).put F.LRX_TIA_STAT_RETRIM_PEND 0 n
      else s

/-! ## Sub-ADC rotation (R104 to R107) -/

/-- Sub-ADC out of service during rotation step j. -/
def outIdx (j : Nat) : Nat := if j = 0 then 64 else if j ≤ 64 then 64 - j else j - 64

/-- Physical sub-ADC that serves slot k with Pq out of service (R104). -/
def subAdcOf (q k : Nat) : Nat := if k < q then k else k + 1

/-- One rotation step: the sub-ADC that was out re-enters with its new coefficients, unless calibration is frozen. -/
def rotate (n : Nat) (s : State) : State :=
  let old := s.get F.LRX_ADC_STAT_OUT_IDX n
  let j := (s.get F.LRX_ADC_STAT_STEP n + 1) % 128
  let s := (s.put F.LRX_ADC_STAT_STEP j n).put F.LRX_ADC_STAT_OUT_IDX (outIdx j) n
  match (s.rx n).adcPend with
  | none => s
  | some v =>
    let s := s.modRx n fun t => { t with adcPend := none }
    if s.flag F.LRX_CAL_CTRL_FREEZE n then s
    else
      let s := s.modRx n fun t => { t with
        adcCoef := Bank.put t.adcCoef old v 0,
        adcBoot := if (Bank.find t.adcBoot old).isSome then t.adcBoot else Bank.insert t.adcBoot old v }
      (s.addSat F.LRX_CAL_STAT_UPDATES 1 n).put F.LRX_CAL_STAT_LAST_SEQ (s.get F.LRX_AM_SEQ_SEQ n) n

/-- The internal timer steps the rotation while there is no RX AM framing. -/
def execAdcRotationTimer (n : Line) (data : RxData) (s : State) : Host.Outcome State Fault Refusal :=
  if s.rxFramed n then .next s else .next (rotate n ((rxData n data s).put F.LRX_ADC_STAT_TIMER 1 n))

/-! ## Loss of signal and of lock (R118, R124, R125) -/

/-- The receiver of lane n is powered with its RX PLL locked, so that LOS is evaluated. -/
def State.rxRuns (s : State) (n : Nat) : Bool := s.get F.PWR_CLK_STAT_RX_LOCK / 2 ^ n % 2 = 1

/-- What LOS and LOL do to the lane: visits are spoiled, framing and the Lanyard go (R125, R208). -/
def State.rxDown (s : State) (n : Nat) : State :=
  ((s.winchSpoil n).put F.LRX_TR_STAT_LOCK 0 n).rxLost n

/-- Loss of signal or of lock on the lane that L8 protects calls for an emergency switch (R70). -/
def State.protLoss (s : State) (n : Nat) : State :=
  if s.get F.LRX_PROT_STAT_STATE = 2 && s.lanes.prot.lane = n && s.lanes.prot.onEmergency then
    s.modProt fun p => { p with emergency := true }
  else s

def execLosAssert (n : Line) (s : State) : Host.Outcome State Fault Refusal :=
  if s.rxRuns n && !s.flag F.LRX_LOS_STAT_LOS n then
    let s := ((s.put F.LRX_LOS_STAT_LOS 1 n).put F.LRX_LOS_STAT_LOS_CHG 1 n).addSat F.LRX_LOS_STAT_LOS_COUNT 1 n
    .next (((((s.rxDown n).phyLost n).protLoss n).capSource n 2).refreshHosts)
  else .next s

/-- LOS deasserts: the TIA acquires, the figure of merit starts anew (R100, R122), and LOL is evaluated from now on. -/
def execLosDeassert (n : Line) (s : State) : Host.Outcome State Fault Refusal :=
  if s.rxRuns n && s.flag F.LRX_LOS_STAT_LOS n then
    let s := ((s.put F.LRX_LOS_STAT_LOS 0 n).put F.LRX_LOS_STAT_LOS_CHG 1 n).put F.LRX_TIA_STAT_ACQ_DONE 0 n
    let s := s.modRx n fun t => { t with lolHeld := false }
    .next ((s.put F.WNC_FOM_VALID 0 n).refreshHosts)
  else .next s

/-- Timing recovery loses lock; range says that the tracked offset would pass ±200 ppm. -/
def execLolAssert (n : Line) (range : Bool) (s : State) : Host.Outcome State Fault Refusal :=
  if s.rxRuns n && !s.flag F.LRX_LOS_STAT_LOS n && !s.flag F.LRX_LOS_STAT_LOL n && !(s.rx n).lolHeld && !(s.rx n).lolMode then
    let s := ((s.put F.LRX_LOS_STAT_LOL 1 n).put F.LRX_LOS_STAT_LOL_CHG 1 n).addSat F.LRX_LOS_STAT_LOL_COUNT 1 n
    let s := s.modRx n fun t => { t with outOfRange := range }
    .next ((((s.rxDown n).protLoss n).capSource n 2).refreshHosts)
  else .next s

/-- A Winch visit to receiver i that already runs at event 3 does not count towards event 4 (R118, R160). -/
def State.visitEarly (s : State) (i : Nat) : State :=
  if s.lanes.winch.visiting = some i then s.modWinch fun w => { w with early := true } else s

/-- Timing recovery locks at the offset given: event 3, from which Winch visits count. -/
def execTimingRecoveryLock (n : Line) (freq : BitVec 16) (s : State) : Host.Outcome State Fault Refusal :=
  if s.rxRuns n && !s.flag F.LRX_LOS_STAT_LOS n && !s.flag F.LRX_TR_STAT_LOCK n then
    let s := (s.put F.LRX_TR_STAT_LOCK 1 n).put F.LRX_TR_STAT_FREQ freq.toNat n
    let s := s.modRx n fun t => { t with
      lolHeld := false, lolMode := false, outOfRange := false, visits := 0, trFreq := Int.cast (signed 16 freq.toNat) }
    let s := s.visitEarly n
    let s := if s.flag F.LRX_LOS_STAT_LOL n then (s.put F.LRX_LOS_STAT_LOL 0 n).put F.LRX_LOS_STAT_LOL_CHG 1 n else s
    .next s.refreshHosts
  else .next s

/-- A window of codeword pairs ends (R49): unlocked, 256 pairs with at least 192 zero syndromes in each slot class
lock; locked, 64 pairs in which neither class reaches 32 lose lock. In L200 the codeword-lock verdict is the
receiver's own. Lock is sought from event 4 of R118 on. DEDUCED, log 24. -/
def execSlotLockWindowEnd (n : Line) (even odd : Nat) (cwLock : Bool) (s : State) : Host.Outcome State Fault Refusal :=
  let up := s.flag F.LRX_FRAME_STAT_SLOT_LOCK n
  let can := 4 ≤ (s.rx n).visits && s.flag F.LRX_TR_STAT_LOCK n
  if s.mode n = 3 then
    if up then (if even < 32 && odd < 32 then .next (s.slotLost n) else .next s)
    else if can && 192 ≤ even && 192 ≤ odd then .next (s.put F.LRX_FRAME_STAT_SLOT_LOCK 1 n) else .next s
  else if s.mode n = 2 then
    if up then (if cwLock then .next s else .next (s.slotLost n))
    else if can && cwLock then .next (s.put F.LRX_FRAME_STAT_SLOT_LOCK 1 n) else .next s
  else .next s

/-- RX PLL lock after the datapath powers on: LOS is evaluated from then on (R380). -/
def execRxPllLock (n : Line) (s : State) : Host.Outcome State Fault Refusal :=
  if s.powered (.lrx n) && !s.rxRuns n then
    .next (s.put F.PWR_CLK_STAT_RX_LOCK (s.get F.PWR_CLK_STAT_RX_LOCK + 2 ^ n.val))
  else .next s

/-! ## Calibration (R126) -/

/-- Apply a result of TIA offset (kind 1) or rotator linearity (kind 2); the first of a kind is the one measured at boot.
DESIGN CHOICE, log 137. -/
def rxCalApply (n : Nat) (r : Nat × Word) (s : State) : State :=
  let s := s.modRx n fun t => { t with
    cal := Bank.put t.cal r.1 r.2 0
    calBoot := if t.calKinds.contains r.1 then t.calBoot else Bank.put t.calBoot r.1 r.2 0
    calKinds := if t.calKinds.contains r.1 then t.calKinds else r.1 :: t.calKinds }
  (s.addSat F.LRX_CAL_STAT_UPDATES 1 n).put F.LRX_CAL_STAT_LAST_SEQ (s.get F.LRX_AM_SEQ_SEQ n) n

/-- Waiting results and a REVERT take effect. -/
def rxCalBoundary (n : Nat) (s : State) : State :=
  let s := (s.rx n).calPend.foldl (fun s r => rxCalApply n r s) s
  s.modRx n fun t => { t with
    calPend := [], cal := if t.revert then t.calBoot else t.cal, adcCoef := if t.revert then t.adcBoot else t.adcCoef,
    revert := false }

/-- A result: kind 0 is the measurement of the sub-ADC out of service, which waits for its return (R106). -/
def execRxCalResult (n : Line) (kind : Fin 3) (v : Word) (s : State) : Host.Outcome State Fault Refusal :=
  if kind = 0 then .next (s.modRx n fun t => { t with adcPend := some v })
  else if s.flag F.LRX_CAL_CTRL_FREEZE n then .next s
  else if s.rxFramed n then
    .next (s.modRx n fun t => { t with calPend := t.calPend.filter (fun r => !(r.1 = kind.val)) ++ [(kind.val, v)] })
  else .next (rxCalApply n (kind.val, v) s)

/-- FREEZE discards the results that wait. -/
def rxCalFreeze (n : Nat) (s : State) : State :=
  if s.flag F.LRX_CAL_CTRL_FREEZE n then s.modRx n fun t => { t with calPend := [] } else s

/-- A write of LRX_CAL_CTRL. DEDUCED, log 37. -/
def rxCalCtrlWrite (n : Nat) (v : Word) (s : State) : State :=
  let s := rxCalFreeze n (s.writePlain R.LRX_CAL_CTRL v n)
  if bitsOf v 1 1 = 1 then s.modRx n fun t => { t with revert := true } else s

/-! ## Pattern checkers (R127, R169) -/

/-- What reaches the checker of a unit: the samples of a line receiver, or the codes of a host receiver. -/
def checkerData (u : LaneUnit) (line : RxData) (host : List (BitVec 8)) (s : State) : State :=
  match u with
  | .rx n => rxData n line s
  | .hostRx h => hostData h host s
  | _ => s

/-- 64 symbols without an error are among those that reach the checker: SYNC is set. -/
def execCheckerSyncAcquired (d : CheckerData) (s : State) : Host.Outcome State Fault Refusal :=
  .next (checkerData d.unit d.line d.host s)

/-- 32 symbol errors within 1,024 symbols are among those that reach the checker: SYNC is lost, and it seeds anew. -/
def execCheckerSyncLost (u : LaneUnit) (line : RxData) (host : List (BitVec 8)) (s : State) :
    Host.Outcome State Fault Refusal :=
  .next (checkerData u line host s)

/-- A write of LRX_CHK_CTRL: a SRC above 4 makes it ignored; SRC 0 stops the checker. -/
def chkCtrlWrite (n : Nat) (v : Word) (s : State) : State :=
  if bitsOf v 3 0 > 4 then s
  else
    let old := s.get F.LRX_CHK_CTRL_SRC n
    let s := s.writePlain R.LRX_CHK_CTRL v n
    if s.get F.LRX_CHK_CTRL_SRC n = old then s else (s.setChk (.rx (Fin.ofNat 9 n)) {}).put F.LRX_CHK_STAT_SYNC 0 n

/-! ## ADC capture (R128, R129) -/

/-- ARM: ignored while a capture is armed or filling; the immediate trigger has come at once. -/
def capArm (n : Nat) (s : State) : State :=
  if capActive s n then s
  else (s.modRx n fun t => { t with
    capPos := 0, capCount := 0, capPost := 0, capTrig := s.get F.LRX_CAP_CTRL_TRIG n = 0 }).put F.LRX_CAP_STAT_STATE 1 n

/-- A write of LRX_CAP_CTRL. -/
def capCtrlWrite (n : Nat) (v : Word) (s : State) : State :=
  let s := s.writePlain R.LRX_CAP_CTRL v n
  let s := if bitsOf v 1 1 = 1 && capActive s n then capStop n 4 .done s else s
  if bitsOf v 0 0 = 1 then capArm n s else s

/-- The trigger that TRIG selects has come, after the samples given: from here on the post-trigger share counts.
DESIGN CHOICE, log 44. -/
def execCaptureTrigger (n : Line) (data : RxData) (s : State) : Host.Outcome State Fault Refusal :=
  let s := rxData n data s
  if s.get F.LRX_CAP_STAT_STATE n = 1 && (s.rx n).capTrig then .next (s.put F.LRX_CAP_STAT_STATE 2 n) else .next s

/-- Samples reach the receiver with which the post-trigger share of the capture is written, and it stops. -/
def execCaptureStop (n : Line) (data : RxData) (s : State) : Host.Outcome State Fault Refusal := .next (rxData n data s)

/-- CAPTURE_ADC (R129). -/
def execCaptureAdc (m : MBox) (s : State) : Host.Outcome State Fault Refusal :=
  .next (runCmd 0x29 m (fun c s =>
    let n := c.bits 2 3 0
    if n > 8 then s.finish c .badLength
    else if !s.laneOn n then s.finish c .blockOff
    else if capActive s n then s.finish c .conflict
    else
      let s := ((s.put F.LRX_CAP_CTRL_POINT (c.bits 2 8 8) n).put F.LRX_CAP_CTRL_TRIG (c.bits 2 17 16) n).put
        F.LRX_CAP_CTRL_PRE (c.bits 2 26 24) n
      (capArm n s).await c (.capture n)) s)

/-- The command's timeout passes with no trigger: the capture is aborted. -/
def execCaptureAdcTimeout (n : Line) (s : State) : Host.Outcome State Fault Refusal :=
  if s.get F.LRX_CAP_STAT_STATE n = 1 && s.mbx.outstanding.any (fun c => c.stage = .executing (.capture n)) then
    .next (capStop n 4 .timedOut s)
  else .next s

/-! ## RX_SET_EQ_POLICY (R129) -/

/-- The Winch settings that RX_SET_EQ_POLICY command c names for receiver i (R129). -/
def eqPolicyWinch (c : Cmd) (i : Nat) (s : State) : State :=
  let fld := fun (ap hi lo : Nat) (f : Fld) (s : State) => if c.bits 4 ap ap = 1 then s.put f (c.bits 4 hi lo) i else s
  fld 28 27 24 F.WNC_LANE_CFG_FOM_AVG <| fld 20 19 16 F.WNC_LANE_CFG_MU_TRK <|
    fld 12 11 8 F.WNC_LANE_CFG_MU_ACQ <| fld 2 1 0 F.WNC_LANE_CFG_MODE s

/-- What RX_SET_EQ_POLICY command c names for line lane n alone (R129). -/
def eqPolicyLine (c : Cmd) (n : Nat) (s : State) : State :=
  let s := if c.bits 5 1 1 = 1 then s.put F.LRX_EQ_CTRL_MEM (c.bits 5 0 0) n else s
  let s := if c.bits 5 17 17 = 1 then rxCalFreeze n (s.put F.LRX_CAL_CTRL_FREEZE (c.bits 5 16 16) n) else s
  if c.bits 5 18 18 = 1 then s.modRx n fun t => { t with revert := true } else s

def execRxSetEqPolicy (m : MBox) (s : State) : Host.Outcome State Fault Refusal :=
  .next (runCmd 0x26 m (fun c s =>
    let lines := maskLanes 9 (c.bits 2 8 0)
    let hosts := maskLanes 16 (c.bits 3 15 0)
    let all := lines ++ hosts.map (· + 9)
    if (lines.any fun n => !s.laneOn n) || hosts.any fun h => !s.hostOn h then s.finish c .blockOff
    else
      let s := eachOf lines (eqPolicyLine c) (eachOf all (eqPolicyWinch c) s)
      let s := if c.bits 5 8 8 = 1 then eachOf all (fun i s => s.reseed i) s else s
      if all.isEmpty then s.finish c .done else s.await c (.eqPolicy all)) s)

end Sys2Proof.Machine
end

