-- ==== Sys2Proof/Machine/Host.lean ====
section
/-! DEFINITION. Sys2Proof/Machine/Host.lean: the host electrical lanes (R155 to R175): CTLE search, loss of signal and of
lock, frame boundaries, the transmitter's shadow, test patterns and loop-backs, the RS(544,514) monitor and
HOST_SET_EQ. -/

namespace Sys2Proof.Machine

/-! ## Receiver (R157 to R162) -/

/-- The quad's PLL is locked and the lane is in use, so that LOS is evaluated (R162). -/
def State.hostRuns (s : State) (h : Nat) : Bool :=
  s.hostMode h ≠ 0 && s.get F.PWR_CLK_STAT_HST_LOCK / 2 ^ (h / 4) % 2 = 1

/-- The host PLL of a quad locks after HSTq powers up (R380). -/
def execHostPllLock (q : Fin 4) (s : State) : Host.Outcome State Fault Refusal :=
  if s.powered (.hst q) && s.get F.PWR_CLK_STAT_HST_LOCK / 2 ^ q.val % 2 = 0 then
    .next (s.put F.PWR_CLK_STAT_HST_LOCK (s.get F.PWR_CLK_STAT_HST_LOCK + 2 ^ q.val))
  else .next s

/-- Signal or lock of host lane h is lost: framing, visits and PLL references go. -/
def State.hostDown (s : State) (h : Nat) : State :=
  let s := s.modHst h fun t => { t with cdr := false, search := none }
  (((s.winchSpoil (9 + h)).hostLost h).pllRefLost h)

/-- A CTLE search starts at code 0, unless the code is manual (R157). -/
def State.ctleStart (s : State) (h : Nat) : State :=
  if s.flag F.HST_RX_CTRL_CTLE_MAN h then s
  else (s.modHst h fun t => { t with search := some (0, 0, 0) }).put F.HST_RX_STAT_CTLE_ACT 0 h

def execHostLosAssert (h : HLane) (s : State) : Host.Outcome State Fault Refusal :=
  if s.hostRuns h && !s.flag F.HST_LANE_STAT_LOS h then
    let s := ((s.put F.HST_LANE_STAT_LOS 1 h).put F.HST_LANE_STAT_LOS_CHG 1 h).addSat F.HST_LANE_STAT_LOS_COUNT 1 h
    .next (s.hostDown h)
  else .next s

def execHostLosDeassert (h : HLane) (s : State) : Host.Outcome State Fault Refusal :=
  if s.hostRuns h && s.flag F.HST_LANE_STAT_LOS h then
    let s := ((s.put F.HST_LANE_STAT_LOS 0 h).put F.HST_LANE_STAT_LOS_CHG 1 h).put F.WNC_FOM_VALID 0 (9 + h)
    .next (s.ctleStart h)
  else .next s

def execHostLolAssert (h : HLane) (s : State) : Host.Outcome State Fault Refusal :=
  if s.hostRuns h && !s.flag F.HST_LANE_STAT_LOS h && !s.flag F.HST_LANE_STAT_LOL h && !(s.hst h).lolHeld then
    let s := ((s.put F.HST_LANE_STAT_LOL 1 h).put F.HST_LANE_STAT_LOL_CHG 1 h).addSat F.HST_LANE_STAT_LOL_COUNT 1 h
    .next (s.hostDown h)
  else .next s

/-- LOL clears with LOS deasserted: the CTLE search runs with the CDR in lock, and visits count from its end. -/
def execHostLolDeassert (h : HLane) (s : State) : Host.Outcome State Fault Refusal :=
  if s.hostRuns h && !s.flag F.HST_LANE_STAT_LOS h && s.flag F.HST_LANE_STAT_LOL h then
    let s := (s.put F.HST_LANE_STAT_LOL 0 h).put F.HST_LANE_STAT_LOL_CHG 1 h
    .next (((s.modHst h fun t => { t with cdr := true, lolHeld := false, visits := 0 }).visitEarly (9 + h)).ctleStart h)
  else .next s

/-- Event 3 of R160: the CDR first locks after LOS deasserts, or at a new rate (R475). -/
def execHostCdrLock (h : HLane) (s : State) : Host.Outcome State Fault Refusal :=
  if s.hostRuns h && !s.flag F.HST_LANE_STAT_LOS h && !s.flag F.HST_LANE_STAT_LOL h then
    .next ((s.modHst h fun t => { t with cdr := true, lolHeld := false, visits := 0 }).visitEarly (9 + h))
  else .next s

/-- Each 2 µs the search measures the eye at the code it holds; after code 15 it keeps the best, the lowest of equals. -/
def execCtleSearchStep (h : HLane) (eye : Nat) (s : State) : Host.Outcome State Fault Refusal :=
  match (s.hst h).search with
  | none => .next s
  | some (k, best, code) =>
    let (best, code) := if k = 0 || best < eye then (eye, k) else (best, code)
    if k = 15 then
      .next (((s.modHst h fun t => { t with search := none, visits := 0 }).visitEarly (9 + h)).put F.HST_RX_STAT_CTLE_ACT code h)
    else .next ((s.modHst h fun t => { t with search := some (k + 1, best, code) }).put F.HST_RX_STAT_CTLE_ACT (k + 1) h)

/-- Event 5 of R160 is not reached within 3 ms of event 3 (R161). -/
def execHostEqTimeout (h : HLane) (s : State) : Host.Outcome State Fault Refusal :=
  if (s.hst h).cdr && !s.flag F.HST_LANE_STAT_FRAME_LOCK h then .next (s.put F.HST_RX_STAT_EQ_FAULT 1 h) else .next s

/-- Changes bound to the host RX frame boundary: the manual CTLE code, DFE_EN and the pending set. -/
def hostRxApply (h : Nat) (s : State) : State :=
  let s := if s.flag F.HST_RX_CTRL_CTLE_MAN h then
      (s.modHst h fun t => { t with search := none }).put F.HST_RX_STAT_CTLE_ACT (s.get F.HST_RX_CTRL_CTLE_CODE h) h
    else s
  let s := s.modHst h fun t => { t with dfeAct := s.flag F.HST_RX_CTRL_DFE_EN h }
  (((s.eqCopyHost h).hostEqDone (16 + h)).eqDone (9 + h))

/-- A host RX frame boundary (R156), between the codes that the receiver took since the last command that gave some, and
those that it took after it, under what applies at the boundary. -/
def execHostRxFrameBoundary (h : HLane) (before after : List (BitVec 8)) (s : State) : Host.Outcome State Fault Refusal :=
  if s.flag F.HST_LANE_STAT_FRAME_LOCK h then
    .next (hostData h after (hostRxApply h ((hostData h before s).perf (0xC0 + h))))
  else .next s

/-- A write of HST_RX_CTRL: MAIN follows R110 as R159 says; the rest is stored. DEDUCED, log 33. -/
def hstRxCtrlWrite (h : Nat) (v : Word) (s : State) : State :=
  let main := bitsOf v 20 16
  let s := ((s.put F.HST_RX_CTRL_CTLE_MAN (bitsOf v 12 12) h).put F.HST_RX_CTRL_CTLE_CODE (bitsOf v 11 8) h).put
    F.HST_RX_CTRL_DFE_EN (bitsOf v 0 0) h
  eqWriteHost h (fun e => { e with main := main }) s

/-! ## Transmitter (R163 to R168) -/

/-- Tap i (c(-2) to c(+3)) of two words in the layout of HST_TX_FIR0 and HST_TX_FIR1. -/
def hstTap (f0 f1 : Word) (i : Nat) : Int :=
  signed 9 (bitsOf (if i < 3 then f0 else f1) (9 * (i % 3) + 8) (9 * (i % 3)))

/-- The sum of the taps' magnitudes, in 1/128. -/
def hstTapSum (f0 f1 : Word) : Nat := ((List.range 6).map fun i => (hstTap f0 f1 i).natAbs).sum

/-- The shadow computed from the CMIS codes (R165): FIR0, FIR1 and SWING. -/
def hstCodes (pre post amp : Nat) : Word × Word × Nat :=
  let m1 := 64 - scaleMag 64 (Int.ofNat pre)
  let p1 := 64 - scaleMag 64 (2 * Int.ofNat post)
  (BitVec.ofNat 32 ((128 - m1 - p1) * 2 ^ 18 + unsigned 9 (-Int.ofNat m1) * 2 ^ 9), BitVec.ofNat 32 (unsigned 9 (-Int.ofNat p1)),
    [35, 50, 70, 90].getD amp 35)

/-- The shadow breaks the limits of R164. -/
def hstShadowBad (h : Nat) (s : State) : Bool :=
  let sw := s.get F.HST_TX_CTRL_SWING h
  hstTapSum (s.word R.HST_TX_FIR0 h) (s.word R.HST_TX_FIR1 h) > 128 || sw < 20 || sw > 120

/-- A copy of the shadow is refused (R164). -/
def hstRefuse (h : Nat) (s : State) : State := (s.put F.HST_TX_CTRL_REJ 1 h).put F.HST_TX_CTRL_PEND 0 h

/-- APPLY (R164, R165): with MANUAL 0 the shadow is computed first; then PEND, or REJ. -/
def hstApply (h : Nat) (s : State) : State :=
  let s := if s.flag F.HST_TX_CTRL_MANUAL h then s
    else
      let (f0, f1, sw) := hstCodes (s.get F.HST_TX_CTRL_PRE_CODE h) (s.get F.HST_TX_CTRL_POST_CODE h)
        (s.get F.HST_TX_CTRL_AMP_CODE h)
      ((s.setWord R.HST_TX_FIR0 f0 h).setWord R.HST_TX_FIR1 f1 h).put F.HST_TX_CTRL_SWING sw h
  if hstShadowBad h s then hstRefuse h s else s.put F.HST_TX_CTRL_PEND 1 h

/-- The shadow of host lane h: FIR0, FIR1, and HST_TX_CTRL for SWING and MANUAL. -/
def State.hstShadow (s : State) (h : Nat) : List Word :=
  [s.word R.HST_TX_FIR0 h, s.word R.HST_TX_FIR1 h, s.word R.HST_TX_CTRL h]

/-- A complete update of the shadow lands, by HOST_SET_EQ or a code-driven APPLY: one that waits for the same boundary is
taken back whole first (R175). -/
def hstShadowBegin (h : Nat) (s : State) : State :=
  match (if s.flag F.HST_TX_CTRL_PEND h then (s.hst h).shadow else none) with
  | some ws =>
    let c := ws.getD 2 0
    (((s.setWord R.HST_TX_FIR0 (ws.getD 0 0) h).setWord R.HST_TX_FIR1 (ws.getD 1 0) h).put F.HST_TX_CTRL_SWING (bitsOf c 24 18)
      h).put F.HST_TX_CTRL_MANUAL (bitsOf c 5 5) h
  | none => s.modHst h fun t => { t with shadow := some (s.hstShadow h) }

/-- A direct register write of word i of the shadow is no part of an update that waits. -/
def hstShadowWrite (h i : Nat) (s : State) : State :=
  s.modHst h fun t => { t with shadow := t.shadow.map fun ws => ws.set i ((s.hstShadow h).getD i 0) }

/-- Rigger's APPLY after it has written the codes: a whole update where it is driven by them (R165, R175). -/
def hstCodeApply (h : Nat) (s : State) : State :=
  let manual : Bool := match (if s.flag F.HST_TX_CTRL_PEND h then (s.hst h).shadow else none) with
    | some ws => bitsOf (ws.getD 2 0) 5 5 = 1
    | none => s.flag F.HST_TX_CTRL_MANUAL h
  hstApply h (if manual then s else hstShadowBegin h s)

/-- A write of HST_TX_CTRL: its fields first, then APPLY; OUT_DIS and SQ_DIS act on the output (R167, R168). -/
def hstTxCtrlWrite (h : Nat) (v : Word) (s : State) : State :=
  let coded := bitsOf v 0 0 = 1 && bitsOf v 5 5 = 0
  let s := (if coded then hstShadowBegin h s else s).writePlain R.HST_TX_CTRL v h
  let s := if coded then s else hstShadowWrite h 2 s
  let s := if bitsOf v 0 0 = 1 then hstApply h s else s
  s.refreshHost h

/-- Source that the transmitter sends: a pattern, the input loop-back, or traffic (R169, R170). -/
def hostSrcAct (h : Nat) (s : State) : State :=
  s.put F.HST_TX_STAT_SRC_ACT
    (if (s.hst h).patSrc ≠ 0 then 2 else if s.get F.HST_TEST_CTRL_LPBK h = 1 then 1 else 0) h

/-- The shadow that waits is copied to the active set, unless it breaks the limits by now (R164). -/
def hstCopy (h : Nat) (s : State) : State :=
  if !s.flag F.HST_TX_CTRL_PEND h then s
  else if hstShadowBad h s then hstRefuse h s
  else (s.modHst h fun t => { t with
    fir0 := s.word R.HST_TX_FIR0 h, fir1 := s.word R.HST_TX_FIR1 h, swing := s.get F.HST_TX_CTRL_SWING h,
    shadow := none }).put F.HST_TX_CTRL_PEND 0 h

/-- The pattern source takes effect: another one starts at its beginning (R169). -/
def hstPattern (h : Nat) (s : State) : State :=
  let src := s.get F.HST_TEST_CTRL_SRC h
  if (s.hst h).patSrc = src then s
  else s.modHst h fun t => { t with patSrc := src, lfsr := (Config.prbsSeed (9 + h)).toNat, patPos := 0 }

/-- Changes bound to the host TX frame boundary: the shadow's copy and the pattern source. -/
def hostTxApply (h : Nat) (s : State) : State := (hostSrcAct h (hstPattern h (hstCopy h s))).hostEqDone h

/-! ## The transmitter's output (R163, R169, R170) -/

/-- The output in mV for the symbol k of six levels, from k + 2 down to k - 3. -/
def hstOut (t : Hst) (w : List Nat) : Rat :=
  5 * (t.swing : Rat) * ((List.range 6).map fun i => (hstTap t.fir0 t.fir1 i : Rat) / 128 * levelOf (w.getD i 0)).sum

/-- The next level of host transmitter h, where g is its traffic: of the pattern generator, of an input loop-back, or g.
DEDUCED, log 157. -/
def hstMux (h : Nat) (g : Nat) (s : State) : Nat × State :=
  let t := s.hst h
  let inv := fun (l : Nat) => if s.flag F.HST_TEST_CTRL_INVERT h then 3 - l else l
  if t.patSrc = 0 then
    if s.get F.HST_TEST_CTRL_LPBK h = 1 then
      match t.loop with
      | l :: rest => (l, s.modHst h fun t => { t with loop := rest })
      | [] => (g, s)
    else (g, s)
  else if t.patSrc ≤ 2 then
    let (l, r) := prbsLevel (if t.patSrc = 1 then prbs13 else prbs31) t.lfsr
    (inv l, s.modHst h fun t => { t with lfsr := r })
  else (inv (seqLevel t.patSrc (s.get F.HST_TEST_CTRL_SQ_HALF h) t.patPos), s.modHst h fun t => { t with patPos := t.patPos + 1 })

/-- A symbol of host transmitter h: with a squelch cause the output is in electrical idle and gives no voltage (R167). -/
def hstSymbol (h : Nat) (g : Nat) (s : State) : State :=
  let (l, s) := hstMux h g s
  s.modHst h fun t => { t with
    tail := (l :: t.tail).take 5
    out := if s.get F.HST_TX_STAT_CAUSE h = 0 then t.out ++ [hstOut t (l :: t.tail)] else t.out }

/-- What host transmitter h sends since the last command that said so, as traffic levels. DESIGN CHOICE, log 142. -/
def hostSend (h : HLane) (levels : List (Fin 4)) (s : State) : State :=
  let s := s.modHst h fun t => { t with out := [] }
  if s.powered (.hst (h / 4)) then levels.foldl (fun s g => hstSymbol h g s) s else s

/-- A host TX frame boundary (R156), after the symbols sent: pending changes apply, and squelch causes that hold no more
leave. -/
def execHostTxFrameBoundary (d : HostLevels) (s : State) : Host.Outcome State Fault Refusal :=
  let h := d.lane
  if s.hostTxFramed h then .next ((hostTxApply h ((hostSend h d.levels s).perf (0xD0 + h))).releaseHost h true) else .next s

/-- A write of HST_TEST_CTRL: a SRC above 4 is ignored, and an output loop-back that R170 refuses sets LPBK_REJ and
leaves the mode. -/
def hstTestCtrlWrite (h : Nat) (v : Word) (s : State) : State :=
  let src := s.get F.HST_TEST_CTRL_SRC h
  let lp := s.get F.HST_TEST_CTRL_LPBK h
  let s := s.writePlain R.HST_TEST_CTRL v h
  let s := if bitsOf v 3 0 > 4 then s.put F.HST_TEST_CTRL_SRC src h else s
  let refused := match bitsOf v 9 8 with
    | 3 => true
    | 2 => (match s.feeds h with
      | none => false
      | some n => s.get F.OLC_STAT_STATE n = 3 ||
          (s.pllFeeds (n / 2)).any fun k => !(k = h) && s.get F.HST_TEST_CTRL_LPBK k ≠ 2)
    | _ => false
  let s := if refused then (s.put F.HST_TEST_CTRL_LPBK lp h).put F.HST_TEST_CTRL_LPBK_REJ 1 h else s
  hostSrcAct h s

/-- A write of HST_CHK_CTRL: as chkCtrlWrite, for the host checker. -/
def hstChkCtrlWrite (h : Nat) (v : Word) (s : State) : State :=
  if bitsOf v 3 0 > 4 then s
  else
    let old := s.get F.HST_CHK_CTRL_SRC h
    let s := s.writePlain R.HST_CHK_CTRL v h
    if s.get F.HST_CHK_CTRL_SRC h = old then s
    else (s.setChk (.hostRx (Fin.ofNat 16 h)) {}).put F.HST_CHK_CTRL_SYNC 0 h

/-! ## RS(544,514) monitor (R171 to R174) -/

/-- Show the value v of monitor counter c on host lane h. -/
def rsmShow (h : Nat) (c : Fin 5) (v : Nat) (s : State) : State :=
  (s.put F.HST_RSM_LO_COUNT_LO v h c).put F.HST_RSM_HI_COUNT_HI (v / 2 ^ 32) h c

/-- ROLE of every lane: lead, member or idle; a lane that leads no more loses LOCK, and a member reads 0 in its first four
counters (R172). -/
def rsmRoles (s : State) : State :=
  eachBelow 16 (fun h s =>
    let lead := s.flag F.HST_RSM_CTRL_EN h
    let member := !lead && (List.range 16).any fun k => (s.rsmGroup k).contains h
    let s := s.put F.HST_RSM_STAT_ROLE (if lead then 1 else if member then 2 else 0) h
    let s := if member then rsmShow h 0 0 (rsmShow h 1 0 (rsmShow h 2 0 (rsmShow h 3 0 s))) else s
    if lead && !s.rsmUnframed h then s else s.put F.HST_RSM_STAT_LOCK 0 h) s

/-- A snapshot by the lead: the counters of every group lane are copied in the same cycle (R174), of a member LANE_SYM
alone. -/
def rsmSnap (h : Nat) (s : State) : State :=
  if s.flag F.HST_RSM_CTRL_EN h then
    let s := s.incWrap F.HST_RSM_STAT_SEQ h
    eachOf (s.rsmGroup h) (fun k s => (List.finRange 5).foldl (fun s (c : Fin 5) =>
      rsmShow k c (if k = h || c = 4 then (s.hst k).rsm[c].toNat else 0) s) s) s
  else s

/-- A write of HST_RSM_CTRL: one that sets EN with a mask that R171 does not allow is discarded with CFG_REJ. -/
def hstRsmCtrlWrite (h : Nat) (v : Word) (s : State) : State :=
  let mask := maskLanes 16 (bitsOf v 31 16)
  let taken := (List.range 16).any fun k => !(k = h) && (s.rsmGroup k).any fun g => mask.contains g
  let bad := mask.head? ≠ some h || taken || mask.any fun k => k / 8 ≠ h / 8
  if bitsOf v 0 0 = 1 && bad then s.put F.HST_RSM_STAT_CFG_REJ 1 h
  else
    let s := rsmRoles (s.writePlain R.HST_RSM_CTRL v h)
    if bitsOf v 1 1 = 1 then rsmSnap h s else s

/-- Count k in monitor counter c of host lane h. -/
def rsmCount (h : Nat) (c : Fin 5) (k : Nat) (s : State) : State :=
  s.modHst h fun t => { t with rsm := t.rsm.set c (t.rsm[c] + BitVec.ofNat 48 k) }

/-- The counters of the group of lead h after a codeword: uncorrectable (bad), or with the symbols corrected by lane
(R174). -/
def rsmCounted (h : Nat) (bad : Bool) (corr : List (HLane × Nat)) (s : State) : State :=
  let group := s.rsmGroup h
  let total := (corr.map Prod.snd).sum
  let s := rsmCount h 0 1 s
  if bad then rsmCount h 3 1 s
  else
    let s := if total = 0 then s else rsmCount h 2 total (rsmCount h 1 1 s)
    corr.foldl (fun s p => if group.contains p.1.val then rsmCount p.1 4 p.2 s else s) s

/-- The lead decodes one codeword: the group's skew, the symbols corrected by lane, and whether it was uncorrectable. -/
def execRsmCodeword (h : HLane) (skew : Nat) (corr : List (HLane × Nat)) (unc : Bool) (s : State) :
    Host.Outcome State Fault Refusal :=
  let group := s.rsmGroup h
  let egress := s.flag F.HST_RSM_CTRL_DIR h
  if group.isEmpty then .next s
  else if skew > 200 then .next ((s.put F.HST_RSM_STAT_ALIGN_FAIL 1 h).put F.HST_RSM_STAT_LOCK 0 h)
  else if s.rsmUnframed h then
    .next (s.put F.HST_RSM_STAT_LOCK 0 h)
  else
    let total := (corr.map Prod.snd).sum
    let bad := unc || total > 15
    .next (fathomOffer 8 (fun f => bitsOf f 3 0 = h.val && bitsOf f 8 8 = egress.toNat) (if bad then 16 else Int.ofNat total)
      (rsmCounted h bad corr (s.put F.HST_RSM_STAT_LOCK 1 h)))

/-! ## HOST_SET_EQ (R175) -/

/-- The settings that HOST_SET_EQ command c names for host lane h; tx says that any is the transmitter's, and waits for its
boundary (R175). -/
def hostEqLane (c : Cmd) (tx : Bool) (h : Nat) (s : State) : State :=
  let s := if tx then hstShadowBegin h s else s
  let s := if c.bits 2 17 17 = 1 then s.put F.HST_TX_CTRL_MANUAL (c.bits 2 16 16) h else s
  let s := if c.bits 2 18 18 = 1 then
      ((s.writePlain R.HST_TX_FIR0 (c.word 3) h).writePlain R.HST_TX_FIR1 (c.word 4) h).put F.HST_TX_CTRL_MANUAL 1 h
    else s
  let s := if c.bits 2 19 19 = 1 then s.put F.HST_TX_CTRL_SWING (c.bits 5 6 0) h else s
  let s := if c.bits 6 5 5 = 1 then
      (s.put F.HST_RX_CTRL_CTLE_CODE (c.bits 6 3 0) h).put F.HST_RX_CTRL_CTLE_MAN (c.bits 6 4 4) h
    else s
  let s := if c.bits 6 9 9 = 1 then s.put F.HST_RX_CTRL_DFE_EN (c.bits 6 8 8) h else s
  if tx then hstApply h s else s

/-- HOST_SET_EQ changes the transmitter: its MANUAL bit, its taps or its swing (R175). -/
def Cmd.hostEqTx (c : Cmd) : Bool := c.bits 2 18 18 = 1 || c.bits 2 19 19 = 1 || c.bits 2 17 17 = 1

/-- HOST_SET_EQ has taps that sum to more than 128, or a swing outside 20 to 120 (R175). -/
def Cmd.hostEqBad (c : Cmd) : Bool :=
  (c.bits 2 18 18 = 1 && hstTapSum (c.word 3) (c.word 4) > 128)
    || (c.bits 2 19 19 = 1 && (c.bits 5 6 0 < 20 || c.bits 5 6 0 > 120))

/-- The boundaries HOST_SET_EQ waits for: of each lane's transmitter, and with 16 added of each lane's receiver. -/
def Cmd.hostEqWaits (c : Cmd) (lanes : List Nat) : List Nat :=
  (if c.hostEqTx then lanes else [])
    ++ (if c.bits 6 5 5 = 1 || c.bits 6 9 9 = 1 then lanes.map (· + 16) else [])

/-- HOST_SET_EQ. -/
def execHostSetEq (m : MBox) (s : State) : Host.Outcome State Fault Refusal :=
  .next (runCmd 0x28 m (fun c s =>
    let lanes := maskLanes 16 (c.bits 2 15 0)
    if c.hostEqBad then s.finish c .badLength
    else if lanes.any fun h => !s.hostOn h then s.finish c .blockOff
    else
      let s := eachOf lanes (hostEqLane c c.hostEqTx) s
      let waits := c.hostEqWaits lanes
      if waits.isEmpty then s.finish c .done else s.await c (.hostEq waits)) s)

/-! ## Datapaths on demand (R382) -/

/-- The receiver of line lane n goes off: LOS reads 1 and LOL 0, with no event (R124). -/
def State.rxOff (s : State) (n : Nat) : State :=
  let s := s.dropStep (.lrx n)
  let s := if s.rxRuns n then s.put F.PWR_CLK_STAT_RX_LOCK (s.get F.PWR_CLK_STAT_RX_LOCK - 2 ^ n) else s
  let s := (s.put F.LRX_LOS_STAT_LOS 1 n).put F.LRX_LOS_STAT_LOL 0 n
  let s := ((s.rxDown n).phyLost n).modRx n fun t => { t with lolHeld := true, lolMode := false, outOfRange := false }
  s.refreshHosts

/-- A host lane out of use: LOS reads 1 and LOL 0, with no event (R162). -/
def State.hostOff (s : State) (h : Nat) : State :=
  let s := (s.put F.HST_LANE_STAT_LOS 1 h).put F.HST_LANE_STAT_LOL 0 h
  (s.hostDown h).modHst h fun t => { t with lolHeld := false }

/-- Line lane n's receiver is wanted on: in ACTIVE, assigned or, for L8, not UNARMED. -/
def State.rxWanted (s : State) (n : Nat) : Bool :=
  s.get F.PWR_STATE_STATE = 3 && s.laneOn n
    && (if n = 8 then s.get F.LRX_PROT_STAT_STATE ≠ 0 || s.lanes.prot.disarming else s.mode n ≠ 0)

/-- Quad q is wanted on: in ACTIVE, with a lane in use. -/
def State.quadWanted (s : State) (q : Nat) : Bool :=
  s.get F.PWR_STATE_STATE = 3 && s.hostOn (4 * q) && (List.range 4).any fun i => s.hostMode (4 * q + i) ≠ 0

/-- A PStep is powered or on its way. -/
def State.stepped (s : State) (p : PStep) : Bool := s.powered p || s.grant.pending.contains p

/-- Receivers and host quads are powered on demand, CORE when a lane is assigned in ACTIVE; what is wanted no more goes
off at once, but for CORE, which waits for its gate (R375). -/
def State.demand (s : State) : State :=
  let s := eachBelow 9 (fun n s =>
    if s.rxWanted n then (if s.stepped (.lrx n) then s else (s.chainRestart n).wantStep (.lrx n))
    else if s.stepped (.lrx n) then s.rxOff n else s) s
  let s := eachBelow 4 (fun q s =>
    if s.quadWanted q then s.wantStep (.hst q)
    else if s.stepped (.hst q) then
      let s := s.dropStep (.hst q)
      let s := eachBelow 4 (fun i s => s.hostOff (4 * q + i)) s
      if s.get F.PWR_CLK_STAT_HST_LOCK / 2 ^ q % 2 = 1 then s.put F.PWR_CLK_STAT_HST_LOCK (s.get F.PWR_CLK_STAT_HST_LOCK - 2 ^ q)
      else s
    else s) s
  if s.get F.PWR_STATE_STATE = 3 && s.flag F.PWR_BLK_EN_CORE && s.assigned then s.wantStep .core else s

end Sys2Proof.Machine
end

