-- ==== Sys2Proof/Machine/Optical.lean ====
section
/-! DEFINITION. Sys2Proof/Machine/Optical.lean: optical front-end control (R176 to R196): output channels and their slew
limiters, strobe groups, waveforms, the lane state machine with its token, deferred LIVE, PROBE, the bias lock, and
the laser safety cuts. -/

namespace Sys2Proof.Machine

def State.olc (s : State) (n : Nat) : Olc := s.optics.lane[Fin.ofNat 9 n]
def State.chan (s : State) (c : Nat) : Chan := s.optics.chan[Fin.ofNat 45 c]

def State.modOlc (s : State) (n : Nat) (f : Olc → Olc) : State :=
  let i := Fin.ofNat 9 n
  { s with optics := { s.optics with lane := s.optics.lane.set i (f s.optics.lane[i]) } }
def State.modChan (s : State) (c : Nat) (f : Chan → Chan) : State :=
  let i := Fin.ofNat 45 c
  { s with optics := { s.optics with chan := s.optics.chan.set i (f s.optics.chan[i]) } }

/-- Optical state of lane n: 0 OFF, 1 BIAS, 2 ARMED, 3 LIVE, 4 PROBE (R183). -/
def State.laneState (s : State) (n : Nat) : Nat := s.get F.OLC_STAT_STATE n
/-- A transition of lane n is under way, to the target state. -/
def State.laneTrans (s : State) (n : Nat) : Bool := s.flag F.OLC_STAT_TRANS n
def State.laneTarget (s : State) (n : Nat) : Nat := s.get F.OLC_STAT_TARGET n

/-- The device is in ACTIVE (R374). -/
def State.active (s : State) : Bool := s.get F.PWR_STATE_STATE = 3

/-- The MGMT domain is on and its clock runs: KEEP or ACTIVE. -/
def State.mgmtOn (s : State) : Bool := s.flag F.PWR_CLK_STAT_MGMT_LOCK

/-! ## Laser limits (R193) -/

/-- The largest laser code of lane n in a range: IMAX is in RANGE 1 LSBs (R193). -/
def State.lbMax (s : State) (n range : Nat) : Nat := s.get F.OLC_SAFE_LIM_IMAX n * (if range = 0 then 4 else 1)

/-- The range that the code of lane n is read in: the one that a RANGE change leads to while it runs. -/
def State.codeRange (s : State) (n : Nat) : Nat := (s.chan (5 * n)).rangeNew.getD (s.chan (5 * n)).range

/-- The LB code in use: min(code, IMAX), IMAX being in RANGE 1 LSBs. -/
def State.lbCode (s : State) (n code : Nat) : Nat := min code (s.lbMax n (s.chan (5 * n)).range)

/-- The bias target of lane n in units of 1.6 A / 2^24, so that RANGE 1 LSBs count 4 and RANGE 0 LSBs 1. -/
def State.biasUnits (s : State) (n : Nat) : Nat :=
  min (s.chan (5 * n)).target (s.lbMax n (s.codeRange n)) * (if s.codeRange n = 0 then 1 else 4)

/-- The sum of the bias targets of the lanes given exceeds ITOT (R193): an LSB of RANGE 0 is 40 mA / 2^16, and ITOT is
in 0.1 mA. -/
def State.beyondItot (s : State) (lanes : List Nat) : Bool :=
  decide ((lanes.map s.biasUnits).sum * 400 > s.get F.OLC_SAFE_GLB_ITOT * 65536)

/-- Lane n is lit or on its way: in BIAS or higher, or ramping up from OFF. -/
def State.lit (s : State) (n : Nat) : Bool := 1 ≤ s.laneState n || (s.laneTrans n && 1 ≤ s.laneTarget n)

/-- The setting of VLAS in mV (R21): 0.35 V above the highest forward voltage of the lasers in use, within the range of
the rail; 0 while it is off. DESIGN CHOICE, log 21. -/
def State.vlasSet (s : State) : Nat :=
  if s.powered .vlas then
    let vf := ((List.range 9).filter s.lit).map fun n => (Config.laserVf n).toNat
    max 900 (min 3000 (350 + vf.foldl max 0))
  else 0

/-! ## Requests (R184 to R187, R195, R196) -/

/-- Lane n is faulted or locked out: every request completes with DENIED (R195). -/
def State.faulted (s : State) (n : Nat) : Bool := s.get F.OLC_FAULT_FAULT n ≠ 0 || s.flag F.OLC_FAULT_LOCKOUT n

/-- The reason to refuse a request of target tg for a set of lanes, if there is one. own says that the spare strand's
own protection asks for L8. DEDUCED, log 126. DEDUCED, log 127. -/
def laneRefusal (s : State) (lanes : List Nat) (tg : Nat) (own : Bool) : Option Status :=
  let lighting := lanes.filter fun n => tg ≠ 0 && s.laneState n = 0 && !s.flag F.OLC_STAT_TXDIS n
  let all := ((List.range 9).filter s.lit) ++ lighting.filter fun n => !s.lit n
  if s.bst.safe || lanes.any (fun n => s.faulted n || (n = 8 && !s.l8Present)) then some .denied
  else if !s.mgmtOn || lanes.any (fun n => !s.laneOn n) then some .blockOff
  else if lanes.any (fun n => s.get F.BST_STAT_PENDING / 2 ^ n % 2 = 1) then some .conflict
  else if lanes.any (fun n => 2 ≤ tg && (s.mode n = 0 || (n = 8 && !own && s.get F.LRX_PROT_STAT_STATE ≠ 0))) then
    some .conflict
  else if tg ≠ 0 && !s.active then some .conflict
  else if lanes.any (fun n => 2 ≤ tg && 2 ≤ (s.pll (n / 2)).state && !((s.pll (n / 2)).band = s.mode n)
      && (match partner n with | none => false | some k => s.laneState k = 3)) then some .conflict
  else if !lighting.isEmpty && s.beyondItot all then some .conflict
  else none

/-- Commands that wait for lane n's state or probe complete with st, and RESULT records it. -/
def State.endRequests (s : State) (n : Nat) (st : Status) : State :=
  let s := if s.laneTrans n then s.put F.OLC_STAT_RESULT st.code n else s
  s.finishWhere (fun w => match w with
    | .laneState _ lanes _ _ => lanes.contains n
    | .probe k => k = n
    | _ => false) st

/-- Lane n has arrived at its target: its request completes, and so does a command with no lane left to wait for. -/
def State.arrive (s : State) (n : Nat) : State :=
  let s := ((s.put F.OLC_STAT_TRANS 0 n).put F.OLC_STAT_DEFER 0 n).put F.OLC_STAT_RESULT 0 n
  let s := (s.put F.OLC_STAT_TARGET 0 n).put F.OLC_STAT_TOKEN_WAIT 0 n
  let s := s.mapWaits fun w => match w with
    | .laneState t lanes failed d => .laneState t (lanes.filter fun k => !(k = n)) failed d
    | w => w
  let s := s.finishWhere (fun w => match w with
    | .laneState _ [] [] _ => true
    | _ => false) .done
  let failed := s.mbx.outstanding.filterMap fun c => match c.stage with
    | .executing (.laneState _ [] f _) => some (c, f)
    | _ => none
  let s := failed.foldl (fun s p => s.finish p.1 .timedOut ((p.2.map fun k => 2 ^ k).sum)) s
  let s := if s.laneState n = 4 then s else s.finishWhere (fun w => w = .probe n) .done
  -- a disarmed or failed L8 has reached OFF (R61, R73)
  if n = 8 && s.laneState 8 = 0 && s.lanes.prot.disarming then
    let s := (s.modProt fun p => { p with disarming := false }).put F.LTX_LANE_CFG_SHADOW_EN 0 8
    let s := if s.get F.LRX_PROT_STAT_STATE = 4 then s else s.put F.LRX_PROT_STAT_STATE 0
    (s.finishWhere (fun w => w = .protect 0) .done).demand
  else s

/-- Leave PROBE: the pattern source returns to traffic, and a PLL that followed the receive clock goes back to its
reference and reports READY again before the lane is ARMED (R188, R189). The lane stands in ARMED, or in BIAS while
its PLL is not READY. -/
def State.probeExit (s : State) (n : Nat) : State :=
  match (s.olc n).probe with
  | none => s
  | some p =>
    let s := s.modOlc n fun o => { o with probe := none }
    let s := if p.kind = 0 then (patStart n 0 s).put F.LTX_PAT_CTRL_SRC 0 n
      else if p.kind = 1 then ((s.rxDown n).phyLost n).refreshHosts else s
    let s := if p.kind = 2 then
        pllSquelch (n / 2) true (s.modPll (n / 2) fun t => { t with rxRef := false, state := 3, ready := false, relock := true })
      else s
    s.setLane n (if (s.pll (n / 2)).ready then 2 else 1)

/-- One immediate step of lane n towards its target, as the rows of R184 say; the state is unchanged where the lane
must wait for a ramp, the token, the PLL or a boundary. fuel bounds the rows passed at once. DEDUCED, log 182. -/
def State.laneAdvance (s : State) (fuel n : Nat) : State :=
  match fuel with
  | 0 => s
  | fuel + 1 =>
    let st := s.laneState n
    let tg := s.laneTarget n
    if !s.laneTrans n || s.grant.running = some (.ramp n) then s
    else match st with
      | 0 =>
        if tg = 0 then (if (s.chan (5 * n)).slewed = 0 then s.arrive n else s.wantStep (.ramp n))
        else if s.flag F.OLC_STAT_TXDIS n then s.arrive n
        else (s.wantStep .vlas).wantStep (.ramp n)
      | 1 =>
        if tg = 1 then s.arrive n
        else if tg = 0 then s.wantStep (.ramp n)
        else if (s.pll (n / 2)).ready then (s.setLane n 2).laneAdvance fuel n
        else pllStart (n / 2) s
      | 2 =>
        if tg = 2 then s.arrive n
        else if tg ≤ 1 then (s.setLane n 1).laneAdvance fuel n
        else s
      | 3 =>
        if tg = 3 then s.arrive n
        else if tg = 4 then s
        else (s.setLane n (if tg = 2 then 2 else 1)).laneAdvance fuel n
      | _ => (s.probeExit n).laneAdvance fuel n

/-- A RANGE sequence of lane n runs or waits (R179). -/
def State.rangeRuns (s : State) (n : Nat) : Bool := (s.chan (5 * n)).rangeNew.isSome || (s.chan (5 * n)).rangeUp

/-- A ramp of lane n no longer waits for the token, but for that of a RANGE sequence, which no request asked for. -/
def State.rampUnwant (s : State) (n : Nat) : State :=
  if s.rangeRuns n then s
  else (s.modGrant fun g => { g with pending := g.pending.filter fun q => !(q = .ramp n) }).put F.OLC_STAT_TOKEN_WAIT 0 n

/-- A request for the lanes given is refused with st, which RESULT records (R185). -/
def requestRefused (lanes : List Nat) (st : Status) (s : State) : State :=
  eachOf lanes (fun n s => s.put F.OLC_STAT_RESULT st.code n) s

/-- Lane n takes a new target in place of any earlier one, whose command completes with CANCELLED (R185). -/
def State.laneRequest (s : State) (n tg : Nat) : State :=
  let s := s.endRequests n .cancelled
  let s := s.rampUnwant n
  let s := (s.put F.OLC_STAT_TRANS 1 n).put F.OLC_STAT_TARGET tg n
  let s := s.put F.OLC_STAT_DEFER (if tg = 2 || tg = 3 then 1 else 0) n
  s.modOlc n fun o => { o with rampHeld := false, last := if tg = 4 then o.last else tg }

/-- The lanes set out for target tg and command c waits for them; the interim completion of R187 is posted where a lane
is still on its way to ARMED or LIVE (R196). -/
def laneStatesSet (c : Cmd) (lanes : List Nat) (tg : Nat) (s : State) : State :=
  let s := eachOf lanes (fun n s => s.laneRequest n tg) s
  let s := s.await c (.laneState tg lanes [] (decide (2 ≤ tg)))
  let s := eachOf lanes (fun n s => s.laneAdvance 5 n) s
  if 2 ≤ tg && (s.cmdById c.id).isSome && !c.noInterim then s.postCpl (c.word 0) c.m .deferred .deferred 0 false
  else s

/-- LANE_SET_STATE (R196). -/
def execLaneSetState (m : MBox) (s : State) : Host.Outcome State Fault Refusal :=
  .next (runCmd 0x21 m (fun c s =>
    let lanes := maskLanes 9 (c.bits 2 8 0)
    let tg := c.bits 2 18 16
    if tg > 3 then (requestRefused lanes .badOpcode s).finish c .badOpcode
    else match laneRefusal s lanes tg false with
      | some st => (requestRefused lanes st s).finish c st
      | none =>
        if lanes.isEmpty then s.finish c .done else laneStatesSet c lanes tg s) s)

/-- A request by a write of OLC_CTRLn.REQ: its outcome shows in RESULT; other values are ignored (R185). -/
def olcReqWrite (n : Nat) (v : Word) (s : State) : State :=
  let tg := bitsOf v 2 0
  if tg > 3 then s
  else
    let s := s.put F.OLC_CTRL_REQ tg n
    match laneRefusal s [n] tg false with
    | some st => s.put F.OLC_STAT_RESULT st.code n
    | none => (s.laneRequest n tg).laneAdvance 5 n

/-- The 5 ms limit of lane n passes (R187): it returns to BIAS with CAUSE 0x2, and its command posts TIMED_OUT once no
other lane is on its way, naming the lanes that did not arrive. -/
def deferredLimit (n : Nat) (s : State) : State :=
  if s.laneTrans n && s.flag F.OLC_STAT_DEFER n && (s.laneState n = 1 || s.laneState n = 2) then
    let s := (((s.setLane n 1).put F.OLC_STAT_CAUSE 2 n).put F.OLC_STAT_TRANS 0 n).put F.OLC_STAT_DEFER 0 n
    let s := s.put F.OLC_STAT_RESULT Status.timedOut.code n
    let s := s.mapWaits fun w => match w with
      | .laneState t lanes failed d =>
        if lanes.contains n then .laneState t (lanes.filter fun k => !(k = n)) (failed ++ [n]) d else w
      | w => w
    let failed := s.mbx.outstanding.filterMap fun c => match c.stage with
      | .executing (.laneState _ [] f _) => some (c, f)
      | _ => none
    let s := failed.foldl (fun s p => s.finish p.1 .timedOut ((p.2.map fun k => 2 ^ k).sum)) s
    s.finishWhere (fun w => w = .probe n) .timedOut
  else s

/-- A request that has waited 100 ms for the token ends: the lane stays where it is, and its laser output too, until the
next request (R186). A RANGE sequence waits on. -/
def tokenLimit (n : Nat) (s : State) : State :=
  if s.flag F.OLC_STAT_TOKEN_WAIT n && s.grant.pending.contains (.ramp n) && s.laneTrans n then
    let s := (s.endRequests n .timedOut).rampUnwant n
    let s := s.modOlc n fun o => { o with rampHeld := true, probe := if s.laneState n = 4 then o.probe else none }
    (s.put F.OLC_STAT_TRANS 0 n).put F.OLC_STAT_DEFER 0 n
  else s

/-! ## TX PLL events that move lanes (R93, R94, R184) -/

/-- Lanes of PLL p on their way from BIAS go on once it is READY. -/
def pllAdvance (p : Nat) (s : State) : State :=
  eachOf (pairLanes p) (fun n s => if s.laneState n = 1 then s.laneAdvance 5 n else s) s

/-- The reference of a relock: the current one while its host lane has signal and lock, else the best feeding lane
(R92, R93). -/
def State.pllAgain (s : State) (p : Nat) : Option Nat :=
  if s.hostOk (s.pll p).ref && (s.pllFeeds p).contains (s.pll p).ref then some (s.pll p).ref else s.pllBest p

/-- Event 3: locked to the source lane or to another feeding lane; with none, the PLL waits in LOCKING. A relock after
a loss reports READY at once. A PLL that follows a recovered receive clock needs no host lane (R189). -/
def execTxPllLocked (p : Fin 5) (s : State) : Host.Outcome State Fault Refusal :=
  if (s.pll p).state = 3 then
    match (if (s.pll p).rxRef then some (s.pll p).ref else if (s.pll p).relock then s.pllAgain p else s.pllPick p) with
    | none => .next s
    | some h => .next (pllAdvance p (s.modPll p fun t =>
        { t with state := 4, ref := h, ready := t.ready || t.relock, relock := false, long := false }))
  else .next s

/-- Event 4: calibration complete, READY. -/
def execTxPllReady (p : Fin 5) (s : State) : Host.Outcome State Fault Refusal :=
  if (s.pll p).state = 4 && !(s.pll p).ready then
    .next (pllAdvance p (s.modPll p fun t => { t with ready := true }))
  else .next s

/-! ## PROBE (R188, R189) -/

/-- Start a probe on lane n: refused with the status given, or the lane is on its way to PROBE. DEDUCED, log 46.
DEDUCED, log 124. -/
def State.probeStart (s : State) (n kind src ret dur : Nat) : Option Status × State :=
  let st := s.laneState n
  if kind = 3 then (some .badOpcode, s)
  else match laneRefusal s [n] 2 false with
    | some r => (some r, s)
    | none =>
      if st = 0 then (some .conflict, s)
      else if kind = 2 && (match partner n with | none => false | some k => 2 ≤ s.laneState k) then (some .conflict, s)
      else
        let s := s.laneRequest n 4
        let s := if st = 4 then s.probeExit n else s
        let back := if ret = 0 then (if st = 4 then 2 else st) else ret
        let p : Probe := { kind := kind, src := src, ret := back, held := dur = 0 }
        (none, s.modOlc n fun o => { o with probe := some p })

/-- LANE_PROBE (R196). -/
def execLaneProbe (m : MBox) (s : State) : Host.Outcome State Fault Refusal :=
  .next (runCmd 0x22 m (fun c s =>
    let n := c.bits 2 3 0
    if n > 8 then s.finish c .badLength
    else match s.probeStart n (c.bits 2 5 4) (c.bits 2 11 8) (c.bits 2 13 12) (c.bits 2 31 16) with
      | (some st, s) => (requestRefused [n] st s).finish c st
      | (none, s) => (s.await c (.probe n)).laneAdvance 5 n) s)

/-- A write of OLC_PROBEn with GO starts the probe that the word sets. -/
def olcProbeWrite (n : Nat) (v : Word) (s : State) : State :=
  let s := s.writePlain R.OLC_PROBE v n
  if bitsOf v 0 0 = 1 then
    match s.probeStart n (bitsOf v 5 4) (bitsOf v 11 8) (bitsOf v 13 12) (bitsOf v 31 16) with
    | (some st, s) => s.put F.OLC_STAT_RESULT st.code n
    | (none, s) => s.laneAdvance 5 n
  else s

/-- What a probe of lane n does as it begins: the pattern of kind 0, unless R96 refuses its range, which sets ERR; a media
output loop-back starts the receiver's acquisition anew; a media input loop-back gives the PLL the receive clock. -/
def probeBegin (n : Nat) (p : Probe) (s : State) : State :=
  match p.kind with
  | 0 =>
    if p.src = 0 || 6 < p.src then s
    else if 5 ≤ p.src && patBeyond n s then s.put F.LTX_PAT_CTRL_ERR 1 n
    else (patStart n p.src s).put F.LTX_PAT_CTRL_SRC p.src n
  | 1 => ((s.rxDown n).phyLost n).refreshHosts
  | _ => s.modPll (n / 2) fun t => { t with rxRef := true }

/-- The lane enters PROBE; a held probe's command completes at its entry. What the lane's transmitter sends is copied on
an L8 that shadows it (R97, txLevel). DEDUCED, log 123. -/
def State.probeEnter (s : State) (n : Nat) : State :=
  match (s.olc n).probe with
  | none => s
  | some p =>
    let s := probeBegin n p (((s.setLane n 4).put F.OLC_STAT_TRANS 0 n).put F.OLC_STAT_TARGET 0 n)
    if p.held then (s.put F.OLC_STAT_RESULT 0 n).finishWhere (fun w => w = .probe n) .done else s

/-- The probe's duration ends: the lane returns to its RETURN state by the rows of R184, to LIVE as R187 says. -/
def execProbeDurationEnd (n : Line) (s : State) : Host.Outcome State Fault Refusal :=
  match (s.olc n).probe with
  | none => .next s
  | some p =>
    if s.laneState n = 4 && !p.held then
      let s := ((s.probeExit n).put F.OLC_STAT_TRANS 1 n).put F.OLC_STAT_TARGET p.ret n
      .next ((s.put F.OLC_STAT_DEFER (if p.ret = 3 then 1 else 0) n).laneAdvance 5 n)
    else .next s

/-- What the optical state does at a TX AM boundary of lane n (rows 4 and 7 of R184): an ARMED lane with a LIVE request
and a ready PLL goes LIVE; a lane asked to PROBE enters it. -/
def olcBoundary (n : Nat) (s : State) : State :=
  if !s.laneTrans n then s
  else if s.laneState n = 2 && s.laneTarget n = 3 && s.pllGood n then (s.setLane n 3).arrive n
  else if (s.laneState n = 2 || s.laneState n = 3) && s.laneTarget n = 4 then s.probeEnter n
  else s

/-! ## Output channels (R176 to R182) -/

/-- Width of channel k's code: LB 16, MB 14, HT 12 bits. -/
def chanMax (k : Nat) : Nat := if k = 0 then 65535 else if k ≤ 2 then 16383 else 4095

/-- VDRV is wanted while any MB or HT channel has a code or a waveform, in KEEP and ACTIVE (R374); its enable takes the
token (R386). -/
def State.vdrvDemand (s : State) : State :=
  let used := (List.range 45).any fun c => c % 5 ≠ 0 && ((s.chan c).target ≠ 0 || (s.chan c).play.isSome)
  if s.mgmtOn && used then s.wantStep .vdrv else s.dropStep .vdrv

/-- VLAS goes off once no lane emits and no ramp waits (R374). -/
def State.vlasDrop (s : State) : State :=
  let used := (List.range 9).any fun n => s.lit n || (s.chan (5 * n)).slewed ≠ 0 || s.stepped (.ramp n)
    || s.grant.running = some (.ramp n)
  if used || s.grant.running = some .vlas then s else s.dropStep .vlas

/-- Load a code as channel (n, k)'s target; a laser code above IMAX sets CLAMP (R193). -/
def chanLoad (n k code : Nat) (s : State) : State :=
  let s := s.modChan (5 * n + k) fun c => { c with target := code }
  if k = 0 then (if s.lbMax n (s.codeRange n) < code then s.put F.OLC_CODE_CLAMP 1 n 0 else s) else s.vdrvDemand

/-- The range of lane n's laser output in OFF is stored (R179); an output that still ramps down does so in the old one. -/
def rangeStore (n range : Nat) (s : State) : State :=
  s.modChan (5 * n) fun t =>
    if t.slewed = 0 then { t with range := range, rangeNew := none } else { t with rangeNew := some range }

/-- A write of a code register (R177, R179, R181). DEDUCED, log 128. -/
def olcCodeWrite (n k : Nat) (v : Word) (s : State) : State :=
  let c := 5 * n + k
  let code := bitsOf v 15 0 % (chanMax k + 1)
  let clamp0 := s.flag F.OLC_CODE_CLAMP n k && bitsOf v 29 29 = 0
  let range := if k = 0 then bitsOf v 24 24 else 0
  let s := s.setWord R.OLC_CODE (BitVec.ofNat 32 (code + 2 ^ 31 + (if s.flag F.OLC_CODE_STAGED n k then 2 ^ 30 else 0)
    + (if clamp0 then 2 ^ 29 else 0) + range * 2 ^ 24 + (if 3 ≤ k then bitsOf v 21 16 * 2 ^ 16 else 0))) n k
  let ch := s.chan c
  let s := if k ≠ 0 || (range = ch.range && ch.rangeNew.isNone) then s
    else if s.laneState n = 0 then rangeStore n range s
    else (((s.modChan c fun t => { t with rangeNew := some range }).put F.OLC_CH_OUT_RANGE_CHG 1 c).lydLose n).wantStep (.ramp n)
  let s := if k = 0 && s.laneState n ≠ 0 then s.modChan c fun t => { t with hiZ := false } else s
  let auto := s.get F.OLC_STROBE_CFG_AUTO / 2 ^ s.get F.OLC_CH_CFG_GROUP c % 2 = 1
  if auto then (chanLoad n k code s).put F.OLC_CODE_STAGED 0 n k
  else (s.modChan c fun t => { t with staged := code }).put F.OLC_CODE_STAGED 1 n k

/-- A strobe turns the staged codes of the named groups into targets (R181). -/
def olcStrobe (mask : Nat) (s : State) : State :=
  eachBelow 45 (fun c s =>
    if s.flag F.OLC_CODE_STAGED (c / 5) (c % 5) && mask / 2 ^ s.get F.OLC_CH_CFG_GROUP c % 2 = 1 then
      (chanLoad (c / 5) (c % 5) (s.chan c).staged s).put F.OLC_CODE_STAGED 0 (c / 5) (c % 5)
    else s) s

/-- A write of OLC_CH_WAVc: START begins at entry 0, and is ignored where the range passes the region; STOP ends playback
(R182). -/
def olcWavWrite (c : Nat) (v : Word) (s : State) : State :=
  let s := s.writePlain R.OLC_CH_WAV v c
  let mode := s.get F.OLC_CH_WAV_MODE c
  let loops := s.get F.OLC_CH_WAV_LOOP c
  let fits := s.get F.OLC_CH_WBASE_VALUE c + s.get F.OLC_CH_WLEN_VALUE c ≤ 0x10000
  let s := if bitsOf v 1 1 = 1 || mode = 0 || mode = 3 then
      (s.modChan c fun t => { t with play := none, absTarget := none }).put F.OLC_CH_OUT_PLAYING 0 c
    else s
  if bitsOf v 0 0 = 1 && (mode = 1 || mode = 2) && fits then
    ((s.modChan c fun t => { t with play := some { entry := 0, left := if loops = 0 then none else some loops } }).put
      F.OLC_CH_OUT_PLAYING 1 c).vdrvDemand
  else s

/-- Entry i of channel c's waveform: a 16-bit little-endian word. -/
def wavEntry (s : State) (c i : Nat) : Nat :=
  leVal (s.bytes (0x81700000 + s.get F.OLC_CH_WBASE_VALUE c * 64 + 2 * i) 2)

/-- A tick consumes one entry of a waveform in playback: the entry, and the playback after it. -/
def wavTick (c : Nat) (s : State) : Option Nat × State :=
  match (s.chan c).play with
  | none => (none, s)
  | some p =>
    let e := wavEntry s c p.entry
    let n := 32 * s.get F.OLC_CH_WLEN_VALUE c
    let next : Option Play :=
      if p.entry + 1 < n then some { p with entry := p.entry + 1 }
      else match p.left with
        | none => some { p with entry := 0 }
        | some k => if k ≤ 1 then none else some { p with entry := 0, left := some (k - 1) }
    (some e, (s.modChan c fun t => { t with play := next, ended := next.isNone }).putB F.OLC_CH_OUT_PLAYING next.isSome c)

/-- An LB ramp of lane n needs the token: rows 1 and 2 of R184, the RANGE sequence, a ramp turned back, or one that was
given up on its way. -/
def State.rampNeeds (s : State) (n : Nat) : Bool :=
  let ch := s.chan (5 * n)
  (s.laneTrans n && (s.laneState n = 0 || (s.laneState n = 1 && s.laneTarget n = 0)))
    || (ch.rangeNew.isSome && (s.laneState n ≠ 0 || s.laneTrans n)) || ch.rangeUp
    || s.grant.running = some (.ramp n) || (s.olc n).rampHeld

/-- Where the LB output of lane n is bound: 0 in OFF and on the way to it, and in the first half of a RANGE sequence;
else the code in use, or the entry of an ABS waveform within the Cleat limits. -/
def State.lbGoal (s : State) (n : Nat) : Nat :=
  let ch := s.chan (5 * n)
  let dark := ch.rangeNew.isSome || (s.laneState n = 0 && !(s.laneTrans n && 1 ≤ s.laneTarget n))
    || (s.laneState n = 1 && s.laneTrans n && s.laneTarget n = 0) || !s.flag F.OLC_CODE_WRITTEN n 0
  if dark then 0 else s.lbCode n (ch.absTarget.getD ch.target)

/-- What channel c slews to: an MB or HT output needs VDRV and a written code (R177). -/
def State.chanGoal (s : State) (c : Nat) : Nat :=
  let ch := s.chan c
  if c % 5 = 0 then s.lbGoal (c / 5)
  else if s.powered .vdrv && s.flag F.OLC_CODE_WRITTEN (c / 5) (c % 5) then ch.absTarget.getD ch.target
  else 0

/-- Largest move of channel c in one tick, none where there is no limit (R178). -/
def chanStep (s : State) (c : Nat) : Option Nat :=
  let step := s.get F.OLC_CH_CFG_STEP c
  if c % 5 = 0 then
    let div := max 1 (min 1000 (s.get F.OLC_CH_CFG_DIV c))
    let cleat := s.get F.OLC_SAFE_LIM_MAX_SLEW (c / 5) * div * (if (s.chan c).range = 0 then 4 else 1)
    some (if step = 0 then cleat else min step cleat)
  else if step = 0 then none else some step

/-- Move from x towards goal. -/
def slewTo (step : Option Nat) (x goal : Nat) : Nat :=
  match step with
  | none => goal
  | some k => if x < goal then min goal (x + k) else max goal (x - k)

/-- The LB ramp of lane n has reached its goal under the token: the range switches, or the lane arrives at BIAS or
OFF, and the token is released. -/
def rampDone (n : Nat) (s : State) : State :=
  let c := 5 * n
  match (s.chan c).rangeNew with
  | some r =>
    let s := s.modChan c fun t => { t with range := r, rangeNew := none, rangeUp := true }
    chanLoad n 0 (s.chan c).target s
  | none =>
    let s := (s.modChan c fun t => { t with rangeUp := false }).put F.OLC_CH_OUT_RANGE_CHG 0 c
    let st := s.laneState n
    let s := if s.laneTrans n && st = 0 && 1 ≤ s.laneTarget n then s.setLane n 1
      else if s.laneTrans n && st = 1 && s.laneTarget n = 0 then s.setLane n 0
      else s
    (s.stepEnd (.ramp n)).laneAdvance 5 n

/-- The shaped turn-on ramp of a laser plays once from its start (R182). -/
def turnOnStart (c : Fin 45) (s : State) : State :=
  let n := c.val / 5
  if c.val % 5 = 0 && s.laneState n = 0 && s.grant.running = some (.ramp n) && s.flag F.OLC_CH_WAV_TURN_ON c
      && s.get F.OLC_CH_WAV_MODE c = 1 && (s.chan c).play.isNone && (s.chan c).slewed = 0 && (s.chan c).absTarget.isNone then
    (s.modChan c fun t => { t with play := some { entry := 0, left := some 1, turnOn := true } }).put F.OLC_CH_OUT_PLAYING 1 c
  else s

/-- Channel c plays a shaped turn-on ramp. -/
def State.turningOn (s : State) (c : Nat) : Bool :=
  match (s.chan c).play with
  | some p => p.turnOn
  | none => false

/-- The output of channel c moves towards its goal by at most its step, with the playback's entry added or as the goal
(R178, R182). -/
def slewMove (c : Fin 45) (s : State) : State :=
  let n := c.val / 5
  let k := c.val % 5
  let lit := k ≠ 0 || 1 ≤ s.laneState n || s.grant.running = some (.ramp n)
  let abs := s.get F.OLC_CH_WAV_MODE c = 1
  let s := s.modChan c fun t => { t with ended := false }
  let (entry, s) := if s.turningOn c && s.grant.running ≠ some (.ramp n) then (none, s) else wavTick c s
  let s := s.modChan c fun t => { t with absTarget := if abs then entry.map (min (chanMax k)) else none }
  let add : Int := match entry with
    | some e => if abs || !s.flag F.OLC_CODE_WRITTEN n k then 0 else signed 16 e
    | none => 0
  let goal := s.chanGoal c
  let may := k ≠ 0 || !s.rampNeeds n || s.grant.running = some (.ramp n)
  let x := (s.chan c).slewed
  let y := if may then slewTo (chanStep s c) x goal else x
  let out := if k ≠ 0 && !s.powered .vdrv then 0 else (clamp 0 (Int.ofNat (chanMax k)) (Int.ofNat y + add)).toNat
  let out := if k = 0 then (if lit || y ≠ 0 then min out (s.lbCode n 65535) else 0) else out
  (s.modChan c fun t => { t with slewed := y }).put F.OLC_CH_OUT_OUT out c

/-- An output that has come to zero in OFF takes the stored range (R177, R179). -/
def rangeZero (n : Nat) (s : State) : State :=
  s.modChan (5 * n) fun t => { t with range := t.rangeNew.getD t.range, rangeNew := none }

/-- A laser channel that has reached its goal ends its ramp, unless a shaped ramp played an entry at this tick, which
played says; and one at zero needs no laser supply. -/
def slewEnd (c : Fin 45) (played : Bool) (s : State) : State :=
  let n := c.val / 5
  if c.val % 5 ≠ 0 then s
  else if s.laneState n = 0 && !s.laneTrans n && (s.chan c).slewed = 0 then (rangeZero n s).vlasDrop
  else if (s.chan c).slewed = s.chanGoal c && s.grant.running = some (.ramp n) && !played then (rampDone n s).vlasDrop
  else if (s.chan c).slewed = 0 then s.vlasDrop
  else s

/-- A slew tick of channel c (R178, R182). -/
def execSlewTick (c : Fin 45) (s : State) : Host.Outcome State Fault Refusal :=
  let s := turnOnStart c s
  .next (slewEnd c (s.turningOn c) (slewMove c s))

/-- A heater period starts: the pulse current in use follows ILIM (R180). -/
def execHeaterPwmPeriod (n : Line) (j : Fin 2) (s : State) : Host.Outcome State Fault Refusal :=
  .next (s.modChan (5 * n + 3 + j) fun t => { t with ilim := min 60 (s.get F.OLC_CODE_ILIM n (3 + j)) })

/-! ## The token and the ramps (R186) -/

/-- A waiting step obtains the token and starts. -/
def execTokenAcquired (s : State) : Host.Outcome State Fault Refusal := .next s.takeStep

/-- A ramp reaches 4.5 ms: the output holds, the token is released, and the ramp waits again. -/
def execTokenSegmentEnd (n : Line) (s : State) : Host.Outcome State Fault Refusal :=
  if s.grant.running = some (.ramp n) then .next ((s.stepEnd (.ramp n)).wantStep (.ramp n)) else .next s

/-! ## Bias lock (R191) -/

/-- The lock-in loop of lane n runs on channel c: its waveform plays in mode 2, or has just played its last entry. -/
def lockinRuns (n : Line) (s : State) : Bool :=
  let c := 5 * n.val + (1 + s.get F.OLC_LOCK_CFG_SEL n)
  s.flag F.OLC_LOCK_CFG_EN n && ((s.chan c).play.isSome || (s.chan c).ended) && s.get F.OLC_CH_WAV_MODE c = 2

/-- The correlation of a period's photodiode codes with the waveform, or with HARM its square, is shown, and
summed while LOOP is set. DESIGN CHOICE, log 45. -/
def lockinCorrelate (n : Line) (m : List (BitVec 12)) (s : State) : State :=
  let c := 5 * n.val + (1 + s.get F.OLC_LOCK_CFG_SEL n)
  let size := 32 * s.get F.OLC_CH_WLEN_VALUE c
  let w := (List.range size).map fun i => signed 16 (wavEntry s c i)
  let mm := (List.range size).map fun i => Int.ofNat (m.getD i 0).toNat
  let big : Int := Int.ofNat size
  let harm := s.flag F.OLC_LOCK_CFG_HARM n
  let sq := (w.map fun x => x * x).sum
  let r := if harm then w.map fun x => big * (x * x) - sq else w
  let sm := mm.sum
  let corrNum := (List.zipWith (fun a b => (big * a - sm) * b) mm r).sum
  let (q, s) := s.freeRound 2 corrNum (64 * big * big * (if harm then 4096 * big else 1))
  let corr := clamp (-32768) 32767 q
  let s := s.put F.OLC_LOCK_STAT_CORR (unsigned 16 corr) n
  s.modOlc n fun o =>
    if s.flag F.OLC_LOCK_CFG_LOOP n then { o with lockSum := o.lockSum + corr, lockPeriods := o.lockPeriods + 1 }
    else { o with lockSum := 0, lockPeriods := 0 }

/-- After ACC periods the closed loop moves the channel's code by the error; eight quiet rounds are LOCKED. -/
def lockinClose (n : Line) (s : State) : State :=
  let k := 1 + s.get F.OLC_LOCK_CFG_SEL n
  if s.flag F.OLC_LOCK_CFG_LOOP n && max 1 (s.get F.OLC_LOCK_CFG_ACC n) ≤ (s.olc n).lockPeriods then
    let p := Int.ofNat (s.olc n).lockPeriods
    let d := clamp (-64) 64 (roundHalfEven ((s.olc n).lockSum - p * s.geti F.OLC_LOCK_CFG_SETPOINT n)
      (p * 2 ^ s.get F.OLC_LOCK_CFG_SHIFT n))
    let code := (clamp 0 16383 (Int.ofNat (s.get F.OLC_CODE_CODE n k) - d)).toNat
    let quiet := if d = 0 then (s.olc n).lockQuiet + 1 else 0
    let s := s.modOlc n fun o => { o with lockSum := 0, lockPeriods := 0, lockQuiet := quiet }
    let s := ((s.put F.OLC_CODE_CODE code n k).put F.OLC_CODE_WRITTEN 1 n k).putB F.OLC_LOCK_STAT_LOCKED (8 ≤ quiet) n
    chanLoad n k code s
  else s

/-- A waveform period of the lock-in loop ends; m gives the photodiode codes of the period, one an entry. -/
def execLockinPeriodEnd (n : Line) (m : List (BitVec 12)) (s : State) : Host.Outcome State Fault Refusal :=
  if lockinRuns n s then .next (lockinClose n (lockinCorrelate n m s)) else .next s

/-! ## Safety and Tx disable (R190, R194, R195) -/

/-- Hard cut of lane n (row 9 of R184): no slew, no token; requests end with st. -/
def State.cut (s : State) (n cause : Nat) (st : Status) : State :=
  let s := s.endRequests n st
  let s := if s.laneState n = 4 then s.probeExit n else s.modOlc n fun o => { o with probe := none }
  let s := s.dropStep (.ramp n)
  let s := ((s.setLane n 0).put F.OLC_STAT_TRANS 0 n).put F.OLC_STAT_TARGET 0 n
  let s := ((s.put F.OLC_STAT_DEFER 0 n).put F.OLC_STAT_TOKEN_WAIT 0 n).put F.OLC_STAT_CAUSE cause n
  let s := s.modChan (5 * n) fun t => { t with
    slewed := 0
    absTarget := none
    range := t.rangeNew.getD t.range
    rangeNew := none
    rangeUp := false
    hiZ := true }
  let s := s.modOlc n fun o => { o with rampHeld := false }
  ((s.put F.OLC_CH_OUT_OUT 0 (5 * n)).put F.OLC_CH_OUT_RANGE_CHG 0 (5 * n)).vlasDrop

/-- Faults of lane n within the last 60 s of RAW, this one included. DEDUCED, log 47. -/
def recentFaults (s : State) (n : Nat) : List (BitVec 48) :=
  s.tim.raw :: (s.olc n).faults.filter fun t => decide ((s.tim.raw - t).toNat ≤ 60000000000)

/-- A lane is cut for fault bit b: FAULT, COUNT, and LOCKOUT at the third fault within 60 s. DEDUCED, log 125. -/
def faultLane (b n : Nat) (s : State) : State :=
  let s := s.cut n 1 .denied
  let s := (s.put F.OLC_FAULT_FAULT (s.get F.OLC_FAULT_FAULT n ||| 2 ^ b) n).addSat F.OLC_FAULT_COUNT 1 n
  let s := s.lifeAdd (90 + n)
  let l := recentFaults s n
  let s := s.modOlc n fun o => { o with faults := l }
  if 3 ≤ l.length then s.put F.OLC_FAULT_LOCKOUT 1 n else s

/-- A lane emits or may emit light: in BIAS or higher, ramping, or with its output above zero. -/
def State.emits (s : State) (n : Nat) : Bool :=
  s.lit n || s.grant.running = some (.ramp n) || (s.chan (5 * n)).slewed ≠ 0

/-- An LB output ramps or plays a waveform: the sense comparison of R194 leaves it out. -/
def State.ramping (s : State) (n : Nat) : Bool :=
  (s.chan (5 * n)).slewed ≠ s.lbGoal n || (s.chan (5 * n)).play.isSome || s.grant.running = some (.ramp n)
    || s.rangeRuns n || s.rampNeeds n

/-- The latest result of monitor input c (R355). -/
def State.monResult (s : State) (c : Nat) : Nat := s.get F.MON_IN_RES_VALUE c
/-- The latest result of a signed monitor input. -/
def State.monSigned (s : State) (c : Nat) : Int := s.geti F.MON_IN_RES_VALUE c

/-- The LB sense of lane n differs from the target by more than 5 % and 0.5 mA: an LSB of the sense is 8 µA, and the target
counts in LSBs of 40 mA / 2^16, four of them for one of RANGE 1. -/
def State.biasOff (s : State) (n : Nat) : Bool :=
  let k : Int := Int.ofNat (s.lbGoal n * (if (s.chan (5 * n)).range = 0 then 1 else 4))
  let err := (8 * 65536 * Int.ofNat (s.monResult (18 + n)) - 40000 * k).natAbs
  decide (2000 * k.toNat + 500 * 65536 < err)

/-- The condition of fault bit b of R194 as the latest conversions show it, for lane n where it concerns one; the lockstep
comparison of bit 5 lies outside what the registers show. -/
def State.faultShows (s : State) (b n : Nat) : Bool :=
  match b with
  | 0 => s.emits n && !s.ramping n && s.biasOff n
  | 1 => s.emits n && s.flag F.OLC_SAFE_LIM_MPD_CHK n && decide (s.get F.MON_WIN_HI_HI_ALM n < s.monResult n)
  | 2 => decide (s.get F.OLC_SAFE_GLB_ITOT * 100 < ((List.range 9).map fun k => 8 * s.monResult (18 + k)).sum)
  | 3 => (List.range 6).any fun k => decide (256 * Int.ofNat (s.get F.OLC_SAFE_GLB_TJ_MAX) < s.monSigned (53 + k))
  | 4 => s.powered .vlas && decide (1500 < (Int.ofNat (s.monResult 63) - 10 * Int.ofNat s.vlasSet).natAbs)
  | _ => true

/-- A write of OLC_FAULTn that the policy allows: FAULT bits clear; a written 1 ends a LOCKOUT, with the faults that led
to it (R195). -/
def olcFaultWrite (n : Nat) (v : Word) (s : State) : State :=
  let s := s.put F.OLC_FAULT_FAULT (s.get F.OLC_FAULT_FAULT n - (s.get F.OLC_FAULT_FAULT n &&& bitsOf v 5 0)) n
  if bitsOf v 8 8 = 1 && s.flag F.OLC_FAULT_LOCKOUT n then
    (s.put F.OLC_FAULT_LOCKOUT 0 n).modOlc n fun o => { o with faults := [] }
  else s

/-- CMIS Tx disable of a lane: cut as row 9, held OFF, no fault (R190). -/
def State.txDisable (s : State) (n : Nat) : State :=
  if s.flag F.OLC_STAT_TXDIS n then s else ((s.cut n 3 .cancelled).put F.OLC_STAT_TXDIS 1 n)

/-- Tx disable clears: the lane moves to the state last requested, unless a fault holds it OFF, or its bias would bring the
sum above ITOT (R193). -/
def State.txEnable (s : State) (n : Nat) : State :=
  if s.flag F.OLC_STAT_TXDIS n then
    let s := s.put F.OLC_STAT_TXDIS 0 n
    if (s.olc n).last = 0 || s.faulted n then s
    else if s.beyondItot (((List.range 9).filter s.lit).filter (fun k => !(k = n)) ++ [n]) then requestRefused [n] .conflict s
    else (s.laneRequest n (s.olc n).last).laneAdvance 5 n
  else s

def execTxDisableSet (n : Line) (s : State) : Host.Outcome State Fault Refusal := .next (s.txDisable n)
def execTxDisableClear (n : Line) (s : State) : Host.Outcome State Fault Refusal := .next (s.txEnable n)

end Sys2Proof.Machine
end

