-- ==== Sys2Proof/Machine/CapCore.lean ====
section
/-! DEFINITION. Sys2Proof/Machine/CapCore.lean: codewords in Capstan and in the reorder buffer (R130 to R138, R147), their
slot counters (R148), and the exchange of two receivers' codewords at a protection switch (R64, R146). -/

namespace Sys2Proof.Machine

/-- STATE of LRX_PROT_STAT (R61). -/
def State.protState (s : State) : Nat := s.get F.LRX_PROT_STAT_STATE

/-- The streams of the protected lane come from L8: SWITCHED, or with the selection still on its way back (R72). -/
def selSwitched (s : State) : Bool := s.protState = 3 || s.lanes.prot.returning

def State.modCap (s : State) (f : Cap → Cap) : State := { s with cap := f s.cap }

/-- D in core cycles. -/
def State.capD (s : State) : Int := 3 * Int.ofNat (s.get F.CAP_CTRL_DEADLINE)

/-- MAX_ITER in force: 9 to 15 act as 8. -/
def Cap.maxIter (c : Cap) : Nat := min 8 (bitsOf c.ctrl 11 8)

/-- Engines of ENG_EN in force, lowest first. -/
def Cap.engines (c : Cap) : List Nat := (List.range 6).filter fun e => bitsOf c.pwr 21 16 / 2 ^ e % 2 = 1

/-- MIN_AWAKE in force: 7 acts as 6. -/
def Cap.minAwake (c : Cap) : Nat := min 6 (bitsOf c.pwr 2 0)

/-- Iterations spent on a codeword. -/
def CapCw.iters (w : CapCw) : Nat := w.trail.length - 1

/-- Name of a codeword: lane, stream and position. -/
def CapCw.key (w : CapCw) : Nat × Bool × Nat := (w.lane, w.streamB, w.pos)

/-- R135: the best decision so far: the most reliable valid one, else the latest. -/
def CapCw.decision (w : CapCw) : BitVec 128 :=
  match w.best with
  | some b => b.1
  | none => w.trail.headD 0

/-- A finished codeword at time t (R137): converged, at MAX_ITER, or past the issue limit of R136. -/
def CapCw.finished (maxIter : Nat) (t : Int) (w : CapCw) : Bool :=
  w.converged || maxIter ≤ w.iters || decide (w.deadline - t < 10)

/-- Outcome of a codeword as R147 encodes it. -/
def CapCw.outcome (w : CapCw) : Nat :=
  if !w.cand || !w.counted then 0 else if !w.adm then 3 else if w.converged then 1 else 2

/-- Keep a codeword only while it is in Capstan or in the reorder buffer. -/
def capSweep (l : List CapCw) : List CapCw := l.filter fun w => w.place.isSome || !w.released

/-- Rewrite one codeword. -/
def capSet (w : CapCw) (s : State) : State :=
  s.modCap fun c => { c with cws := capSweep (c.cws.map fun v => if v.key = w.key then w else v) }

/-- The reorder port has moved fewer than 24 codewords in core cycle c (R138). -/
def portFree (port : List Int) (c : Int) : Bool := decide ((port.filter fun x => x = c).length < 24)

/-- The reorder port moves a codeword in core cycle c. -/
def portMove (c : Int) (s : State) : State := s.modCap fun p => { p with port := p.port.filter (c - 64 ≤ ·) ++ [c] }

/-- A result of the write-back queue moves to the reorder buffer in the first core cycle that has room, from its hand-over
to t, or waits on. -/
def capMove (t : Int) (w : CapCw) (s : State) : State :=
  let r := w.ready.getD t
  match ((List.range (min 64 (t + 1 - r).toNat)).map fun i => r + Int.ofNat i).find? (portFree s.cap.port) with
  | some c => portMove c (capSet { w with place := none, ready := some c } s)
  | none => capSet { w with ready := some (t + 1) } s

/-- The results that wait in the write-back queue and were to have been handed over by time t, the earliest first. -/
def capDue (t : Int) (s : State) : List CapCw :=
  (s.cap.cws.filter fun w => w.place = some .writeback && decide (w.ready.getD t ≤ t)).insertionSort
    fun a b => a.ready.getD t ≤ b.ready.getD t

/-- Results handed over by time t leave the write-back queue, as the reorder port has room (R138). DEDUCED, log 42. -/
def capSettle (t : Int) (s : State) : State := (capDue t s).foldl (fun s w => capMove t w s) s

/-- Count k in counter c of lane n. -/
def capCount (n c k : Nat) (s : State) : State :=
  s.modCap fun p => { p with lanes := Bank.put p.lanes (8 * n + c) (Bank.get p.lanes (8 * n + c) 0 + BitVec.ofNat 48 k) 0 }

/-- Count k slots of class c: 0 retired, 1 wasted, 2 starved-front, 3 starved-back. -/
def capSlots (c : Fin 4) (k : Nat) (s : State) : State :=
  (s.modCap fun p => { p with slots := p.slots.set c (p.slots[c] + BitVec.ofNat 48 k) }).perf (0xE0 + c.val) k

/-! ## Reorder ring (R147) -/

/-- The lane whose ring a receiver fills: while SWITCHED, L8 fills that of the lane it is switched for (R146), whose own
decisions go to L8's. DESIGN CHOICE, log 149. -/
def ringLane (s : State) (n : Nat) : Nat :=
  if selSwitched s then (if n = 8 then s.lanes.prot.lane else if n = s.lanes.prot.lane then 8 else n) else n

/-- Write the ring entry of a codeword. -/
def ringWrite (w : CapCw) (valid : Bool) (s : State) : State :=
  let v := w.decision.toNat % 2 ^ 120 + min 8 w.iters * 2 ^ 120 + w.outcome * 2 ^ 124 + w.streamB.toNat * 2 ^ 126
    + valid.toNat * 2 ^ 127
  s.setBytes (0x81F00000 + w.ring * 0x9000 + 16 * w.entry) (leBytes 16 v)

/-! ## The protection switch (R64, R146) -/

/-- Codeword w moves to the next entry of the ring of its receiver, and its entry before is no longer valid. -/
def ringMove (w : CapCw) (s : State) : State :=
  let k := ringLane s w.lane
  if w.ring = k then s
  else
    let v := { w with ring := k, entry := s.cap.ringPos[Fin.ofNat 9 k] }
    let s := (ringWrite w false s).modCap fun c =>
      { c with ringPos := c.ringPos.set (Fin.ofNat 9 k) ((c.ringPos[Fin.ofNat 9 k] + 1) % 2304) }
    ringWrite v true (capSet v s)

/-- Codeword w of L8 takes the schedule of the lane it is switched for, shift core cycles earlier. -/
def capShift (shift : Int) (w : CapCw) : CapCw :=
  if w.lane = 8 && !w.released then
    { w with tfp := w.tfp - shift, deadline := w.deadline - shift, ready := if w.adm then w.ready else w.ready.map (· - shift) }
  else w

/-- At a switch the codewords of L8 that wait in the buffer take the schedule of the lane it is switched for, and at a
revert their own again; the two receivers exchange rings. -/
def capSwap (switched : Bool) (s : State) : State :=
  let shift := 3 * s.lanes.prot.deltaS
  let s := s.modCap fun c => { c with cws := c.cws.map (capShift (if switched then shift else -shift)) }
  (s.cap.cws.filter fun w => !w.released).foldl (fun s w => ringMove w s) s

end Sys2Proof.Machine
end

