-- ==== Sys2Proof/Machine/Protect.lean ====
section
/-! DEFINITION. Sys2Proof/Machine/Protect.lean: the spare strand (R60 to R73) and its agreements over the Lanyard
(R222 to R224). -/

namespace Sys2Proof.Machine

/-! ## Partners -/

/-- The partner record of lane n is held. -/
def State.partnerOf (s : State) (n : Nat) : Bool := s.flag F.LYD_PTR_INFO_VALID n

/-- Serial number of lane n's partner. -/
def State.partnerSerial (s : State) (n : Nat) : BitVec 64 :=
  BitVec.ofNat 64 (s.get F.LYD_PTR_SER_HI_VALUE n * 2 ^ 32 + s.get F.LYD_PTR_SER_LO_VALUE n)

/-- The Lanyard of lane n is in lock: PHY_LOCK and SYNC. -/
def State.lydLocked (s : State) (n : Nat) : Bool :=
  s.flag F.LYD_PHY_STAT_PHY_LOCK n && s.get F.LYD_PHY_STAT_SYNC_ST n = 2

/-- The Lanyard that coordinates the protection of lane n (R66): L8's own, else that of the lowest LIVE lane other
than n whose partner is the same device. -/
def State.coordinating (s : State) (n : Nat) : Option Nat :=
  if s.lydLocked 8 then some 8
  else (List.range 8).find? fun k => k ≠ n && s.laneState k = 3 && s.partnerOf k && s.partnerOf n
    && s.partnerSerial k = s.partnerSerial n

/-! ## State of the protection -/

/-- Deadline D in ns. -/
def State.deadlineNs (s : State) : Nat := s.get F.CAP_CTRL_DEADLINE

/-- Δ lies in the window of R63. -/
def State.skewOk (s : State) : Bool :=
  let d := s.lanes.prot.delta
  decide (-256 ≤ d ∧ d ≤ (if s.mode s.lanes.prot.lane = 1 then 16 else Int.ofNat s.deadlineNs - 32))

/-- Arming ends in ARM_FAIL with a cause: L8 returns to OFF, and the command completes with CONFLICT, or with
TIMED_OUT when the cause is SKEW (R61, R73). -/
def State.armFail (s : State) (cause : Nat) : State :=
  let s := (s.put F.LRX_PROT_STAT_STATE 4).put F.LRX_PROT_STAT_CAUSE cause
  let s := s.finishWhere (fun w => w = .protect 1) (if cause = 6 then .timedOut else .conflict)
  ((s.modProt fun p => { p with disarming := true }).laneRequest 8 0).laneAdvance 5 8

/-- While ARMING: with the far end's confirmation and a measured Δ, and L8 LIVE, the state becomes ARMED, or arming
fails on SKEW. The trigger windows run from here (R151). -/
def State.armCheck (s : State) : State :=
  let p := s.lanes.prot
  if s.protState = 1 && p.confirmed && p.measured && s.laneState 8 = 3 then
    if s.skewOk then
      let n := p.lane
      let s := (s.put F.LRX_PROT_STAT_STATE 2).modProt fun p => { p with
        fomLow := 0, fomReady := true, ratioReady := true, windowOld := false, windowLeft := max 1 (s.get F.CAP_PROT_CFG_WINDOW),
        windowRet := Bank.get s.cap.lanes (8 * n + 5) 0, windowWst := Bank.get s.cap.lanes (8 * n + 6) 0 }
      s.finishWhere (fun w => w = .protect 1) .done
    else s.armFail 6
  else s

/-- R62: L8's partner is the device that Ln's partner is, and reports that its own L8 shadows the lane facing Ln. -/
def State.farConfirms (s : State) : Bool :=
  let n := s.lanes.prot.lane
  s.partnerOf 8 && s.partnerOf n && s.partnerSerial 8 = s.partnerSerial n
    && s.get F.LYD_PTR_CAP_PROT_LANE 8 = s.get F.LYD_PTR_INFO_FAR_LANE n && 1 ≤ s.get F.LYD_PTR_CAP_PROT_STATE 8

/-- Ten AM periods of failed checks end arming (R61). -/
def execProtectArmTimeout (s : State) : Host.Outcome State Fault Refusal :=
  if s.protState = 1 then .next (s.armFail (if s.lanes.prot.confirmed && s.lanes.prot.measured && !s.skewOk then 6 else 5))
  else .next s

/-- A switch or revert of this end takes effect: the receiver selection, SWITCHES, and the new state; Δ is frozen at a
switch (R146). -/
def State.protSelect (s : State) (switched : Bool) : State :=
  let s := (s.put F.LRX_PROT_STAT_STATE (if switched then 3 else 2)).addSat F.LRX_PROT_STAT_SWITCHES 1
  let s := s.modProt fun p => { p with returning := false, emergency := false, deltaS := p.delta }
  (capSwap switched s).refreshHosts.rsmCheck

/-- Send NOTIFY over the coordinating Lanyard, if one is in lock (R70, R72, R224). -/
def State.notify (s : State) (revert : Bool) (k : Nat) : State :=
  match s.coordinating s.lanes.prot.lane with
  | none => s
  | some v => if !s.lydLocked v then s else s.lydQueue v 5 (protectContent 5 s.lanes.prot.nextId.toNat (if revert then 3 else 2) s.lanes.prot.lane k 0)

/-! ## Agreements -/

/-- This end proposes as initiator (R65, R223): k_i is its TX sequence of Ln plus lead. Without a coordinating Lanyard
nothing is attempted and the command completes with PEER_LOST (R66). -/
def State.propose (s : State) (revert : Bool) (cause lead : Nat) : State :=
  let p := s.lanes.prot
  match s.coordinating p.lane with
  | none =>
    ((s.put F.LRX_PROT_STAT_CAUSE 8).modProt fun p => { p with fomLow := 0 }).finishWhere
      (fun w => w = .protect (if revert then 3 else 2)) .peerLost
  | some v =>
    let ki := (s.get F.LTX_AM_SEQ_SEQ p.lane + lead) % 4096
    let s := s.modProt fun p => { p with cause := cause, revert := revert, nextId := p.nextId + 1 }
    let s := s.setWord R.LYD_AGREE_SEQ (BitVec.ofNat 32 (ki * 65536))
    let s := s.setWord R.LYD_AGREE_STAT (BitVec.ofNat 32 (p.nextId.toNat * 2 ^ 24 + p.lane * 2 ^ 20 + v * 2 ^ 16 + 1 * 64 + 1))
    s.sendProtect 1 ki 0

/-- An automatic trigger fires while ARMED and with no agreement open: one switch as initiator (R69, R153). -/
def State.fire (s : State) (fired : Fld) (cause : Nat) : State :=
  if s.protState = 2 && !s.agreeOpen && s.get F.LYD_AGREE_STAT_STAGE ≠ 4 then (s.put fired 1).propose false cause s.lanes.prot.lead else s

/-- The checks that LANE_PROTECT makes of its payload before anything else (R60, R73), then the action. -/
def laneProtect (f : Cmd → Nat → State → State) (action : Nat) (m : MBox) (s : State) :
    Host.Outcome State Fault Refusal :=
  .next (runCmd 0x24 m (fun c s =>
    let a := c.bits 2 3 0
    let lead := c.bits 2 31 24
    if a > 3 then s.finish c .badOpcode
    else if 1 ≤ lead && lead ≤ 15 then s.finish c .badLength
    else if !s.l8Present then s.finish c .denied
    else if a = action then f c (c.bits 2 10 8) s else s) s)

/-- LEAD of a LANE_PROTECT message: 0 selects 48. -/
def Cmd.lead (c : Cmd) : Nat := if c.bits 2 31 24 = 0 then 48 else c.bits 2 31 24

/-- Take the triggers and LEAD of a LANE_PROTECT arm. -/
def protParams (c : Cmd) (s : State) : State :=
  s.modProt fun p => { p with
    onFom := c.bits 2 16 16 = 1, onRatio := c.bits 2 17 17 = 1, onEmergency := c.bits 2 18 18 = 1, lead := c.lead,
    fomLow := if p.onFom && c.bits 2 16 16 = 1 then p.fomLow else 0 }

/-- L8 shadows lane n. -/
def shadowSet (n : Nat) (s : State) : State :=
  (s.put F.LTX_LANE_CFG_SHADOW_EN 1 8).put F.LTX_LANE_CFG_SHADOW_LANE n 8

/-- Arming for lane n starts, with the parameters of command c, and L8 sets out for LIVE (R61). A disarm that still waits
for OFF is overtaken, and completes with CANCELLED. DEDUCED, log 144. -/
def protArm (c : Cmd) (n : Nat) (s : State) : State :=
  let s := s.finishWhere (fun w => w = .protect 0) .cancelled
  let s := protParams c ((shadowSet n s).modProt fun p =>
    { p with lane := n, confirmed := false, measured := false, returning := false, emergency := false, disarming := false })
  let s := (s.put F.LRX_PROT_STAT_STATE 1).demand
  let s := s.modProt fun p => { p with confirmed := s.farConfirms }
  ((s.await c (.protect 1)).laneRequest 8 3).laneAdvance 5 8

/-- LANE_PROTECT arm (R61, R62): L8 shadows Ln and is brought to LIVE. An arm of the lane that is armed already takes its
parameters, and waits while ARMING, or completes. DESIGN CHOICE, log 145. -/
def execLaneProtectArm (m : MBox) (s : State) : Host.Outcome State Fault Refusal :=
  laneProtect (fun c n s =>
    let st := s.protState
    if st ≠ 0 && st ≠ 4 then
      if s.lanes.prot.lane ≠ n then s.finish c .conflict
      else if st = 1 then (protParams c s).await c (.protect 1)
      else (protParams c s).finish c .done
    else
      match laneRefusal (shadowSet n s) [8] 3 true with
      | some r => s.finish c r
      | none => protArm c n s) 1 m s

/-- An open agreement ends, a pending arm completes with CANCELLED, and L8 sets out for OFF (R61).
DESIGN CHOICE, log 146. -/
def protDisarm (c : Cmd) (s : State) : State :=
  let s := (s.abandon 1 true).finishWhere (fun w => w = .protect 1) .cancelled
  let s := (s.put F.LRX_PROT_STAT_STATE 0).modProt fun p => { p with disarming := true, emergency := false }
  ((s.await c (.protect 0)).laneRequest 8 0).laneAdvance 5 8

/-- LANE_PROTECT disarm: refused while SWITCHED; DONE once L8 is OFF. -/
def execLaneProtectDisarm (m : MBox) (s : State) : Host.Outcome State Fault Refusal :=
  laneProtect (fun c _ s =>
    if s.protState = 3 then s.finish c .conflict
    else if s.protState = 0 && s.laneState 8 = 0 then s.finish c .done
    else
      protDisarm c s) 0 m s

/-- LANE_PROTECT switch: an agreement as initiator, with the command's LEAD. What R73 gives no status for completes with
CONFLICT. DESIGN CHOICE, log 147. -/
def execLaneProtectSwitch (m : MBox) (s : State) : Host.Outcome State Fault Refusal :=
  laneProtect (fun c n s =>
    if s.protState ≠ 2 || s.lanes.prot.lane ≠ n || s.agreeOpen || s.get F.LYD_AGREE_STAT_STAGE = 4 then s.finish c .conflict
    else (s.await c (.protect 2)).propose false 1 c.lead) 2 m s

/-- LANE_PROTECT revert: an agreement to return to Ln, with the command's LEAD. DESIGN CHOICE, log 147. -/
def execLaneProtectRevert (m : MBox) (s : State) : Host.Outcome State Fault Refusal :=
  laneProtect (fun c n s =>
    if s.protState ≠ 3 || s.lanes.prot.lane ≠ n || s.agreeOpen || s.get F.LYD_AGREE_STAT_STAGE = 4 then s.finish c .conflict
    else (s.await c (.protect 3)).propose true 1 c.lead) 3 m s

/-- The initiator repeats PROPOSE every 2 ms until it is answered. -/
def execProposeRepeat (s : State) : Host.Outcome State Fault Refusal :=
  if s.get F.LYD_AGREE_STAT_ROLE = 1 && s.get F.LYD_AGREE_STAT_STAGE = 1 && s.fw.running then
    .next (s.sendProtect 1 (s.get F.LYD_AGREE_SEQ_K_I) 0)
  else .next s

/-- No ACCEPT by the initiator's TX AM boundary k_i - 2. -/
def execProposeDeadline (s : State) : Host.Outcome State Fault Refusal :=
  if s.get F.LYD_AGREE_STAT_ROLE = 1 && s.get F.LYD_AGREE_STAT_STAGE = 1
      && s.get F.LTX_AM_SEQ_SEQ s.lanes.prot.lane = (s.get F.LYD_AGREE_SEQ_K_I + 4094) % 4096 then
    .next (s.abandon 5 true)
  else .next s

/-- The boundary at which this end switches: k_r for the initiator, k_i for the responder. -/
def State.agreeK (s : State) : Nat :=
  if s.get F.LYD_AGREE_STAT_ROLE = 1 then s.get F.LYD_AGREE_SEQ_K_R else s.get F.LYD_AGREE_SEQ_K_I

/-- The final RX AM boundary, one before the switch (R224): confirmed, the switch is handed to the hardware; else this
end abandons. -/
def execProtectFinalPoint (s : State) : Host.Outcome State Fault Refusal :=
  if s.agreeOpen && 2 ≤ s.get F.LYD_AGREE_STAT_STAGE
      && s.get F.LRX_AM_SEQ_SEQ s.lanes.prot.lane = (s.agreeK + 4095) % 4096 then
    if s.get F.LYD_AGREE_STAT_STAGE = 3 then .next (s.put F.LYD_AGREE_STAT_STAGE 4) else .next (s.abandon 5 true)
  else .next s

/-- The agreed boundary of this end has come: the agreement's action takes effect, and the ends are in line (R67). -/
def State.agreeAct (s : State) (revert : Bool) : State :=
  if s.get F.LYD_AGREE_STAT_STAGE = 4 && s.lanes.prot.revert = revert
      && s.get F.LRX_AM_SEQ_SEQ s.lanes.prot.lane = s.agreeK then
    let s := ((s.protSelect (!revert)).put F.LYD_AGREE_STAT_STAGE 6).put F.LRX_PROT_STAT_ASYM 0
    let s := if s.get F.LYD_AGREE_STAT_ROLE = 1 then s.put F.LRX_PROT_STAT_CAUSE s.lanes.prot.cause
      else s.postProtectResult 0
    let s := if revert then s.modProt fun p => { p with fomLow := 0, fomReady := false, ratioReady := false, windowOld := true } else s
    s.finishWhere (fun w => w = .protect (if revert then 3 else 2)) .done
  else s

def execProtectionSwitch (s : State) : Host.Outcome State Fault Refusal := .next (s.agreeAct false)
def execProtectionRevert (s : State) : Host.Outcome State Fault Refusal := .next (s.agreeAct true)

/-- Emergency switch at L8's next RX AM boundary after LOS or LOL on Ln while ARMED (R70), be it over by then. An open
agreement is abandoned. DESIGN CHOICE, log 148. -/
def execEmergencySwitch (s : State) : Host.Outcome State Fault Refusal :=
  if s.protState = 2 && s.lanes.prot.emergency && s.rxFramed 8 then
    let s := (((s.abandon 7 true).protSelect true).put F.LRX_PROT_STAT_CAUSE 4).put F.LRX_PROT_STAT_ASYM 1
    .next (s.notify false (s.get F.LRX_AM_SEQ_SEQ 8))
  else .next s

/-- L8's receiver has failed (R72). -/
def State.l8Failed (s : State) : Bool :=
  s.flag F.LRX_LOS_STAT_LOS 8 || s.flag F.LRX_LOS_STAT_LOL 8 || !s.rxFramed 8
    || (s.mode 8 ≠ 1 && !s.flag F.LRX_FRAME_STAT_SLOT_LOCK 8)

/-- Steps 2 and 3 of R72: the selection returns to Ln, and the state becomes ARMED, unless a LANE reset of L8 has returned
it to UNARMED. The triggers are armed anew above their thresholds only (R153). -/
def State.l8Return (s : State) : State :=
  let s := capSwap false (if s.protState = 3 then (s.put F.LRX_PROT_STAT_STATE 2).put F.LRX_PROT_STAT_CAUSE 9 else s)
  (s.modProt fun p => { p with
    windowOld := true, returning := false, emergency := false, fomLow := 0, fomReady := false, ratioReady := false }).refreshHosts.rsmCheck

/-- The selection sets out to return to lane n, asymmetric and with its events; without RX framing of the lane it
returns at once. DESIGN CHOICE, log 148. -/
def l8FailNoted (n : Nat) (s : State) : State :=
  let s := s.abandon 7 true
  let s := (s.addSat F.LRX_PROT_STAT_SWITCHES 1).modProt fun p => { p with returning := true }
  let s := (s.put F.LRX_PROT_STAT_ASYM 1).postBare 0x79 n
  let s := (s.notify true (s.get F.LRX_AM_SEQ_SEQ n)).refreshHosts
  if s.rxFramed n then s else s.l8Return

/-- A failure of L8 while SWITCHED: Ln's own decisions stand in, ASYM and SPARE_LOST, and NOTIFY; without RX framing of
Ln the selection returns at once. -/
def execL8FailRevert (s : State) : Host.Outcome State Fault Refusal :=
  if s.protState = 3 && !s.lanes.prot.returning && s.l8Failed then
    .next (l8FailNoted s.lanes.prot.lane s)
  else .next s

/-- Ln's next RX AM boundary after the failure. -/
def execL8FailSelectionReturn (s : State) : Host.Outcome State Fault Refusal :=
  if s.lanes.prot.returning && s.rxFramed s.lanes.prot.lane then .next s.l8Return else .next s

/-! ## PROTECT frames received (R223, R224) -/

/-- Byte i of a frame's content. -/
def cbyte (b : List Byte) (i : Nat) : Nat := (b.getD i 0).toNat

/-- Big-endian value of k content bytes from offset i. -/
def cval (b : List Byte) (i k : Nat) : Nat := beVal ((b.drop i).take k)

/-- A frame is delivered on lane n: the receiver is in SYNC and Rigger runs (R210). -/
def State.delivers (s : State) (n : Nat) : Bool := s.lydLocked n && s.fw.running

/-- Count a delivered frame. -/
def State.frameIn (s : State) (n : Nat) : State := (s.addSat F.LYD_RX_FRAMES_COUNT 1 n).perf 0xF1

/-- The responder answers a PROPOSE it refuses, without touching an agreement of its own. -/
def State.refusePropose (s : State) (n : Nat) (b : List Byte) (reason : Nat) : State :=
  let s := (s.put F.LYD_AGREE_STAT_REASON reason)
  s.lydQueue n 5 (protectContent 4 (cbyte b 1) (cbyte b 2) s.lanes.prot.lane 0 reason)

/-- The frame positions between lane n's RX sequence and the switch that a PROPOSE names. -/
def proposeAhead (b : List Byte) (s : State) : Nat :=
  (cval b 4 2 % 4096 + 4096 - s.get F.LRX_AM_SEQ_SEQ s.lanes.prot.lane) % 4096

/-- The reason for which this end refuses a PROPOSE on lane n, if there is one (R68). -/
def proposeRefusal (n : Line) (b : List Byte) (s : State) : Option Nat :=
  let ln := s.lanes.prot.lane
  if s.protState ≠ (if cbyte b 2 = 3 then 3 else 2) then some 1
  else if !s.partnerOf ln || s.get F.LYD_PTR_INFO_FAR_LANE ln ≠ cbyte b 3 || s.partnerSerial ln ≠ s.partnerSerial n then some 4
  else if !s.flag F.LRX_AM_SEQ_VALID ln then some 2
  else if proposeAhead b s < 4 || proposeAhead b s > 2047 then some 3
  else none

/-- This end becomes the responder and answers ACCEPT; mine says that it withdraws a proposal of its own, whose command
still waits for the switch (R68). -/
def proposeAccept (n : Line) (b : List Byte) (mine : Bool) (s : State) : State :=
  let ln := s.lanes.prot.lane
  let kr := (s.get F.LTX_AM_SEQ_SEQ ln + proposeAhead b s) % 4096
  let s := s.modProt fun p => { p with revert := cbyte b 2 = 3 }
  let s := s.setWord R.LYD_AGREE_SEQ (BitVec.ofNat 32 (cval b 4 2 % 4096 * 65536 + kr))
  let s := s.setWord R.LYD_AGREE_STAT (BitVec.ofNat 32 (cbyte b 1 * 2 ^ 24 + ln * 2 ^ 20 + n * 2 ^ 16
    + (if mine then 6 else 0) * 2 ^ 8 + 2 * 64 + 2))
  s.sendProtect 2 kr 0

/-- This end withdraws its own proposal (R68): ABANDON with REASON 6. -/
def proposeWithdraw (s : State) : State :=
  (((s.sendProtect 4 0 6).put F.LYD_AGREE_STAT_STAGE 5).put F.LYD_AGREE_STAT_REASON 6)

/-- The withdrawn proposal's command ends where this end does not become the responder either (R73). -/
def withdrawnEnds (s : State) : State :=
  (s.put F.LRX_PROT_STAT_CAUSE 7).finishWhere (fun w => w = .protect 2 || w = .protect 3) .timedOut

/-- PROPOSE on lane n (R68, R223). -/
def execProtectProposeRx (n : Line) (b : List Byte) (s : State) : Host.Outcome State Fault Refusal :=
  if !s.delivers n then .next s
  else
    let s := s.frameIn n
    let st := s.get F.LYD_AGREE_STAT_STAGE
    let again := 2 ≤ st && st ≤ 4 && s.get F.LYD_AGREE_STAT_ROLE = 2 && s.get F.LYD_AGREE_STAT_AGREE_ID = cbyte b 1
    let mine := s.agreeOpen && s.get F.LYD_AGREE_STAT_ROLE = 1
    if again then .next (s.sendProtect 2 (s.get F.LYD_AGREE_SEQ_K_R) 0)
    else if mine && s.fw.serial < s.partnerSerial n then .next s
    else
      let s := if mine then proposeWithdraw s else s
      match proposeRefusal n b s with
      | some r => .next (let s := s.refusePropose n b r; if mine then withdrawnEnds s else s)
      | none => .next (proposeAccept n b mine s)

/-- ACCEPT: the initiator sends CONFIRM, and again on each repeated one; one past the final point is too late. -/
def execProtectAcceptRx (n : Line) (b : List Byte) (s : State) : Host.Outcome State Fault Refusal :=
  if !s.delivers n then .next s
  else
    let s := s.frameIn n
    let st := s.get F.LYD_AGREE_STAT_STAGE
    let kr := cval b 4 2 % 4096
    if s.get F.LYD_AGREE_STAT_ROLE = 1 && (st = 1 || st = 3) && s.get F.LYD_AGREE_STAT_AGREE_ID = cbyte b 1 then
      let left := (kr + 4096 - 1 - s.get F.LRX_AM_SEQ_SEQ s.lanes.prot.lane) % 4096
      if st = 1 && (left = 0 || left > 2047) then .next (s.abandon 3 true)
      else
        let s := (s.put F.LYD_AGREE_SEQ_K_R kr).put F.LYD_AGREE_STAT_STAGE 3
        .next (s.sendProtect 3 (s.get F.LYD_AGREE_SEQ_K_I) 0)
    else .next s

/-- CONFIRM that matches AGREE_ID and k_i. -/
def execProtectConfirmRx (n : Line) (b : List Byte) (s : State) : Host.Outcome State Fault Refusal :=
  if !s.delivers n then .next s
  else
    let s := s.frameIn n
    if s.get F.LYD_AGREE_STAT_ROLE = 2 && s.get F.LYD_AGREE_STAT_STAGE = 2 && s.get F.LYD_AGREE_STAT_AGREE_ID = cbyte b 1
        && s.get F.LYD_AGREE_SEQ_K_I = cval b 4 2 % 4096 then
      .next (s.put F.LYD_AGREE_STAT_STAGE 3)
    else .next s

/-- ABANDON of the open agreement; to an initiator past its final point it says that its confirmation was lost, and the
ends differ (R67). -/
def execProtectAbandonRx (n : Line) (b : List Byte) (s : State) : Host.Outcome State Fault Refusal :=
  if !s.delivers n then .next s
  else
    let s := s.frameIn n
    let st := s.get F.LYD_AGREE_STAT_STAGE
    if s.get F.LYD_AGREE_STAT_AGREE_ID ≠ cbyte b 1 then .next s
    else if s.get F.LYD_AGREE_STAT_ROLE = 1 && (st = 4 || st = 6) then
      .next ((s.put F.LRX_PROT_STAT_ASYM 1).put F.LYD_AGREE_STAT_REASON (cbyte b 6))
    else .next (s.abandon (cbyte b 6) false)

/-- NOTIFY: event 0x78; the selection here does not change. The spec lays out no argument for the event. -/
def execProtectNotifyRx (n : Line) (b : List Byte) (s : State) : Host.Outcome State Fault Refusal :=
  if !s.delivers n then .next s
  else
    let s := s.frameIn n
    let lane := ((List.range 8).find? fun k => s.partnerOf k && s.get F.LYD_PTR_INFO_FAR_LANE k = cbyte b 3
      && s.partnerSerial k = s.partnerSerial n).getD s.lanes.prot.lane
    .next (s.postBare 0x78 lane)

end Sys2Proof.Machine
end

