-- ==== Sys2Proof/Machine/Winch.lean ====
section
/-! DEFINITION. Sys2Proof/Machine/Winch.lean: the shared equaliser engine Winch (R119 to R123, R159) and the
figure-of-merit trigger it serves (R152). -/

namespace Sys2Proof.Machine

/-- Receiver of Winch slot k (R119): i below 9 is a line lane, 9 + h host lane h. -/
def winchSlotOf (k : Nat) : Nat :=
  if k < 18 then (if k % 2 = 0 then k / 2 else 9 + k / 2)
  else
    let i := k - 18
    if i < 14 then (if i % 2 = 0 then i / 2 else 9 + (9 + i / 2)) else if i = 14 then 7 else 8

/-- Receiver i is in service: assigned, powered, with signal and lock. -/
def State.winchReady (s : State) (i : Nat) : Bool :=
  if i < 9 then s.mode i ≠ 0 && s.powered (.lrx i) && !s.flag F.LRX_LOS_STAT_LOS i && !s.flag F.LRX_LOS_STAT_LOL i
  else
    let h := i - 9
    s.hostMode h ≠ 0 && s.powered (.hst (h / 4)) && !s.flag F.HST_LANE_STAT_LOS h && !s.flag F.HST_LANE_STAT_LOL h

/-- A RETRIM or a REVERT of receiver i waits for its boundary (R123). -/
def State.winchHeld (s : State) (i : Nat) : Bool := i < 9 && (s.flag F.LRX_TIA_STAT_RETRIM_PEND i || (s.rx i).revert)

/-- A slot of receiver i starts: it is idle, skipped, or a visit begins with the step size and the coefficients of the
moment (R119, R120, R123). -/
def slotStart (i : Nat) (s : State) : State :=
  if !s.flag F.WNC_CTRL_EN || !s.winchReady i then (s.addSat F.WNC_SLOT_SF_COUNT 1).perf 0xE6
  else if s.winchHeld i then (s.addSat F.WNC_SLOT_SB_COUNT 1).perf 0xE7
  else
    let track := s.get F.WNC_LANE_CFG_MODE i = 1 || Bank.get s.lanes.winch.track i false
    s.modWinch fun w => { w with
      visiting := some i, spoiled := false, hold := s.frozen i,
      mu := if track then s.get F.WNC_LANE_CFG_MU_TRK i else s.get F.WNC_LANE_CFG_MU_ACQ i,
      base := if i < 9 then s.eqBase i else s.eqBaseHost (i - 9),
      act := if i < 9 then s.eqActive i else s.eqActiveHost (i - 9), early := false,
      mem2 := (s.rx i).memAct = 1, dfe := (s.hst (i - 9)).dfeAct, est := (s.lydOf i).chain.est }

/-- The next slot of the round starts while CORE is on: idle, skipped, or a visit (R119, R123). -/
def execWinchSlot (s : State) : Host.Outcome State Fault Refusal :=
  if !s.coreOn || s.lanes.winch.visiting.isSome then .next s
  else
    let last := s.get F.WNC_STAT_SLOT
    let k := if !s.lanes.winch.started then 0 else if last = 33 then 0 else last + 1
    let s := if s.lanes.winch.started && last = 33 then s.incWrap F.WNC_STAT_ROUNDS else s
    .next (slotStart (winchSlotOf k) ((s.put F.WNC_STAT_SLOT k).modWinch fun w => { w with started := true }))

/-! ## The visit's arithmetic: exact, rounded once at its end -/

/-- Running values of a visit: taps in units of one, the reference entries or d, the sum of e², the level decided
before, and of a host lane the symbols, the sum of y and that of e² of each level (R368). -/
structure Visit where
  taps : List Rat
  refs : List Rat
  sum : Rat
  prev : Nat
  levels : List (Nat × Rat × Rat) := List.replicate 4 (0, 0, 0)

/-- The codes x[k + main - i] for each of n taps i, from the codes of the places k - (n - 1) to k + (n - 1). -/
def visitWindow (n main : Nat) (codes : List (BitVec 8)) : List (BitVec 8) :=
  (List.range n).map fun i => codes.getD (n - 1 + main - i) 0

/-- Symbol k of a line lane's block, from the codes around it and the levels decided two and one before it and for it
(R121): z comes from the set in force, and loses the Lanyard's estimate (R207). DEDUCED, log 172. -/
def visitLine (w : Winch) (r off : Nat) (mu : Rat) (codes : List (BitVec 8)) (lv : List (Fin 4)) (v : Visit) (k : Nat) :
    Visit :=
  let around := codes.drop k
  let ctx := (if w.mem2 then 16 * (lv.getD k 0).val else 0) + 4 * (lv.getD (k + 1) 0).val + (lv.getD (k + 2) 0).val
  let e := zLess w.est r (off + k) (ffeOut w.act.taps (visitWindow 48 w.act.main around)) - v.refs.getD ctx 0
  { v with taps := List.zipWith (fun c a => c - mu * e * (codeOf a / 128)) v.taps (visitWindow 48 w.base.main around),
           refs := v.refs.set ctx (v.refs.getD ctx 0 + e / 256), sum := v.sum + e * e }

/-- Symbol k of a host lane's block (R158, R159). DEDUCED, log 172. -/
def visitHost (w : Winch) (mu : Rat) (codes : List (BitVec 8)) (v : Visit) (k : Nat) : Visit :=
  let around := codes.drop k
  let y := hostY w.act.taps (w.act.refs.getD 0 0) w.dfe (visitWindow 32 w.act.main around) v.prev
  let l := sliceLevel y
  let e := y - levelOf l
  { taps := List.zipWith (fun c a => c - mu * e * ((signed 7 a.toNat : Rat) / 64)) v.taps (visitWindow 32 w.base.main around),
    refs := if w.dfe then v.refs.map fun d => d + mu * e * levelOf v.prev else v.refs,
    sum := v.sum + e * e, prev := l
    levels := v.levels.modify l fun x => (x.1 + 1, x.2.1 + y, x.2.2 + e * e) }

/-- Round r to an integer of w bits, saturating; where r is no integer, up says whether to round up.
DEDUCED, log 34. -/
def intoFormat (w : Nat) (up : Bool) (r : Rat) : Int :=
  clamp (-(2 ^ (w - 1))) (2 ^ (w - 1) - 1) (if up then r.ceil else r.floor)

/-- The greatest k of -1024 to 3071 with 10^((2k - 1)/200) at most q: q in 0.1 dB to the nearest step, 10 log10 q being
k/10 (R122). -/
def tenthDb (q : Rat) : Int :=
  let le := fun (k : Int) => -- 10^(2k - 1) ≤ q^200
    let e := 2 * k - 1
    if e ≥ 0 then 10 ^ e.toNat * q.den ^ 200 ≤ q.num.toNat ^ 200 else q.den ^ 200 ≤ q.num.toNat ^ 200 * 10 ^ (-e).toNat
  (List.range 12).foldl (fun k b => if le (k + 2 ^ (11 - b)) then k + 2 ^ (11 - b) else k) (-1024)

/-- SNR_visit in 0.1 dB: the nearest step and a free part of less than a step, as R122 does not say how finely it is
held; for an error variance of zero a free value that reports as saturated. DEDUCED, log 35. -/
def snrVisit (s : State) (sigma2 : Rat) : Rat × State :=
  let (w, s) := s.free 4
  if sigma2 = 0 then (1024 + (w.toNat : Rat), s)
  else (((tenthDb (5 / 9 / sigma2) : Int) : Rat) + (w.toNat : Rat) / 2 ^ 32 - 1 / 2, s)

/-- A figure in 0.1 dB as WNC_FOMi reports it: to the nearest step, from 0 to 1,023. -/
def fomCode (r : Rat) : Nat := (clamp 0 1023 (roundHalfEven r.num r.den)).toNat

/-- The figure-of-merit trigger at a visit of Ln (R151 to R153). -/
def fomTrigger (i : Nat) (s : State) : State :=
  let p := s.lanes.prot
  if p.lane = i && s.protState = 2 && p.onFom then
    if s.get F.WNC_FOM_FOM i < s.get F.CAP_PROT_FOM_FOM_TH then
      if !p.fomReady then s
      else
        let k := p.fomLow + 1
        if max 1 (s.get F.CAP_PROT_CFG_FOM_PERSIST) ≤ k then (s.modProt fun p => { p with fomLow := 0 }).fire F.CAP_PROT_STAT_FIRED_FOM 2
        else s.modProt fun p => { p with fomLow := k }
    else s.modProt fun p => { p with fomLow := 0, fomReady := true }
  else s

/-- The figure of merit of receiver i after a visit (R122, R159), its Fathom sample (R364) and its trigger. -/
def fomUpdate (i : Nat) (sigma2 : Rat) (s : State) : State :=
  let (snr, s) := snrVisit s sigma2
  let old := Bank.get s.lanes.winch.fom i 0
  let fom := if s.flag F.WNC_FOM_VALID i then old + (snr - old) / 2 ^ s.get F.WNC_LANE_CFG_FOM_AVG i else snr
  let s := s.modWinch fun w => { w with fom := Bank.put w.fom i fom 0, sigma2 := Bank.put w.sigma2 i sigma2 0 }
  let s := ((s.put F.WNC_FOM_VALID 1 i).put F.WNC_FOM_LAST (fomCode snr) i).put F.WNC_FOM_FOM (fomCode fom) i
  let s := fathomOffer 4 (fun f => bitsOf f 4 0 = i) (Int.ofNat (fomCode snr)) s
  if i < 9 then fomTrigger i s else s

/-- A value that the visit has moved has ended at a limit of its format of w bits (R161). -/
def driven (w : Nat) (old new : Rat) (code : Int) : Bool := old ≠ new && (code = -(2 ^ (w - 1)) || code = 2 ^ (w - 1) - 1)

/-- The result of a visit goes to the pending set; a host lane of which the visit drives a tap or d to its limit has an
equaliser fault (R161). -/
def visitStage (i : Nat) (start v : Visit) (main : Nat) (s : State) : State :=
  let (w, s) := s.free 5
  let up := w.getLsbD 0
  let taps := v.taps.map fun c => intoFormat 12 up (c * 1024)
  if i < 9 then s.eqStage i { taps := taps, main := main, refs := v.refs.map fun r => intoFormat 8 up (r * 64) }
  else
    let refs := v.refs.map fun d => intoFormat 10 up (d * 256)
    let s := s.eqStageHost (i - 9) { taps := taps, main := main, refs := refs }
    if ((start.taps.zip v.taps).zip taps).any (fun p => driven 12 p.1.1 p.1.2 p.2)
        || ((start.refs.zip v.refs).zip refs).any (fun p => driven 10 p.1.1 p.1.2 p.2) then
      s.put F.HST_RX_STAT_EQ_FAULT 1 (i - 9)
    else s

/-- What the visit of w to receiver i starts from; prev is the level decided before the block. -/
def visitStart (i : Nat) (w : Winch) (prev : Nat) : Visit :=
  { taps := w.base.taps.map fun c => (c : Rat) / 1024,
    refs := w.base.refs.map fun r => (r : Rat) / (if i < 9 then 64 else 256), sum := 0, prev := prev }

/-- What the visit of w to receiver i makes of its training block, 8,192 symbols. A FROZEN visit updates no coefficient:
its errors are those of the set as it stands (R120, R121, R159). -/
def visitResult (i : Nat) (codes : List (BitVec 8)) (lv : List (Fin 4)) (off : Nat) (s : State) (w : Winch) : Visit :=
  let mu : Rat := 1 / 2 ^ (w.mu + 4)
  let f := fun (v : Visit) (k : Nat) =>
    let x := if i < 9 then visitLine w (cicRatio (s.mode i)) off mu codes lv v k else visitHost w mu codes v k
    if w.hold then { v with sum := x.sum, prev := x.prev, levels := x.levels } else x
  (List.range 8192).foldl f (visitStart i w (lv.getD 1 0).val)

/-- A visit retires with its result: it counts, its coefficients are staged unless it was FROZEN, and its errors enter the
figure of merit (R121, R122, R123). One that began before event 3 of the acquisition is none of the four of event 4. -/
def visitRetired (i : Nat) (w : Winch) (v : Visit) (s : State) : State :=
  let s := (s.addSat F.WNC_SLOT_RET_COUNT 1).perf 0xE4
  let s := if w.hold then s else visitStage i (visitStart i w 0) v w.base.main s
  let s := if w.early then s
    else if i < 9 then s.modRx i fun t => { t with visits := min 4 (t.visits + 1) }
    else s.modHst (i - 9) fun t => { t with visits := min 4 (t.visits + 1) }
  let s := if i < 9 then s else s.modWinch fun w => { w with levels := Bank.put w.levels (i - 9) v.levels [] }
  fomUpdate i (v.sum / 8192) s

/-- The visit in progress ends: wasted, or retired with the result of its training block (R121, R123, R159). The block is
the 8,192 symbols' codes with 47 more on each side, the levels decided with two more before, and the symbols between the
oldest stage-1 output kept and the first symbol (R207). -/
def execWinchVisitEnd (b : VisitBlock) (s : State) : Host.Outcome State Fault Refusal :=
  match s.lanes.winch.visiting with
  | none => .next s
  | some i =>
    let w := s.lanes.winch
    let s := s.modWinch fun w => { w with visiting := none }
    if w.spoiled then .next ((s.addSat F.WNC_SLOT_WST_COUNT 1).perf 0xE5)
    else .next (visitRetired i w (visitResult i b.codes b.levels b.off s w) s)

end Sys2Proof.Machine
end

