-- ==== Sys2Proof/Machine/Lanyard.lean ====
section
/-! DEFINITION. Sys2Proof/Machine/Lanyard.lean: the Lanyard supervisory channel (R197 to R228) but for the agreements of
Protect.lean: coding, frames, anchors and the partner table, TELEMETRY, TXADJ, TIME, USER, and its commands. -/

namespace Sys2Proof.Machine

/-! ## Checks (R209) -/

/-- One step of a CRC of w bits, most significant bit first. -/
def crcMsbStep (w poly : Nat) (c : Nat) (b : Bool) : Nat :=
  let top := (c / 2 ^ (w - 1) % 2 = 1) != b
  (c * 2 % 2 ^ w) ^^^ (if top then poly else 0)

/-- CRC-16, polynomial 0x1021, initial value 0xFFFF, no reflection. -/
def crc16 (bs : List Byte) : Nat := (bitsMsb bs).foldl (crcMsbStep 16 0x1021) 0xFFFF

/-- A frame with the body given: LEN, HCRC, the body and its FCS; an empty body is an IDLE frame. -/
def lydFrame (body : List Byte) : List Byte :=
  let len := beBytes 2 body.length
  len ++ beBytes 2 (crc16 len) ++ (if body.isEmpty then [] else body ++ beBytes 4 (crc32 body))

/-! ## Demodulator and decoder (R208) -/

/-- Cost of a branch with the coded bits x and y for the soft values a and b, which run from -8 to 7 and favour 0 where they
are positive. -/
def vitCost (a b : Int) (x y : Bool) : Int := (if x then a else -a) + (if y then b else -b)

/-- The way to state j, whose newest bit is its top one: from the better of the two states it follows; tie says which of
two equal ones. The metric, and the bits of the path, the newest first. -/
def vitState (tie : Word) (v : Vit) (a b : Int) (j : Nat) : Int × List Bool :=
  let new := decide (32 ≤ j)
  let from_ := fun (i : Nat) =>
    let c := lydCode (BitVec.ofNat 6 i) new
    v.metric.getD i 0 + vitCost a b c.1 c.2
  let i := 2 * (j % 32)
  let k := if from_ i < from_ (i + 1) || (from_ i = from_ (i + 1) && tie.getLsbD (j % 32)) then i else i + 1
  (from_ k, new :: v.path.getD k [])

/-- The state of least metric, the lowest of equal ones. -/
def vitBest (m : List Int) : Nat :=
  (List.range m.length).foldl (fun k i => if m.getD i 0 < m.getD k 0 then i else k) 0

/-- A pair of soft values enters the decoder: once 64 bits follow it, a bit is delivered, and the disagreements of its
re-encoded pair with the hard decisions are counted. -/
def vitStep (tie : Word) (v : Vit) (a b : Int) : Vit × Option (Bool × Nat) :=
  let next := (List.range 64).map (vitState tie v a b)
  let least := next.foldl (fun m x => min m x.1) (next.headD (0, [])).1
  let k := vitBest (next.map Prod.fst)
  let hard := (decide (a < 0), decide (b < 0)) :: v.hard
  let v := { v with metric := next.map fun x => x.1 - least, path := next.map fun x => x.2.take 64, hard := hard.take 64 }
  match (next.getD k (0, [])).2[64]?, hard[64]? with
  | some bit, some h =>
    let c := lydCode v.enc bit
    ({ v with enc := lydShift v.enc bit }, some (bit, (c.1 != h.1).toNat + (c.2 != h.2).toNat))
  | _, _ => (v, none)

/-- A soft value reaches the decoder of lane n: the second of a pair moves it. Between equal paths either survives.
DESIGN CHOICE, log 160. -/
def lydSoft (n : Nat) (x : Int) (s : State) : State :=
  let v := (s.lydOf n).vit
  match v.half with
  | none => s.modLyd n fun l => { l with vit := { v with half := some x } }
  | some a =>
    let (tie, s) := s.free 29
    let (v, out) := vitStep tie { v with half := none } a x
    let s := s.modLyd n fun l => { l with vit := v }
    match out with
    | none => s
    | some (bit, k) => (s.modLyd n fun l => { l with bits := l.bits ++ [bit] }).addSat F.LYD_VIT_CORR_COUNT k n

/-- The soft values of a block's coded symbols are decoded; slip says that the demodulator finds the pairs at the other
symbol. -/
def lydDecode (n : Nat) (soft : List (BitVec 4)) (slip : Bool) (s : State) : State :=
  let s := s.modLyd n fun l => { l with bits := [], vit := { l.vit with half := if slip then none else l.vit.half } }
  let soft := if slip && (s.lydOf n).vit.half.isNone then soft.drop 1 else soft
  soft.foldl (fun s x => lydSoft n (signed 4 x.toNat) s) s

/-- The block's measurements are shown, with the runs of blocks at 6 dB or more and below 3 dB. -/
def lydMeasured (n : Line) (snr : BitVec 8) (fofs : BitVec 16) (s : State) : State :=
  let s := (s.put F.LYD_PHY_STAT_SNR snr.toNat n).put F.LYD_PHY_STAT_FOFS fofs.toNat n
  let good := if 24 ≤ snr.toNat then (s.lydOf n).good + 1 else 0
  let bad := if snr.toNat < 12 then (s.lydOf n).bad + 1 else 0
  s.modLyd n fun l => { l with good := min 16 good, bad := min 8 bad }

/-- Sixteen good blocks in a row lock, eight bad ones in a row lose lock. -/
def lydJudge (n : Line) (s : State) : State :=
  if s.flag F.LYD_PHY_STAT_PHY_LOCK n then (if 8 ≤ (s.lydOf n).bad then s.phyLost n else s)
  else if 16 ≤ (s.lydOf n).good then s.put F.LYD_PHY_STAT_PHY_LOCK 1 n
  else s

/-- A 32-symbol block ends, after the receiver's samples: pilot SNR in 0.25 dB, tracked offset and soft values as the
tracking loops give them from the settled output of the chain. DESIGN CHOICE, log 161. -/
def execLanyardBlock (n : Line) (data : RxData) (b : SoftBlock) (snr : BitVec 8) (fofs : BitVec 16) (s : State) : Host.Outcome State Fault Refusal :=
  let s := rxData n data s
  if !s.flag F.LYD_CTRL_RX_EN n || !s.flag F.LYD_PHY_STAT_SETTLED n || s.flag F.LRX_LOS_STAT_LOS n then .next s
  else .next (lydJudge n (lydMeasured n snr fofs (lydDecode n b.soft b.slip s)))

/-- Samples reach the receiver with which the chain gives its 40th output since the start, and it is settled. -/
def execLanyardChainSettled (d : LaneRx) (s : State) : Host.Outcome State Fault Refusal := .next (rxData d.lane d.data s)

/-! ## Frame delimiting (R210) -/

/-- LEN as the TYPE and content flags of a body give it, for the types of R212. -/
def lydLenOk (persLoaded : Bool) (body : List Byte) : Bool :=
  let k := body.length
  let c := fun i => (body.getD (4 + i) 0).toNat
  match (body.getD 0 0).toNat with
  | 1 => k = 32
  | 2 => k = 36
  | 3 => if c 0 = 2 then k = 12 else c 0 = 1 && c 3 % 2 = 1 && k = (if c 3 / 2 % 2 = 1 then 104 else 40)
  | 4 => k = 52
  | 5 => k = 12
  | 6 => 7 ≤ k && k ≤ 70
  | t => 0x80 ≤ t && persLoaded

/-- A frame body that arrived with its FCS in SYNC is counted when it is discarded; a good one is delivered by the row
of its type, or passed to the personality. -/
def lydBody (n : Nat) (body : List Byte) (fcsOk : Bool) (s : State) : State :=
  if body.isEmpty || s.get F.LYD_PHY_STAT_SYNC_ST n ≠ 2 then s
  else if !fcsOk then s.addSat F.LYD_FCS_ERR_COUNT 1 n
  else if (body.getD 1 0).toNat ≠ 1 || !lydLenOk s.fw.persLoaded body || !s.fw.running then
    s.addSat F.LYD_DROP_COUNT 1 n
  else if 0x80 ≤ (body.getD 0 0).toNat then (s.frameIn n).modLyd n fun l => { l with passed := body }
  else s

/-- A header is good: its CRC is right, and its length is 0 or 4 to 104 (R209). -/
def hdrGood (hdr : List Byte) : Bool :=
  let len := beVal (hdr.take 2)
  hdr.length = 4 && beVal (hdr.drop 2) = crc16 (hdr.take 2) && (len = 0 || (4 ≤ len && len ≤ 104))

/-- The frame synchroniser of lane n goes to state st. -/
def lydSync (n : Line) (st : Nat) (s : State) : State :=
  (s.put F.LYD_PHY_STAT_SYNC_ST st n).modLyd n fun l => { l with badHeaders := 0 }

/-- A header is tested, with the body and FCS of the frame that ended there (empty: none, or an IDLE frame). -/
def execLanyardHeaderFound (n : Line) (hdr : List Byte) (body fcs : List Byte) (s : State) :
    Host.Outcome State Fault Refusal :=
  if !s.flag F.LYD_PHY_STAT_PHY_LOCK n then .next s
  else
    let s := lydBody n body (beVal fcs = crc32 body) s
    match s.get F.LYD_PHY_STAT_SYNC_ST n with
    | 0 => .next (if hdrGood hdr then lydSync n 1 s else s)
    | 1 => .next (lydSync n (if hdrGood hdr then 2 else 0) s)
    | _ =>
      if hdrGood hdr then .next (lydSync n 2 s)
      else if 2 ≤ (s.lydOf n).badHeaders then .next ((lydSync n 0 s).agreeLinkLost n)
      else .next (s.modLyd n fun l => { l with badHeaders := l.badHeaders + 1 })

/-! ## Frames sent (R209, R211 to R215, R220) -/

/-- The anchor of a frame whose header's pilot leaves at RAW time p (R215): the latest TX AM boundary at or before it,
with its stamp. -/
def txAnchor (s : State) (n : Nat) (p : BitVec 48) : Option (BitVec 48 × Stamp) :=
  (s.tx n).amLog.find? fun a => 0 ≤ rawDiff p a.1

/-- Twelve bytes of a stamp: 48-bit seconds, 32-bit ns, 16-bit fractional ns (R220). -/
def stampBytes (t : Int) : List Byte :=
  let u := t % todMod
  let sub := (u % secU).toNat
  beBytes 6 (u / secU).toNat ++ beBytes 4 (sub / 65536) ++ beBytes 2 (sub % 65536)

/-- The time of day of twelve stamp bytes. -/
def stampVal (b : List Byte) : Int := todOf (beVal (b.take 6)) (beVal ((b.drop 6).take 4)) (beVal ((b.drop 10).take 2))

/-- Replace the bytes of l from offset i on by r. -/
def splice (l : List Byte) (i : Nat) (r : List Byte) : List Byte := l.take i ++ r ++ l.drop (i + r.length)

/-- Put the anchor, and in a TIME frame the stamp, into a content. Without a TX AM boundary the anchor fields carry a
free value: R215 names none. DESIGN CHOICE, log 51. -/
def lydAnchor (n : Nat) (p : BitVec 48) (f : LFrame) (s : State) : List Byte × State :=
  if f.type = 1 || f.type = 4 then
    let at_ := if f.type = 1 then 22 else 2
    match txAnchor s n p with
    | some a =>
      let c := splice f.content at_ (beBytes 2 (a.2.seq % 4096) ++ beBytes 4 (rawDiff p a.1).toNat)
      if f.type = 4 then
        (splice (splice c 1 [BitVec.ofNat 8 ((c.getD 1 0).toNat / 2 * 2 + 1)]) 8 (stampBytes a.2.tod), s)
      else (c, s)
    | none =>
      let (w, s) := s.free 8
      (splice f.content at_ (beBytes 2 (w.toNat % 4096) ++ beBytes 4 w.toNat), s)
  else (f.content, s)

/-- A USER message whose last fragment has been sent completes its command (R228). -/
def userSent (n : Nat) (cur : List Byte) (s : State) : State :=
  let id := (cur.getD 8 0).toNat
  let fr := (cur.getD 9 0).toNat
  match (if (cur.getD 4 0).toNat = 6 && fr / 16 + 1 = fr % 16 then (s.lydOf n).userTx.find? fun u => u.1 = id else none) with
  | none => s
  | some u =>
    let s := s.modLyd n fun l => { l with userTx := l.userTx.filter fun v => !(v.1 = id) }
    match s.cmdById u.2 with
    | none => s
    | some c => s.finish c .done id

/-- The frame in flight ends with its last symbol. One that is lost has not been sent (R197). -/
def lydSent (n : Nat) (s : State) : State :=
  let s := (lydRest n s).lydLose n
  let l := s.lydOf n
  let s := s.modLyd n fun l => { l with cur := [], bit := 0 }
  if l.lost || l.cur.length ≤ 4 then s else userSent n l.cur ((s.addSat F.LYD_TX_FRAMES_COUNT 1 n).perf 0xF0)

/-- The frame that starts next: the first of the queue, but no USER fragment while an agreement is open on the lane. -/
def lydPick (s : State) (n : Nat) : Option LFrame :=
  let open_ := s.agreeOpen && s.get F.LYD_AGREE_STAT_VIA = n
  (s.lydOf n).queue.find? fun f => !(open_ && f.type = 6)

/-- The next frame starts with its header's pilot at RAW time p; IDLE when nothing is queued, Rigger is stopped, or the
driver carries no Lanyard. -/
def lydStart (n : Nat) (p : BitVec 48) (s : State) : State :=
  let s := s.modLyd n fun l => { l with lost := !s.modulated n }
  match (if s.fw.running && s.modulated n then lydPick s n else none) with
  | none => s.modLyd n fun l => { l with cur := lydFrame [] }
  | some f =>
    let (content, s) := lydAnchor n p f s
    let flags := s.coarse.toNat + 2 * s.timeInvalid.toNat
    s.modLyd n fun l => { l with
      cur := lydFrame ([BitVec.ofNat 8 f.type, 1, l.seq, BitVec.ofNat 8 flags] ++ content),
      seq := l.seq + 1, queue := l.queue.erase f }

/-- A transmitted frame ends and the next one starts (R211). The encoder runs as long as TX_EN is 1 (R200). -/
def execLanyardFrameEnd (n : Line) (pilot : BitVec 48) (s : State) : Host.Outcome State Fault Refusal :=
  if s.flag F.LYD_CTRL_TX_EN n then .next (lydStart n pilot (lydSent n s)) else .next s

/-! ## HELLO, TELEMETRY and TIME contents (R213, R214, R220) -/

/-- HELLO of lane n, but for its anchor. DESIGN CHOICE, log 53. -/
def helloContent (s : State) (n : Nat) : List Byte :=
  let pol := s.get F.LYD_TXADJ_POL_MODE n
  let cap := 7 + 8 * s.l8Present.toNat + 16 * (decide (pol = 1 ∨ pol = 2)).toNat + 32 + 64 + 128
  let shadow := if s.flag F.LTX_LANE_CFG_SHADOW_EN 8 then s.get F.LTX_LANE_CFG_SHADOW_LANE 8 else 15
  let mode := s.mode n + 8 * s.get F.LTX_MAP_CFG_PRECODE n + 16 * s.get F.LRX_EQ_CTRL_PRECODE n
  beBytes 4 (s.word R.TOP_ID).toNat ++ beBytes 8 s.fw.serial.toNat ++ beBytes 2 s.fw.epoch.toNat
    ++ [BitVec.ofNat 8 n, BitVec.ofNat 8 (if s.partnerOf n then s.get F.LYD_PTR_INFO_FAR_LANE n else 15)]
    ++ beBytes 2 cap ++ [BitVec.ofNat 8 (max 1 (s.get F.LYD_PER_HELLO_PER)),
      BitVec.ofNat 8 (shadow * 16 + s.protState), BitVec.ofNat 8 mode, 0] ++ beBytes 2 0 ++ beBytes 4 0

def execHelloPeriod (n : Line) (s : State) : Host.Outcome State Fault Refusal :=
  if s.fw.running && s.lydTxOn n then .next (s.lydQueue n 1 (helloContent s n)) else .next s

/-- The greatest k of -8192 to 8191 with 10^k at most q^100. -/
def floorLog (q : Rat) : Int :=
  let le := fun (k : Int) =>
    if k ≥ 0 then 10 ^ k.toNat * q.den ^ 100 ≤ q.num.toNat ^ 100 else q.den ^ 100 ≤ q.num.toNat ^ 100 * 10 ^ (-k).toNat
  (List.range 14).foldl (fun k b => if le (k + 2 ^ (13 - b)) then k + 2 ^ (13 - b) else k) (-8192)

/-- PRE_BER of b differing bits in cw codewords: one of the two integers nearest to the figure.
DESIGN CHOICE, log 52. -/
def preBer (b cw : Nat) (s : State) : Nat × State :=
  if b = 0 then (0xFFFF, s)
  else
    let q : Rat := (b : Rat) / (128 * (cw : Rat))
    let k := floorLog q
    let exact := if k ≤ 0 then q.num.toNat ^ 100 * 10 ^ (-k).toNat = q.den ^ 100 else false
    let (w, s) := s.free 9
    ((clamp 0 0xFFFE (-k - (if !exact && w.getLsbD 0 then 1 else 0))).toNat, s)

/-- The wasted-slot ratio of lane n since its last TELEMETRY, in 1/256; of no slots at all, a free value. -/
def wasteRatio (n : Nat) (s : State) : Nat × State :=
  let ret := (Bank.get s.cap.lanes (8 * n + 5) 0 - (s.lydOf n).telRet).toNat
  let wst := (Bank.get s.cap.lanes (8 * n + 6) 0 - (s.lydOf n).telWst).toNat
  if ret + wst = 0 then let (w, s) := s.free 10; (w.toNat % 256, s)
  else
    let (v, s) := s.freeRound 11 (Int.ofNat (wst * 256)) (Int.ofNat (ret + wst))
    ((clamp 0 255 v).toNat, s)

/-- The byte for the figure q, in the units of its format: one of the integers nearest to it; of no symbols at all, or
beyond the format from lo to hi, a free value. DESIGN CHOICE, log 162. -/
def levelByte (lo hi : Int) (q : Option (Rat)) (s : State) : Byte × State :=
  let (w, s) := s.free 30
  let k := match q with
    | none => none
    | some q => if q = q.floor then some q.floor else some (q.floor + if w.getLsbD 0 then 1 else 0)
  match k with
  | some k => if lo ≤ k ∧ k ≤ hi then (BitVec.ofInt 8 k, s) else (w.setWidth 8, s)
  | none => (w.setWidth 8, s)

/-- The square root of q² × 2^16 between two integers: half of one beyond the lower unless it is exact. -/
def rmsOf (q : Rat) : Rat :=
  let x := (q * 65536).floor.toNat
  if (x.sqrt : Rat) * x.sqrt = q * 65536 then x.sqrt else x.sqrt + 1 / 2

/-- The means of z and the RMS values of e for the four levels since the last TELEMETRY (offsets 22 to 29). -/
def levelBytes (n : Nat) (s : State) : List Byte × State :=
  (List.range 4).foldl (fun (acc : List Byte × State) i =>
    let t := acc.2.rx n
    let k := t.lvN.getD i 0
    let (z, s) := levelByte (-128) 127 (if k = 0 then none else some (t.lvZ.getD i 0 / k * 64)) acc.2
    let (e, s) := levelByte 0 255 (if k = 0 then none else some (rmsOf (t.lvE.getD i 0 / k))) s
    (acc.1 ++ [z, e], s)) ([], s)

/-- The counts and sums that TELEMETRY reports start anew. -/
def telemetryReset (n : Nat) (s : State) : State :=
  (s.modLyd n fun l => { l with
    telCw := 0, telCand := 0, telFail := 0, telBits := 0,
    telRet := Bank.get s.cap.lanes (8 * n + 5) 0, telWst := Bank.get s.cap.lanes (8 * n + 6) 0 }).modRx n fun t =>
    { t with lvN := [0, 0, 0, 0], lvZ := [0, 0, 0, 0], lvE := [0, 0, 0, 0] }

/-- The TELEMETRY frame of lane n is queued and its counts start anew (R214). -/
def telemetryQueue (n : Line) (s : State) : State :=
  let l := s.lydOf n
  let status := s.get F.WNC_FOM_VALID n + 2 * s.get F.LRX_FRAME_STAT_SLOT_LOCK n + 4 * s.get F.LRX_FRAME_STAT_AMLOCK_A n
    + 8 * s.get F.LRX_LOS_STAT_LOS n + 16 * s.get F.LRX_LOS_STAT_LOL n
  let (ber, s) := preBer l.telBits l.telCw s
  let (ratio, s) := wasteRatio n s
  let (levels, s) := levelBytes n s
  let content := [BitVec.ofNat 8 n.val, BitVec.ofNat 8 status] ++ beBytes 2 (s.get F.WNC_FOM_FOM n) ++ beBytes 2 ber
    ++ beBytes 2 (100 * s.get F.LYD_PER_TEL_PER) ++ beBytes 4 l.telCw ++ beBytes 4 l.telCand ++ beBytes 4 l.telFail
    ++ [BitVec.ofNat 8 ratio, 0] ++ levels ++ [0, 0]
  (telemetryReset n s).lydQueue n 2 content

/-- A REQUEST of the firmware's choice is sent on lane n, while its REQ_EN is set (R219). -/
def txadjSend (n : Nat) (r : List Byte) (s : State) : State :=
  if s.flag F.LYD_TXADJ_POL_REQ_EN n && r.getD 0 0 = 1 then s.lydQueue n 3 r else s

/-- TEL_PER passes: the receiver of lane n is reported. With what it measures, firmware may ask the far end for another
shaping: the content of its REQUEST, if it sends one. DESIGN CHOICE, log 159. -/
def execTelemetryPeriod (n : Line) (request : Option (List Byte)) (s : State) : Host.Outcome State Fault Refusal :=
  if !s.fw.running || !s.lydTxOn n || s.get F.LYD_PER_TEL_PER = 0 then .next s
  else
    let s := telemetryQueue n s
    match request with
    | none => .next s
    | some r => .next (txadjSend n r s)

/-- The RX stamp of the boundary numbered k on lane n, if it is still in the history (R221). -/
def rxStampOf (s : State) (n k : Nat) : Option Stamp :=
  ((s.rx n).history.find? fun h => h.2.seqValid && h.2.seq = k).map Prod.snd

/-- TIME of lane n, but for its anchor and stamp: the echo of the latest TIME frame heard there, with the RX stamp taken then. -/
def timeContent (s : State) (n : Nat) : List Byte :=
  let echo := match (s.lydOf n).echo with
    | some (k, some tx) => (s.lydOf n).echoRx.map fun rx => (k, tx, rx)
    | _ => none
  [BitVec.ofNat 8 n, BitVec.ofNat 8 (if echo.isSome then 2 else 0)] ++ List.replicate 18 0
    ++ (match echo with
      | some (k, tx, rx) => beBytes 2 k ++ stampBytes tx ++ stampBytes rx
      | none => List.replicate 26 0) ++ [0, 0]

def execTimePeriod (n : Line) (s : State) : Host.Outcome State Fault Refusal :=
  if s.fw.running && s.lydTxOn n && s.get F.LYD_PER_TIME_PER ≠ 0 then .next (s.lydQueue n 4 (timeContent s n)) else .next s

/-! ## Anchors received (R215) -/

/-- Give RX AM boundary i of lane n's history, numbered k so far, the number seq: the boundaries since the latest lock and
the lane's counter follow, and are valid. A boundary from before that lock takes its number alone.
DESIGN CHOICE, log 158. -/
def renumber (n seq k i : Nat) (s : State) : State :=
  let d := seq + 4096 - k
  let since := (s.rx n).sinceLock
  let now := decide (i < since)
  let s := s.modRx n fun t => { t with history := t.history.zipIdx.map fun h =>
    if (now && h.2 < since) || h.2 = i then (h.1.1, { h.1.2 with seq := (h.1.2.seq + d) % 4096, seqValid := true }) else h.1 }
  if now then (s.put F.LRX_AM_SEQ_SEQ ((s.get F.LRX_AM_SEQ_SEQ n + d) % 4096) n).put F.LRX_AM_SEQ_VALID 1 n else s

/-- Handle an anchor whose pilot stood at the ADC input at RAW time p. -/
def rxAnchor (n seq offs : Nat) (p : BitVec 48) (s : State) : State :=
  let at_ := p - BitVec.ofNat 48 offs
  match (s.rx n).history.zipIdx.find? fun h => (rawDiff h.1.1 at_).natAbs ≤ 5000 with
  | none => s.addSat F.LYD_ANCHOR_ERR_COUNT 1 n
  | some h =>
    let k := h.1.2.seq
    if h.1.2.seqValid && h.2 < (s.rx n).sinceLock && s.flag F.LRX_AM_SEQ_VALID n then
      if k = seq then s else (renumber n seq k h.2 s).addSat F.LYD_ANCHOR_ERR_COUNT 1 n
    else renumber n seq k h.2 s

/-! ## The partner table (R216, R217) -/

/-- Distinct serials of the records held. -/
def partnerSerials (s : State) : List (BitVec 64) := (((List.range 9).filter s.partnerOf).map s.partnerSerial).dedup

/-- LYD_PART_CNT follows the records. -/
def partnerCount (s : State) : State := s.put F.LYD_PART_CNT_COUNT (partnerSerials s).length

/-- PARTNER_ID for a serial that the record of lane n takes: that of a record of it, be it the lane's own, else the lowest
that no other record holds. -/
def partnerId (s : State) (n : Nat) (serial : BitVec 64) : Nat :=
  match (List.range 9).find? fun k => s.partnerOf k && s.partnerSerial k = serial with
  | some k => s.get F.LYD_PTR_INFO_PARTNER_ID k
  | none => ((List.range 9).find? fun i =>
      !((List.range 9).any fun k => k ≠ n && s.partnerOf k && s.get F.LYD_PTR_INFO_PARTNER_ID k = i)).getD 0

/-- The record of lane n is cleared. -/
def partnerClear (n : Nat) (s : State) : State :=
  partnerCount ([R.LYD_PTR_PART, R.LYD_PTR_SER_LO, R.LYD_PTR_SER_HI, R.LYD_PTR_INFO, R.LYD_PTR_CAP, R.LYD_PTR_AGE].foldl
    (fun s r => s.setWord r (r.reset n 0) n) s)

/-- The messages queued on lane n end with PEER_LOST (R228). -/
def userLost (n : Nat) (s : State) : State :=
  let ids := (s.lydOf n).userTx.map Prod.snd
  let s := s.modLyd n fun l => { l with userTx := [], queue := l.queue.filter fun f => !(f.type = 6) }
  eachOf ids (fun i s => match s.cmdById i with | some c => s.finish c .peerLost | none => s) s

/-- The record of lane n is forgotten. -/
def partnerForget (n : Nat) (s : State) : State :=
  if s.partnerOf n then (userLost n (partnerClear n s)).postBare 0x74 n else s

/-- The record of lane n as a HELLO gives it. -/
def partnerLearn (n : Nat) (b : List Byte) (s : State) : State :=
  let serial := BitVec.ofNat 64 (cval b 4 8)
  let id := partnerId s n serial
  let s := s.setWord R.LYD_PTR_PART (BitVec.ofNat 32 (cval b 0 4)) n
  let s := (s.setWord R.LYD_PTR_SER_HI (BitVec.ofNat 32 (cval b 4 4)) n).setWord R.LYD_PTR_SER_LO (BitVec.ofNat 32 (cval b 8 4)) n
  let s := s.setWord R.LYD_PTR_INFO (BitVec.ofNat 32
    (2 ^ 31 + id * 2 ^ 24 + cbyte b 14 % 16 * 2 ^ 20 + cbyte b 15 % 16 * 2 ^ 16 + cval b 12 2)) n
  let s := s.setWord R.LYD_PTR_CAP (BitVec.ofNat 32
    (cbyte b 18 * 2 ^ 24 + cbyte b 19 / 16 * 2 ^ 20 + cbyte b 19 % 8 * 2 ^ 16 + cval b 16 2)) n
  let s := (s.put F.LYD_PTR_AGE_MODE (cbyte b 20) n).put F.LYD_PTR_AGE_MISSED 0 n
  partnerCount (s.modLyd n fun l => { l with heard := s.tim.raw })

/-- What a HELLO tells on lane n: the partner's record with the event for a new partner, serial or epoch, and the anchor
(R215 to R217). -/
def helloTaken (n : Line) (b : List Byte) (pilot : BitVec 48) (s : State) : State :=
  let had := s.partnerOf n
  let sameSer := s.partnerSerial n = BitVec.ofNat 64 (cval b 4 8)
  let sameEpoch := s.get F.LYD_PTR_INFO_EPOCH n = cval b 12 2
  let s := if had && !sameEpoch then s.put F.LRX_AM_SEQ_VALID 0 n else s
  let s := partnerLearn n b s
  let s := if !had then s.postBare 0x71 n else if !sameSer then s.postBare 0x72 n
    else if !sameEpoch then s.postBare 0x73 n else s
  rxAnchor n (cval b 22 2 % 4096) (cval b 24 4) pilot s

/-- A HELLO is delivered on lane n: record, anchor, and what it confirms of an arming. -/
def execHelloRx (n : Line) (b : List Byte) (pilot : BitVec 48) (s : State) : Host.Outcome State Fault Refusal :=
  if !s.delivers n then .next s
  else
    let s := helloTaken n b pilot (s.frameIn n)
    let s := s.modProt fun p => { p with confirmed := s.farConfirms }
    .next s.armCheck

/-- A period announced by the partner passes without a HELLO. -/
def execHelloPeriodMissed (n : Line) (s : State) : Host.Outcome State Fault Refusal :=
  if !s.partnerOf n then .next s
  else
    let k := s.get F.LYD_PTR_AGE_MISSED n + 1
    if 8 ≤ k then .next (partnerForget n s) else .next (s.put F.LYD_PTR_AGE_MISSED k n)

/-! ## TELEMETRY and TIME received (R214, R221) -/

def execTelemetryRx (n : Line) (b : List Byte) (s : State) : Host.Outcome State Fault Refusal :=
  if !s.delivers n then .next s else .next ((s.frameIn n).modLyd n fun l => { l with telemetry := b })

/-- What a TIME frame tells on lane n: its anchor, and the echo for our own TIME frames (R220). -/
def timeTaken (n : Line) (b : List Byte) (pilot : BitVec 48) (s : State) : State :=
  let seq := cval b 2 2 % 4096
  let s := rxAnchor n seq (cval b 4 4) pilot s
  s.modLyd n fun l => { l with
    echo := some (seq, if cbyte b 1 % 2 = 1 then some (stampVal (b.drop 8)) else none)
    echoRx := (rxStampOf s n seq).map Stamp.tod }

/-- A TIME frame: its anchor, the echo kept for our own TIME frames, and the two-way result. flags is the frame's
FLAGS byte. -/
def execTimeRx (n : Line) (flags : BitVec 8) (b : List Byte) (pilot : BitVec 48) (s : State) :
    Host.Outcome State Fault Refusal :=
  if !s.delivers n then .next s
  else
    let s := timeTaken n b pilot (s.frameIn n)
    match rxStampOf s n (cval b 2 2 % 4096) with
    | none => .next s
    | some t4 =>
      if cbyte b 1 % 2 = 1 && cbyte b 1 / 2 % 2 = 1 && !s.timeInvalid && !flags.getLsbD 1 then
        let t1 := stampVal (b.drop 22)
        let t2 := stampVal (b.drop 34)
        let t3 := stampVal (b.drop 8)
        .next (s.twoWayResult n ((t2 - t1) + (t4.tod - t3)) ((t2 - t1) - (t4.tod - t3)) (s.coarse || flags.getLsbD 0))
      else .next s

/-! ## TXADJ (R218, R219) -/

/-- Send a RESULT for a REQUEST of serial S on lane t, and keep it for repeats. -/
def txadjResult (t id : Nat) (serial : BitVec 64) (st : Status) (seq : Nat) (s : State) : State :=
  let content := [2, id, t, st.code, seq / 256 % 16, seq % 256, 0, 0].map (BitVec.ofNat 8)
  let s := (s.put F.LYD_TXADJ_STAT_LAST_ID id t).put F.LYD_TXADJ_STAT_LAST_STATUS st.code t
  let s := if st = .done then s.addSat F.LYD_TXADJ_STAT_APPLIED 1 t else s.addSat F.LYD_TXADJ_STAT_REFUSED 1 t
  let s := s.modLyd t fun l => { l with
    results := (serial, id, content, s.tim.raw) :: (l.results.filter fun r => rawDiff s.tim.raw r.2.2.2 < 1000000000) }
  s.lydQueue t 3 content

/-- The reference set of lane n is captured from the active shaping. -/
def txadjCapture (n : Nat) (s : State) : State :=
  s.modLyd n fun l => { l with refTaps := (List.range 15).map (firTap (s.tx n).taps), refMain := s.get F.LTX_SHAPE_STAT_MAIN_ACT n }

/-- A REQUEST whose shaping has been copied is answered with DONE, once Rigger runs (R15, R219). -/
def txadjAnswer (n : Nat) (s : State) : State :=
  let seq := s.get F.LTX_SHAPE_STAT_APPLY_SEQ n
  match (if s.fw.running && !s.flag F.LTX_SHAPE_CTRL_PEND n then (s.lydOf n).waiting else none) with
  | none => s
  | some (serial, id) =>
    let s := s.modLyd n fun l => { l with
      waiting := none,
      applied := (serial, s.tim.raw) :: l.applied.filter fun a => !(a.1 = serial) }
    (txadjResult n id serial .done seq s).post 0x76 n seq

/-- The shaping of lane n has been copied: a REQUEST that waited for it is answered, and commands complete. -/
def shapingCopied (n : Nat) (s : State) : State :=
  let s := txadjAnswer n s
  if s.mbx.outstanding.any fun c => match c.stage with | .executing (.shaping l) => l.contains n | _ => false then
    txadjCapture n (s.shapingDone n)
  else s

/-- A request breaks the bounds of mode BOUNDED. -/
def txadjBeyond (s : State) (t : Nat) (taps : List Int) (main : Nat) (pd : Bool) : Bool :=
  let l := s.lydOf t
  ((List.range 15).any fun i => s.get F.LYD_TXADJ_POL_MAX_DELTA t < (taps.getD i 0 - l.refTaps.getD i 0).natAbs)
    || s.get F.LYD_TXADJ_POL_SUM_MAX t < (taps.map fun (c : Int) => c.natAbs).sum || main ≠ l.refMain
    || (pd && !s.flag F.LYD_TXADJ_POL_PD_ALLOW t)

/-- The 15 taps of a REQUEST. -/
def requestTaps (b : List Byte) : List Int := (List.range 15).map fun i => signed 10 (cval b (6 + 2 * i) 2)

/-- Lane t takes requests from the partner with this serial number, who hears it (R219). -/
def txadjAllows (t : Nat) (serial : BitVec 64) (s : State) : Bool :=
  s.get F.LYD_TXADJ_POL_MODE t ≠ 0 && s.get F.LYD_TXADJ_POL_MODE t ≠ 3
    && (List.range 9).any fun k => s.partnerOf k && s.partnerSerial k = serial && s.get F.LYD_PTR_INFO_HEARD k = t

/-- The request comes too soon after the last one applied, or in LIMITED moves too far (R219). -/
def txadjHeld (t : Nat) (serial : BitVec 64) (b : List Byte) (s : State) : Bool :=
  ((s.lydOf t).applied.any fun a => a.1 = serial
      && rawDiff s.tim.raw a.2 < Int.ofNat (s.get F.LYD_TXADJ_POL_MIN_INT t * 10000000))
    || (s.get F.LYD_TXADJ_POL_MODE t = 2 && txadjBeyond s t (requestTaps b) (cbyte b 4 % 16) (cbyte b 3 / 2 % 2 = 1))

/-- The settings of a REQUEST go to lane t's shadow copy and wait for its boundary. DEDUCED, log 54. -/
def txadjTake (t id : Nat) (serial : BitVec 64) (b : List Byte) (s : State) : State :=
  let taps := requestTaps b
  let flags := cbyte b 3
  let word := fun (k : Nat) => BitVec.ofNat 32 (unsigned 10 (taps.getD (2 * k) 0) + 65536 * unsigned 10 (taps.getD (2 * k + 1) 0))
  let s := shadowTaps t ((List.range 8).map word) (shadowBegin t s)
  let s := if flags / 2 % 2 = 1 then shadowPd t ((b.drop 36).take 64) s else s
  let s := if flags / 8 % 2 = 1 then s.put F.LTX_SHAPE_CTRL_PD_EN (flags / 4 % 2) t else s
  let s := (s.put F.LTX_SHAPE_CTRL_MAIN (cbyte b 4 % 16) t).modLyd t fun l => { l with waiting := some (serial, id) }
  shapeApply t s

/-- The result that lane t gave this request within the last second. -/
def txadjKnown (t id : Nat) (serial : BitVec 64) (s : State) : Option (List Byte) :=
  ((s.lydOf t).results.find? fun r => r.1 = serial && r.2.1 = id && rawDiff s.tim.raw r.2.2.2 < 1000000000).map fun r =>
    r.2.2.1

/-- A REQUEST is delivered on lane n. -/
def execTxadjRequestRx (n : Line) (b : List Byte) (s : State) : Host.Outcome State Fault Refusal :=
  if !s.delivers n then .next s
  else
    let s := s.frameIn n
    let serial := s.partnerSerial n
    let id := cbyte b 1
    let t := cbyte b 2
    if 8 < t || !s.partnerOf n then .next s
    else match txadjKnown t id serial s with
    | some r => .next (s.lydQueue t 3 r)
    | none =>
      if (s.lydOf t).waiting = some (serial, id) then .next s
      else if !txadjAllows t serial s then .next (txadjResult t id serial .denied 0 s)
      else if txadjHeld t serial b s then .next (txadjResult t id serial .conflict 0 s)
      else .next (txadjTake t id serial b s)

def execTxadjResultRx (n : Line) (b : List Byte) (s : State) : Host.Outcome State Fault Refusal :=
  if !s.delivers n then .next s else .next ((s.frameIn n).modLyd n fun l => { l with txadjResult := b })

/-! ## USER messages (R226) -/

/-- A complete message goes to the lowest free slot of the ring. -/
def userDeliver (n id : Nat) (msg : List Byte) (s : State) : State :=
  let occ := s.get F.LYD_USER_STAT_OCC
  match (List.range 16).find? fun k => occ / 2 ^ k % 2 = 0 with
  | none => s.addSat F.LYD_USER_STAT_LOST 1
  | some k =>
    let hdr := 2 ^ 31 + n * 2 ^ 24 + id * 2 ^ 16 + s.get F.LYD_PTR_INFO_PARTNER_ID n * 2 ^ 8 + msg.length
    let a := 0x81EF0000 + 256 * k
    let s := (s.setBytes a (leBytes 4 hdr)).setBytes (a + 8) msg
    (s.put F.LYD_USER_STAT_OCC (occ + 2 ^ k)).post 0x75 n k

/-- The message that a fragment belongs to, with the fragment in it: its first byte names the message, its second the
index and the count. -/
def userMsg (n : Line) (b : List Byte) (s : State) : UserRx :=
  let old := ((s.lydOf n).userRx.find? fun u => u.id = cbyte b 0).getD
    { id := cbyte b 0, count := cbyte b 1 % 16, frags := [] }
  { old with id := cbyte b 0, frags := Bank.insert old.frags (cbyte b 1 / 16) (b.drop 2) }

/-- Every fragment is there. -/
def UserRx.complete (u : UserRx) : Bool := (List.range u.count).all fun i => (Bank.find u.frags i).isSome

/-- The bytes of a message. -/
def UserRx.content (u : UserRx) : List Byte := (List.range u.count).flatMap fun i => Bank.get u.frags i []

/-- A fragment is delivered; one whose index is not below its count belongs to no message. -/
def execUserFragmentRx (n : Line) (b : List Byte) (s : State) : Host.Outcome State Fault Refusal :=
  if !s.delivers n then .next s
  else
    let s := s.frameIn n
    if cbyte b 1 % 16 ≤ cbyte b 1 / 16 || 4 < cbyte b 1 % 16 then .next s
    else
      let msg := userMsg n b s
      let rest := (s.lydOf n).userRx.filter fun u => !(u.id = msg.id)
      if msg.complete then
        .next (userDeliver n msg.id msg.content (s.modLyd n fun l => { l with userRx := rest }))
      else .next (s.modLyd n fun l => { l with userRx := rest ++ [msg] })

/-- 50 ms after the first fragment of message id it is still incomplete. -/
def execUserReassemblyTimeout (n : Line) (id : BitVec 8) (s : State) : Host.Outcome State Fault Refusal :=
  if (s.lydOf n).userRx.any fun u => u.id = id.toNat then
    .next ((s.modLyd n fun l => { l with userRx := l.userRx.filter fun u => !(u.id = id.toNat) }).addSat
      F.LYD_USER_STAT_LOST 1)
  else .next s

/-- A write of LYD_USER_FREE. -/
def userFreeWrite (v : Word) (s : State) : State :=
  eachBelow 16 (fun k s =>
    if v.getLsbD k && (s.get F.LYD_USER_STAT_OCC) / 2 ^ k % 2 = 1 then
      let a := 0x81EF0003 + 256 * k
      (s.put F.LYD_USER_STAT_OCC (s.get F.LYD_USER_STAT_OCC - 2 ^ k)).setByte a (s.byte a &&& 0x7F)
    else s) s

/-! ## Register writes of the LYD block -/

/-- A write of LYD_CTRLn: TX_EN also writes LTX_LYD_ADD.EN (R197), and starts or stops the encoder (R200); RX_EN starts
the chain, or stops and clears it (R205). -/
def lydCtrlWrite (n : Nat) (v : Word) (s : State) : State :=
  let tx := s.get F.LYD_CTRL_TX_EN n
  let rx := s.get F.LYD_CTRL_RX_EN n
  let s := s.writePlain R.LYD_CTRL v n
  let s := s.put F.LTX_LYD_ADD_EN (s.get F.LYD_CTRL_TX_EN n) n
  let s := if s.get F.LYD_CTRL_TX_EN n = tx then s
    else s.modLyd n fun l => { l with cur := [], bit := 0, encoder := 0, coded := [], slot := 0, syms := [], lost := false }
  if s.get F.LYD_CTRL_RX_EN n = rx then s else s.chainRestart n

/-- A write of a channel FIR coefficient word: only while the chain is stopped (R204). -/
def lydFirWrite (n q : Nat) (v : Word) (s : State) : State :=
  if s.flag F.LYD_CTRL_RX_EN n then s.put F.LYD_PHY_STAT_COEF_REJ 1 n else s.writePlain R.LYD_FIR v n q

/-- A write of LYD_TXADJ_POLn: in mode BOUNDED it captures the reference set (R219). -/
def lydPolWrite (n : Nat) (v : Word) (s : State) : State :=
  let s := s.writePlain R.LYD_TXADJ_POL v n
  if s.get F.LYD_TXADJ_POL_MODE n = 2 then txadjCapture n s else s

/-! ## Commands (R227, R228) -/

/-- The settings that LANYARD_CONFIG names for lane n: transmitter, receiver and depth. -/
def lydConfigure (c : Cmd) (n : Nat) (s : State) : State :=
  let w := s.word R.LYD_CTRL n
  let w := if c.bits 3 1 1 = 1 then withBits w 0 0 (c.bits 3 0 0) else w
  let w := if c.bits 3 3 3 = 1 then withBits w 1 1 (c.bits 3 2 2) else w
  let s := if c.bits 3 1 1 = 1 || c.bits 3 3 3 = 1 then lydCtrlWrite n w s else s
  if c.bits 3 13 13 = 1 then s.put F.LTX_LYD_ADD_DEPTH (c.bits 3 12 8) n else s

/-- The periods that LANYARD_CONFIG names. -/
def lydPeriods (c : Cmd) (s : State) : State :=
  let s := if c.bits 4 8 8 = 1 then s.put F.LYD_PER_HELLO_PER (c.bits 4 7 0) else s
  let s := if c.bits 4 24 24 = 1 then s.put F.LYD_PER_TIME_PER (c.bits 4 23 16) else s
  if c.bits 5 8 8 = 1 then s.put F.LYD_PER_TEL_PER (c.bits 5 7 0) else s

/-- LANYARD_CONFIG. -/
def execLanyardConfig (m : MBox) (s : State) : Host.Outcome State Fault Refusal :=
  .next (runCmd 0x70 m (fun c s =>
    let lanes := maskLanes 9 (c.bits 2 8 0)
    let depth := c.bits 3 12 8
    if c.bits 3 13 13 = 1 && (depth < 4 || 24 < depth) then s.finish c .badLength
    else if c.bits 3 3 3 = 1 && lanes.any fun n => !s.laneOn n then s.finish c .blockOff
    else (lydPeriods c (eachOf lanes (lydConfigure c) s)).finish c .done) s)

/-- The staged message of command c is queued on lane n in fragments of 64 bytes, each with the message's number, its
index and the count. -/
def userQueue (c : Cmd) (n : Nat) (s : State) : State :=
  let msg := s.bytes (stagingBase c.m) c.extLen
  let id := (s.lydOf n).userId.toNat
  let k := (c.extLen + 63) / 64
  let s := s.modLyd n fun l => { l with userId := l.userId + 1, userTx := l.userTx ++ [(id, c.id)] }
  eachBelow k (fun i s =>
    s.lydQueue n 6 ([BitVec.ofNat 8 id, BitVec.ofNat 8 (i * 16 + k)] ++ (msg.drop (64 * i)).take 64)) s

/-- LANYARD_SEND: up to four fragments of 64 bytes are queued; the command waits for the last. -/
def execLanyardSend (m : MBox) (s : State) : Host.Outcome State Fault Refusal :=
  .next (runCmd 0x71 m (fun c s =>
    let n := c.bits 2 3 0
    if 8 < n || c.extLen = 0 || 200 < c.extLen then s.finish c .badLength
    else if !s.partnerOf n then s.finish c .peerLost
    else if s.get F.LYD_PTR_CAP_CAP n / 128 % 2 = 0 then s.finish c .denied
    else if 4 ≤ (s.lydOf n).userTx.length then s.finish c .queueFull
    else (userQueue c n s).await c (.lanyardSend n)) s)

/-- The fragments of message id leave lane n's queue; the other messages stay. -/
def userDrop (n : Line) (id : Nat) (others : List (Nat × Nat)) (s : State) : State :=
  s.modLyd n fun l => { l with
    userTx := others, queue := l.queue.filter fun f => !(f.type = 6 && (f.content.getD 0 0).toNat = id) }

/-- 1 s after the oldest LANYARD_SEND of lane n its last fragment is not sent. -/
def execLanyardSendTimeout (n : Line) (s : State) : Host.Outcome State Fault Refusal :=
  match (s.lydOf n).userTx with
  | [] => .next s
  | u :: rest =>
    let s := userDrop n u.1 rest s
    match s.cmdById u.2 with
    | none => .next s
    | some c => .next (s.finish c .timedOut)

/-- LANYARD_PARTNER with the action given. -/
def lanyardPartner (action : Nat) (f : Nat → State → State) (m : MBox) (s : State) : Host.Outcome State Fault Refusal :=
  .next (runCmd 0x72 m (fun c s =>
    let n := c.bits 2 3 0
    if 8 < n then s.finish c .badLength
    else if c.bits 2 9 8 = 3 then s.finish c .badOpcode
    else if c.bits 2 9 8 = action then
      let s := f n s
      s.finish c .done (s.get F.LYD_PTR_INFO_PARTNER_ID n + 16 * s.get F.LYD_PTR_INFO_VALID n
        + 256 * s.get F.LYD_PART_CNT_COUNT)
    else s) s)

def execLanyardPartnerRead (m : MBox) (s : State) : Host.Outcome State Fault Refusal := lanyardPartner 0 (fun _ s => s) m s
def execLanyardPartnerHello (m : MBox) (s : State) : Host.Outcome State Fault Refusal :=
  lanyardPartner 1 (fun n s => if s.lydTxOn n then s.lydQueue n 1 (helloContent s n) else s) m s
def execLanyardPartnerForget (m : MBox) (s : State) : Host.Outcome State Fault Refusal := lanyardPartner 2 partnerForget m s

def execLanyardTxadjPolicy (m : MBox) (s : State) : Host.Outcome State Fault Refusal :=
  .next (runCmd 0x73 m (fun c s =>
    (eachOf (maskLanes 9 (c.bits 2 8 0)) (fun n s => txadjCapture n (lydPolWrite n (c.word 3) s)) s).finish c .done) s)

end Sys2Proof.Machine
end

