-- ==== Sys2Proof/Machine/Decoder.lean ====
section
/-! DEFINITION. Sys2Proof/Machine/Decoder.lean: the arithmetic of the trellis detector (R112 to R114), of the Chase
decoder (R116) and of one Capstan iteration (R133). Metrics are exact rational numbers. -/

namespace Sys2Proof.Machine

/-! ## Forward-backward recursion (R113) -/

/-- What the detector works with: MEM, PRECODE, the reference table in 1/64, 1/(2σ²), the mask to remove, and the
a priori values of the codeword's bits. -/
structure Det where
  mem2 : Bool
  precode : Bool
  refs : List Int
  inv : Rat
  mask : BitVec 128
  la : List Rat

/-- The two bits of symbol c after symbol b: Gray-demapped (R77), after the precoder is undone (R114). -/
def Det.bits (d : Det) (b c : Nat) : Bool × Bool :=
  let g := if d.precode then (b + c) % 4 else c
  (decide (2 ≤ g), decide (g = 1 ∨ g = 2))

/-- Bit i, 0 or 1, of the codeword symbol k - 16 on the branch from b to c, with the mask removed. -/
def Det.bit (d : Det) (k i b c : Nat) : Bool :=
  (if i = 0 then (d.bits b c).1 else (d.bits b c).2) != d.mask.getLsbD (2 * (k - 16) + i)

/-- Metric of the branch a, b to b, c at symbol k of the window: R113's, and the a priori values of R133. -/
def Det.branch (d : Det) (z : Rat) (k a b c : Nat) : Rat :=
  let r := d.refs.getD (if d.mem2 then 16 * a + 4 * b + c else 4 * b + c) 0
  let e := z - (r : Rat) / 64
  let ap := fun i => if d.bit k i b c then d.la.getD (2 * (k - 16) + i) 0 else 0
  e * e * d.inv + (if 16 ≤ k && k < 80 then ap 0 + ap 1 else 0)

/-- The smallest of a non-empty list. -/
def ratMin (l : List Rat) : Rat := l.tail.foldl (fun a b => if b < a then b else a) (l.headD 0)

/-- One forward step over the sixteen states 4a + b. -/
def Det.forward (d : Det) (al : List Rat) (z : Rat) (k : Nat) : List Rat :=
  (List.range 16).map fun s => ratMin ((List.range 4).map fun a => al.getD (4 * a + s / 4) 0 + d.branch z k a (s / 4) (s % 4))

/-- One backward step. -/
def Det.backward (d : Det) (be : List Rat) (z : Rat) (k : Nat) : List Rat :=
  (List.range 16).map fun s => ratMin ((List.range 4).map fun c => d.branch z k (s / 4) (s % 4) c + be.getD (4 * (s % 4) + c) 0)

/-- The backward metrics after each symbol of the window, from symbol k on. -/
def Det.backs (d : Det) (zs : List Rat) (k : Nat) : List (List Rat) :=
  match zs with
  | [] => [List.replicate 16 0]
  | z :: t =>
    let rest := d.backs t (k + 1)
    d.backward (rest.headD []) z k :: rest

/-- LLR of both bits of symbol k from the metrics before and after it: M1 - M0. -/
def Det.symbol (d : Det) (al be : List Rat) (z : Rat) (k : Nat) : List Rat :=
  (List.range 2).map fun i =>
    let path := fun (v : Bool) => (List.range 64).filterMap fun x =>
      if d.bit k i (x / 4 % 4) (x % 4) = v then
        some (al.getD (x / 4) 0 + d.branch z k (x / 16) (x / 4 % 4) (x % 4) + be.getD (x % 16) 0)
      else none
    ratMin (path true) - ratMin (path false)

/-- LLRs of the codeword's 128 bits; the metrics start equal at either end of the window. -/
def Det.llrs (d : Det) (zs : List Rat) : List Rat :=
  let bs := d.backs zs 0
  ((List.range zs.length).foldl (fun (acc : List Rat × List Rat) k =>
    let z := zs.getD k 0
    (d.forward acc.1 z k,
      if 16 ≤ k && k < 80 then acc.2 ++ d.symbol acc.1 (bs.getD (k + 1) []) z k else acc.2))
    (List.replicate 16 0, [])).2

/-- Quantise to six bits in steps of 0.5; between two steps up says which. DESIGN CHOICE, log 38. -/
def quantLlr (up : Bool) (r : Rat) : Int := clamp (-32) 31 (if up then (2 * r).ceil else (2 * r).floor)

/-! ## Chase decoder (R116) -/

/-- Hard decisions: a positive LLR favours 0; what a zero favours is left to tie. -/
def hardBits (tie : Word) (llr : List Int) : BitVec 128 :=
  BitVec.ofNat 128 ((llr.zipIdx.map fun p =>
    if p.1 < 0 || (p.1 = 0 && tie.getLsbD (p.2 % 32)) then 2 ^ p.2 else 0).sum)

/-- Insert an index into a list ordered by |LLR|, then index. -/
def weakInsert (llr : List Int) (i : Nat) (l : List Nat) : List Nat :=
  match l with
  | [] => [i]
  | j :: t =>
    if (llr.getD i 0).natAbs < (llr.getD j 0).natAbs || ((llr.getD i 0).natAbs = (llr.getD j 0).natAbs && i < j) then i :: j :: t
    else j :: weakInsert llr i t

/-- Bit positions in rising order of |LLR|. -/
def weakest (llr : List Int) : List Nat := (List.range llr.length).foldl (fun l i => weakInsert llr i l) []

/-- Number of ones of a byte. -/
def ones8 (b : BitVec 8) : Nat := ((List.range 8).filter fun i => b.getLsbD i).length

/-- Decode a word: valid, corrected in one bit, or invalid. -/
def hammingDecode (w : BitVec 128) : Option (BitVec 128) :=
  let sy := syndrome w
  if sy = 0 then some w
  else if ones8 sy % 2 = 1 then
    match (List.range 128).find? fun i => Config.hammingCol i = sy with
    | some i => some (w ^^^ BitVec.twoPow 128 i)
    | none => none
  else none

/-- Σ|LLR| over the bits in which w differs from h. -/
def chaseMetric (llr : List Int) (h w : BitVec 128) : Nat :=
  (llr.zipIdx.map fun p => if h.getLsbD p.2 != w.getLsbD p.2 then p.1.natAbs else 0).sum

/-- What the Chase decoder gives: h, the distinct valid results with their metrics, the decision, its reliability in
half units, and FAIL. -/
structure Chase where
  h : BitVec 128
  valid : List (BitVec 128 × Nat)
  decision : BitVec 128
  rel : Nat
  fail : Bool

/-- The Chase decoder with 16 test words; between valid results of equal least metric tie chooses. -/
def chase (tie : Word) (llr : List Int) : Chase :=
  let h := hardBits tie llr
  let weak := (weakest llr).take 4
  let tests := (List.range 16).map fun p =>
    weak.zipIdx.foldl (fun w q => if p / 2 ^ q.2 % 2 = 1 then w ^^^ BitVec.twoPow 128 q.1 else w) h
  let valid := ((tests.filterMap hammingDecode).dedup).map fun w => (w, chaseMetric llr h w)
  match valid with
  | [] => { h := h, valid := [], decision := h, rel := 0, fail := true }
  | v :: t =>
    let least := t.foldl (fun a x => min a x.2) v.2
    let firsts := valid.filter fun x => x.2 = least
    let d := firsts.getD (tie.toNat % firsts.length) v
    let others := valid.filter fun x => !(x.1 = d.1)
    let rel := match others with
      | [] => 255
      | o :: r => min 255 (r.foldl (fun a x => min a x.2) o.2 - least)
    { h := h, valid := valid, decision := d.1, rel := rel, fail := false }

/-- Soft output of bit j in half units (R133): the best competitor with the opposite bit, less the decision's metric,
or 15.5. -/
def softOut (llr : List Int) (c : Chase) (j : Nat) : Int :=
  let own := chaseMetric llr c.h c.decision
  let m : Int := match c.valid.filter fun x => x.1.getLsbD j != c.decision.getLsbD j with
    | [] => 31
    | o :: r => Int.ofNat (r.foldl (fun a x => min a x.2) o.2) - Int.ofNat own
  if c.decision.getLsbD j then -m else m

/-- Extrinsic output: soft output less the LLR, saturated to six bits. -/
def extrinsic (llr : List Int) (c : Chase) : List Int :=
  (List.range 128).map fun j => clamp (-32) 31 (softOut llr c j - llr.getD j 0)

/-- CL after `iters` iterations (R139): the two smallest |LLR| in half units, and 4 for each iteration spent. -/
def clOf (llr : List Int) (iters : Nat) : Nat :=
  let l := (weakest llr).take 2
  (l.map fun i => (llr.getD i 0).natAbs).sum + 4 * iters

end Sys2Proof.Machine
end

