-- ==== Sys2Proof/Machine/Capstan.lean ====
section
/-! DEFINITION. Sys2Proof/Machine/Capstan.lean: the first-pass decoder (R116, R117) and Capstan (R130 to R154): admission,
the scheduler, iterations, the release, the wasted-slot trigger and the policy command. -/

namespace Sys2Proof.Machine

/-! ## First pass and admission (R116, R117, R130 to R132) -/

/-- Codewords in the candidate store. -/
def storeOcc (s : State) : Nat := (s.cap.cws.filter fun w => w.place.isSome).length

/-- The detector of line receiver n as it stands: its active table, MEM, σ² and, in stream B under slot lock, the mask.
Before Winch has estimated σ² its value is free. DESIGN CHOICE, log 36. -/
def detOf (s : State) (n : Nat) (streamB counted : Bool) (la : List Rat) : Det × State :=
  let sg := Bank.get s.lanes.winch.sigma2 n 0
  let (w, s) := s.free 12
  let sg := if sg ≤ 0 then ((w.toNat : Rat) + 1) / 2 ^ 16 else sg
  ({ mem2 := (s.rx n).memAct = 1, precode := s.flag F.LRX_EQ_CTRL_PRECODE n, refs := (s.eqActive n).refs,
     inv := 1 / (2 * sg), mask := if s.mode n = 3 && streamB && counted then streamBMask else 0, la := la }, s)

/-- The soft values of a window under a detector; each LLR between two steps goes either way. -/
def softValues (d : Det) (z : List Rat) (s : State) : List Int × State :=
  let (w, s) := s.free 13
  ((d.llrs z).zipIdx.map fun p => quantLlr (w.getLsbD (p.2 % 32)) p.1, s)

/-- Count the first-pass decoder's results (R117), and the lane's sums for VDM (R368) and TELEMETRY (R214). -/
def fpCount (n : Nat) (c : Chase) (cand : Bool) (s : State) : State :=
  let bits := ((List.range 128).filter fun j => c.h.getLsbD j != c.decision.getLsbD j).length
  let s := s.modCap fun p =>
    let i : Fin 9 := Fin.ofNat 9 n
    { p with fpCw := p.fpCw.set i (p.fpCw[i] + 1), fpBits := p.fpBits.set i (p.fpBits[i] + bits) }
  let s := (s.addSat F.LRX_FP_CW_COUNT 1 n).perf (0x10 + n)
  let s := if bits = 0 then s else (s.addSat F.LRX_FP_CORR_COUNT 1 n).perf (0x20 + n)
  let s := if cand then (s.addSat F.LRX_FP_CAND_COUNT 1 n).perf (0x30 + n) else s
  let s := if c.fail then (s.addSat F.LRX_FP_FAIL_COUNT 1 n).perf (0x40 + n) else s
  s.modLyd n fun l => { l with
    telCw := l.telCw + 1, telBits := l.telBits + bits, telCand := l.telCand + cand.toNat, telFail := l.telFail + c.fail.toNat }

/-- The entry of a first-pass result c in the reorder buffer: z and the log-likelihoods llr feed Capstan where it is admitted,
which adm says (R130, R136, R146, R147). -/
def fpCw (n : Line) (streamB : Bool) (pos : Nat) (t : Int) (z : List Rat) (llr : List Int) (c : Chase)
    (counted cand adm : Bool) (s : State) : CapCw :=
  { lane := n, streamB := streamB, pos := pos, tfp := t, deadline := t + s.capD, counted := counted, cand := cand,
    adm := adm, place := if adm then some .candidate else none, ready := if adm then none else some t,
    entry := s.cap.ringPos[Fin.ofNat 9 (ringLane s n)], ring := ringLane s n, z := if adm then z else [],
    le := if adm then extrinsic llr c else [], cl := clOf llr 0, trail := [c.decision],
    best := if c.fail then none else some (c.decision, c.rel) }

/-- A counted candidate is admitted to Capstan (R136). -/
def fpAdmitted (n : Line) (counted cand : Bool) (s : State) : Bool :=
  counted && cand && storeOcc s < 2048 && s.flag F.CAP_CTRL_EN && s.cap.maxIter ≠ 0 && bitsOf (s.cap.laneCfg[n]) 8 8 = 1

/-- The reorder buffer takes codeword w, whose result also enters the ring of its lane (R136, R147).
DEDUCED, log 39. -/
def fpStore (n : Line) (w : CapCw) (s : State) : State :=
  let ln : Fin 9 := Fin.ofNat 9 (ringLane s n)
  let s := s.modCap fun p => { p with cws := p.cws ++ [w], ringPos := p.ringPos.set ln ((p.ringPos[ln] + 1) % 2304) }
  let s := if w.counted && w.cand && !w.adm then s.perf (0x70 + n) else s
  let s := if s.get F.CAP_STORE_PEAK < storeOcc s then s.put F.CAP_STORE_PEAK (storeOcc s) else s
  ringWrite w true s

/-- The first-pass result c of a codeword of lane n is judged, counted, and enters the reorder buffer (R130, R132). -/
def fpEnter (n : Line) (streamB : Bool) (pos : Nat) (dt : Fin 64) (z : List Rat) (llr : List Int) (c : Chase)
    (counted : Bool) (s : State) : State :=
  let cand := c.fail || c.rel < s.get F.LRX_FP_CFG_REL_TH n
  let t := s.cap.now + Int.ofNat dt.val
  let shift : Int := if n.val = 8 && selSwitched s then 3 * s.lanes.prot.deltaS else 0
  let s := capSettle t s
  let s := if counted then fpCount n c cand s else s
  fpStore n (fpCw n streamB pos (t - shift) z llr c counted cand (fpAdmitted n counted cand s) s) s

/-- A first pass runs: CORE and the lane's receiver are on, the lane carries the stream, and the codeword is not yet
there. DEDUCED, log 27. -/
def fpTakes (n : Line) (streamB : Bool) (pos : Nat) (s : State) : Bool :=
  s.coreOn && s.powered (.lrx n) && (s.mode n = 3 || (s.mode n = 2 && !streamB))
    && !(s.cap.cws.any fun w => w.key = (n.val, streamB, pos))

/-- z of a codeword's 64 symbols and 16 on each side, as the MLSE sees it (R108, R207), from their codes with the 47
before: the first symbol stands `off` symbols after the oldest stage-1 output kept. -/
def fpWindow (n : Nat) (codes : List (BitVec 8)) (off : Nat) (s : State) : List Rat :=
  let est := (s.lydOf n).chain.est
  let r := cicRatio (s.mode n)
  (ffeRun (s.eqActive n).taps (codes.take 47).reverse (codes.drop 47)).zipIdx.map fun p => zLess est r (off + p.2) p.1

/-- A codeword's first pass ends, dt core cycles after the latest slice boundary, with the ADC codes of its window, and
with tie for what the decoder makes of ties. -/
def execFirstPassDecode (n : Line) (streamB : Bool) (pos : Nat) (dt : Fin 64) (w : CwWindow) (tie : Word)
    (s : State) : Host.Outcome State Fault Refusal :=
  if !fpTakes n streamB pos s then .next s
  else
    let z := fpWindow n w.codes w.off s
    let counted := s.flag F.LRX_FRAME_STAT_SLOT_LOCK n
    let (d, s) := detOf s n streamB counted []
    let (llr, s) := softValues d z s
    .next (fpEnter n streamB pos dt z llr (chase tie llr) counted s)

/-! ## The scheduler (R139 to R141, R150) -/

/-- Order of candidates: deadline, CL, lane, t_fp. DEDUCED, log 41. -/
def capBefore (a b : CapCw) : Bool :=
  if a.deadline ≠ b.deadline then a.deadline < b.deadline
  else if a.cl ≠ b.cl then a.cl < b.cl
  else if a.lane ≠ b.lane then a.lane < b.lane
  else a.tfp ≤ b.tfp

def capInsert (w : CapCw) (l : List CapCw) : List CapCw :=
  match l with
  | [] => [w]
  | v :: t => if capBefore v w then v :: capInsert w t else w :: v :: t

def capSort (l : List CapCw) : List CapCw := l.foldl (fun acc w => capInsert w acc) []

/-- The codeword in context k of engine e. -/
def inContext (s : State) (e k : Nat) : Option CapCw := s.cap.cws.find? fun w => w.place = some (.context e k)

/-- Contexts free for work: empty ones of awake engines of ENG_EN. -/
def freeContexts (s : State) : List (Nat × Nat) :=
  (s.cap.engines.filter fun e => s.cap.awake.contains e).flatMap fun e =>
    ((List.range 16).filter fun k => (inContext s e k).isNone).map fun k => (e, k)

/-- Guaranteed contexts of lane n. -/
def guarantee (s : State) (n : Nat) : Nat :=
  let cfg := fun (k : Nat) => s.cap.laneCfg[Fin.ofNat 9 k]
  let tot := max 256 (((List.range 9).filter fun k => bitsOf (cfg k) 8 8 = 1).map fun k => bitsOf (cfg k) 7 0).sum
  96 * bitsOf (cfg n) 7 0 / tot

/-- Phase 1: one context per lane in turn from lane p on, while a lane below its guarantee has a candidate. -/
def phase1 (s : State) (fuel p : Nat) (free : List (Nat × Nat)) (used : List Nat) (cands : List CapCw) :
    List (Nat × Nat) × List CapCw × List (CapCw × Nat × Nat) :=
  match fuel, free with
  | 0, _ | _, [] => (free, cands, [])
  | fuel + 1, f :: fs =>
    match ((List.range 9).map fun i => (p + i) % 9).find? fun n =>
        used.getD n 0 < guarantee s n && cands.any fun w => w.lane = n with
    | none => (free, cands, [])
    | some n =>
      match cands.find? fun w => w.lane = n with
      | none => (free, cands, [])
      | some w =>
        let r := phase1 s fuel (n + 1) fs (used.set n (used.getD n 0 + 1)) (cands.erase w)
        (r.1, r.2.1, (w, f) :: r.2.2)

/-- Candidates that may be given a context at time tb. -/
def eligible (s : State) (tb : Int) : List CapCw :=
  s.cap.cws.filter fun w => w.place = some .candidate && !w.released && !w.finished s.cap.maxIter tb

/-- Context k of engine e takes candidate w at time t. -/
def contextTake (e k : Nat) (t : Int) (w : CapCw) (s : State) : State :=
  capSet { w with place := some (.context e k), since := t } (s.modCap fun c => { c with used := e :: c.used })

/-- Place candidates at the boundary tb; the ones left are the slice order. -/
def schedule (tb : Int) (s : State) : State :=
  let free := freeContexts s
  let used := (List.range 9).map fun n => (s.cap.cws.filter fun w => w.lane = n && (match w.place with
    | some (.context _ _) => true
    | _ => false)).length
  let (free, rest, p1) := phase1 s free.length s.cap.pointer free used (capSort (eligible s tb))
  let given := p1 ++ rest.zip free
  let s := given.foldl (fun s g => contextTake g.2.1 g.2.2 tb g.1 s) s
  s.modCap fun c => { c with order := (rest.drop free.length).map CapCw.key, pointer := (c.pointer + 1) % 9 }

/-- A policy change takes effect: the registers' values are in force from now on; CAND_EN and SHARE among them. -/
def policyApply (s : State) : State :=
  s.modCap fun c => { c with
    ctrl := s.word R.CAP_CTRL, conv := s.word R.CAP_CONV, pwr := s.word R.CAP_PWR,
    laneCfg := Vector.ofFn fun (n : Fin 9) => s.word R.CAP_LANE_CFG n }

/-- A codeword at the boundary tb (R140, R141): at or past its deadline it leaves the candidate set or its context
unconverged; finished, it leaves the candidate set, or the context of an engine that has been removed; unfinished, it
returns from its context to the candidate set; finished, it waits there for the write-back queue. -/
def capStep (c : Cap) (tb : Int) (w : CapCw) : CapCw :=
  let out := fun (w : CapCw) => { w with place := none, ready := some (w.ready.getD tb) }
  match w.place with
  | some .candidate =>
    if w.deadline ≤ tb then out { w with converged := false } else if w.converged || c.maxIter ≤ w.iters then out w else w
  | some (.context e _) =>
    if w.deadline ≤ tb then out { w with converged := false }
    else if w.converged || c.maxIter ≤ w.iters then (if c.engines.contains e then w else out w)
    else if w.finished c.maxIter tb && c.engines.contains e then w
    else { w with place := some .candidate }
  | _ => w

/-- Every codeword takes its step at the boundary, and the ring entries of those that leave are written (R140, R147). -/
def capLeave (tb : Int) (s : State) : State :=
  let gone := fun (w : CapCw) => w.place.isSome && (capStep s.cap tb w).place.isNone
  let left := (s.cap.cws.filter gone).map (capStep s.cap tb)
  let s := left.foldl (fun s w => ringWrite w (!w.released) s) s
  s.modCap fun c => { c with cws := capSweep (c.cws.map (capStep c tb)) }

/-- The iterations that may be on their way as a slice ends: those of the unfinished codewords in contexts. -/
def capFlights (s : State) : List CapFlight :=
  s.cap.cws.filterMap fun w => match w.place with
    | some (.context e k) =>
      if w.converged || s.cap.maxIter ≤ w.iters || w.released then none else some ⟨e, k, w.key, w.since⟩
    | _ => none

/-- Wakes in progress advance by a boundary; woken engines begin to take contexts. -/
def wakeStep (s : State) : State :=
  s.modCap fun c => { c with
    awake := (List.range 6).filter fun e => c.engines.contains e && (c.awake.contains e || c.waking.contains (e, 1)),
    waking := (c.waking.filter fun w => 1 < w.2 && c.engines.contains w.1).map fun w => (w.1, w.2 - 1) }

/-- Engines idle for GATE_IDLE slices are gated, the highest first, down to MIN_AWAKE of them. -/
def gateStep (busy : List Nat) (s : State) : State :=
  let c := s.cap
  let idle := c.awake.map fun e => (e, if busy.contains e then 0 else Bank.get c.idle e 0 + 1)
  let lim := max 1 (bitsOf c.pwr 11 8)
  let awake := idle.reverse.foldl (fun l (p : Nat × Nat) => if lim ≤ p.2 && c.minAwake < l.length then l.erase p.1 else l) c.awake
  s.modCap fun c => { c with awake := awake, idle := idle.filter fun p => awake.contains p.1 }

/-- Candidates that found no context wake gated engines, one for each sixteen. -/
def wakeMore (s : State) : State :=
  let c := s.cap
  let gated := c.engines.filter fun e => !c.awake.contains e && !c.waking.any fun w => w.1 = e
  let up := gated.take ((c.order.length + 15) / 16)
  let s := s.modCap fun c => { c with waking := c.waking ++ up.map fun e => (e, 3) }
  (s.addSat F.CAP_WAKES_COUNT up.length).perf 0xE8 up.length

/-- Engines of which a context has been occupied in the slice that ends (R150). -/
def capBusy (s : State) : List Nat :=
  s.cap.engines.filter fun e => s.cap.used.contains e || s.cap.cws.any fun w => match w.place with
    | some (.context f _) => f = e
    | _ => false

/-- The slice that ends counts its slots that were starved-front and not yet counted, and at the boundary the policy
applies, engines sleep and wake, and candidates are scheduled (R137 to R142). DEDUCED, log 129. -/
def sliceTurn (s : State) : State :=
  let c := s.cap
  let busy := capBusy s
  let tb := c.now + 64
  let s := capSettle tb (capSlots 2 (128 * c.engines.length - c.issued - c.stuck - c.front) s)
  let s := s.modCap fun c => { c with now := tb, issued := 0, stuck := 0, front := 0, used := [], flight := capFlights s }
  let s := capLeave tb (policyApply s)
  wakeMore (schedule tb (wakeStep (gateStep busy s)))

/-- The commands that wait for the boundary complete with the release modes in use. -/
def sliceAnswer (s : State) : State :=
  let act := (List.range 9).map (fun n => s.get F.CAP_LANE_CFG_RELEASE_ACT n * 2 ^ n)
  let ids := s.cap.waiting
  let s := s.modCap fun c => { c with waiting := [] }
  eachOf ids (fun i s => match s.cmdById i with | some c => s.finish c .done act.sum | none => s) s

/-- A slice boundary, every 64 core cycles while CORE is on. -/
def execSliceBoundary (s : State) : Host.Outcome State Fault Refusal :=
  if s.coreOn then .next (sliceAnswer (sliceTurn s)) else .next s

/-! ## Iterations and write-back (R133, R134, R137, R138) -/

/-- One iteration of codeword w: its decision joins the trail, the best decision is kept, and its extrinsic values go on
(R133, R140). -/
def iterateCw (w : CapCw) (tie : Word) (s : State) : State :=
  let la := w.le.map fun (x : Int) => (3 * (x : Rat)) / 8
  let (d, s) := detOf s w.lane w.streamB w.counted la
  let (llr, s) := softValues d w.z s
  let c := chase tie llr
  let conv := !c.fail && bitsOf s.cap.conv 7 0 ≤ c.rel
  let best := if c.fail then w.best else match w.best with
    | some b => if b.2 < c.rel then some (c.decision, c.rel) else w.best
    | none => some (c.decision, c.rel)
  let s := s.modCap fun p => { p with issued := p.issued + 1 }
  capSet { w with
    trail := c.decision :: w.trail, best := best, converged := conv, le := extrinsic llr c,
    cl := clOf llr (w.iters + 1) } s

/-- The codeword whose iteration in context k of engine e ends dt core cycles after the boundary, when it was issued 8
cycles before, and when its context had taken it: within the first 8 cycles it was issued in the slice before. -/
def inFlight (s : State) (e k : Nat) (dt : Nat) : Option (CapCw × Int) :=
  if dt < 8 then
    match s.cap.flight.find? fun f => f.engine = e && f.slot = k with
    | none => none
    | some f => (s.cap.cws.find? fun w => w.key = f.key && w.place.isSome).map fun w => (w, f.since)
  else (inContext s e k).map fun w => (w, w.since)

/-- The iteration of context k of engine e ends dt core cycles after the boundary; tie as in the first pass. -/
def execCapstanIterationResult (e : Fin 6) (k : Fin 16) (dt : Fin 64) (tie : Word) (s : State) :
    Host.Outcome State Fault Refusal :=
  let t := s.cap.now + Int.ofNat dt.val
  match inFlight s e k dt with
  | none => .next s
  | some (w, since) =>
    if !s.coreOn || w.released || w.converged || t - 8 < since || (8 ≤ dt.val && w.finished s.cap.maxIter (t - 8))
        || w.deadline - (t - 8) < 10 then .next s
    else .next (iterateCw (if dt.val < 8 then w else { w with since := t }) tie
      (s.modCap fun c => { c with flight := c.flight.filter fun f => !(f.engine = e.val && f.slot = k.val && dt.val < 8) }))

/-- The head of the slice order that may still be issued at time t takes context k of engine e. -/
def takeNext (e k : Nat) (t : Int) (s : State) : State :=
  if !(s.cap.awake.contains e && s.cap.engines.contains e) then s
  else
    let ok := fun (key : Nat × Bool × Nat) => (eligible s t).find? fun w => w.key = key
    match s.cap.order.find? fun key => (ok key).isSome with
    | none => s
    | some key =>
      let s := s.modCap fun c => { c with order := c.order.erase key }
      match ok key with
      | none => s
      | some w => contextTake e k t w s

/-- The opportunity of an empty context at time t: it loads the next candidate, or, where there is none it may take, the
slot is starved-front (R137, R148). -/
def contextEmpty (e k : Nat) (t : Int) (s : State) : State :=
  let s' := takeNext e k t s
  if (inContext s' e k).isSome || !s.cap.engines.contains e then s'
  else capSlots 2 1 (s'.modCap fun c => { c with front := c.front + 1 })

/-- At its opportunity a context hands its finished codeword to the write-back queue, which takes it while it holds
fewer than 32 results, and loads the next candidate; else the slot is starved-back (R138). An empty context loads
(R137). -/
def execWritebackEntry (e : Fin 6) (k : Fin 16) (dt : Fin 64) (s : State) : Host.Outcome State Fault Refusal :=
  let t := s.cap.now + Int.ofNat dt.val
  let s := capSettle t s
  match inContext s e k with
  | none => .next (if s.coreOn then contextEmpty e k t s else s)
  | some w =>
    if !s.coreOn || !w.finished s.cap.maxIter t then .next s
    else if (s.cap.cws.filter fun v => v.place = some .writeback).length < 32 then
      let w := { w with place := some .writeback, ready := some (t + 2) }
      .next (takeNext e k t (ringWrite w (!w.released) (capSet w s)))
    else .next (capSlots 3 1 (s.modCap fun c => { c with stuck := c.stuck + 1 }))

/-! ## Release (R142, R143, R146, R148, R149) -/

/-- Retired iterations of a codeword released converged: the last, and those that changed a bit of the decision before
to its released value. -/
def retired (final : BitVec 128) (trail : List (BitVec 128)) : Nat :=
  match trail with
  | d :: p :: t =>
    (if (List.range 128).any fun j => d.getLsbD j != p.getLsbD j && d.getLsbD j = final.getLsbD j then 1 else 0)
      + retired final (p :: t)
  | _ => 0

/-- Retired iterations of a codeword at its release. -/
def CapCw.retired (w : CapCw) : Nat :=
  if !w.converged then 0
  else match w.trail with
    | _ :: p :: t => 1 + Machine.retired w.decision (p :: t)
    | _ => 0

/-- The iterations of a codeword that leaves the reorder buffer fall into their classes, ret of them retired (R148). -/
def iterCount (w : CapCw) (ret : Nat) (s : State) : State :=
  let n := w.lane
  let wst := w.iters - ret
  let s := (capCount n 6 wst (capCount n 5 ret s)).perf (0x50 + n) ret
  capSlots 1 wst (capSlots 0 ret (s.perf (0x60 + n) wst))

/-- Count a released codeword, candidates among them by how they ended, and deliver its record to Fathom.
DEDUCED, log 150. -/
def releaseCount (w : CapCw) (hold : Int) (s : State) : State :=
  if !w.counted then s
  else
    let n := w.lane
    let s := capCount n 0 1 s
    let s := if w.cand then capCount n 1 1 s else s
    let s := if w.outcome = 3 then capCount n 4 1 s else s
    let s := if w.outcome = 1 then capCount n 2 1 s else if w.outcome = 2 then capCount n 3 1 s else s
    let s := iterCount w w.retired s
    let pass := fun (f : Word) => f.getLsbD n && (bitsOf f 17 16 = 0 || bitsOf f 17 16 = 1 + w.streamB.toNat)
    let s := fathomOffer 6 pass (if w.outcome = 2 then 9 else if w.outcome = 3 then 10 else Int.ofNat w.iters) s
    fathomOffer 7 pass (clamp 0 1152 hold) s

/-- Lane n releases in low-latency mode. -/
def lowLatency (s : State) (n : Nat) : Bool := s.flag F.CAP_LANE_CFG_RELEASE_ACT n

/-- Release time of a codeword of lane n's stream after the previous one's (R142, R143). -/
def relTime (s : State) (n : Nat) (prev : Int) (w : CapCw) : Int :=
  if lowLatency s n then max (min (w.ready.getD w.deadline) w.deadline) prev else w.deadline

/-- In a media input loop-back of lane n its released decisions become its transmit input (R189). -/
def loopRelease (n : Nat) (streamB : Bool) (p : BitVec 128) (s : State) : State :=
  if s.laneLoop n = some 2 then
    s.modTx n fun t => if streamB then { t with loopB := t.loopB ++ [p] } else { t with loopA := t.loopA ++ [p] }
  else s

/-- Release codeword w in the stream of lane n. One that has not left Capstan by its deadline leaves unconverged
(R140). -/
def releaseCw (n : Nat) (w : CapCw) (rel : Int) (s : State) : State :=
  let w := match w.place with
    | some .writeback | none => w
    | _ => { w with converged := false }
  let s := portMove rel (ringWrite w false s)
  let s := releaseCount w (rel - w.tfp) s
  let s := s.modCap fun c => { c with
    lastRel := Bank.insert c.lastRel (2 * n + w.streamB.toNat) (w.pos, rel, w.decision.setWidth 120) }
  loopRelease n w.streamB ((w.decision.setWidth 120).setWidth 128) (capSet { w with released := true } s)

/-- Codewords of lane k's stream up to position pos are discarded: their iterations count as wasted, as they are never
released converged. DESIGN CHOICE, log 151. -/
def dropOwn (k : Nat) (streamB : Bool) (pos : Nat) (s : State) : State :=
  let old := fun (w : CapCw) => w.lane = k && w.streamB = streamB && w.pos ≤ pos && !w.released
  let s := (s.cap.cws.filter fun w => old w && w.counted).foldl (fun s w => iterCount w 0 s) s
  s.modCap fun c => { c with cws := capSweep (c.cws.map fun w => if old w then { w with released := true } else w) }

/-- The codeword of a stream of lane k at position pos that is not yet released. -/
def cwWaits (s : State) (k : Nat) (streamB : Bool) (pos : Nat) : Option CapCw :=
  s.cap.cws.find? fun w => w.lane = k && w.streamB = streamB && w.pos = pos && !w.released

/-- Where the stream's last release is kept. -/
def relKey (n : Line) (streamB : Bool) : Nat := 2 * n.val + streamB.toNat

/-- The lowest position that waits in a stream of lane k, beyond the position given. -/
def lowestWaiting (s : State) (k : Nat) (streamB : Bool) (beyond : Option Nat) : Option Nat :=
  ((s.cap.cws.filter fun w => w.lane = k && w.streamB = streamB && !w.released
      && (match beyond with | some p => p < w.pos | none => true)).map CapCw.pos).foldl
    (fun (a : Option Nat) p => match a with | none => some p | some q => some (min p q)) none

/-- Lane n takes its codewords from L8: it is the protected lane while SWITCHED. -/
def relSwitched (s : State) (n : Line) : Bool :=
  n.val ≠ 8 && selSwitched s && s.lanes.prot.lane = n.val

/-- The position that the stream releases next: the lowest that waits beyond its last; while SWITCHED, the slot after its
last. -/
def relPos (s : State) (n : Line) (streamB : Bool) : Option Nat :=
  match Bank.find s.cap.lastRel (relKey n streamB) with
  | some p => if relSwitched s n then some (p.1 + 1) else lowestWaiting s n streamB (some p.1)
  | none => (lowestWaiting s n streamB none).or (if relSwitched s n then lowestWaiting s 8 streamB none else none)

/-- The time of the stream's last release, or t before its first. -/
def relPrev (s : State) (n : Line) (streamB : Bool) (t : Int) : Int :=
  match Bank.find s.cap.lastRel (relKey n streamB) with
  | some p => p.2.1
  | none => t

/-- The slot at position pos gets no decision of L8: at its release time lane n's own stands in, or the previous payload
is repeated, and either counts in MISS (R146, R72). Without a decision of the lane's own the slot's time is a codeword
after the last. DESIGN CHOICE, log 152. -/
def releaseStandIn (n : Line) (streamB : Bool) (pos : Nat) (t : Int) (s : State) : State :=
  match cwWaits s n streamB pos with
  | some w =>
    let rel := max w.deadline (relPrev s n streamB t)
    if rel ≤ t then dropOwn 8 streamB pos (releaseCw n w rel (capCount 8 7 1 s)) else s
  | none =>
    let last := match Bank.find s.cap.lastRel (relKey n streamB) with
      | some p => p.2.2
      | none => 0
    let rel := relPrev s n streamB (t - 1) + 1
    if rel ≤ t then
      (capCount 8 7 1 s).modCap fun c => { c with lastRel := Bank.insert c.lastRel (relKey n streamB) (pos, rel, last) }
    else s

/-- A release of lane n while SWITCHED: L8's codeword on lane n's schedule, and lane n's own is discarded; without one, and
while the selection is on its way back, the stand-in (R146, R72). -/
def releaseL8 (n : Line) (streamB : Bool) (pos : Nat) (t : Int) (s : State) : State :=
  match (if s.lanes.prot.returning then none else cwWaits s 8 streamB pos) with
  | some w =>
    let rel := relTime s n (relPrev s n streamB t) w
    if rel ≤ t then dropOwn n streamB pos (releaseCw n w rel s) else s
  | none => releaseStandIn n streamB pos t s

/-- The next codeword of a stream of lane n leaves the reorder buffer, at time dt after the boundary or before it. While
SWITCHED, L8's codewords leave in lane n's streams alone. -/
def execCodewordRelease (n : Line) (streamB : Bool) (dt : Fin 64) (s : State) : Host.Outcome State Fault Refusal :=
  if !s.coreOn || (n.val = 8 && selSwitched s) then .next s
  else
    let t := s.cap.now + Int.ofNat dt.val
    let s := capSettle t s
    match relPos s n streamB with
    | none => .next s
    | some pos =>
      if relSwitched s n then .next (releaseL8 n streamB pos t s)
      else
        match cwWaits s n streamB pos with
        | none => .next s
        | some w => if relTime s n (relPrev s n streamB t) w ≤ t then
            .next (releaseCw n w (relTime s n (relPrev s n streamB t) w) s) else .next s

/-! ## Protection trigger (R151, R153) -/

/-- The slots of the protected lane in the window, retired and wasted. -/
def windowRetired (s : State) : Nat :=
  (Bank.get s.cap.lanes (8 * s.lanes.prot.lane + 5) 0 - s.lanes.prot.windowRet).toNat
def windowWasted (s : State) : Nat :=
  (Bank.get s.cap.lanes (8 * s.lanes.prot.lane + 6) 0 - s.lanes.prot.windowWst).toNat

/-- The waste of the window is beyond WASTE_TH/256, over at least MIN_SLOTS × 256 slots. -/
def wasteBeyond (s : State) : Bool :=
  let all := windowRetired s + windowWasted s
  s.get F.CAP_PROT_CFG_WASTE_TH * all < windowWasted s * 256 && s.get F.CAP_PROT_CFG_MIN_SLOTS * 256 ≤ all

/-- The waste ratio of the window is shown, and the next window begins. DESIGN CHOICE, log 43. -/
def wasteWindow (s : State) : State :=
  let n := s.lanes.prot.lane
  let dr := windowRetired s
  let dw := windowWasted s
  let beyond := wasteBeyond s
  let (ratio, s) := if dr + dw = 0 then let (w, s) := s.free 14; (Int.ofNat (w.toNat % 256), s)
    else s.freeRound 15 (Int.ofNat (dw * 256)) (Int.ofNat (dr + dw))
  let s := s.put F.CAP_PROT_STAT_RATIO (clamp 0 255 ratio).toNat
  s.modProt fun q => { q with
    windowLeft := max 1 (s.get F.CAP_PROT_CFG_WINDOW), windowRet := Bank.get s.cap.lanes (8 * n + 5) 0,
    windowWst := Bank.get s.cap.lanes (8 * n + 6) 0, windowOld := false, ratioReady := q.ratioReady || (!beyond && !q.windowOld) }

/-- A window of WINDOW RX AM periods of Ln has passed since the last one, or since arming; windows run on while SWITCHED. -/
def execWasteWindowEnd (s : State) : Host.Outcome State Fault Refusal :=
  let p := s.lanes.prot
  if (s.protState ≠ 2 && s.protState ≠ 3) || p.windowLeft ≠ 0 then .next s
  else if wasteBeyond s && p.ratioReady && p.onRatio then .next ((wasteWindow s).fire F.CAP_PROT_STAT_FIRED_WST 3)
  else .next (wasteWindow s)

/-! ## Registers and the policy command (R145, R148, R154) -/

/-- A line lane holds slot lock in L400 or L200, so that DEADLINE may not change (R145). -/
def deadlineHeld (s : State) : Bool :=
  (List.range 9).any fun n => s.flag F.LRX_FRAME_STAT_SLOT_LOCK n && 2 ≤ s.mode n

/-- A write of CAP_CTRL: DEADLINE is discarded and WR_REJ set while R145 forbids a change, and above 384 stores 384. -/
def capCtrlRegWrite (v : Word) (s : State) : State :=
  let old := s.get F.CAP_CTRL_DEADLINE
  let s := s.writePlain R.CAP_CTRL v
  if deadlineHeld s then (s.put F.CAP_CTRL_DEADLINE old).put F.CAP_STAT_WR_REJ 1
  else s.put F.CAP_CTRL_DEADLINE (min 384 (bitsOf v 24 16))

/-- A write of 1 to CAP_SNAP.TAKE copies every counter. -/
def capSnapWrite (v : Word) (s : State) : State :=
  if v.getLsbD 0 then
    let s := eachBelow 4 (fun c s =>
      let x := (s.cap.slots[Fin.ofNat 4 c]).toNat
      (s.setWord R.CAP_SLOT_LO (BitVec.ofNat 32 x) c).setWord R.CAP_SLOT_HI (BitVec.ofNat 32 (x / 2 ^ 32)) c) s
    let s := eachBelow 72 (fun i s =>
      let x := (Bank.get s.cap.lanes i 0).toNat
      (s.setWord R.CAP_LCNT_LO (BitVec.ofNat 32 x) (i / 8) (i % 8)).setWord R.CAP_LCNT_HI (BitVec.ofNat 32 (x / 2 ^ 32))
        (i / 8) (i % 8)) s
    s.incWrap F.CAP_SNAP_SEQ
  else s

/-- Bit b of word w of a message is 1. -/
def Cmd.on (c : Cmd) (w b : Nat) : Bool := c.bits w b b = 1

/-- CAPSTAN_SET_POLICY asks for a deadline over 384 or more than eight iterations. -/
def Cmd.capBad (c : Cmd) : Bool := c.on 4 9 && 384 < c.bits 4 8 0 || c.on 4 20 && 8 < c.bits 4 19 16

/-- Field f takes bits hi down to lo of word w where bit ap of it is 1. -/
def capTake (c : Cmd) (w ap hi lo : Nat) (f : Fld) (n : Nat) (s : State) : State :=
  if c.on w ap then s.put f (c.bits w hi lo) n else s

/-- The fields that CAPSTAN_SET_POLICY names take their values, in each lane of its mask and of the device, and its
command waits for the next slice boundary. -/
def capPolicySet (c : Cmd) (s : State) : State :=
  let s := eachOf (maskLanes 9 (c.bits 2 8 0)) (fun n s =>
    capTake c 3 25 24 24 F.CAP_LANE_CFG_CAND_EN n (capTake c 3 17 16 16 F.CAP_LANE_CFG_RELEASE n
      (capTake c 3 8 7 0 F.CAP_LANE_CFG_SHARE n s))) s
  let s := capTake c 4 9 8 0 F.CAP_CTRL_DEADLINE 0 (capTake c 4 20 19 16 F.CAP_CTRL_MAX_ITER 0 s)
  let s := capTake c 5 8 7 0 F.CAP_CONV_CONV_TH 0 (capTake c 5 19 18 16 F.CAP_PWR_MIN_AWAKE 0
    (capTake c 5 28 27 24 F.CAP_PWR_GATE_IDLE 0 s))
  let s := capTake c 6 8 7 0 F.CAP_PROT_CFG_WASTE_TH 0 (capTake c 6 24 23 16 F.CAP_PROT_CFG_WINDOW 0 s)
  let s := capTake c 7 10 9 0 F.CAP_PROT_FOM_FOM_TH 0 (capTake c 7 20 19 16 F.CAP_PROT_CFG_FOM_PERSIST 0 s)
  let s := capTake c 8 8 7 0 F.CAP_PROT_CFG_MIN_SLOTS 0 s
  (s.await c .slice).modCap fun p => { p with waiting := p.waiting ++ [c.id] }

/-- CAPSTAN_SET_POLICY. -/
def execCapstanSetPolicy (m : MBox) (s : State) : Host.Outcome State Fault Refusal :=
  .next (runCmd 0x27 m (fun c s =>
    if c.capBad then s.finish c .badLength
    else if c.on 4 9 && deadlineHeld s then s.finish c .conflict
    else if !s.coreOn then s.finish c .blockOff
    else capPolicySet c s) s)

/-! ## CORE (R375, R382) -/

/-- CORE powers up: an empty store, no valid ring entry, MIN_AWAKE engines awake, counts not yet snapshot zero, and
the Winch round at its start. DESIGN CHOICE, log 40. -/
def coreStart (s : State) : State :=
  let s := s.modCap fun c =>
    let c := { c with cws := [], order := [], lastRel := [], waking := [], idle := [], issued := 0, stuck := 0,
                      front := 0, flight := [], used := [], port := [],
                      slots := Vector.replicate 4 0, lanes := [] }
    { c with awake := c.engines.take c.minAwake }
  let s := policyApply s
  let s := eachBelow 9 (fun n s => eachBelow 2304 (fun i s =>
    let a := 0x81F0000F + n * 0x9000 + 16 * i
    if (s.byte a).getLsbD 7 then s.setByte a (s.byte a &&& 0x7F) else s) s) s
  s.modWinch fun w => { w with started := false, visiting := none }

/-- The codewords of a lane that is reset or loses its mode leave Capstan and the reorder buffer. DEDUCED, log 130. -/
def capDrop (n : Nat) (s : State) : State :=
  s.modCap fun c => { c with cws := c.cws.filter fun w => w.lane ≠ n, order := c.order.filter fun k => k.1 ≠ n,
                             lastRel := c.lastRel.filter fun r => r.1 / 2 ≠ n }

end Sys2Proof.Machine
end

