-- ==== Sys2Proof/Machine/Frames.lean ====
section
/-! DEFINITION. Sys2Proof/Machine/Frames.lean: changes of the crossbar (R42 to R46, R475), AM framing (R474, R54), what
happens at AM boundaries short of knots (R53 to R57), and the crossbar's commands (R73). -/

namespace Sys2Proof.Machine

/-! ## The check of a crossbar change (R44, R46) -/

/-- The map as it will stand with the changes given. -/
def mapWith (s : State) (ch : List (Nat × Word)) (n : Nat) : Word := (Bank.find ch n).getD (s.mapAhead n)

/-- A change would need a band calibration of a PLL that serves a LIVE partner (R46). -/
def bandHeld (s : State) (ch : List (Nat × Word)) : Bool :=
  ch.any fun c => cfgMode c.2 ≠ 0 && 2 ≤ (s.pll (c.1 / 2)).state && (s.pll (c.1 / 2)).band ≠ cfgMode c.2
    && (match partner c.1 with | none => false | some k => s.laneState k = 3)

/-- A set of changes to L0 to L7 is accepted. -/
def mapAccepts (s : State) (ch : List (Nat × Word)) : Bool := mapValid (mapWith s ch) && !bandHeld s ch

/-- A host lane that an intermediate map has left goes off once no change that waits names it. -/
def hostLeft (h : Nat) (s : State) : State :=
  if (s.hst h).held ≠ 0 && s.feeds h = none && !s.namedAhead h then (s.hostOff h).modHst h fun t => { t with held := 0 } else s

/-- A change is accepted and waits for its lane's TX AM boundary (R45). -/
def cfgPend (n : Nat) (w : Word) (s : State) : State :=
  eachBelow 16 hostLeft ((s.modTx n fun t => { t with pendCfg := w }).put F.LTX_LANE_STAT_PEND 1 n)

/-! ## A change takes effect (R45, R46, R475) -/

/-- Receiver k stands at the start values of R108 and R112 without framing, gain or timing, and acquires again. -/
def rxRestart (k : Nat) (s : State) : State :=
  let s := (s.winchSpoil k).rxLost k
  let s := (s.eqLoad k eqStart).put F.LRX_EQ_STAT_PEND 0 k
  ((s.put F.LRX_TIA_STAT_FROZEN 0 k).put F.LRX_TIA_STAT_ACQ_DONE 0 k).put F.LRX_TR_STAT_LOCK 0 k

/-- The host framing of the streams of lane k whose source has changed is lost: of both with the mode (R46, R474). -/
def sourcesChanged (k m0 : Nat) (old : List Nat) (s : State) : State :=
  let s := if s.mode k = m0 && (s.sources k)[0]? = old[0]? then s else s.txFramingLost k false
  if s.mode k = m0 && (s.sources k)[1]? = old[1]? then s else s.txFramingLost k true

/-- Line lane k has changed mode (from m0) or sources (from old): its output is held at zero until the new host framing
locks; a change of mode restarts the receiver. -/
def lineChanged (k m0 : Nat) (old : List Nat) (s : State) : State :=
  let s := sourcesChanged k m0 old s
  let s := s.squelch k true (s.tx k).sqPll
  if s.mode k = m0 then s
  else
    let s := rxRestart k s
    let s := (s.put F.LRX_LOS_STAT_LOL 0 k).modRx k fun t => { t with lolMode := true }
    let s := capDrop k (s.chainRestart k)
    if m0 = 0 then s.put F.WNC_FOM_VALID 0 k else s

/-- The lanes of PLL p run in two modes, between the two moments of a change of both (R321). -/
def pairSplit (s : State) (p : Nat) : Bool :=
  match ((pairLanes p).map s.mode).filter fun m => !(m = 0) with
  | [a, b] => a ≠ b
  | _ => false

/-- The TX PLL of a pair after a change of lane k: another mode needs a band calibration, which starts once the pair
agrees, and until then lane k holds differential zero (R321); a reference that feeds it no more is lost. -/
def pllChanged (k : Nat) (s : State) : State :=
  let p := k / 2
  let t := s.pll p
  if pairSplit s p then (if 2 ≤ t.state && t.band ≠ s.mode k then s.squelch k (s.tx k).sqFrame true else s)
  else if 2 ≤ t.state && s.pllBand p ≠ 0 && t.band ≠ s.pllBand p && t.state ≠ 2 then pllRecal p s
  else if t.state = 4 && !t.rxRef && s.pllFeeds p ≠ [] && !(s.pllFeeds p).contains t.ref then
    s.modPll p fun t => { t with state := 5, long := false }
  else s

/-- Host lane h has changed its mode from m0; one that stays in use acquires again (R475). -/
def hostChanged (h m0 : Nat) (s : State) : State :=
  let m := s.hostMode h
  if m = m0 then s
  else if m = 0 then s.hostOff h
  else if m0 = 0 then (s.put F.WNC_FOM_VALID 0 (9 + h)).hostLost h
  else
    let s := s.winchSpoil (9 + h)
    let s := (s.hostLost h).modHst h fun t => { t with cdr := false, lolHeld := true, visits := 0 }
    let s := (s.eqLoadHost h eqStartHost).put F.HST_RX_STAT_PEND 0 h
    ((s.put F.HST_LANE_STAT_LOL 0 h).put F.HST_RX_STAT_CTLE_ACT
      (if s.flag F.HST_RX_CTRL_CTLE_MAN h then s.get F.HST_RX_CTRL_CTLE_CODE h else 0) h).ctleStart h

/-- LTX_LANE_CFG of lane n becomes w, with everything that follows. -/
def cfgApply (n : Nat) (w : Word) (s : State) : State :=
  let hosts := (List.range 16).map s.hostMode
  let old := (List.range 9).map fun k => (s.mode k, s.sources k)
  let s := (s.setWord R.LTX_LANE_CFG w n).put F.LTX_LANE_STAT_PEND 0 n
  let s := if n < 8 then s.modLanes fun l => { l with order := n :: l.order.erase n } else s
  let s := eachBelow 9 (fun k s =>
    let o := old.getD k (0, [])
    if o = (s.mode k, s.sources k) then s else pllChanged k (lineChanged k o.1 o.2 s)) s
  let s := eachBelow 16 (fun h s =>
    hostChanged h (hosts.getD h 0) (s.modHst h fun t => { t with held := if s.feeds h = none then hosts.getD h 0 else 0 })) s
  (rsmRoles s).demand.refreshHosts

/-- A pending change of lane n takes effect. -/
def cfgTake (n : Nat) (s : State) : State :=
  if s.flag F.LTX_LANE_STAT_PEND n then (cfgApply n (s.tx n).pendCfg s).cfgDone n else s

/-- A write of LTX_LANE_CFG that reached the register (R44): on L8 a SHADOW_LANE above 7 is refused, writes of MODE are
ignored, and SRC_A and SRC_B are stored, which L8 does not use (R42). -/
def laneCfgWrite (n : Nat) (v : Word) (s : State) : State :=
  let old := withBits (s.mapAhead n) 15 8 (bitsOf v 15 8)
  if n = 8 then
    if 7 < bitsOf v 19 16 then s.put F.LTX_LANE_STAT_CFG_REJ 1 n else cfgPend n (withBits old 20 16 (bitsOf v 20 16)) s
  else
    let w := withBits old 2 0 (bitsOf v 2 0)
    if mapAccepts s [(n, w)] then cfgPend n w s else s.put F.LTX_LANE_STAT_CFG_REJ 1 n

/-! ## LANE_SET_MODE and LANE_MAP (R44, R73) -/

/-- The shared course of both commands, with the words asked for. -/
def laneMapCmd (c : Cmd) (ch : List (Nat × Word)) (s : State) : State :=
  if ch.any fun x => !s.laneOn x.1 then s.finish c .blockOff
  else if !mapAccepts s ch then s.finish c .conflict
  else if ch.isEmpty then s.finish c .done
  else (ch.foldl (fun s x => cfgPend x.1 x.2 s) s).await c (.laneCfg (ch.map Prod.fst))

/-- The configuration words that LANE_SET_MODE asks for: a new mode in each lane of its mask (R73). -/
def modeChanges (c : Cmd) (s : State) : List (Nat × Word) :=
  (maskLanes 8 (c.bits 2 7 0)).map fun n => (n, withBits (s.mapAhead n) 2 0 (c.bits 2 18 16))

/-- The configuration words that LANE_MAP asks for: mode and sources of each lane of its mask (R44). -/
def mapChanges (c : Cmd) (s : State) : List (Nat × Word) :=
  (maskLanes 8 (c.bits 2 7 0)).map fun n =>
    let e := c.word (3 + n)
    (n, withBits (withBits (s.mapAhead n) 15 8 (bitsOf e 15 8)) 2 0 (bitsOf e 2 0))

/-- LANE_SET_MODE. -/
def execLaneSetMode (m : MBox) (s : State) : Host.Outcome State Fault Refusal :=
  .next (runCmd 0x20 m (fun c s => laneMapCmd c (modeChanges c s) s) s)

/-- LANE_MAP. -/
def execLaneMap (m : MBox) (s : State) : Host.Outcome State Fault Refusal :=
  .next (runCmd 0x23 m (fun c s => laneMapCmd c (mapChanges c s) s) s)

/-! ## AM framing (R474) -/

/-- The stream of a framer can be framed now: it exists, and its receiver has signal and lock. In a host output loop-back
the stream bound for the host transmitter stands for the receiver's decisions (R170). -/
def framerRuns (s : State) (f : Framer) : Bool :=
  match f with
  | .ltx n b =>
    (if b then s.mode n = 3 else s.mode n ≠ 0) && (match (s.sources n)[b.toNat]? with
      | some h => if s.get F.HST_TEST_CTRL_LPBK h = 2 then s.hostTxFramed h else s.hostOk h
      | none => false)
  | .lrx n b =>
    (if b then s.mode n = 3 else s.mode n ≠ 0) && s.rxRuns n && !s.flag F.LRX_LOS_STAT_LOS n && !s.flag F.LRX_LOS_STAT_LOL n
      && (if s.mode n = 1 then s.flag F.LRX_TR_STAT_LOCK n && 4 ≤ (s.rx n).visits else s.flag F.LRX_FRAME_STAT_SLOT_LOCK n)
  | .hst h => s.hostRuns h && s.hostOk h && (s.hst h).search.isNone && 4 ≤ (s.hst h).visits

/-- The framer's search, and its lock. -/
def framerSearch (s : State) (f : Framer) : Search :=
  match f with
  | .ltx n b => if b then (s.tx n).b else (s.tx n).a
  | .lrx n b => if b then (s.rx n).b else (s.rx n).a
  | .hst h => (s.hst h).rx

def framerLock (s : State) (f : Framer) : Bool :=
  match f with
  | .ltx n b => s.txLock n b
  | .lrx n b => s.rxLock n b
  | .hst h => s.flag F.HST_LANE_STAT_FRAME_LOCK h

def setSearch (f : Framer) (x : Search) (s : State) : State :=
  match f with
  | .ltx n b => s.modTx n fun t => if b then { t with b := x } else { t with a := x }
  | .lrx n b => s.modRx n fun t => if b then { t with b := x } else { t with a := x }
  | .hst h => s.modHst h fun t => { t with rx := x }

/-- A stream of line transmitter n is framed: its buffer is centred (R74), the precoder starts anew (R77), and with the
framing of stream A, the lane's, slots and codewords are numbered from here (R47, R76). -/
def streamFramed (n : Nat) (b : Bool) (s : State) : State :=
  let s := s.put (if b then F.LTX_LANE_STAT_AMLOCK_B else F.LTX_LANE_STAT_AMLOCK_A) 1 n
  let s := (bufferCentre n b s).preClear n
  if b then s else s.modTx n fun t => { t with qa := [], qb := [], slotB := false, injA := 0, injB := 0 }

/-- Lock is acquired: on a line receiver's reference stream the TIA freezes (R100), boundaries drive the rotation (R105),
AUTO tracks (R120) and RELEASE takes effect (R145). -/
def framerLocked (f : Framer) (s : State) : State :=
  match f with
  | .ltx n b => streamFramed n b s
  | .lrx n true => s.put F.LRX_FRAME_STAT_AMLOCK_B 1 n
  | .lrx n false =>
    let s := (s.put F.LRX_FRAME_STAT_AMLOCK_A 1 n).put F.LRX_ADC_STAT_TIMER 0 n
    let s := if (s.rx n).manAct then s else s.put F.LRX_TIA_STAT_FROZEN 1 n
    let s := if s.mode n = 1 then s.put F.LRX_FRAME_STAT_SLOT_LOCK 1 n else s
    let s := s.put F.CAP_LANE_CFG_RELEASE_ACT (s.get F.CAP_LANE_CFG_RELEASE n) n
    (s.modRx n fun t => { t with first := true, sinceLock := 0 }).modWinch fun w => { w with track := Bank.put w.track n true false }
  | .hst h =>
    (s.put F.HST_LANE_STAT_FRAME_LOCK 1 h).modWinch fun w => { w with track := Bank.put w.track (9 + h) true false }

/-- A valid AM group of a stream is found; onPeriod: one AM period after the group before, and in lock at a position where
a group is due. A group elsewhere does not make up for the due one. -/
def execAmGroupArrival (f : Framer) (onPeriod : Bool) (s : State) : Host.Outcome State Fault Refusal :=
  if !framerRuns s f then .next s
  else if framerLock s f then .next (if onPeriod then setSearch f { framerSearch s f with missed := 0 } s else s)
  else if (framerSearch s f).found && onPeriod then .next (framerLocked f (setSearch f {} s))
  else .next (setSearch f { found := true } s)

/-- A due position passes without a valid group; the fourth in a row loses lock. -/
def execAmPositionMissed (f : Framer) (s : State) : Host.Outcome State Fault Refusal :=
  if !framerLock s f then .next s
  else if (framerSearch s f).missed < 3 then
    .next (setSearch f { framerSearch s f with missed := (framerSearch s f).missed + 1 } s)
  else match f with
    | .ltx n b => .next (s.txFramingLost n b)
    | .lrx n b => .next (s.rxFramingLost n b)
    | .hst h => .next ((setSearch f {} (s.put F.HST_LANE_STAT_FRAME_LOCK 0 h)).modWinch fun w =>
        { w with track := Bank.put w.track (9 + h) false false }).rsmCheck

/-! ## Boundaries -/

/-- Shaping, pattern, mapping, swing and calibration changes that wait on transmitter n (R82, R84, R96, R98). -/
def txChanges (n : Nat) (s : State) : State :=
  let shape := s.flag F.LTX_SHAPE_CTRL_PEND n
  let s := shapeCopy n s
  let s := if shape then shapingCopied n s else s
  txCalBoundary n (driverApply n ((patApply n s).patternDone n))

/-- The TX PLL carries lane n's mode: it is READY, and no band calibration is still to come (R93, R321). -/
def pllServes (s : State) (n : Nat) : Bool := (s.pll (n / 2)).ready && !pairSplit s (n / 2) && (s.pll (n / 2)).band = s.mode n

/-- The reasons to squelch lane n that hold no more end at a boundary (R74, R93, R476). -/
def squelchEnd (n : Nat) (s : State) : State :=
  s.squelch n ((s.tx n).sqFrame && !s.txAllFramed n) ((s.tx n).sqPll && !pllServes s n)

/-- The equaliser set, gain, MEM, sampling offset and calibration that wait on receiver n (R101, R109, R111, R112,
R126). -/
def rxChanges (n : Nat) (framed : Bool) (s : State) : State :=
  let s := (tiaBoundary n framed s).eqCopy n
  let s := s.modRx n fun t => { t with memAct := s.get F.LRX_EQ_CTRL_MEM n, phAct := s.get F.LRX_TR_CTRL_PH_OFFS n }
  (rxCalBoundary n s).eqDone n

/-- A TX AM boundary of lane n, but for knots: numbered, stamped, and every change bound to it applied; fillA and fillB
are the elastic buffers' fills, of which L8 has none. -/
def txBoundary (n : Line) (fillA fillB : Int) (s : State) : State :=
  let s := if n = 8 then s else bufferFill n false fillA s
  let s := if n ≠ 8 && s.mode n = 3 then bufferFill n true fillB s else s
  let s := (s.incWrap F.LTX_AM_SEQ_SEQ n).perf (0x90 + n)
  let st := s.stamp true n (s.get F.LTX_AM_SEQ_SEQ n) false
  let s := (s.queueStamp true st).modTx n fun t => { t with amLog := ((s.tim.raw, st) :: t.amLog).take 2 }
  olcBoundary n (txChanges n (cfgTake n (squelchEnd n s)))

/-- Half an AM period of lane n in ns (R52). -/
def halfPeriod (s : State) (n : Nat) : Nat := if s.mode n = 1 then 104857 else 52429

/-- Δ of R63, from the latest boundaries of L8 and of the lane it protects, which are the same AM where they lie within
half a period. DEDUCED, log 143. -/
def skewMeasure (s : State) : State :=
  let n := s.lanes.prot.lane
  match (s.rx 8).history.head?, (s.rx n).history.head? with
  | some a, some b =>
    let d := rawDiff a.1 b.1
    if 1 ≤ s.protState && s.protState ≤ 3 && d.natAbs ≤ halfPeriod s n then
      let s := (s.put F.LRX_PROT_SKEW_DELTA (unsigned 16 (clamp (-32768) 32767 d))).modProt fun p =>
        { p with measured := true, delta := d }
      let s := if s.protState = 2 && !s.skewOk then s.put F.LRX_PROT_STAT_SKEW_WARN 1 else s
      s.armCheck
    else s
  | _, _ => s

/-- An RX AM boundary of lane n, but for knots. -/
def rxBoundary (n : Nat) (s : State) : State :=
  let s := s.capSource n 1
  let k := if (s.rx n).first && !s.flag F.LRX_AM_SEQ_VALID n then 0 else s.get F.LRX_AM_SEQ_SEQ n + 1
  let s := ((s.put F.LRX_AM_SEQ_SEQ k n).perf (0x80 + n)).modRx n fun t => { t with first := false }
  let st := s.stamp false n (s.get F.LRX_AM_SEQ_SEQ n) (s.flag F.LRX_AM_SEQ_VALID n)
  let s := (s.queueStamp false st).modRx n fun t => { t with
    history := ((s.tim.raw, st) :: t.history).take 64, sinceLock := min 64 (t.sinceLock + 1) }
  let s := rxChanges n true (rotate n s)
  let p := s.lanes.prot
  let s := if 2 ≤ s.protState && s.protState ≤ 3 && p.lane = n then s.modProt fun p => { p with windowLeft := p.windowLeft - 1 } else s
  if n = 8 || p.lane = n then skewMeasure s else s

/-- The changes that wait on a unit without framing apply within 1 µs (R54). -/
def execPendingChangeNoFraming (u : LaneUnit) (s : State) : Host.Outcome State Fault Refusal :=
  match u with
  | .tx n =>
    if s.txFramed n then .next s
    else
      let s := txChanges n (cfgTake n (s.squelch n (s.tx n).sqFrame ((s.tx n).sqPll && !pllServes s n)))
      .next (if s.laneTrans n && s.laneTarget n = 4 && 2 ≤ s.laneState n && s.laneState n ≤ 3 then s.probeEnter n else s)
  | .rx n => if s.rxFramed n then .next s else .next (rxChanges n false s)
  | .hostRx h => if s.flag F.HST_LANE_STAT_FRAME_LOCK h then .next s else .next (hostRxApply h s)
  | .hostTx h => if s.hostTxFramed h then .next s else .next ((hostTxApply h s).releaseHost h false)

end Sys2Proof.Machine
end

