-- ==== Sys2Proof/Machine/Reset.lean ====
section
/-! DEFINITION. Sys2Proof/Machine/Reset.lean: finding a register by its address, LANE resets (R24, R304, R390), and POR
and AON resets (R10, R22, R389). -/

namespace Sys2Proof.Machine

/-! ## The register map (R25) -/

/-- Every register of the spec. -/
def regMap : List RegD :=
  table00 ++ table01 ++ table0203 ++ table04 ++ table05 ++ table06 ++ table07 ++ table08 ++ table09 ++ table11 ++ table12
    ++ table13 ++ table14 ++ table15 ++ table16 ++ table17

/-- The register at an address, with its two indices. -/
def findReg (a : Nat) : Option (RegD × Nat × Nat) :=
  regMap.findSome? fun r => (r.index? a).map fun i => (r, i.1, i.2)

/-- Return every register that pick names, by its reset domain and first index, to its reset value. -/
def State.resetRegs (s : State) (pick : RegD → Nat → Bool) : State :=
  { s with regs := s.regs.filter fun e => match findReg e.1 with
      | some (r, n, _) => !pick r n
      | none => true }

/-! ## LANE resets -/

/-- Commands that wait on line lane n complete with RESET_ABORT (R304). -/
def State.abortLine (s : State) (n : Nat) : State :=
  s.finishWhere (fun w => match w with
    | .laneCfg l | .shaping l | .pattern l | .eqPolicy l => l.contains n
    | .laneState _ l f _ => l.contains n || f.contains n
    | .capture k | .probe k | .lanyardSend k | .txadj k _ => k = n
    | .protect _ => n = 8
    | .knot k => s.get F.KNT_SLOT_INFO_KIND k = 1 && s.get F.KNT_SLOT_INFO_SET k / 2 ^ n % 2 = 1
        && s.get F.KNT_SLOT_LANES_APPLIED k / 2 ^ n % 2 = 0
    | _ => false) .resetAbort

/-- The optical side: OFF with CAUSE 0x4; all five channels ramp to zero without the token, and playback ends (row 10 of
R184, R177). -/
def State.olcReset (s : State) (n : Nat) : State :=
  let s := if s.laneTrans n then s.put F.OLC_STAT_RESULT Status.resetAbort.code n else s
  let s := ((s.probeExit n).dropStep (.ramp n)).modOlc n fun o => { faults := o.faults }
  let s := ((s.setLane n 0).put F.OLC_STAT_TRANS 0 n).put F.OLC_STAT_TARGET 0 n
  let s := ((s.put F.OLC_STAT_DEFER 0 n).put F.OLC_STAT_TOKEN_WAIT 0 n).put F.OLC_STAT_CAUSE 4 n
  let s := rangeStore n 1 ((s.put F.OLC_CH_OUT_RANGE_CHG 0 (5 * n)).modChan (5 * n) fun t => { t with rangeUp := false })
  eachBelow 5 (fun k s => (s.modChan (5 * n + k) fun t =>
    { t with target := 0, staged := 0, play := none, absTarget := none }).put F.OLC_CH_OUT_PLAYING 0 (5 * n + k)) s

/-- LANE reset of L8 while it protects Ln (R72): NOTIFY and event 0x79 go out, and the selection returns at Ln's next RX AM
boundary, or at once where it has no framing. -/
def State.spareReset (s : State) : State :=
  let s := s.abandon 7 true
  if s.protState = 3 then
    let n := s.lanes.prot.lane
    let s := (s.postBare 0x79 n).notify true (s.get F.LRX_AM_SEQ_SEQ n)
    let s := s.modProt fun p => { p with returning := true }
    if s.rxFramed n then s else s.l8Return
  else s

/-- LANE reset of line lane n. DEDUCED, log 26. -/
def laneReset (n : Nat) (s : State) : State :=
  let s := if n = 8 then s.spareReset else s
  let s := (s.abortLine n).olcReset n
  let s := cfgApply n (R.LTX_LANE_CFG.reset n 0) s
  let s := ((s.rxDown n).phyLost n).winchSpoil n
  let s := partnerClear n (capDrop n s)
  let s := s.resetRegs fun r k => (r.dom = .line && k = n) || (r.dom = .line8 && n = 8)
  let s := (s.modTx n fun t => { calBoot := t.calBoot, calKinds := t.calKinds, cal := t.cal }).modRx n fun t =>
    { calBoot := t.calBoot, calKinds := t.calKinds, cal := t.cal, adcCoef := t.adcCoef, adcBoot := t.adcBoot }
  let s := s.modLyd n fun _ => {}
  let s := (s.modWinch fun w => { w with fom := Bank.put w.fom n 0 0, sigma2 := Bank.put w.sigma2 n 0 0 }).put F.WNC_FOM_VALID 0 n
  let s := if n = 8 then s.modProt fun p => if p.returning then { lane := p.lane, returning := true, deltaS := p.deltaS } else {} else s
  s.demand.refreshHosts

/-- LANE reset of host lane h; the output holds squelch cause 1 until the reset ends, and then whatever cause holds. -/
def hostReset (h : Nat) (s : State) : State :=
  let s := s.finishWhere (fun w => match w with
    | .hostEq l => l.contains h || l.contains (16 + h)
    | _ => false) .resetAbort
  let s := s.hostDown h
  let s := s.resetRegs fun r k => r.dom = .host && k = h
  let s := s.modHst h fun _ => {}
  let s := (s.modWinch fun w => { w with fom := Bank.put w.fom (9 + h) 0 0, sigma2 := Bank.put w.sigma2 (9 + h) 0 0 }).put
    F.WNC_FOM_VALID 0 (9 + h)
  (rsmRoles s).refreshHost h

/-- LANE resets of the line and host lanes that a write of PWR_LANE_RST names (R390); a lane whose block is off has
nothing to reset. -/
def laneRstWrite (v : Word) (s : State) : State :=
  let s := eachBelow 9 (fun n s => if v.getLsbD n && s.laneOn n then laneReset n s else s) s
  eachBelow 16 (fun h s => if v.getLsbD (16 + h) && s.hostOn h then hostReset h s else s) s

/-! ## POR and AON resets -/

/-- MON_INc_CAL of the inputs that OTP calibrates returns to its value there (R355). -/
def otpCal (s : State) : State :=
  s.fw.otp.cal.foldl (fun s p =>
    if (18 ≤ p.1 && p.1 < 45) || (53 ≤ p.1 && p.1 < 64) then s.writePlain R.MON_IN_CAL p.2 p.1 else s) s

/-- A POR or AON reset begins (R22, R389): every register of its domains and all other state returns to its reset value.
OTP, flash and the pins stay; an AON reset keeps the registers of the POR domain. The
reset stays asserted until its release. DEDUCED, log 60. DEDUCED, log 110. DEDUCED, log 111. -/
def State.deviceReset (s : State) (por : Bool) (cause : Nat) : State :=
  let base : State := { State.reset with
    fw := { epoch := s.fw.epoch, serial := s.fw.serial, rom := s.fw.rom, otp := s.fw.otp, flash := s.fw.flash,
            boot := s.fw.boot, pwFlash := s.fw.pwFlash, cert := s.fw.cert }
    cmis := { modselHigh := s.cmis.modselHigh, lowPin := s.cmis.lowPin, rstLow := s.cmis.rstLow }
    pwr := { vin := s.pwr.vin, rcStart := s.pwr.rcStart && !por }
    bst := { ledger := s.bst.ledger, half := s.bst.half, ledgerSeq := s.bst.ledgerSeq, life := s.bst.lifeSaved,
             lifeSaved := s.bst.lifeSaved, lifeSeq := s.bst.lifeSeq, lifePos := s.bst.lifePos, lifeAge := 0 }
    fresh := s.fresh
    resp := s.resp
    pending := s.pending }
  let base := base.modGrant fun g => { g with tkIn := s.grant.tkIn, head := s.grant.head }
  let keep := if por then [] else s.regs.filter fun e => match findReg e.1 with
    | some (r, _, _) => r.dom = .por
    | none => false
  (otpCal { base with regs := keep }).put F.PWR_RST_CAUSE_CAUSE cause

end Sys2Proof.Machine
end

