-- ==== Sys2Proof/Machine/Firmware.lean ====
section
/-! DEFINITION. Sys2Proof/Machine/Firmware.lean: images and their checks, boot, the Rigger life cycle, downloads and
commits, the firmware commands, and the test port (R331 to R354). -/

namespace Sys2Proof.Machine

def State.modFw (s : State) (f : Fw → Fw) : State := { s with fw := f s.fw }
def State.modCmis (s : State) (f : Cmis → Cmis) : State := { s with cmis := f s.cmis }
def State.modPwr (s : State) (f : Pwr → Pwr) : State := { s with pwr := f s.pwr }
def State.modBst (s : State) (f : Bst → Bst) : State := { s with bst := f s.bst }

/-! ## Palmon images (R337 to R340) -/

/-- An image as it can be read, by offset from its start. -/
abbrev Image := Nat → Byte

def Image.bytes (r : Image) (o k : Nat) : List Byte := (List.range k).map fun i => r (o + i)
/-- Little-endian field of k bytes. -/
def Image.field (r : Image) (o k : Nat) : Nat := leVal (r.bytes o k)

/-- Header fields (R338). -/
def Image.type (r : Image) : Nat := r.field 6 1
def Image.keySlot (r : Image) : Nat := r.field 7 1
def Image.version (r : Image) : List Byte := r.bytes 8 4
def Image.svn (r : Image) : Nat := r.field 12 2
def Image.count (r : Image) : Nat := r.field 14 2
def Image.length (r : Image) : Nat := r.field 16 4
def Image.revokesLower (r : Image) : Bool := r.field 20 4 % 2 = 1
def Image.requires (r : Image) : Nat := r.field 24 4
def Image.target (r : Image) : Nat := r.field 28 4

/-- A section-table entry: type, load address, offset, length, and the hash of its data. -/
structure Section where
  type : Nat
  load : Nat
  offset : Nat
  len : Nat
  hash : BitVec 384
  deriving DecidableEq, Repr

/-- The section table: 1 to 32 entries (R338). -/
def Image.sections (r : Image) : List Section :=
  (List.range (min r.count 32)).map fun i =>
    let o := 128 + 64 * i
    { type := r.field o 1, load := r.field (o + 4) 4, offset := r.field (o + 8) 4, len := r.field (o + 12) 4,
      hash := BitVec.ofNat 384 (beVal (r.bytes (o + 16) 48)) }

/-- Hash of the header and the section table. -/
def Image.headHash (r : Image) : BitVec 384 := Config.sha384 (r.bytes 0 (128 + 64 * r.count))

/-- Data bytes of a section. -/
def Image.data (r : Image) (x : Section) : List Byte := r.bytes x.offset x.len

/-- Bytes of the area that an image type goes to (R337). -/
def areaSize : Nat → Nat | 1 => 0x600000 | 2 => 0x80000 | 3 => 0x30000 | _ => 0

/-- Section types that an image type allows (R339). -/
def sectionTypes : Nat → List Nat
  | 1 => [0x00, 0x01, 0x02, 0x03]
  | 2 => [0x00, 0x01, 0x02, 0x03, 0x10, 0x11, 0x12, 0x13]
  | 3 => [0x00, 0x20]
  | _ => []

/-- A section that loads into the Rigger region. -/
def Section.loads (x : Section) : Bool := 1 ≤ x.type && x.type ≤ 3

/-- The load ranges lie inside their window and do not overlap (check 7). -/
def loadsOk (r : Image) : Bool :=
  let l := r.sections.filter Section.loads
  let lo := if r.type = 2 then 0x80500000 else 0x80000000
  let hi := if r.type = 2 then 0x80600000 else 0x80500000
  l.all (fun x => lo ≤ x.load && x.load + x.len ≤ hi)
    && decide (l.Pairwise fun a b => a.load + a.len ≤ b.load ∨ b.load + b.len ≤ a.load)

/-- The hash of the key in slot k for an image type, if that slot is programmed and not revoked. -/
def Otp.keyHash (o : Otp) (type k : Nat) : Option (BitVec 384) :=
  if type = 2 then (if k < 2 && o.makerSet.getLsbD k then some o.maker[Fin.ofNat 2 k] else none)
  else if k < 4 && o.vendorSet.getLsbD k && !o.revoked.getLsbD k then some o.vendor[Fin.ofNat 4 k]
  else none

/-- The anti-rollback counter for an image type. -/
def Otp.counter (o : Otp) : Nat → Nat | 1 => o.rigger | 2 => o.pers | 3 => o.patch | _ => 0

/-- The checks of R340 on an image read for an area of the type given; rigMajor is the major version of the Rigger
image that will run with a personality. The code of the first check that fails, none if all pass. DEDUCED, log 87. -/
def imageFail (s : State) (r : Image) (type rigMajor : Nat) : Option Nat :=
  let keys := r.sections.filter fun x => x.type = 0
  let pub := match keys with | [x] => r.bytes x.offset 97 | _ => []
  let req := r.requires
  if !(r.field 0 4 = 0x4D4C4150 && r.field 4 2 = 1 && r.type = type && 1 ≤ r.count && r.count ≤ 32
      && 224 + 64 * r.count ≤ r.length && r.length ≤ areaSize type) then some 1
  else if !(r.target / 65536 = 0x3208 && r.target / 2 % 2 = 1) then some 2
  else if !(keys.length = 1 && s.fw.otp.keyHash type r.keySlot = some (Config.sha384 pub)) then some 3
  else if !Config.ecdsaVerify pub r.headHash (r.bytes (128 + 64 * r.count) 96) then some 4
  else if r.svn < s.fw.otp.counter type then some 5
  else if (type = 1 && s.fw.rom.toNat % 65536 < req % 65536)
      || (type = 2 && !(req % 256 ≤ rigMajor && rigMajor ≤ req / 256 % 256)) then some 6
  else if !(r.sections.all (fun x => (sectionTypes type).contains x.type) && loadsOk r) then some 7
  else if !(r.sections.all fun x => x.type = 0 || x.type = 3 || Config.sha384 (r.data x) = x.hash) then some 8
  else none

/-- The image in flash at offset o, and the one in firmware staging. -/
def State.flashImage (s : State) (o : Nat) : Image := fun i => s.flashByte (o + i)
def State.stagedImage (s : State) : Image := fun i => s.byte (0x80600000 + i)

/-- Major version of the image of a Rigger slot. -/
def State.slotMajor (s : State) (b : Bool) : Nat := (s.flashByte (slotBase b + 8)).toNat

/-- R340 for a Rigger slot, and for a personality area with the Rigger slot that runs. -/
def slotFail (s : State) (b : Bool) : Option Nat := imageFail s (s.flashImage (slotBase b)) 1 0
def persFail (s : State) (staged b : Bool) : Option Nat :=
  imageFail s (s.flashImage (persBase staged)) 2 (s.slotMajor b)

/-- Record the code of a failed check. -/
def State.noteFail (s : State) (f : Option Nat) : State :=
  match f with | some c => s.put F.TOP_BOOT_STAT_FAIL c | none => s

/-- Load CODE, DATA and ZERO of an image into SRAM. -/
def loadImage (r : Image) (s : State) : State :=
  r.sections.foldl (fun s x =>
    if !x.loads then s
    else s.setBytes x.load (if x.type = 3 then List.replicate x.len 0 else r.data x)) s

/-- Data of the section of a type, empty if there is none. -/
def Image.part (r : Image) (t : Nat) : List Byte :=
  match r.sections.find? fun x => x.type = t with | some x => r.data x | none => []

/-- What a personality declares. -/
def Image.decl (r : Image) : PersDecl := Config.persDecl (r.part 0x11) (r.part 0x12) (r.part 0x13)

/-- Write bytes to flash. -/
def State.flashWrite (s : State) (o : Nat) (bs : List Byte) : State :=
  s.modFw fun f => { f with flash := bs.zipIdx.foldl (fun m p => Bank.put m (o + p.2) p.1 0xFF) f.flash }

/-! ## Boot (R341 to R344) -/

/-- The boot record in force: the valid copy with the higher sequence number (R337). -/
def Fw.record (f : Fw) : Option BootRec :=
  let a := f.boot[0]
  let b := f.boot[1]
  if a.ok && (!b.ok || b.seq ≤ a.seq) then some a else if b.ok then some b else none

/-- The committed slot (true: B); A while no record is valid. -/
def Fw.committed (f : Fw) : Bool := match f.record with | some r => r.slotB | none => false

/-- Set or clear boot status bit b of TOP_BOOT_STAT.BOOT (R283). -/
def State.bootBit (s : State) (b : Nat) (v : Bool) : State :=
  s.put F.TOP_BOOT_STAT_BOOT (bitsOf (withBits (BitVec.ofNat 32 (s.get F.TOP_BOOT_STAT_BOOT)) b b v.toNat) 7 0)

/-- A page-retirement record of the repair ledger (R409): entry and page address. -/
def ledgerPage (r : List Byte) : Option (Nat × Nat) :=
  if r.headD 0 = 3 then some (leVal ((r.drop 2).take 2), leVal ((r.drop 4).take 4)) else none

/-- The retire map that the ledger gives, by entry. -/
def Bst.retired (b : Bst) : List Nat := (b.ledger.filterMap ledgerPage).map fun p => p.2 / 0x1000

/-- The slot that boots: the committed one, or else the other where only that one passes (R342). -/
def State.bootSlot (s : State) : Bool :=
  let c := s.fw.committed
  if (slotFail s c).isSome && (slotFail s (!c)).isNone then !c else c

/-- A personality takes effect at boot: laser limits, policy and declarations (R334, R343). It is checked against the
Rigger image that will run with it (R340). -/
def persBoot (s : State) : State :=
  let f := persFail s false s.bootSlot
  if f.isSome then s.noteFail f
  else
    let r := s.flashImage (persBase false)
    let d := r.decl
    let lim := r.part 0x10
    let w := fun i => BitVec.ofNat 32 (leVal ((lim.drop (4 * i)).take 4))
    let s := (eachBelow 9 (fun n s => s.writePlain R.OLC_SAFE_LIM (w n) n) s).writePlain R.OLC_SAFE_GLB (w 9)
    let s := s.modMbx fun x => { x with policyBits := d.policyBits, changedBy := d.changedBy, policy := d.policy }
    let s := d.quotas.foldl (fun s q => s.put F.MBX_QUOTA_QUOTA q.2 q.1) s
    s.modFw fun f => { f with persLoaded := true, opcodes := d.opcodes, l8 := d.l8, media := d.media, password := d.password }

/-- A spare row or column of the fault's bank is free: 8 rows and 4 columns a bank. -/
def spareFree (b : Bst) (f : SramFault) : Bool :=
  let (r, c) := Bank.get b.spares f.bank (0, 0)
  if f.row then r < 8 else c < 4

/-- The record of a repair (R409). CRC-32 over its first twelve bytes. -/
def ledgerRecord (s : State) (kind bank index page : Nat) : List Byte :=
  let b := leBytes 1 kind ++ leBytes 1 bank ++ leBytes 2 index ++ leBytes 4 page ++ leBytes 2 s.fw.epoch.toNat ++ leBytes 2 0
  b ++ leBytes 4 (crc32 b)

/-- Flash offset of half h of the repair ledger. -/
def ledgerBase (h : Nat) : Nat := 0xE40000 + h % 2 * 0x20000

/-- Append a record to the current half. -/
def State.ledgerAppend (s : State) (r : List Byte) : State :=
  let s := s.flashWrite (ledgerBase s.bst.half + 16 * s.bst.ledger.length) r
  s.modBst fun b => { b with ledger := b.ledger ++ [r], ledgerSeq := b.ledgerSeq + 1 }

/-- At boot a half that is 90 % full gives way to the other, which takes the valid records (R409). -/
def ledgerTurn (s : State) : State :=
  if s.bst.ledger.length * 10 < 8192 * 9 then s
  else
    let h := (s.bst.half + 1) % 2
    let s := s.flashWrite (ledgerBase h) s.bst.ledger.flatten
    let s := s.flashWrite (ledgerBase s.bst.half) (List.replicate 0x20000 0xFF)
    s.modBst fun b => { b with half := h }

/-- Address of the page in which an SRAM fault lies. -/
def faultPage (f : SramFault) : Nat := 0x80000000 + f.page * 0x1000

/-- An SRAM fault found at start-up is repaired with a spare row or column, or else its page is retired (R403); true where
one of them covers it. DESIGN CHOICE, log 108. -/
def repairSram (f : SramFault) (s : State) : Bool × State :=
  if spareFree s.bst f then
    let (r, c) := Bank.get s.bst.spares f.bank (0, 0)
    let now := if f.row then (r + 1, c) else (r, c + 1)
    let s := s.modBst fun b => { b with spares := Bank.put b.spares f.bank now (0, 0) }
    let s := s.ledgerAppend (ledgerRecord s (if f.row then 1 else 2) f.bank f.index.toNat 0)
    (true, if (f.row && now.1 = 7) || (!f.row && now.2 = 4) then s.post 0x92 0xF f.bank else s)
  else if s.bst.retired.contains (faultPage f / 0x1000) then (true, s)
  else if s.bst.retired.length < 64 then
    (true, s.ledgerAppend (ledgerRecord s 3 f.bank s.bst.retired.length (faultPage f)))
  else (false, s)

/-- SRAM faults are repaired one after the other; how many have been. -/
def repairAll (l : List SramFault) (s : State) : Nat × State :=
  l.foldl (fun (acc : Nat × State) f => let (ok, s) := repairSram f acc.2; (acc.1 + ok.toNat, s)) (0, s)

/-- No boot record is valid, or a record of the ledger fails its CRC (bit 19 of R401). -/
def flashBad (s : State) : Bool :=
  !(s.fw.boot[0].ok || s.fw.boot[1].ok) || s.bst.ledger.any fun r => leVal ((r.drop 12).take 4) ≠ crc32 (r.take 12)

/-- The fail vector of the start-up tests: what no spare or retired page covers (R401, R403). DEDUCED, log 180. -/
def startupFail (t : SelfTest) (sramOk : Bool) (s : State) : Nat :=
  (t.blocks.toNat % 2 ^ 21 / 2 ^ 17 ||| (if flashBad s then 4 else 0)) * 2 ^ 17
    + (if t.lanes.isEmpty then 0 else 2 ^ 16) + (if t.engines.isEmpty then 0 else 2 ^ 15)
    + (if t.cleatRam then 2 ^ 14 else 0) + (if sramOk then 0 else 2 ^ 13)

/-- What the start-up test of R402 leaves: SRAM repairs, and elements held out in native mode (R403); in YD1608-compatible
mode nothing is repaired, and any failure holds the device in the safe state (R404), as an uncovered Cleat RAM fault
always does. -/
def startupTest (t : SelfTest) (s : State) : State :=
  let compat := s.fw.otp.compat
  let (k, s) := if compat then (0, s) else repairAll t.sram s
  let fail := startupFail t (k = t.sram.length) s
  let s := ((s.put F.BST_FAIL_FAIL fail).bootBit 3 compat).bootBit 4 (fail ≠ 0)
  let safe := t.cleatRam || (compat && fail ≠ 0)
  let s := s.modBst fun b => { b with
    safe := safe, noRigger := safe && (t.cleatRam || t.sram.any fun f => f.bank.val < 12) }
  if compat then s
  else
    let s := s.bootBit 5 (k ≠ 0)
    let s := s.modBst fun b => { b with engOut := t.engines.map Fin.val, laneOut := t.lanes.map Fin.val }
    let s := t.engines.foldl (fun s e => s.put F.CAP_PWR_ENG_EN
      (bitsOf (withBits (BitVec.ofNat 32 (s.get F.CAP_PWR_ENG_EN)) e e 0) 5 0)) s
    t.lanes.foldl (fun s n => s.put F.PWR_BLK_EN_LANE
      (bitsOf (withBits (BitVec.ofNat 32 (s.get F.PWR_BLK_EN_LANE)) n n 0) 8 0)) s

/-- The records of the start-up tests (R407): outcome by block, the time taken (a free value), and for the SRAM the
faults found, spares used and spares left. DESIGN CHOICE, log 109. -/
def startupRecs (t : SelfTest) (s : State) : State :=
  let fail := s.get F.BST_FAIL_FAIL
  let used := (s.bst.spares.map fun p => p.2.1 + p.2.2).sum
  [13, 14, 15, 16, 17, 18, 19, 20].foldl (fun s b =>
    let (us, s) := s.free 18
    let found := if b = 13 then t.sram.length else if b = 15 then t.engines.length else if b = 16 then t.lanes.length else 0
    let bad := fail / 2 ^ b % 2 = 1 || (b ≠ 13 && found ≠ 0)
    let r : BstRec := {
      outcome := if bad then 3 else if found ≠ 0 then 2 else 1, us := us.toNat % 65536, m0 := BitVec.ofNat 32 found,
      m1 := BitVec.ofNat 32 (if b = 13 then used else 0), m2 := BitVec.ofNat 32 (if b = 13 then 64 * 12 - used else 0) }
    s.modBst fun x => { x with recs := x.recs.set (Fin.ofNat 22 b) r }) s

/-- Cleat's first events after the release: the epoch counts, the management clock runs, HOSTBUS is sampled, the
reference of the monitor ADC is enabled (R358), and the patch is checked and applied. -/
def cleatFirst (scl sda : Bool) (s : State) : State :=
  let s := (s.put F.MON_ADC_CTRL_REF_EN 1).modMon fun m => { m with bootSeq := true }
  let s := (s.modPwr fun p => { p with held := false }).modFw fun f => { f with epoch := f.epoch + 1 }
  let s := ((s.lifeAdd 3).put F.PWR_CLK_STAT_MGMT_LOCK 1).putB F.PWR_CLK_STAT_AON_SRC s.pwr.rcStart
  let s := s.modTim fun x => { x with running := true }
  let s := if s.pwr.rcStart then
      ((s.put F.PWR_STATE_REF_LOST 1).put F.TIM_STAT_CLKSRC 1).invalidate.postBare 0x0D else s
  let s := (s.putB F.HWS_GANG_STAT_HOSTBUS (scl && sda)).putB F.HWS_GANG_STAT_LEADER (scl && sda)
  let pf := imageFail s (s.flashImage 0x10000) 3 0
  (s.noteFail pf).modFw fun f => { f with patchApplied := pf.isNone }

/-- Cleat's self-test, the retire map and the zero fill of SRAM (R22, R399). -/
def cleatTest (t : SelfTest) (s : State) : State :=
  let s := startupRecs t (startupTest t (ledgerTurn s))
  { s with sram := [], ecc := { retired := s.bst.retired } }

/-- The personality is loaded, the password taken, and lane 8 enabled where it is declared and passed its test. -/
def cleatLast (s : State) : State :=
  let s := persBoot s
  let s := s.modFw fun f => { f with password := f.pwFlash.getD (if f.persLoaded then f.password else f.otp.password) }
  if s.fw.l8 && !s.bst.laneOut.contains 8 then s.put F.PWR_BLK_EN_LANE (s.get F.PWR_BLK_EN_LANE % 256 + 256) else s

/-- POR_RELEASE: the reset is released, its epoch counts (R22), and Cleat boots (events 1 to 5 of R341): HOSTBUS (R423), patch, self-test, retire
map and zero-fill (R22, R399), personality. -/
def execPorRelease (scl sda : Bool) (t : SelfTest) (s : State) : Host.Outcome State Fault Refusal :=
  if !s.pwr.held || !s.pwr.vin then .next s
  else .next (cleatLast (cleatTest t (cleatFirst scl sda s)))

/-- CMIS_DEFAULTS takes effect: the source of the module temperature, the bytes of page 02h, and from them the windows,
which evaluate and interrupt from then on (R265, R343, R362). Page 02h holds high alarm, low alarm, high warning and low
warning of each monitor, as CMIS 5.3 places them. DEDUCED, log 169. -/
def cmisDefaults (d : PersDecl) (s : State) : State :=
  let src := if 45 ≤ d.tempSource && d.tempSource ≤ 52 then d.tempSource else 0
  let s := (s.modFw fun f => { f with tempInput := src }).modCmis fun c =>
    { c with bytes := d.thresholds.foldl (fun m p => Bank.put m (0x200 + p.1 % 256) p.2 0) c.bytes }
  let th := fun (o : Nat) => (Bank.get s.cmis.bytes (0x200 + o) 0).toNat * 256 + (Bank.get s.cmis.bytes (0x201 + o) 0).toNat
  let win := fun (o : Nat) (s : State) (w : Nat) =>
    (((s.setWord R.MON_WIN_HI (BitVec.ofNat 32 (th o * 65536 + th (o + 4))) w).setWord R.MON_WIN_LO
      (BitVec.ofNat 32 (th (o + 2) * 65536 + th (o + 6))) w).put F.MON_WIN_CFG_EN 1 w).put F.MON_WIN_CFG_IRQ_EN 1 w
  let s := (if src = 0 then [53, 54, 55, 56, 57, 58] else [src]).foldl (win 128) s
  let s := [59].foldl (win 136) s
  let s := (List.range' 0 9).foldl (win 176) s
  let s := (List.range' 18 9).foldl (win 184) s
  (List.range' 9 9).foldl (win 192) s

/-- Rigger starts from slot b: its image and the personality's code are loaded (R343), the latter where the personality
passes its checks with that slot's image (R340). -/
def startSlot (b : Bool) (s : State) : State :=
  let s := loadImage (s.flashImage (slotBase b)) s
  let staged := s.fw.stagedRuns && (persFail s true b).isNone
  let s := s.modFw fun f => { f with slotB := b, released := true, stagedRuns := staged }
  let s := if staged || (s.fw.persLoaded && (persFail s false b).isNone) then
      let r := s.flashImage (persBase staged)
      let s := loadImage r s
      cmisDefaults r.decl s
    else if s.fw.persLoaded then s.noteFail (persFail s false b)
    else s
  s.bootBit 1 b

/-- RIGGER_RELEASE: the committed slot, or else the other one, is checked and released (R341, R342). -/
def execRiggerRelease (s : State) : Host.Outcome State Fault Refusal :=
  if s.pwr.held || s.fw.released || s.flag F.TOP_BOOT_STAT_HELD || s.bst.noRigger then .next s
  else
    let c := s.fw.committed
    let f := slotFail s c
    let t := s.noteFail f
    if f.isNone then .next ((startSlot c s).bootBit 0 true)
    else if (slotFail t (!c)).isNone then .next (((startSlot (!c) t).bootBit 0 true).bootBit 2 true)
    else .next ((t.noteFail (slotFail t (!c))).bootBit 7 true)

/-! ## Rigger restarts (R346, R347) -/

/-- Slot b has suffered three restarts with causes 0x03 to 0x05 within 600 s of RAW (R347). -/
def slotTired (s : State) (b : Bool) : Bool :=
  let l := (s.fw.faults.filter fun f => f.1 = b).map Prod.snd
  (l.zip (l.drop 2)).any fun p => (p.2 - p.1).toNat ≤ 600000000000

/-- Note a restart cause of 0x03 to 0x05 in the tally. -/
def tally (cause : Nat) (b : Bool) (s : State) : State :=
  if 3 ≤ cause && cause ≤ 5 then s.modFw fun f => { f with faults := f.faults ++ [(b, s.tim.raw)] } else s

/-- Latch a flag bit of the CMIS map: bank, page and byte, bit b. -/
def State.latchFlag (s : State) (bank page off b : Nat) : State :=
  let k := bank * 65536 + page * 256 + off
  s.modCmis fun c => { c with flags := Bank.put c.flags k (Bank.get c.flags k 0 ||| BitVec.ofNat 8 (2 ^ b)) 0 }

/-- ModuleFirmwareFault latches (R266). -/
def State.firmwareFault (s : State) : State := s.latchFlag 0 0 8 1

/-- Rigger halts: RUNNING and the watchdog stop (event 2 of R346), and so does an agreement before its final point
(R224), whose command ends with the restart. -/
def State.riggerHalt (s : State) : State :=
  ((s.put F.MBX_ENG_STAT_RUNNING 0).modFw fun f => { f with running := false, wdog := false }).agreeHalt

/-- Cleat holds Rigger stopped (R347). -/
def State.holdRigger (s : State) : State :=
  (s.riggerHalt.put F.TOP_BOOT_STAT_HELD 1).modFw fun f => { f with released := false, restart := none }

/-- A CDB command ends: its status, the vendor byte, and CdbCmdCompleteFlag. -/
def State.cdbDone (s : State) (st : CdbStatus) (vendor : Nat := 0) (reply : List Byte := []) : State :=
  (s.modCmis fun c => { c with cdb := { busy := none, status := st, vendor := vendor, reply := reply } }).latchFlag 0 0 8 6

/-- Every outstanding command but the restart's own completes with RESET_ABORT and the restart count, and an interrupted
CDB command fails (R346). -/
def restartAborts (r : Restart) (s : State) : State :=
  let lost := s.mbx.outstanding.filter fun c => r.cmd ≠ some c.id
  let s := lost.foldl (fun s c => s.finish c .resetAbort s.fw.restarts.toNat) s
  if s.cmis.cdb.busy.isSome && !r.run && s.fw.write.isNone then s.cdbDone .aborted else s

/-- The restart r found no image: its commands fail and Rigger is held. -/
def restartHolds (r : Restart) (s : State) : State :=
  let s := if r.run && s.cmis.cdb.busy.isSome then s.cdbDone .failed else s
  let s := match r.cmd.bind s.cmdById with | some c => s.finish c .internalFault | none => s
  s.holdRigger

/-- A restart closes an open download, and CdbStatus reports it aborted, but where a Run under way keeps the status
(R350). -/
def downloadLost (run : Bool) (s : State) : State :=
  if s.fw.download.isSome then
    let s := s.modFw fun f => { f with download := none }
    if run then s else s.cdbDone .aborted
  else s

/-- The restart r begins (events 1 and 2 of R346): the slot that it leaves counts a faulty cause, and one that falls back
starts a tally of its own (R347). -/
def restartStart (r : Restart) (s : State) : State :=
  let s := (downloadLost r.run (tally r.cause r.prev s)).riggerHalt.modFw fun f => { f with
    restart := some r, restarts := f.restarts + 1
    fellBack := f.fellBack || r.cause = 6
    faults := if r.cause = 6 then f.faults.filter fun x => x.1 ≠ r.prev else f.faults }
  ((s.put F.TOP_BOOT_STAT_LAST_CAUSE r.cause).lifeAdd 101).perf 0xFE

/-- A restart cause for slot b, asked for by CDB Run or by command cmd: absorbed while a restart is in progress; else
Rigger halts and the restart begins, in the other slot after three faulty ones, or Rigger is held where that slot may not
run (R346, R347). DEDUCED, log 88. -/
def riggerCause (cause : Nat) (b run : Bool) (cmd : Option Nat) (s : State) : State :=
  match s.fw.restart with
  | some r =>
    let s := s.put F.TOP_BOOT_STAT_ABSORBED cause
    if 3 ≤ cause && cause ≤ 5 then tally cause r.slotB s.firmwareFault else s
  | none =>
    if !s.fw.released then s
    else
      let prev := s.fw.slotB
      let tired := slotTired s prev
      let s := if 3 ≤ cause then s.firmwareFault else s
      let r : Restart := { cause := if tired then 6 else cause, slotB := if tired then !prev else b, prev := prev,
                           run := run && !tired, cmd := cmd }
      if tired && (s.fw.fellBack || (slotFail s (!prev)).isSome) then
        restartHolds { r with run := run } (restartAborts { r with run := run } (downloadLost run s).riggerHalt)
      else restartStart r s

/-- RIGGER_RESTART: events 3 and 4 of R346. Every outstanding command but the FW_RESTART completes with RESET_ABORT and
the new restart count; an interrupted CDB command fails; then the SYS domain is reset. -/
def execRiggerRestart (s : State) : Host.Outcome State Fault Refusal :=
  match s.fw.restart with
  | none => .next s
  | some r => .next ((restartAborts r s).resetRegs fun d _ => d.dom = .sys)

/-- RIGGER_CORE_HALT: an unrecoverable exception. -/
def execRiggerCoreHalt (core : Fin 4) (s : State) : Host.Outcome State Fault Refusal :=
  .next (let _ := core; riggerCause 5 s.fw.slotB false none s)

/-- WATCHDOG_EXPIRY (R345). -/
def execWatchdogExpiry (s : State) : Host.Outcome State Fault Refusal :=
  if s.fw.wdog && s.flag F.TOP_WDOG_CFG_EN then .next (riggerCause 3 s.fw.slotB false none s) else .next s

/-- The restart r goes on with the image of slot b. -/
def restartLoad (r : Restart) (b back : Bool) (s : State) : State :=
  (startSlot b s).modFw fun f => { f with restart := some { r with slotB := b, loaded := true, back := back } }

/-- RIGGER_IMAGE_LOADED: the image of the restart is read and checked; one that fails gives way to the slot that ran
before, and Rigger is held where neither passes, or where it was held before the Run (R347, R348). -/
def execRiggerImageLoaded (s : State) : Host.Outcome State Fault Refusal :=
  match s.fw.restart with
  | none => .next s
  | some r =>
    if r.loaded then .next s
    else if (slotFail s r.slotB).isNone then .next (restartLoad r r.slotB r.back s)
    else
      let other := if r.slotB = r.prev then !r.prev else r.prev
      let t := (s.noteFail (slotFail s r.slotB)).modFw fun f => { f with stagedRuns := f.stagedRuns && !r.run }
      if r.cause ≠ 6 && !s.flag F.TOP_BOOT_STAT_HELD && (slotFail t other).isNone then
        .next ((restartLoad r other true t).bootBit 2 (t.get F.TOP_BOOT_STAT_BOOT / 4 % 2 = 1 || other ≠ r.prev))
      else .next (restartHolds r t)

/-- Raise an anti-rollback counter to at least k. -/
def Otp.raise (o : Otp) (type k : Nat) : Otp :=
  match type with
  | 1 => { o with rigger := max o.rigger k }
  | 2 => { o with pers := max o.pers k }
  | _ => { o with patch := max o.patch k }

/-- An image with REVOKE_LOWER revokes every vendor slot below its own. DESIGN CHOICE, log 92. -/
def Otp.revoke (o : Otp) (r : Image) : Otp :=
  if r.revokesLower then { o with revoked := o.revoked ||| BitVec.ofNat 4 (2 ^ (min 4 r.keySlot) - 1) } else o

/-- A Commit (R348, R349): the copy with the lower sequence number names the running slot; the staged personality that
runs becomes the current one; the counters rise. None where an image's SVN is below its counter. DEDUCED, log 90. -/
def commitImage (s : State) : Option State :=
  let rig := s.flashImage (slotBase s.fw.slotB)
  let pers := s.flashImage (persBase true)
  let withPers := s.fw.stagedRuns
  if rig.svn < s.fw.otp.rigger || (withPers && pers.svn < s.fw.otp.pers) then none
  else
    let seq := match s.fw.record with | some r => r.seq + 1 | none => 1
    let i : Fin 2 := if s.fw.boot[0].ok && (!s.fw.boot[1].ok || s.fw.boot[1].seq ≤ s.fw.boot[0].seq) then 1 else 0
    let staged := match s.fw.record with | some r => r.stagedValid && !withPers | none => false
    let s := if withPers then s.flashWrite (persBase false) (pers.bytes 0 0x80000) else s
    let s := s.modFw fun f => { f with boot := f.boot.set i { ok := true, seq := seq, slotB := f.slotB, stagedValid := staged } }
    let patch := s.flashImage 0x10000
    some (s.modFw fun f =>
      let o := (f.otp.raise 1 rig.svn).revoke rig
      let o := if withPers then o.raise 2 pers.svn else o
      { f with
        otp := if f.patchApplied then o.raise 3 patch.svn else o, stagedRuns := false
        persLoaded := f.persLoaded || withPers })

/-- A Run: a hitless restart into slot b, with a staged personality. DESIGN CHOICE, log 89. -/
def runImage (b : Bool) (s : State) : State :=
  let staged := match s.fw.record with | some r => r.stagedValid | none => false
  let was := s.flag F.TOP_BOOT_STAT_HELD || !s.fw.released
  let s := s.modFw fun f => { f with stagedRuns := staged, released := true, faults := if was then [] else f.faults }
  riggerCause 2 b true none s

/-- What becomes of a pushed image (R435) at the end of its Run: a Commit, unless the Run has failed. -/
def pushedEnds (back : Bool) (s : State) : State :=
  if s.hws.pushed = 2 then
    let s := s.modHws fun h => { h with pushed := 0 }
    if back then s else (commitImage s).getD s
  else s

/-- Rigger reports ready at the end of a restart: event 0x0B, and the Run or FW_RESTART that asked for it ends. A
successful Run clears HELD (R347). -/
def restartEnds (r : Restart) (s : State) : State :=
  let s := if r.run && !r.back then s.put F.TOP_BOOT_STAT_HELD 0 else s
  let s := s.modFw fun f => { f with restart := none, fellBack := f.fellBack && !(r.run && !r.back) }
  let s := s.post 0x0B 0xF (s.fw.restarts.toNat + r.cause * 65536)
  let s := if r.run && s.cmis.cdb.busy.isSome then s.cdbDone (if r.back then .failed else .success) else s
  let s := pushedEnds r.back s
  match r.cmd.bind s.cmdById with
  | some c => if r.back then s.finish c .internalFault else s.finish c .done (s.fw.restarts.toNat + 0x10000)
  | none => s

/-! ## Firmware commands (R351 to R353) -/

/-- FW_STATUS's 32 bytes. -/
def fwStatusBytes (s : State) : List Byte :=
  let f := s.fw
  let bit := fun (b : Bool) (i : Nat) => b.toNat * 2 ^ i
  let svn := fun (b : Bool) => (s.flashImage (slotBase b)).svn % 256
  leBytes 1 f.slotB.toNat ++ leBytes 1 f.committed.toNat
    ++ leBytes 1 (bit (slotFail s false).isNone 0 + bit (slotFail s true).isNone 1 + bit (persFail s false f.slotB).isNone 2
        + bit (match f.record with | some r => r.stagedValid | none => false) 3 + bit f.patchApplied 4)
    ++ leBytes 1 (s.get F.TOP_BOOT_STAT_HELD + bit f.download.isSome 1 + bit f.write.isSome 2)
    ++ s.versionAt (slotBase false) ++ s.versionAt (slotBase true) ++ leBytes 1 (svn false) ++ leBytes 1 (svn true)
    ++ leBytes 1 f.otp.rigger ++ leBytes 1 f.otp.pers ++ leBytes 1 f.otp.patch
    ++ leBytes 1 (s.get F.TOP_BOOT_STAT_LAST_CAUSE) ++ leBytes 2 f.restarts.toNat ++ s.persVersion
    ++ leBytes 2 (s.get F.TOP_WDOG_CFG_PERIOD) ++ leBytes 1 (s.get F.TOP_BOOT_STAT_FAIL) ++ List.replicate 5 0

/-- FW_STATUS. -/
def execFwStatus (m : MBox) (s : State) : Host.Outcome State Fault Refusal :=
  .next (runCmd 0xA0 m (fun c s => s.finishStaged c (fwStatusBytes s)) s)

/-- FW_RESTART with SLOT 0. -/
def execFwRestartRunning (m : MBox) (s : State) : Host.Outcome State Fault Refusal :=
  .next (runCmd 0xA1 m (fun c s =>
    if c.bits 2 0 0 = 1 then s
    else if s.fw.write.isSome then s.finish c .conflict
    else riggerCause 1 s.fw.slotB false (some c.id) (s.await c .fwRestart)) s)

/-- FW_RESTART with SLOT 1. -/
def execFwRestartOther (m : MBox) (s : State) : Host.Outcome State Fault Refusal :=
  .next (runCmd 0xA1 m (fun c s =>
    if c.bits 2 0 0 = 0 then s
    else if s.fw.write.isSome || (slotFail s (!s.fw.slotB)).isSome then s.finish c .conflict
    else riggerCause 1 (!s.fw.slotB) false (some c.id) (s.await c .fwRestart)) s)

/-- Bytes 0 to 255 of the attestation report for command c (R353). -/
def attestBytes (c : Cmd) (s : State) : List Byte :=
  let f := s.fw
  let bit := fun (b : Bool) (i : Nat) => b.toNat * 2 ^ i
  let patch := s.flashImage 0x10000
  let nonce := (List.range 8).flatMap fun i => leBytes 4 (c.word (2 + i)).toNat
  let quotas := (List.range 6).map fun k => s.get F.MBX_QUOTA_QUOTA k
  leBytes 2 1 ++ leBytes 2 f.epoch.toNat ++ leBytes 8 f.serial.toNat ++ leBytes 4 (s.word R.TOP_ID).toNat ++ nonce
    ++ beBytes 48 (Config.sha384 (leBytes 4 f.rom.toNat ++ (if f.patchApplied then patch.bytes 0 patch.length else []))).toNat
    ++ beBytes 48 (s.flashImage (slotBase f.slotB)).headHash.toNat
    ++ (if f.persLoaded then beBytes 48 (s.flashImage (persBase f.stagedRuns)).headHash.toNat else List.replicate 48 0)
    ++ beBytes 48 (Config.sha384 (Config.policyBytes s.mbx.policyBits s.mbx.policy quotas)).toNat
    ++ s.riggerVersion ++ s.persVersion ++ leBytes 2 f.restarts.toNat
    ++ leBytes 1 (s.get F.TOP_BOOT_STAT_DBG_UNLOCKED + bit (s.get F.TOP_BOOT_STAT_BOOT / 4 % 2 = 1) 1 + bit f.otp.compat 2
        + bit s.mbx.policyChanged 3 + bit (s.flag F.TOP_BOOT_STAT_HELD) 4)
    ++ leBytes 1 f.otp.rigger ++ List.replicate 4 0

/-- ATTEST, the report. -/
def execAttestReport (m : MBox) (s : State) : Host.Outcome State Fault Refusal :=
  .next (runCmd 0xA2 m (fun c s =>
    if c.bits 10 0 0 = 1 then s
    else
      let b := attestBytes c s
      let sig := Config.ecdsaSign s.fresh (Config.sha384 b)
      { s with fresh := s.fresh + 1 }.finishStaged c (b ++ beBytes 96 sig.toNat)) s)

/-- ATTEST, the certificate. -/
def execAttestCertificate (m : MBox) (s : State) : Host.Outcome State Fault Refusal :=
  .next (runCmd 0xA2 m (fun c s => if c.bits 10 0 0 = 0 then s else s.finishStaged c (s.fw.cert.take 1024)) s)

/-! ## Test port (R354) -/

/-- A 97-byte public key may unlock: any vendor key, and for DEBUG a module maker's too. DEDUCED, log 178. -/
def Otp.mayUnlock (o : Otp) (factory : Bool) (key : List Byte) : Bool :=
  let h := Config.sha384 key
  ((List.range 4).any fun k => o.vendorSet.getLsbD k && o.vendor[Fin.ofNat 4 k] = h)
    || (!factory && (List.range 2).any fun k => o.makerSet.getLsbD k && o.maker[Fin.ofNat 2 k] = h)

/-- Cleat accepts the response: the key may unlock that level, and its signature over the challenge that the tester has
read (random bytes, serial number and reset epoch) and the level verifies. -/
def State.unlocks (s : State) (factory : Bool) (key sig : List Byte) : Bool :=
  s.fw.otp.mayUnlock factory key
    && Config.ecdsaVerify key (Config.sha384 (Config.unlockBytes s.fresh s.fw.serial s.fw.epoch factory)) sig

/-- DEBUG_UNLOCK_RESPONSE: the level asked for, the tester's public key and its signature. -/
def execDebugUnlockResponse (factory : Bool) (key sig : List Byte) (s : State) : Host.Outcome State Fault Refusal :=
  if !s.mbx.policyBits.getLsbD 5 || s.fw.otp.dbgPermanent || s.fw.debugFails ≥ 3 then .next s
  else
    let ok := s.unlocks factory key sig
    let s := { s with fresh := s.fresh + 1 }
    if ok then
      .next ((s.modFw fun f => { f with debug := if factory then .factory else .debug }).put F.TOP_BOOT_STAT_DBG_UNLOCKED 1)
    else .next (s.modFw fun f => { f with debugFails := f.debugFails + 1 })

/-- Boundary scan is open: at level FACTORY, or where DBG_LOCK is not blown. -/
def State.scanOpen (s : State) : Bool := !s.fw.otp.dbgLock || s.fw.debug = .factory

/-- BOUNDARY_SCAN_ENTRY: before any ball is driven, every lane is cut with CAUSE 0x1. -/
def execBoundaryScanEntry (s : State) : Host.Outcome State Fault Refusal :=
  if s.scanOpen then
    .next ((eachBelow 9 (fun n s => s.cut n 1 .denied) s).modFw fun f => { f with boundaryScan := true })
  else .next s

/-! ## Upgrade through CDB (R271, R272, R348 to R350) -/

/-- The CDB instance takes a command: it is idle, and Rigger serves it, or Cleat where no Rigger image is released. -/
def State.cdbTakes (s : State) : Bool := s.cmis.cdb.busy.isNone && (s.fw.running || !s.fw.released)

/-- A download of len bytes is open, with the staging area clear. -/
def downloadOpen (len : Nat) (s : State) : State :=
  let s := s.setBytes 0x80600000 (List.replicate 0x800000 0)
  let s := s.put F.ECC_DMA_STAT_HALTED (s.get F.ECC_DMA_STAT_HALTED / 2 * 2)
  s.modFw fun f => { f with download := some { len := len } }

/-- CDB_START_DOWNLOAD: the announced length and the header. -/
def execCdbStartDownload (len : Nat) (header : List Byte) (s : State) : Host.Outcome State Fault Refusal :=
  if !s.cdbTakes then .next s
  else if s.fw.write.isSome then .next (s.cdbDone .failedBusy)
  else if 120 < header.length + 8 || areaSize (header.getD 6 0).toNat < len then .next (s.cdbDone .rangeError)
  else
    .next ((downloadOpen len s).cdbDone .success)

/-- CDB_ABORT_DOWNLOAD. -/
def execCdbAbortDownload (s : State) : Host.Outcome State Fault Refusal :=
  if s.cdbTakes then .next ((s.modFw fun f => { f with download := none }).cdbDone .success) else .next s

/-- Copy a block into staging. -/
def cdbBlock (limit addr : Nat) (data : List Byte) (s : State) : State :=
  if !s.cdbTakes then s
  else match s.fw.download with
    | none => s.cdbDone .failed
    | some d =>
      if limit < data.length || d.len < addr + data.length then s.cdbDone .rangeError
      else (s.setBytes (0x80600000 + addr) data).cdbDone .success

/-- CDB_WRITE_BLOCK_LPL: an LPL carries the block address and up to 116 bytes. -/
def execCdbWriteBlockLpl (addr : Nat) (data : List Byte) (s : State) : Host.Outcome State Fault Refusal :=
  .next (cdbBlock 116 addr data s)

/-- CDB_WRITE_BLOCK_EPL: an EPL carries up to 2,048 bytes. -/
def execCdbWriteBlockEpl (addr : Nat) (data : List Byte) (s : State) : Host.Outcome State Fault Refusal :=
  .next (cdbBlock 2048 addr data s)

/-- CDB_COMPLETE_DOWNLOAD: R340 on the staged image, then its flash write in the background. -/
def execCdbCompleteDownload (s : State) : Host.Outcome State Fault Refusal :=
  if !s.cdbTakes then .next s
  else match s.fw.download with
    | none => .next (s.cdbDone .failed)
    | some _ =>
      let r := s.stagedImage
      match imageFail s r r.type (s.slotMajor (s.fw.completed.getD s.fw.slotB)) with
      | some c => .next (((s.noteFail (some c)).modFw fun f => { f with download := none }).cdbDone .failed c)
      | none =>
        let s := s.modFw fun f => { f with
          download := none, write := some { type := r.type, slotB := !f.slotB, len := r.length } }
        .next (s.modCmis fun c => { c with cdb := { c.cdb with busy := some 0x0107, status := .inProgress } })

/-- The staged image stands in flash, at the slot that the write w names. -/
def flashStore (w : FlashWrite) (s : State) : State :=
  let base := if w.type = 1 then slotBase w.slotB else if w.type = 2 then persBase true else 0x10000
  (s.flashWrite base (s.bytes 0x80600000 w.len)).modFw fun f => { f with write := none }

/-- The write w is the last Complete: of a Rigger image its slot, of a personality the staged copy. -/
def flashNote (w : FlashWrite) (s : State) : State :=
  s.modFw fun f =>
    if w.type = 1 then { f with completed := some w.slotB }
    else if w.type = 2 then { f with
      boot := f.boot.map fun b => { b with stagedValid := true }, completed := some (f.completed.getD f.slotB) }
    else f

/-- FLASH_WRITE_COMPLETE: the background write ends; ok says that it reads back as written. -/
def execFlashWriteComplete (ok : Bool) (s : State) : Host.Outcome State Fault Refusal :=
  match s.fw.write with
  | none => .next s
  | some w =>
    let t := flashStore w s
    if s.hws.pushed = 1 then
      .next (if ok then runImage w.slotB ((flashNote w t).modHws fun h => { h with pushed := 2 })
        else t.modHws fun h => { h with pushed := 0 })
    else .next (if ok then (flashNote w t).cdbDone .success else t.cdbDone .failed)

/-- CDB_RUN_IMAGE: a hitless restart into the slot of the last Complete, with a staged personality. -/
def execCdbRunImage (mode : Byte) (s : State) : Host.Outcome State Fault Refusal :=
  if !s.cdbTakes then .next s
  else if 1 < mode.toNat then .next (s.cdbDone .rangeError)
  else if s.fw.write.isSome then .next (s.cdbDone .failed Status.conflict.code)
  else match s.fw.completed with
    | none => .next (s.cdbDone .failed)
    | some b =>
      .next (runImage b (s.modCmis fun c => { c with cdb := { c.cdb with busy := some 0x0109, status := .inProgress } }))

/-- CDB_COMMIT_IMAGE. -/
def execCdbCommitImage (s : State) : Host.Outcome State Fault Refusal :=
  if !s.cdbTakes then .next s
  else match commitImage s with
    | none => .next (s.cdbDone .failed)
    | some s => .next (s.cdbDone .success)

/-- CDB_QUERY_STATUS, CDB_MODULE_FEATURES, CDB_FW_MGMT_FEATURES, CDB_GET_FW_INFO and an unknown command: the reply's
bytes beyond its status are CMIS's own, and a free value but for the versions of R283. DEDUCED, log 74. -/
def cdbQuery (k : Nat) (s : State) : State :=
  if !s.cdbTakes then s
  else
    let (w, s) := s.free 17
    s.cdbDone .success 0 (leBytes 2 k ++ leBytes 4 w.toNat)

def execCdbQueryStatus (s : State) : Host.Outcome State Fault Refusal := .next (cdbQuery 0x0000 s)
def execCdbModuleFeatures (s : State) : Host.Outcome State Fault Refusal := .next (cdbQuery 0x0040 s)
def execCdbFwMgmtFeatures (s : State) : Host.Outcome State Fault Refusal := .next (cdbQuery 0x0041 s)
def execCdbGetFwInfo (s : State) : Host.Outcome State Fault Refusal :=
  if s.cdbTakes then .next (s.cdbDone .success 0 (s.versionAt (slotBase false) ++ s.versionAt (slotBase true))) else .next s
def execCdbUnknownCommand (s : State) : Host.Outcome State Fault Refusal :=
  if s.cdbTakes then .next (s.cdbDone .unknownCommand) else .next s

end Sys2Proof.Machine
end

