-- ==== Sys2Proof/Machine/Paths.lean ====
section
/-! DEFINITION. Sys2Proof/Machine/Paths.lean: CMIS data paths: the staged control sets and their checks (R38 to R41, R263),
the data-path states (R261, R262), and OutputDisableTx. The places of the staged bytes on page 10h are CMIS 5.3's. -/

namespace Sys2Proof.Machine

/-- What a control byte reads before it is written: the staged AdaptiveInputEqEnableTx and output amplitudes of page 10h
stand as the reset values of the fields that R264 gives them, AUTO and code 1; every other byte reads 0.
PRESUMED, log 62. -/
def ctlDefault (page off : Nat) : Byte :=
  if page ≠ 0x10 then 0
  else if off = 153 || off = 186 then 0xFF
  else if (170 ≤ off && off ≤ 173) || (203 ≤ off && off ≤ 206) then 0x11
  else 0

/-- A byte of the CMIS map that software has written: bank, page, offset. -/
def State.cmisByte (s : State) (bank page off : Nat) : Nat :=
  (Bank.get s.cmis.bytes (bank * 65536 + page * 256 + off) (ctlDefault page off)).toNat
def State.setCmisByte (s : State) (bank page off v : Nat) : State :=
  s.modCmis fun c => { c with
    bytes := Bank.put c.bytes (bank * 65536 + page * 256 + off) (BitVec.ofNat 8 v) (ctlDefault page off) }

/-! ## Applications -/

/-- An application of R38: host lanes, media lanes, permitted first host lanes (from 0), and line mode. -/
def application (sel : Nat) : Option (Nat × Nat × List Nat × Nat) :=
  match sel with
  | 1 => some (8, 4, [0], 3)
  | 2 => some (4, 2, [0, 4], 3)
  | 3 => some (2, 1, [0, 2, 4, 6], 3)
  | 4 => some (4, 4, [0], 2)
  | 5 => some (1, 1, [0, 1, 2, 3], 2)
  | 6 => some (4, 4, [0], 1)
  | 7 => some (1, 1, [0, 1, 2, 3], 1)
  | _ => none

/-- The data path of application sel that starts at host lane f of bank b (R40): its line lanes take the sources given. -/
def pathOf (s : State) (b sel f : Nat) : Option DataPath :=
  (application sel).map fun (hosts, media, _, mode) =>
    let line := (List.range media).map fun i => 4 * b + (if mode = 3 then f / 2 else f) + i
    { host := (List.range hosts).map fun i => 8 * b + f + i, line := line,
      cfg := line.map fun n =>
        let j := n - 4 * b
        let w := if mode = 3 then withBits (withBits (s.mapAhead n) 11 8 (8 * b + 2 * j)) 15 12 (8 * b + 2 * j + 1)
          else withBits (s.mapAhead n) 11 8 (8 * b + j)
        (n, withBits w 2 0 mode) }

/-- Staged control set k of bank b: AppSel and DataPathID of each lane. -/
def stagedApp (s : State) (b k i : Nat) : Nat := s.cmisByte b 0x10 (145 + 33 * k + i) / 16
def stagedFirst (s : State) (b k i : Nat) : Nat := s.cmisByte b 0x10 (145 + 33 * k + i) / 2 % 8
/-- A nibble of the staged equalisation targets: base 162 pre-cursor, 166 post-cursor, 170 amplitude. -/
def stagedNibble (s : State) (b k base i : Nat) : Nat :=
  s.cmisByte b 0x10 (base + 33 * k + i / 2) / 16 ^ (i % 2) % 16

/-- The lanes that a mask names. -/
def laneMask (mask : BitVec 8) : List Nat := (List.range 8).filter fun i => mask.getLsbD i

/-- The host lanes that some data path uses, and that path. -/
def State.pathAt (s : State) (h : Nat) : Option Nat := s.cmis.paths.findIdx? fun p => p.host.contains h

/-- The data paths that a set names, one for each first lane. -/
def stagedPaths (s : State) (b k : Nat) (lanes : List Nat) : List DataPath :=
  ((lanes.filter fun i => stagedApp s b k i ≠ 0).map fun i => (stagedApp s b k i, stagedFirst s b k i)).dedup.filterMap
    fun p => pathOf s b p.1 p.2

/-- The checks of R263 for ApplyDPInit, in order; in ModuleFault or before Rigger is ready nothing is applied. -/
def applyCheck (s : State) (b k : Nat) (lanes : List Nat) : ConfigStatus :=
  let used := lanes.filter fun i => stagedApp s b k i ≠ 0
  let paths := stagedPaths s b k lanes
  let keep := (s.cmis.paths.filter fun p => p.state ≠ .deactivated && !(p.host.any fun h => lanes.contains (h - 8 * b) && h / 8 = b))
  let map := (keep ++ paths).flatMap fun p => p.cfg
  let hosts := (keep ++ paths).flatMap fun p => p.host
  if used.any fun i => match application (stagedApp s b k i) with
      | none => true
      | some (_, _, firsts, _) => !firsts.contains (stagedFirst s b k i) then .invalidAppSel
  else if paths.any (fun p => !(p.host.all fun h => lanes.contains (h - 8 * b)
      && p.host.head? = some (8 * b + stagedFirst s b k (h - 8 * b)))) then .partialDataPath
  else if !(decide hosts.Nodup && mapAccepts s map) then .invalidDataPath
  else if lanes.any (fun i => match s.pathAt (8 * b + i) with
      | some p => (s.cmis.paths[p]?.map DataPath.state) ≠ some .deactivated
      | none => false) then .lanesInUse
  else if used.any (fun i => 7 < stagedNibble s b k 162 i || 7 < stagedNibble s b k 166 i || 3 < stagedNibble s b k 170 i) then
    .invalidSI
  else .success

/-- Set ConfigStatus on the lanes of a set. -/
def State.setConfig (s : State) (b : Nat) (lanes : List Nat) (st : ConfigStatus) : State :=
  s.modCmis fun c => { c with config := lanes.foldl (fun m i => Bank.put m (8 * b + i) st .undefined) c.config }

/-- The input and output equalisation of a lane is written from the staged set, and APPLY with it (R165, R264): the
fixed CTLE target counts where adaptation is disabled. -/
def applySi (b k : Nat) (lanes : List Nat) (s : State) : State :=
  eachOf lanes (fun i s =>
    let h := 8 * b + i
    let auto := s.cmisByte b 0x10 (153 + 33 * k) / 2 ^ i % 2 = 1
    let s := s.put F.WNC_LANE_CFG_MODE (if auto then 0 else 2) (9 + h)
    let s := if auto then s.put F.HST_RX_CTRL_CTLE_MAN 0 h
      else (s.put F.HST_RX_CTRL_CTLE_MAN 1 h).put F.HST_RX_CTRL_CTLE_CODE (stagedNibble s b k 156 i) h
    let s := (s.put F.HST_TX_CTRL_PRE_CODE (stagedNibble s b k 162 i) h).put F.HST_TX_CTRL_POST_CODE
      (stagedNibble s b k 166 i) h
    hstCodeApply h (s.put F.HST_TX_CTRL_AMP_CODE (stagedNibble s b k 170 i) h)) s

/-- CMIS logic runs in Rigger: nothing below happens while Rigger is stopped (R269). -/
def State.cmisRuns (s : State) : Bool := s.fw.running

/-- The data paths of the lanes give way to the staged ones. -/
def pathsReplaced (b k : Fin 2) (lanes : List Nat) (s : State) : State :=
  let new := stagedPaths s b k lanes
  s.modCmis fun c => { c with paths :=
    (c.paths.filter fun p => !(p.host.any fun h => h / 8 = b.val && lanes.contains (h % 8))) ++ new }

/-- Lane i of bank b is in DPActivated or DPInitialized, and its staged application is the one in use. -/
def appKept (b k : Fin 2) (i : Nat) (s : State) : Bool :=
  match (s.pathAt (8 * b.val + i)).bind fun p => s.cmis.paths[p]? with
  | none => false
  | some p => (p.state = .activated || p.state = .initialized)
      && (pathOf s b (stagedApp s b k i) (stagedFirst s b k i)).map DataPath.host = some p.host
      && (pathOf s b (stagedApp s b k i) (stagedFirst s b k i)).map (fun q => q.cfg.map fun e => cfgMode e.2)
        = some (p.cfg.map fun e => cfgMode e.2)

/-- A staged signal-integrity control of the lane is outside its range. -/
def siBad (b k : Fin 2) (i : Nat) (s : State) : Bool :=
  7 < stagedNibble s b k 162 i || 7 < stagedNibble s b k 166 i || 3 < stagedNibble s b k 170 i

/-- CMIS_APPLY_IMMEDIATE: accepted only for lanes in DPActivated or DPInitialized whose AppSel is unchanged. -/
def execCmisApplyImmediate (b : Fin 2) (k : Fin 2) (mask : BitVec 8) (s : State) : Host.Outcome State Fault Refusal :=
  if !s.cmisRuns then .next s
  else
    let lanes := laneMask mask
    if !(lanes.all fun i => appKept b k i s) then .next (s.setConfig b lanes .lanesInUse)
    else if lanes.any fun i => siBad b k i s then .next (s.setConfig b lanes .invalidSI)
    else .next ((applySi b k lanes s).setConfig b lanes .success)

/-! ## Data-path states (R261, R262) -/

def State.modPath (s : State) (i : Nat) (f : DataPath → DataPath) : State :=
  s.modCmis fun c => { c with paths := c.paths.modify i f }

/-- Path i enters a state; on one in which it stays, DPStateChangedFlag of its lanes latches. -/
def State.pathEnter (s : State) (i : Nat) (st : DpState) (stays : Bool) : State :=
  let hosts := match s.cmis.paths[i]? with | some p => p.host | none => []
  let s := s.modPath i fun p => { p with state := st }
  if stays then hosts.foldl (fun s h => s.latchFlag (h / 8) 0x11 134 (h % 8)) s else s

/-- Every line lane of a path is in state tg, or held OFF by Tx disable with tg as its requested state. -/
def laneAtOrHeld (s : State) (tg n : Nat) : Bool :=
  (s.laneState n = tg && !s.laneTrans n) || (s.flag F.OLC_STAT_TXDIS n && (tg = 3 || (s.olc n).last = tg))

/-- Request state tg of lane n, unless the request is refused, as any other would be (R193, R195). -/
def pathLane (tg n : Nat) (s : State) : State :=
  match laneRefusal s [n] tg false with
  | some st => requestRefused [n] st s
  | none => s.laneRequest n tg

/-- Request a state of every lane of a path. -/
def pathRequest (lanes : List Nat) (tg : Nat) (s : State) : State :=
  let s := eachOf lanes (pathLane tg) s
  eachOf lanes (fun n s => s.laneAdvance 5 n) s

/-- Line lanes are unassigned: at their next TX AM boundary, or at once without framing (R45). -/
def unassign (lanes : List Nat) (s : State) : State :=
  eachOf lanes (fun n s =>
    let s := cfgPend n (withBits (s.mapAhead n) 2 0 0) s
    if s.txFramed n then s else cfgTake n s) s

/-- A data path cannot reach ARMED (R262): back to DPDeactivated, with ConfigRejected on its lanes. -/
def pathFail (i : Nat) (p : DataPath) (s : State) : State :=
  let s := unassign p.line (pathRequest p.line 0 s)
  let s := s.modCmis fun c => { c with config := p.host.foldl (fun m h => Bank.put m h .rejected .undefined) c.config }
  (s.modPath i fun p => { p with gaveUp := true }).pathEnter i .deactivated true

/-- Lane n is latched as one that failed to turn on (R262). -/
def State.pathLatch (s : State) (n : Nat) : State :=
  s.modCmis fun c => { c with failed := (c.failed.filter fun k => !(k = n)) ++ [n] }

/-- DPTxTurnOn is entered where some media lane is not disabled; else the path stays in DPInitialized. There it also stays
where the request of such a lane is refused, which is latched as failing. DESIGN CHOICE, log 153. -/
def pathInitialized (i : Nat) (p : DataPath) (s : State) : State :=
  let on := p.line.filter fun n => !s.cmis.outDis.contains n
  let bad := on.filter fun n => (laneRefusal s [n] 3 false).isSome
  if on.isEmpty then s.pathEnter i .initialized true
  else if bad.isEmpty then (pathRequest p.line 3 s).pathEnter i .txTurnOn false
  else (eachOf bad (fun n s => (pathLane 3 n s).pathLatch n) s).pathEnter i .initialized true

/-- Rigger makes the lowest host lane of a data path the lead of its monitor (R171), at ingress (R368). -/
def pathMonitor (p : DataPath) (s : State) : State :=
  match p.host.head? with
  | none => s
  | some h =>
    hstRsmCtrlWrite h (BitVec.ofNat 32 ((p.host.map fun k => 2 ^ k).sum * 2 ^ 16 + 1)) s

/-- DPInit: crossbar, mode and monitor are written, and ARMED is requested. -/
def pathInit (i : Nat) (p : DataPath) (s : State) : State :=
  if !mapAccepts s p.cfg then pathFail i p s
  else
    let s := p.cfg.foldl (fun s e =>
      let s := cfgPend e.1 e.2 s
      if s.txFramed e.1 then s else cfgTake e.1 s) s
    let s := pathMonitor p s
    match laneRefusal s p.line 2 false with
    | some _ => pathFail i p s
    | none => (pathRequest p.line 2 s).pathEnter i .init false

/-- DPDeinit: OFF is requested. -/
def pathDeinit (i : Nat) (p : DataPath) (s : State) : State := (pathRequest p.line 0 s).pathEnter i .deinit false

/-- Every line lane of the path is disabled. -/
def allDisabled (s : State) (p : DataPath) : Bool := p.line.all fun n => s.cmis.outDis.contains n

/-- Data path i is in DPActivated: DPTxTurnOff once every media lane is disabled. -/
def pathActivated (i : Nat) (p : DataPath) (s : State) : State :=
  if allDisabled s p then (pathRequest p.line 2 s).pathEnter i .txTurnOff false else s

/-- Data path i may leave DPDeactivated: the module is Ready, DPDeinit is clear for its lanes, and it has not given up
(R261, R262). DEDUCED, log 175. -/
def pathMayInit (s : State) (p : DataPath) : Bool :=
  s.cmis.mod = .ready && !p.gaveUp && p.host.all fun h => s.cmisByte (h / 8) 0x10 128 / 2 ^ (h % 8) % 2 = 0

/-- Path i moves on where its lanes have arrived, or where nothing keeps it in DPDeactivated any more. -/
def pathAdvance (i : Nat) (s : State) : State :=
  match s.cmis.paths[i]? with
  | none => s
  | some p =>
    match p.state with
    | .deactivated => if pathMayInit s p then pathInit i p s else s
    | .init => if p.line.all (laneAtOrHeld s 2) then pathInitialized i p s else s
    | .txTurnOn => if p.line.all (laneAtOrHeld s 3) then pathActivated i p (s.pathEnter i .activated true) else s
    | .txTurnOff => if p.line.all (laneAtOrHeld s 2) then pathInitialized i p s else s
    | .deinit =>
      if p.line.all (fun n => s.laneState n = 0 && !s.laneTrans n) then (unassign p.line s).pathEnter i .deactivated true
      else s
    | _ => s

/-- Every data path that may leave DPDeactivated does. -/
def pathsStart (s : State) : State :=
  eachBelow s.cmis.paths.length (fun i s =>
    match s.cmis.paths[i]? with
    | some p => if p.state = .deactivated then pathAdvance i s else s
    | none => s) s

/-- CMIS_APPLY_DPINIT: control set k of bank b, for the lanes of the mask; where DPDeinit is clear and the module
is Ready, the new data paths go on at once. -/
def execCmisApplyDpinit (b : Fin 2) (k : Fin 2) (mask : BitVec 8) (s : State) : Host.Outcome State Fault Refusal :=
  if !s.cmisRuns then .next s
  else
    let lanes := laneMask mask
    match applyCheck s b k lanes with
    | .success =>
      let t := pathsReplaced b k lanes s
      .next (pathsStart ((applySi b k (lanes.filter fun i => stagedApp t b k i ≠ 0) t).setConfig b lanes .success))
    | st => .next (s.setConfig b lanes st)

/-- DATAPATH_STATE_ADVANCE for the data path of host lane h. -/
def execDatapathStateAdvance (h : HLane) (s : State) : Host.Outcome State Fault Refusal :=
  match (if s.cmisRuns then s.pathAt h else none) with
  | some i => .next (pathAdvance i s)
  | none => .next s

/-- What the DPDeinit byte v of bank b means for data path i. -/
def deinitPath (b : Fin 2) (v : BitVec 8) (i : Nat) (s : State) : State :=
  match s.cmis.paths[i]? with
  | none => s
  | some p =>
    if !(p.host.all fun h => h / 8 = b.val) then s
    else
    let s := if p.host.any fun h => v.getLsbD (h % 8) then s.modPath i fun p => { p with gaveUp := false } else s
    if p.state = .deactivated then pathAdvance i s
    else if p.state ≠ .deinit && p.host.any (fun h => v.getLsbD (h % 8)) then pathDeinit i p s
    else s

/-- DPDEINIT_WRITE: the DPDeinit byte of bank b becomes v. -/
def execDpdeinitWrite (b : Fin 2) (v : BitVec 8) (s : State) : Host.Outcome State Fault Refusal :=
  let s := s.setCmisByte b 0x10 128 v.toNat
  if !s.cmisRuns then .next s
  else
    .next (eachBelow s.cmis.paths.length (deinitPath b v) s)

/-- Media lane j of bank b is disabled or enabled as bit j of v says. -/
def disableLane (b : Fin 2) (v : BitVec 4) (j : Nat) (s : State) : State :=
  let n := 4 * b.val + j
  let out := s.cmis.outDis.filter fun k => !(k = n)
  if v.getLsbD j then (s.modCmis fun c => { c with outDis := out ++ [n] }).txDisable n
  else (s.modCmis fun c => { c with outDis := out }).txEnable n

/-- Data path i goes on once one of its lanes is enabled, and turns off once all are disabled. -/
def disablePath (i : Nat) (s : State) : State :=
  match s.cmis.paths[i]? with
  | none => s
  | some p =>
    if p.state = .initialized && !allDisabled s p then pathInitialized i p s
    else if p.state = .activated then pathActivated i p s
    else s

/-- OUTPUT_DISABLE_TX_WRITE: OutputDisableTx of the four media lanes of bank b becomes v. -/
def execOutputDisableTxWrite (b : Fin 2) (v : BitVec 4) (s : State) : Host.Outcome State Fault Refusal :=
  let s := s.setCmisByte b 0x10 130 v.toNat
  if !s.cmisRuns then .next s
  else
    let s := eachBelow 4 (disableLane b v) s
    .next (eachBelow s.cmis.paths.length disablePath s)

/-- A request of a data path's lane n has ended with TIMED_OUT (R262): in DPTxTurnOn the lanes that arrived go back to
ARMED and the failing lane is latched; in DPInit the path gives up. -/
def pathTimedOut (n : Nat) (s : State) : State :=
  match s.cmis.paths.findIdx? fun p => p.line.contains n with
  | none => s
  | some i =>
    match s.cmis.paths[i]? with
    | none => s
    | some p =>
      match p.state with
      | .txTurnOn =>
        let s := s.pathLatch n
        (pathRequest (p.line.filter fun k => s.laneState k = 3) 2 s).pathEnter i .initialized true
      | .initialized => s.pathLatch n
      | .init => pathFail i p s
      | _ => s

/-- DEFERRED_LIVE_TIMEOUT (R187), with what it means for a data path. -/
def execDeferredLiveTimeout (n : Line) (s : State) : Host.Outcome State Fault Refusal :=
  let t := deferredLimit n s
  .next (if s.laneTrans n && !t.laneTrans n then pathTimedOut n t else t)

/-- TOKEN_WAIT_TIMEOUT (R186), with what it means for a data path. -/
def execTokenWaitTimeout (n : Line) (s : State) : Host.Outcome State Fault Refusal :=
  let t := tokenLimit n s
  .next (if s.laneTrans n && !t.laneTrans n then pathTimedOut n t else t)

end Sys2Proof.Machine
end

