-- ==== Sys2Proof/Machine/Power.lean ====
section
/-! DEFINITION. Sys2Proof/Machine/Power.lean: power states and their transitions, ANCHOR entry and wake, the reference
clock, gated blocks, resets, power accounting, and the power commands (R374 to R392), with the module state that
follows them (R260). -/

namespace Sys2Proof.Machine

/-! ## The module state (R256, R260) -/

/-- Low power is requested: by pin while LowPwrAllowRequestHW is 1, by LowPwrRequestSW (lower page byte 26, bits 6 and
4), or by the want of a reference clock (R381). -/
def State.lowWanted (s : State) : Bool :=
  (s.cmis.lowPin && s.cmisByte 0 0 26 / 64 % 2 = 1) || s.cmisByte 0 0 26 / 16 % 2 = 1 || s.flag F.PWR_STATE_REF_LOST

/-- The module enters a state; a change of state latches ModuleStateChangedFlag. -/
def State.modEnter (s : State) (m : ModState) : State := (s.modCmis fun c => { c with mod := m }).latchFlag 0 0 8 0

/-- ModulePwrUp is entered: KEEP to ACTIVE begins with the VCORE step (R375, R386). -/
def modUp (s : State) : State :=
  (((s.modEnter .pwrUp).put F.PWR_STATE_TRANS 1).put F.PWR_STATE_TARGET 3).wantStep .vcore

/-- ModulePwrDn is entered: every data path is deinitialised and every other lane goes to OFF (R260, R261). -/
def modDown (s : State) : State :=
  let s := ((s.modEnter .pwrDn).put F.PWR_STATE_TRANS 1).put F.PWR_STATE_TARGET 2
  let s := eachBelow s.cmis.paths.length (fun i s =>
    match s.cmis.paths[i]? with
    | none => s
    | some p => if p.state = .deactivated || p.state = .deinit then s else pathDeinit i p s) s
  eachBelow 9 (fun n s => if s.lit n && !(s.laneTrans n && s.laneTarget n = 0) then pathRequest [n] 0 s else s) s

/-- The module follows the low-power request, while Rigger runs (R269). -/
def follow (s : State) : State :=
  if !s.cmisRuns then s
  else match s.cmis.mod with
    | .lowPwr => if !s.lowWanted && s.get F.PWR_STATE_STATE = 2 && s.pwr.entry = .idle then modUp s else s
    | .ready => if s.lowWanted then modDown s else s
    | _ => s

/-- CORE comes up: its PLL is locked and the domain is on. -/
def coreUp (s : State) : State :=
  coreStart ((s.put F.PWR_CLK_STAT_CORE_LOCK 1).modGrant fun g =>
    { g with on := if g.on.contains .core then g.on else g.on ++ [.core] })

/-- CORE and its PLL go off. -/
def coreDown (s : State) : State := (s.put F.PWR_CLK_STAT_CORE_LOCK 0).dropStep .core

/-- A module that is Ready lets its data paths leave DPDeactivated, while Rigger runs. -/
def powerUpPaths (s : State) : State := if s.cmisRuns then pathsStart s else s

/-- POWER_UP_COMPLETE: VCORE, the core PLL and CORE are up; the device is in ACTIVE and the module is Ready. -/
def execPowerUpComplete (s : State) : Host.Outcome State Fault Refusal :=
  if s.cmis.mod = .pwrUp && s.grant.running = some .vcore then
    let t := (s.put F.PWR_STATE_STATE 3).put F.PWR_STATE_TRANS 0
    let t := if s.flag F.PWR_BLK_EN_CORE then coreUp t else t
    .next (powerUpPaths (follow ((t.stepEnd .vcore).demand.modEnter .ready)))
  else .next s

/-- The device is in KEEP: CORE, VCORE and VLAS are off, and the TX PLLs stop. -/
def keepEnter (s : State) : State :=
  let s := ((s.put F.PWR_STATE_STATE 2).put F.PWR_STATE_TRANS 0).put F.PWR_STATE_TARGET 2
  let s := ((coreDown s).dropStep .vcore).dropStep .vlas
  (eachBelow 5 (fun p s => ((pllSquelch p false (s.modPll p fun _ => {}))).dropStep (.ltx p)) s).demand

/-- POWER_DOWN_COMPLETE: every line lane is OFF; CORE, VCORE and VLAS go off, and the device is in KEEP. -/
def execPowerDownComplete (s : State) : Host.Outcome State Fault Refusal :=
  if s.cmis.mod = .pwrDn && (List.range 9).all (fun n => s.laneState n = 0 && !s.laneTrans n) then
    .next (follow ((keepEnter (eachBelow s.cmis.paths.length pathAdvance s)).modEnter .lowPwr))
  else .next s

/-- The module enters ModuleFault with the cause given: the device is in KEEP, with its lanes OFF (R260). -/
def modFault (cause : Nat) (s : State) : State :=
  let s := (s.modCmis fun c => { c with faultCause := cause }).modEnter .fault
  if 2 < s.get F.PWR_STATE_STATE || s.flag F.PWR_STATE_TRANS then keepEnter s else s

/-- CORE_IDLE_GATE: no line lane has been assigned for 100 ms. -/
def execCoreIdleGate (s : State) : Host.Outcome State Fault Refusal :=
  if s.active && !s.assigned && s.flag F.PWR_CLK_STAT_CORE_LOCK then .next (coreDown s) else .next s

/-- CORE_UNGATE_COMPLETE: the core PLL has locked again and CORE is up. -/
def execCoreUngateComplete (s : State) : Host.Outcome State Fault Refusal :=
  if s.grant.running = some .core then .next ((coreUp s).stepEnd .core) else .next s

/-- MGMTINIT_COMPLETE (event 9 of R341): the two controls of byte 26 take their values (R256), and the module is in
ModuleLowPwr, or in ModuleFault after a LOCKSTEP fault, without a valid image, or with a failed self-test in
compatible mode. -/
def execMgmtinitComplete (s : State) : Host.Outcome State Fault Refusal :=
  let noImage := s.get F.TOP_BOOT_STAT_BOOT / 128 % 2 = 1
  if s.pwr.held || s.cmis.mod ≠ .noAnswer || !(s.fw.running || noImage || s.bst.noRigger) then .next s
  else
    let t := s.setCmisByte 0 0 26 0x40
    .next (if s.cmis.faultCause = 0xF0 then modFault 0xF0 t else if noImage then modFault 3 t
      else if s.bst.safe then modFault 2 t else follow (t.modEnter .lowPwr))

/-! ## Entering ANCHOR (R376, R377) -/

/-- The refuser of an entry, 0 where none holds; own is the command that asks, which does not count. -/
def refuser (s : State) : Nat :=
  if s.cap.cws.any (fun w => match w.place with | some (.context _ _) => true | _ => false) then 1
  else if !s.mbx.outstanding.isEmpty || (List.range 15).any (fun m => s.flag F.MBX_STAT_FULL m) then 2
  else if (List.range 8).any (fun k => s.get F.KNT_SLOT_STAT_STATE k ≠ 0) then 3
  else if (List.range 3).any (fun p => 1 < s.get F.HWS_PORT_STAT_STATE p) then 4
  else if !s.bst.left.isEmpty then 5
  else if !s.grant.pending.isEmpty || s.grant.running.isSome then 6
  else if s.fw.download.isSome || s.fw.write.isSome then 7
  else 0

/-- A refusal of code k is recorded. -/
def refused (k : Nat) (s : State) : State :=
  (s.addSat F.PWR_REFUSE_CNT_REFUSED 1).put F.PWR_REFUSE_LAST k

/-- An attempt makes its first check; where it passes, Rigger saves its state. Nothing is attempted outside ModuleLowPwr
in KEEP, or while a Rigger restart or another transition is under way. DEDUCED, log 103. -/
def anchorAttempt (s : State) : State :=
  if s.cmis.mod = .lowPwr && s.get F.PWR_STATE_STATE = 2 && !s.flag F.PWR_STATE_TRANS && s.pwr.entry = .idle
      && s.pwr.wake.isNone && s.fw.restart.isNone && !s.pwr.held then
    match refuser s with
    | 0 => ((s.modPwr fun p => { p with entry := .halting }).put F.PWR_STATE_TRANS 1).put F.PWR_STATE_TARGET 1
    | k => refused k s
  else s

/-- ANCHOR_IDLE_TIMEOUT: no bus transaction for IDLE ms. -/
def execAnchorIdleTimeout (s : State) : Host.Outcome State Fault Refusal :=
  if s.flag F.PWR_ANCHOR_CFG_AUTO then .next (anchorAttempt s) else .next s

/-- An entry ends before its window: Rigger resumes and runs on. -/
def entryEnd (s : State) : State :=
  (s.modPwr fun p => { p with entry := .idle }).put F.PWR_STATE_TRANS 0

/-- Waveforms stop, and MB and HT outputs stand at 0 V and off (R178, R378). -/
def outputsOff (s : State) : State :=
  eachBelow 45 (fun c s =>
    let s := (s.modChan c fun t =>
      { t with play := none, absTarget := none, slewed := if c % 5 = 0 then t.slewed else 0 }).put F.OLC_CH_OUT_PLAYING 0 c
    if c % 5 = 0 then s else s.put F.OLC_CH_OUT_OUT 0 c) (s.dropStep .vdrv)

/-- Fathom and RAW stop, the rails and the management PLL go off, and the window of the entry opens (R377). -/
def anchorDown (s : State) : State :=
  let s := s.riggerHalt
  let s := (List.range 32).foldl (fun s i => fathomStop (Fin.ofNat 32 i) s) s
  let s := outputsOff s.rawStop
  (s.put F.PWR_CLK_STAT_MGMT_LOCK 0).modPwr fun p => { p with entry := .window }

/-- ANCHOR_RIGGER_HALTED: Rigger has halted; the second check passes, Fathom and RAW stop, the rails and the management
PLL go off, and the window opens; or it fails, and Rigger resumes. -/
def execAnchorRiggerHalted (s : State) : Host.Outcome State Fault Refusal :=
  if s.pwr.entry ≠ .halting then .next s
  else match refuser s with
    | 0 =>
      .next (anchorDown s)
    | k => .next (refused k (entryEnd s))

/-- The wake sequence starts (event 1 of R379). -/
def wakeStart (code : Nat) (s : State) : State :=
  if s.inAnchor && s.pwr.wake.isNone then
    let s := (s.put F.PWR_REFUSE_WAKE code).incWrap F.PWR_REFUSE_WAKES
    ((s.modPwr fun p => { p with wake := some code }).put F.PWR_STATE_TRANS 1).put F.PWR_STATE_TARGET 2
  else s

/-- A window with IRQ_EN set lies in an alarm zone (R359, R379). -/
def alarmHolds (s : State) : Bool :=
  (List.range 80).any fun w => s.flag F.MON_WIN_CFG_EN w && s.flag F.MON_WIN_CFG_IRQ_EN w && 3 ≤ s.get F.MON_WIN_STAT_ZONE w

/-- The level wake event that holds, the first in table order; cleat is Cleat's own request. -/
def levelWake (cleat : Bool) (s : State) : Option Nat :=
  if !s.lowWanted then some 2 else if alarmHolds s then some 3 else if cleat then some 5 else none

/-- Eight always-on cycles pass and the device is in ANCHOR, where the reference of the monitor ADC is off between the
rounds (R359). DEDUCED, log 170. -/
def anchorReached (s : State) : State :=
  let s := eachBelow 8 (fun _ s => s.aonEdge) s
  let s := s.modMon fun m => { m with refKept := s.flag F.MON_ADC_CTRL_REF_EN }
  let s := (s.put F.MON_ADC_CTRL_REF_EN 0).put F.MON_ADC_CTRL_REF_RDY 0
  ((s.modPwr fun p => { p with entry := .idle }).put F.PWR_STATE_STATE 1).put F.PWR_STATE_TRANS 0

/-- ANCHOR_WINDOW_CLOSE: eight always-on cycles have passed; the device is in ANCHOR, and a level event that holds wakes
it at once. -/
def execAnchorWindowClose (cleat : Bool) (s : State) : Host.Outcome State Fault Refusal :=
  if s.pwr.entry ≠ .window then .next s
  else
    let s := anchorReached s
    match levelWake cleat s with
    | none => .next s
    | some k => .next (wakeStart k ((s.addSat F.PWR_REFUSE_CNT_ABORTED 1).put F.PWR_REFUSE_LAST 8))

/-- An edge wake event of the code given: in ANCHOR it wakes; between the checks of an entry it aborts it (code 0x9). -/
def edgeWake (code : Nat) (s : State) : State :=
  if s.pwr.entry = .halting then
    entryEnd ((s.addSat F.PWR_REFUSE_CNT_ABORTED 1).put F.PWR_REFUSE_LAST 9)
  else wakeStart code s

/-- WAKE_EVENT: the wake event with code k + 1; a level event wakes while it holds. -/
def execWakeEvent (k : Fin 5) (s : State) : Host.Outcome State Fault Refusal :=
  match k with
  | 0 | 3 => .next (edgeWake (k + 1) s)
  | 1 => if s.lowWanted then .next s else .next (wakeStart 2 s)
  | 2 => if alarmHolds s then .next (wakeStart 3 s) else .next s
  | _ => .next (wakeStart 5 s)

/-- The management clock runs again and the device is in KEEP; the time slept is noted, AON's wraps go to EXT, and REF_EN
is what it was before ANCHOR. DEDUCED, log 170. -/
def wakeKeep (s : State) : State :=
  let s := s.putB F.MON_ADC_CTRL_REF_EN s.mon.refKept
  let ms := (s.aonExt - s.tim.aE) / 10000
  let s := (s.put F.PWR_CLK_STAT_MGMT_LOCK 1).modPwr fun p => { p with slept := ms }
  let s := (s.put F.PWR_STATE_STATE 2).put F.PWR_STATE_TRANS 0
  let k := s.tim.aonWraps
  (s.put F.TIM_AON_HI_EXT (s.get F.TIM_AON_HI_EXT + k)).modTim fun t => { t with aonWraps := 0 }

/-- WAKE_KEEP_REACHED: the management PLL locks; RAW restarts and the device is in KEEP. -/
def execWakeKeepReached (s : State) : Host.Outcome State Fault Refusal :=
  if s.inAnchor && s.pwr.wake.isSome then
    .next (wakeKeep s).rawRestart.vdrvDemand
  else .next s

/-- SRAM kept in ANCHOR (R29, R378). -/
def retained (fathom : Bool) (a : Nat) : Bool :=
  a < 0x80600000 || 0x81E00000 ≤ a || (fathom && 0x81B00000 ≤ a && a < 0x81D00000)

/-- Rigger has resumed after a wake: event 0x0C WOKE, with the wake code and the sleep in ms. -/
def wakeEnds (code : Nat) (s : State) : State :=
  (s.modPwr fun p => { p with wake := none }).post 0x0C 0xF (code + min s.pwr.slept (2 ^ 24 - 1) * 256)

/-- SRAM keeps what ANCHOR retains and reads zero elsewhere; without FTH_RET no Fathom copy is valid (R378). -/
def wakeFill (s : State) : State :=
  let fathom := s.flag F.PWR_ANCHOR_CFG_FTH_RET
  let s : State := { s with sram := s.sram.filter fun c => retained fathom c.1 }
  let s := s.modEcc fun e => { e with flips := e.flips.filter fun f => retained fathom f.1 }
  if fathom then s else eachBelow 32 (fun i s => s.put F.MON_FTH_STAT_VALID 0 i) s

/-- WAKE_SRAM_FILLED: the rest of SRAM is zero with valid ECC. The wake ends here where no Rigger image is released.
DEDUCED, log 107. -/
def execWakeSramFilled (s : State) : Host.Outcome State Fault Refusal :=
  match s.pwr.wake with
  | none => .next s
  | some k =>
    if s.inAnchor then .next s
    else .next (if (wakeFill s).fw.released then wakeFill s else wakeEnds k (wakeFill s))

/-- Rigger reports ready (R345): RUNNING, the watchdog, the end of a restart or of a wake; logged host writes have been
applied (R269), and the module follows the requests it holds. -/
def riggerReady (s : State) : State :=
  if !s.fw.released || s.fw.running || (match s.fw.restart with | some r => !r.loaded | none => false) then s
  else
    let s := s.put F.MBX_ENG_STAT_RUNNING 1
    let s := (s.modFw fun f => { f with
      running := true
      wdog := true
      wdogAt := s.tim.raw }).modCmis fun c => { c with log := [] }
    let s := match s.fw.restart with | some r => restartEnds r s | none => s
    let s := match s.pwr.wake with | some k => wakeEnds k s | none => s
    follow (eachBelow 9 txadjAnswer s)

/-! ## The reference clock (R381) -/

/-- The loss is recorded with its event, and every lane in use is reset (R381). DEDUCED, log 102. -/
def refLost (s : State) : State :=
  let s := (s.put F.PWR_STATE_REF_LOST 1).invalidate.postBare 0x0D
  eachBelow 9 (fun n s => if s.laneState n ≠ 0 || s.laneTrans n then laneReset n s else s) s

/-- MEMS_REFERENCE_LOSS: the always-on clock moves to the RC oscillator. -/
def execMemsReferenceLoss (s : State) : Host.Outcome State Fault Refusal :=
  if s.pwr.held || s.flag F.PWR_CLK_STAT_AON_SRC then .next s
  else
    let t := (s.put F.PWR_CLK_STAT_AON_SRC 1).put F.TIM_STAT_CLKSRC 1
    if s.tim.running then .next (follow (refLost t)) else .next (t.modTim fun t => { t with srcChanged := true })

/-- REFERENCE_RESTORED: the reference has been present for 100 ms. -/
def execReferenceRestored (s : State) : Host.Outcome State Fault Refusal :=
  if s.pwr.held || !s.flag F.PWR_CLK_STAT_AON_SRC then .next s
  else
    let t := ((s.put F.PWR_CLK_STAT_AON_SRC 0).put F.TIM_STAT_CLKSRC 0).put F.PWR_STATE_REF_LOST 0
    if s.tim.running then .next (follow t) else .next (t.modTim fun t => { t with srcChanged := true })

/-! ## Gated blocks (R382) -/

/-- The PWR_BLK_EN bit of the block that an address lies in, none for a block without one. -/
def blockOf (a : Nat) : Option Nat :=
  if 0x20000000 ≤ a && a < 0x20900000 then some ((a - 0x20000000) / 0x100000)
  else if 0x30000000 ≤ a && a < 0x30900000 then some ((a - 0x30000000) / 0x100000)
  else if 0x38000000 ≤ a && a < 0x3A000000 then some 24
  else if 0x40000000 ≤ a && a < 0x41000000 then some (16 + (a - 0x40000000) / 0x400000)
  else if 0x58000000 ≤ a && a < 0x59000000 then some 26
  else if 0x60000000 ≤ a && a < 0x61000000 then some 25
  else none

/-- A write of 0 to enable bit b is refused (R382). -/
def disableRefused (s : State) (b : Nat) : Bool :=
  if b < 9 then s.laneState b ≠ 0 || s.laneTrans b || s.mode b ≠ 0
  else if b < 20 then (List.range 4).any fun i => s.hostMode (4 * (b - 16) + i) ≠ 0
  else if b = 24 then s.assigned
  else if b = 25 then (List.range 3).any fun p => s.flag F.HWS_PORT_CTRL_EN p
  else (List.range 9).any fun n => s.flag F.LYD_CTRL_TX_EN n || s.flag F.LYD_CTRL_RX_EN n

/-- A knot that is not FREE has an entry in block b. -/
def knotHolds (s : State) (b : Nat) : Bool := s.knt.slots.toList.any fun k => k.held.contains b

/-- Set enable bit b of PWR_BLK_EN. -/
def blkBit (b v : Nat) (s : State) : State :=
  s.setWord R.PWR_BLK_EN (withBits (s.word R.PWR_BLK_EN) b b v)

/-- Block b is disabled: refused, deferred while a knot holds it, or off at once. -/
def blkDisable (b : Nat) (s : State) : State :=
  if disableRefused s b then s.put F.PWR_BLK_EN_EN_REJ 1
  else if knotHolds s b then s.modPwr fun p => { p with disable := b :: p.disable.filter fun x => !(x = b) }
  else
    let s := (blkBit b 0 s).modPwr fun p => { p with enable := p.enable.filter fun x => !(x = b) }
    if b = 24 then coreDown s else s

/-- The disables that waited for a knot, once it has let go. DEDUCED, log 104. -/
def blkDeferred (s : State) : State :=
  let due := s.pwr.disable.filter fun b => !knotHolds s b
  due.foldl (fun s b => blkDisable b (s.modPwr fun p => { p with disable := p.disable.filter fun x => !(x = b) })) s

/-- Block b is enabled: it comes up within 50 µs. -/
def blkEnable (b : Nat) (s : State) : State :=
  (blkBit b 1 s).modPwr fun p => { p with enable := p.enable ++ [b] }

/-- A write of PWR_BLK_EN that the bus has let through. -/
def blkEnWrite (v : Word) (s : State) : State :=
  let s := if v.getLsbD 31 then s.put F.PWR_BLK_EN_EN_REJ 0 else s
  ((List.range 27).filter fun b => b < 9 || (16 ≤ b && b < 20) || 24 ≤ b).foldl (fun s b =>
    let on := (s.word R.PWR_BLK_EN).getLsbD b
    if (b = 8 && !s.l8Present) || s.bst.laneOut.contains b then s
    else if v.getLsbD b then
      let s := s.modPwr fun p => { p with disable := p.disable.filter fun x => !(x = b) }
      if on then s else blkEnable b s
    else if on then blkDisable b s else s) s

/-- The enable bits v of Capstan's engines, with those held out since the start-up test (R403) at 0. -/
def engHeld (s : State) (v : Nat) : Nat :=
  ((List.range 6).filter fun e => v / 2 ^ e % 2 = 1 && !s.bst.engOut.contains e).foldl (fun a e => a + 2 ^ e) 0

/-- A block that has come up again has its registers at their reset values. HOSTBUS and LEADER, which Cleat found at
boot, stay. DEDUCED, log 105. -/
def blkReset (b : Nat) (s : State) : State :=
  let lies := fun (r : RegD) (n : Nat) => decide (blockOf (r.addr n 0) = some b)
  if b < 9 then laneReset b s
  else if b < 20 then eachBelow 4 (fun i s => hostReset (4 * (b - 16) + i) s) s
  else if b = 24 then
    let s := s.resetRegs lies
    let s := (s.modCap fun _ => {}).modWinch fun _ => {}
    let s := coreStart (s.put F.CAP_PWR_ENG_EN (engHeld s (s.get F.CAP_PWR_ENG_EN)))
    if s.active then s.wantStep .core else s
  else if b = 25 then
    let host := s.get F.HWS_GANG_STAT_HOSTBUS
    let s := (s.resetRegs lies).modHws fun h => { sent := h.sent }
    (s.put F.HWS_GANG_STAT_HOSTBUS host).put F.HWS_GANG_STAT_LEADER host
  else
    let s := s.resetRegs lies
    eachBelow 9 (fun n s => s.modLyd n fun _ => {}) s

/-- BLOCK_ENABLE_COMPLETE for the block with enable bit b. -/
def execBlockEnableComplete (b : Fin 27) (s : State) : Host.Outcome State Fault Refusal :=
  if s.pwr.enable.contains b.val then
    .next (blkReset b ((s.modPwr fun p => { p with enable := p.enable.filter fun x => !(x = b.val) })))
  else .next s

/-! ## Supply and resets (R388, R389) -/

/-- POWER_ON: VIN reaches 3.135 V; unpowered: VAON had fallen below its power-on detection level. -/
def execPowerOn (unpowered : Bool) (s : State) : Host.Outcome State Fault Refusal :=
  if s.pwr.vin then .next s
  else
    let s := s.modPwr fun p => { p with vin := true, rcStart := false }
    .next (if unpowered then (s.put F.PWR_RST_CAUSE_CAUSE 1).lifeAdd 2 else s)

/-- MEMS_SETTLE_TIMEOUT: start-up goes on with the RC oscillator. -/
def execMemsSettleTimeout (s : State) : Host.Outcome State Fault Refusal :=
  if s.pwr.held && s.pwr.vin then .next (s.modPwr fun p => { p with rcStart := true }) else .next s

/-- BROWN_OUT: VIN, or VAON alone, has fallen below its threshold. -/
def execBrownOut (vinFell : Bool) (s : State) : Host.Outcome State Fault Refusal :=
  if s.pwr.vin then .next ((s.deviceReset true 2).modPwr fun p => { p with vin := !vinFell }) else .next s

/-- VIN_LOSS: the device is OFF; on the way there VIN has passed the brown-out threshold. DEDUCED, log 106. -/
def execVinLoss (s : State) : Host.Outcome State Fault Refusal :=
  if s.pwr.vin then .next ((s.deviceReset true 2).modPwr fun p => { p with vin := false }) else .next s

/-- An AON reset; one that coincides with a reset already asserted is absorbed (R390). -/
def aonReset (cause : Nat) (s : State) : State :=
  if s.pwr.held || !s.pwr.vin then s else s.deviceReset false cause

/-- AON_WATCHDOG_EXPIRY. -/
def execAonWatchdogExpiry (s : State) : Host.Outcome State Fault Refusal := .next (aonReset 5 s)

/-! ## Accounting and commands (R391, R392) -/

/-- The present power of a block, and its peak since the last report. -/
def acctBlock (k mW : Nat) (s : State) : State :=
  (s.put F.PWR_ACCT_PRESENT mW k).put F.PWR_ACCT_AUX (max (s.get F.PWR_ACCT_AUX k) mW) k

/-- POWER_ACCOUNTING_UPDATE: VIN power in mW and current in mA, and the power of the seven blocks in mW. -/
def execPowerAccountingUpdate (mW mA : BitVec 16) (blocks : Vector (BitVec 16) 7) (s : State) :
    Host.Outcome State Fault Refusal :=
  if s.pwr.held then .next s
  else
    .next (blocks.toList.zipIdx.foldl (fun s p => acctBlock (p.2 + 1) p.1.toNat s)
      ((s.put F.PWR_ACCT_PRESENT mW.toNat 0).put F.PWR_ACCT_AUX mA.toNat 0))

/-- The settings that SET_POWER_STATE names: AUTO, FTH_RET and IDLE. -/
def anchorSet (c : Cmd) (s : State) : State :=
  let s := if c.on 2 1 then s.putB F.PWR_ANCHOR_CFG_AUTO (c.on 2 0) else s
  let s := if c.on 2 3 then s.putB F.PWR_ANCHOR_CFG_FTH_RET (c.on 2 2) else s
  if c.on 2 4 then s.put F.PWR_ANCHOR_CFG_IDLE (c.bits 2 31 16) else s

/-- SET_POWER_STATE. -/
def execSetPowerState (m : MBox) (s : State) : Host.Outcome State Fault Refusal :=
  .next (runCmd 0x06 m (fun c s =>
    let attempt := c.bits 3 0 0 = 1
    if c.on 2 4 && c.bits 2 31 16 < 10 then s.finish c .badLength
    else if attempt && s.cmis.mod ≠ .lowPwr then s.finish c .conflict
    else
      let s := (anchorSet c s).finish c .done
      if attempt then anchorAttempt s else s) s)

/-- The 64 bytes of GET_POWER_ACCOUNTING. -/
def acctBytes (s : State) : List Byte :=
  let ms := fun (ns : Nat) => leBytes 4 (min (ns / 1000000) (2 ^ 32 - 1))
  ((List.range 8).flatMap fun k => leBytes 4 (s.word R.PWR_ACCT k).toNat)
    ++ ms s.pwr.nsAnchor ++ ms s.pwr.nsKeep ++ ms s.pwr.nsActive
    ++ leBytes 2 (s.get F.PWR_REFUSE_CNT_REFUSED) ++ leBytes 2 (s.get F.PWR_REFUSE_CNT_ABORTED)
    ++ leBytes 1 (s.get F.PWR_REFUSE_LAST) ++ leBytes 1 (s.get F.PWR_REFUSE_WAKE) ++ List.replicate 14 0

/-- GET_POWER_ACCOUNTING. -/
def execGetPowerAccounting (m : MBox) (s : State) : Host.Outcome State Fault Refusal :=
  .next (runCmd 0x07 m (fun c s =>
    let s := s.finishStaged c (acctBytes s)
    eachBelow 7 (fun k s => s.put F.PWR_ACCT_AUX 0 (k + 1)) s) s)

end Sys2Proof.Machine
end

