-- ==== Sys2Proof/Machine/Service.lean ====
section
/-! DEFINITION. Sys2Proof/Machine/Service.lean: the built-in self-test in service (R405 to R407), the background write of
a page retirement (R400), and the lifetime ledger (R410). -/

namespace Sys2Proof.Machine

/-! ## Self-test in service -/

/-- The register partition of the block under self-test bit b is off (R405). -/
def bistOff (s : State) (b : Nat) : Bool :=
  if b < 9 then !s.laneOn b
  else if b < 13 then !s.hostOn (4 * (b - 9))
  else if b = 15 then !s.flag F.PWR_BLK_EN_CORE || s.pwr.enable.contains 24
  else if b = 21 then !s.flag F.PWR_BLK_EN_HWS || s.pwr.enable.contains 25
  else false

/-- BIST_RUN with the named blocks is refused with CONFLICT. -/
def bistConflict (s : State) (bits : List Nat) (force : Bool) : Bool :=
  let prot := s.get F.LRX_PROT_STAT_STATE
  !s.bst.left.isEmpty
    || (!force && bits.any fun b =>
      if b < 9 then s.laneState b ≠ 0 || s.laneTrans b
      else b < 13 && (List.range 4).any fun i => s.hostMode (4 * (b - 9) + i) ≠ 0)
    || bits.any (fun b => b < 9 && (match partner b with | some k => 2 ≤ s.laneState k | none => false))
    || (prot ≠ 0 && (bits.contains 8 || bits.contains s.lanes.prot.lane))
    || (bits.contains 20 && (List.range 9).any fun n => 1 ≤ s.laneState n)
    || (bits.contains 21 && (List.range 3).any fun p => s.flag F.HWS_PORT_CTRL_EN p)

/-- A line lane or host quad under test is reset: at the start of its test and at its end (R405, R406). -/
def bistReset (b : Nat) (s : State) : State :=
  if b < 9 then laneReset b s
  else if b < 13 then eachBelow 4 (fun i s => hostReset (4 * (b - 9) + i) s) s
  else s

/-- The next waiting block is isolated. -/
def bistNext (s : State) : State := match s.bst.left with | b :: _ => bistReset b s | [] => s

/-- The tests of these blocks are pending for command c, and the first begins (R405). DESIGN CHOICE, log 112. -/
def bistStart (c : Cmd) (bits : List Nat) (s : State) : State :=
  let s := (s.defer c .bist).put F.BST_STAT_PENDING (c.bits 2 21 0)
  bistNext (s.modBst fun b => { b with cmd := some c.id, left := bits, fail := 0 })

/-- BIST_RUN. -/
def execBistRun (m : MBox) (s : State) : Host.Outcome State Fault Refusal :=
  .next (runCmd 0x90 m (fun c s =>
    let bits := maskLanes 22 (c.bits 2 21 0)
    if bits.any [13, 14, 16, 18].contains then s.finish c .badLength
    else if bistConflict s bits (c.bits 3 0 0 = 1) then s.finish c .conflict
    else if bits.any (bistOff s) then s.finish c .blockOff
    else if bits.isEmpty then s.finish c .done
    else bistStart c bits s) s)

/-- The record of block b's test is kept, and the block is re-initialised (R406). -/
def bistRecord (b : Nat) (rest : List Nat) (failed : Bool) (r : BstRec) (s : State) : State :=
  let s := s.modBst fun x => { x with
    left := rest, fail := x.fail + (if failed then 2 ^ b else 0), recs := x.recs.set (Fin.ofNat 22 b) r }
  bistReset b (s.put F.BST_STAT_PENDING (rest.map fun k => 2 ^ k).sum)

/-- The command is answered with the blocks that failed. -/
def bistAnswer (s : State) : State :=
  let s := s.put F.BST_LAST_FAIL s.bst.fail
  let cmd := s.bst.cmd.bind s.cmdById
  let s := s.modBst fun x => { x with cmd := none }
  match cmd with
  | some c => s.finish c .done s.bst.fail
  | none => s

/-- BIST_BLOCK_DONE: the first waiting block's test ends after the µs given, failed or not, with three measures. -/
def execBistBlockDone (failed : Bool) (us : BitVec 16) (m0 m1 m2 : BitVec 32) (s : State) : Host.Outcome State Fault Refusal :=
  match s.bst.left with
  | [] => .next s
  | b :: rest =>
    let s := bistRecord b rest failed { outcome := if failed then 3 else 1, us := us.toNat, m0 := m0, m1 := m1, m2 := m2 } s
    .next (if rest.isEmpty then bistAnswer s else bistNext s)

/-- The 16 bytes of a self-test record. -/
def BstRec.bytes (b : Nat) (r : BstRec) : List Byte :=
  leBytes 1 b ++ leBytes 1 r.outcome ++ leBytes 2 r.us ++ leBytes 4 r.m0.toNat ++ leBytes 4 r.m1.toNat ++ leBytes 4 r.m2.toNat

/-- The 512-byte lifetime record of the counters given, with its sequence number and CRC-32. -/
def lifeRecord (life : List (Nat × Word)) (seq : Nat) : List Byte :=
  let b := ((List.range 102).flatMap fun w => leBytes 4 (Bank.get life w (0 : Word)).toNat) ++ leBytes 4 seq
  let b := b ++ List.replicate (508 - b.length) 0
  b ++ leBytes 4 (crc32 b)

/-- The records of the 22 tests. -/
def testBytes (s : State) : List Byte := (List.range 22).flatMap fun b => (s.bst.recs[Fin.ofNat 22 b]).bytes b

/-- The use of spare rows and columns, and the state of the ledger. -/
def repairBytes (s : State) : List Byte :=
  let spares := (List.range 64).flatMap fun k =>
    let u := Bank.get s.bst.spares k (0, 0)
    leBytes 1 u.1 ++ leBytes 1 u.2
  spares ++ leBytes 2 s.bst.ledger.length ++ leBytes 2 s.ecc.retired.length ++ leBytes 4 s.bst.ledgerSeq
    ++ List.replicate 120 0

/-- BIST_RESULT. -/
def execBistResult (m : MBox) (s : State) : Host.Outcome State Fault Refusal :=
  .next (runCmd 0x91 m (fun c s =>
    match c.bits 2 1 0 with
    | 0 => s.finishStaged c (testBytes s)
    | 1 => s.finishStaged c (repairBytes s)
    | 2 => s.finishStaged c (lifeRecord s.bst.lifeSaved s.bst.lifeSeq)
    | _ => s.finish c .badLength) s)

/-! ## Ledgers -/

/-- RETIRE_LEDGER_WRITTEN: the record of the oldest retirement not yet in the ledger is in flash. -/
def execRetireLedgerWritten (s : State) : Host.Outcome State Fault Refusal :=
  match s.ecc.ledgerPending with
  | [] => .next s
  | e :: rest =>
    let page := s.ecc.retired.getD e 0 * 0x1000
    let s := s.modEcc fun x => { x with ledgerPending := rest }
    .next (s.ledgerAppend (ledgerRecord s 3 ((page - 0x80000000) / 0x80000) e page))

/-- The temperature bin of the hottest die sensor (inputs 53 to 58, 1/256 °C). -/
def tempBin (s : State) : Nat :=
  let ts := (List.range 6).map fun i => s.geti F.MON_IN_RES_VALUE (53 + i)
  let t := ts.foldl max (ts.headD 0)
  if t < 0 then 0 else min 13 (1 + (t / 2560).toNat)

/-- One minute more in each of the lifetime record's counters that it falls under (R410). -/
def lifeMinute (s : State) : State :=
  let s := s.lifeAdd 0
  let s := if s.active then s.lifeAdd 1 else s
  let s := s.lifeAdd (4 + tempBin s)
  eachBelow 9 (fun n s =>
    if 1 ≤ s.laneState n then s.lifeAdd (18 + 8 * n + min 7 (s.get F.MON_IN_RES_VALUE (18 + n) / 2500)) else s) s

/-- LIFETIME_MINUTE: minutes with VIN valid, in ACTIVE, at temperature, and at bias for each lane in BIAS or higher, LB
sense being in 8 µA. -/
def execLifetimeMinute (s : State) : Host.Outcome State Fault Refusal :=
  if s.pwr.held then .next s
  else
    .next ((lifeMinute s).modBst fun b => { b with lifeAge := b.lifeAge + 1 })

/-- The next record of the ring is appended. -/
def lifeAppend (s : State) : State :=
  let seq := s.bst.lifeSeq + 1
  let s := s.flashWrite (0xE80000 + s.bst.lifePos % 3072 * 512) (lifeRecord s.bst.life seq)
  s.modBst fun b => { b with lifeSaved := b.life, lifeSeq := seq, lifePos := (b.lifePos + 1) % 3072, lifeAge := 0 }

/-- LIFETIME_RECORD_APPEND: every 60 minutes and at ModulePwrDn, the next record of the ring. -/
def execLifetimeRecordAppend (s : State) : Host.Outcome State Fault Refusal :=
  if 60 ≤ s.bst.lifeAge || s.cmis.mod = .pwrDn then .next (lifeAppend s) else .next s

end Sys2Proof.Machine
end

