-- ==== Sys2Proof/Machine/Hawser.lean ====
section
/-! DEFINITION. Sys2Proof/Machine/Hawser.lean: Hawser ports and their bring-up, frames and their channels, discovery and
topology, the time discipline of a follower, and the power-grant wires (R412 to R426, R431 to R433, R438, R439). -/

namespace Sys2Proof.Machine

/-! ## What a device says of itself (R418, R442) -/

/-- This device is a leader: a host bus is connected (R423). -/
def State.leads (s : State) : Bool := s.flag F.HWS_GANG_STAT_HOSTBUS

/-- The gang identifier: the leader's serial, or the device's own while it is alone. -/
def State.gangId (s : State) : BitVec 64 := s.hws.leader.getD s.fw.serial

/-- Version of the running Rigger image, as a word; and of the Cleat ROM. -/
def State.riggerWord (s : State) : Word := BitVec.ofNat 32 (leVal s.riggerVersion)

/-- The 32 bytes of CAPS. -/
def capsBytes (s : State) : List Byte :=
  let bit := fun (b : Bool) (i : Nat) => b.toNat * 2 ^ i
  leBytes 8 s.fw.serial.toNat ++ leBytes 4 s.fw.rom.toNat ++ s.riggerVersion
    ++ leBytes 4 (s.word R.HWS_GANG_EPOCH).toNat ++ leBytes 8 s.gangId.toNat
    ++ leBytes 1 (bit s.leads 0 + bit (s.flag F.HWS_GANG_STAT_LEADER) 1 + bit (s.flag F.HWS_GANG_STAT_QUARANTINE) 2
        + bit (s.flag F.HWS_GANG_STAT_TIME_SUSPECT) 3 + bit (s.flag F.HWS_GANG_STAT_DIVERGED) 4)
    ++ leBytes 1 s.hwIndex ++ leBytes 2 (s.get F.HWS_DISC_STAT_EPOCH)

/-- TOL in ns and SYNC_PER in ms as they act. -/
def State.tol (s : State) : Nat := max 50 (min 500 (s.get F.HWS_TIME_CFG_TOL))
def State.syncPer (s : State) : Nat := max 1 (min 100 (s.get F.HWS_TIME_CFG_SYNC_PER))

/-- The depth alone makes the device TIME_SUSPECT: 2 ns × depth > TOL (R433). -/
def State.tooDeep (s : State) : Bool := s.tol < 2 * s.get F.HWS_GANG_STAT_DEPTH

/-- Ports ACTIVE and STANDBY as bits (byte 30 of R442). -/
def portBits (s : State) : Byte :=
  let f := fun (standby : Bool) => ((List.range 3).filter fun p =>
    s.get F.HWS_PORT_STAT_STATE p = 5 && s.flag F.HWS_PORT_STAT_STANDBY p = standby).map fun p => 2 ^ p
  BitVec.ofNat 8 ((f false).sum + 8 * (f true).sum)

/-- The device's STATUS. -/
def ownStatus (s : State) : HwStatus :=
  { caps := capsBytes s, digest := s.word R.HWS_GANG_DIGEST, e := s.get F.HWS_TIME_STAT_E
    suspect := s.flag F.HWS_GANG_STAT_TIME_SUSPECT, suspectDepth := s.tooDeep, diverged := s.flag F.HWS_GANG_STAT_DIVERGED
    ports := portBits s, depth := s.get F.HWS_GANG_STAT_DEPTH
    up := if s.leads then 0xFF else match s.get F.HWS_DISC_STAT_UP_PORT with
      | 3 => 0xFF
      | p => s.get F.HWS_PORT_STAT_PEER_IDX p }

/-- A report to the leader: a follower of a gang sends STATUS; at the leader the change itself is a topology report
where topo says so (R426). DEDUCED, log 115. -/
def State.hwReport (s : State) (topo : Bool) : State :=
  if s.leads then (if topo then s.modHws fun h => { h with report := true } else s)
  else if s.hws.leader.isSome then s.hwSendTo 0 (.status (ownStatus s))
  else s

/-! ## Discovery (R424, R426) -/

/-- A port that discovery may use. -/
def State.portOpen (s : State) (p : Nat) : Bool :=
  s.get F.HWS_PORT_STAT_STATE p = 5 && !s.flag F.HWS_PORT_STAT_BLOCKED p

/-- The upstream path of gang index i, from the records given. -/
def upPath (l : List Member) (fuel i : Nat) : List Nat :=
  match fuel with
  | 0 => []
  | fuel + 1 => match l.find? fun r => r.idx = i with
    | some r => i :: (if r.up = 0xFF then [] else upPath l fuel r.up)
    | none => [i]

/-- Commands forwarded to members that p names complete with PEER_LOST (R426, R429). -/
def forwardsLost (p : Nat → Bool) (s : State) : State :=
  let lost := s.hws.forwards.filter fun f => p f.target
  let s := s.modHws fun h => { h with forwards := h.forwards.filter fun f => !p f.target
                                      reloads := h.reloads.filter fun r => !p r.target }
  let s := lost.foldl (fun s f => match s.cmdById f.cmd with | some c => s.finish c .peerLost | none => s) s
  let pushes := s.mbx.outstanding.filter fun c => match c.stage with
    | .executing (.gangPush l) => l.any p
    | .executing (.gangReload i) => p i
    | _ => false
  pushes.foldl (fun s c => s.finish c .peerLost) s

/-- A participant that the members of a run no longer list will not report any more (R342). -/
def KPart.left (now : List Member) (x : KPart) : KPart :=
  if now.any fun r => r.idx = x.idx then x else { x with diverged := !x.applied }

/-- The knots' participants after a run. -/
def partsGone (now : List Member) (s : State) : State :=
  { s with
    knt := { s.knt with
      slots := s.knt.slots.map fun k => { k with parts := k.parts.map (KPart.left now) } } }

/-- The leader's run ends: size, SPLIT and OVERSIZE, the comparison with the run before, and the commands that wait. -/
def runEnds (next : Nat) (s : State) : State :=
  let before := s.hws.before
  let now := s.hws.members.filter fun r => r.idx < next
  let s := s.modHws fun h => { h with disc := none, members := now }
  let s := partsGone now s
  let s := (s.put F.HWS_GANG_STAT_SIZE next).put F.HWS_DISC_STAT_SUB_HI (next - 1)
  let s := s.putB F.HWS_GANG_STAT_OVERSIZE s.hws.metFull
  let was := s.flag F.HWS_GANG_STAT_SPLIT
  let s := s.putB F.HWS_GANG_STAT_SPLIT s.hws.metOther
  let s := if s.hws.metOther && !was then s.post 0x88 else s
  let s := before.foldl (fun s r => if now.any fun q => q.serial = r.serial then s else s.post 0x84 0xF r.idx) s
  let s := now.foldl (fun s r =>
    if before.any fun q => q.serial = r.serial then s else s.post 0x83 0xF (r.idx + r.depth * 256)) s
  let s := forwardsLost (fun i =>
    (now.find? fun r => r.idx = i).map Member.serial ≠ (before.find? fun r => r.idx = i).map Member.serial
      || upPath now 128 i ≠ upPath before 128 i) s
  let s := s.post 0x89 0xF (next + s.get F.HWS_DISC_STAT_EPOCH * 256)
  s.finishWhere (fun w => w = .gangRediscover) .done

/-- The next port of a run gets its ASSIGN; after the last, a member answers its upstream port and the leader's run
ends. -/
def discNext (fuel : Nat) (s : State) : State :=
  match fuel, s.hws.disc with
  | fuel + 1, some d =>
    match d.ports with
    | p :: rest =>
      if s.portOpen p then
        let s := s.modHws fun h => { h with disc := some { d with ports := rest, await := some p } }
        s.hwEmit p s.hwIndex 0 (s.get F.HWS_GANG_STAT_DEPTH)
          (.assign d.next s.gangId (BitVec.ofNat 16 (s.get F.HWS_DISC_STAT_EPOCH)))
      else discNext fuel (s.modHws fun h => { h with disc := some { d with ports := rest } })
    | [] =>
      if s.leads then runEnds d.next s
      else
        let s := (s.modHws fun h => { h with disc := none }).put F.HWS_DISC_STAT_SUB_HI (d.next - 1)
        s.hwEmit (s.get F.HWS_DISC_STAT_UP_PORT) s.hwIndex 0 0 (.done (.done d.next))
  | _, _ => s

/-- STANDBY links and subtrees of the last run are forgotten. -/
def runClear (s : State) : State :=
  eachBelow 3 (fun p s => (s.put F.HWS_PORT_STAT_STANDBY 0 p).modPort p fun t => { t with child := none }) s

/-- The leader starts a run. -/
def discStart (s : State) : State :=
  if !s.leads then s
  else
    let s := (runClear s).incWrap F.HWS_DISC_STAT_EPOCH
    let s := (s.put F.HWS_GANG_STAT_LEADER 1).modHws fun h => { h with
      disc := some { ports := [0, 1, 2], await := none, next := 1 }, metOther := false, metFull := false, report := false
      before := h.members, members := [], leader := some s.fw.serial }
    discNext 8 s

/-- DISCOVERY_DELAY_EXPIRY: 1 ms after the last topology report. -/
def execDiscoveryDelayExpiry (s : State) : Host.Outcome State Fault Refusal :=
  if s.leads && s.hws.report && s.hws.disc.isNone then .next (discStart s) else .next s

/-- An ASSIGN arrives on port u: a fresh index, or LOOP, OTHER or FULL. DESIGN CHOICE, log 113. -/
def assignIn (u next : Nat) (leader : BitVec 64) (e : BitVec 16) (hops : Nat) (s : State) : State :=
  let reply := fun (r : AssignReply) (s : State) => s.hwEmit u s.hwIndex 0 0 (.done r)
  let mine := s.get F.HWS_DISC_STAT_EPOCH = e.toNat
  if mine && s.hws.leader = some leader then reply .loop (s.put F.HWS_PORT_STAT_STANDBY 1 u)
  else if s.leads || (mine && s.hws.leader.isSome) then
    -- the leader of this side learns of the meeting (R436)
    let s := reply .other (s.put F.HWS_PORT_STAT_BLOCKED 1 u)
    if s.leads then (if s.flag F.HWS_GANG_STAT_SPLIT then s else (s.put F.HWS_GANG_STAT_SPLIT 1).post 0x88)
    else s.hwSendTo 0 (.done .other)
  else if 127 < next then reply .full s
  else
    let s := (runClear s).put F.HWS_GANG_STAT_INDEX next
    let s := (s.put F.HWS_DISC_STAT_UP_PORT u).put F.HWS_DISC_STAT_EPOCH e.toNat
    let (size, s) := s.free 19
    let s := (s.put F.HWS_GANG_STAT_DEPTH (hops + 1)).put F.HWS_GANG_STAT_SIZE (size.toNat % 128 + 1)
    let s := s.modHws fun h => { h with
      leader := some leader, t1 := none, disc := some { ports := [0, 1, 2].filter fun p => p ≠ u, await := none, next := next + 1 } }
    let s := if s.flag F.HWS_TIME_STAT_LOCKED && !s.tooDeep then s else s.put F.HWS_GANG_STAT_TIME_SUSPECT 1
    discNext 8 (s.hwReport false)

/-- A reply to the ASSIGN that port p awaits; one that has been passed on to the leader of a gang only informs it.
DEDUCED, log 116. -/
def doneIn (p : Nat) (r : AssignReply) (s : State) : State :=
  let note := fun (s : State) => match r with
    | .other => if s.leads then s.modHws fun h => { h with metOther := true } else s.hwSendTo 0 (.done .other)
    | .full => if s.leads then s.modHws fun h => { h with metFull := true } else s.hwSendTo 0 (.done .full)
    | _ => s
  match s.hws.disc with
  | some d =>
    if d.await = some p then
      let s := note s
      let go := fun (next : Nat) (s : State) =>
        discNext 8 (s.modHws fun h => { h with disc := some { d with await := none, next := next } })
      match r with
      | .done n =>
        go n (s.modPort p fun t => { t with child := if d.next < n then some (d.next, n - 1) else none })
      | .loop => go d.next (s.put F.HWS_PORT_STAT_STANDBY 1 p)
      | .other => go d.next (s.put F.HWS_PORT_STAT_BLOCKED 1 p)
      | .full => go d.next s
    else note s
  | none =>
    let s := note s
    if s.leads && r = .other && !s.flag F.HWS_GANG_STAT_SPLIT then (s.put F.HWS_GANG_STAT_SPLIT 1).post 0x88 else s

/-! ## Port states (R415 to R418) -/

/-- The device is alone: index 0, gang size 1, no upstream port. -/
def hwAlone (s : State) : State :=
  let s := (s.put F.HWS_GANG_STAT_INDEX 0).put F.HWS_GANG_STAT_SIZE 1
  let s := ((s.put F.HWS_GANG_STAT_DEPTH 0).put F.HWS_DISC_STAT_UP_PORT 3).put F.HWS_DISC_STAT_SUB_HI 0
  (runClear (s.put F.HWS_GANG_STAT_QUARANTINE 0)).modHws fun h => { h with
    leader := none, disc := none, t1 := none, majors := none }

/-- Port p leaves its state for DETECT (1) or DISABLED (0). -/
def portDown (p to_ : Nat) (s : State) : State :=
  let was := s.get F.HWS_PORT_STAT_STATE p
  let s := (s.put F.HWS_PORT_STAT_STATE to_ p).modPort p fun _ => {}
  let s := (s.put F.HWS_PORT_STAT_BLOCKED 0 p).put F.HWS_PORT_STAT_STANDBY 0 p
  let s := s.modHws fun h => { h with
    inbox := h.inbox.filter fun x => x.1 ≠ p
    parts := h.parts.filter fun x => x.1 ≠ p
    staged := h.staged.filter fun x => x.1 ≠ p }
  if was = 5 then
    let s := (s.put F.HWS_PORT_STAT_CHG 1 p).addSat F.HWS_PORT_STAT_DOWN_COUNT 1 p
    if !s.leads && s.hws.leader.isSome && s.get F.HWS_DISC_STAT_UP_PORT = p then hwAlone s
    else
      let s := s.hwReport true
      match s.hws.disc with
      | some d => if d.await = some p then discNext 8 (s.modHws fun h => { h with disc := some { d with await := none } }) else s
      | none => s
  else s

/-- The FIR taps in use follow the control register in manual mode (R417). -/
def firManual (p : Nat) (s : State) : State :=
  if s.flag F.HWS_PORT_CTRL_FIR_MAN p then
    (s.put F.HWS_PORT_FIR_PRE (min 8 (s.get F.HWS_PORT_CTRL_PRE p)) p).put F.HWS_PORT_FIR_POST
      (min 20 (s.get F.HWS_PORT_CTRL_POST p)) p
  else s

/-- A write of HWS_PORTp_CTRL: EN, RETRAIN and the manual taps (R416, R417). -/
def hwsCtrlWrite (p : Nat) (v : Word) (s : State) : State :=
  let was := s.flag F.HWS_PORT_CTRL_EN p
  let s := firManual p (s.writePlain R.HWS_PORT_CTRL v p)
  let on := s.flag F.HWS_PORT_CTRL_EN p
  if was && !on then portDown p 0 s
  else if !was && on then s.put F.HWS_PORT_STAT_STATE 1 p
  else if on && bitsOf v 1 1 = 1 && s.get F.HWS_PORT_STAT_STATE p ≠ 1 then portDown p 1 s
  else s

/-- HAWSER_DETECT_PULSE: the load is found; in ANCHOR that is wake event 0x4, and the port trains once awake. -/
def execHawserDetectPulse (p : Port) (load : Bool) (s : State) : Host.Outcome State Fault Refusal :=
  if s.get F.HWS_PORT_STAT_STATE p = 1 && load then
    let s := edgeWake 4 s
    if s.mgmtOn then .next (s.put F.HWS_PORT_STAT_STATE 2 p) else .next s
  else .next s

/-- One requested step of a tap with the limit given: hold, rise or fall; and whether it met the limit. -/
def tapStep (limit x : Nat) (ask : Fin 3) : Nat × Bool :=
  match ask with
  | 0 => (x, false)
  | 1 => if x < limit then (x + 1, false) else (x, true)
  | _ => if 0 < x then (x - 1, false) else (x, true)

/-- The transmitter of port p takes the steps its peer asks for, unless its taps are manual (R417). -/
def trainStep (p : Port) (pre post : Fin 3) (s : State) : State :=
  if s.flag F.HWS_PORT_CTRL_FIR_MAN p then s
  else
    let a := tapStep 8 (s.get F.HWS_PORT_FIR_PRE p) pre
    let b := tapStep 20 (s.get F.HWS_PORT_FIR_POST p) post
    ((s.put F.HWS_PORT_FIR_PRE a.1 p).put F.HWS_PORT_FIR_POST b.1 p).putB F.HWS_PORT_FIR_AT_LIMIT (a.2 || b.2) p

/-- This end's next training set asks for at most 64 steps, echoes its own taps, and says when it needs no more (R417). -/
def trainAsk (p : Port) (done : Bool) (askPre askPost : Fin 3) (s : State) : State :=
  let t := s.hwPort p
  let asks := !t.mine && t.requests < 64 && !(askPre = 0 && askPost = 0)
  let s := s.modPort p fun t => { t with
    requests := t.requests + asks.toNat, mine := t.mine || !asks, theirs := t.theirs || done }
  s.hwEmit p 0 0 0 (.training (if asks then askPre else 0) (if asks then askPost else 0) (s.get F.HWS_PORT_FIR_PRE p)
    (s.get F.HWS_PORT_FIR_POST p) (s.hwPort p).mine (s.flag F.HWS_PORT_FIR_AT_LIMIT p))

/-- TRAINING_SET_RX: the peer asks for PRE and POST steps of this end's transmitter and reports done or not; askPre and
askPost are what this end's receiver asks of the peer next, hold for both once its eye improves no more. -/
def execTrainingSetRx (p : Port) (pre post : Fin 3) (done : Bool) (askPre askPost : Fin 3) (s : State) :
    Host.Outcome State Fault Refusal :=
  if s.get F.HWS_PORT_STAT_STATE p ≠ 2 then .next s
  else
    let s := trainAsk p done askPre askPost (trainStep p pre post s)
    .next (if (s.hwPort p).mine && (s.hwPort p).theirs then s.put F.HWS_PORT_STAT_STATE 3 p else s)

/-- HAWSER_SYMBOL_LOCK: CAPS goes out. -/
def execHawserSymbolLock (p : Port) (s : State) : Host.Outcome State Fault Refusal :=
  if s.get F.HWS_PORT_STAT_STATE p = 3 then
    let s := (s.put F.HWS_PORT_STAT_STATE 4 p).put F.HWS_PORT_STAT_LOL 0 p
    .next (s.hwEmit p s.hwIndex 0 0 (.caps (capsBytes s)))
  else .next s

/-- A port whose CAPS has arrived and whose own has been credited becomes ACTIVE. -/
def portActive (p : Nat) (s : State) : State :=
  if s.get F.HWS_PORT_STAT_STATE p = 4 && (s.hwPort p).capsIn && (s.hwPort p).creditIn then
    ((s.put F.HWS_PORT_STAT_STATE 5 p).put F.HWS_PORT_STAT_CHG 1 p).hwReport true
  else s

/-- The peer's capabilities l: its serial number and index; the device's own serial number blocks the port (R418).
DEDUCED, log 117. -/
def capsTaken (p : Port) (l : List Byte) (s : State) : State :=
  let lo := leVal (l.take 4)
  let hi := leVal ((l.drop 4).take 4)
  let s := s.modPort p fun t => { t with caps := l, capsIn := true }
  let s := (s.setWord R.HWS_PORT_SER (BitVec.ofNat 32 lo) p 0).setWord R.HWS_PORT_SER (BitVec.ofNat 32 hi) p 1
  let s := s.put F.HWS_PORT_STAT_PEER_IDX (leVal ((l.drop 29).take 1)) p
  s.putB F.HWS_PORT_STAT_BLOCKED (lo + hi * 2 ^ 32 = s.fw.serial.toNat) p

/-- CAPS_RX: the peer's 32 bytes; one that bears the device's own serial blocks the port. Credits for the 16 buffers of
each reliable channel go out. -/
def execCapsRx (p : Port) (caps : Vector Byte 32) (s : State) : Host.Outcome State Fault Refusal :=
  if s.get F.HWS_PORT_STAT_STATE p ≠ 4 then .next s
  else
    let s := capsTaken p caps.toList s
    .next (portActive p ((s.hwEmit p s.hwIndex 0 0 (.link 0 16 none)).hwEmit p s.hwIndex 0 0 (.link 1 16 none)))

/-- HAWSER_STATE_TIMEOUT: TRAIN, LOCK or CAPS has lasted its limit. -/
def execHawserStateTimeout (p : Port) (s : State) : Host.Outcome State Fault Refusal :=
  let st := s.get F.HWS_PORT_STAT_STATE p
  if 2 ≤ st && st ≤ 4 then
    .next (portDown p 1 (if st = 2 then s.addSat F.HWS_PORT_STAT_TRAIN_FAIL 1 p else s))
  else .next s

/-- HAWSER_LOS. -/
def execHawserLos (p : Port) (s : State) : Host.Outcome State Fault Refusal :=
  let st := s.get F.HWS_PORT_STAT_STATE p
  let s := s.put F.HWS_PORT_STAT_LOS 1 p
  .next (if 3 ≤ st then portDown p 1 s else s)

/-- HAWSER_LOS_DEASSERT. -/
def execHawserLosDeassert (p : Port) (s : State) : Host.Outcome State Fault Refusal :=
  .next (s.put F.HWS_PORT_STAT_LOS 0 p)

/-- LOL of port p. -/
def hwLol (p : Nat) (s : State) : State :=
  let st := s.get F.HWS_PORT_STAT_STATE p
  let s := s.put F.HWS_PORT_STAT_LOL 1 p
  if 3 ≤ st then portDown p 1 s else s

/-- One instant of the line of port p: a code group comes in at the recovered clock, or the local clock takes a symbol out
of the elastic buffer. -/
def lineTick (p : Nat) (g : Option (BitVec 10)) (s : State) : State :=
  match g with
  | some g =>
    let (t, err) := (s.hwPort p).groupIn g
    let s := s.modPort p fun _ => t
    if err then (s.addSat F.HWS_PORT_ERR_COUNT 1 p).perf 0xF3 else s
  | none =>
    let (x, t) := (s.hwPort p).symbolOut
    let (l, t) := match x with | some x => t.frameStep x | none => (none, t)
    let s := s.modPort p fun _ => t
    if l.any frameUnknown then s.addSat F.HWS_DROP_UNROUTABLE 1 else s

/-- The line of port p over these instants, and whether its lock was lost on the way (R415). -/
def lineTicks (p : Nat) (cdr : Bool) (l : List (Option (BitVec 10))) (s : State) : State × Bool :=
  l.foldl (fun x g =>
    let s := lineTick p g x.1
    (s, x.2 || (s.hwPort p).lost)) (s, cdr)

/-- HAWSER_LOL: what the line of port p has brought since the command before; cdr says that the CDR has lost lock. Lock is
lost with it, with code errors in excess, or without commas. DEDUCED, log 119. -/
def execHawserLol (p : Port) (l : LineReport) (s : State) : Host.Outcome State Fault Refusal :=
  let (s, lost) := if s.get F.HWS_PORT_STAT_STATE p = 0 then (s, l.cdr) else lineTicks p l.cdr l.groups s
  .next (if lost then hwLol p s else s)

/-! ## Frames (R419 to R422, R425) -/

/-- Port p carries frames; control frames of one hop pass a STANDBY link. -/
def portCarries (s : State) (p : Nat) (oneHop : Bool) : Bool :=
  s.portOpen p && (oneHop || !s.flag F.HWS_PORT_STAT_STANDBY p)

/-- A frame whose route is missing is discarded and counted; of a discarded MSG the source hears PEER_LOST (R425). -/
def hwDrop (h : HwHdr) (m : HwMsg) (s : State) : State :=
  let s := s.addSat F.HWS_DROP_UNROUTABLE 1
  match m with
  | .msg bytes true _ =>
    let c : Cpl := { w0 := BitVec.ofNat 32 (leVal (bytes.take 4)), status := .peerLost, orig := .peerLost, epoch := s.fw.epoch,
                     result := 0, final := true, m := 0, seq := 0 }
    s.hwSendTo h.src (.completion c [] true true)
  | _ => s

/-- A frame goes on towards index d (R422). -/
def hwForward (h : HwHdr) (m : HwMsg) (s : State) : State :=
  match s.hwRoute h.dst with
  | some p => (s.hwEmit p h.src h.dst (h.hops + 1) m).perf 0xF2
  | none => hwDrop h m s

/-- A broadcast from the leader is copied to every child port. -/
def hwCopy (h : HwHdr) (m : HwMsg) (s : State) : State :=
  eachBelow 3 (fun p s =>
    if (s.hwPort p).child.isSome && s.hwUp p then (s.hwEmit p h.src h.dst (h.hops + 1) m).perf 0xF2 else s) s

/-- The leader's broadcast. -/
def hwBroadcast (m : HwMsg) (s : State) : State :=
  eachBelow 3 (fun p s => if (s.hwPort p).child.isSome && s.hwUp p then s.hwEmit p 0 128 0 m else s) s

/-- A frame on port p is whole and, on a reliable channel, the next in sequence. -/
def hwTakes (s : State) (p : Nat) (h : HwHdr) (m : HwMsg) : Bool :=
  portCarries s p false && h.good && match m.chan with
    | none => true
    | some ack => h.lseq = ((s.hwPort p).chan ack).rxSeq

/-- A frame arrives on port p: a bad one, or one out of sequence, is asked for again on a reliable channel and lost on
control; a good one is delivered, copied or forwarded. keep says that its buffer stays in use. -/
def hwArrive (p : Nat) (h : HwHdr) (m : HwMsg) (deliver : State → State) (keep : State → Bool) (s : State) : State :=
  if !portCarries s p false then s
  else
    let route := fun (s : State) =>
      if h.dst = 128 then hwCopy h m (deliver s)
      else if h.dst = s.hwIndex then deliver s
      else hwForward h m s
    match m.chan with
    | none => if hwTakes s p h m then route s else s
    | some ack =>
      if !hwTakes s p h m then s.hwEmit p s.hwIndex 0 0 (.link ack.toNat 0 (some ((s.hwPort p).chan ack).rxSeq))
      else
        let kept := h.dst = s.hwIndex && keep s
        let s := s.modPort p fun t => t.modChan ack fun c => { c with rxSeq := c.rxSeq + 1 }
        let s := route s
        if kept then s else s.hwEmit p s.hwIndex 0 0 (.link ack.toNat 1 none)

/-- The credits of a channel come in and the frames that waited for them go out (R421). DEDUCED, log 117. -/
def creditsIn (p : Port) (ack : Bool) (credits : Nat) (s : State) : State :=
  let waiting := ((s.hwPort p).chan ack).waiting
  let s := s.modPort p fun t => { t.modChan ack fun c => { c with
    credits := min 16 (c.credits + credits), tries := 0, waiting := [] } with
    creditIn := true }
  waiting.foldl (fun s x => s.hwReliable ack x) s

/-- The frames from LSEQ q on are sent again and counted (R421). DEDUCED, log 117. -/
def replayFrom (p : Port) (ack : Bool) (credits : Nat) (q : Byte) (s : State) : State :=
  let again := ((s.hwPort p).chan ack).replay.dropWhile fun x => x.lseq ≠ q
  let s := again.foldl State.hwLine s
  let s := s.addSat F.HWS_PORT_REPLAY_COUNT again.length p
  s.modPort p fun t => t.modChan ack fun c => { c with tries := c.tries + 1, credits := min 16 (c.credits + credits) }

/-- LINK_FRAME_RX: credits of a channel, after which waiting frames go out; or a replay from an LSEQ on, whose eighth in
a row without success counts as a loss of lock (R421). -/
def execLinkFrameRx (p : Port) (ack : Bool) (credits : Fin 17) (replay : Option Byte) (s : State) :
    Host.Outcome State Fault Refusal :=
  let st := s.get F.HWS_PORT_STAT_STATE p
  if st < 4 || s.flag F.HWS_PORT_STAT_BLOCKED p then .next s
  else
    match replay with
    | none => .next (portActive p (creditsIn p ack credits s))
    | some q =>
      let tries := ((s.hwPort p).chan ack).tries + 1
      .next (if 8 ≤ tries then hwLol p (replayFrom p ack credits q s) else replayFrom p ack credits q s)

/-- ASSIGN_RX on port u. -/
def execAssignRx (u : Port) (next : Fin 256) (leader : BitVec 64) (e : BitVec 16) (hops : Fin 128) (s : State) :
    Host.Outcome State Fault Refusal :=
  if s.portOpen u then .next (assignIn u next leader e hops s) else .next s

/-- DONE_RX on port p. -/
def execDoneRx (p : Port) (r : AssignReply) (s : State) : Host.Outcome State Fault Refusal :=
  if s.portOpen p then .next (doneIn p r s) else .next s

/-! ## Time discipline (R431 to R433) -/

/-- The upstream port of a follower, while it can exchange time. -/
def State.upstream (s : State) : Option Nat :=
  let p := s.get F.HWS_DISC_STAT_UP_PORT
  if !s.leads && p < 3 && portCarries s p true then some p else none

/-- TIME_SUSPECT as the exchange leaves it: set at once, cleared after 16 good exchanges in a row. -/
def suspectEval (good : Bool) (s : State) : State :=
  let was := s.flag F.HWS_GANG_STAT_TIME_SUSPECT
  let s := s.modHws fun h => { h with clear := if good then h.clear + 1 else 0 }
  let s := if !good then s.put F.HWS_GANG_STAT_TIME_SUSPECT 1
    else if 16 ≤ s.hws.clear then s.put F.HWS_GANG_STAT_TIME_SUSPECT 0 else s
  if was = s.flag F.HWS_GANG_STAT_TIME_SUSPECT then s else s.hwReport false

/-- An exchange without its answer is missed, and the fourth makes the time suspect. -/
def syncMissed (s : State) : State :=
  if s.hws.t1.isSome then
    let s := s.addSat F.HWS_TIME_STAT_MISSED 1
    if 4 ≤ s.get F.HWS_TIME_STAT_MISSED then suspectEval false s else s
  else s

/-- SYNC_PERIOD: an unanswered exchange counts as missed, and a new one starts. -/
def execSyncPeriod (s : State) : Host.Outcome State Fault Refusal :=
  match s.upstream with
  | none => .next s
  | some p =>
    let s := syncMissed s
    .next ((s.modHws fun h => { h with t1 := some s.tod }).hwEmit p s.hwIndex 0 0 .syncReq)

/-- SYNC_REQ_RX on port p, answered after the delay given, in 1/65,536 ns. -/
def execSyncReqRx (p : Port) (delay : BitVec 32) (s : State) : Host.Outcome State Fault Refusal :=
  if portCarries s p true then
    .next (s.hwEmit p s.hwIndex 0 0 (.syncResp s.tod (s.tod + Int.ofNat delay.toNat) s.hws.e s.coarse s.timeInvalid))
  else .next s

/-- The servo's step for theta (R432): a step of the clock beyond 1,000 ns, else a rate, to whose nearest codes the
quotient may round. -/
def servo (theta : Int) (s : State) : State :=
  if 65536000 < theta.natAbs then
    let s := s.modHws fun h => { h with integ := 0, rate0 := s.rate, close := 0, stepped := true }
    (s.put F.HWS_TIME_STAT_LOCKED 0).requestTime { step := some theta } false none
  else
    let s := s.modHws fun h => { h with integ := h.integ + theta }
    -- (theta / 4 + integ / 64) / sync_per, both in 1/65,536 ns
    let per : Int := Int.ofNat s.syncPer * 65536000000
    let num := Int.ofNat s.hws.rate0 * (64 * per + 16 * theta + s.hws.integ)
    let (r, s) := s.freeRound 20 num (64 * per)
    let close := if theta.natAbs ≤ 131072 then s.hws.close + 1 else 0
    let s := s.modHws fun h => { h with close := close }
    let s := if 16 ≤ close then s.put F.HWS_TIME_STAT_LOCKED 1 else s
    if rateOk r.toNat then s.requestTime { rate := some r.toNat } false none else s.put F.TIM_STAT_RATE_REJ 1

/-- theta of an exchange that ends now: half of what the two directions differ by, with the port's compensation (R431). -/
def syncTheta (p : Port) (t1 t2 t3 : Int) (s : State) : Int :=
  roundHalfEven ((t2 - t1) - (s.tod - t3) + (s.word R.HWS_PORT_COMP p).toInt) 2

/-- theta is shown and the servo applies it; once it has stepped, the leader's flags hold here too (R432).
DESIGN CHOICE, log 114. -/
def syncServo (theta : Int) (coarse invalid : Bool) (s : State) : State :=
  let s := s.put F.HWS_TIME_THETA_THETA (unsigned 32 (clamp (-(2 ^ 31)) (2 ^ 31 - 1) theta))
  let s := servo theta ((s.put F.HWS_TIME_STAT_MISSED 0).modHws fun h => { h with t1 := none })
  if s.hws.stepped then ppsGate ((s.putB F.TIM_STAT_TIME_COARSE coarse).putB F.TIM_STAT_TIME_INVALID invalid) else s

/-- The error bound: the upstream device's plus the larger of |theta| and 2 ns (R433). -/
def syncBound (theta : Int) (e : Nat) (s : State) : State :=
  let bound := e + max theta.natAbs 131072
  let s := s.modHws fun h => { h with upE := e, e := bound }
  let (shown, s) := s.freeRound 21 (Int.ofNat bound * 10) 65536
  s.put F.HWS_TIME_STAT_E (min 0xFFFF shown.toNat)

/-- SYNC_RESP_RX on port p: t2 and t3 of the upstream device, its error bound in 1/65,536 ns, and the leader's flags. -/
def execSyncRespRx (p : Port) (t2 t3 : BitVec 64) (e : BitVec 32) (coarse invalid : Bool) (s : State) :
    Host.Outcome State Fault Refusal :=
  match s.upstream, s.hws.t1 with
  | some q, some t1 =>
    if q ≠ p then .next s
    else
      let theta := syncTheta p t1 t2.toInt t3.toInt s
      let s := syncBound theta e.toNat (syncServo theta coarse invalid s)
      .next (suspectEval (s.hws.e ≤ s.tol * 65536 && s.flag F.HWS_TIME_STAT_LOCKED && !s.tooDeep) s)
  | _, _ => .next s

/-! ## Power-grant wires (R438, R439) -/

/-- PGTKI_RISE: the token arrives; head says that the wire lies above 2.6 V, tied to VIN. A device with no step pending
passes it on at once. -/
def execPgtkiRise (head : Bool) (s : State) : Host.Outcome State Fault Refusal :=
  let s := s.modGrant fun g => { g with tkIn := true, head := head, passed := false, tkOut := false }
  if s.grant.running.isSome then .next s
  else if s.grant.pending.isEmpty && !head then .next s.pass
  else .next s.takeStep

/-- PGTKI_FALL: PGTKO follows. -/
def execPgtkiFall (s : State) : Host.Outcome State Fault Refusal :=
  .next (s.modGrant fun g => { g with tkIn := false, head := false, passed := false, tkOut := false })

/-- POWER_GRANT_ROUND_END: the head drives PGTKO low and a new round starts. -/
def execPowerGrantRoundEnd (s : State) : Host.Outcome State Fault Refusal :=
  if s.grant.head && s.grant.passed then
    .next (s.modGrant fun g => { g with passed := false, tkOut := false, reqIn := false }).takeStep
  else .next s

/-- A step that ends by itself: the others end with the event that completes them. -/
def PStep.timed : PStep → Bool
  | .vcore | .core | .ramp _ => false
  | _ => true

/-- POWER_GRANT_STEP_END: the running step ends; low says that other devices pull PGREQ low. With no step of its own in
progress a head passes the token to them. -/
def execPowerGrantStepEnd (low : Bool) (s : State) : Host.Outcome State Fault Refusal :=
  let s := s.modGrant fun g => { g with reqIn := low }
  match s.grant.running with
  | some p => if p.timed then .next (s.stepEnd p) else .next s
  | none => if s.grant.head && low && !s.grant.passed then .next s.pass else .next s

end Sys2Proof.Machine
end

