-- ==== Sys2Proof/Machine/Vdm.lean ====
section
/-! DEFINITION. Sys2Proof/Machine/Vdm.lean: the VDM observables, their statistics, freeze and flags (R270, R367, R368). -/

namespace Sys2Proof.Machine

/-! ## Statistics -/

/-- The lead of the ingress monitor whose group host lane h is in (R171). -/
def State.ingress (s : State) (h : Nat) : Option Nat :=
  (List.range 16).find? fun k => s.flag F.HST_RSM_CTRL_EN k && !s.flag F.HST_RSM_CTRL_DIR k && (s.rsmGroup k).contains h

/-- The totals, errors over the bits, frames, slots or codewords that they fall on, behind a statistic: its kind, as
Config.vdmCode numbers it, and the lane. A codeword of a host monitor has 5,440 bits. DEDUCED, log 179. -/
def vdmTotals (s : State) (kind n : Nat) : Nat × Nat :=
  let c := fun (j : Nat) => (Bank.get s.cap.lanes (8 * n + j) 0).toNat
  let i : Fin 9 := Fin.ofNat 9 n
  match kind with
  | 0 => (s.cap.fpBits[i], 128 * s.cap.fpCw[i])
  | 1 => (c 3 + c 4, c 0)
  | 2 => (c 6, c 5 + c 6)
  | 3 => (c 5 + c 6, c 0)
  | _ =>
    match s.ingress n with
    | none => (0, 0)
    | some k =>
      let r := fun (j : Fin 5) => ((s.hst k).rsm[j]).toNat
      if kind = 4 then (r 2, 5440 * r 0) else (r 3, r 0)

/-- What has been counted between two totals; a counter that has started anew counts from zero. -/
def sinceTotal (now last : Nat) : Nat := if last ≤ now then now - last else now

/-- The ratio a lies below b. -/
def ratioBelow (a b : Nat × Nat) : Bool := a.1 * b.2 < b.1 * a.2

/-- The statistic takes the totals of its source as its next sample. -/
def VdmStat.take (v : VdmStat) (now : Nat × Nat) : VdmStat :=
  let x := (sinceTotal now.1 v.errs, sinceTotal now.2 v.bits)
  let v := { v with errs := now.1, bits := now.2, cur := x }
  if x.2 = 0 then v
  else
    { v with
      num := v.num + x.1, den := v.den + x.2
      low := some (match v.low with | some l => if ratioBelow x l then x else l | none => x)
      high := some (match v.high with | some h => if ratioBelow h x then x else h | none => x) }

/-- The statistic's interval starts anew. -/
def VdmStat.clear (v : VdmStat) : VdmStat := { v with num := 0, den := 0, low := none, high := none }

/-- The statistics: those of the nine line lanes and of the sixteen host lanes. -/
def vdmKeys : List (Nat × Nat) :=
  ([0, 1, 2, 3].flatMap fun k => (List.range 9).map fun n => (k, n)) ++ [4, 5].flatMap fun k => (List.range 16).map fun h => (k, h)

def State.vdm (s : State) (kind n : Nat) : VdmStat := Bank.get s.cmis.vdm (kind * 16 + n) {}

/-- Every statistic becomes f of itself. -/
def vdmEach (f : Nat → Nat → VdmStat → VdmStat) (s : State) : State :=
  s.modCmis fun c => { c with
    vdm := vdmKeys.foldl (fun m k => let i := k.1 * 16 + k.2; Bank.put m i (f k.1 k.2 (Bank.get m i {})) {}) c.vdm }

/-- Every statistic takes a sample. -/
def vdmSample (s : State) : State := vdmEach (fun k n v => v.take (vdmTotals s k n)) (s.modCmis fun c => { c with vdmAt := s.tim.raw })

/-- The statistics take a sample every 100 ms. -/
def vdmRefresh (s : State) : State := if 100000000 ≤ (s.tim.raw - s.cmis.vdmAt).toNat then vdmSample s else s

/-! ## Observables -/

/-- The value of a statistic: 0 its minimum, 1 its maximum, 2 its average, total errors over total bits, else its latest
sample. -/
def VdmStat.value (v : VdmStat) (which : Nat) : Nat × Nat :=
  match which with | 0 => v.low.getD (0, 0) | 1 => v.high.getD (0, 0) | 2 => (v.num, v.den) | _ => v.cur

/-- The observable of a statistic. -/
def vdmStat (s : State) (kind which n : Nat) : Nat :=
  let v := (s.vdm kind n).value which
  (Config.vdmCode kind v.1 v.2).toNat

/-- eSNR of receiver i: its figure of merit in 1/256 dB, either neighbour where it falls between two. -/
def vdmSnr (s : State) (i : Nat) : Nat :=
  let num := s.get F.WNC_FOM_FOM i * 256
  num / 10 + if num % 10 = 0 then 0 else ((Config.freeOf 24 [Int.ofNat num]).getLsbD 0).toNat

/-- The level transition parameter of the levels given: symbols, the sum of the outputs and that of e². -/
def vdmLtp (l : List (Nat × Rat × Rat)) : Nat :=
  (Config.ltpCode (l.flatMap fun x => [x.2.1 / x.1, x.2.2 / x.1])).toNat

/-- The levels of line receiver n since the last TELEMETRY (R214). -/
def lineLevels (s : State) (n : Nat) : List (Nat × Rat × Rat) :=
  (List.range 4).map fun i => ((s.rx n).lvN.getD i 0, (s.rx n).lvZ.getD i 0, (s.rx n).lvE.getD i 0)

/-- Pre-FEC BER of line lane n, 0 in L100. -/
def mediaBer (s : State) (which n : Nat) : Nat := if s.mode n = 1 then 0 else vdmStat s 0 which n

/-- Pre-FEC BER of host lane h, 0 without an ingress monitor. -/
def hostBer (s : State) (which h : Nat) : Nat := if (s.ingress h).isNone then 0 else vdmStat s 4 which h

/-- Observable o, from 0 on, of group g, from 0 on, in bank b, as it stands (R368); none where it is not in use. -/
def vdmNow (s : State) (b g o : Nat) : Option Nat :=
  let media := fun (k : Nat) => 4 * b + (o - k) % 4
  let host := fun (k : Nat) => 8 * b + (o - k) % 8
  match g with
  | 0 =>
    if o < 4 then some (vdmSnr s (4 * b + o))
    else if o < 8 then some (vdmLtp (lineLevels s (media 4)))
    else if o < 24 then some (mediaBer s ((o - 8) / 4) (media 8))
    else if o < 40 then some (vdmStat s 1 ((o - 24) / 4) (media 24))
    else if o < 44 then some (vdmStat s 2 3 (media 40))
    else if o < 48 then some (vdmStat s 3 3 (media 44))
    else none
  | 1 =>
    if o < 8 then some (vdmSnr s (9 + 8 * b + o))
    else if o < 16 then some (vdmLtp (Bank.get s.lanes.winch.levels (host 8) []))
    else if o < 48 then some (hostBer s ((o - 16) / 8) (host 16))
    else none
  | 2 => if o < 32 then some (vdmStat s 5 (o / 8) (host 0)) else none
  | _ =>
    if o < 3 then
      if b ≠ 0 then none
      else some (match o with | 0 => vdmSnr s 8 | 1 => mediaBer s 3 8 | _ => vdmStat s 2 3 8)
    else if o < 7 then some (Config.vdmCode 6 (s.get F.LYD_PHY_STAT_SNR (4 * b + (o - 3))) 1).toNat
    else none

/-- The observable that a read shows: as the freeze found it while VDM is frozen. -/
def vdmShown (s : State) (b g o : Nat) : Option Nat :=
  (vdmNow s b g o).map fun v => if s.cmis.frozen then s.cmis.vdmHeld.getD (b * 256 + g * 64 + o) 0 else v

/-- A freeze holds every observable, and the next interval starts. DEDUCED, log 179. -/
def vdmHold (s : State) : State :=
  let s := vdmSample s
  let held := (List.range 512).map fun i => (vdmNow s (i / 256) (i / 64 % 4) (i % 64)).getD 0
  vdmEach (fun _ _ v => v.clear) (s.modCmis fun c => { c with vdmHeld := held })

/-! ## Flags (R266, R270) -/

/-- A big-endian word of the device's own bytes on page p of bank b. -/
def ownWord (p b off : Nat) : BitVec 16 :=
  BitVec.ofNat 16 ((Config.cmisConst p (b * 256 + off)).toNat * 256 + (Config.cmisConst p (b * 256 + off + 1)).toNat)

/-- Threshold j of an observable, high and low alarm, high and low warning, in the set that its descriptor names.
PRESUMED, log 171. -/
def vdmThreshold (b g o j : Nat) : BitVec 16 :=
  let set := (Config.cmisConst (0x20 + g) (b * 256 + 128 + 2 * o)).toNat / 16
  ownWord (0x28 + g) b (128 + 8 * set + 2 * j)

/-- The four flags of an observable latch while its value lies beyond their thresholds. PRESUMED, log 171. -/
def vdmFlags (b g o : Nat) (s : State) : State :=
  match vdmShown s b g o with
  | none => s
  | some v =>
    eachBelow 4 (fun j s =>
      let t := vdmThreshold b g o j
      let v := BitVec.ofNat 16 v
      if (if j % 2 = 0 then Config.vdmAbove g o v t else Config.vdmAbove g o t v) then
        s.latchFlag b 0x2C (128 + 32 * g + o / 2) (4 * (o % 2) + j)
      else s) s

end Sys2Proof.Machine
end

