-- ==== Sys2Proof/Machine/Controls.lean ====
section
/-! DEFINITION. Sys2Proof/Machine/Controls.lean: the CMIS controls, states, flags and monitors of the lower page and of
pages 00h to AFh (R256 to R272). The places of bytes and bits that the spec does not give are CMIS 5.3's. -/

namespace Sys2Proof.Machine

/-- What a meaning that always answers a next state leaves. -/
def ran (s : State) : Host.Outcome State Fault Refusal → State
  | .next t => t
  | _ => s

/-- A word for a read-modify-write of field f by Rigger: the fields that a written 1 acts on are 0, and f is v. -/
def rmw (s : State) (f : Fld) (n v : Nat) : Word :=
  withBits (f.reg.fields.foldl (fun w g => if g.kind = .rw1c || g.kind = .wo then withBits w g.hi g.lo 0 else w)
    (s.word f.reg n)) f.hi f.lo v

/-! ## Requests, pins and the password -/

/-- A discrete input reads low up to 0.8 V, high from 2.0 V, and as before between them; undriven it reads high (R460). -/
def levelHigh (last : Bool) (mv : Option (BitVec 12)) : Bool :=
  match mv with
  | none => true
  | some v => if v.toNat ≤ 800 then false else if 2000 ≤ v.toNat then true else last

/-- A three-zone input lies in its low zone; between two zones it keeps the last one decided (R255). Undriven it lies in no
low zone. DESIGN CHOICE, log 167. -/
def zoneLow (last : Bool) (mv : Option (BitVec 12)) : Bool :=
  match mv with
  | none => false
  | some v => if v.toNat ≤ 750 then true else if 950 ≤ v.toNat then false else last

/-- A level passes the 2 µs filter of the inputs (R255, R460). -/
def pinActs (p : PinLevel) : Bool := 2000 ≤ p.ns.toNat

/-- LPWn or LPMODE requests low power at this level of SB1. -/
def lowLevel (s : State) (p : PinLevel) : Bool :=
  if !pinActs p then s.cmis.lowPin
  else if s.fw.otp.discrete then levelHigh s.cmis.lowPin p.mv else zoneLow s.cmis.lowPin p.mv

/-- The two low-power requests as they change: the level of SB1, and LowPwrRequestSW of byte 26. -/
def lowRequests (pin : Option PinLevel) (sw : Option Bool) (s : State) : State :=
  let s := match pin with
    | some p => s.modCmis fun c => { c with lowPin := lowLevel s p }
    | none => s
  match sw with
  | some b => s.setCmisByte 0 0 26 (s.cmisByte 0 0 26 / 32 * 32 + s.cmisByte 0 0 26 % 16 + if b then 16 else 0)
  | none => s

/-- LOW_POWER_REQUEST_CHANGE: the level of LPWn or LPMODE, and LowPwrRequestSW, where they change; in ANCHOR a
withdrawn request wakes the device (R379). -/
def execLowPowerRequestChange (pin : Option PinLevel) (sw : Option Bool) (s : State) : Host.Outcome State Fault Refusal :=
  let s := lowRequests pin sw s
  .next (follow (if s.lowWanted then s else wakeStart 2 s))

/-- MODSEL_CHANGE: the level of MODSEL_N. -/
def execModselChange (p : PinLevel) (s : State) : Host.Outcome State Fault Refusal :=
  .next (if pinActs p then s.modCmis fun c => { c with modselHigh := levelHigh c.modselHigh p.mv } else s)

/-- SB0 is decided low at this level: its low zone, or RESET_N low. DESIGN CHOICE, log 167. -/
def resetLow (s : State) (p : PinLevel) : Bool :=
  if !pinActs p then s.cmis.rstLow
  else if s.fw.otp.discrete then !levelHigh (!s.cmis.rstLow) p.mv else zoneLow s.cmis.rstLow p.mv

/-- SIDEBAND_RESET: a level of SB0, by default one that requests a reset for 10 µs; one that requests a reset for at least 10 µs causes it, a shorter pulse is ignored
(R256). -/
def execSidebandReset (s : State) (p : PinLevel := ⟨some 0, 10000⟩) : Host.Outcome State Fault Refusal :=
  let low := resetLow s p
  let s := s.modCmis fun c => { c with rstLow := low }
  .next (if low && 10000 ≤ p.ns.toNat then aonReset 3 s else s)

/-- CMIS_SOFTWARE_RESET (R256). -/
def execCmisSoftwareReset (s : State) : Host.Outcome State Fault Refusal := .next (aonReset 4 s)

/-- HOST_PASSWORD_ENTRY: the four bytes 7Ah to 7Dh (R268). -/
def execHostPasswordEntry (v : Word) (s : State) : Host.Outcome State Fault Refusal :=
  .next (s.modCmis fun c => { c with priv := v ≠ 0 && v = s.fw.password })

/-- HOST_PASSWORD_CHANGE: the four bytes 76h to 79h (R344). -/
def execHostPasswordChange (v : Word) (s : State) : Host.Outcome State Fault Refusal :=
  if s.cmis.priv && s.mbx.policyBits.getLsbD 3 then
    .next (s.modFw fun f => { f with password := v, pwFlash := some v })
  else .next s

/-! ## VDM (R270, R367) -/

/-- VDM_FREEZE: running Fathom instances, Capstan's counters and the host monitors are snapshot, and the observables held. -/
def execVdmFreeze (s : State) : Host.Outcome State Fault Refusal :=
  if !s.cmisRuns then .next s
  else
    let s := (List.finRange 32).foldl (fun s (i : Fin 32) =>
      if s.flag F.MON_FTH_CFG_RUN i then fathomRequest i s else s) s
    let s := eachBelow 16 rsmSnap (capSnapWrite 1 s)
    .next ((vdmHold s).modCmis fun c => { c with frozen := true, unfrozen := false })

/-- VDM_UNFREEZE. -/
def execVdmUnfreeze (s : State) : Host.Outcome State Fault Refusal :=
  if !s.cmisRuns then .next s else .next (s.modCmis fun c => { c with frozen := false, unfrozen := true })

/-! ## CDB messages (R271, R272) -/

/-- A command written to page 9Fh: its code, the lengths, and the payload; one written while CdbStatus is busy is
discarded, and one too long for the limits changes nothing. DEDUCED, log 67. -/
def cdbCommand (s : State) : State :=
  let at' := fun (o : Nat) => s.cmisByte 0 0x9F o
  let lpl := at' 132
  let epl := at' 130 * 256 + at' 131
  let pay := fun (o k : Nat) => (List.range k).map fun i => BitVec.ofNat 8 (at' (o + i))
  let addr := beVal (pay 136 4)
  if !s.cdbTakes then s
  else if 120 < lpl || 2048 < epl then s.cdbDone .rangeError
  else match at' 128 * 256 + at' 129 with
    | 0x0000 => ran s (execCdbQueryStatus s)
    | 0x0040 => ran s (execCdbModuleFeatures s)
    | 0x0041 => ran s (execCdbFwMgmtFeatures s)
    | 0x0100 => ran s (execCdbGetFwInfo s)
    | 0x0101 => ran s (execCdbStartDownload addr (pay 144 (lpl - 8)) s)
    | 0x0102 => ran s (execCdbAbortDownload s)
    | 0x0103 => ran s (execCdbWriteBlockLpl addr (pay 140 (lpl - 4)) s)
    | 0x0104 => ran s (execCdbWriteBlockEpl addr
        ((List.range epl).map fun i => BitVec.ofNat 8 (s.cmisByte 0 (0xA0 + i / 128) (128 + i % 128))) s)
    | 0x0107 => ran s (execCdbCompleteDownload s)
    | 0x0109 => ran s (execCdbRunImage (BitVec.ofNat 8 (at' 137)) s)
    | 0x010A => ran s (execCdbCommitImage s)
    | _ => ran s (execCdbUnknownCommand s)

/-! ## Lane controls (R264) -/

/-- A pattern code of page 13h as the source code of the generators and checkers: PRBS13Q, PRBS31Q, SSPRQ, square. -/
def patternSrc : Nat → Option Nat | 6 => some 1 | 0 => some 2 | 12 => some 3 | 14 => some 4 | _ => none

/-- Bit i of a control byte. -/
def State.ctlBit (s : State) (b page off i : Nat) : Bool := s.cmisByte b page off / 2 ^ i % 2 = 1

/-- A control that the device refuses is cleared. -/
def State.ctlClear (s : State) (b page off i : Nat) : State :=
  if s.ctlBit b page off i then s.setCmisByte b page off (s.cmisByte b page off - 2 ^ i) else s

/-- The source that page 13h asks of a generator or checker: enable byte en, pattern nibbles from pat on. -/
def State.ctlSrc (s : State) (b en pat i : Nat) : Option Nat :=
  if s.ctlBit b 0x13 en i then patternSrc (s.cmisByte b 0x13 (pat + i / 2) / 16 ^ (i % 2) % 16) else some 0

/-- Do f with the source asked of each of k lanes of bank b; a refused one is cleared. -/
def srcLanes (b en pat k : Nat) (f : Nat → Nat → State → State) (s : State) : State :=
  eachBelow k (fun i s => match s.ctlSrc b en pat i with
    | some x => f i x s
    | none => s.ctlClear b 0x13 en i) s

/-- The four groups of generator and checker controls. -/
def srcControls (b : Nat) (s : State) : State :=
  let s := srcLanes b 144 148 8 (fun i x s => hstTestCtrlWrite (8 * b + i) (rmw s F.HST_TEST_CTRL_SRC (8 * b + i) x) s) s
  let s := srcLanes b 152 156 4 (fun i x s => patCtrlWrite (4 * b + i) (rmw s F.LTX_PAT_CTRL_SRC (4 * b + i) x) s) s
  let s := srcLanes b 160 164 8 (fun i x s => hstChkCtrlWrite (8 * b + i) (rmw s F.HST_CHK_CTRL_SRC (8 * b + i) x) s) s
  srcLanes b 168 172 4 (fun i x s => chkCtrlWrite (4 * b + i) (rmw s F.LRX_CHK_CTRL_SRC (4 * b + i) x) s) s

/-- Host-side loop-backs: input (byte 183) as mode 0b01, output (byte 182) as 0b10. -/
def hostLoops (b : Nat) (s : State) : State :=
  eachBelow 8 (fun i s =>
    let h := 8 * b + i
    let want := if s.ctlBit b 0x13 183 i then 1 else if s.ctlBit b 0x13 182 i then 2 else 0
    let s := if s.get F.HST_TEST_CTRL_LPBK h = want then s
      else hstTestCtrlWrite h (rmw s F.HST_TEST_CTRL_LPBK h want) s
    if want = 2 && s.get F.HST_TEST_CTRL_LPBK h ≠ 2 then s.ctlClear b 0x13 182 i else s) s

/-- A media-side loop-back control of kind k (1 output, byte 180; 2 input, byte 181): a held PROBE, which the cleared
control ends. -/
def mediaLoops (b k off : Nat) (s : State) : State :=
  eachBelow 4 (fun i s =>
    let n := 4 * b + i
    let runs := match (s.olc n).probe with | some p => p.kind = k && p.held | none => false
    if s.ctlBit b 0x13 off i then
      if runs then s
      else match s.probeStart n k 0 0 0 with
        | (some _, s) => s.ctlClear b 0x13 off i
        | (none, s) => s.laneAdvance 5 n
    else match (s.olc n).probe with
      | some p => if runs then (s.laneRequest n p.ret).laneAdvance 5 n else s
      | none => s) s

/-- Output controls of host lanes: OutputDisableRx (byte 138) and RxOutputSquelchDisable (byte 139). -/
def hostOutputs (b : Nat) (s : State) : State :=
  eachBelow 8 (fun i s =>
    let h := 8 * b + i
    let w := rmw s F.HST_TX_CTRL_OUT_DIS h (s.ctlBit b 0x10 138 i).toNat
    hstTxCtrlWrite h (withBits w 7 7 (s.ctlBit b 0x10 139 i).toNat) s) s

/-! ## Writes -/

/-- Bits of a control byte that this device implements; 0 where a write is discarded (R258). DESIGN CHOICE, log 63. -/
def ctlMask (b page off : Nat) : Nat :=
  if off < 128 then
    match off with | 26 => 0x58 | 31 => 0x43 | 32 => 0xFF | _ => 0
  else if page = 0x9F || (0xA0 ≤ page && page ≤ 0xAF) then 0xFF
  else if b ≠ 0 && b ≠ 1 then 0
  else match page with
    | 0x10 =>
      if off = 128 || off = 138 || off = 139 then 0xFF
      else if off = 130 then 0x0F
      else if [143, 144, 176, 177].contains off then 0xFF
      else if (145 ≤ off && off ≤ 153) || (156 ≤ off && off ≤ 159) || (162 ≤ off && off ≤ 173) then 0xFF
      else if (178 ≤ off && off ≤ 186) || (189 ≤ off && off ≤ 192) || (195 ≤ off && off ≤ 206) then 0xFF
      else if off = 213 || (215 ≤ off && off ≤ 217) then 0xFF
      else if off = 214 || (218 ≤ off && off ≤ 231) then 0x0F
      else 0
    | 0x13 =>
      if [144, 160, 182, 183].contains off then 0xFF
      else if [152, 168, 180, 181].contains off then 0x0F
      else if (148 ≤ off && off ≤ 151) || (156 ≤ off && off ≤ 159) || (164 ≤ off && off ≤ 167) || (172 ≤ off && off ≤ 175)
      then 0xFF else 0
    | 0x14 => if off = 128 then 0xFF else 0
    | 0x2D => 0xFF
    | 0x2F => if off = 144 then 0x80 else 0
    | _ => 0

/-- The bits of a control byte that a read shows: not those that only start something. -/
def ctlKept (page off : Nat) : Nat :=
  if off = 26 then 0x50 else if page = 0x10 && [143, 144, 176, 177].contains off then 0 else 0xFF

/-- Store a control byte. The bank of a page without banks is 0. -/
def ctlStore (b page off : Nat) (v : Byte) (s : State) : State :=
  let m := ctlMask b page off
  if m = 0 then s
  else s.setCmisByte (if 0x10 ≤ page && page ≤ 0x2F then b else 0) page off (v.toNat &&& m &&& ctlKept page off)

/-- What a stored control byte does. -/
def ctlAct (b page off : Nat) (v : Byte) (s : State) : State :=
  let k := Fin.ofNat 2 b
  if off < 128 then
    (if off = 26 then (if v.getLsbD 3 then aonReset 4 s else follow s) else s)
  else if ctlMask b page off = 0 then s
  else match page with
    | 0x10 =>
      (match off with
      | 128 => ran s (execDpdeinitWrite k v s)
      | 130 => ran s (execOutputDisableTxWrite k (v.setWidth 4) s)
      | 138 | 139 => hostOutputs b s
      | 143 => ran s (execCmisApplyDpinit k 0 v s)
      | 144 => ran s (execCmisApplyImmediate k 0 v s)
      | 176 => ran s (execCmisApplyDpinit k 1 v s)
      | 177 => ran s (execCmisApplyImmediate k 1 v s)
      | _ => s)
    | 0x13 =>
      if off = 180 then mediaLoops b 1 180 s
      else if off = 181 then mediaLoops b 2 181 s
      else if off = 182 || off = 183 then hostLoops b s
      else srcControls b s
    | 0x2F =>
      if v.getLsbD 7 && !s.cmis.frozen then ran s (execVdmFreeze s)
      else if !v.getLsbD 7 && s.cmis.frozen then ran s (execVdmUnfreeze s)
      else s
    | 0x9F => if off = 129 then cdbCommand s else s
    | _ => s

/-- The field that a byte of the lower page or of pages 00h to AFh belongs to: its first offset and its length (R251). -/
def ctlField (page off : Nat) : Nat × Nat :=
  if 118 ≤ off && off ≤ 121 then (118, 4)
  else if 122 ≤ off && off ≤ 125 then (122, 4)
  else if page = 0x9F && 128 ≤ off && off ≤ 131 then (off / 2 * 2, 2)
  else (off, 1)

/-- A whole field of the lower page or of pages 00h to AFh is written: shown at once, and acted on while Rigger runs. -/
def ctlWrite (b page off : Nat) (bs : List Byte) (s : State) : State :=
  let word := BitVec.ofNat 32 (beVal bs)
  let v := bs.headD 0
  match off with
  | 118 => if s.cmisRuns then ran s (execHostPasswordChange word s) else s
  | 122 => ran s (execHostPasswordEntry word s)
  | 126 => s.modCmis fun c => { c with bank := v }
  | 127 => s.modCmis fun c => { c with page := v }
  | _ =>
    let s := bs.zipIdx.foldl (fun s x => ctlStore b page (off + x.2) x.1 s) s
    if s.cmisRuns then bs.zipIdx.foldl (fun s x => ctlAct b page (off + x.2) x.1 s) s else s

/-! ## After a Rigger restart (R269) -/

/-- The offset after one in a transaction (R250). -/
def offNext (off : Nat) : Nat := if off = 255 then 128 else off + 1

/-- A byte that Cleat logs while Rigger is stopped: the lower page and pages 01h to 9Fh, but for the bytes that hardware
serves. DEDUCED, log 65. DESIGN CHOICE, log 66. DEDUCED, log 68. -/
def logged (page off : Nat) : Bool :=
  if off < 128 then off < 122 else 1 ≤ page && page ≤ 0x9F

/-- Rigger applies one logged write: its bank and page, its first offset, and the bytes not yet applied. part holds the
bytes of the field so far. -/
def replay (b page : Nat) (off : Nat) (part : List Byte) (bs : List Byte) (s : State) : State :=
  match bs with
  | [] => s
  | v :: rest =>
    let p := if off < 128 then 0 else page
    let (st, k) := ctlField p off
    let part := if off = st then [v] else if part.length = off - st && off ≠ st && !part.isEmpty then part ++ [v] else []
    let s := if part.length = k && logged p off && !(p = 0x9F && off = 129) then ctlWrite b p st part s else s
    replay b page (offNext off) part rest s

/-- Rigger has completed its initialisation and reports ready: it applies the logged writes in their order, and the
state changes that they ask for start. -/
def riggerStart (s : State) : State :=
  let was := s.fw.running
  let log := s.cmis.log
  let t := riggerReady s
  if t.fw.running && !was then follow (log.foldl (fun s e => replay e.1 e.2.1 e.2.2.1 [] e.2.2.2 s) t) else t

/-! ## Monitors (R265) -/

/-- Input value c in the monitor's 16 bits. -/
def State.inputBits (s : State) (c : Nat) : Nat := s.get F.MON_IN_RES_VALUE c

/-- The module temperature, in 1/256 °C: the chosen sensor, or the hottest die sensor. -/
def moduleTemp (s : State) : Nat :=
  if s.fw.tempInput ≠ 0 then s.inputBits s.fw.tempInput
  else
    let l := (List.range' 53 6).map fun c => signed 16 (s.inputBits c)
    unsigned 16 (l.foldl max (-32768))

/-- A refreshed monitor: kind 0 temperature, 1 supply, 2 Tx bias, 3 Tx power, 4 Rx power, 5 host and 6 media errors. -/
def State.monitor (s : State) (kind n : Nat) : Nat := Bank.get s.cmis.monitors (kind * 16 + n) 0
def State.setMonitor (s : State) (kind n v : Nat) : State :=
  s.modCmis fun c => { c with monitors := Bank.put c.monitors (kind * 16 + n) v 0 }

/-- The monitors of media lane n: bias, transmit and receive power, and errors. -/
def laneMonitors (n : Nat) (s : State) : State :=
  (((s.setMonitor 2 n (s.inputBits (18 + n))).setMonitor 3 n (s.inputBits n)).setMonitor 4 n (s.inputBits (9 + n))).setMonitor
    6 n (s.get F.LRX_CHK_BIT_COUNT n)

/-- CMIS_MONITOR_REFRESH: the monitors, and every 100 ms the statistics of VDM (R368). -/
def execCmisMonitorRefresh (s : State) : Host.Outcome State Fault Refusal :=
  if !s.cmisRuns then .next s
  else
    let s := (s.setMonitor 0 0 (moduleTemp s)).setMonitor 1 0 (s.inputBits 59)
    .next (eachBelow 16 (fun h s => s.setMonitor 5 h (s.get F.HST_CHK_BIT_COUNT h)) (eachBelow 8 laneMonitors (vdmRefresh s)))

/-! ## Flags and the interrupt (R266, R267) -/

/-- Windows of the module temperature (R362). DESIGN CHOICE, log 72. -/
def tempWindows (s : State) : List Nat := if s.fw.tempInput ≠ 0 then [s.fw.tempInput] else [53, 54, 55, 56, 57, 58]

/-- FLAGS bit j of any of the windows: 0 low warning, 1 high warning, 2 low alarm, 3 high alarm. -/
def winFlag (s : State) (l : List Nat) (j : Nat) : Bool := l.any fun w => s.get F.MON_WIN_STAT_FLAGS w / 2 ^ j % 2 = 1

/-- The FLAGS bit of the k-th flag of a monitor: CMIS lists high alarm, low alarm, high warning, low warning. -/
def flagBit (k : Nat) : Nat := 3 - k

/-- The windows behind bit i of a flag byte that shows windows, with the FLAGS bit. -/
def flagWindows (s : State) (b page off i : Nat) : Option (List Nat × Nat) :=
  if page = 0 && off = 9 then some (if i < 4 then tempWindows s else [59], flagBit (i % 4))
  else if page = 0x11 && i < 4 && b ≤ 1 then
    let n := 4 * b + i
    if 139 ≤ off && off ≤ 142 then some ([n], flagBit (off - 139))
    else if 143 ≤ off && off ≤ 146 then some ([18 + n], flagBit (off - 143))
    else if 149 ≤ off && off ≤ 152 then some ([9 + n], flagBit (off - 149))
    else none
  else none

/-- A latched flag byte. -/
def flagByte (b page off : Nat) (s : State) : Nat :=
  maskOfBits fun i => match flagWindows s b page off i with
    | some (l, j) => winFlag s l j
    | none => (Bank.get s.cmis.flags (b * 65536 + page * 256 + off) 0).getLsbD i
where
  /-- Eight bits as a number. -/
  maskOfBits (f : Nat → Bool) : Nat := (List.range 8).foldl (fun a i => if f i then a + 2 ^ i else a) 0

/-- A read clears the flags of the byte that it returns. -/
def flagClear (b page off : Nat) (s : State) : State :=
  let s := s.modCmis fun c => { c with flags := Bank.put c.flags (b * 65536 + page * 256 + off) 0 0 }
  eachBelow 8 (fun i s => match flagWindows s b page off i with
    | some (l, j) => l.foldl (fun s w =>
        if s.get F.MON_WIN_STAT_FLAGS w / 2 ^ j % 2 = 1 then
          s.put F.MON_WIN_STAT_FLAGS (s.get F.MON_WIN_STAT_FLAGS w - 2 ^ j) w else s) s
    | none => s) s

/-- The latched flag bytes, each with the byte that masks it. -/
def flagBytes : List ((Nat × Nat × Nat) × (Nat × Nat × Nat)) :=
  [((0, 0, 8), (0, 0, 31)), ((0, 0, 9), (0, 0, 32))]
    ++ ([0, 1].flatMap fun b => (List.range' 134 19).map fun o => ((b, 0x11, o), (b, 0x10, o + 79)))
    ++ [0, 1].flatMap fun b => (List.range' 128 128).map fun o => ((b, 0x2C, o), (b, 0x2D, o))

/-- Some latched flag is not masked. -/
def flagPending (s : State) : Bool :=
  flagBytes.any fun x => flagByte x.1.1 x.1.2.1 x.1.2.2 s &&& (255 - s.cmisByte x.2.1 x.2.2.1 x.2.2.2) ≠ 0

/-- SRC of page B9h: the levels of the custom sources (R277). -/
def customSrc (s : State) : Nat :=
  (if s.mbx.events.isEmpty then 0 else 1) + (if s.mbx.host.entries.isEmpty then 0 else 2)
    + (if (List.range 8).any fun m => s.flag F.MBX_STAT_EMPTY_IRQ m && !s.flag F.MBX_MASK_EMPTY_MASK m then 4 else 0)
    + (if s.cmis.failed.isEmpty then 0 else 8)

/-- What the device does at the sideband to interrupt (R255, R267): in the multi-level profile it pulls SB0 down into the
mid zone, in the discrete profile it drives INT_N low. -/
def State.sb0Pulled (s : State) : Bool := s.cmis.irq && !s.fw.otp.discrete
def State.intLow (s : State) : Bool := s.cmis.irq && s.fw.otp.discrete

/-- The interrupt follows the unmasked flags and sources. -/
def irqUpdate (s : State) : State :=
  let on := flagPending s || customSrc s &&& (15 - s.cmisByte 0 0xB9 0x95 % 16) ≠ 0
  s.modCmis fun c => { c with irq := on }

/-- Flag i of byte off of page 11h in bank b latches while its condition holds. -/
def latchWhile (on : Bool) (b off i : Nat) (s : State) : State := if on then s.latchFlag b 0x11 off i else s

/-- The flags of host lane h: equaliser fault, LOL and LOS. -/
def hostFlags (h : Nat) (s : State) : State :=
  latchWhile (s.flag F.HST_RX_STAT_EQ_FAULT h) (h / 8) 138 (h % 8)
    (latchWhile (s.flag F.HST_LANE_STAT_LOL h) (h / 8) 137 (h % 8)
      (latchWhile (s.flag F.HST_LANE_STAT_LOS h) (h / 8) 136 (h % 8) s))

/-- The flags of media lane n: its fault, LOL and LOS. -/
def mediaFlags (n : Nat) (s : State) : State :=
  latchWhile (s.get F.OLC_FAULT_FAULT n ≠ 0) (n / 4) 135 (n % 4)
    (latchWhile (s.flag F.LRX_LOS_STAT_LOL n) (n / 4) 148 (n % 4)
      (latchWhile (s.flag F.LRX_LOS_STAT_LOS n) (n / 4) 147 (n % 4) s))

/-- The flags of window w, while it is enabled. -/
def windowFlags (w : Nat) (s : State) : State :=
  if s.flag F.MON_WIN_CFG_EN w then
    s.put F.MON_WIN_STAT_FLAGS (s.get F.MON_WIN_STAT_FLAGS w ||| zoneFlags (s.get F.MON_WIN_STAT_ZONE w)) w
  else s

/-- CMIS_FLAG_EVALUATION: flags latch where their conditions hold (R266), those of VDM among them (R270). -/
def execCmisFlagEvaluation (s : State) : Host.Outcome State Fault Refusal :=
  let s := eachBelow 512 (fun i s => vdmFlags (i / 256) (i / 64 % 4) (i % 64) s) s
  .next (irqUpdate (eachBelow 64 windowFlags (eachBelow 8 mediaFlags (eachBelow 16 hostFlags s))))

end Sys2Proof.Machine
end

