-- ==== Sys2Proof/Machine/Bus.lean ====
section
/-! DEFINITION. Sys2Proof/Machine/Bus.lean: accesses to the internal address map: the order of the checks of R27, the
firewall (R331 to R334), the RWL policy (R473), off-block accesses (R383), what each register shows when it is read
and what it does when it is written. -/

namespace Sys2Proof.Machine

/-! ## What a register shows -/

/-- A word of fields laid over w: each part is (high bit, low bit, value). -/
def lay (w : Word) (parts : List (Nat × Nat × Nat)) : Word :=
  parts.foldl (fun w p => withBits w p.1 p.2.1 p.2.2) w

/-- The members of l as a bit mask. -/
def maskOf (l : List Nat) : Nat := l.foldl (fun a i => a ||| 2 ^ i) 0

/-- Rails with power good (R374, PWR_REG_STAT): VAON; VMEM, VANA and VIO as the management domain has them; the rails of
the steps. -/
def pgood (s : State) : Nat :=
  (if s.pwr.vin then 9 else 0) + (if s.inAnchor then 0 else 6) + (if s.powered .vdrv then 16 else 0) +
    (if s.powered .vcore then 32 else 0) + if s.powered .vlas then 64 else 0

/-- TOP_OTP_SVN from the OTP (R336). -/
def otpWord (o : Otp) : Word :=
  lay 0 [(31, 31, o.dbgPermanent.toNat), (30, 30, o.dbgLock.toNat), (29, 28, o.makerSet.toNat), (27, 24, o.revoked.toNat),
    (23, 16, o.patch), (15, 8, o.pers), (7, 0, o.rigger)]

/-- Slots that are not FREE, and entries staged in them (KNT_STAT). -/
def knotsOpen (s : State) : Nat := ((List.range 8).filter fun k => s.get F.KNT_SLOT_STAT_STATE k ≠ 0).length
def knotEntries (s : State) : Nat := ((List.range 8).map fun k => s.get F.KNT_SLOT_STAT_ENTRIES k).sum

/-- The registers whose fields follow state held elsewhere, each with its view of the stored word. -/
def views : List (RegD × (Nat → Nat → State → Word → Word)) :=
  [(R.LTX_PLL_STAT, fun n _ s w =>
      let p := s.pll (n / 2)
      lay w [(19, 16, p.ref), (11, 10, p.band), (3, 3, p.ready.toNat), (2, 0, p.state)]),
   (R.LTX_LANE_CFG, fun n _ s w => if n = 8 then lay w [(2, 0, s.mode 8)] else w),
   (R.HST_LANE_STAT, fun h _ s w =>
      lay w [(15, 12, (s.feeds h).getD 0xF), (11, 11, (s.isB h).toNat), (10, 9, s.hostMode h)]),
   (R.CAP_STAT, fun _ _ s w =>
      lay w [(29, 24, maskOf (s.cap.waking.map Prod.fst)), (21, 16, maskOf s.cap.awake),
        (0, 0, (s.cap.cws.any fun c => c.place.isSome).toNat)]),
   (R.CAP_STORE, fun _ _ s w => lay w [(11, 0, storeOcc s)]),
   (R.OLC_CH_OUT, fun c _ s w => lay w [(31, 31, (decide ((s.chan c).slewed ≠ s.chanGoal c)).toNat)]),
   (R.LYD_PTR_AGE, fun n _ s w =>
      lay w [(15, 0, if s.partnerOf n then
        min 0xFFFF ((rawDiff s.tim.raw (s.lyd[Fin.ofNat 9 n]).heard).toNat / 1000000) else 0)]),
   (R.TIM_TSQ_STAT, fun q _ s w => lay w [(6, 0, (if q = 0 then s.tim.txq else s.tim.rxq).length)]),
   (R.MBX_ENG_STAT, fun _ _ s w => lay w [(11, 0, s.mbx.outstanding.length)]),
   (R.MBX_USED, fun k _ s _ =>
      BitVec.ofNat 32 (s.mbx.outstanding.filter fun c => classOf c.ident = k).length),
   (R.MBX_EVQ_STAT, fun _ _ s w => lay w [(6, 0, s.mbx.events.length)]),
   (R.MBX_IRING_STAT, fun k _ s w => lay w [(6, 0, s.mbx.internal[Fin.ofNat 3 k].entries.length)]),
   (R.KNT_STAT, fun _ _ s _ => lay 0 [(19, 16, knotsOpen s), (11, 0, knotEntries s)]),
   (R.TOP_OTP_SVN, fun _ _ s _ => otpWord s.fw.otp),
   (R.MON_IRQ_STAT, fun _ _ s w =>
      lay w [(3, 3, ((List.range 9).any fun n => s.flag F.LTX_MASK_STAT_EXC n && s.flag F.LTX_MASK_CTRL_IRQ_EN n).toNat),
        (0, 0, ((List.range 80).any fun i => s.flag F.MON_WIN_STAT_CHG i).toNat)]),
   (R.MON_IN_RES, fun c _ s w => lay w [(30, 28, s.get F.MON_WIN_STAT_ZONE c)]),
   (R.PWR_CLK_STAT, fun _ _ s w => lay w [(2, 2, ((List.range 3).any fun p => s.flag F.HWS_PORT_CTRL_EN p).toNat)]),
   (R.PWR_REG_STAT, fun _ _ s _ => lay 0 [(9, 8, if s.inAnchor then 3 else 0), (6, 0, pgood s)]),
   (R.ECC_STAT, fun _ _ s w => lay w [(15, 8, s.ecc.retired.length), (6, 0, s.ecc.log.length)]),
   (R.ECC_LOG_W, fun e i s _ => match s.ecc.log[e]? with | some x => x.entry.getD i 0 | none => 0),
   (R.ECC_RETIRE, fun e _ s _ => match s.ecc.retired[e]? with
      | some p => lay 0 [(31, 31, 1), (24, 12, p)]
      | none => 0),
   (R.HWS_PG_STAT, fun _ _ s w =>
      let g := s.grant
      let out := !g.head && (!g.pending.isEmpty || g.running.isSome)
      lay w [(5, 5, (g.reqIn || out).toNat), (4, 4, out.toNat), (3, 3, g.passed.toNat), (1, 1, g.holds.toNat),
        (0, 0, g.head.toNat)])]

/-- The word that register r, repetition (n, m), shows, every field included. -/
def regView (s : State) (r : RegD) (n m : Nat) : Word :=
  let w := s.word r n m
  match views.find? fun v => v.1.base = r.base with
  | some v => v.2 n m s w
  | none => w

/-- A read of OLC_VLAS (R21, R355): the setting, and input 63, whose result counts tenths of a millivolt; which way a
half is rounded is free. DESIGN CHOICE, log 21. -/
def vlasRead (s : State) : Word × State :=
  if !s.powered .vlas then (0, s)
  else
    let (v, s) := s.freeRound 23 (Int.ofNat (s.get F.MON_IN_RES_VALUE 63)) 10
    (lay 0 [(27, 16, s.vlasSet), (11, 0, v.toNat)], s)

/-- The registers whose read captures, pops or clears, each with what requester q reads. -/
def readHooks : List (RegD × (Req → Nat → Nat → State → Word × State)) :=
  [(R.TIM_SNAP_W0, fun q _ _ s => snapRead q s),
   (R.TIM_SNAP_TOD, fun q i _ s => ((s.hold q).snap.getD i 0, s)),
   (R.TIM_SNAP_W4, fun q _ _ s => ((s.hold q).snap.getD 3 0, s)),
   (R.TIM_AON_LO, fun q _ _ s => aonRead q s),
   (R.TIM_AON_HI, fun q _ _ s => ((s.hold q).aonHi, s)),
   (R.TIM_TSQ_W, fun q d i s =>
      if i = 0 then tsqRead q (d = 0) s
      else ((if d = 0 then (s.hold q).txq else (s.hold q).rxq).getD (i - 1) 0, s)),
   (R.TIM_TT_STAT, fun q n _ s => twoWayRead q (Fin.ofNat 9 n) s),
   (R.TIM_TT_LO, fun q n i s => ((Bank.get (s.hold q).twoWay n []).getD (2 * i) 0, s)),
   (R.TIM_TT_HI, fun q n i s => ((Bank.get (s.hold q).twoWay n []).getD (2 * i + 1) 0 &&& 0xFFFF, s)),
   (R.TIM_PPSI_W0, fun q _ _ s => ppsInRead q s),
   (R.TIM_PPSI_TOD, fun q i _ s => ((s.hold q).pps.getD i 0, s)),
   (R.PMU_CNT_LO, fun q j _ s =>
      let x := (pmuRead s j).toNat
      (BitVec.ofNat 32 x, s.modHold q fun h => { h with pmuHi := Bank.put h.pmuHi j (BitVec.ofNat 32 (x / 2 ^ 32)) 0 })),
   (R.PMU_CNT_HI, fun q j _ s => (Bank.get (s.hold q).pmuHi j 0, s)),
   (R.MBX_IRING_W, fun q k i s => if i = 0 then iringRead q k s else ((Bank.get (s.hold q).ring k []).getD (i - 1) 0, s)),
   (R.OLC_VLAS, fun _ _ _ s => vlasRead s)]

/-- Read register r, repetition (n, m), as requester q: WO fields read zero, RC fields clear (R8). -/
def regRead (q : Req) (r : RegD) (n m : Nat) (s : State) : Word × State :=
  match readHooks.find? fun h => h.1.base = r.base with
  | some h => h.2 q n m s
  | none =>
    let w := regView s r n m
    let seen := r.fields.foldl (fun w f => if f.kind = .wo then withBits w f.hi f.lo 0 else w) w
    if r.fields.any fun f => f.kind = .rc then
      (seen, s.setWord r (r.fields.foldl (fun w f => if f.kind = .rc then withBits w f.hi f.lo 0 else w) (s.word r n m)) n m)
    else (seen, s)

/-! ## What a write does -/

/-- A write of TOP_RIG_CTRL (R345): READY, after which the leader's first discovery runs (R424) or a member says what it
runs now, and KICK. -/
def rigCtrlWrite (v : Word) (s : State) : State :=
  let was := s.fw.running
  let s := if v.getLsbD 0 then riggerStart s else s
  let s := if s.fw.running && !was then
      (if s.leads && s.get F.HWS_DISC_STAT_EPOCH = 0 then discStart s else s.hwReport false)
    else s
  if v.getLsbD 8 && s.fw.wdog then s.modFw fun f => { f with wdogAt := s.tim.raw } else s

/-- The registers whose write does more than store its fields, each with what it does in place of the plain write. -/
def writeHooks : List (RegD × (Nat → Nat → Word → State → State)) :=
  [(R.LTX_LANE_CFG, fun n _ v s => laneCfgWrite n v s),
   (R.LTX_SHAPE_CTRL, fun n _ v s => shadowWrite n 24 (shapeCtrlWrite n v s)),
   (R.LTX_FIR_TAP, fun n m v s => shadowWrite n m (s.writePlain R.LTX_FIR_TAP v n m)),
   (R.LTX_PD_ENT, fun n m v s => shadowWrite n (8 + m) (s.writePlain R.LTX_PD_ENT v n m)),
   (R.LTX_MASK_CTRL, fun n _ v s =>
      let w := s.writePlain R.LTX_MASK_CTRL v n
      maskChanged n (s.flag F.LTX_MASK_CTRL_EN n) (w.word R.LTX_MASK_CTRL n = s.word R.LTX_MASK_CTRL n) w),
   (R.LTX_MASK_LIM, fun n m v s =>
      let w := s.writePlain R.LTX_MASK_LIM v n m
      maskChanged n (s.flag F.LTX_MASK_CTRL_EN n) (w.word R.LTX_MASK_LIM n m = s.word R.LTX_MASK_LIM n m) w),
   (R.LTX_LYD_ADD, fun n _ v s => lydAddWrite n v s),
   (R.LTX_PAT_CTRL, fun n _ v s => patCtrlWrite n v s),
   (R.LTX_CAL_CTRL, fun n _ v s => txCalCtrlWrite n v s),
   (R.LRX_TIA_CTRL, fun n _ v s => tiaCtrlWrite n v s),
   (R.LRX_EQ_CTRL, fun n _ v s => eqCtrlWrite n v s),
   (R.LRX_FFE_TAP, fun n m v s => eqWrite n (setTapPair m v) s),
   (R.LRX_MLSE_REF, fun n m v s => eqWrite n (setRefQuad m v) s),
   (R.LRX_CAL_CTRL, fun n _ v s => rxCalCtrlWrite n v s),
   (R.LRX_CHK_CTRL, fun n _ v s => chkCtrlWrite n v s),
   (R.LRX_CAP_CTRL, fun n _ v s => capCtrlWrite n v s),
   (R.WNC_LANE_CFG, fun i _ v s =>
      let s := s.writePlain R.WNC_LANE_CFG v i
      if v.getLsbD 24 then s.reseed i else s),
   (R.CAP_CTRL, fun _ _ v s => capCtrlRegWrite v s),
   (R.CAP_PWR, fun _ _ v s =>
      let s := s.writePlain R.CAP_PWR v
      s.put F.CAP_PWR_ENG_EN (engHeld s (s.get F.CAP_PWR_ENG_EN))),
   (R.CAP_SNAP, fun _ _ v s => capSnapWrite v s),
   (R.HST_RX_CTRL, fun h _ v s => hstRxCtrlWrite h v s),
   (R.HST_DFE, fun h _ v s => eqWriteHost h (fun e => { e with refs := [signed 10 (bitsOf v 9 0)] }) s),
   (R.HST_FFE_TAP, fun h m v s => eqWriteHost h (setTapPair m v) s),
   (R.HST_TX_FIR0, fun h _ v s => hstShadowWrite h 0 (s.writePlain R.HST_TX_FIR0 v h)),
   (R.HST_TX_FIR1, fun h _ v s => hstShadowWrite h 1 (s.writePlain R.HST_TX_FIR1 v h)),
   (R.HST_TX_CTRL, fun h _ v s => hstTxCtrlWrite h v s),
   (R.HST_TEST_CTRL, fun h _ v s => hstTestCtrlWrite h v s),
   (R.HST_CHK_CTRL, fun h _ v s => hstChkCtrlWrite h v s),
   (R.HST_RSM_CTRL, fun h _ v s => hstRsmCtrlWrite h v s),
   (R.OLC_CTRL, fun n _ v s => olcReqWrite n v s),
   (R.OLC_PROBE, fun n _ v s => olcProbeWrite n v s),
   (R.OLC_FAULT, fun n _ v s => olcFaultWrite n v s),
   (R.OLC_CODE, fun n k v s => olcCodeWrite n k v s),
   (R.OLC_STROBE, fun _ _ v s => olcStrobe (bitsOf v 3 0) s),
   (R.OLC_CH_WAV, fun c _ v s => olcWavWrite c v s),
   (R.LYD_CTRL, fun n _ v s => lydCtrlWrite n v s),
   (R.LYD_FIR, fun n m v s => lydFirWrite n m v s),
   (R.LYD_TXADJ_POL, fun n _ v s => lydPolWrite n v s),
   (R.LYD_USER_FREE, fun _ _ v s => userFreeWrite v s),
   (R.TIM_ADJ_CTRL, fun _ _ v s => timAdjWrite v s),
   (R.TIM_PPSO_CTRL, fun _ _ v s => ppsoWrite (s.flag F.TIM_PPSO_CTRL_EN) (s.writePlain R.TIM_PPSO_CTRL v)),
   (R.KNT_GANG_CFG, fun _ _ v s => s.put F.KNT_GANG_CFG_LEAD (max 60 (bitsOf v 15 0))),
   (R.TOP_RIG_CTRL, fun _ _ v s => rigCtrlWrite v s),
   (R.MON_ADC_CTRL, fun _ _ v s => adcCtrlWrite (s.writePlain R.MON_ADC_CTRL v)),
   (R.MON_WIN_CFG, fun w _ v s => monWinCfgWrite w v s),
   (R.MON_ADC_URG, fun _ _ v s => adcUrgWrite v (s.writePlain R.MON_ADC_URG v)),
   (R.MON_FTH_CFG, fun i _ v s => fathomWrite (Fin.ofNat 32 i) true v (s.writePlain R.MON_FTH_CFG v i)),
   (R.MON_FTH_FILT, fun i _ v s => fathomWrite (Fin.ofNat 32 i) false v (s.writePlain R.MON_FTH_FILT v i)),
   (R.MON_FTH_BASE, fun i _ v s => fathomWrite (Fin.ofNat 32 i) false v (s.writePlain R.MON_FTH_BASE v i)),
   (R.MON_FTH_LIM, fun i _ v s => fathomWrite (Fin.ofNat 32 i) false v (s.writePlain R.MON_FTH_LIM v i)),
   (R.MON_FTH_BIN, fun i _ v s => fathomWrite (Fin.ofNat 32 i) false v (s.writePlain R.MON_FTH_BIN v i)),
   (R.PMU_CTRL, fun _ _ v s => pmuCtrlWrite v (s.writePlain R.PMU_CTRL v)),
   (R.PMU_SAMP_CFG, fun k _ v s => samplerArm (Fin.ofNat 4 k) (s.writePlain R.PMU_SAMP_CFG v k)),
   (R.PMU_SAMP_PER, fun k _ v s => samplerArm (Fin.ofNat 4 k) (s.writePlain R.PMU_SAMP_PER v k)),
   (R.PWR_BLK_EN, fun _ _ v s => blkEnWrite v s),
   (R.PWR_LANE_RST, fun _ _ v s => laneRstWrite v s),
   (R.PWR_RST, fun _ _ v s => if v.getLsbD 0 then aonReset 4 s else s),
   (R.ECC_CTRL, fun _ _ v s => eccCtrlWrite v (s.writePlain R.ECC_CTRL v)),
   (R.HWS_PORT_CTRL, fun p _ v s => hwsCtrlWrite p v s)]

/-- Write v to register r, repetition (n, m): what the register's own rules say, else each field as its type says. -/
def regWrite (r : RegD) (n m : Nat) (v : Word) (s : State) : State :=
  match writeHooks.find? fun h => h.1.base = r.base with
  | some h => h.2 n m v s
  | none => s.writePlain r v n m

/-! ## The checks of an access (R27) -/

/-- A capture in the TOP registers: 0 unmapped, 1 narrow or unaligned, 2 firewall or policy refusal (R26, R28). -/
def State.capture (s : State) (q : Req) (a cause : Nat) (write : Bool) : State :=
  let s := s.setWord R.TOP_DECERR_ADDR (BitVec.ofNat 32 a)
  let s := ((s.put F.TOP_DECERR_STAT_CAUSE cause).putB F.TOP_DECERR_STAT_WRITE write).put F.TOP_DECERR_STAT_REQ (reqNum q)
  (s.addSat F.TOP_DECERR_STAT_COUNT 1).perf 0xF7

/-- DOMAIN of an off-block access: the block's own code, MGMT where it has none. DESIGN CHOICE, log 20. -/
def offDomain (a : Nat) : Nat :=
  match blockOf a with
  | some 24 => 0x02
  | some 25 => 0x50
  | some 26 => 0x51
  | some b => if b < 9 then 0x20 + b else 0x40 + (b - 16)
  | none => 0x01

/-- An off-block access is captured and counted; it wakes nothing (R383). -/
def State.offAccess (s : State) (q : Req) (a : Nat) (write : Bool) : State :=
  let s := s.setWord R.PWR_OFFACC_ADDR (BitVec.ofNat 32 a)
  let s := ((s.put F.PWR_OFFACC_STAT_DOMAIN (offDomain a)).putB F.PWR_OFFACC_STAT_WRITE write).put
    F.PWR_OFFACC_STAT_REQ (reqNum q)
  (s.addSat F.PWR_OFFACC_STAT_COUNT 1).perf 0xF6

/-- The block at address a is off or changing state: AON blocks answer in every state but OFF (R383).
DEDUCED, log 101. -/
def blockOff (s : State) (a : Nat) : Bool :=
  if a < 0x17000000 then false
  else !s.mgmtOn || (match blockOf a with
    | some b => !(s.word R.PWR_BLK_EN).getLsbD b || s.pwr.enable.contains b
    | none => false)

/-- The test port has the rights of its column: DBG_LOCK is not blown, or an unlock response was accepted (R332, R354).
DEDUCED, log 18. -/
def jtagOpen (s : State) : Bool := !s.fw.otp.dbgLock || s.fw.debug ≠ .locked

/-- A Rigger core. -/
def isRigger : Req → Bool | .rigger _ => true | _ => false
/-- Cleat or a Rigger core. -/
def isCore : Req → Bool | .cleat => true | .rigger _ => true | _ => false

/-- A is a mailbox word or doorbell, whose writes R287 judges. -/
def mbxTarget (r : RegD) : Bool := r.base = R.MBX_W0.base || r.base = R.MBX_W.base || r.base = R.MBX_DB.base

/-- The firewall lets requester q access register r, repetition n (R332). -/
def regGrant (s : State) (q : Req) (r : RegD) (n : Nat) (write : Bool) : Bool :=
  if q = .jtag && !jtagOpen s then false
  else if mbxTarget r then true
  else if q = .dma then false
  else if r.base = R.TOP_RIG_CTRL.base then isCore q
  else if r.base = R.MBX_IRING_W.base || r.base = R.MBX_IRING_STAT.base then
    (match n with | 0 => q = .cleat | 1 => isRigger q | _ => q = .jtag)
  else if 0x16000000 ≤ r.base && r.base < 0x17000000 then
    (match q with
    | .host => !write && s.mbx.policyBits.getLsbD 0
    | .hawser => !write
    | _ => true)
  else true

/-- The firewall lets requester q access SRAM at address a (R332, R399); writes to a staging buffer follow R287. -/
def sramGrant (s : State) (q : Req) (a : Nat) (write : Bool) : Bool :=
  let core := isCore q
  let jt := q = .jtag && jtagOpen s
  let reader := (q = .host || jt) && !write
  if a < 0x80600000 then core || (jt && !write)
  else if a < 0x80E00000 then core || q = .dma
  else if a < 0x81700000 then core || q = .dma || reader
  else if a < 0x81B00000 then core || q = .dma || jt || (q = .host && s.cmis.priv && s.mbx.policyBits.getLsbD 4)
  else if a < 0x81D00000 then core || q = .dma || reader
  else if a < 0x81E00000 then core || q = .dma || q = .hawser
  else if a < 0x81F00000 then core || q = .dma || reader
  else if a < 0x81F51000 then !write && (core || jt)
  else if a < 0x81F60000 then q = .cleat
  else if a < 0x81F6F000 then q ≠ .dma && (q ≠ .jtag || jt)
  else core && !(0x81FC0000 ≤ a && (a - 0x81FC0000) / 0x1000 < s.ecc.retired.length)

/-- The write v would change an RWL field of register r, repetition (n, m): LOCKOUT is one on which a 1 acts (R473). -/
def rwlChanges (s : State) (r : RegD) (n m : Nat) (v : Word) : Bool :=
  if r.base = R.OLC_FAULT.base then v.getLsbD 8 && s.flag F.OLC_FAULT_LOCKOUT n
  else r.fields.any fun f => f.kind = .rwl && bitsOf v f.hi f.lo ≠ bitsOf (s.word r n m) f.hi f.lo

/-- The RWL policy lets requester q change register r, repetition n. DESIGN CHOICE, log 17. -/
def rwlAllows (s : State) (q : Req) (r : RegD) (n : Nat) : Bool :=
  let priv := q = .host && s.cmis.priv
  if q = .cleat then true
  else if r.base = R.OLC_FAULT.base then priv && s.mbx.policyBits.getLsbD 2
  else if r.base = R.MBX_QUOTA.base then priv && s.hostQuota && n ≤ 1
  else if r.base = R.ECC_INJ_ADDR.base || r.base = R.ECC_INJ_CTRL.base then isRigger q || q = .jtag
  else if r.base = R.MON_WIN_LO.base || r.base = R.MON_WIN_HI.base then isRigger q && n > 8
  else if r.base = R.MON_IN_CAL.base then isRigger q && (n < 18 || (45 ≤ n && n < 53))
  else false

/-- The first check of R27 that fails for an access of k bytes by q at address a, and the register there.
DEDUCED, log 14. -/
def regCheck (q : Req) (k a : Nat) (write : Bool) (s : State) : Except Acc (RegD × Nat × Nat) :=
  if k ≠ 4 || a % 4 ≠ 0 then .error .narrow
  else match findReg a with
    | none => .error .unmapped
    | some (r, n, m) =>
      if !regGrant s q r n write then .error .denied
      else if blockOff s a then .error .off
      else .ok (r, n, m)

/-- What a refused access leaves behind, by the check that refused it. -/
def State.refusal (s : State) (q : Req) (a : Nat) (write : Bool) : Acc → State
  | .narrow => s.capture q a 1 write
  | .unmapped => s.capture q a 0 write
  | .denied => s.capture q a 2 write
  | .off => s.offAccess q a write
  | _ => s

/-- The interconnect serves accesses: power is up and no reset is asserted. DESIGN CHOICE, log 16. -/
def State.busUp (s : State) : Bool := s.pwr.vin && !s.pwr.held

/-- A direct write to an address that a knot has staged sets DIRTY in its status (R315). -/
def knotDirty (a : Nat) (s : State) : State :=
  eachBelow 8 (fun k s =>
    if (s.knt.slots[Fin.ofNat 8 k]).entries.any fun e => e.addr = a then s.put F.KNT_SLOT_STAT_DIRTY 1 k else s) s

/-- Requester q writes k bytes of v at register address a. -/
def busWrite (q : Req) (k a : Nat) (v : Word) (s : State) : Acc × State :=
  if !s.busUp then (.off, s)
  else match regCheck q k a true s with
    | .error e => (e, s.refusal q a true e)
    | .ok (r, n, m) =>
      if r.base = R.MBX_W0.base then mbxWordWrite n 0 (s.identOf q) v s
      else if r.base = R.MBX_W.base then mbxWordWrite n (m + 1) (s.identOf q) v s
      else if r.base = R.MBX_DB.base then mbxGo n (s.identOf q) v s
      else if rwlChanges s r n m v && !rwlAllows s q r n then (.denied, s.refusal q a true .denied)
      else (.ok, regWrite r n m v (knotDirty a s))

/-- What a read answers with when it is refused (R26, R383). -/
def Acc.refusedWord : Acc → Word
  | .off => 0x0FF00FF0
  | _ => 0

/-- Requester q reads k bytes at register address a. DESIGN CHOICE, log 9. -/
def busRead (q : Req) (k a : Nat) (s : State) : (Acc × Word) × State :=
  if !s.busUp then ((.off, 0x0FF00FF0), s)
  else match regCheck q k a false s with
    | .error e => ((e, e.refusedWord), s.refusal q a false e)
    | .ok (r, n, m) => let (w, s) := regRead q r n m s; ((.ok, w), s)

/-! ## SRAM (R6, R393, R394) -/

/-- An address of the SRAM range. -/
def isSram (a : Nat) : Bool := 0x80000000 ≤ a && a < 0x82000000

/-- The first check that fails for an access of k bytes by q at SRAM address a. DEDUCED, log 15. -/
def sramCheck (q : Req) (k a : Nat) (write : Bool) (s : State) : Acc :=
  let wide := isRigger q || q = .dma
  if !([1, 2, 4].contains k || (k = 8 && wide)) || a % k ≠ 0 then .narrow
  else if !sramGrant s q a write then .denied
  else if blockOff s a then .off
  else .ok

/-- Requester q writes bytes at SRAM address a; u is what the read of a partial write finds stored. -/
def sramWrite (q : Req) (a : Nat) (bs : List Byte) (u : Upset) (s : State) : Acc × State :=
  if !s.busUp then (.off, s)
  else match sramCheck q bs.length a true s with
    | .ok =>
      let m := (a - 0x81F60000) / 0x1000
      let cause := if 0x81F60000 ≤ a && a < 0x81F6F000 && q ≠ .cleat then stagingCause s m (s.identOf q)
        else if 0x81F60000 ≤ a && a < 0x81F6F000 && s.flag F.MBX_STAT_STG_BUSY m then 3 else 0
      if cause ≠ 0 then (.mbx, s.mbxRefuse m cause)
      else match s.eccWrite a bs (reqNum q) u with
        | (true, s) => (.ok, s)
        | (false, s) => (.uncorrectable, s)
    | e => (e, s.refusal q a true e)

/-- Requester q reads k bytes at SRAM address a; u is what the read finds stored. -/
def sramRead (q : Req) (k a : Nat) (u : Upset) (s : State) : (Acc × List Byte) × State :=
  if !s.busUp then ((.off, leBytes k 0x0FF00FF0), s)
  else match sramCheck q k a false s with
    | .ok =>
      match s.eccRead a (reqNum q) u with
      | (true, s) => ((.ok, s.bytes a k), s)
      | (false, s) => ((.uncorrectable, List.replicate k 0), s)
    | e => ((e, leBytes k e.refusedWord.toNat), s.refusal q a false e)

/-! ## Any address (R25, R27) -/

/-- Requester q writes bytes at address a, in SRAM or elsewhere; u is what the read of a partial SRAM write finds stored. -/
def anyWrite (q : Req) (a : Nat) (bs : List Byte) (u : Upset) (s : State) : Acc × State :=
  if isSram a then sramWrite q a bs u s else busWrite q bs.length a (BitVec.ofNat 32 (leVal bs)) s

/-- Requester q reads k bytes at address a, in SRAM or elsewhere. -/
def anyRead (q : Req) (k a : Nat) (u : Upset) (s : State) : (Acc × List Byte) × State :=
  if isSram a then sramRead q k a u s
  else
    let ((r, w), s) := busRead q k a s
    ((r, leBytes k w.toNat), s)

end Sys2Proof.Machine
end

