-- ==== Sys2Proof/Machine/Knots.lean ====
section
/-! DEFINITION. Sys2Proof/Machine/Knots.lean: knots (R309 to R325): opening, staging, the checks of a cinch, application at
once, at AM boundaries or at a time of day, expiry and abandoning. Gang cinches are in Machine/Gang.lean. -/

namespace Sys2Proof.Machine

def State.knot (s : State) (k : Nat) : Knot := s.knt.slots[Fin.ofNat 8 k]

def State.modKnot (s : State) (k : Nat) (f : Knot → Knot) : State :=
  { s with knt := { s.knt with slots := s.knt.slots.set (Fin.ofNat 8 k) (f s.knt.slots[Fin.ofNat 8 k]) } }

/-- STATE of slot k (R309): 0 FREE, 1 OPEN, 2 ARMED, 3 PREPARED, 4 APPLYING. -/
def State.knotState (s : State) (k : Nat) : Nat := s.get F.KNT_SLOT_STAT_STATE k

/-- The handle of slot k (R310). -/
def State.handle (s : State) (k : Nat) : Nat := k + s.get F.KNT_SLOT_STAT_GEN k * 256

/-- The knot that a handle names, if it names one (R310). DEDUCED, log 82. -/
def State.named (s : State) (h : Nat) : Option Nat :=
  let k := h % 8
  if s.handle k = h && s.knotState k ≠ 0 then some k else none

/-- The knot that command c names and its sender may use (R310, R311). -/
def knotOf (c : Cmd) (s : State) : Except Status Nat :=
  match s.named (c.bits 2 15 0) with
  | none => .error .cancelled
  | some k =>
    if c.ident = s.get F.KNT_SLOT_INFO_OWNER k || c.ident = 3 || c.ident = 4 then .ok k else .error .denied

/-- The slot returns to FREE with its outcome; its entries are released, and disables that waited for it take effect
(R309, R323). A cinch that ends here counts as applied or failed. DEDUCED, log 83. DEDUCED, log 85. -/
def knotFree (k : Nat) (st : Status) (s : State) : State :=
  let cinched := (s.knot k).checking || 2 ≤ s.knotState k
  let s := ((s.put F.KNT_SLOT_STAT_STATE 0 k).put F.KNT_SLOT_STAT_RESULT st.code k).put F.KNT_SLOT_STAT_ENTRIES 0 k
  let s := s.modKnot k fun _ => {}
  blkDeferred (if cinched then s.perf (if st = .done then 0xEE else 0xEF) else s)

/-- The configuration digest (R434): the CRC-32 of the registers of the gang list as they stand. -/
def gangDigest (s : State) : State :=
  let word := fun (a : Word) => match findReg a.toNat with
    | some (r, n, m) => regView s r n m
    | none => 0
  s.setWord R.HWS_GANG_DIGEST (BitVec.ofNat 32 (crc32 (s.hws.gangList.flatMap fun a => leBytes 4 (word a).toNat)))

/-- The knot of slot k ends, and with it the command that works on it; one that has written a register of the gang list
changes the digest. -/
def knotEnd (k : Nat) (st : Status) (result : Nat) (s : State) : State :=
  let c := (s.knot k).cmd.bind s.cmdById
  let listed := st = .done && (s.knot k).entries.any fun e => s.hws.gangList.any fun a => a.toNat = e.addr
  let s := knotFree k st (if listed then gangDigest s else s)
  match c with
  | some c => s.finish c st result
  | none => s

/-! ## Opening and staging (R310 to R316) -/

/-- The lowest-numbered FREE slot (R310). -/
def freeKnot (s : State) : Option Nat := (List.range 8).find? fun k => s.knotState k = 0

/-- Slot k is OPEN for its owner under the next generation, with nothing staged (R310). -/
def knotOpened (owner k : Nat) (s : State) : State :=
  let gen := (s.get F.KNT_SLOT_STAT_GEN k + 1) % 256
  let s := s.setWord R.KNT_SLOT_STAT (BitVec.ofNat 32 (gen * 2 ^ 16 + 2 ^ 13)) k
  let s := s.setWord R.KNT_SLOT_INFO (BitVec.ofNat 32 (owner * 2 ^ 24)) k
  let s := eachBelow 3 (fun i s => s.setWord R.KNT_SLOT_TGT 0 k i) s
  ((s.setWord R.KNT_SLOT_LANES 0 k).setWord R.KNT_SLOT_ERR 0 k).modKnot k fun _ => {}

/-- KNOT_OPEN. -/
def execKnotOpen (m : MBox) (s : State) : Host.Outcome State Fault Refusal :=
  .next (runCmd 0x40 m (fun c s =>
    match freeKnot s with
    | none => s.finish c .queueFull
    | some k => (knotOpened c.ident k s).finish c .done ((knotOpened c.ident k s).handle k)) s)

/-- The registers that a block lets take part, or lets not, where it does not take them all (R316). -/
def knotOnly : List (Nat × Nat × List RegD) :=
  [(0x39000000, 0x3A000000, [R.WNC_LANE_CFG]),
   (0x38000000, 0x39000000, [R.CAP_LANE_CFG, R.CAP_PROT_CFG]),
   (0x50000000, 0x51000000, [R.OLC_CODE, R.OLC_CH_CFG, R.OLC_CH_WAV, R.OLC_CH_WBASE, R.OLC_CH_WLEN, R.OLC_STROBE,
      R.OLC_STROBE_CFG, R.OLC_LOCK_CFG]),
   (0x58000000, 0x59000000, [R.LYD_CTRL, R.LYD_FIR, R.LYD_TXADJ_POL, R.LYD_PER, R.LYD_USER_FREE]),
   (0x12000000, 0x13000000, [R.TIM_TSQ_CFG, R.TIM_PPSI_CTRL, R.TIM_PPSO_CTRL, R.TIM_PPSI_COMP, R.TIM_PPSO_COMP,
      R.TIM_TXCOMP, R.TIM_RXCOMP, R.TIM_ASYM])]
def knotNever : List RegD :=
  [R.LRX_EQ_CTRL, R.LRX_FFE_TAP, R.LRX_MLSE_REF, R.HST_RX_CTRL, R.HST_DFE, R.HST_FFE_TAP]

/-- Register r may take part in a knot (R316). -/
def knotEligible (r : RegD) : Bool :=
  let is := fun (l : List RegD) => l.any fun x => x.base = r.base
  let inside := fun lo hi => decide (lo ≤ r.base) && decide (r.base < hi)
  (r.fields.any fun f => f.kind = .rw || f.kind = .rw1c || f.kind = .wo) && !(r.fields.any fun f => f.kind = .rwl) &&
  (match knotOnly.find? fun b => inside b.1 b.2.1 with
  | some b => is b.2.2
  | none =>
    !is knotNever && (inside 0x20000000 0x20900000 || inside 0x30000000 0x30900000 || inside 0x40000000 0x41000000
      || inside 0x15000000 0x17000000))

/-- The requester behind a sender identity, for the firewall's check of a staged write (R311). -/
def requesterOf (ident : Nat) : Req :=
  match ident with
  | 3 => .cleat
  | 4 => .rigger 0
  | 5 => .jtag
  | i => if i ≥ 0x80 then .hawser else .host

/-- An entry joins those staged: a second one for an address replaces the first one's data (R314). -/
def stageEntry (l : List KEntry) (e : KEntry) : List KEntry :=
  if l.any fun x => x.addr = e.addr then l.map fun x => if x.addr = e.addr then e else x else l ++ [e]

/-- The entries that a KNOT_STAGE carries. -/
def stagedEntries (c : Cmd) (s : State) : List KEntry :=
  ((List.range (c.bits 2 18 16)).map fun i => { addr := (c.word (3 + 2 * i)).toNat, data := c.word (4 + 2 * i) }) ++
  (List.range (c.extLen / 8)).map fun i =>
    let a := stagingBase c.m + 8 * i
    { addr := leVal (s.bytes a 4), data := BitVec.ofNat 32 (leVal (s.bytes (a + 4) 4)) }

/-- Another knot whose state p accepts holds an entry for one of these addresses: the first such address. -/
def overlap (s : State) (k : Nat) (p : Nat → Bool) (l : List KEntry) : Option Nat :=
  (l.find? fun e => (List.range 8).any fun j =>
    !(j = k) && p (s.knotState j) && (s.knot j).entries.any fun x => x.addr = e.addr).map KEntry.addr

/-- The status with which KNOT_STAGE refuses the entries new for slot k, all being what the slot would then hold: a slot
that is not OPEN, an address that is no register, an entry its owner may not write, or no room (R311 to R314).
DEDUCED, log 80. -/
def stageRefusal (k : Nat) (new all : List KEntry) (s : State) : Option Status :=
  let owner := requesterOf (s.get F.KNT_SLOT_INFO_OWNER k)
  let granted := fun (e : KEntry) => match findReg e.addr with | some (r, n, _) => regGrant s owner r n true | none => false
  if s.knotState k ≠ 1 || (s.knot k).checking then some .conflict
  else if new.any fun e => e.addr % 4 ≠ 0 || (findReg e.addr).isNone then some .badLength
  else if !new.all granted then some .denied
  else if all.length > 512 then some .badLength
  else if knotEntries s + all.length - (s.knot k).entries.length > 2048 then some .queueFull
  else none

/-- The entry's register may take part in a knot (R316). -/
def entryEligible (e : KEntry) : Bool :=
  match findReg e.addr with
  | some (r, _, _) => knotEligible r
  | none => false

/-- Slot k holds the entries all; the first of the new ones that is not eligible is noted (R314, R316). -/
def knotStaged (k : Nat) (new all : List KEntry) (s : State) : State :=
  let s := (s.modKnot k fun x => { x with entries := all }).put F.KNT_SLOT_STAT_ENTRIES all.length k
  match new.find? fun e => !entryEligible e with
  | some e => if s.flag F.KNT_SLOT_STAT_INELIG k then s
      else (s.put F.KNT_SLOT_STAT_INELIG 1 k).put F.KNT_SLOT_ERR_ADDR e.addr k
  | none => s

/-- The result of KNOT_STAGE: the entries held, INELIG, and whether another knot holds one of their addresses (R313). -/
def stageResult (k : Nat) (all : List KEntry) (s : State) : Nat :=
  all.length + (s.get F.KNT_SLOT_STAT_INELIG k) * 2 ^ 10
    + ((overlap s k (fun st => st ≠ 0) all).isSome).toNat * 2 ^ 11

/-- KNOT_STAGE. DEDUCED, log 81. -/
def execKnotStage (m : MBox) (s : State) : Host.Outcome State Fault Refusal :=
  .next (runCmd 0x41 m (fun c s =>
    if c.bits 2 18 16 > 6 then s.finish c .badLength
    else match knotOf c s with
      | .error st => s.finish c st
      | .ok k =>
        let new := stagedEntries c s
        let all := new.foldl stageEntry (s.knot k).entries
        match stageRefusal k new all s with
        | some st => s.finish c st
        | none => (knotStaged k new all s).finish c .done (stageResult k all (knotStaged k new all s))) s)

/-! ## Application (R320 to R322) -/

/-- The LTX_LANE_CFG changes of a knot. -/
def knotMap (s : State) (l : List KEntry) : List (Nat × Word) :=
  (l.filter fun e => 0x20000000 ≤ e.addr && e.addr < 0x20800000 && e.addr % 0x100000 = 0).map fun e =>
    let n := (e.addr - 0x20000000) / 0x100000
    (n, withBits (withBits (s.mapAhead n) 15 8 (bitsOf e.data 15 8)) 2 0 (bitsOf e.data 2 0))

/-- A knot's change of lane n would need a band calibration while the partner is LIVE: a partner that the knot moves out
of the PLL's band too does not count (R46, R321). -/
def knotBandHeld (s : State) (ch : List (Nat × Word)) (n : Nat) : Bool :=
  bandHeld s (ch.filter fun x => x.1 = n) &&
  !((partner n).any fun k => ch.any fun x => x.1 = k && cfgMode x.2 ≠ (s.pll (n / 2)).band)

/-- Write one entry of a knot as a register write would; LTX_LANE_CFG of L0 to L7 is judged on the map after the whole
knot (R318), and one that changes nothing any more is pending all the same. -/
def applyEntry (ch : List (Nat × Word)) (e : KEntry) (s : State) : State :=
  match ch.find? fun x => e.addr = 0x20000000 + 0x100000 * x.1 with
  | some (n, w) =>
    if mapValid (mapWith s ch) && !knotBandHeld s ch n then cfgPend n w s else s.put F.LTX_LANE_STAT_CFG_REJ 1 n
  | none =>
    match findReg e.addr with
    | some (r, n, m) => regWrite r n m e.data s
    | none => s

/-- Write entries of a knot in staging order, strobes after the codes that they load (R320). -/
def applyEntries (ch : List (Nat × Word)) (l : List KEntry) (s : State) : State :=
  let strobe := fun (e : KEntry) => e.addr = R.OLC_STROBE.base
  (l.filter (fun e => !strobe e) ++ l.filter strobe).foldl (fun s e => applyEntry ch e s) s

/-- The line lane that an entry of an AM cinch belongs to, none for the whole set (R321). -/
def entryLane (a : Nat) : Option Nat :=
  let lane := fun lo stride k => if lo ≤ a && a < lo + stride * k then some ((a - lo) / stride) else none
  [lane 0x20000000 0x100000 9, lane 0x30000000 0x100000 9, lane 0x38000100 4 9, lane 0x39000100 4 9, lane 0x50000000 0x100 9,
   lane 0x50001000 0xA0 9, lane 0x58000000 0x1000 9].findSome? id

/-- Apply the whole knot of slot k in one step; it ends with DONE. -/
def knotApply (k : Nat) (s : State) : State :=
  let l := (s.knot k).entries
  applyEntries (knotMap s l) l s

/-- Apply to lane n of an AM cinch: the lane's own entries, and at the last lane those of the whole set (R321); forced
says that no boundary came (R322). DEDUCED, log 84. -/
def knotLaneApply (k n : Nat) (forced : Bool) (s : State) : State :=
  let l := (s.knot k).entries
  let set := s.get F.KNT_SLOT_INFO_SET k
  let inSet := fun (e : KEntry) => (entryLane e.addr).filter fun x => set / 2 ^ x % 2 = 1
  let done := s.get F.KNT_SLOT_LANES_APPLIED k ||| 2 ^ n
  let now := l.filter fun e => match inSet e with | some x => x = n | none => done = set
  let s := (s.put F.KNT_SLOT_LANES_APPLIED done k).put F.KNT_SLOT_STAT_STATE 4 k
  let s := if forced then s.put F.KNT_SLOT_LANES_FORCED (s.get F.KNT_SLOT_LANES_FORCED k ||| 2 ^ n) k else s
  let s := applyEntries (knotMap s l) now s
  if done = set then knotEnd k .done (done + s.get F.KNT_SLOT_LANES_FORCED k * 2 ^ 16) s else s

/-- Lane n still waits in the AM cinch of slot k. -/
def amWaits (s : State) (k n : Nat) : Bool :=
  (s.knotState k = 2 || s.knotState k = 4) && s.get F.KNT_SLOT_INFO_KIND k = 1
    && s.get F.KNT_SLOT_INFO_SET k / 2 ^ n % 2 = 1 && s.get F.KNT_SLOT_LANES_APPLIED k / 2 ^ n % 2 = 0

/-- The boundary of lane n in a direction (true: RX): every armed AM cinch of that direction applies there (R321). -/
def knotBoundary (rx : Bool) (n : Nat) (s : State) : State :=
  eachBelow 8 (fun k s =>
    if amWaits s k n && s.flag F.KNT_SLOT_INFO_DIR k = rx then knotLaneApply k n false s else s) s

/-- The lanes that an AM knot still waits for apply at once (R322). -/
def amForce (k : Nat) (s : State) : State :=
  ((List.range 9).filter (amWaits s k)).foldl (fun s n => if amWaits s k n then knotLaneApply k n true s else s) s

/-- KNOT_AM_WAIT_EXPIRY. DESIGN CHOICE, log 8. -/
def execKnotAmWaitExpiry (k : Fin 8) (s : State) : Host.Outcome State Fault Refusal :=
  if s.get F.KNT_SLOT_INFO_KIND k ≠ 1 then .next s
  else if s.knotState k = 2 then .next (knotEnd k .timedOut 0 s)
  else if s.knotState k = 4 then
    .next (amForce k s)
  else .next s

/-! ## Cinching (R317 to R319) -/

/-- Target t in KNT_SLOTk_TGT0 to TGT2. -/
def knotTarget (k : Nat) (t : Int) (s : State) : State :=
  let sec := (t / secU).toNat
  ((s.setWord R.KNT_SLOT_TGT (BitVec.ofNat 32 (sec / 2 ^ 32)) k 0).setWord R.KNT_SLOT_TGT (BitVec.ofNat 32 sec) k 1).setWord
    R.KNT_SLOT_TGT (BitVec.ofNat 32 (t % secU / 65536).toNat) k 2

/-- The time that a KNOT_CINCH names; a gang cinch that names none takes its lead from now (R317). -/
def cinchTime (kind : Nat) (c : Cmd) (s : State) : Int :=
  let named := todOf (c.bits 4 15 0 * 2 ^ 32 + (c.word 5).toNat) (c.word 6).toNat 0
  if kind = 3 && named = 0 then s.tod + Int.ofNat (s.get F.KNT_GANG_CFG_LEAD) * 65536000 else named

/-- The status with which KNOT_CINCH of this kind refuses slot k before its checks: a slot that is not OPEN, an AM cinch
without a lane, or a time that is none or too far (R317). DEDUCED, log 86. -/
def cinchRefusal (kind : Nat) (c : Cmd) (k : Nat) (s : State) : Option Status :=
  if s.knotState k ≠ 1 || (s.knot k).checking then some .conflict
  else if kind = 1 && c.bits 3 24 16 = 0 then some .badLength
  else if 2 ≤ kind && ((c.word 6).toNat > 999999999 || s.tooFar (cinchTime kind c s)) then some .badLength
  else none

/-- Slot k is cinched by command c and its checks run (R317, R318). -/
def cinchMarked (kind : Nat) (c : Cmd) (k : Nat) (s : State) : State :=
  let t := cinchTime kind c s
  let s := ((s.put F.KNT_SLOT_INFO_KIND kind k).put F.KNT_SLOT_INFO_DIR (c.bits 3 4 4) k).put
    F.KNT_SLOT_INFO_SET (if kind = 1 then c.bits 3 24 16 else 0) k
  let s := knotTarget k t s
  s.modKnot k fun x => { x with
    cmd := some c.id
    checking := true
    target := if 2 ≤ kind then some (t, s.rawTarget t) else none
    late := decide (2 ≤ kind ∧ t - s.tod < 5000 * 65536) }

/-- KNOT_CINCH of the kind given; f is how its command goes on. -/
def cinch (kind : Nat) (m : MBox) (f : Cmd → Nat → State → State) (s : State) : State :=
  runCmd 0x42 m (fun c s =>
    if c.bits 3 1 0 ≠ kind then s
    else match knotOf c s with
      | .error st => s.finish c st
      | .ok k => match cinchRefusal kind c k s with
        | some st => s.finish c st
        | none => f c k (cinchMarked kind c k s)) s

/-- KNOT_CINCH, KIND IMMEDIATE: only its final completion is posted. -/
def execKnotCinchImmediate (m : MBox) (s : State) : Host.Outcome State Fault Refusal :=
  .next (cinch 0 m (fun c k s => s.await c (.knot k)) s)

/-- KNOT_CINCH, KIND AM. -/
def execKnotCinchAm (m : MBox) (s : State) : Host.Outcome State Fault Refusal :=
  .next (cinch 1 m (fun c k s => s.defer c (.knot k)) s)

/-- KNOT_CINCH, KIND TIME. -/
def execKnotCinchTime (m : MBox) (s : State) : Host.Outcome State Fault Refusal :=
  .next (cinch 2 m (fun c k s => s.defer c (.knot k)) s)

/-- Checks 1 to 4 of R318 on the knot of slot k: the first that fails, with the address that KNT_SLOTk_ERR records. -/
def knotCheck (k : Nat) (s : State) : Option (Status × Option Nat) :=
  let l := (s.knot k).entries
  let ch := knotMap s l
  if s.flag F.KNT_SLOT_STAT_INELIG k then some (.denied, none)
  else match overlap s k (fun st => 2 ≤ st) l with
    | some a => some (.conflict, some a)
    | none =>
      if !ch.isEmpty && !mapValid (mapWith s ch) then some (.conflict, none)
      else (l.find? fun e => blockOff s e.addr).map fun e => (.blockOff, some e.addr)

/-- Record the address that failed a check. -/
def knotErr (k : Nat) (a : Option Nat) (s : State) : State :=
  match a with
  | some a => s.put F.KNT_SLOT_ERR_ADDR a k
  | none => s

/-- The blocks that a knot's entries target are held from readiness on (R323). -/
def knotHold (k : Nat) (s : State) : State :=
  s.modKnot k fun x => { x with checking := false, held := (x.entries.filterMap fun e => blockOf e.addr).dedup }

/-- Check 5 for a target: it lay far enough ahead, and is still to come by more than the margin (in 1/65,536 ns). -/
def tooLate (k : Nat) (margin : Int) (s : State) : Bool :=
  (s.knot k).late || (match (s.knot k).target with | some g => decide (g.1 - s.tod ≤ margin) | none => false)

/-- The scheduled knot of slot k applies at its target (R319, R238). -/
def knotDue (k : Nat) (s : State) : Bool :=
  s.knotState k = 2 && 2 ≤ s.get F.KNT_SLOT_INFO_KIND k && s.tim.running &&
  (match (s.knot k).target with | some g => decide (rawDiff s.tim.raw g.2 ≥ 0) | none => false)

/-! ## Status, abandoning, expiry (R312, R324) -/

/-- KNOT_ABANDON. -/
def execKnotAbandon (m : MBox) (s : State) : Host.Outcome State Fault Refusal :=
  .next (runCmd 0x43 m (fun c s =>
    match knotOf c s with
    | .error .cancelled => s.finish c .done 1
    | .error st => s.finish c st
    | .ok k =>
      if s.knotState k ≤ 2 then (knotEnd k .cancelled 0 s).finish c .done 0 else s.finish c .conflict) s)

/-- KNOT_STATUS. -/
def execKnotStatus (m : MBox) (s : State) : Host.Outcome State Fault Refusal :=
  .next (runCmd 0x44 m (fun c s => s.finish c .done (s.word R.KNT_SLOT_STAT (c.bits 2 2 0)).toNat) s)

/-- KNOT_IDLE_EXPIRY. -/
def execKnotIdleExpiry (k : Fin 8) (s : State) : Host.Outcome State Fault Refusal :=
  if s.knotState k = 1 && !(s.knot k).checking && s.get F.KNT_CTRL_IDLE ≠ 0 then
    .next ((knotFree k .timedOut s).post 0x45 0xF (s.handle k))
  else .next s

end Sys2Proof.Machine
end

