-- ==== Sys2Proof/Machine/Gang.lean ====
section
/-! DEFINITION. Sys2Proof/Machine/Gang.lean: gang cinches (R326 to R330), the readiness of every cinch (R318), a member's
STATUS, epoch and digest, reload and push (R426, R434, R435), forwarded commands (R427 to R430), and the commands GANG_STATUS
and GANG_CONFIG (R442, R443). -/

namespace Sys2Proof.Machine

/-- The leader's record of member i. -/
def State.member (s : State) (i : Nat) : Option Member := s.hws.members.find? fun r => r.idx = i

/-- Status of a code (R295). -/
def Status.ofCode (b : Byte) : Option Status :=
  [Status.done, .deferred, .replayed, .badOpcode, .badLength, .denied, .queueFull, .resetAbort, .timedOut, .conflict, .blockOff,
   .versionMismatch, .peerLost, .cancelled, .internalFault].find? fun st => st.code = b.toNat

/-! ## Epoch and broadcasts (R434, R435) -/

/-- Major bytes of the Rigger version and of the Cleat ROM revision in CAPS. -/
def majors (caps : List Byte) : Byte × Byte := (caps.getD 12 0, caps.getD 8 0)

/-- A member is in QUARANTINE while a major version differs from the leader's, as far as it knows the leader's (R435).
DEDUCED, log 166. -/
def quarantineJudge (s : State) : State :=
  match s.hws.majors with
  | some m => s.putB F.HWS_GANG_STAT_QUARANTINE (!s.leads && m ≠ majors (capsBytes s))
  | none => s

/-- The configuration epoch increments: the leader broadcasts it with its digest, and members must report it. -/
def epochBump (s : State) : State :=
  let s := gangDigest (s.incWrap F.HWS_GANG_EPOCH_VALUE)
  let s := s.modHws fun h => { h with lagging := h.members.map Member.idx }
  let (rigger, rom) := majors (capsBytes s)
  hwBroadcast (.epoch (s.word R.HWS_GANG_EPOCH) (s.word R.HWS_GANG_DIGEST) rigger rom) s

/-- A member's DIVERGED follows its digest against the leader's. -/
def digestJudge (s : State) : State :=
  match s.hws.leadDigest with
  | some d => if s.leads then s else s.putB F.HWS_GANG_STAT_DIVERGED (s.word R.HWS_GANG_DIGEST ≠ d)
  | none => s

/-- DIGEST_RECOMPUTE, at a member. -/
def digestTick (s : State) : State := (digestJudge (gangDigest s)).hwReport false

/-- The epoch, the leader's digest and major versions, and the list and the parameters that a broadcast bears (R434). -/
def epochIn (e d : Word) (m : Byte × Byte) (list : Option (List Word)) (params : Option (BitVec 10 × BitVec 8)) (s : State) : State :=
  let s := match list with | some l => s.modHws fun x => { x with gangList := l } | none => s
  let s := match params with
    | some (t, per) => (s.put F.HWS_TIME_CFG_TOL t.toNat).put F.HWS_TIME_CFG_SYNC_PER per.toNat
    | none => s
  digestTick (quarantineJudge ((s.setWord R.HWS_GANG_EPOCH e).modHws fun x => { x with
    leadDigest := some d, majors := some m }))

/-- EPOCH_RX: a member adopts the epoch; the list and the parameters of a broadcast come with it where it bears them. -/
def execEpochRx (p : Port) (h : HwHdr) (e : EpochMark) (d : Word) (list : Option (List Word))
    (params : Option (BitVec 10 × BitVec 8)) (s : State) : Host.Outcome State Fault Refusal :=
  .next (hwArrive p h (.epoch e.epoch d e.rigger e.rom) (epochIn e.epoch d (e.rigger, e.rom) list params) (fun _ => false) s)

/-! ## Forwarding (R427 to R429) -/

/-- The next forwarding tag: it skips 0. -/
def fwdNext (t : BitVec 16) : BitVec 16 := if t + 1 = 0 then 1 else t + 1

/-- Send a command of the leader's own Rigger to member i; the tag it bears. -/
def ownForward (i op : Nat) (words : List Word) (ext : List Byte) (s : State) : BitVec 16 × State :=
  let tag := fwdNext s.hws.fwdTag
  let w0 := BitVec.ofNat 32 (op * 2 ^ 16 + tag.toNat)
  let w1 := BitVec.ofNat 32 (ext.length * 2 ^ 16 + 1)
  let s := s.modHws fun h => { h with fwdTag := tag }
  let (t, ok) := s.hwTryAll i (msgFrames ((w0 :: w1 :: words) ++ List.replicate (14 - words.length) 0) ext)
  (tag, if ok then t else s.addSat F.HWS_DROP_UNROUTABLE 1)

/-- Start the reload of member i (R434), unless it is under way: a knot is opened on it. -/
def reloadStart (i : Nat) (s : State) : State :=
  if s.hws.reloads.any fun r => r.target = i then s
  else
    let (tag, s) := ownForward i 0x40 [] [] s
    s.modHws fun h => { h with reloads := h.reloads ++ [{ target := i, tag := tag, stage := 1 }] }

/-- A completion of a reload's command: the knot is open and gets the leader's value of every listed address; then it is
cinched at once; then the reload is over. -/
def reloadStep (r : Reload) (st : Status) (result : Word) (s : State) : State :=
  let keep := fun (x : Option Reload) (s : State) => s.modHws fun h => { h with
    reloads := (h.reloads.filter fun q => q.target ≠ r.target) ++ x.toList }
  if st ≠ .done then keep none s
  else if r.stage = 1 then
    let handle := result.toNat
    let entry := fun (a : Word) => match findReg a.toNat with
      | some (g, n, m) => leBytes 4 a.toNat ++ leBytes 4 (regView s g n m).toNat
      | none => []
    let (tag, s) := ownForward r.target 0x41 [result] (s.hws.gangList.flatMap entry) s
    keep (some { r with tag := tag, stage := 2, handle := handle }) s
  else if r.stage = 2 then
    let (tag, s) := ownForward r.target 0x42 [BitVec.ofNat 32 r.handle] [] s
    keep (some { r with tag := tag, stage := 3 }) s
  else keep none s

/-- The forwarded opcodes that a member in QUARANTINE accepts (R429). -/
def quarantineOpen (op : Nat) : Bool := [0x01, 0x02, 0xA0, 0xA2, 0x80].contains op

/-- The message that command c carries goes to member t under a tag of the leader's own, and the command waits for its
completion; with no way there the command completes PEER_LOST (R427, R429). -/
def forward (c : Cmd) (t op : Nat) (s : State) : State :=
  let tag := if c.tag = 0 then 0 else fwdNext s.hws.fwdTag
  let words := [BitVec.ofNat 32 (op * 2 ^ 16 + tag.toNat), c.word 1] ++ (List.range 13).map (fun i => c.word (3 + i)) ++ [0]
  let s := if c.tag = 0 then s else s.modHws fun h => { h with fwdTag := tag }
  let (s, ok) := s.hwTryAll t (msgFrames words (s.bytes (stagingBase c.m) c.extLen))
  if ok then
    (s.modHws fun h => { h with forwards := h.forwards ++ [{ cmd := c.id, target := t, tag := tag }] }).await c
      (.gangForward t tag.toNat)
  else s.finish c .peerLost

/-- GANG_FORWARD. -/
def execGangForward (m : MBox) (s : State) : Host.Outcome State Fault Refusal :=
  .next (runCmd 0x82 m (fun c s =>
    let t := c.bits 2 6 0
    let op := c.bits 2 15 8
    if op = 0x82 then s.finish c .badOpcode
    else if t = s.hwIndex || s.get F.HWS_GANG_STAT_SIZE ≤ t then s.finish c .badLength
    else if !s.leads then s.finish c .denied
    else match s.member t with
      | none => s.finish c .peerLost
      | some r =>
        if r.quarantine && !quarantineOpen op then s.finish c .conflict
        else forward c t op s) s)

/-- The peer mailbox that a message can enter now: none while others wait before it. -/
def msgFits (ws : List Word) (s : State) : Option Nat := if s.hws.inbox.isEmpty then peerFree s ws else none

/-- The message enters that mailbox, or waits. -/
def msgWhole (p : Port) (ws : List Word) (ext : List Byte) (s : State) : State :=
  match msgFits ws s with
  | some m => peerEnter m ws ext s
  | none => s.modHws fun x => { x with inbox := x.inbox ++ [(p.val, ws, ext)] }

/-- The bytes of a message from src on port p with this segment: those before it are kept until the last. -/
def msgBytes (p : Port) (src : Nat) (bytes : List Byte) (first : Bool) (s : State) : List Byte :=
  (if first then [] else ((s.hws.parts.find? fun x => x.1 = p.val && x.2.1 = src).map fun x => x.2.2).getD []) ++ bytes

/-- Words and extended payload of a message (R427). -/
def msgWords (l : List Byte) : List Word := (List.range 16).map fun i => BitVec.ofNat 32 (leVal ((l.drop (4 * i)).take 4))
def msgExt (l : List Byte) : List Byte := (l.drop 64).take (bitsOf ((msgWords l).getD 1 0) 31 16)

/-- A segment of a message comes in; with the last the message is whole. -/
def msgIn (p : Port) (src : Nat) (bytes : List Byte) (first last : Bool) (s : State) : State :=
  let l := msgBytes p src bytes first s
  let s := s.modHws fun h => { h with
    parts := (h.parts.filter fun x => !(x.1 = p.val && x.2.1 = src)) ++ if last then [] else [(p.val, src, l)] }
  if last then msgWhole p (msgWords l) (msgExt l) s else s

/-- The segment ends a message that must wait, and keeps its buffer and its credit until the message enters (R428).
DEDUCED, log 176. -/
def msgWaits (p : Port) (src : Nat) (bytes : List Byte) (first last : Bool) (s : State) : Bool :=
  last && (msgFits (msgWords (msgBytes p src bytes first s)) s).isNone

/-- The residence time of a MSG frame that is taken goes to Fathom source 0x0A (R422, R364). -/
def msgOffer (p : Port) (h : HwHdr) (m : HwMsg) (ns : BitVec 16) (s : State) : State :=
  if hwTakes s p h m then
    fathomOffer 0x0A (fun f => bitsOf f 1 0 = p.val || bitsOf f 1 0 = 3) (Int.ofNat ns.toNat) s
  else s

/-- MSG_RX: a segment of a forwarded message, which has been here for ns; a whole message enters the lowest-numbered empty
peer mailbox, or waits and keeps its credit (R428). -/
def execMsgRx (p : Port) (h : HwHdr) (g : Segment) (ns : BitVec 16) (s : State) : Host.Outcome State Fault Refusal :=
  let m : HwMsg := .msg g.bytes g.first g.last
  .next (hwArrive p h m (msgIn p h.src g.bytes g.first g.last) (msgWaits p h.src g.bytes g.first g.last) (msgOffer p h m ns s))

/-- Member i has taken the message forwarded under this tag. -/
def takenIn (i : Nat) (tag : BitVec 16) (s : State) : State :=
  s.modHws fun x => { x with
    forwards := x.forwards.map fun f => if f.target = i && f.tag = tag then { f with taken := true } else f }

/-- TAKEN_RX. -/
def execTakenRx (p : Port) (h : HwHdr) (tag : BitVec 16) (s : State) : Host.Outcome State Fault Refusal :=
  .next (hwArrive p h (.taken tag) (takenIn h.src tag) (fun _ => false) s)

/-- The forwarding that a completion from member i for word w0 belongs to: the oldest with its tag and opcode. -/
def forwardOf (s : State) (i : Nat) (w0 : Word) : Option (Forward × Cmd) :=
  s.hws.forwards.findSome? fun f =>
    if f.target = i && f.tag.toNat = bitsOf w0 15 0 then
      (s.cmdById f.cmd).bind fun c => if c.bits 2 15 8 = bitsOf w0 23 16 then some (f, c) else none
    else none

/-- A completion of member i: a step of its reload, an answer to the command that was forwarded to it, with its staged
result, or an orphan (R429). -/
def completionIn (i : Nat) (x : Cpl) (staged : List Byte) (s : State) : State :=
  match s.hws.reloads.find? fun r => r.target = i && r.tag.toNat = bitsOf x.w0 15 0 with
  | some r => if x.final then reloadStep r x.status x.result s else s
  | none =>
    match forwardOf s i x.w0 with
    | none => s.addSat F.HWS_DROP_ORPHAN 1
    | some (f, c) =>
      if x.final then
        let s := s.modHws fun h => { h with forwards := h.forwards.erase f }
        let s := if staged.isEmpty then s else s.setBytes (stagingBase c.m) (staged.take 4096)
        s.finishAs c x.status x.orig x.result.toNat
      else s.postCpl (c.word 0) c.m x.status x.orig x.result false

/-- The staged result of a completion from member i with this segment. -/
def stagedBytes (p : Port) (i : Nat) (w0 : Word) (seg : List Byte) (first : Bool) (s : State) : List Byte :=
  (if first then []
   else ((s.hws.staged.find? fun x => x.1 = p.val && x.2.1 = i && x.2.2.1 = w0).map fun x => x.2.2.2).getD []) ++ seg

/-- A COMPLETION frame comes in; with the last segment of its staged result the completion is whole. -/
def completionPart (p : Port) (i : Nat) (x : Cpl) (seg : List Byte) (first last : Bool) (s : State) : State :=
  let l := stagedBytes p i x.w0 seg first s
  let s := s.modHws fun h => { h with
    staged := (h.staged.filter fun y => !(y.1 = p.val && y.2.1 = i && y.2.2.1 = x.w0))
      ++ if last then [] else [(p.val, i, x.w0, l)] }
  if last then completionIn i x l s else s

/-- COMPLETION_RX: the leader posts the target's completion as its own command's, its staged result, which comes in segments,
in the command's staging buffer; one that no command waits for is an orphan. -/
def execCompletionRx (p : Port) (h : HwHdr) (w0 : Word) (status orig : BitVec 8) (epoch : BitVec 16) (result : Word)
    (final : Bool) (mb : MBox) (g : Segment) (s : State) : Host.Outcome State Fault Refusal :=
  match Status.ofCode status, Status.ofCode orig with
  | some st, some og =>
    let c : Cpl := { w0 := w0, status := st, orig := og, epoch := epoch, result := result, final := final, m := mb, seq := 0 }
    .next (hwArrive p h (.completion c g.bytes g.first g.last) (completionPart p h.src c g.bytes g.first g.last) (fun _ => false) s)
  | _, _ => .next s

/-- A forwarding whose MSG or COMPLETION was lost completes with INTERNAL_FAULT. -/
def forwardFails (i : Nat) (tag : BitVec 16) (s : State) : State :=
  match s.hws.forwards.find? fun f => f.target = i && f.tag = tag with
  | none => s
  | some f =>
    let s := s.modHws fun x => { x with forwards := x.forwards.erase f }
    match s.cmdById f.cmd with
    | some c => s.finish c .internalFault
    | none => s

/-- A frame of this or another device was lost (R430): of a MSG the leader is the source; of a COMPLETION the source is the
target, which passes the notice on to the leader. -/
def droppedIn (src dst type : Nat) (tag : BitVec 16) (s : State) : State :=
  if type = 0x10 && src = s.hwIndex then forwardFails dst tag s
  else if type = 0x13 && dst = s.hwIndex then forwardFails src tag s
  else if type = 0x13 && src = s.hwIndex then s.hwSendTo dst (.dropped src dst type tag)
  else s

/-- DROPPED_RX. -/
def execDroppedRx (p : Port) (h : HwHdr) (src dst : Fin 128) (type : Byte) (tag : BitVec 16) (s : State) :
    Host.Outcome State Fault Refusal :=
  .next (hwArrive p h (.dropped src dst type.toNat tag) (droppedIn src dst type.toNat tag) (fun _ => false) s)

/-! ## Images pushed to a member (R435) -/

/-- The segment goes into firmware staging, and the last one starts the write of the image if it passes (R443). -/
def pushIn (offset : Nat) (bytes : List Byte) (last : Bool) (s : State) : State :=
  if 0x800000 < offset + bytes.length then s
  else
    let s := s.setBytes (0x80600000 + offset) bytes
    if !last || s.fw.write.isSome then s
    else
      let r := s.stagedImage
      match imageFail s r 1 0 with
      | some c => s.noteFail (some c)
      | none => (s.modFw fun f => { f with
          write := some { type := 1, slotB := !f.slotB, len := r.length } }).modHws fun x => { x with pushed := 1 }

/-- PUSH_RX: a segment goes into firmware staging; after the last, the member runs Complete, and then Run and Commit. -/
def execPushRx (p : Port) (h : HwHdr) (offset : Fin 8388608) (bytes : List Byte) (last : Bool) (s : State) :
    Host.Outcome State Fault Refusal :=
  .next (hwArrive p h (.push offset bytes last) (pushIn offset bytes last) (fun _ => false) s)

/-- The segments of the leader's running Rigger image. -/
def pushSegments (s : State) : List HwMsg :=
  let base := slotBase s.fw.slotB
  let len := min (areaSize 1) (s.flashImage base).length
  let k := (len + 255) / 256
  (List.range k).map fun i =>
    .push (256 * i) ((List.range (min 256 (len - 256 * i))).map fun j => s.flashByte (base + 256 * i + j)) (i + 1 = k)

/-! ## Gang cinches (R326 to R329) -/

/-- Result of a gang cinch that an index i caused to end, with its cause code (R329). -/
def gangResult (i cause : Nat) : Nat := i * 2 ^ 16 + cause * 2 ^ 24

/-- A gang cinch whose every device has reported completes, and the epoch moves on. -/
def gangSettle (k : Nat) (s : State) : State :=
  let x := s.knot k
  if x.leads && x.applied && x.parts.all fun q => q.applied || q.diverged then
    let gone := (x.parts.filter fun q => q.diverged && !q.applied).map KPart.idx
    let low := gone.foldl min 127
    let n := 1 + (x.parts.filter fun q => q.applied).length
    epochBump (knotEnd k .done (n + (if gone.isEmpty then 0 else gone.length * 2 ^ 8 + low * 2 ^ 16)) s)
  else s

/-- Settle every gang cinch that can be. -/
def gangSettleAll (s : State) : State := eachBelow 8 gangSettle s

/-- Why the leader aborts a gang cinch before it sends anything (R326): status, first cause's index, cause code. -/
def gangAbort (k : Nat) (s : State) : Option (Status × Nat × Nat) :=
  let bad := (s.knot k).parts.findSome? fun q => (s.member q.idx).bind fun r =>
    if r.suspect then some (Status.conflict, q.idx, 3) else if r.quarantine then some (.conflict, q.idx, 4) else none
  match bad with
  | some b => some b
  | none =>
    if s.flag F.HWS_GANG_STAT_SPLIT then some (.conflict, 0, 5)
    else match (s.knot k).target with
      | some g => if g.1 - s.tod < Int.ofNat (s.get F.KNT_GANG_CFG_LEAD) * 65536000 then some (.timedOut, 0, 6) else none
      | none => none

/-- The participants of a gang knot are those staged with command c; a gang that cannot take it ends the knot (R326). -/
def cinchGang (c : Cmd) (k : Nat) (s : State) : State :=
  let part := fun (i : Nat) =>
    let w := leVal (s.bytes (stagingBase c.m + 4 * i) 4)
    ({ idx := w % 128, handle := w / 256 % 65536 } : KPart)
  let parts := (List.range (c.extLen / 4)).map part
  let s := (s.modKnot k fun x => { x with leads := s.leads || !parts.isEmpty, parts := parts }).defer c (.knot k)
  if parts.isEmpty && s.get F.HWS_GANG_STAT_SIZE = 1 then s.modKnot k fun x => { x with leads := false }
  else match gangAbort k s with
    | some (st, i, cause) => knotEnd k st (gangResult i cause) s
    | none => s

/-- KNOT_CINCH, KIND GANG. -/
def execKnotCinchGang (m : MBox) (s : State) : Host.Outcome State Fault Refusal :=
  .next (
    if !s.leads && s.hws.leader.isSome then runCmd 0x42 m (fun c s => if c.bits 3 1 0 = 3 then s.finish c .denied else s) s
    else cinch 3 m cinchGang s)

/-- The leader's knot is PREPARED and every participant is asked to prepare its own (R327). -/
def gangAsk (k : Nat) (s : State) : State :=
  let t := match (s.knot k).target with | some g => g.1 | none => 0
  let s := (s.put F.KNT_SLOT_STAT_STATE 3 k).modKnot k fun x => { x with asked := true }
  (s.knot k).parts.foldl (fun s q => s.hwSendTo q.idx (.prepare t q.handle)) s

/-- The checks of R318 end (R318, R319, R327): the knot fails, applies, is armed, or the leader asks its participants. -/
def execKnotReady (k : Fin 8) (s : State) : Host.Outcome State Fault Refusal :=
  if !(s.knot k).checking then .next s
  else match knotCheck k s with
    | some (st, a) => .next (knotEnd k st 0 (knotErr k a s))
    | none =>
      let kind := s.get F.KNT_SLOT_INFO_KIND k
      if 2 ≤ kind && tooLate k 0 s then .next (knotEnd k .timedOut 0 s)
      else if kind = 0 then .next (knotEnd k .done 0 (knotApply k (knotHold k s)))
      else if (s.knot k).leads then .next (gangAsk k (knotHold k s))
      else .next ((knotHold k s).put F.KNT_SLOT_STAT_STATE 2 k)

/-- Why knot slot k cannot be prepared: another owner's knot, a failed check with the entry it fails on, or a target too
near (R433, R434). -/
def prepareFails (k : Nat) (s : State) : Option (Status × Option Nat) :=
  if s.get F.KNT_SLOT_INFO_OWNER k ≠ 0x80 then some (.denied, none)
  else match knotCheck k s with
    | some f => some f
    | none => if tooLate k 655360000 s then some (.timedOut, none) else none

/-- Member i, the leader, asks this end to prepare the knot it names for time t: PREPARED, or the reason why not (R327). -/
def prepareIn (i : Nat) (t : Int) (handle : Nat) (s : State) : State :=
  let refuse := fun (st : Status) (s : State) => s.hwSendTo i (.refused handle st.code)
  match s.named handle with
  | none => refuse .cancelled s
  | some k =>
    if s.knotState k ≠ 1 || (s.knot k).checking then refuse .conflict s
    else
      let s := (s.put F.KNT_SLOT_INFO_KIND 3 k).modKnot k fun x => { x with checking := true, target := some (t, s.rawTarget t) }
      let s := knotTarget k t s
      match prepareFails k s with
      | some (st, a) => refuse st (knotEnd k st 0 (knotErr k a s))
      | none => ((knotHold k s).put F.KNT_SLOT_STAT_STATE 3 k).hwSendTo i (.prepared handle)

/-- GANG_PREPARE_RX: a participant checks the named knot, and answers. -/
def execGangPrepareRx (p : Port) (h : HwHdr) (sec : BitVec 48) (ns : BitVec 30) (handle : BitVec 16) (s : State) :
    Host.Outcome State Fault Refusal :=
  let t := todOf sec.toNat ns.toNat 0
  .next (hwArrive p h (.prepare t handle.toNat) (prepareIn h.src t handle.toNat) (fun _ => false) s)

/-- The gang cinch that this device leads with participant i under a handle. -/
def gangOf (s : State) (i handle : Nat) : Option Nat :=
  (List.range 8).find? fun k => (s.knot k).leads && (s.knot k).parts.any fun q => q.idx = i && q.handle = handle

/-- Update participant i of slot k. -/
def modPart (k i : Nat) (f : KPart → KPart) (s : State) : State :=
  s.modKnot k fun x => { x with parts := x.parts.map fun q => if q.idx = i then f q else q }

/-- ABORT goes to every participant, and the cinch ends. -/
def gangAborted (k : Nat) (st : Status) (result : Nat) (s : State) : State :=
  let s := (s.knot k).parts.foldl (fun s q => s.hwSendTo q.idx (.abort q.handle)) s
  knotEnd k st result s

/-- Participant i has prepared its knot. -/
def preparedIn (i handle : Nat) (s : State) : State :=
  match gangOf s i handle with
  | some k => modPart k i (fun q => { q with answer := some 0 }) s
  | none => s

/-- GANG_PREPARED_RX. -/
def execGangPreparedRx (p : Port) (h : HwHdr) (handle : BitVec 16) (s : State) : Host.Outcome State Fault Refusal :=
  .next (hwArrive p h (.prepared handle.toNat) (preparedIn h.src handle.toNat) (fun _ => false) s)

/-- Participant i has refused with a status: the knot is aborted, unless it is committed. -/
def refusedIn (i handle : Nat) (status : BitVec 8) (s : State) : State :=
  match gangOf s i handle, Status.ofCode status with
  | some k, some st => if (s.knot k).committed then s else gangAborted k st (gangResult i 1) s
  | _, _ => s

/-- GANG_REFUSED_RX: the cinch ends with the participant's status. -/
def execGangRefusedRx (p : Port) (h : HwHdr) (handle : BitVec 16) (status : BitVec 8) (s : State) :
    Host.Outcome State Fault Refusal :=
  .next (hwArrive p h (.refused handle.toNat status.toNat) (refusedIn h.src handle.toNat status) (fun _ => false) s)

/-- A participant that has not answered. -/
def Knot.unanswered (x : Knot) : Option KPart := x.parts.find? fun q => q.answer.isNone

/-- GANG_DECISION_POINT: T - LEAD/2. -/
def execGangDecisionPoint (k : Fin 8) (s : State) : Host.Outcome State Fault Refusal :=
  let x := s.knot k
  if !x.leads || !x.asked || x.committed then .next s
  else match x.unanswered with
    | some q => .next (gangAborted k .peerLost (gangResult q.idx 2) s)
    | none =>
      .next (((x.parts.foldl (fun s q => s.hwSendTo q.idx (.commit q.handle)) s).modKnot k fun x =>
        { x with committed := true }).put F.KNT_SLOT_STAT_STATE 2 k)

/-- These participants have acknowledged. -/
def gangAcked (k : Nat) (acked : List (Fin 128)) (s : State) : State :=
  s.modKnot k fun x => { x with
    parts := x.parts.map fun q => if acked.any fun i => i.val = q.idx then { q with acked := true } else q }

/-- GANG_COMMIT_REPEAT: acked are the participants whose acknowledgement has come in meanwhile. -/
def execGangCommitRepeat (k : Fin 8) (acked : List (Fin 128)) (s : State) : Host.Outcome State Fault Refusal :=
  let x := s.knot k
  if !x.committed || x.applied then .next s
  else
    let s := gangAcked k acked s
    .next (((s.knot k).parts.filter fun q => !q.acked).foldl (fun s q => s.hwSendTo q.idx (.commit q.handle)) s)

/-- The prepared knot of this handle is armed. -/
def commitIn (handle : Nat) (s : State) : State :=
  match s.named handle with
  | some k => if s.knotState k = 3 && !(s.knot k).leads then s.put F.KNT_SLOT_STAT_STATE 2 k else s
  | none => s

/-- GANG_COMMIT_RX: the prepared knot is armed. -/
def execGangCommitRx (p : Port) (h : HwHdr) (handle : BitVec 16) (s : State) : Host.Outcome State Fault Refusal :=
  .next (hwArrive p h (.commit handle.toNat) (commitIn handle.toNat) (fun _ => false) s)

/-- The prepared knot of this handle ends CANCELLED. -/
def abortIn (handle : Nat) (s : State) : State :=
  match s.named handle with
  | some k => if s.knotState k = 3 && !(s.knot k).leads then knotEnd k .cancelled 0 s else s
  | none => s

/-- GANG_ABORT_RX: the prepared knot is freed. -/
def execGangAbortRx (p : Port) (h : HwHdr) (handle : BitVec 16) (s : State) : Host.Outcome State Fault Refusal :=
  .next (hwArrive p h (.abort handle.toNat) (abortIn handle.toNat) (fun _ => false) s)

/-- Participant i has applied its knot. -/
def appliedIn (i handle : Nat) (s : State) : State :=
  match gangOf s i handle with
  | some k => gangSettle k (modPart k i (fun q => { q with applied := true, acked := true }) s)
  | none => s

/-- GANG_APPLIED_RX. -/
def execGangAppliedRx (p : Port) (h : HwHdr) (handle : BitVec 16) (s : State) : Host.Outcome State Fault Refusal :=
  .next (hwArrive p h (.applied handle.toNat) (appliedIn h.src handle.toNat) (fun _ => false) s)

/-- PARTICIPANT_DEADLINE: a knot still PREPARED at T - 10 µs (R328). -/
def execParticipantDeadline (k : Fin 8) (s : State) : Host.Outcome State Fault Refusal :=
  if s.knotState k = 3 && !(s.knot k).leads then
    .next ((((knotEnd k .timedOut 0 s).put F.HWS_GANG_STAT_DIVERGED 1).post 0x46 0xF (s.handle k)).hwReport false)
  else .next s

/-- A scheduled knot applies at its target (R319, R327). -/
def knotFires (k : Nat) (s : State) : State :=
  if !knotDue k s then s
  else
    let x := s.knot k
    let handle := s.handle k
    let s := knotApply k s
    if x.leads then
      gangSettle k ((s.put F.KNT_SLOT_STAT_STATE 4 k).modKnot k fun x => { x with applied := true })
    else
      let s := knotEnd k .done 0 s
      if s.get F.KNT_SLOT_INFO_KIND k = 3 && x.cmd.isNone then s.hwSendTo 0 (.applied handle) else s

/-- SCHEDULED_TIME_REACHED: RAW has reached the converted target of the pending TIME_ADJUST, or of the knot of a slot. -/
def execScheduledTimeReached (k : Option (Fin 8)) (s : State) : Host.Outcome State Fault Refusal :=
  match k with
  | none => .next (timeAdjustFires s)
  | some k => .next (knotFires k s)

/-! ## STATUS at the leader (R426, R433 to R435) -/

/-- Major bytes of a Rigger version and of a Cleat ROM revision, as CAPS bears them, agree with this device's. -/
def compatible (s : State) (caps : List Byte) : Bool := majors caps = majors (capsBytes s)

/-- The STATUS of member i at the leader: its record, new marks and their events, and what waits for it. -/
def statusIn (i : Nat) (st : HwStatus) (s : State) : State :=
  if !s.leads then s
  else
    let f := fun lo k => leVal ((st.caps.drop lo).take k)
    let serial := BitVec.ofNat 64 (f 0 8)
    let epoch := BitVec.ofNat 32 (f 16 4)
    let old := (s.member i).filter fun r => r.serial = serial
    let was := fun (g : Member → Bool) => match old with | some r => g r | none => false
    let cur := epoch = s.word R.HWS_GANG_EPOCH
    let same := cur && st.digest = s.word R.HWS_GANG_DIGEST
    let diverged := st.diverged || (if cur then !same else was Member.diverged)
    let quarantine := !compatible s st.caps
    let new : Member := { idx := i, serial := serial, depth := st.depth, up := st.up, version := BitVec.ofNat 32 (f 12 4),
                          rom := BitVec.ofNat 32 (f 8 4), epoch := epoch, digest := st.digest, e := st.e, ports := st.ports,
                          diverged := diverged, quarantine := quarantine, suspect := st.suspect,
                          suspectDepth := st.suspectDepth }
    let moved := match old with | some r => r.ports ≠ st.ports | none => false
    let s := s.modHws fun h => { h with
      members := (h.members.filter fun r => r.idx < i) ++ [new] ++ (h.members.filter fun r => i < r.idx)
      report := h.report || (moved && h.disc.isNone)
      lagging := if cur then h.lagging.filter fun x => !(x = i) else h.lagging }
    let s := if diverged && !was Member.diverged then s.post 0x85 0xF i else s
    let s := if quarantine && !was Member.quarantine then s.post 0x86 0xF i else s
    let s := if st.suspect && !was Member.suspect then s.post 0x87 0xF (i + st.suspectDepth.toNat * 256) else s
    let s := if diverged && !quarantine && s.flag F.HWS_TIME_CFG_AUTO_RELOAD && s.fw.running then reloadStart i s else s
    let s := if same && !st.diverged then s.finishWhere (fun w => w = .gangReload i) .done else s
    let s := if f 12 4 = leVal s.riggerVersion then
        s.finishWhere (fun w => match w with | .gangPush l => l.contains i | _ => false) .done else s
    let s := if st.diverged then
        eachBelow 8 (fun k s => if (s.knot k).committed then modPart k i (fun q => { q with diverged := true }) s else s) s
      else s
    gangSettleAll s

/-- STATUS_RX. -/
def execStatusRx (p : Port) (h : HwHdr) (st : HwStatus) (s : State) : Host.Outcome State Fault Refusal :=
  .next (hwArrive p h (.status st) (statusIn h.src st) (fun _ => false) s)

/-- Member i has diverged; the first time it is an event. -/
def memberLags (i : Nat) (s : State) : State :=
  let was := (s.member i).any Member.diverged
  let s := s.modHws fun h => { h with
    lagging := h.lagging.filter fun x => !(x = i)
    members := h.members.map fun r => if r.idx = i then { r with diverged := true } else r }
  if was then s else s.post 0x85 0xF i

/-- EPOCH_LAG_TIMEOUT: member i has not reported the epoch of the broadcast 200 ms ago. -/
def execEpochLagTimeout (i : Fin 128) (s : State) : Host.Outcome State Fault Refusal :=
  if !s.leads || !s.hws.lagging.contains i.val then .next s
  else
    let quarantine := (s.member i).any Member.quarantine
    let s := memberLags i s
    .next (if !quarantine && s.flag F.HWS_TIME_CFG_AUTO_RELOAD && s.fw.running then reloadStart i s else s)

/-- DIGEST_RECOMPUTE, every 100 ms. -/
def execDigestRecompute (s : State) : Host.Outcome State Fault Refusal :=
  if s.mgmtOn then .next (gangSettleAll (digestTick s)) else .next s

/-! ## GANG_STATUS and GANG_CONFIG (R442, R443) -/

/-- A member's 32 bytes; own says that the record is this device's. -/
def memberBytes (leader split : Bool) (r : Member) : List Byte :=
  let bit := fun (b : Bool) (i : Nat) => b.toNat * 2 ^ i
  leBytes 1 r.idx ++ leBytes 1 r.depth ++ leBytes 1 r.up ++ leBytes 1 (bit leader 0 + bit r.diverged 1 + bit r.quarantine 2
    + bit r.suspect 3 + bit split 4 + bit r.suspectDepth 5) ++ leBytes 8 r.serial.toNat ++ leBytes 4 r.version.toNat
    ++ leBytes 4 r.rom.toNat ++ leBytes 4 r.epoch.toNat ++ leBytes 4 r.digest.toNat ++ leBytes 2 (min 0xFFFF r.e) ++ [r.ports, 0]

/-- This device's own record. -/
def ownRecord (s : State) : Member :=
  let st := ownStatus s
  { idx := s.hwIndex, serial := s.fw.serial, depth := st.depth, up := st.up, version := s.riggerWord, rom := s.fw.rom,
    epoch := s.word R.HWS_GANG_EPOCH, digest := st.digest, e := st.e, ports := st.ports, diverged := st.diverged,
    quarantine := s.flag F.HWS_GANG_STAT_QUARANTINE, suspect := st.suspect, suspectDepth := st.suspectDepth }

/-- The device's own record of GANG_STATUS, and for a leader those of the other members. -/
def ownBytes (s : State) : List Byte :=
  memberBytes (s.flag F.HWS_GANG_STAT_LEADER) (s.flag F.HWS_GANG_STAT_SPLIT) (ownRecord s)
def othersBytes (s : State) : List Byte :=
  (List.range (s.get F.HWS_GANG_STAT_SIZE - 1)).flatMap fun i => match s.member (i + 1) with
    | some r => memberBytes false false r
    | none => leBytes 1 (i + 1) ++ List.replicate 31 0

/-- GANG_STATUS; a member that has not reported yet has a record of zeros. -/
def execGangStatus (m : MBox) (s : State) : Host.Outcome State Fault Refusal :=
  .next (runCmd 0x80 m (fun c s =>
    s.finishStaged c (ownBytes s ++ if s.leads then othersBytes s else [])) s)

/-- Run GANG_CONFIG if its ACTION is a: DENIED elsewhere than at the leader, BAD_OPCODE for actions 5 to 7. -/
def gangConfig (a : Nat) (m : MBox) (f : Cmd → State → State) (s : State) : State :=
  runCmd 0x81 m (fun c s =>
    if !s.leads then s.finish c .denied
    else if 4 < c.bits 2 2 0 then s.finish c .badOpcode
    else if c.bits 2 2 0 = a then f c s else s) s

/-- The tolerance, the period and AUTO_RELOAD that command c names; the first two go to the members. -/
def gangParameters (c : Cmd) (s : State) : State :=
  let s := if c.on 3 10 then s.put F.HWS_TIME_CFG_TOL (c.bits 3 9 0) else s
  let s := if c.on 3 24 then s.put F.HWS_TIME_CFG_SYNC_PER (c.bits 3 23 16) else s
  let s := if c.on 3 29 then s.put F.HWS_TIME_CFG_AUTO_RELOAD (c.bits 3 28 28) else s
  if c.on 3 10 || c.on 3 24 then hwBroadcast (.parameters s.tol s.syncPer) s else s

/-- GANG_CONFIG, action 0. -/
def execGangConfigParameters (m : MBox) (s : State) : Host.Outcome State Fault Refusal :=
  .next (gangConfig 0 m (fun c s =>
    if (c.on 3 10 && (c.bits 3 9 0 < 50 || 500 < c.bits 3 9 0)) || (c.on 3 24 && (c.bits 3 23 16 < 1 || 100 < c.bits 3 23 16))
    then s.finish c .badLength
    else (gangParameters c s).finish c .done) s)

/-- An address may stand in the gang list: its register may take part in a knot and has RW fields alone. -/
def listable (a : Word) : Bool :=
  a.toNat % 4 = 0 && (match findReg a.toNat with
    | some (r, _, _) => knotEligible r && r.fields.all fun f => f.kind = .rw
    | none => false)

/-- The words of command c's extended payload. -/
def stagedWords (c : Cmd) (s : State) : List Word :=
  (List.range (c.extLen / 4)).map fun i => BitVec.ofNat 32 (leVal (s.bytes (stagingBase c.m + 4 * i) 4))

/-- GANG_CONFIG, action 1. -/
def execGangConfigList (m : MBox) (s : State) : Host.Outcome State Fault Refusal :=
  .next (gangConfig 1 m (fun c s =>
    let l := stagedWords c s
    if !l.all listable then s.finish c .badLength
    else (epochBump (hwBroadcast (.gangList l) (s.modHws fun h => { h with gangList := l }))).finish c .done) s)

/-- GANG_CONFIG, action 2: it ends with the run. -/
def execGangConfigRediscover (m : MBox) (s : State) : Host.Outcome State Fault Refusal :=
  .next (gangConfig 2 m (fun c s =>
    let s := s.await c .gangRediscover
    if s.hws.disc.isSome then s else discStart s) s)

/-- GANG_CONFIG, action 3. -/
def execGangConfigPush (m : MBox) (s : State) : Host.Outcome State Fault Refusal :=
  .next (gangConfig 3 m (fun c s =>
    let t := c.bits 3 6 0
    if (s.member t).isNone || (s.hwRoute t).isNone then s.finish c .peerLost
    else (pushSegments s).foldl (fun s x => s.hwSendTo t x) (s.await c (.gangPush [t]))) s)

/-- GANG_PUSH_TIMEOUT: the push to member i has not ended within 30 s. -/
def execGangPushTimeout (i : Fin 128) (s : State) : Host.Outcome State Fault Refusal :=
  .next (s.finishWhere (fun w => match w with | .gangPush l => l.contains i.val | _ => false) .timedOut)

/-- GANG_CONFIG, action 4. -/
def execGangConfigReload (m : MBox) (s : State) : Host.Outcome State Fault Refusal :=
  .next (gangConfig 4 m (fun c s =>
    let t := c.bits 3 6 0
    if (s.member t).isNone || (s.hwRoute t).isNone then s.finish c .peerLost
    else reloadStart t (s.await c (.gangReload t))) s)

end Sys2Proof.Machine
end

