-- ==== Sys2Proof/Machine/Boundary.lean ====
section
/-! DEFINITION. Sys2Proof/Machine/Boundary.lean: the AM boundaries of the line lanes with everything bound to them
(R53, R57), and the laser safety faults (R194). -/

namespace Sys2Proof.Machine

/-- TX_AM_BOUNDARY of lane n: after the data sent since the last command that gave some, the knots bound to it, then every
other change; fillA and fillB are the fills of its elastic buffers. A lane without framing has no boundary. -/
def execTxAmBoundary (n : Line) (fillA fillB : Int) (data : TxData) (s : State) : Host.Outcome State Fault Refusal :=
  if s.txFramed n then .next (txBoundary n fillA fillB (knotBoundary false n (txData n data s))) else .next s

/-- RX_AM_BOUNDARY of lane n: after what its receiver took since the last command that said so, the knots bound to it, then
every other change. -/
def execRxAmBoundary (n : Line) (codes : List (BitVec 8)) (lv : List (Fin 4)) (am : List (Option (Fin 4))) (s : State) :
    Host.Outcome State Fault Refusal :=
  if s.rxFramed n then .next (rxBoundary n (knotBoundary true n (rxData n (rxOf codes lv am) s))) else .next s

/-- A disagreement of the lockstep pair also brings ModuleFault (R260), after MgmtInit where the module does not answer
yet. -/
def lockstepFault (s : State) : State :=
  let s := s.put F.TOP_BOOT_STAT_BOOT (s.get F.TOP_BOOT_STAT_BOOT ||| 64)
  if s.cmis.mod = .noAnswer then s.modCmis fun c => { c with faultCause := 0xF0 } else modFault 0xF0 s

/-- SAFETY_FAULT: the condition of fault bit b of R194 has held for its time; n is the lane of bits 0 and 1, which cut that
lane alone. Where the latest conversions do not show the condition there is no fault. DEDUCED, log 48. -/
def execSafetyFault (b : Fin 6) (n : Line) (s : State) : Host.Outcome State Fault Refusal :=
  if !s.faultShows b n then .next s
  else
    let s := if b.val ≤ 1 then faultLane b n s else ((List.range 9).filter s.emits).foldl (fun s k => faultLane b k s) s
    .next (if b = 5 then lockstepFault s else s)

end Sys2Proof.Machine
end

