-- ==== Sys2Proof/Machine/Cmis.lean ====
section
/-! DEFINITION. Sys2Proof/Machine/Cmis.lean: the management bus (R249 to R253), what the CMIS pages show (R257 to R268),
the custom pages B0h to BFh (R273 to R283) with the host register window, and I3C. -/

namespace Sys2Proof.Machine

/-! ## The host register window (R274, R275) -/

def State.modWindow (s : State) (f : Window → Window) : State := s.modCmis fun c => { c with window := f c.window }

/-- STATUS for the outcome of an access. -/
def Acc.window : Acc → Status
  | .ok => .done
  | .narrow => .badLength
  | .unmapped | .uncorrectable => .internalFault
  | .denied | .mbx => .denied
  | .off => .blockOff

/-- A write of CMD starts the access with ADDR and WDATA as they stand; one while BUSY is ignored. Registers and SRAM
both answer; u is what an SRAM read finds stored. DESIGN CHOICE, log 71. -/
def windowStart (write : Bool) (u : Upset) (s : State) : State :=
  let w := s.cmis.window
  let a := w.addr.toNat
  if w.held.isSome then s
  else if isSram a then
    if write then
      let (r, s) := sramWrite .host a (leBytes 4 w.wdata.toNat) u s
      s.modWindow fun w => { w with held := some (r.window.code, none) }
    else
      let ((r, bs), s) := sramRead .host 4 a u s
      let d := if r = .ok || r = .off then BitVec.ofNat 32 (leVal bs) else 0
      s.modWindow fun w => { w with held := some (r.window.code, some d) }
  else if write then
    let (r, s) := busWrite .host 4 a w.wdata s
    s.modWindow fun w => { w with held := some (r.window.code, none) }
  else
    let ((r, d), s) := busRead .host 4 a s
    s.modWindow fun w => { w with held := some (r.window.code, some d) }

/-- REGISTER_WINDOW_READ. -/
def execRegisterWindowRead (u : Upset) (s : State) : Host.Outcome State Fault Refusal := .next (windowStart false u s)

/-- REGISTER_WINDOW_WRITE. -/
def execRegisterWindowWrite (u : Upset) (s : State) : Host.Outcome State Fault Refusal := .next (windowStart true u s)

/-- WINDOW_ACCESS_COMPLETE: STATUS and RDATA are set, BUSY clears, and ADDR moves on under AUTOINC. -/
def execWindowAccessComplete (s : State) : Host.Outcome State Fault Refusal :=
  match s.cmis.window.held with
  | none => .next s
  | some (st, d) => .next (s.modWindow fun w => { w with
      held := none, status := st, rdata := d.getD w.rdata, addr := if w.autoInc then w.addr + 4 else w.addr })

/-! ## Copies into the windows of BBh and BEh -/

/-- The bytes 84h to D3h of page BBh: the outliers, the 16 bins that byte 81h names, and the state of the snapshot of the
instance that byte 80h names (R279). -/
def fathomBytes (s : State) : List Byte :=
  let i := Fin.ofNat 32 (s.cmisByte 0 0xBB 0x80)
  let b := s.mon.fathom[i].snap
  let j := s.cmisByte 0 0xBB 0x81 % 16
  beBytes 4 (unsigned 32 b.low) ++ beBytes 4 (unsigned 32 b.high) ++ List.replicate 4 0
    ++ ((List.range 16).flatMap fun k => beBytes 4 (Bank.get b.bins (16 * j + k) 0))
    ++ beBytes 1 ((s.flag F.MON_FTH_STAT_VALID i).toNat + b.sat.toNat * 2) ++ [0] ++ beBytes 2 (s.get F.MON_FTH_STAT_SEQ i)

/-- FATHOM_READOUT_COPY: bytes 84h to D3h take the last completed snapshot of the instance that 80h names (R279). -/
def execFathomReadoutCopy (s : State) : Host.Outcome State Fault Refusal :=
  .next (s.modCmis fun c => { c with fathom := fathomBytes s })

/-- Eight performance counters from the index of bytes 80h and 81h on (R282). -/
def perfBytes (s : State) : List Byte :=
  let j := s.cmisByte 0 0xBE 0x80 * 256 + s.cmisByte 0 0xBE 0x81
  (List.range 8).flatMap fun k => beBytes 6 (if j + k < 256 then (pmuRead s (j + k)).toNat else 0)

/-- PERF_WINDOW_COPY: eight counters from the index on, or DENIED without PERF_HOST_READ (R282). -/
def execPerfWindowCopy (s : State) : Host.Outcome State Fault Refusal :=
  if s.mbx.policyBits.getLsbD 0 then
    .next (s.modCmis fun c => { c with perf := perfBytes s, perfStatus := Status.done.code })
  else .next (s.modCmis fun c => { c with perf := List.replicate 48 0, perfStatus := Status.denied.code })

/-! ## Writes of the custom pages -/

/-- The field of a custom page that a byte belongs to: its first offset and its length (R251). -/
def customField (page off : Nat) : Nat × Nat :=
  if page = 0xB0 && off < 0x8C then (off / 4 * 4, 4)
  else if 0xB1 ≤ page && page ≤ 0xB8 && off < 0xC0 then (off / 4 * 4, 4)
  else if page = 0xBE && off < 0x82 then (0x80, 2)
  else (off, 1)

/-- A mailbox page's byte is refused: the cause (R287). -/
def mailboxByte (s : State) (page off : Nat) : Nat :=
  if 0xB1 ≤ page && page ≤ 0xB8 && 128 ≤ off then
    (if off < 0xC0 then mbxCause s (page - 0xB1) (s.identOf .host) false
    else if off = 0xC0 then mbxCause s (page - 0xB1) (s.identOf .host) true
    else 0)
  else 0

/-- A whole field of a mailbox page is written (R276). -/
def mailboxWrite (page off : Nat) (w : Word) (s : State) : State :=
  let m := page - 0xB1
  let id := s.identOf .host
  if off < 0xC0 then (mbxWordWrite m ((off - 0x80) / 4) id w s).2
  else match off with
    | 0xC0 => (mbxGo m id w s).2
    | 0xC1 =>
      let s := if w.getLsbD 2 then s.put F.MBX_STAT_EMPTY_IRQ 0 m else s
      if w.getLsbD 3 then s.put F.MBX_STAT_ERROR 0 m else s
    | 0xC4 => s.putB F.MBX_MASK_EMPTY_MASK (w.getLsbD 0) m
    | 0xF0 => if page = 0xB8 && w = 1 then ran s (execCompletionRingPop s) else s
    | _ => s

/-- A whole field of a custom page is written (R273 to R283). -/
def customWrite (page off : Nat) (bs : List Byte) (s : State) : State :=
  let w := BitVec.ofNat 32 (beVal bs)
  let v := bs.headD 0
  match page with
  | 0xB0 =>
    (match off with
    | 0x80 => s.modWindow fun x => { x with addr := w }
    | 0x84 => s.modWindow fun x => { x with wdata := w }
    | 0x8C => if v = 1 then windowStart false .none s else if v = 2 then windowStart true .none s else s
    | 0x8E => s.modWindow fun x => { x with autoInc := v.getLsbD 1 }
    | _ => s)
  | 0xB9 =>
    (match off with
    | 0x90 => if v = 1 then ran s (execEventQueuePop s) else s
    | 0x95 => s.setCmisByte 0 0xB9 0x95 (v.toNat % 16)
    | _ => s)
  | 0xBA =>
    (match off with
    | 0xAA => s.modCmis fun c => { c with failed := c.failed.filter fun n => !(n < 8 && v.getLsbD n) }
    | 0xAB => s.modCmis fun c => { c with failed := c.failed.filter fun n => !(n = 8 && v.getLsbD 0) }
    | _ => s)
  | 0xBB =>
    (match off with
    | 0x80 => s.setCmisByte 0 0xBB 0x80 (v.toNat % 32)
    | 0x81 => s.setCmisByte 0 0xBB 0x81 (v.toNat % 16)
    | 0x82 => if v = 1 then ran s (execFathomReadoutCopy s) else s
    | _ => s)
  | 0xBE =>
    (match off with
    | 0x80 => (s.setCmisByte 0 0xBE 0x80 v.toNat).setCmisByte 0 0xBE 0x81 (bs.getD 1 0).toNat
    | 0x82 => if v = 1 then ran s (execPerfWindowCopy s) else s
    | _ => s)
  | _ => if 0xB1 ≤ page && page ≤ 0xB8 then mailboxWrite page off w s else s

/-! ## What the lower page and pages 00h to AFh show -/

/-- CMIS code of a module state. -/
def ModState.code : ModState → Nat | .noAnswer => 0 | .lowPwr => 1 | .pwrUp => 2 | .ready => 3 | .pwrDn => 4 | .fault => 5

/-- CMIS code of a data-path state. -/
def DpState.code : DpState → Nat
  | .deactivated => 1 | .init => 2 | .deinit => 3 | .activated => 4 | .txTurnOn => 5 | .txTurnOff => 6 | .initialized => 7

/-- CMIS code of a ConfigStatus. -/
def configCode : ConfigStatus → Nat
  | .undefined => 0 | .success => 1 | .rejected => 2 | .invalidAppSel => 3 | .invalidDataPath => 4 | .invalidSI => 5
  | .lanesInUse => 6 | .partialDataPath => 7

/-- CdbStatus: bit 7 busy, bit 6 failed, and the result. It reads busy while Rigger is stopped (R269). -/
def cdbStatusByte (s : State) : Nat :=
  if s.cmis.cdb.busy.isSome || (s.fw.released && !s.fw.running) then 0x83
  else match s.cmis.cdb.status with
    | .success => 1 | .inProgress => 0x83 | .failed => 0x40 | .unknownCommand => 0x41 | .rangeError => 0x42
    | .aborted => 0x43 | .failedBusy => 0x40

/-- Byte i of k bytes of v, most significant first. -/
def beByte (k v i : Nat) : Nat := v / 256 ^ (k - 1 - i) % 256

/-- Application descriptor sel: its host and media interface, lane counts and host lane options (R38). -/
def descriptor (s : State) (sel i : Nat) : Nat :=
  match application sel with
  | none => if sel = 8 && i = 0 then 0xFF else 0
  | some (hosts, media, firsts, mode) =>
    match i with
    | 0 => (Config.cmisConst 0 (86 + 4 * (sel - 1))).toNat
    | 1 => if mode = 3 then s.fw.media.toNat else (Config.cmisConst 0 (87 + 4 * (sel - 1))).toNat
    | 2 => hosts * 16 + media
    | _ => (firsts.map fun f => 2 ^ f).sum

/-- Media lane options of application sel (R38). -/
def mediaOptions (sel : Nat) : Nat :=
  match sel with | 1 | 4 | 6 => 0x01 | 2 => 0x05 | 3 | 5 | 7 => 0x0F | _ => 0

/-- The lower page. PRESUMED, log 61. -/
def lowerByte (s : State) (off : Nat) : Nat :=
  if off = 0 then (if s.fw.otp.discrete then 0x18 else 0x19)
  else if off = 1 then 0x53
  else if off = 2 then (Config.cmisConst 0 2).toNat % 128
  else if off = 3 then s.cmis.mod.code * 2 + (if s.cmis.irq then 0 else 1)
  else if off = 8 || off = 9 then flagByte 0 0 off s
  else if off = 14 || off = 15 then beByte 2 (s.monitor 0 0) (off - 14)
  else if off = 16 || off = 17 then beByte 2 (s.monitor 1 0) (off - 16)
  else if off = 26 || off = 31 || off = 32 then s.cmisByte 0 0 off
  else if off = 37 then cdbStatusByte s
  else if off = 41 then s.cmis.faultCause
  else if off = 85 then 0x02
  else if 86 ≤ off && off ≤ 117 then descriptor s ((off - 86) / 4 + 1) ((off - 86) % 4)
  else if off = 126 then s.cmis.bank.toNat
  else if off = 127 then s.cmis.page.toNat
  else 0

/-- Page 01h: what R259, R265, R38 and R165 fix; the rest is the device's own. DEDUCED, log 174. -/
def advertByte (off : Nat) : Nat :=
  if off = 144 then 0x55
  else if off = 153 then (Config.cmisConst 1 153).toNat % 16 + 0xF0
  else if off = 154 then 0x77
  else if off = 160 then (Config.cmisConst 1 160).toNat &&& 0xE7 ||| 0x10
  else if off = 167 then 0x13
  else if off = 168 then 0x02
  else if 176 ≤ off && off ≤ 182 then mediaOptions (off - 175)
  else (Config.cmisConst 1 off).toNat

/-- The data path of host lane i of bank b. -/
def pathOfLane (s : State) (b i : Nat) : Option DataPath := (s.pathAt (8 * b + i)).bind fun p => s.cmis.paths[p]?

/-- AppSel of a data path: its lane counts and mode tell it. -/
def appSel (p : DataPath) : Nat :=
  ((List.range' 1 7).find? fun k => match application k with
    | some (h, _, _, m) => h = p.host.length && (p.cfg.head?.map fun e => cfgMode e.2) = some m
    | none => false).getD 0

/-- Two lanes of a byte of nibbles, the lower lane in the low one. -/
def nibbles (f : Nat → Nat) (k : Nat) : Nat := f (2 * k) % 16 + f (2 * k + 1) % 16 * 16

/-- Eight bits. -/
def bitsByte (f : Nat → Bool) : Nat := flagByte.maskOfBits f

/-- Page 11h of bank b. -/
def lanesByte (s : State) (b off : Nat) : Nat :=
  if off < 132 then nibbles (fun i => ((pathOfLane s b i).map fun p => p.state.code).getD 1) (off - 128)
  else if off = 132 then bitsByte fun i => s.get F.HST_TX_STAT_CAUSE (8 * b + i) = 0
  else if off = 133 then bitsByte fun i => i < 4 && s.laneState (4 * b + i) = 3
  else if off < 154 then flagByte b 0x11 off s
  else if off < 202 then
    let i := (off - 154) % 16 / 2
    let kind := if off < 170 then 3 else if off < 186 then 2 else 4
    if i < 4 then beByte 2 (s.monitor kind (4 * b + i)) (off % 2) else 0
  else if off < 206 then nibbles (fun i => configCode (Bank.get s.cmis.config (8 * b + i) .undefined)) (off - 202)
  else if off < 214 then
    match pathOfLane s b (off - 206) with
    | some p => if p.state = .deactivated then 0 else appSel p * 16 + (p.host.headD 0 - 8 * b) * 2
    | none => 0
  else 0

/-- Page 14h of bank b: error counters of four lanes, host (selector 02h, 03h) or media (04h), eight bytes each at every
sixteen; the bits counted beside them are the device's own. -/
def countersByte (s : State) (b off : Nat) : Nat :=
  if off < 192 then s.cmisByte b 0x14 off
  else
    let i := (off - 192) / 16
    let k := (off - 192) % 16
    let sel := s.cmisByte b 0x14 128
    if 8 ≤ k then (Config.cmisConst 0x14 off).toNat
    else if sel = 2 then beByte 8 (s.monitor 5 (8 * b + i)) k
    else if sel = 3 then beByte 8 (s.monitor 5 (8 * b + 4 + i)) k
    else if sel = 4 then beByte 8 (s.monitor 6 (4 * b + i)) k
    else 0

/-- A byte of VDM: samples on pages 24h to 27h, latched flags on 2Ch, their masks on 2Dh, and the controls on 2Fh; descriptors
and thresholds are the device's own. DESIGN CHOICE, log 70. -/
def vdmByte (s : State) (b page off : Nat) : Nat :=
  if page = 0x2F then
    (if off = 144 then s.cmisByte b 0x2F 144
    else if off = 145 then s.cmis.frozen.toNat * 128 + s.cmis.unfrozen.toNat * 64
    else 0)
  else if page = 0x2C then flagByte b 0x2C off s
  else if page = 0x2D then s.cmisByte b 0x2D off
  else if 0x24 ≤ page && page ≤ 0x27 then beByte 2 ((vdmShown s b (page - 0x24) ((off - 128) / 2)).getD 0) (off % 2)
  else if page ≤ 0x2B then (Config.cmisConst page (b * 256 + off)).toNat
  else 0

/-- Byte off of a page up to AFh, in the bank selected; what R257 does not list reads 0 (R258). -/
def pageByte (s : State) (b page off : Nat) : Nat :=
  if page = 0 then (if off = 128 then lowerByte s 0 else (Config.cmisConst 0 off).toNat)
  else if page = 1 then advertByte off
  else if page = 2 then s.cmisByte 0 2 off
  else if page = 0x9F then
    (if off = 134 then s.cmis.cdb.reply.length
    else if 136 ≤ off && off - 136 < s.cmis.cdb.reply.length then (s.cmis.cdb.reply.getD (off - 136) 0).toNat
    else s.cmisByte 0 0x9F off)
  else if 0xA0 ≤ page && page ≤ 0xAF then s.cmisByte 0 page off
  else if 1 < b then 0
  else if page = 0x10 || page = 0x13 then s.cmisByte b page off
  else if page = 0x11 then lanesByte s b off
  else if page = 0x14 then countersByte s b off
  else if 0x20 ≤ page && page ≤ 0x2F then vdmByte s b page off
  else 0

/-! ## What the custom pages show -/

/-- Byte at off of big-endian words that start at base. -/
def wordsByte (base : Nat) (f : Nat → Word) (off : Nat) : Nat := beByte 4 (f ((off - base) / 4)).toNat ((off - base) % 4)

/-- B1h to B8h. -/
def mailboxPage (s : State) (page off : Nat) : Nat :=
  let m := page - 0xB1
  let q := s.mbx.host.entries
  if off < 0xC0 then wordsByte 0x80 (s.mbxWord m) off
  else if off = 0xC1 then s.get F.MBX_STAT_FULL m + s.get F.MBX_STAT_TAKEN m * 2 + s.get F.MBX_STAT_EMPTY_IRQ m * 4
    + s.get F.MBX_STAT_ERROR m * 8
  else if off = 0xC2 || off = 0xC3 then beByte 2 (s.get F.MBX_STAT_LAST_TAG m) (off - 0xC2)
  else if off = 0xC4 then s.get F.MBX_MASK_EMPTY_MASK m
  else if page = 0xB8 then
    (if off = 0xD0 || off = 0xD1 then beByte 2 (s.get F.MBX_RING_STAT_PRODUCED) (off - 0xD0)
    else if off = 0xD2 || off = 0xD3 then beByte 2 (s.get F.MBX_RING_STAT_CONSUMED) (off - 0xD2)
    else if off = 0xD4 || off = 0xD5 then beByte 2 q.length (off - 0xD4)
    else if off = 0xD6 then (if q.isEmpty then 0 else 1)
    else if 0xE0 ≤ off && off < 0xF0 then wordsByte 0xE0 (fun i => ((q.head?.map Cpl.entry).getD []).getD i 0) off
    else 0)
  else 0

/-- BAh. -/
def lanesPage (s : State) (off : Nat) : Nat :=
  if off < 0xA0 then wordsByte 0x80 (fun k => s.word R.KNT_SLOT_STAT k) off
  else if off < 0xA9 then
    let n := off - 0xA0
    s.laneState n % 8 + (s.laneTrans n).toNat * 8 + (s.flag F.OLC_STAT_DEFER n).toNat * 16
      + (if s.get F.OLC_FAULT_FAULT n ≠ 0 then 32 else 0) + (s.flag F.OLC_FAULT_LOCKOUT n).toNat * 64
      + (s.flag F.OLC_STAT_TXDIS n).toNat * 128
  else if off = 0xA9 then
    (if s.l8Present then s.get F.LRX_PROT_STAT_STATE + s.get F.LRX_PROT_STAT_ASYM * 8 else 0)
  else if off = 0xAA then bitsByte fun n => s.cmis.failed.contains n
  else if off = 0xAB then (s.cmis.failed.contains 8).toNat
  else if 0xB0 ≤ off && off < 0xD0 then wordsByte 0xB0 (fun k => s.word R.PWR_ACCT k) off
  else 0

/-- BCh, with the sets that the host register window holds (R280). -/
def loglinePage (s : State) (off : Nat) : Nat :=
  let h := s.hold .host
  if off < 0x84 then 0
  else if off < 0x94 then wordsByte 0x84 (fun i => h.snap.getD i 0) off
  else if 0xA4 ≤ off && off < 0xB0 then wordsByte 0xA4 (fun i => h.txq.getD i 0) off
  else if 0xB4 ≤ off && off < 0xC0 then wordsByte 0xB4 (fun i => h.rxq.getD i 0) off
  else if 0xC0 ≤ off && off < 0xC8 then wordsByte 0xC0 (fun q => regView s R.TIM_TSQ_STAT q 0) off
  else if 0xC8 ≤ off && off < 0xCC then wordsByte 0xC8 (fun _ => s.word R.TIM_STAT) off
  else 0

/-- BDh: the maps run over the members known and the device itself. -/
def gangPage (s : State) (off : Nat) : Nat :=
  let own := s.hwIndex
  let map := fun (base : Nat) (mine : Bool) (p : Member → Bool) => bitsByte fun i =>
    let g := 8 * (off - base) + i
    (g = own && mine) || s.hws.members.any fun r => r.idx = g && p r
  let fl := fun (f : Fld) => s.flag f
  if off = 0x80 then own
  else if off = 0x81 then bitsByte fun i => match i with
    | 0 => fl F.HWS_GANG_STAT_LEADER | 1 => fl F.HWS_GANG_STAT_SPLIT | 2 => fl F.HWS_GANG_STAT_DIVERGED
    | 3 => fl F.HWS_GANG_STAT_QUARANTINE | 4 => fl F.HWS_GANG_STAT_TIME_SUSPECT | _ => false
  else if off = 0x82 then s.get F.HWS_GANG_STAT_SIZE
  else if 0x84 ≤ off && off < 0x88 then wordsByte 0x84 (fun _ => s.word R.HWS_GANG_EPOCH) off
  else if 0x88 ≤ off && off < 0x8C then wordsByte 0x88 (fun _ => s.word R.HWS_GANG_DIGEST) off
  else if 0x90 ≤ off && off < 0xA0 then map 0x90 true fun _ => true
  else if 0xA0 ≤ off && off < 0xB0 then map 0xA0 (fl F.HWS_GANG_STAT_DIVERGED) fun r => r.diverged
  else if 0xB0 ≤ off && off < 0xC0 then map 0xB0 (fl F.HWS_GANG_STAT_QUARANTINE) fun r => r.quarantine
  else if 0xC0 ≤ off && off < 0xD0 then map 0xC0 (fl F.HWS_GANG_STAT_TIME_SUSPECT) fun r => r.suspect
  else 0

/-- BFh (R283). -/
def identityPage (s : State) (off : Nat) : Nat :=
  let at' := fun (bs : List Byte) (base : Nat) => (bs.getD (off - base) 0).toNat
  if off < 0x84 then wordsByte 0x80 (fun _ => s.word R.TOP_ID) off
  else if off < 0x8C then beByte 8 s.fw.serial.toNat (off - 0x84)
  else if off = 0x8C then s.fw.otp.screening.toNat
  else if off = 0x8D then s.fw.otp.discrete.toNat
  else if off < 0x90 then beByte 2 s.fw.epoch.toNat (off - 0x8E)
  else if off < 0x94 then beByte 4 s.fw.rom.toNat (off - 0x90)
  else if off < 0x98 then (if s.fw.patchApplied then at' (s.versionAt 0x10000) 0x94 else 0)
  else if off < 0x9C then at' s.riggerVersion 0x98
  else if off < 0xA0 then
    (if (slotFail s (!s.fw.slotB)).isNone then at' (s.versionAt (slotBase (!s.fw.slotB))) 0x9C else 0)
  else if off < 0xA4 then at' s.persVersion 0xA0
  else if off = 0xAC then s.get F.TOP_BOOT_STAT_BOOT
  else if off = 0xAD then s.get F.PWR_RST_CAUSE_CAUSE
  else if off = 0xAE || off = 0xAF then beByte 2 s.fw.restarts.toNat (off - 0xAE)
  else if 0xB0 ≤ off && off < 0xB4 then wordsByte 0xB0 (fun _ => s.word R.BST_FAIL) off
  else 0

/-- Byte off of a custom page. -/
def customByte (s : State) (page off : Nat) : Nat :=
  let w := s.cmis.window
  match page with
  | 0xB0 =>
    if off < 0x84 then wordsByte 0x80 (fun _ => w.addr) off
    else if off < 0x88 then wordsByte 0x84 (fun _ => w.wdata) off
    else if off < 0x8C then wordsByte 0x88 (fun _ => w.rdata) off
    else if off = 0x8D then w.status
    else if off = 0x8E then w.held.isSome.toNat + w.autoInc.toNat * 2
    else 0
  | 0xB9 =>
    if off < 0x90 then wordsByte 0x80 (fun i => ((s.mbx.events.head?.map Evt.entry).getD []).getD i 0) off
    else if off = 0x91 then s.mbx.events.length
    else if off = 0x92 || off = 0x93 then beByte 2 (s.get F.MBX_EVQ_STAT_LOST) (off - 0x92)
    else if off = 0x94 then customSrc s
    else if off = 0x95 then s.cmisByte 0 0xB9 0x95
    else 0
  | 0xBA => lanesPage s off
  | 0xBB =>
    if off < 0x82 then s.cmisByte 0 0xBB off
    else if 0x84 ≤ off && off < 0xD4 then (s.cmis.fathom.getD (off - 0x84) 0).toNat else 0
  | 0xBC => loglinePage s off
  | 0xBD => gangPage s off
  | 0xBE =>
    if off < 0x82 then s.cmisByte 0 0xBE off
    else if 0x90 ≤ off && off < 0xC0 then (s.cmis.perf.getD (off - 0x90) 0).toNat
    else if off = 0xC0 then s.cmis.perfStatus else 0
  | 0xBF => identityPage s off
  | _ => mailboxPage s page off

/-! ## Transactions (R249 to R253) -/

/-- The target acknowledges its address: MgmtInit is complete, MODSEL_N is low in the discrete profile, no ANCHOR entry
window is open, and the two-wire target is connected (R253, R423). -/
def busAnswers (s : State) : Bool :=
  s.busUp && s.cmis.mod ≠ .noAnswer && !(s.fw.otp.discrete && s.cmis.modselHigh) && s.pwr.entry ≠ .window
    && s.flag F.HWS_GANG_STAT_HOSTBUS

/-- A write transaction as it goes: the state so far, the offset of the next byte, the bytes of the field under way,
data bytes acknowledged, whether it still acknowledges, and whether it is in the log. -/
structure Xfer where
  s : State
  off : Nat
  part : List Byte := []
  count : Nat := 0
  live : Bool := true
  noted : Bool := false

/-- An acknowledged data byte joins the bytes of its field, which takes effect when the last of them is there. -/
def fieldByte (b p : Nat) (x : Xfer) (v : Byte) : State × List Byte :=
  let custom := 0xB0 ≤ p && p ≤ 0xBF
  let f := if custom then customField p x.off else ctlField p x.off
  let part := if x.off = f.1 then [v]
    else if x.part.length = x.off - f.1 && !x.part.isEmpty then x.part ++ [v] else []
  (if part.length ≠ f.2 then x.s
   else if custom then customWrite p f.1 part x.s
   else ctlWrite (if x.off < 128 then 0 else b) p f.1 part x.s, part)

/-- One data byte of a write to the page and bank selected at the start. -/
def Xfer.byte (b page : Nat) (x : Xfer) (v : Byte) : Xfer :=
  if !x.live then x
  else
    let p := if x.off < 128 then 0 else page
    let custom := 0xB0 ≤ p && p ≤ 0xBF
    let cause := if v.getLsbD 0 || x.off ≠ 0xC0 then mailboxByte x.s p x.off
      else (if custom && 0xB1 ≤ p && p ≤ 0xB8 then mbxCause x.s (p - 0xB1) (x.s.identOf .host) false else 0)
    let note := !x.s.cmisRuns && logged p x.off
    if cause ≠ 0 then { x with s := x.s.mbxRefuse (p - 0xB1) cause, live := false }
    else if 128 ≤ x.count || (note && !x.noted && 256 ≤ x.s.cmis.log.length) then { x with live := false }
    else
      let w := fieldByte b p x v
      { s := w.1, off := offNext x.off, part := w.2, count := x.count + 1, noted := x.noted || note }

/-- The transfer of the bytes of a write transaction, one after the other. -/
def i2cBytes (off : Byte) (data : List Byte) (s : State) : Xfer :=
  data.foldl (Xfer.byte s.cmis.bank.toNat s.cmis.page.toNat) { s := s, off := off.toNat }

/-- After the transfer x of a write transaction that began in state s: the current address, and the log where the
transaction is noted for Rigger. DESIGN CHOICE, log 64. -/
def i2cWritten (off : Byte) (data : List Byte) (x : Xfer) (s : State) : State :=
  let t := x.s.modCmis fun c => { c with addr := x.off }
  if x.noted then
    t.modCmis fun c => { c with log := c.log ++ [(s.cmis.bank.toNat, s.cmis.page.toNat, off.toNat, data.take x.count)] }
  else t

/-- I2C_WRITE: a write transaction to offset off with its data; on I3C alike (R252). -/
def execI2cWrite (off : Byte) (data : List Byte) (s : State) : Host.Outcome State Fault Refusal :=
  if !busAnswers s then .next (s.answer (.nack 0))
  else
    let s := edgeWake 1 s
    let x := i2cBytes off data s
    .next ((irqUpdate (i2cWritten off data x s)).answer (if x.live then .ack [] else .nack (2 + x.count)))

/-- The offsets that a read of k bytes visits. -/
def readOffs (k off : Nat) : List Nat :=
  match k with
  | 0 => []
  | k + 1 => off :: readOffs k (offNext off)

/-- What a read does before it returns bytes: page BCh captures and pops (R280). -/
def readFirst (page : Nat) (offs : List Nat) (s : State) : State × List (Nat × Word) :=
  if page ≠ 0xBC then (s, [])
  else
    let (w0, s) := if offs.contains 0x80 then snapRead .host s else (0, s)
    let (wt, s) := if offs.contains 0xA0 then tsqRead .host true s else (0, s)
    let (wr, s) := if offs.contains 0xB0 then tsqRead .host false s else (0, s)
    (s, [(0x80, w0), (0xA0, wt), (0xB0, wr)])

/-- A byte that a read returns: the lower page, a page up to AFh, or a custom page with what the read captured. -/
def readByte (s : State) (b page : Nat) (first : List (Nat × Word)) (off : Nat) : Byte :=
  BitVec.ofNat 8 (
    if off < 128 then lowerByte s off
    else if 0xB0 ≤ page && page ≤ 0xBF then
      match first.find? fun f => f.1 ≤ off && off < f.1 + 4 with
      | some f => beByte 4 f.2.toNat (off - f.1)
      | none => customByte s page off
    else pageByte s b page off)

/-- What a read clears: latched flags, and the count of lost events. -/
def readLast (b page : Nat) (offs : List Nat) (s : State) : State :=
  offs.foldl (fun s o =>
    if o = 8 || o = 9 then flagClear 0 0 o s
    else if page = 0x11 && 134 ≤ o && o < 154 && b ≤ 1 then flagClear b 0x11 o s
    else if page = 0x2C && b ≤ 1 then flagClear b 0x2C o s
    else if page = 0xB9 && o = 0x92 then s.put F.MBX_EVQ_STAT_LOST 0
    else s) s

/-- The k bytes that a read transaction gives, and what its reading does: the latches of multi-byte values, the flags that
clear on read, and the current address (R249, R266). -/
def i2cFetch (off : Option Byte) (k : Nat) (s : State) : State × List Byte :=
  let b := s.cmis.bank.toNat
  let page := s.cmis.page.toNat
  let start := match off with | some o => o.toNat | none => s.cmis.addr
  let offs := readOffs k start
  let (s, first) := readFirst page offs s
  let bytes := offs.map (readByte s b page first)
  let s := readLast b page offs s
  (s.modCmis fun c => { c with addr := match offs.getLast? with | some o => offNext o | none => start }, bytes)

/-- I2C_READ: k bytes from offset off, or from where the last transaction ended (R249). -/
def execI2cRead (off : Option Byte) (k : Nat) (s : State) : Host.Outcome State Fault Refusal :=
  if !busAnswers s then .next (s.answer (.nack 0))
  else
    let s := edgeWake 1 s
    let (t, bytes) := i2cFetch off k s
    .next ((irqUpdate t).answer (.ack bytes))

/-! ## I3C (R252) -/

/-- I3C_CCC: a common command code; data holds the address or the length that it carries. -/
def execI3cCcc (code : Ccc) (s : State) : Host.Outcome State Fault Refusal :=
  if !busAnswers s then .next (s.answer (.nack 0))
  else
    let s := edgeWake 1 s
    let done := fun (s : State) (bs : List Byte) => Host.Outcome.next (s.answer (.ack bs))
    let set := fun (a : Option (BitVec 7)) => done (s.modCmis fun c => { c with dynAddr := a }) []
    match code with
    | .entdaa a => if s.cmis.dynAddr.isNone then
        done (s.modCmis fun c => { c with dynAddr := some a }) (beBytes 6 s.fw.otp.provId.toNat
          ++ [Config.i3cByte 0 &&& 0xDD, Config.i3cByte 1])
      else .next (s.answer (.nack 0))
    | .setdasa a => if s.cmis.dynAddr.isNone then set (some a) else .next (s.answer (.nack 0))
    | .setnewda a => if s.cmis.dynAddr.isSome then set (some a) else .next (s.answer (.nack 0))
    | .rstdaa => set none
    | .getpid => done s (beBytes 6 s.fw.otp.provId.toNat)
    | .getbcr => done s [Config.i3cByte 0 &&& 0xDD]
    | .getdcr => done s [Config.i3cByte 1]
    | .getmwl => done s (beBytes 2 s.cmis.mwl)
    | .getmrl => done s (beBytes 2 s.cmis.mrl)
    | .getstatus => done s [Config.i3cByte 2, Config.i3cByte 3]
    | .setmwl k => done (s.modCmis fun c => { c with mwl := k.toNat }) []
    | .setmrl k => done (s.modCmis fun c => { c with mrl := k.toNat }) []
    | .other _ => .next (s.answer (.nack 0))

end Sys2Proof.Machine
end

