-- ==== Sys2Proof/Machine/Access.lean ====
section
/-! DEFINITION. Sys2Proof/Machine/Access.lean: the commands that are accesses: a register write or read and an SRAM write
or read by a requester (R8, R393 to R395), and the writes and reads that registers give an effect of their own. Each
row names its register and the requester; the bits that make it the row's access are set whatever the word says. -/

namespace Sys2Proof.Machine

/-- Requester q writes v to register r, repetition (n, m); the answer goes to the requester. -/
def accWrite (q : Req) (r : RegD) (n m : Nat) (v : Word) (s : State) : Host.Outcome State Fault Refusal :=
  let (a, s) := busWrite q 4 (r.addr n m) v s
  .next (s.answer (.access a 0))

/-- Requester q reads register r, repetition (n, m). -/
def accRead (q : Req) (r : RegD) (n m : Nat) (s : State) : Host.Outcome State Fault Refusal :=
  let ((a, w), s) := busRead q 4 (r.addr n m) s
  .next (s.answer (.access a (w.setWidth 64)))

/-! ## Rows 0 to 4 -/

/-- REGISTER_WRITE: k bytes at any address (R25). -/
def execRegisterWrite (q : Req) (k : Nat) (a v : Word) (s : State) : Host.Outcome State Fault Refusal :=
  let (r, s) := anyWrite q a.toNat (leBytes k v.toNat) .none s
  .next (s.answer (.access r 0))

/-- SRAM_PARTIAL_WRITE: bs at address a, 1, 2 or 4 bytes; eight bytes are a full write. u is what the read finds. -/
def execSramPartialWrite (q : Req) (a : Word) (bs : List Byte) (u : Upset) (s : State) : Host.Outcome State Fault Refusal :=
  let (r, s) := anyWrite q a.toNat bs u s
  .next (s.answer (.access r 0))

/-- A DMA channel halts on an uncorrectable word (R395). -/
def dmaHalt (ch a : Nat) (s : State) : State :=
  let s := (s.put F.ECC_DMA_STAT_HALTED (s.get F.ECC_DMA_STAT_HALTED ||| 2 ^ ch)).addSat F.ECC_DMA_STAT_COUNT 1
  (s.setWord R.ECC_DMA_ADDR (BitVec.ofNat 32 (a / 8 * 8))).post 0x91 0xF ch

/-- What an uncorrectable word does on the path that read it (R395). DEDUCED, log 181. -/
def pathAction (path : ReadPath) (a : Nat) (s : State) : State :=
  match path with
  | .riggerFetch _ => riggerCause 4 s.fw.slotB false none s
  | .dma0 =>
    let s := dmaHalt 0 a s
    if s.fw.write.isSome || s.fw.download.isSome then
      let s := s.modFw fun f => { f with download := none, write := none }
      if s.cmis.cdb.busy.isSome then s.cdbDone .failed 9 else s
    else s
  | .dma1 src dst type tag =>
    let s := (dmaHalt 1 a s).addSat F.HWS_DROP_DMA 1
    let s := if src.val = s.hwIndex then droppedIn src dst type.toNat tag s
      else s.hwSendTo src (.dropped src dst type.toNat tag)
    s.put F.ECC_DMA_STAT_HALTED (s.get F.ECC_DMA_STAT_HALTED % 2)
  | .candidate n b pos | .engine n b pos =>
    match s.cap.cws.find? fun w => w.key = (n.val, b, pos) with
    | some w =>
      let first := w.trail.getLast?.toList
      capSet { w with place := none, adm := true, trail := first, best := none, converged := false } s
    | none => s
  | .coefficient n => rxRestart n s
  | .cleatRam => aonReset 4 (lifeAppend s)
  | _ => s

/-- The requester of a read by path, and its code in the error log (R397). -/
def readRequester : ReadPath → Option Req
  | .riggerFetch c | .riggerLoad c => some (.rigger c)
  | .cleat => some .cleat
  | .hawser => some .hawser
  | .jtag => some .jtag
  | .hostWindow => some .host
  | .dma0 | .dma1 .. => some .dma
  | _ => none

/-- MEM of a protected memory other than SRAM (R397). -/
def readMem : ReadPath → Option Nat
  | .cleatRam => some 1 | .candidate .. => some 2 | .engine .. => some 3 | .coefficient _ => some 4 | _ => none

/-- SRAM_READ: k bytes at address a by a path; u is what the read finds stored. For a memory other than SRAM a is the
word's index. -/
def execSramRead (path : ReadPath) (k : Nat) (a : Word) (u : Upset) (s : State) : Host.Outcome State Fault Refusal :=
  match readMem path with
  | some mem =>
    if !s.busUp then .next s
    else match upsetAdd u [] with
      | [] => .next s
      | [b] => .next (s.eccError mem a.toNat false b (if mem = 1 then 0 else 0xA))
      | _ => .next (pathAction path a.toNat (s.eccError mem a.toNat true 0 (if mem = 1 then 0 else 0xA)))
  | none =>
    match readRequester path with
    | none =>
      if !s.busUp || !isSram a.toNat then .next s
      else
        let (_, s) := s.eccRead a.toNat 0xA u
        .next (s.answer (.access .ok (BitVec.ofNat 64 (leVal (s.rawWord a.toNat)))))
    | some q =>
      let ((r, bs), s) := anyRead q k a.toNat u s
      let s := if r = .uncorrectable then pathAction path a.toNat s else s
      .next (s.answer (.access r (BitVec.ofNat 64 (leVal bs))))

/-- ECC_INJECT_ARM: ECC_INJ_CTRL with ARM. -/
def execEccInjectArm (q : Req) (v : Word) (s : State) : Host.Outcome State Fault Refusal :=
  accWrite q R.ECC_INJ_CTRL 0 0 (v ||| 0x80000000) s

/-- ECC_LOG_CLEAR: ECC_CTRL with LOG_CLR. -/
def execEccLogClear (q : Req) (v : Word) (s : State) : Host.Outcome State Fault Refusal :=
  accWrite q R.ECC_CTRL 0 0 (v ||| 0x100) s

/-! ## Line and host lanes -/

/-- LTX_LANE_CFG_WRITE. -/
def execLtxLaneCfgWrite (q : Req) (n : Line) (v : Word) (s : State) : Host.Outcome State Fault Refusal :=
  accWrite q R.LTX_LANE_CFG n 0 v s

/-- SHAPE_APPLY: LTX_SHAPE_CTRL with APPLY. -/
def execShapeApply (q : Req) (n : Line) (v : Word) (s : State) : Host.Outcome State Fault Refusal :=
  accWrite q R.LTX_SHAPE_CTRL n 0 (v ||| 1) s

/-- MASK_CTRL_WRITE: LTX_MASK_CTRL, or limit word m of it. -/
def execMaskCtrlWrite (q : Req) (n : Line) (m : Option (Fin 8)) (v : Word) (s : State) : Host.Outcome State Fault Refusal :=
  match m with
  | none => accWrite q R.LTX_MASK_CTRL n 0 v s
  | some m => accWrite q R.LTX_MASK_LIM n m v s

/-- TX_CAL_REVERT: LTX_CAL_CTRL with REVERT. -/
def execTxCalRevert (q : Req) (n : Line) (v : Word) (s : State) : Host.Outcome State Fault Refusal :=
  accWrite q R.LTX_CAL_CTRL n 0 (v ||| 2) s

/-- TIA_RETRIM: LRX_TIA_CTRL with RETRIM. -/
def execTiaRetrim (q : Req) (n : Line) (v : Word) (s : State) : Host.Outcome State Fault Refusal :=
  accWrite q R.LRX_TIA_CTRL n 0 (v ||| 0x10000) s

/-- WINCH_RESEED: WNC_LANE_CFG of receiver i with RESEED. -/
def execWinchReseed (q : Req) (i : Fin 25) (v : Word) (s : State) : Host.Outcome State Fault Refusal :=
  accWrite q R.WNC_LANE_CFG i 0 (v ||| 0x1000000) s

/-- RX_CAL_REVERT: LRX_CAL_CTRL with REVERT. -/
def execRxCalRevert (q : Req) (n : Line) (v : Word) (s : State) : Host.Outcome State Fault Refusal :=
  accWrite q R.LRX_CAL_CTRL n 0 (v ||| 2) s

/-- CAPTURE_ARM: LRX_CAP_CTRL with ARM. -/
def execCaptureArm (q : Req) (n : Line) (v : Word) (s : State) : Host.Outcome State Fault Refusal :=
  accWrite q R.LRX_CAP_CTRL n 0 (v ||| 1) s

/-- CAPTURE_ABORT: LRX_CAP_CTRL with ABORT. -/
def execCaptureAbort (q : Req) (n : Line) (v : Word) (s : State) : Host.Outcome State Fault Refusal :=
  accWrite q R.LRX_CAP_CTRL n 0 (v ||| 2) s

/-- DEADLINE_WRITE: CAP_CTRL. -/
def execDeadlineWrite (q : Req) (v : Word) (s : State) : Host.Outcome State Fault Refusal := accWrite q R.CAP_CTRL 0 0 v s

/-- CAPSTAN_SNAPSHOT: CAP_SNAP with TAKE. -/
def execCapstanSnapshot (q : Req) (s : State) : Host.Outcome State Fault Refusal := accWrite q R.CAP_SNAP 0 0 1 s

/-- HOST_TX_APPLY: HST_TX_CTRL with APPLY. -/
def execHostTxApply (q : Req) (h : HLane) (v : Word) (s : State) : Host.Outcome State Fault Refusal :=
  accWrite q R.HST_TX_CTRL h 0 (v ||| 1) s

/-- HOST_LOOPBACK_SET: HST_TEST_CTRL. -/
def execHostLoopbackSet (q : Req) (h : HLane) (v : Word) (s : State) : Host.Outcome State Fault Refusal :=
  accWrite q R.HST_TEST_CTRL h 0 v s

/-- RSM_ENABLE: HST_RSM_CTRL with EN. -/
def execRsmEnable (q : Req) (h : HLane) (v : Word) (s : State) : Host.Outcome State Fault Refusal :=
  accWrite q R.HST_RSM_CTRL h 0 (v ||| 1) s

/-- RSM_SNAPSHOT: HST_RSM_CTRL with SNAP. -/
def execRsmSnapshot (q : Req) (h : HLane) (v : Word) (s : State) : Host.Outcome State Fault Refusal :=
  accWrite q R.HST_RSM_CTRL h 0 (v ||| 2) s

/-! ## The optical front end -/

/-- OLC_REQ_WRITE: OLC_CTRLn. -/
def execOlcReqWrite (q : Req) (n : Line) (v : Word) (s : State) : Host.Outcome State Fault Refusal :=
  accWrite q R.OLC_CTRL n 0 v s

/-- PROBE_GO: OLC_PROBEn with GO. -/
def execProbeGo (q : Req) (n : Line) (v : Word) (s : State) : Host.Outcome State Fault Refusal :=
  accWrite q R.OLC_PROBE n 0 (v ||| 1) s

/-- LB_RANGE_WRITE: OLC_LB_CODEn. -/
def execLbRangeWrite (q : Req) (n : Line) (v : Word) (s : State) : Host.Outcome State Fault Refusal :=
  accWrite q R.OLC_CODE n 0 v s

/-- OLC_CODE_WRITE: the code register of channel k of lane n. -/
def execOlcCodeWrite (q : Req) (n : Line) (k : Fin 5) (v : Word) (s : State) : Host.Outcome State Fault Refusal :=
  accWrite q R.OLC_CODE n k v s

/-- STROBE_WRITE: OLC_STROBE. -/
def execStrobeWrite (q : Req) (v : Word) (s : State) : Host.Outcome State Fault Refusal := accWrite q R.OLC_STROBE 0 0 v s

/-- WAVEFORM_START: OLC_CH_WAVc with START. -/
def execWaveformStart (q : Req) (c : Fin 45) (v : Word) (s : State) : Host.Outcome State Fault Refusal :=
  accWrite q R.OLC_CH_WAV c 0 (v ||| 1) s

/-- WAVEFORM_STOP: OLC_CH_WAVc with STOP. -/
def execWaveformStop (q : Req) (c : Fin 45) (v : Word) (s : State) : Host.Outcome State Fault Refusal :=
  accWrite q R.OLC_CH_WAV c 0 (v ||| 2) s

/-- FAULT_CLEAR: OLC_FAULTn. -/
def execFaultClear (q : Req) (n : Line) (v : Word) (s : State) : Host.Outcome State Fault Refusal :=
  accWrite q R.OLC_FAULT n 0 v s

/-- LANE_RESET: PWR_LANE_RST. -/
def execLaneReset (q : Req) (v : Word) (s : State) : Host.Outcome State Fault Refusal := accWrite q R.PWR_LANE_RST 0 0 v s

/-! ## Lanyard -/

/-- LYD_TX_EN_WRITE: LYD_CTRLn. -/
def execLydTxEnWrite (q : Req) (n : Line) (v : Word) (s : State) : Host.Outcome State Fault Refusal :=
  accWrite q R.LYD_CTRL n 0 v s

/-- LYD_RX_EN_WRITE: LYD_CTRLn. -/
def execLydRxEnWrite (q : Req) (n : Line) (v : Word) (s : State) : Host.Outcome State Fault Refusal :=
  accWrite q R.LYD_CTRL n 0 v s

/-- LYD_COEF_WRITE: coefficient word m of lane n. -/
def execLydCoefWrite (q : Req) (n : Line) (m : Fin 16) (v : Word) (s : State) : Host.Outcome State Fault Refusal :=
  accWrite q R.LYD_FIR n m v s

/-- USER_SLOT_FREE: LYD_USER_FREE. -/
def execUserSlotFree (q : Req) (v : Word) (s : State) : Host.Outcome State Fault Refusal :=
  accWrite q R.LYD_USER_FREE 0 0 v s

/-! ## Logline -/

/-- TIME_APPLY_RATE: TIM_ADJ_CTRL with APPLY_RATE. -/
def execTimeApplyRate (q : Req) (v : Word) (s : State) : Host.Outcome State Fault Refusal :=
  accWrite q R.TIM_ADJ_CTRL 0 0 (v ||| 1) s

/-- TIME_APPLY_STEP: TIM_ADJ_CTRL with APPLY_STEP. -/
def execTimeApplyStep (q : Req) (v : Word) (s : State) : Host.Outcome State Fault Refusal :=
  accWrite q R.TIM_ADJ_CTRL 0 0 (v ||| 2) s

/-- TIME_CLEAR_COARSE: TIM_ADJ_CTRL with CLR_COARSE. -/
def execTimeClearCoarse (q : Req) (v : Word) (s : State) : Host.Outcome State Fault Refusal :=
  accWrite q R.TIM_ADJ_CTRL 0 0 (v ||| 4) s

/-- TIME_SNAPSHOT_READ: word w of TIM_SNAP; a read of W0 captures, the others return what was captured. -/
def execTimeSnapshotRead (q : Req) (w : Fin 5) (s : State) : Host.Outcome State Fault Refusal :=
  if w = 0 then accRead q R.TIM_SNAP_W0 0 0 s
  else if w = 4 then accRead q R.TIM_SNAP_W4 0 0 s
  else accRead q R.TIM_SNAP_TOD (w - 1) 0 s

/-- TSQ_POP: word w of the TX (false) or RX queue; a read of W0 pops. -/
def execTsqPop (q : Req) (rx : Bool) (w : Fin 4) (s : State) : Host.Outcome State Fault Refusal :=
  accRead q R.TIM_TSQ_W rx.toNat w s

/-- AON_COUNTER_READ: TIM_AON_LO, or the captured TIM_AON_HI. -/
def execAonCounterRead (q : Req) (high : Bool) (s : State) : Host.Outcome State Fault Refusal :=
  if high then accRead q R.TIM_AON_HI 0 0 s else accRead q R.TIM_AON_LO 0 0 s

/-- TWO_WAY_READ of lane n: TIM_TTn_STAT (word 0), which captures; then delta low and high, theta low and high. -/
def execTwoWayRead (q : Req) (n : Line) (w : Fin 5) (s : State) : Host.Outcome State Fault Refusal :=
  if w = 0 then accRead q R.TIM_TT_STAT n 0 s
  else if w.val % 2 = 1 then accRead q R.TIM_TT_LO n (w.val / 2) s
  else accRead q R.TIM_TT_HI n (w.val / 2 - 1) s

/-- PPS_IN_READ: TIM_PPSI_W0 (word 0), or a captured word of ToD. -/
def execPpsInRead (q : Req) (w : Fin 4) (s : State) : Host.Outcome State Fault Refusal :=
  if w = 0 then accRead q R.TIM_PPSI_W0 0 0 s else accRead q R.TIM_PPSI_TOD (w - 1) 0 s

/-! ## Mailboxes -/

/-- MAILBOX_WORD_WRITE: word w of mailbox m, or with stg its staging buffer at byte offset o. -/
def execMailboxWordWrite (q : Req) (m : MBox) (w : Fin 16) (v : Word) (stg : Option (Fin 1024)) (s : State) :
    Host.Outcome State Fault Refusal :=
  match stg with
  | none => if w = 0 then accWrite q R.MBX_W0 m 0 v s else accWrite q R.MBX_W m (w.val - 1) v s
  | some o =>
    let (r, s) := sramWrite q (stagingBase m + 4 * o) (leBytes 4 v.toNat) .none s
    .next (s.answer (.access r 0))

/-- MAILBOX_GO: the doorbell of mailbox m. -/
def execMailboxGo (q : Req) (m : MBox) (s : State) : Host.Outcome State Fault Refusal := accWrite q R.MBX_DB m 0 1 s

/-- INTERNAL_RING_POP: word i of MBX_IRINGk; a read of W0 pops. -/
def execInternalRingPop (q : Req) (k : Fin 3) (i : Fin 4) (s : State) : Host.Outcome State Fault Refusal :=
  accRead q R.MBX_IRING_W k i s

/-! ## Rigger, monitors, counters, power and Hawser -/

/-- RIGGER_READY: TOP_RIG_CTRL with READY, by core c. DESIGN CHOICE, log 121. -/
def execRiggerReady (c : Fin 4) (v : Word) (s : State) : Host.Outcome State Fault Refusal :=
  accWrite (.rigger c) R.TOP_RIG_CTRL 0 0 (v ||| 1) s

/-- WATCHDOG_KICK: TOP_RIG_CTRL with KICK, by core c. -/
def execWatchdogKick (c : Fin 4) (v : Word) (s : State) : Host.Outcome State Fault Refusal :=
  accWrite (.rigger c) R.TOP_RIG_CTRL 0 0 (v ||| 0x100) s

/-- URGENT_CONVERSION: MON_ADC_URG. -/
def execUrgentConversion (q : Req) (v : Word) (s : State) : Host.Outcome State Fault Refusal :=
  accWrite q R.MON_ADC_URG 0 0 v s

/-- REFERENCE_ENABLE: MON_ADC_CTRL. -/
def execReferenceEnable (q : Req) (v : Word) (s : State) : Host.Outcome State Fault Refusal :=
  accWrite q R.MON_ADC_CTRL 0 0 v s

/-- FATHOM_START: MON_FTHi_CFG with START. -/
def execFathomStart (q : Req) (i : Fin 32) (v : Word) (s : State) : Host.Outcome State Fault Refusal :=
  accWrite q R.MON_FTH_CFG i 0 (v ||| 1) s

/-- FATHOM_STOP: MON_FTHi_CFG with STOP, or another configuration word of the instance. -/
def execFathomStop (q : Req) (i : Fin 32) (word : Fin 5) (v : Word) (s : State) : Host.Outcome State Fault Refusal :=
  match word with
  | 0 => accWrite q R.MON_FTH_CFG i 0 ((v ||| 2) &&& 0xFFFFFFFE) s
  | 1 => accWrite q R.MON_FTH_FILT i 0 v s
  | 2 => accWrite q R.MON_FTH_BIN i 0 v s
  | 3 => accWrite q R.MON_FTH_BASE i 0 v s
  | _ => accWrite q R.MON_FTH_LIM i 0 v s

/-- PERF_SNAPSHOT: PMU_CTRL with TAKE. -/
def execPerfSnapshot (q : Req) (v : Word) (s : State) : Host.Outcome State Fault Refusal :=
  accWrite q R.PMU_CTRL 0 0 (v ||| 1) s

/-- PERF_COUNTER_READ: PMU_CNTj_LO, or the captured high word. -/
def execPerfCounterRead (q : Req) (j : BitVec 8) (high : Bool) (s : State) : Host.Outcome State Fault Refusal :=
  if high then accRead q R.PMU_CNT_HI j.toNat 0 s else accRead q R.PMU_CNT_LO j.toNat 0 s

/-- BLOCK_ENABLE_WRITE: PWR_BLK_EN. -/
def execBlockEnableWrite (q : Req) (v : Word) (s : State) : Host.Outcome State Fault Refusal :=
  accWrite q R.PWR_BLK_EN 0 0 v s

/-- SOFTWARE_AON_RESET: Cleat's write of PWR_RST.AON. -/
def execSoftwareAonReset (s : State) : Host.Outcome State Fault Refusal := accWrite .cleat R.PWR_RST 0 0 1 s

/-- HAWSER_PORT_ENABLE: HWS_PORTp_CTRL. -/
def execHawserPortEnable (q : Req) (p : Port) (v : Word) (s : State) : Host.Outcome State Fault Refusal :=
  accWrite q R.HWS_PORT_CTRL p 0 v s

/-- HAWSER_RETRAIN: HWS_PORTp_CTRL with RETRAIN. -/
def execHawserRetrain (q : Req) (p : Port) (v : Word) (s : State) : Host.Outcome State Fault Refusal :=
  accWrite q R.HWS_PORT_CTRL p 0 (v ||| 2) s

end Sys2Proof.Machine
end

