-- ==== Sys2Proof/Machine/Dispatch.lean ====
section
/-! DEFINITION. Sys2Proof/Machine/Dispatch.lean: one arm per command, each a direct call of its meaning. -/

namespace Sys2Proof.Machine

open Host

/-- The effect of command i on everything but the queue. -/
def exec (i : Instr) (s : State) : Host.Outcome State Fault Refusal :=
  match i with
  | .registerWrite q k a v => Sys2Proof.Machine.execRegisterWrite q k a v s
  | .sramPartialWrite q a bs u => Sys2Proof.Machine.execSramPartialWrite q a bs u s
  | .sramRead path k a u => Sys2Proof.Machine.execSramRead path k a u s
  | .eccInjectArm q v => Sys2Proof.Machine.execEccInjectArm q v s
  | .eccLogClear q v => Sys2Proof.Machine.execEccLogClear q v s
  | .scrubRead u raced => Sys2Proof.Machine.execScrubRead u raced s
  | .laneSetMode m => Sys2Proof.Machine.execLaneSetMode m s
  | .laneMap m => Sys2Proof.Machine.execLaneMap m s
  | .ltxLaneCfgWrite q n v => Sys2Proof.Machine.execLtxLaneCfgWrite q n v s
  | .pendingChangeNoFraming u => Sys2Proof.Machine.execPendingChangeNoFraming u s
  | .txAmBoundary n fillA fillB data => Sys2Proof.Machine.execTxAmBoundary n fillA fillB data s
  | .rxAmBoundary n codes lv am => Sys2Proof.Machine.execRxAmBoundary n codes lv am s
  | .amGroupArrival f onPeriod => Sys2Proof.Machine.execAmGroupArrival f onPeriod s
  | .amPositionMissed f => Sys2Proof.Machine.execAmPositionMissed f s
  | .slotLockWindowEnd n even odd cwLock => Sys2Proof.Machine.execSlotLockWindowEnd n even odd cwLock s
  | .laneProtectArm m => Sys2Proof.Machine.execLaneProtectArm m s
  | .laneProtectDisarm m => Sys2Proof.Machine.execLaneProtectDisarm m s
  | .laneProtectSwitch m => Sys2Proof.Machine.execLaneProtectSwitch m s
  | .laneProtectRevert m => Sys2Proof.Machine.execLaneProtectRevert m s
  | .protectArmTimeout => Sys2Proof.Machine.execProtectArmTimeout s
  | .protectionSwitch => Sys2Proof.Machine.execProtectionSwitch s
  | .protectionRevert => Sys2Proof.Machine.execProtectionRevert s
  | .emergencySwitch => Sys2Proof.Machine.execEmergencySwitch s
  | .l8FailRevert => Sys2Proof.Machine.execL8FailRevert s
  | .l8FailSelectionReturn => Sys2Proof.Machine.execL8FailSelectionReturn s
  | .protectFinalPoint => Sys2Proof.Machine.execProtectFinalPoint s
  | .proposeRepeat => Sys2Proof.Machine.execProposeRepeat s
  | .proposeDeadline => Sys2Proof.Machine.execProposeDeadline s
  | .elasticBufferSlip n f => Sys2Proof.Machine.execElasticBufferSlip n f s
  | .errorInjection n streamB block => Sys2Proof.Machine.execErrorInjection n streamB block s
  | .shapeApply q n v => Sys2Proof.Machine.execShapeApply q n v s
  | .txSetShaping m => Sys2Proof.Machine.execTxSetShaping m s
  | .txLoadPattern m => Sys2Proof.Machine.execTxLoadPattern m s
  | .maskCtrlWrite q n m v => Sys2Proof.Machine.execMaskCtrlWrite q n m v s
  | .maskEstimateEnd n a b => Sys2Proof.Machine.execMaskEstimateEnd n a b s
  | .driverSwingResume n => Sys2Proof.Machine.execDriverSwingResume n s
  | .txPllBandCalComplete p => Sys2Proof.Machine.execTxPllBandCalComplete p s
  | .txPllLocked p => Sys2Proof.Machine.execTxPllLocked p s
  | .txPllReady p => Sys2Proof.Machine.execTxPllReady p s
  | .txPllLockLoss p => Sys2Proof.Machine.execTxPllLockLoss p s
  | .txPllReferenceSwitch p => Sys2Proof.Machine.execTxPllReferenceSwitch p s
  | .txPllHoldoverExpiry p => Sys2Proof.Machine.execTxPllHoldoverExpiry p s
  | .txPllStop p => Sys2Proof.Machine.execTxPllStop p s
  | .txCalResult n kind v => Sys2Proof.Machine.execTxCalResult n kind v s
  | .txCalRevert q n v => Sys2Proof.Machine.execTxCalRevert q n v s
  | .losAssert n => Sys2Proof.Machine.execLosAssert n s
  | .losDeassert n => Sys2Proof.Machine.execLosDeassert n s
  | .lolAssert n range => Sys2Proof.Machine.execLolAssert n range s
  | .timingRecoveryLock n freq => Sys2Proof.Machine.execTimingRecoveryLock n freq s
  | .tiaGainAcquired n gain => Sys2Proof.Machine.execTiaGainAcquired n gain s
  | .tiaAcqTimeout n high => Sys2Proof.Machine.execTiaAcqTimeout n high s
  | .tiaRetrim q n v => Sys2Proof.Machine.execTiaRetrim q n v s
  | .retrimMeasureDone n rms256 => Sys2Proof.Machine.execRetrimMeasureDone n rms256 s
  | .adcRotationTimer n data => Sys2Proof.Machine.execAdcRotationTimer n data s
  | .firstPassDecode n streamB pos dt w tie => Sys2Proof.Machine.execFirstPassDecode n streamB pos dt w tie s
  | .winchSlot => Sys2Proof.Machine.execWinchSlot s
  | .winchVisitEnd b => Sys2Proof.Machine.execWinchVisitEnd b s
  | .winchReseed q idx v => Sys2Proof.Machine.execWinchReseed q idx v s
  | .rxCalResult n kind v => Sys2Proof.Machine.execRxCalResult n kind v s
  | .rxCalRevert q n v => Sys2Proof.Machine.execRxCalRevert q n v s
  | .checkerSyncAcquired d => Sys2Proof.Machine.execCheckerSyncAcquired d s
  | .checkerSyncLost u line host => Sys2Proof.Machine.execCheckerSyncLost u line host s
  | .captureArm q n v => Sys2Proof.Machine.execCaptureArm q n v s
  | .captureAbort q n v => Sys2Proof.Machine.execCaptureAbort q n v s
  | .captureTrigger n data => Sys2Proof.Machine.execCaptureTrigger n data s
  | .captureStop n data => Sys2Proof.Machine.execCaptureStop n data s
  | .captureAdc m => Sys2Proof.Machine.execCaptureAdc m s
  | .captureAdcTimeout n => Sys2Proof.Machine.execCaptureAdcTimeout n s
  | .rxSetEqPolicy m => Sys2Proof.Machine.execRxSetEqPolicy m s
  | .sliceBoundary => Sys2Proof.Machine.execSliceBoundary s
  | .capstanIterationResult e k dt tie => Sys2Proof.Machine.execCapstanIterationResult e k dt tie s
  | .writebackEntry e k dt => Sys2Proof.Machine.execWritebackEntry e k dt s
  | .codewordRelease n streamB dt => Sys2Proof.Machine.execCodewordRelease n streamB dt s
  | .wasteWindowEnd => Sys2Proof.Machine.execWasteWindowEnd s
  | .capstanSetPolicy m => Sys2Proof.Machine.execCapstanSetPolicy m s
  | .deadlineWrite q v => Sys2Proof.Machine.execDeadlineWrite q v s
  | .capstanSnapshot q => Sys2Proof.Machine.execCapstanSnapshot q s
  | .hostLosAssert h => Sys2Proof.Machine.execHostLosAssert h s
  | .hostLosDeassert h => Sys2Proof.Machine.execHostLosDeassert h s
  | .hostLolAssert h => Sys2Proof.Machine.execHostLolAssert h s
  | .hostLolDeassert h => Sys2Proof.Machine.execHostLolDeassert h s
  | .ctleSearchStep h eye => Sys2Proof.Machine.execCtleSearchStep h eye s
  | .hostEqTimeout h => Sys2Proof.Machine.execHostEqTimeout h s
  | .hostRxFrameBoundary h before after => Sys2Proof.Machine.execHostRxFrameBoundary h before after s
  | .hostTxFrameBoundary d => Sys2Proof.Machine.execHostTxFrameBoundary d s
  | .hostTxApply q h v => Sys2Proof.Machine.execHostTxApply q h v s
  | .hostLoopbackSet q h v => Sys2Proof.Machine.execHostLoopbackSet q h v s
  | .rsmEnable q h v => Sys2Proof.Machine.execRsmEnable q h v s
  | .rsmCodeword h skew corr unc => Sys2Proof.Machine.execRsmCodeword h skew corr unc s
  | .rsmSnapshot q h v => Sys2Proof.Machine.execRsmSnapshot q h v s
  | .hostSetEq m => Sys2Proof.Machine.execHostSetEq m s
  | .laneSetState m => Sys2Proof.Machine.execLaneSetState m s
  | .olcReqWrite q n v => Sys2Proof.Machine.execOlcReqWrite q n v s
  | .laneProbe m => Sys2Proof.Machine.execLaneProbe m s
  | .probeGo q n v => Sys2Proof.Machine.execProbeGo q n v s
  | .probeDurationEnd n => Sys2Proof.Machine.execProbeDurationEnd n s
  | .slewTick c => Sys2Proof.Machine.execSlewTick c s
  | .lbRangeWrite q n v => Sys2Proof.Machine.execLbRangeWrite q n v s
  | .olcCodeWrite q n k v => Sys2Proof.Machine.execOlcCodeWrite q n k v s
  | .strobeWrite q v => Sys2Proof.Machine.execStrobeWrite q v s
  | .waveformStart q c v => Sys2Proof.Machine.execWaveformStart q c v s
  | .waveformStop q c v => Sys2Proof.Machine.execWaveformStop q c v s
  | .heaterPwmPeriod n j => Sys2Proof.Machine.execHeaterPwmPeriod n j s
  | .tokenAcquired => Sys2Proof.Machine.execTokenAcquired s
  | .tokenSegmentEnd n => Sys2Proof.Machine.execTokenSegmentEnd n s
  | .tokenWaitTimeout n => Sys2Proof.Machine.execTokenWaitTimeout n s
  | .deferredLiveTimeout n => Sys2Proof.Machine.execDeferredLiveTimeout n s
  | .safetyFault b n => Sys2Proof.Machine.execSafetyFault b n s
  | .faultClear q n v => Sys2Proof.Machine.execFaultClear q n v s
  | .txDisableSet n => Sys2Proof.Machine.execTxDisableSet n s
  | .txDisableClear n => Sys2Proof.Machine.execTxDisableClear n s
  | .lockinPeriodEnd n m => Sys2Proof.Machine.execLockinPeriodEnd n m s
  | .laneReset q v => Sys2Proof.Machine.execLaneReset q v s
  | .lydTxEnWrite q n v => Sys2Proof.Machine.execLydTxEnWrite q n v s
  | .lydRxEnWrite q n v => Sys2Proof.Machine.execLydRxEnWrite q n v s
  | .lydCoefWrite q n m v => Sys2Proof.Machine.execLydCoefWrite q n m v s
  | .lanyardBlock n data b snr fofs => Sys2Proof.Machine.execLanyardBlock n data b snr fofs s
  | .lanyardFrameEnd n pilot => Sys2Proof.Machine.execLanyardFrameEnd n pilot s
  | .lanyardHeaderFound n hdr body fcs => Sys2Proof.Machine.execLanyardHeaderFound n hdr body fcs s
  | .helloPeriod n => Sys2Proof.Machine.execHelloPeriod n s
  | .telemetryPeriod n request => Sys2Proof.Machine.execTelemetryPeriod n request s
  | .timePeriod n => Sys2Proof.Machine.execTimePeriod n s
  | .helloRx n b pilot => Sys2Proof.Machine.execHelloRx n b pilot s
  | .helloPeriodMissed n => Sys2Proof.Machine.execHelloPeriodMissed n s
  | .telemetryRx n b => Sys2Proof.Machine.execTelemetryRx n b s
  | .txadjRequestRx n b => Sys2Proof.Machine.execTxadjRequestRx n b s
  | .txadjResultRx n b => Sys2Proof.Machine.execTxadjResultRx n b s
  | .timeRx n flags b pilot => Sys2Proof.Machine.execTimeRx n flags b pilot s
  | .protectProposeRx n b => Sys2Proof.Machine.execProtectProposeRx n b s
  | .protectAcceptRx n b => Sys2Proof.Machine.execProtectAcceptRx n b s
  | .protectConfirmRx n b => Sys2Proof.Machine.execProtectConfirmRx n b s
  | .protectAbandonRx n b => Sys2Proof.Machine.execProtectAbandonRx n b s
  | .protectNotifyRx n b => Sys2Proof.Machine.execProtectNotifyRx n b s
  | .userFragmentRx n b => Sys2Proof.Machine.execUserFragmentRx n b s
  | .userReassemblyTimeout n id => Sys2Proof.Machine.execUserReassemblyTimeout n id s
  | .userSlotFree q v => Sys2Proof.Machine.execUserSlotFree q v s
  | .lanyardConfig m => Sys2Proof.Machine.execLanyardConfig m s
  | .lanyardSend m => Sys2Proof.Machine.execLanyardSend m s
  | .lanyardSendTimeout n => Sys2Proof.Machine.execLanyardSendTimeout n s
  | .lanyardPartnerRead m => Sys2Proof.Machine.execLanyardPartnerRead m s
  | .lanyardPartnerHello m => Sys2Proof.Machine.execLanyardPartnerHello m s
  | .lanyardPartnerForget m => Sys2Proof.Machine.execLanyardPartnerForget m s
  | .lanyardTxadjPolicy m => Sys2Proof.Machine.execLanyardTxadjPolicy m s
  | .rawWrap => Sys2Proof.Machine.execRawWrap s
  | .timeApplyRate q v => Sys2Proof.Machine.execTimeApplyRate q v s
  | .timeApplyStep q v => Sys2Proof.Machine.execTimeApplyStep q v s
  | .timeClearCoarse q v => Sys2Proof.Machine.execTimeClearCoarse q v s
  | .timeSnapshotRead q w => Sys2Proof.Machine.execTimeSnapshotRead q w s
  | .tsqPop q rx w => Sys2Proof.Machine.execTsqPop q rx w s
  | .aonCounterRead q high => Sys2Proof.Machine.execAonCounterRead q high s
  | .twoWayRead q n w => Sys2Proof.Machine.execTwoWayRead q n w s
  | .ppsInRead q w => Sys2Proof.Machine.execPpsInRead q w s
  | .cleatAonWake => Sys2Proof.Machine.execCleatAonWake s
  | .ppsInEdge falling short => Sys2Proof.Machine.execPpsInEdge falling short s
  | .ppsOutSecond => Sys2Proof.Machine.execPpsOutSecond s
  | .ppsOutPulseEnd => Sys2Proof.Machine.execPpsOutPulseEnd s
  | .timeSet m => Sys2Proof.Machine.execTimeSet m s
  | .timeAdjust m => Sys2Proof.Machine.execTimeAdjust m s
  | .timeStampConfig m => Sys2Proof.Machine.execTimeStampConfig m s
  | .timeSetPpsTimeout => Sys2Proof.Machine.execTimeSetPpsTimeout s
  | .scheduledTimeReached k => Sys2Proof.Machine.execScheduledTimeReached k s
  | .i2cWrite off data => Sys2Proof.Machine.execI2cWrite off data s
  | .i2cRead off k => Sys2Proof.Machine.execI2cRead off k s
  | .i3cCcc code => Sys2Proof.Machine.execI3cCcc code s
  | .sidebandReset p => Sys2Proof.Machine.execSidebandReset s p
  | .cmisSoftwareReset => Sys2Proof.Machine.execCmisSoftwareReset s
  | .lowPowerRequestChange pin sw => Sys2Proof.Machine.execLowPowerRequestChange pin sw s
  | .modselChange p => Sys2Proof.Machine.execModselChange p s
  | .cmisApplyDpinit b k mask => Sys2Proof.Machine.execCmisApplyDpinit b k mask s
  | .cmisApplyImmediate b k mask => Sys2Proof.Machine.execCmisApplyImmediate b k mask s
  | .dpdeinitWrite b v => Sys2Proof.Machine.execDpdeinitWrite b v s
  | .outputDisableTxWrite b v => Sys2Proof.Machine.execOutputDisableTxWrite b v s
  | .datapathStateAdvance h => Sys2Proof.Machine.execDatapathStateAdvance h s
  | .cmisFlagEvaluation => Sys2Proof.Machine.execCmisFlagEvaluation s
  | .cmisMonitorRefresh => Sys2Proof.Machine.execCmisMonitorRefresh s
  | .hostPasswordEntry v => Sys2Proof.Machine.execHostPasswordEntry v s
  | .hostPasswordChange v => Sys2Proof.Machine.execHostPasswordChange v s
  | .registerWindowRead u => Sys2Proof.Machine.execRegisterWindowRead u s
  | .registerWindowWrite u => Sys2Proof.Machine.execRegisterWindowWrite u s
  | .windowAccessComplete => Sys2Proof.Machine.execWindowAccessComplete s
  | .completionRingPop => Sys2Proof.Machine.execCompletionRingPop s
  | .eventQueuePop => Sys2Proof.Machine.execEventQueuePop s
  | .fathomReadoutCopy => Sys2Proof.Machine.execFathomReadoutCopy s
  | .perfWindowCopy => Sys2Proof.Machine.execPerfWindowCopy s
  | .vdmFreeze => Sys2Proof.Machine.execVdmFreeze s
  | .vdmUnfreeze => Sys2Proof.Machine.execVdmUnfreeze s
  | .cdbQueryStatus => Sys2Proof.Machine.execCdbQueryStatus s
  | .cdbModuleFeatures => Sys2Proof.Machine.execCdbModuleFeatures s
  | .cdbFwMgmtFeatures => Sys2Proof.Machine.execCdbFwMgmtFeatures s
  | .cdbGetFwInfo => Sys2Proof.Machine.execCdbGetFwInfo s
  | .cdbStartDownload len header => Sys2Proof.Machine.execCdbStartDownload len header s
  | .cdbAbortDownload => Sys2Proof.Machine.execCdbAbortDownload s
  | .cdbWriteBlockLpl addr data => Sys2Proof.Machine.execCdbWriteBlockLpl addr data s
  | .cdbWriteBlockEpl addr data => Sys2Proof.Machine.execCdbWriteBlockEpl addr data s
  | .cdbCompleteDownload => Sys2Proof.Machine.execCdbCompleteDownload s
  | .flashWriteComplete ok => Sys2Proof.Machine.execFlashWriteComplete ok s
  | .cdbRunImage mode => Sys2Proof.Machine.execCdbRunImage mode s
  | .cdbCommitImage => Sys2Proof.Machine.execCdbCommitImage s
  | .cdbUnknownCommand => Sys2Proof.Machine.execCdbUnknownCommand s
  | .mailboxWordWrite q m w v stg => Sys2Proof.Machine.execMailboxWordWrite q m w v stg s
  | .mailboxGo q m => Sys2Proof.Machine.execMailboxGo q m s
  | .mailboxTake => Sys2Proof.Machine.execMailboxTake s
  | .internalRingPop q k idx => Sys2Proof.Machine.execInternalRingPop q k idx s
  | .ping m => Sys2Proof.Machine.execPing m s
  | .getInfo m => Sys2Proof.Machine.execGetInfo m s
  | .cancel m => Sys2Proof.Machine.execCancel m s
  | .flushCompletions m => Sys2Proof.Machine.execFlushCompletions m s
  | .setPolicySender m => Sys2Proof.Machine.execSetPolicySender m s
  | .setPolicyBit m => Sys2Proof.Machine.execSetPolicyBit m s
  | .setPolicyQuota m => Sys2Proof.Machine.execSetPolicyQuota m s
  | .knotOpen m => Sys2Proof.Machine.execKnotOpen m s
  | .knotStage m => Sys2Proof.Machine.execKnotStage m s
  | .knotCinchImmediate m => Sys2Proof.Machine.execKnotCinchImmediate m s
  | .knotCinchAm m => Sys2Proof.Machine.execKnotCinchAm m s
  | .knotCinchTime m => Sys2Proof.Machine.execKnotCinchTime m s
  | .knotCinchGang m => Sys2Proof.Machine.execKnotCinchGang m s
  | .knotReady k => Sys2Proof.Machine.execKnotReady k s
  | .knotAbandon m => Sys2Proof.Machine.execKnotAbandon m s
  | .knotStatus m => Sys2Proof.Machine.execKnotStatus m s
  | .knotIdleExpiry k => Sys2Proof.Machine.execKnotIdleExpiry k s
  | .knotAmWaitExpiry k => Sys2Proof.Machine.execKnotAmWaitExpiry k s
  | .gangPrepareRx p h sec ns handle => Sys2Proof.Machine.execGangPrepareRx p h sec ns handle s
  | .gangPreparedRx p h handle => Sys2Proof.Machine.execGangPreparedRx p h handle s
  | .gangRefusedRx p h handle status => Sys2Proof.Machine.execGangRefusedRx p h handle status s
  | .gangDecisionPoint k => Sys2Proof.Machine.execGangDecisionPoint k s
  | .gangCommitRepeat k acked => Sys2Proof.Machine.execGangCommitRepeat k acked s
  | .gangCommitRx p h handle => Sys2Proof.Machine.execGangCommitRx p h handle s
  | .gangAbortRx p h handle => Sys2Proof.Machine.execGangAbortRx p h handle s
  | .gangAppliedRx p h handle => Sys2Proof.Machine.execGangAppliedRx p h handle s
  | .participantDeadline k => Sys2Proof.Machine.execParticipantDeadline k s
  | .fwStatus m => Sys2Proof.Machine.execFwStatus m s
  | .fwRestartRunning m => Sys2Proof.Machine.execFwRestartRunning m s
  | .fwRestartOther m => Sys2Proof.Machine.execFwRestartOther m s
  | .attestReport m => Sys2Proof.Machine.execAttestReport m s
  | .attestCertificate m => Sys2Proof.Machine.execAttestCertificate m s
  | .riggerReady c v => Sys2Proof.Machine.execRiggerReady c v s
  | .watchdogKick c v => Sys2Proof.Machine.execWatchdogKick c v s
  | .watchdogExpiry => Sys2Proof.Machine.execWatchdogExpiry s
  | .riggerRestart => Sys2Proof.Machine.execRiggerRestart s
  | .riggerImageLoaded => Sys2Proof.Machine.execRiggerImageLoaded s
  | .riggerCoreHalt core => Sys2Proof.Machine.execRiggerCoreHalt core s
  | .debugUnlockResponse factory key sig => Sys2Proof.Machine.execDebugUnlockResponse factory key sig s
  | .powerOn unpowered => Sys2Proof.Machine.execPowerOn unpowered s
  | .memsSettleTimeout => Sys2Proof.Machine.execMemsSettleTimeout s
  | .porRelease scl sda t => Sys2Proof.Machine.execPorRelease scl sda t s
  | .riggerRelease => Sys2Proof.Machine.execRiggerRelease s
  | .mgmtinitComplete => Sys2Proof.Machine.execMgmtinitComplete s
  | .urgentConversion q v => Sys2Proof.Machine.execUrgentConversion q v s
  | .triggeredConversionRequest ch kind => Sys2Proof.Machine.execTriggeredConversionRequest ch kind s
  | .sequencerRound => Sys2Proof.Machine.execSequencerRound s
  | .adcConversionEnd code => Sys2Proof.Machine.execAdcConversionEnd code s
  | .referenceEnable q v => Sys2Proof.Machine.execReferenceEnable q v s
  | .referenceReady => Sys2Proof.Machine.execReferenceReady s
  | .anchorMonitorRound codes => Sys2Proof.Machine.execAnchorMonitorRound codes s
  | .fathomStart q idx v => Sys2Proof.Machine.execFathomStart q idx v s
  | .fathomStop q idx word v => Sys2Proof.Machine.execFathomStop q idx word v s
  | .fathomSample idx y excess => Sys2Proof.Machine.execFathomSample idx y excess s
  | .fathomCaptureEnd idx => Sys2Proof.Machine.execFathomCaptureEnd idx s
  | .fathomSnapshotSwap idx => Sys2Proof.Machine.execFathomSnapshotSwap idx s
  | .fathomWriteoutDone idx => Sys2Proof.Machine.execFathomWriteoutDone idx s
  | .monConfig m => Sys2Proof.Machine.execMonConfig m s
  | .monSnapshot m => Sys2Proof.Machine.execMonSnapshot m s
  | .monSetWindow m => Sys2Proof.Machine.execMonSetWindow m s
  | .perfConfigChain m => Sys2Proof.Machine.execPerfConfigChain m s
  | .perfConfigSampler m => Sys2Proof.Machine.execPerfConfigSampler m s
  | .perfConfigClearOvf m => Sys2Proof.Machine.execPerfConfigClearOvf m s
  | .perfSnapshot q v => Sys2Proof.Machine.execPerfSnapshot q v s
  | .perfCounterRead q j high => Sys2Proof.Machine.execPerfCounterRead q j high s
  | .samplerCrossing k pc => Sys2Proof.Machine.execSamplerCrossing k pc s
  | .anchorIdleTimeout => Sys2Proof.Machine.execAnchorIdleTimeout s
  | .anchorRiggerHalted => Sys2Proof.Machine.execAnchorRiggerHalted s
  | .anchorWindowClose cleat => Sys2Proof.Machine.execAnchorWindowClose cleat s
  | .wakeEvent k => Sys2Proof.Machine.execWakeEvent k s
  | .wakeKeepReached => Sys2Proof.Machine.execWakeKeepReached s
  | .wakeSramFilled => Sys2Proof.Machine.execWakeSramFilled s
  | .powerUpComplete => Sys2Proof.Machine.execPowerUpComplete s
  | .powerDownComplete => Sys2Proof.Machine.execPowerDownComplete s
  | .coreIdleGate => Sys2Proof.Machine.execCoreIdleGate s
  | .memsReferenceLoss => Sys2Proof.Machine.execMemsReferenceLoss s
  | .referenceRestored => Sys2Proof.Machine.execReferenceRestored s
  | .blockEnableWrite q v => Sys2Proof.Machine.execBlockEnableWrite q v s
  | .blockEnableComplete b => Sys2Proof.Machine.execBlockEnableComplete b s
  | .softwareAonReset => Sys2Proof.Machine.execSoftwareAonReset s
  | .brownOut vinFell => Sys2Proof.Machine.execBrownOut vinFell s
  | .aonWatchdogExpiry => Sys2Proof.Machine.execAonWatchdogExpiry s
  | .vinLoss => Sys2Proof.Machine.execVinLoss s
  | .powerAccountingUpdate mW mA blocks => Sys2Proof.Machine.execPowerAccountingUpdate mW mA blocks s
  | .setPowerState m => Sys2Proof.Machine.execSetPowerState m s
  | .getPowerAccounting m => Sys2Proof.Machine.execGetPowerAccounting m s
  | .retirePage m => Sys2Proof.Machine.execRetirePage m s
  | .retireLedgerWritten => Sys2Proof.Machine.execRetireLedgerWritten s
  | .bistRun m => Sys2Proof.Machine.execBistRun m s
  | .bistBlockDone failed us m0 m1 m2 => Sys2Proof.Machine.execBistBlockDone failed us m0 m1 m2 s
  | .bistResult m => Sys2Proof.Machine.execBistResult m s
  | .eccLog m => Sys2Proof.Machine.execEccLog m s
  | .lifetimeMinute => Sys2Proof.Machine.execLifetimeMinute s
  | .lifetimeRecordAppend => Sys2Proof.Machine.execLifetimeRecordAppend s
  | .hawserPortEnable q p v => Sys2Proof.Machine.execHawserPortEnable q p v s
  | .hawserRetrain q p v => Sys2Proof.Machine.execHawserRetrain q p v s
  | .hawserDetectPulse p load => Sys2Proof.Machine.execHawserDetectPulse p load s
  | .trainingSetRx p pre post done askPre askPost => Sys2Proof.Machine.execTrainingSetRx p pre post done askPre askPost s
  | .hawserSymbolLock p => Sys2Proof.Machine.execHawserSymbolLock p s
  | .capsRx p caps => Sys2Proof.Machine.execCapsRx p caps s
  | .hawserStateTimeout p => Sys2Proof.Machine.execHawserStateTimeout p s
  | .hawserLos p => Sys2Proof.Machine.execHawserLos p s
  | .hawserLol p l => Sys2Proof.Machine.execHawserLol p l s
  | .linkFrameRx p ack credits replay => Sys2Proof.Machine.execLinkFrameRx p ack credits replay s
  | .syncPeriod => Sys2Proof.Machine.execSyncPeriod s
  | .syncReqRx p delay => Sys2Proof.Machine.execSyncReqRx p delay s
  | .syncRespRx p t2 t3 e coarse invalid => Sys2Proof.Machine.execSyncRespRx p t2 t3 e coarse invalid s
  | .assignRx u next leader e hops => Sys2Proof.Machine.execAssignRx u next leader e hops s
  | .doneRx p r => Sys2Proof.Machine.execDoneRx p r s
  | .statusRx p h st => Sys2Proof.Machine.execStatusRx p h st s
  | .discoveryDelayExpiry => Sys2Proof.Machine.execDiscoveryDelayExpiry s
  | .epochRx p h e d list params => Sys2Proof.Machine.execEpochRx p h e d list params s
  | .epochLagTimeout idx => Sys2Proof.Machine.execEpochLagTimeout idx s
  | .digestRecompute => Sys2Proof.Machine.execDigestRecompute s
  | .droppedRx p h src dst type tag => Sys2Proof.Machine.execDroppedRx p h src dst type tag s
  | .msgRx p h g ns => Sys2Proof.Machine.execMsgRx p h g ns s
  | .pushRx p h offset bytes last => Sys2Proof.Machine.execPushRx p h offset bytes last s
  | .takenRx p h tag => Sys2Proof.Machine.execTakenRx p h tag s
  | .completionRx p h w0 status orig epoch result final mb g => Sys2Proof.Machine.execCompletionRx p h w0 status orig epoch result final mb g s
  | .gangForward m => Sys2Proof.Machine.execGangForward m s
  | .gangStatus m => Sys2Proof.Machine.execGangStatus m s
  | .gangConfigParameters m => Sys2Proof.Machine.execGangConfigParameters m s
  | .gangConfigList m => Sys2Proof.Machine.execGangConfigList m s
  | .gangConfigRediscover m => Sys2Proof.Machine.execGangConfigRediscover m s
  | .gangConfigPush m => Sys2Proof.Machine.execGangConfigPush m s
  | .gangConfigReload m => Sys2Proof.Machine.execGangConfigReload m s
  | .pgtkiRise head => Sys2Proof.Machine.execPgtkiRise head s
  | .pgtkiFall => Sys2Proof.Machine.execPgtkiFall s
  | .powerGrantRoundEnd => Sys2Proof.Machine.execPowerGrantRoundEnd s
  | .powerGrantStepEnd low => Sys2Proof.Machine.execPowerGrantStepEnd low s
  | .hostCdrLock h => Sys2Proof.Machine.execHostCdrLock h s
  | .rxPllLock n => Sys2Proof.Machine.execRxPllLock n s
  | .hostPllLock q => Sys2Proof.Machine.execHostPllLock q s
  | .coreUngateComplete => Sys2Proof.Machine.execCoreUngateComplete s
  | .lanyardSymbolBoundary d => Sys2Proof.Machine.execLanyardSymbolBoundary d s
  | .lanyardChainSettled d => Sys2Proof.Machine.execLanyardChainSettled d s
  | .triggeredConversionDue c => Sys2Proof.Machine.execTriggeredConversionDue c s
  | .hawserLosDeassert p => Sys2Proof.Machine.execHawserLosDeassert p s
  | .gangPushTimeout idx => Sys2Proof.Machine.execGangPushTimeout idx s
  | .boundaryScanEntry => Sys2Proof.Machine.execBoundaryScanEntry s

end Sys2Proof.Machine
end

