-- ==== Sys2Proof/Machine/Step.lean ====
section
/-! DEFINITION. Sys2Proof/Machine/Step.lean: one step of the block, and how the host places a command. -/

namespace Sys2Proof.Machine

/-- One step: the command at the front of the queue takes effect on the state with the rest of the queue; an empty
queue lets one tick of time pass. DESIGN CHOICE, log 1. DESIGN CHOICE, log 2. -/
def step (s : State) : Host.Outcome State Fault Refusal :=
  match s.pending with
  | c :: rest => exec c { s with pending := rest }
  | [] => .next s.tick

/-- s with the command that a table word spells at the front of its queue, where the word spells one. -/
def State.withFetchWord (s : State) (nbits w : Nat) : State :=
  match decodeTableWord nbits w with
  | some c => { s with pending := c :: s.pending }
  | none => s

end Sys2Proof.Machine
end

