-- ==== Sys2Proof/Safety.lean ====
section
/-! DEFINITION. Sys2Proof/Safety.lean: what every run keeps, in the terms the claims use: the canonical form of the stored
data, the capacities of the queues, and the one-way bits of OTP. -/

namespace Sys2Proof.Machine

/-- The SRAM bytes are in canonical form: addresses strictly rising, no byte listed that equals the zero fill (R22). -/
def Memory.wf (s : State) : Bool := Bank.wf (fun _ => 0) s.sram

/-- Keys strictly rising from lo. -/
def keysRise {α : Type} (lo : Nat) (b : List (Nat × α)) : Bool :=
  match b with
  | [] => true
  | (a, _) :: t => decide (lo ≤ a) && keysRise (a + 1) t

/-- The register bank lists each address at most once, in rising order. -/
def Registers.wf (s : State) : Bool := keysRise 0 s.regs

/-- Both stores are in their form. -/
def State.wf (s : State) : Bool := Memory.wf s && Registers.wf s

/-- No queue of the mailboxes holds more than its capacity: 256 completions in the host ring and 64 in each internal ring
(R294), 64 events (R298), 2,048 outstanding commands (R292). -/
def Mbx.bounded (x : Mbx) : Bool :=
  decide (x.host.entries.length ≤ 256) && decide (∀ k : Fin 3, x.internal[k].entries.length ≤ 64)
    && decide (x.events.length ≤ 64) && decide (x.outstanding.length ≤ 2048)

/-- No queue of the device holds more than its capacity: those of the mailboxes, 64 entries in the ECC log (R397), and
64 stamps in each time-stamp queue (R242). -/
def State.bounded (s : State) : Bool :=
  s.mbx.bounded && decide (s.ecc.log.length ≤ 64) && decide (s.tim.txq.length ≤ 64) && decide (s.tim.rxq.length ≤ 64)

/-- The registers that capture refused accesses say that requester q's access at address a was refused with this CAUSE
(R26, R28). -/
def State.captured (t : State) (q : Req) (a : Word) (cause : Nat) (write : Bool) : Prop :=
  t.word R.TOP_DECERR_ADDR = a ∧ t.get F.TOP_DECERR_STAT_CAUSE = cause ∧ t.flag F.TOP_DECERR_STAT_WRITE = write
    ∧ t.get F.TOP_DECERR_STAT_REQ = reqNum q

/-- The registers that capture accesses to blocks that are off say so of requester q's access at address a (R383). -/
def State.offCaptured (t : State) (q : Req) (a : Word) (write : Bool) : Prop :=
  t.word R.PWR_OFFACC_ADDR = a ∧ t.get F.PWR_OFFACC_STAT_DOMAIN = offDomain a.toNat
    ∧ t.flag F.PWR_OFFACC_STAT_WRITE = write ∧ t.get F.PWR_OFFACC_STAT_REQ = reqNum q

/-- The capture of refusals has not changed. -/
def State.sameTop (s t : State) : Prop :=
  t.word R.TOP_DECERR_ADDR = s.word R.TOP_DECERR_ADDR ∧ t.word R.TOP_DECERR_STAT = s.word R.TOP_DECERR_STAT

/-- The capture of accesses to blocks that are off has not changed. -/
def State.sameOff (s t : State) : Prop :=
  t.word R.PWR_OFFACC_ADDR = s.word R.PWR_OFFACC_ADDR ∧ t.word R.PWR_OFFACC_STAT = s.word R.PWR_OFFACC_STAT

/-- Command c, with opcode op, is the one that mailbox m executes next (R293). -/
def State.fronts (s : State) (m : MBox) (op : Nat) (c : Cmd) : Prop := s.front m = some c ∧ c.opcode = op

/-- The checks of R27 let requester q through to register r, repetition (n, m). -/
def State.reaches (s : State) (q : Req) (r : RegD) (n m : Nat) (write : Bool) : Prop :=
  s.busUp = true ∧ regGrant s q r n write = true ∧ blockOff s (r.addr n m) = false

/-- They let q write v there, and v changes no RWL field that q may not change (R473). -/
def State.mayWrite (s : State) (q : Req) (r : RegD) (n m : Nat) (v : Word) : Prop :=
  s.reaches q r n m true ∧ (rwlChanges s r n m v = true → rwlAllows s q r n = true)

/-- Mailbox m has refused a write for this cause and kept everything but ERROR and ERR_CAUSE (R287). -/
def State.mbxRefused (s t : State) (m : MBox) (cause : Nat) : Prop :=
  t.resp = .access .mbx 0 ∧ { t with regs := s.regs, resp := s.resp } = s
    ∧ t.flag F.MBX_STAT_ERROR m = true ∧ t.get F.MBX_STAT_ERR_CAUSE m = cause
    ∧ t.flag F.MBX_STAT_FULL m = s.flag F.MBX_STAT_FULL m ∧ t.flag F.MBX_STAT_STG_BUSY m = s.flag F.MBX_STAT_STG_BUSY m
    ∧ (∀ (r : RegD) (i j : Nat), r.addr i j ≠ R.MBX_STAT.addr m 0 → t.word r i j = s.word r i j)

/-- OTP programmed from a to b: no anti-rollback counter fell, no key slot was given back, and nothing else changed
(R336, R349). -/
def Otp.Grows (a b : Otp) : Prop :=
  b.rigger ≥ a.rigger ∧ b.pers ≥ a.pers ∧ b.patch ≥ a.patch ∧ (∀ k, a.revoked.getLsbD k → b.revoked.getLsbD k)
    ∧ b = { a with revoked := b.revoked, rigger := b.rigger, pers := b.pers, patch := b.patch }

end Sys2Proof.Machine

namespace Sys2Proof

/-- The commands that can store into SRAM or retire a page of it: accesses to memory and registers, what stages or copies
bytes, samples that reach an armed capture, the boundaries and knots at which register writes act, and the resets. -/
def Instr.stores (i : Instr) : Bool :=
  match i with
  | .registerWrite .. | .sramPartialWrite .. | .sramRead .. | .eccInjectArm .. | .eccLogClear .. |
  .ltxLaneCfgWrite .. | .txAmBoundary .. | .rxAmBoundary .. | .protectionSwitch | .protectionRevert |
  .emergencySwitch | .l8FailRevert | .l8FailSelectionReturn | .shapeApply .. | .txLoadPattern .. |
  .maskCtrlWrite .. | .txCalRevert .. | .tiaRetrim .. | .adcRotationTimer .. | .firstPassDecode .. |
  .winchReseed .. | .rxCalRevert .. | .checkerSyncAcquired .. | .checkerSyncLost .. | .captureArm .. |
  .captureAbort .. | .captureTrigger .. | .captureStop .. | .sliceBoundary | .writebackEntry .. |
  .codewordRelease .. | .deadlineWrite .. | .capstanSnapshot .. | .hostTxApply .. | .hostLoopbackSet .. |
  .rsmEnable .. | .rsmSnapshot .. | .olcReqWrite .. | .probeGo .. | .lbRangeWrite .. | .olcCodeWrite .. |
  .strobeWrite .. | .waveformStart .. | .waveformStop .. | .faultClear .. | .laneReset .. | .lydTxEnWrite .. |
  .lydRxEnWrite .. | .lydCoefWrite .. | .lanyardBlock .. | .userFragmentRx .. | .userSlotFree .. |
  .timeApplyRate .. | .timeApplyStep .. | .timeClearCoarse .. | .scheduledTimeReached .. | .i2cWrite .. |
  .sidebandReset .. | .cmisSoftwareReset | .registerWindowRead .. | .registerWindowWrite .. | .cdbStartDownload .. |
  .cdbWriteBlockLpl .. | .cdbWriteBlockEpl .. | .mailboxWordWrite .. | .mailboxGo .. | .mailboxTake | .getInfo .. |
  .knotReady .. | .knotAmWaitExpiry .. | .fwStatus .. | .attestReport .. | .attestCertificate .. | .riggerReady .. |
  .watchdogKick .. | .riggerImageLoaded | .porRelease .. | .riggerRelease | .urgentConversion .. |
  .referenceEnable .. | .fathomStart .. | .fathomStop .. | .fathomWriteoutDone .. | .perfSnapshot .. |
  .wakeSramFilled | .powerUpComplete | .memsReferenceLoss | .blockEnableWrite .. | .blockEnableComplete .. |
  .softwareAonReset | .brownOut .. | .aonWatchdogExpiry | .vinLoss | .getPowerAccounting .. | .retirePage .. |
  .bistRun .. | .bistBlockDone .. | .bistResult .. | .eccLog .. | .hawserPortEnable .. | .hawserRetrain .. |
  .msgRx .. | .pushRx .. | .completionRx .. | .gangStatus .. | .coreUngateComplete | .lanyardChainSettled .. => true
  | _ => false

/-- The commands whose effect stays in the registers, the monitors, the lanes and the optical state. -/
def Instr.onLanes (i : Instr) : Bool :=
  match i with
  | .amGroupArrival .. | .slotLockWindowEnd .. | .errorInjection .. | .driverSwingResume .. |
  .txPllBandCalComplete .. | .txPllReferenceSwitch .. | .txPllHoldoverExpiry .. | .txCalResult .. | .losDeassert .. |
  .lolAssert .. | .timingRecoveryLock .. | .tiaGainAcquired .. | .tiaAcqTimeout .. | .retrimMeasureDone .. |
  .winchSlot | .rxCalResult .. | .hostLosDeassert .. | .hostLolDeassert .. | .ctleSearchStep .. | .hostEqTimeout .. |
  .heaterPwmPeriod .. | .tokenAcquired | .tokenSegmentEnd .. | .protectConfirmRx .. | .sequencerRound |
  .referenceReady | .fathomSnapshotSwap .. | .samplerCrossing .. | .coreIdleGate | .powerAccountingUpdate .. |
  .pgtkiRise .. | .pgtkiFall | .powerGrantRoundEnd | .powerGrantStepEnd .. | .hostCdrLock .. | .rxPllLock .. |
  .hostPllLock .. | .triggeredConversionDue .. | .hawserLosDeassert .. => true
  | _ => false

/-- The commands whose effect stays in the registers, the monitors, the lanes, their Lanyards, the optical state and the
counter behind the free values. -/
def Instr.onLines (i : Instr) : Bool :=
  match i with
  | .amGroupArrival .. | .amPositionMissed .. | .slotLockWindowEnd .. | .proposeRepeat | .elasticBufferSlip .. |
  .errorInjection .. | .maskEstimateEnd .. | .driverSwingResume .. | .txPllBandCalComplete .. | .txPllLockLoss .. |
  .txPllReferenceSwitch .. | .txPllHoldoverExpiry .. | .txPllStop .. | .txCalResult .. | .losDeassert .. |
  .lolAssert .. | .timingRecoveryLock .. | .tiaGainAcquired .. | .tiaAcqTimeout .. | .retrimMeasureDone .. |
  .winchSlot | .rxCalResult .. | .hostLosAssert .. | .hostLosDeassert .. | .hostLolAssert .. | .hostLolDeassert .. |
  .ctleSearchStep .. | .hostEqTimeout .. | .heaterPwmPeriod .. | .tokenAcquired | .tokenSegmentEnd .. |
  .lockinPeriodEnd .. | .helloPeriod .. | .telemetryPeriod .. | .timePeriod .. | .telemetryRx .. |
  .txadjRequestRx .. | .txadjResultRx .. | .protectConfirmRx .. | .userReassemblyTimeout .. | .sequencerRound |
  .referenceReady | .fathomSnapshotSwap .. | .samplerCrossing .. | .coreIdleGate | .powerAccountingUpdate .. |
  .pgtkiRise .. | .pgtkiFall | .powerGrantRoundEnd | .powerGrantStepEnd .. | .hostCdrLock .. | .rxPllLock .. |
  .hostPllLock .. | .lanyardSymbolBoundary .. | .triggeredConversionDue .. | .hawserLosDeassert .. => true
  | _ => false

/-- The commands whose effect stays in the registers, the mailboxes, the monitors, Hawser and the counter behind the free
values. -/
def Instr.onMailboxes (i : Instr) : Bool :=
  match i with
  | .tiaGainAcquired .. | .tiaAcqTimeout .. | .captureAdcTimeout .. | .hostEqTimeout .. | .protectConfirmRx .. |
  .protectNotifyRx .. | .lanyardPartnerRead .. | .completionRingPop | .eventQueuePop | .ping .. | .cancel .. |
  .flushCompletions .. | .setPolicySender .. | .setPolicyBit .. | .setPolicyQuota .. | .knotStatus .. |
  .gangCommitRx .. | .triggeredConversionRequest .. | .sequencerRound | .adcConversionEnd .. | .referenceReady |
  .anchorMonitorRound .. | .fathomSample .. | .fathomCaptureEnd .. | .fathomSnapshotSwap .. | .monConfig .. |
  .monSnapshot .. | .monSetWindow .. | .perfConfigChain .. | .perfConfigSampler .. | .perfConfigClearOvf .. |
  .samplerCrossing .. | .powerAccountingUpdate .. | .trainingSetRx .. | .hawserSymbolLock .. | .capsRx .. |
  .syncPeriod | .syncReqRx .. | .epochRx .. | .epochLagTimeout .. | .droppedRx .. | .takenRx .. | .gangForward .. |
  .gangConfigParameters .. | .gangConfigList .. | .gangConfigPush .. | .gangConfigReload .. | .rxPllLock .. |
  .hostPllLock .. | .triggeredConversionDue .. | .hawserLosDeassert .. | .gangPushTimeout .. => true
  | _ => false

/-- The commands whose effect stays in the registers, the management interface, the firmware state, the lanes and the
counter behind the free values. -/
def Instr.onManagement (i : Instr) : Bool :=
  match i with
  | .amGroupArrival .. | .slotLockWindowEnd .. | .driverSwingResume .. | .txPllBandCalComplete .. |
  .txPllReferenceSwitch .. | .txPllHoldoverExpiry .. | .txCalResult .. | .losDeassert .. | .lolAssert .. |
  .timingRecoveryLock .. | .tiaGainAcquired .. | .tiaAcqTimeout .. | .retrimMeasureDone .. | .rxCalResult .. |
  .hostLosDeassert .. | .hostLolDeassert .. | .ctleSearchStep .. | .hostEqTimeout .. | .modselChange .. |
  .cmisApplyImmediate .. | .cmisFlagEvaluation | .cmisMonitorRefresh | .hostPasswordEntry .. |
  .hostPasswordChange .. | .windowAccessComplete | .fathomReadoutCopy | .perfWindowCopy | .vdmUnfreeze |
  .cdbQueryStatus | .cdbModuleFeatures | .cdbFwMgmtFeatures | .cdbGetFwInfo | .cdbAbortDownload |
  .cdbCompleteDownload | .cdbCommitImage | .cdbUnknownCommand | .debugUnlockResponse .. | .powerAccountingUpdate .. |
  .hostCdrLock .. | .rxPllLock .. | .hostPllLock .. | .hawserLosDeassert .. => true
  | _ => false

end Sys2Proof
end

