-- ==== Sys2Proof/Certificates/Slice0/Obligations.lean ====
section
/-! DEFINITION. Sys2Proof/Certificates/Slice0/Obligations.lean: the statements for the provers. A statement whose name ends in
Complete or Completes says, command by command, under which conditions its own effect happens and which state it leaves. -/

section
open Sys2Proof Sys2Proof.Machine

/-! ## Mailboxes and policy -/

/-- MAILBOX_TAKE takes the next full mailbox of the round robin while the engine runs; the host's pops drop the oldest
completion and count it in CONSUMED, or drop the oldest event. PING answers its argument, GET_INFO stages its 64
bytes, FLUSH_COMPLETIONS empties the sender's ring and answers what it discards, and CANCEL answers 0 for a tag
without a window entry, 3 for a finished command, 1 for a queued one (which completes CANCELLED) and 2 for one that
executes. -/
def Obligations.MailboxesComplete : Prop :=
  (∀ (s : State) (m : Nat), (inboxNext 16 s).flag F.MBX_ENG_STAT_RUNNING → (inboxNext 16 s).nextFull = some m →
    exec .mailboxTake s = .next (inboxNext 16 (takeMessage m (inboxNext 16 s))))
  ∧ (∀ (s : State) (e : Cpl) (rest : List Cpl), s.mbx.host.entries = e :: rest →
    exec .completionRingPop s = .next ((s.modMbx fun x =>
      { x with host := { x.host with entries := rest, dropping := false } }).incWrap F.MBX_RING_STAT_CONSUMED))
  ∧ (∀ s : State, exec .eventQueuePop s = .next (s.modMbx fun x => { x with events := x.events.tail }))
  ∧ (∀ (s : State) (m : MBox) (c : Cmd), s.fronts m 0x01 c →
    exec (.ping m) s = .next (s.finish c .done (c.word 2).toNat))
  ∧ (∀ (s : State) (m : MBox) (c : Cmd), s.fronts m 0x02 c → exec (.getInfo m) s = .next (s.finishStaged c (infoBytes c s)))
  ∧ (∀ (s : State) (m : MBox) (c : Cmd), s.fronts m 0x05 c → c.bits 2 0 0 = 0 →
    exec (.flushCompletions m) s = .next ((s.flushRing c.ident).finish c .done (s.flushResult c)))
  ∧ (∀ (s : State) (m : MBox) (c : Cmd), s.fronts m 0x05 c → c.bits 2 0 0 = 1 →
    exec (.flushCompletions m) s = .next (((s.flushRing c.ident).modMbx fun x =>
      { x with events := [] }).finish c .done (s.flushResult c)))
  ∧ (∀ (s : State) (m : MBox) (c : Cmd), s.fronts m 0x04 c → c.cancelTag ≠ 0 → c.mayCancel →
      s.windowFind c.cancelOf c.cancelTag = none → exec (.cancel m) s = .next (s.finish c .done 0))
  ∧ (∀ (s : State) (m : MBox) (c : Cmd) (e : WinEntry), s.fronts m 0x04 c → c.cancelTag ≠ 0 → c.mayCancel →
      s.windowFind c.cancelOf c.cancelTag = some e → e.final.isSome → exec (.cancel m) s = .next (s.finish c .done 3))
  ∧ (∀ (s : State) (m : MBox) (c d : Cmd) (e : WinEntry), s.fronts m 0x04 c → c.cancelTag ≠ 0 → c.mayCancel →
      s.windowFind c.cancelOf c.cancelTag = some e → e.final = none → s.cmdById e.id = some d → d.id ≠ c.id →
      d.stage = .queued → exec (.cancel m) s = .next ((s.finish d .cancelled).finish c .done 1))
  ∧ (∀ (s : State) (m : MBox) (c d : Cmd) (e : WinEntry), s.fronts m 0x04 c → c.cancelTag ≠ 0 → c.mayCancel →
      s.windowFind c.cancelOf c.cancelTag = some e → e.final = none → s.cmdById e.id = some d →
      (d.id = c.id ∨ d.stage ≠ .queued) → exec (.cancel m) s = .next (s.finish c .done 2))

/-- SET_POLICY with TABLE 0, 1 and 2, from Cleat: an opcode's allow mask, a policy bit, or a class's quota changes,
and the old value is answered. SET_POLICY that its sender may not make is DENIED, and one that names no opcode, bit or
class is BAD_LENGTH. -/
def Obligations.SetPolicyObeysItsSenders : Prop :=
  (∀ (s : State) (m : MBox) (c : Cmd), s.fronts m 0x03 c → c.ident = 3 → c.bits 2 1 0 = 0 →
      opcodes.contains (c.bits 2 15 8) → (c.bits 2 15 8 = 0x03 → (BitVec.ofNat 6 (c.bits 3 5 0)).getLsbD 2) →
    exec (.setPolicySender m) s = .next ((s.setAllow (c.bits 2 15 8) (BitVec.ofNat 6 (c.bits 3 5 0))).finish c .done
      (s.allow (c.bits 2 15 8)).toNat))
  ∧ (∀ (s : State) (m : MBox) (c : Cmd), s.fronts m 0x03 c → c.ident = 3 → c.bits 2 1 0 = 1 → c.bits 2 15 8 ≤ 5 →
    exec (.setPolicyBit m) s = .next ((s.setPolicyBit (c.bits 2 15 8) (c.bits 3 0 0 = 1)).finish c .done
      (s.mbx.policyBits.getLsbD (c.bits 2 15 8)).toNat))
  ∧ (∀ (s : State) (m : MBox) (c : Cmd), s.fronts m 0x03 c → c.ident = 3 → c.bits 2 1 0 = 2 → c.bits 2 15 8 ≤ 5 →
    exec (.setPolicyQuota m) s = .next ((s.put F.MBX_QUOTA_QUOTA (c.bits 3 11 0) (c.bits 2 15 8)).finish c .done
      (s.get F.MBX_QUOTA_QUOTA (c.bits 2 15 8))))
  ∧ (∀ (s : State) (m : MBox) (c : Cmd), s.fronts m 0x03 c → c.bits 2 1 0 = 0 → opcodes.contains (c.bits 2 15 8) →
      (c.ident = 1 ∨ c.ident = 5 ∨ 0x80 ≤ c.ident) → exec (.setPolicySender m) s = .next (s.finish c .denied))
  ∧ (∀ (s : State) (m : MBox) (c : Cmd), s.fronts m 0x03 c → c.bits 2 1 0 = 1 → 5 < c.bits 2 15 8 →
      exec (.setPolicyBit m) s = .next (s.finish c .badLength))
  ∧ (∀ (s : State) (m : MBox) (c : Cmd), s.fronts m 0x03 c → c.bits 2 1 0 = 2 → c.bits 2 15 8 ≤ 5 →
      c.ident ≠ 3 → c.ident ≠ 2 → exec (.setPolicyQuota m) s = .next (s.finish c .denied))

/-! ## Monitors, counters and ECC -/

/-- Conversions: a triggering event asks for the conversions it triggers, a due conversion and a round enter the
converter's order, the end of a conversion stores its result (an urgent one in URGRES too) and starts the next, and
the reference's readiness lets conversions start. In ANCHOR a round converts the inputs marked ANCHOR. -/
def Obligations.ConversionCommandsComplete : Prop :=
  (∀ (s : State) (ch : Fin 45) (k : Fin 3), exec (.triggeredConversionRequest ch k) s
      = .next (((List.range 64).filter (triggeredBy s ch (k.val + 1))).foldl triggerEvent s))
  ∧ (∀ (s : State) (c : Fin 64), (c.val, false) ∈ s.mon.triggered →
      exec (.triggeredConversionDue c) s = .next (convNext (s.modMon fun m =>
        { m with triggered := m.triggered.erase (c.val, false) ++ [(c.val, true)] })))
  ∧ (∀ s : State, s.flag F.MON_ADC_CTRL_SEQ_EN → s.flag F.MON_ADC_CTRL_REF_RDY → s.mon.slots = [] →
      s.mon.roundLate = false →
      exec .sequencerRound s = .next (convNext (s.modMon fun m => { m with slots := seqSlots s })))
  ∧ (∀ s : State, s.flag F.MON_ADC_CTRL_SEQ_EN → s.flag F.MON_ADC_CTRL_REF_RDY →
      (s.mon.slots ≠ [] ∨ s.mon.roundLate = true) →
      exec .sequencerRound s = .next ((s.addSat F.MON_ADC_STAT_OVERRUN 1).modMon fun m => { m with roundLate := true }))
  ∧ (∀ (s : State) (code : BitVec 12) (cv : Conv), s.mon.conv = some cv → cv.urgent = false →
      exec (.adcConversionEnd code) s
        = .next (convNext (convDone cv.input code.toNat cv.gain cv.offs (s.modMon fun m => { m with conv := none }))))
  ∧ (∀ (s : State) (code : BitVec 12) (cv : Conv), s.mon.conv = some cv → cv.urgent = true →
      exec (.adcConversionEnd code) s
        = .next (convNext ((((convDone cv.input code.toNat cv.gain cv.offs (s.modMon fun m =>
            { m with conv := none })).put F.MON_ADC_URGRES_BUSY 0).put F.MON_ADC_URGRES_VALID 1).put
            F.MON_ADC_URGRES_RESULT (unsigned 16 (convResult cv.input code.toNat cv.gain cv.offs)))))
  ∧ (∀ s : State, s.flag F.MON_ADC_CTRL_REF_EN → s.flag F.MON_ADC_CTRL_REF_RDY = false → s.mon.bootSeq = false →
      exec .referenceReady s = .next (convNext (s.put F.MON_ADC_CTRL_REF_RDY 1)))
  ∧ (∀ s : State, s.flag F.MON_ADC_CTRL_REF_EN → s.flag F.MON_ADC_CTRL_REF_RDY = false → s.mon.bootSeq = true →
      exec .referenceReady s = .next (convNext (((s.put F.MON_ADC_CTRL_REF_RDY 1).put F.MON_ADC_CTRL_SEQ_EN 1).modMon
        fun m => { m with bootSeq := false })))
  ∧ (∀ (s : State) (codes : List (BitVec 12)), s.inAnchor →
      exec (.anchorMonitorRound codes) s
        = .next ((((List.range 64).filter fun c => s.flag F.MON_IN_CFG_ANCHOR c).zip codes).foldl (fun s p =>
            convDone p.1 p.2.toNat (s.get F.MON_IN_CAL_GAIN p.1) (s.geti F.MON_IN_CAL_OFFS p.1) s) s))

/-- Fathom and the windows: a symbol whose decided levels pass its filter is counted by an instance of a symbol
source, a capture that reaches its end stops and asks for its snapshot, a requested snapshot swaps the sets, and its
write-out stores it and answers the commands that wait for it; MON_CONFIG sets up an instance and starts it on
request, MON_SNAPSHOT asks for the snapshots of its mask and waits for them, and MON_SET_WINDOW from Cleat sets a
window. Performance counters: the three actions of PERF_CONFIG write CHAIN, configure and arm a sampler, or clear
overflow bits, and a sampler whose counter has advanced by its period stores the program counter, or notes a lost
sample while the last one is unread, and is armed again. -/
def Obligations.FathomAndPerformanceComplete : Prop :=
  (∀ (s : State) (i : Fin 32) (y : SymbolSample) (x : Bool),
      1 ≤ s.get F.MON_FTH_CFG_SOURCE i → s.get F.MON_FTH_CFG_SOURCE i ≤ 3 →
      (s.word R.MON_FTH_FILT i).getLsbD (4 + y.level.toNat) → (s.word R.MON_FTH_FILT i).getLsbD (8 + y.prev.toNat) →
      exec (.fathomSample i y x) s
        = .next (fathomSample i (symbolValue (s.get F.MON_FTH_CFG_SOURCE i) y.value.toInt) x s))
  ∧ (∀ (s : State) (i : Fin 32), s.flag F.MON_FTH_CFG_RUN i → fathomEnded s i →
      exec (.fathomCaptureEnd i) s = .next (fathomEnd i s))
  ∧ (∀ (s : State) (i : Fin 32), s.mon.fathom[i].req = true → s.mon.fathom[i].writing = false →
      exec (.fathomSnapshotSwap i) s = .next (fathomSwap i s))
  ∧ (∀ (s : State) (i : Fin 32), s.mon.fathom[i].writing = true →
      exec (.fathomWriteoutDone i) s = .next (fathomAnswer i (fathomWritten i s)))
  ∧ (∀ (s : State) (m : MBox) (c : Cmd), s.fronts m 0x50 c → c.bits 2 8 8 = 0 →
      exec (.monConfig m) s = .next ((monConfigured c (Fin.ofNat 32 (c.bits 2 4 0)) s).finish c .done))
  ∧ (∀ (s : State) (m : MBox) (c : Cmd), s.fronts m 0x50 c → c.bits 2 8 8 = 1 →
      exec (.monConfig m) s = .next ((fathomStart (Fin.ofNat 32 (c.bits 2 4 0))
        (monConfigured c (Fin.ofNat 32 (c.bits 2 4 0)) s)).finish c .done))
  ∧ (∀ (s : State) (m : MBox) (c : Cmd) (low : Nat) (rest : List Nat), s.fronts m 0x51 c →
      maskBits 32 (c.word 2).toNat = low :: rest → (low :: rest).all (fun i => fathomLive s i) →
      exec (.monSnapshot m) s = .next (((low :: rest).foldl (fun s i => fathomRequest (Fin.ofNat 32 i) s) s).await c
        (.fathom (low :: rest) low)))
  ∧ (∀ (s : State) (m : MBox) (c : Cmd), s.fronts m 0x52 c → c.ident = 3 → c.bits 2 6 0 ≤ 79 →
      exec (.monSetWindow m) s = .next ((windowSet c (c.bits 2 6 0) s).finish c .done))
  ∧ (∀ (s : State) (m : MBox) (c : Cmd), s.fronts m 0x53 c → c.bits 2 1 0 = 0 →
      exec (.perfConfigChain m) s
        = .next (((List.range 8).foldl (fun s q => s.writePlain R.PMU_CHAIN (c.word (3 + q)) q) s).finish c .done))
  ∧ (∀ (s : State) (m : MBox) (c : Cmd), s.fronts m 0x53 c → c.bits 2 1 0 = 1 →
      exec (.perfConfigSampler m) s = .next ((samplerArm (Fin.ofNat 4 (c.bits 2 9 8))
        ((s.writePlain R.PMU_SAMP_CFG (c.word 3) (c.bits 2 9 8 % 4)).writePlain R.PMU_SAMP_PER (c.word 4)
          (c.bits 2 9 8 % 4))).finish c .done))
  ∧ (∀ (s : State) (m : MBox) (c : Cmd), s.fronts m 0x53 c → c.bits 2 1 0 = 2 →
      exec (.perfConfigClearOvf m) s
        = .next (((List.range 8).foldl (fun s q => s.writePlain R.PMU_OVF (c.word (3 + q)) q) s).finish c .done))
  ∧ (∀ (s : State) (k : Fin 4) (pc : BitVec 64), samplerDue s k → s.flag F.PMU_SAMP_CFG_PEND k = false →
      exec (.samplerCrossing k pc) s
        = .next (samplerArm k (((s.put F.PMU_SAMP_PC_LO_VALUE (pc.toNat % 2 ^ 32) k).put F.PMU_SAMP_PC_HI_VALUE
            (pc.toNat / 2 ^ 32) k).put F.PMU_SAMP_CFG_PEND 1 k)))
  ∧ (∀ (s : State) (k : Fin 4) (pc : BitVec 64), samplerDue s k → s.flag F.PMU_SAMP_CFG_PEND k = true →
      exec (.samplerCrossing k pc) s = .next (samplerArm k (s.put F.PMU_SAMP_CFG_LOST 1 k)))

/-- The scrubber reads its next word and moves on, counting a pass at the last word; ECC_LOG stages the log, and
RETIRE_PAGE copies a page that is not yet retired to the next spare page and answers its ledger entry. -/
def Obligations.EccCommandsComplete : Prop :=
  (∀ (s : State) (u : Upset) (r : Bool), s.flag F.ECC_STAT_SCRUB_EN → s.inAnchor = false →
      s.get F.ECC_SCRUB_STAT_POS ≠ 4194303 → exec (.scrubRead u r) s
        = .next ((scrubWord (0x80000000 + s.get F.ECC_SCRUB_STAT_POS * 8) u r s).put F.ECC_SCRUB_STAT_POS
            (s.get F.ECC_SCRUB_STAT_POS + 1)))
  ∧ (∀ (s : State) (u : Upset) (r : Bool), s.flag F.ECC_STAT_SCRUB_EN → s.inAnchor = false →
      s.get F.ECC_SCRUB_STAT_POS = 4194303 → exec (.scrubRead u r) s
        = .next (((scrubWord (0x80000000 + 4194303 * 8) u r s).put F.ECC_SCRUB_STAT_POS 4194304).incWrap
            F.ECC_SCRUB_STAT_PASSES))
  ∧ (∀ (s : State) (m : MBox) (c : Cmd), s.fronts m 0x92 c →
      exec (.eccLog m) s = .next (s.finishStaged c ((s.ecc.log.flatMap EccEntry.entry
        ++ List.replicate (256 - (s.ecc.log.flatMap EccEntry.entry).length) (0 : Word)).flatMap
          fun (w : Word) => leBytes 4 w.toNat)))
  ∧ (∀ (s : State) (m : MBox) (c : Cmd), s.fronts m 0x93 c → (c.word 2).toNat % 0x1000 = 0 →
      0x80000000 ≤ (c.word 2).toNat → (c.word 2).toNat ≤ 0x81FBFFFF →
      s.ecc.retired.findIdx? (fun p => p = (c.word 2).toNat / 0x1000) = none → s.ecc.retired.length < 64 →
      exec (.retirePage m) s
        = .next (((copyPage (c.word 2).toNat s.ecc.retired.length s).modEcc fun x =>
            { x with retired := x.retired ++ [(c.word 2).toNat / 0x1000],
                     ledgerPending := x.ledgerPending ++ [s.ecc.retired.length] }).finish c .done s.ecc.retired.length))

/-! ## Time -/

/-- Logline: RAW wraps with its tick, a wake in ANCHOR moves AON's wraps to EXT, a selected edge is stamped and lets a
waiting TIME_SET apply, the pulse output goes active at a second and inactive at its end, TIME_SET and TIME_ADJUST
apply their change now or wait for the edge or the time they name, TIME_STAMP_CONFIG configures the queues and the
output, and a TIME_SET whose edge does not come times out. -/
def Obligations.TimeCommandsComplete : Prop :=
  (∀ s : State, s.tim.running = true → s.tim.raw = BitVec.allOnes 48 → exec .rawWrap s = .next s.tick)
  ∧ (∀ s : State, s.inAnchor → exec .cleatAonWake s
      = .next ((s.put F.TIM_AON_HI_EXT (s.get F.TIM_AON_HI_EXT + s.tim.aonWraps)).modTim fun t =>
          { t with aonWraps := 0 }))
  ∧ (∀ (s : State) (falling : Bool), s.flag F.TIM_PPSI_CTRL_EN → s.inAnchor = false →
      s.flag F.TIM_PPSI_CTRL_EDGE = falling → (ppsStamp s).tim.pend = none →
      exec (.ppsInEdge falling false) s = .next (ppsStamp s))
  ∧ (∀ (s : State) (falling clear : Bool) (i : Nat) (a : TimeApply), s.flag F.TIM_PPSI_CTRL_EN →
      s.inAnchor = false → s.flag F.TIM_PPSI_CTRL_EDGE = falling →
      (ppsStamp s).tim.pend = some { cmd := i, change := a, clear := clear, target := none } →
      exec (.ppsInEdge falling false) s
        = .next ((dropPend (ppsStamp s)).requestTime a false ((ppsStamp s).cmdById i)))
  ∧ (∀ s : State, ppsAllowed s → s.tim.ppsSec < s.ppsNow →
      exec .ppsOutSecond s
        = .next (s.modTim fun t => { t with ppsOut := true, ppsWidth := s.ppsWidthUs, ppsSec := s.ppsNow }))
  ∧ (∀ s : State, exec .ppsOutPulseEnd s = .next (s.modTim fun t => { t with ppsOut := false }))
  ∧ (∀ (s : State) (m : MBox) (c : Cmd), s.fronts m 0x60 c → (c.word 5).toNat ≤ 999999999 →
      c.timeSet.rate.all rateOk → c.bits 2 0 0 = 0 →
      exec (.timeSet m) s = .next (s.requestTime c.timeSet false (some c)))
  ∧ (∀ (s : State) (m : MBox) (c : Cmd), s.fronts m 0x60 c → (c.word 5).toNat ≤ 999999999 →
      c.timeSet.rate.all rateOk → c.bits 2 0 0 = 1 →
      exec (.timeSet m) s = .next (s.pendTime c { cmd := c.id, change := c.timeSet, clear := false, target := none }))
  ∧ (∀ (s : State) (m : MBox) (c : Cmd), s.fronts m 0x61 c → c.timeAdjust.rate.all rateOk →
      c.bits 2 3 3 = 0 →
      exec (.timeAdjust m) s = .next (s.requestTime c.timeAdjust (c.bits 2 2 2 = 1) (some c)))
  ∧ (∀ (s : State) (m : MBox) (c : Cmd), s.fronts m 0x61 c → c.timeAdjust.rate.all rateOk →
      c.bits 2 3 3 = 1 → (c.word 9).toNat ≤ 999999999 → s.tooFar c.adjustAt = false →
      exec (.timeAdjust m) s = .next (s.pendTime c { cmd := c.id, change := c.timeAdjust, clear := c.bits 2 2 2 = 1,
                                                     target := some (c.adjustAt, s.rawTarget c.adjustAt) }))
  ∧ (∀ (s : State) (m : MBox) (c : Cmd), s.fronts m 0x62 c →
      (∀ i, i = 2 ∨ i = 3 → c.bits i 20 20 = 1 → c.bits i 19 16 ≤ 12) →
      exec (.timeStampConfig m) s = .next ((stampConfigured c s).finish c .done))
  ∧ (∀ (s : State) (c : Cmd) (i : Nat) (a : TimeApply) (clear : Bool),
      s.tim.pend = some { cmd := i, change := a, clear := clear, target := none } → s.cmdById i = some c →
      exec .timeSetPpsTimeout s = .next ((dropPend s).finish c .timedOut))

/-! ## Host lanes -/

/-- The host lanes' receive and clock events take effect: PLL lock, the changes of LOS and LOL with their change bits
and counters, CDR lock, and the search for the CTLE code, which after code 15 keeps the best eye, the lowest code of
equals. The host lanes' frames: at a receive boundary, after the codes taken, pending changes apply, at a transmit
boundary, after the symbols sent, pending changes apply and ended squelch causes leave, the monitor of a lane group
counts a codeword, or loses its lock over skew or a member's lost framing, and HOST_SET_EQ writes the settings of its
lanes and waits for their boundaries. -/
def Obligations.HostLanesComplete : Prop :=
  (∀ (s : State) (q : Fin 4), s.powered (.hst q) → s.get F.PWR_CLK_STAT_HST_LOCK / 2 ^ q.val % 2 = 0 →
      exec (.hostPllLock q) s
        = .next (s.put F.PWR_CLK_STAT_HST_LOCK (s.get F.PWR_CLK_STAT_HST_LOCK + 2 ^ q.val)))
  ∧ (∀ (s : State) (h : HLane), s.hostRuns h → s.flag F.HST_LANE_STAT_LOS h = false → exec (.hostLosAssert h) s
      = .next ((((s.put F.HST_LANE_STAT_LOS 1 h).put F.HST_LANE_STAT_LOS_CHG 1 h).addSat F.HST_LANE_STAT_LOS_COUNT 1
          h).hostDown h))
  ∧ (∀ (s : State) (h : HLane), s.hostRuns h → s.flag F.HST_LANE_STAT_LOS h → exec (.hostLosDeassert h) s
      = .next ((((s.put F.HST_LANE_STAT_LOS 0 h).put F.HST_LANE_STAT_LOS_CHG 1 h).put F.WNC_FOM_VALID 0
          (9 + h)).ctleStart h))
  ∧ (∀ (s : State) (h : HLane), s.hostRuns h → s.flag F.HST_LANE_STAT_LOS h = false →
      s.flag F.HST_LANE_STAT_LOL h = false → (s.hst h).lolHeld = false → exec (.hostLolAssert h) s
      = .next ((((s.put F.HST_LANE_STAT_LOL 1 h).put F.HST_LANE_STAT_LOL_CHG 1 h).addSat F.HST_LANE_STAT_LOL_COUNT 1
          h).hostDown h))
  ∧ (∀ (s : State) (h : HLane), s.hostRuns h → s.flag F.HST_LANE_STAT_LOS h = false →
      s.flag F.HST_LANE_STAT_LOL h → exec (.hostLolDeassert h) s
      = .next (((((s.put F.HST_LANE_STAT_LOL 0 h).put F.HST_LANE_STAT_LOL_CHG 1 h).modHst h fun t =>
          { t with cdr := true, lolHeld := false, visits := 0 }).visitEarly (9 + h)).ctleStart h))
  ∧ (∀ (s : State) (h : HLane), s.hostRuns h → s.flag F.HST_LANE_STAT_LOS h = false →
      s.flag F.HST_LANE_STAT_LOL h = false → exec (.hostCdrLock h) s
      = .next ((s.modHst h fun t => { t with cdr := true, lolHeld := false, visits := 0 }).visitEarly (9 + h)))
  ∧ (∀ (s : State) (h : HLane) (eye k best code : Nat), (s.hst h).search = some (k, best, code) → k ≠ 15 →
      exec (.ctleSearchStep h eye) s
        = .next ((s.modHst h fun t =>
            { t with search := some (k + 1, if k = 0 ∨ best < eye then (eye, k) else (best, code)) }).put
              F.HST_RX_STAT_CTLE_ACT (k + 1) h))
  ∧ (∀ (s : State) (h : HLane) (eye best code : Nat), (s.hst h).search = some (15, best, code) →
      exec (.ctleSearchStep h eye) s
        = .next (((s.modHst h fun t => { t with search := none, visits := 0 }).visitEarly (9 + h)).put F.HST_RX_STAT_CTLE_ACT
            (if best < eye then 15 else code) h))
  ∧ (∀ (s : State) (h : HLane), (s.hst h).cdr = true → s.flag F.HST_LANE_STAT_FRAME_LOCK h = false →
      exec (.hostEqTimeout h) s = .next (s.put F.HST_RX_STAT_EQ_FAULT 1 h))
  ∧ (∀ (s : State) (h : HLane) (before after : List (BitVec 8)), s.flag F.HST_LANE_STAT_FRAME_LOCK h →
      exec (.hostRxFrameBoundary h before after) s
        = .next (hostData h after (hostRxApply h ((hostData h before s).perf (0xC0 + h)))))
  ∧ (∀ (s : State) (h : HLane) (levels : List (Fin 4)), s.hostTxFramed h → exec (.hostTxFrameBoundary ⟨h, levels⟩) s
      = .next ((hostTxApply h ((hostSend h levels s).perf (0xD0 + h))).releaseHost h true))
  ∧ (∀ (s : State) (h : HLane) (skew : Nat) (corr : List (HLane × Nat)) (unc : Bool), s.rsmGroup h ≠ [] → skew ≤ 200 →
      (∀ k ∈ s.rsmGroup h, if s.flag F.HST_RSM_CTRL_DIR h then s.hostTxFramed k = true
        else s.flag F.HST_LANE_STAT_FRAME_LOCK k = true) →
      exec (.rsmCodeword h skew corr unc) s = .next
        (let total := (corr.map Prod.snd).sum
         let bad := unc || decide (total > 15)
         fathomOffer 8 (fun f => bitsOf f 3 0 = h.val && bitsOf f 8 8 = (s.flag F.HST_RSM_CTRL_DIR h).toNat)
           (if bad then 16 else Int.ofNat total) (rsmCounted h bad corr (s.put F.HST_RSM_STAT_LOCK 1 h))))
  ∧ (∀ (s : State) (h : HLane) (skew : Nat) (corr : List (HLane × Nat)) (unc : Bool), s.rsmGroup h ≠ [] → 200 < skew →
      exec (.rsmCodeword h skew corr unc) s
        = .next ((s.put F.HST_RSM_STAT_ALIGN_FAIL 1 h).put F.HST_RSM_STAT_LOCK 0 h))
  ∧ (∀ (s : State) (m : MBox) (c : Cmd), s.fronts m 0x28 c → c.hostEqBad = false →
      (∀ h ∈ maskLanes 16 (c.bits 2 15 0), s.hostOn h = true) → c.hostEqWaits (maskLanes 16 (c.bits 2 15 0)) ≠ [] →
      exec (.hostSetEq m) s
        = .next ((eachOf (maskLanes 16 (c.bits 2 15 0)) (hostEqLane c c.hostEqTx) s).await c
            (.hostEq (c.hostEqWaits (maskLanes 16 (c.bits 2 15 0))))))

/-! ## The line transmitter -/

/-- The line transmitter's datapath: a selected codeword whose turn it is is sent with its injected bits, the fill of
an elastic buffer is shown, beyond 64 host UI as a slip that loses framing and squelches, an estimate of the mask
monitor with its blocks is shown and judged, the driver resumes after a swing change, the subcarrier's settings take
effect with its next symbol, and a calibration result is taken at once, or in LIVE kept for the boundary. -/
def Obligations.LineTransmitDataCompletes : Prop :=
  (∀ (s : State) (n : Line) (b : Bool) (p : BitVec 128), injects n b s → injectTurn n b s →
      exec (.errorInjection n b p) s = .next
        (let out := injected n b (if s.mode n = 1 then p else hammingEncode p) s
         let t := s.modTx n fun t => if b then { t with sent := out, injB := 0 } else { t with sent := out, injA := 0 }
         eachOf (codeLevels out) (fun g s => txLevel n g s) (t.addSat F.LTX_ERR_INJ_CNT_COUNT 1 n)))
  ∧ (∀ (s : State) (n : Line) (b : Bool) (fill : Int), s.mode n ≠ 0 → (b = true → s.mode n = 3) →
      (fill - (if b then (s.tx n).centreB else (s.tx n).centreA)).natAbs ≤ 64 →
      exec (.elasticBufferSlip n ⟨b, fill⟩) s
        = .next ((s.modTx n fun t => if b then { t with fillB := fill } else { t with fillA := fill }).put
            (if b then F.LTX_SLIP_STAT_DEV_B else F.LTX_SLIP_STAT_DEV_A)
            (devShown fill (if b then (s.tx n).centreB else (s.tx n).centreA)) n))
  ∧ (∀ (s : State) (n : Line) (b : Bool) (fill : Int), s.mode n ≠ 0 → (b = true → s.mode n = 3) →
      64 < (fill - (if b then (s.tx n).centreB else (s.tx n).centreA)).natAbs →
      exec (.elasticBufferSlip n ⟨b, fill⟩) s
        = .next (bufferSlip n b ((s.modTx n fun t => if b then { t with fillB := fill } else { t with fillA := fill }).put
            (if b then F.LTX_SLIP_STAT_DEV_B else F.LTX_SLIP_STAT_DEV_A)
            (devShown fill (if b then (s.tx n).centreB else (s.tx n).centreA)) n)))
  ∧ (∀ (s : State) (n : Line) (b : Bool), bufferSlip n b s =
        (let s := (bufferCentre n b s).txFramingLost n b
         let s := if s.copied n then s.txFramingLost 8 b else s
         let s := (s.put F.LTX_SLIP_STAT_SLIP 1 n).addSat F.LTX_SLIP_STAT_COUNT 1 n
         (s.preClear n).squelch n true (s.tx n).sqPll))
  ∧ (∀ (s t : State) (n : Line) (a b : List (List (BitVec 128))), txData n (txOf a b) s = t → t.flag F.LTX_MASK_CTRL_EN n →
      2 ^ t.get F.LTX_MASK_CTRL_AVG n ≤ (t.tx n).maskBlocks →
      exec (.maskEstimateEnd n a b) s
        = .next (maskClear n (maskJudge n (maskResult n (maskBinsOf n t).1 (maskBinsOf n t).2))))
  ∧ (∀ (s : State) (n : Line), exec (.driverSwingResume n) s = .next (s.modTx n fun t => { t with swingHold := false }))
  ∧ (∀ (s t : State) (n : Line) (data : TxData), txData n data s = t → t.flag F.LYD_CTRL_TX_EN n = false →
      exec (.lanyardSymbolBoundary ⟨n, data⟩) s = .next (t.modTx n fun u => { u with
        lydEn := t.flag F.LTX_LYD_ADD_EN n, lydDepth := t.get F.LTX_LYD_ADD_DEPTH n, lydT := 0 }))
  ∧ (∀ (s t : State) (n : Line) (data : TxData), txData n data s = t → t.flag F.LYD_CTRL_TX_EN n →
      exec (.lanyardSymbolBoundary ⟨n, data⟩) s = .next ((t.modTx n fun u => { u with
        lydEn := t.flag F.LTX_LYD_ADD_EN n, lydDepth := t.get F.LTX_LYD_ADD_DEPTH n, lydT := 0 }).modLyd n lydNext))
  ∧ (∀ (s : State) (n : Line) (k : Fin 3) (v : Word), s.flag F.LTX_CAL_CTRL_FREEZE n = false →
      (s.get F.OLC_STAT_STATE n = 2 ∨ (s.get F.OLC_STAT_STATE n = 1 ∧ k ≠ 2)) →
      exec (.txCalResult n k v) s = .next (txCalApply n (k.val, v) s))
  ∧ (∀ (s : State) (n : Line) (k : Fin 3) (v : Word), s.flag F.LTX_CAL_CTRL_FREEZE n = false →
      s.get F.OLC_STAT_STATE n = 3 → k ≠ 2 →
      exec (.txCalResult n k v) s = .next (s.modTx n fun t =>
        { t with calPend := t.calPend.filter (fun r => !(r.1 = k.val)) ++ [(k.val, v)] }))

/-- The transmit PLL of a pair: its band calibration ends, a loss of lock counts on both lanes and squelches them, it
moves to a reference with signal and lock in HOLDOVER, HOLDOVER passes 1 ms, and it stops once neither lane needs it.
TX_SET_SHAPING and TX_LOAD_PATTERN write the settings of their lanes and wait for the boundaries at which they apply,
TX_LOAD_PATTERN after it has copied its staged samples to the pattern memory. -/
def Obligations.TransmitClockAndShapingComplete : Prop :=
  (∀ (s : State) (p : Fin 5), ((s.pll p).state = 1 ∨ (s.pll p).state = 2) → exec (.txPllBandCalComplete p) s
      = .next (s.modPll p fun t => { t with state := 3, band := s.pllBand p, relock := false }))
  ∧ (∀ (s : State) (p : Fin 5), ((s.pll p).state = 4 ∨ (s.pll p).state = 5) → exec (.txPllLockLoss p) s
      = .next (eachOf (pairLanes p) (fun n s => s.addSat F.LTX_PLL_STAT_LOSS_COUNT 1 n)
          (pllSquelch p true (s.modPll p fun t =>
            { t with state := 3, ready := false, relock := (s.pll p).ready, long := false }))))
  ∧ (∀ (s : State) (p : Fin 5) (h : Nat), (s.pll p).state = 5 → s.pllBest p = some h → exec (.txPllReferenceSwitch p) s
      = .next (s.modPll p fun t => { t with state := 4, ref := h, long := false }))
  ∧ (∀ (s : State) (p : Fin 5), (s.pll p).state = 5 → exec (.txPllHoldoverExpiry p) s
      = .next (s.modPll p fun t => { t with long := true }))
  ∧ (∀ (s : State) (p : Fin 5), (s.pll p).state ≠ 0 → (∀ n ∈ pairLanes p, s.needsPll n = false) →
      exec (.txPllStop p) s = .next ((pllSquelch p false (s.modPll p fun _ => {})).dropStep (.ltx p)))
  ∧ (∀ (s : State) (m : MBox) (c : Cmd), s.fronts m 0x25 c → c.bits 2 27 24 ≠ 15 →
      c.extLen = (if c.bits 2 17 17 = 1 then 64 else 0) → (∀ n ∈ maskLanes 9 (c.bits 2 8 0), s.laneOn n = true) →
      maskLanes 9 (c.bits 2 8 0) ≠ [] →
      exec (.txSetShaping m) s = .next ((eachOf (maskLanes 9 (c.bits 2 8 0)) (shapeLane c) s).await c
        (.shaping (maskLanes 9 (c.bits 2 8 0)))))
  ∧ (∀ (s : State) (m : MBox) (c : Cmd), s.fronts m 0x2A c → c.patternBad = false →
      (∀ n ∈ maskLanes 9 (c.bits 2 8 0), s.laneOn n = true) → maskLanes 9 (c.bits 2 8 0) ≠ [] →
      exec (.txLoadPattern m) s = .next ((eachOf (maskLanes 9 (c.bits 2 8 0)) (patternLane c)
        (s.setBytes (0x81700000 + c.bits 5 21 0) (s.bytes (stagingBase c.m) c.extLen))).await c
          (.pattern (maskLanes 9 (c.bits 2 8 0)))))
  ∧ (∀ (s : State) (m : MBox) (c : Cmd), s.fronts m 0x2A c → c.patternBad = false →
      maskLanes 9 (c.bits 2 8 0) = [] →
      exec (.txLoadPattern m) s = .next ((s.setBytes (0x81700000 + c.bits 5 21 0)
        (s.bytes (stagingBase c.m) c.extLen)).finish c .done))

/-! ## The line receiver -/

/-- The line receiver's front end: the gain loop reaches its target or stands at a limit, a RETRIM measurement moves
the gain at the next boundary, the timer rotates the sub-ADCs while there is no framing, a calibration result is taken
at once or kept for the boundary, and the PLL's lock is shown. -/
def Obligations.ReceiveFrontEndCompletes : Prop :=
  (∀ (s : State) (n : Line) (g : Fin 64), tiaLoop n s → exec (.tiaGainAcquired n g) s
      = .next ((s.put F.LRX_TIA_STAT_GAIN g n).put F.LRX_TIA_STAT_ACQ_DONE 1 n))
  ∧ (∀ (s : State) (n : Line) (high : Bool), tiaLoop n s → s.flag F.LRX_TIA_STAT_ACQ_DONE n = false →
      exec (.tiaAcqTimeout n high) s
        = .next ((s.put F.LRX_TIA_STAT_GAIN (if high then 63 else 0) n).put F.LRX_TIA_STAT_ACQ_FAIL 1 n))
  ∧ (∀ (s : State) (n : Line) (rms256 : Nat), (s.rx n).retrimming = true → exec (.retrimMeasureDone n rms256) s
      = .next (let g := clamp 0 63 (Int.ofNat (s.get F.LRX_TIA_STAT_GAIN n) + retrimSteps rms256)
               s.modRx n fun t => { t with retrimming := false, gainPend := some g.toNat }))
  ∧ (∀ (s : State) (n : Line) (data : RxData), s.rxFramed n = false → exec (.adcRotationTimer n data) s
      = .next (rotate n ((rxData n data s).put F.LRX_ADC_STAT_TIMER 1 n)))
  ∧ (∀ (s : State) (n : Line), s.powered (.lrx n) → s.rxRuns n = false → exec (.rxPllLock n) s
      = .next (s.put F.PWR_CLK_STAT_RX_LOCK (s.get F.PWR_CLK_STAT_RX_LOCK + 2 ^ n.val)))
  ∧ (∀ (s : State) (n : Line) (v : Word), exec (.rxCalResult n 0 v) s
      = .next (s.modRx n fun t => { t with adcPend := some v }))
  ∧ (∀ (s : State) (n : Line) (k : Fin 3) (v : Word), k ≠ 0 → s.flag F.LRX_CAL_CTRL_FREEZE n = false →
      s.rxFramed n → exec (.rxCalResult n k v) s = .next (s.modRx n fun t =>
        { t with calPend := t.calPend.filter (fun r => !(r.1 = k.val)) ++ [(k.val, v)] }))
  ∧ (∀ (s : State) (n : Line) (k : Fin 3) (v : Word), k ≠ 0 → s.flag F.LRX_CAL_CTRL_FREEZE n = false →
      s.rxFramed n = false → exec (.rxCalResult n k v) s = .next (rxCalApply n (k.val, v) s))

/-- The line receiver's defects and locks: LOS and LOL rise with their change bits and counters and take the lane's
reception down, LOS falls and timing recovery locks, and codeword pairs lock and unlock the slots at the counts of
R49. What reaches a checker moves it, to synchronisation after 64 symbols in a row without an error and out of it at
32 within 1,024 symbols; a capture is triggered, stops at the end of its post-trigger share or times out, and
CAPTURE_ADC and RX_SET_EQ_POLICY write their settings and wait. -/
def Obligations.ReceiveEventsAndServicesComplete : Prop :=
  (∀ (s : State) (n : Line), s.rxRuns n → s.flag F.LRX_LOS_STAT_LOS n = false → exec (.losAssert n) s
      = .next ((((((((s.put F.LRX_LOS_STAT_LOS 1 n).put F.LRX_LOS_STAT_LOS_CHG 1 n).addSat F.LRX_LOS_STAT_LOS_COUNT 1
          n).rxDown n).phyLost n).protLoss n).capSource n 2).refreshHosts))
  ∧ (∀ (s : State) (n : Line), s.rxRuns n → s.flag F.LRX_LOS_STAT_LOS n → exec (.losDeassert n) s = .next
      (let s := ((s.put F.LRX_LOS_STAT_LOS 0 n).put F.LRX_LOS_STAT_LOS_CHG 1 n).put F.LRX_TIA_STAT_ACQ_DONE 0 n
       let s := s.modRx n fun t => { t with lolHeld := false }
       (s.put F.WNC_FOM_VALID 0 n).refreshHosts))
  ∧ (∀ (s : State) (n : Line) (range : Bool), s.rxRuns n → s.flag F.LRX_LOS_STAT_LOS n = false →
      s.flag F.LRX_LOS_STAT_LOL n = false → (s.rx n).lolHeld = false → (s.rx n).lolMode = false →
      exec (.lolAssert n range) s = .next
        (let s := ((s.put F.LRX_LOS_STAT_LOL 1 n).put F.LRX_LOS_STAT_LOL_CHG 1 n).addSat F.LRX_LOS_STAT_LOL_COUNT 1 n
         let s := s.modRx n fun t => { t with outOfRange := range }
         (((s.rxDown n).protLoss n).capSource n 2).refreshHosts))
  ∧ (∀ (s : State) (n : Line) (freq : BitVec 16), s.rxRuns n → s.flag F.LRX_LOS_STAT_LOS n = false →
      s.flag F.LRX_TR_STAT_LOCK n = false → exec (.timingRecoveryLock n freq) s = .next
        (let s := (s.put F.LRX_TR_STAT_LOCK 1 n).put F.LRX_TR_STAT_FREQ freq.toNat n
         let s := s.modRx n fun t => { t with lolHeld := false, lolMode := false, outOfRange := false, visits := 0,
                                              trFreq := Int.cast (signed 16 freq.toNat) }
         let s := s.visitEarly n
         (if s.flag F.LRX_LOS_STAT_LOL n then (s.put F.LRX_LOS_STAT_LOL 0 n).put F.LRX_LOS_STAT_LOL_CHG 1 n
           else s).refreshHosts))
  ∧ (∀ (s : State) (n : Line) (even odd : Nat) (w : Bool), s.mode n = 3 → s.flag F.LRX_FRAME_STAT_SLOT_LOCK n = false →
      4 ≤ (s.rx n).visits → s.flag F.LRX_TR_STAT_LOCK n → 192 ≤ even → 192 ≤ odd →
      exec (.slotLockWindowEnd n even odd w) s = .next (s.put F.LRX_FRAME_STAT_SLOT_LOCK 1 n))
  ∧ (∀ (s : State) (n : Line) (even odd : Nat) (w : Bool), s.mode n = 3 → s.flag F.LRX_FRAME_STAT_SLOT_LOCK n →
      even < 32 → odd < 32 → exec (.slotLockWindowEnd n even odd w) s = .next (s.slotLost n))
  ∧ (∀ (s : State) (n : Line) (even odd : Nat) (w : Bool), s.mode n = 3 → s.flag F.LRX_FRAME_STAT_SLOT_LOCK n →
      (32 ≤ even ∨ 32 ≤ odd) → exec (.slotLockWindowEnd n even odd w) s = .next s)
  ∧ (∀ (s : State) (n : Line) (line : RxData) (host : List (BitVec 8)), s.powered (.lrx n) →
      exec (.checkerSyncAcquired ⟨.rx n, line, host⟩) s
        = .next (line.foldl (fun s x => rxSample n x s) (s.modChain n fun c => { c with out := [] }))
      ∧ exec (.checkerSyncLost (.rx n) line host) s
        = .next (line.foldl (fun s x => rxSample n x s) (s.modChain n fun c => { c with out := [] })))
  ∧ (∀ (s : State) (h : HLane) (line : RxData) (host : List (BitVec 8)), s.powered (.hst (h / 4)) →
      exec (.checkerSyncAcquired ⟨.hostRx h, line, host⟩) s = .next (host.foldl (fun s c => hostSample h c s) s)
      ∧ exec (.checkerSyncLost (.hostRx h) line host) s = .next (host.foldl (fun s c => hostSample h c s) s))
  ∧ (∀ (s : State) (n : Line) (level : Nat) (c : Chk), s.get F.LRX_CHK_CTRL_SRC n ≠ 0 →
      s.flag F.LRX_CHK_CTRL_INVERT n = false → s.flag F.LRX_CHK_STAT_SYNC n = false →
      (s.rx n).chk.next (s.get F.LRX_CHK_CTRL_SRC n) (s.get F.LRX_CHK_CTRL_SQ_HALF n) level = (c, some level) →
      63 ≤ c.run → chkLevel (.rx n) level s
        = (s.modRx n fun t => { t with chk := { c with errs := [] } }).put F.LRX_CHK_STAT_SYNC 1 n)
  ∧ (∀ (s : State) (n : Line) (level e : Nat) (c : Chk), s.get F.LRX_CHK_CTRL_SRC n ≠ 0 →
      s.flag F.LRX_CHK_CTRL_INVERT n = false → s.flag F.LRX_CHK_STAT_SYNC n = true →
      (s.rx n).chk.next (s.get F.LRX_CHK_CTRL_SRC n) (s.get F.LRX_CHK_CTRL_SQ_HALF n) level = (c, some e) →
      level ≠ e → 31 ≤ (c.errs.filter fun a => a + 1 < 1024).length → chkLevel (.rx n) level s
        = ((((s.addSat F.LRX_CHK_SYM_COUNT 1 n).addSat F.LRX_CHK_BIT_COUNT
            (((grayBits level).1 != (grayBits e).1).toNat + ((grayBits level).2 != (grayBits e).2).toNat) n).modRx n
            fun t => { t with chk := {} }).put F.LRX_CHK_STAT_SYNC 0 n).put F.LRX_CHK_STAT_SYNC_LOST 1 n)
  ∧ (∀ (s t : State) (n : Line) (data : RxData), rxData n data s = t → t.get F.LRX_CAP_STAT_STATE n = 1 →
      (t.rx n).capTrig = true → exec (.captureTrigger n data) s = .next (t.put F.LRX_CAP_STAT_STATE 2 n))
  ∧ (∀ (s : State) (n : Line) (data : RxData), s.powered (.lrx n) → exec (.captureStop n data) s
      = .next (data.foldl (fun s x => rxSample n x s) (s.modChain n fun c => { c with out := [] })))
  ∧ (∀ (s : State) (n : Line) (code : BitVec 8) (z : Int), s.get F.LRX_CAP_STAT_STATE n = 2 →
      (8 - s.get F.LRX_CAP_CTRL_PRE n) * 0x20000 ≤ (s.rx n).capPost + 1 →
      capSample n code z s = capStop n 3 .done ((capWrite n [capByte s n code z] s).modRx n fun t =>
        { t with capPost := t.capPost + 1 }))
  ∧ (∀ (s : State) (m : MBox) (c : Cmd), s.fronts m 0x29 c → c.bits 2 3 0 ≤ 8 → s.laneOn (c.bits 2 3 0) →
      capActive s (c.bits 2 3 0) = false → exec (.captureAdc m) s = .next
        (let n := c.bits 2 3 0
         let s := ((s.put F.LRX_CAP_CTRL_POINT (c.bits 2 8 8) n).put F.LRX_CAP_CTRL_TRIG (c.bits 2 17 16) n).put
           F.LRX_CAP_CTRL_PRE (c.bits 2 26 24) n
         (capArm n s).await c (.capture n)))
  ∧ (∀ (s : State) (n : Line), s.get F.LRX_CAP_STAT_STATE n = 1 →
      (∃ c ∈ s.mbx.outstanding, c.stage = .executing (.capture n)) →
      exec (.captureAdcTimeout n) s = .next (capStop n 4 .timedOut s))
  ∧ (∀ (s : State) (m : MBox) (c : Cmd) (all : List Nat), s.fronts m 0x26 c →
      all = maskLanes 9 (c.bits 2 8 0) ++ (maskLanes 16 (c.bits 3 15 0)).map (· + 9) → all ≠ [] →
      (∀ n ∈ maskLanes 9 (c.bits 2 8 0), s.laneOn n = true) →
      (∀ h ∈ maskLanes 16 (c.bits 3 15 0), s.hostOn h = true) →
      exec (.rxSetEqPolicy m) s = .next
        (let s := eachOf (maskLanes 9 (c.bits 2 8 0)) (eqPolicyLine c) (eachOf all (eqPolicyWinch c) s)
         let s := if c.bits 5 8 8 = 1 then eachOf all (fun i s => s.reseed i) s else s
         s.await c (.eqPolicy all)))

/-! ## Framing and boundaries -/

/-- The equaliser's slots and visits, lane modes and maps: a slot starts at the next place of the round while CORE is
on, a visit's block is wasted or retired, LANE_SET_MODE and LANE_MAP leave their words pending and wait, and AM groups
where they are due and missed positions gain, keep and lose framing. The boundaries: after its data a lane with
framing applies the changes bound to its boundary, the knots' first, and a unit without framing applies its waiting
changes at once. -/
def Obligations.FramingAndBoundariesComplete : Prop :=
  (∀ s : State, s.coreOn → s.lanes.winch.visiting = none → s.lanes.winch.started = false →
      exec .winchSlot s
        = .next (slotStart (winchSlotOf 0) ((s.put F.WNC_STAT_SLOT 0).modWinch fun w => { w with started := true })))
  ∧ (∀ s : State, s.coreOn → s.lanes.winch.visiting = none → s.lanes.winch.started = true →
      s.get F.WNC_STAT_SLOT ≠ 33 → exec .winchSlot s
        = .next (slotStart (winchSlotOf (s.get F.WNC_STAT_SLOT + 1)) ((s.put F.WNC_STAT_SLOT
            (s.get F.WNC_STAT_SLOT + 1)).modWinch fun w => { w with started := true })))
  ∧ (∀ s : State, s.coreOn → s.lanes.winch.visiting = none → s.lanes.winch.started = true →
      s.get F.WNC_STAT_SLOT = 33 → exec .winchSlot s
        = .next (slotStart (winchSlotOf 0) (((s.incWrap F.WNC_STAT_ROUNDS).put F.WNC_STAT_SLOT 0).modWinch fun w =>
            { w with started := true })))
  ∧ (∀ (s : State) (codes : List (BitVec 8)) (lv : List (Fin 4)) (off i : Nat), s.lanes.winch.visiting = some i →
      s.lanes.winch.spoiled = true → exec (.winchVisitEnd ⟨codes, lv, off⟩) s
        = .next (((s.modWinch fun w => { w with visiting := none }).addSat F.WNC_SLOT_WST_COUNT 1).perf 0xE5))
  ∧ (∀ (s : State) (codes : List (BitVec 8)) (lv : List (Fin 4)) (off i : Nat), s.lanes.winch.visiting = some i →
      s.lanes.winch.spoiled = false → exec (.winchVisitEnd ⟨codes, lv, off⟩) s = .next
        (let t := s.modWinch fun w => { w with visiting := none }
         visitRetired i s.lanes.winch (visitResult i codes lv off t s.lanes.winch) t))
  ∧ (∀ (s : State) (m : MBox) (c : Cmd), s.fronts m 0x20 c → (∀ x ∈ modeChanges c s, s.laneOn x.1 = true) →
      mapAccepts s (modeChanges c s) → modeChanges c s ≠ [] → exec (.laneSetMode m) s
        = .next (((modeChanges c s).foldl (fun s x => cfgPend x.1 x.2 s) s).await c
            (.laneCfg ((modeChanges c s).map Prod.fst))))
  ∧ (∀ (s : State) (m : MBox) (c : Cmd), s.fronts m 0x23 c → (∀ x ∈ mapChanges c s, s.laneOn x.1 = true) →
      mapAccepts s (mapChanges c s) → mapChanges c s ≠ [] → exec (.laneMap m) s
        = .next (((mapChanges c s).foldl (fun s x => cfgPend x.1 x.2 s) s).await c
            (.laneCfg ((mapChanges c s).map Prod.fst))))
  ∧ (∀ (s : State) (f : Framer), framerRuns s f → framerLock s f = false → (framerSearch s f).found = true →
      exec (.amGroupArrival f true) s = .next (framerLocked f (setSearch f {} s)))
  ∧ (∀ (s : State) (f : Framer), framerRuns s f → framerLock s f → exec (.amGroupArrival f true) s
      = .next (setSearch f { framerSearch s f with missed := 0 } s))
  ∧ (∀ (s : State) (f : Framer), framerRuns s f → framerLock s f → exec (.amGroupArrival f false) s = .next s)
  ∧ (∀ (s : State) (f : Framer), framerLock s f → (framerSearch s f).missed < 3 → exec (.amPositionMissed f) s
      = .next (setSearch f { framerSearch s f with missed := (framerSearch s f).missed + 1 } s))
  ∧ (∀ (s : State) (n : Line) (b : Bool), framerLock s (.lrx n b) → 3 ≤ (framerSearch s (.lrx n b)).missed →
      exec (.amPositionMissed (.lrx n b)) s = .next (s.rxFramingLost n b))
  ∧ (∀ (s : State) (n : Line) (b : Bool), framerLock s (.ltx n b) → 3 ≤ (framerSearch s (.ltx n b)).missed →
      exec (.amPositionMissed (.ltx n b)) s = .next (s.txFramingLost n b))
  ∧ (∀ (s : State) (h : HLane), framerLock s (.hst h) → 3 ≤ (framerSearch s (.hst h)).missed →
      exec (.amPositionMissed (.hst h)) s
        = .next ((setSearch (.hst h) {} (s.put F.HST_LANE_STAT_FRAME_LOCK 0 h)).modWinch fun w =>
            { w with track := Bank.put w.track (9 + h) false false }).rsmCheck)
  ∧ (∀ (s : State) (n : Line) (fillA fillB : Int) (data : TxData), s.txFramed n →
      exec (.txAmBoundary n fillA fillB data) s
        = .next (txBoundary n fillA fillB (knotBoundary false n (txData n data s))))
  ∧ (∀ (s : State) (n : Line) (codes : List (BitVec 8)) (lv : List (Fin 4)) (am : List (Option (Fin 4))), s.rxFramed n →
      exec (.rxAmBoundary n codes lv am) s
        = .next (rxBoundary n (knotBoundary true n (rxData n (rxOf codes lv am) s))))
  ∧ (∀ (s : State) (n : Line), s.rxFramed n = false →
      exec (.pendingChangeNoFraming (.rx n)) s = .next (rxChanges n false s))
  ∧ (∀ (s : State) (h : HLane), s.flag F.HST_LANE_STAT_FRAME_LOCK h = false →
      exec (.pendingChangeNoFraming (.hostRx h)) s = .next (hostRxApply h s))
  ∧ (∀ (s : State) (h : HLane), s.hostTxFramed h = false →
      exec (.pendingChangeNoFraming (.hostTx h)) s = .next ((hostTxApply h s).releaseHost h false))
  ∧ (∀ (s t : State) (n : Line), s.txFramed n = false →
      txChanges n (cfgTake n (s.squelch n (s.tx n).sqFrame ((s.tx n).sqPll && !pllServes s n))) = t →
      (t.laneTrans n = false ∨ t.laneTarget n ≠ 4) → exec (.pendingChangeNoFraming (.tx n)) s = .next t)
  ∧ (∀ (s t : State) (n : Line), s.txFramed n = false →
      txChanges n (cfgTake n (s.squelch n (s.tx n).sqFrame ((s.tx n).sqPll && !pllServes s n))) = t →
      t.laneTrans n → t.laneTarget n = 4 → 2 ≤ t.laneState n → t.laneState n ≤ 3 →
      exec (.pendingChangeNoFraming (.tx n)) s = .next (t.probeEnter n))

/-! ## The optical front end -/

/-- The optical front end's commands: LANE_SET_STATE sets its lanes out for their target unless the lanes refuse it,
and LANE_PROBE starts a probe, which ends towards its return state. Channels and supplies: a slew tick moves the
output, a heater period takes ILIM into use, the token goes to the next waiting step, and a ramp gives it back after
its segment; a lock-in period correlates and closes the loop; the transmit PLL's lock and readiness advance its lanes;
and a safety fault that the conversions do not contradict cuts the lanes that emit under it. -/
def Obligations.OpticalLanesComplete : Prop :=
  (∀ (s : State) (m : MBox) (c : Cmd), s.fronts m 0x21 c → c.bits 2 18 16 ≤ 3 →
      laneRefusal s (maskLanes 9 (c.bits 2 8 0)) (c.bits 2 18 16) false = none → maskLanes 9 (c.bits 2 8 0) ≠ [] →
      exec (.laneSetState m) s = .next (laneStatesSet c (maskLanes 9 (c.bits 2 8 0)) (c.bits 2 18 16) s))
  ∧ (∀ (s t : State) (m : MBox) (c : Cmd), s.fronts m 0x22 c → c.bits 2 3 0 ≤ 8 →
      s.probeStart (c.bits 2 3 0) (c.bits 2 5 4) (c.bits 2 11 8) (c.bits 2 13 12) (c.bits 2 31 16) = (none, t) →
      exec (.laneProbe m) s = .next ((t.await c (.probe (c.bits 2 3 0))).laneAdvance 5 (c.bits 2 3 0)))
  ∧ (∀ (s : State) (n : Line) (p : Probe), (s.olc n).probe = some p → s.laneState n = 4 → p.held = false →
      exec (.probeDurationEnd n) s = .next
        (let s := ((s.probeExit n).put F.OLC_STAT_TRANS 1 n).put F.OLC_STAT_TARGET p.ret n
         (s.put F.OLC_STAT_DEFER (if p.ret = 3 then 1 else 0) n).laneAdvance 5 n))
  ∧ (∀ (s : State) (n : Line), exec (.txDisableSet n) s = .next (s.txDisable n))
  ∧ (∀ (s : State) (n : Line), exec (.txDisableClear n) s = .next (s.txEnable n))
  ∧ (∀ (s : State) (c : Fin 45), exec (.slewTick c) s = .next (slewEnd c ((turnOnStart c s).turningOn c)
      (slewMove c (turnOnStart c s))))
  ∧ (∀ (s : State) (n : Line) (j : Fin 2), exec (.heaterPwmPeriod n j) s
      = .next (s.modChan (5 * n + 3 + j) fun t => { t with ilim := min 60 (s.get F.OLC_CODE_ILIM n (3 + j)) }))
  ∧ (∀ s : State, exec .tokenAcquired s = .next s.takeStep)
  ∧ (∀ (s : State) (n : Line), s.grant.running = some (.ramp n) →
      exec (.tokenSegmentEnd n) s = .next ((s.stepEnd (.ramp n)).wantStep (.ramp n)))
  ∧ (∀ (s : State) (n : Line) (m : List (BitVec 12)), lockinRuns n s →
      exec (.lockinPeriodEnd n m) s = .next (lockinClose n (lockinCorrelate n m s)))
  ∧ (∀ (s : State) (p : Fin 5) (h : Nat), (s.pll p).state = 3 → (s.pll p).rxRef = false →
      (if (s.pll p).relock then s.pllAgain p else s.pllPick p) = some h →
      exec (.txPllLocked p) s = .next (pllAdvance p (s.modPll p fun t =>
        { t with state := 4, ref := h, ready := t.ready || t.relock, relock := false, long := false })))
  ∧ (∀ (s : State) (p : Fin 5), (s.pll p).state = 3 → (s.pll p).rxRef = true →
      exec (.txPllLocked p) s = .next (pllAdvance p (s.modPll p fun t =>
        { t with state := 4, ref := (s.pll p).ref, ready := t.ready || t.relock, relock := false, long := false })))
  ∧ (∀ (s : State) (p : Fin 5), (s.pll p).state = 4 → (s.pll p).ready = false →
      exec (.txPllReady p) s = .next (pllAdvance p (s.modPll p fun t => { t with ready := true })))
  ∧ (∀ (s : State) (b : Fin 6) (n : Line), b.val ≤ 1 → s.faultShows b n → exec (.safetyFault b n) s
      = .next (faultLane b n s))
  ∧ (∀ (s : State) (b : Fin 6) (n : Line), 1 < b.val → b ≠ 5 → s.faultShows b n → exec (.safetyFault b n) s
      = .next (((List.range 9).filter s.emits).foldl (fun s k => faultLane b k s) s))
  ∧ (∀ (s : State) (b : Fin 6) (n : Line), b = 5 → exec (.safetyFault b n) s
      = .next (lockstepFault (((List.range 9).filter s.emits).foldl (fun s k => faultLane b k s) s)))
  ∧ (∀ s : State, lockstepFault s =
      (let t := s.put F.TOP_BOOT_STAT_BOOT (s.get F.TOP_BOOT_STAT_BOOT ||| 64)
       if t.cmis.mod = .noAnswer then t.modCmis fun c => { c with faultCause := 0xF0 } else modFault 0xF0 t))

/-! ## Protection -/

/-- LANE_PROTECT: arm, disarm, switch and revert start, each from the state that allows it, and their command waits; a
disarm with nothing armed and L8 OFF is done at once, and arming fails after ten AM periods. The selection: the agreed
switch and return act, an emergency switch selects L8 at its boundary once the protected lane has lost signal or lock
while armed, and a failure of L8 while it is selected returns the selection. -/
def Obligations.ProtectionCompletes : Prop :=
  (∀ (s : State) (m : MBox) (c : Cmd), s.fronts m 0x24 c → c.bits 2 3 0 = 1 →
      (c.bits 2 31 24 = 0 ∨ 15 < c.bits 2 31 24) → s.l8Present → (s.protState = 0 ∨ s.protState = 4) →
      s.lanes.prot.disarming = false → laneRefusal (shadowSet (c.bits 2 10 8) s) [8] 3 true = none →
      exec (.laneProtectArm m) s = .next (protArm c (c.bits 2 10 8) s))
  ∧ (∀ (s : State) (m : MBox) (c : Cmd), s.fronts m 0x24 c → c.bits 2 3 0 = 0 →
      (c.bits 2 31 24 = 0 ∨ 15 < c.bits 2 31 24) → s.l8Present → s.protState ≠ 3 →
      (s.protState ≠ 0 ∨ s.laneState 8 ≠ 0) → exec (.laneProtectDisarm m) s = .next (protDisarm c s))
  ∧ (∀ (s : State) (m : MBox) (c : Cmd), s.fronts m 0x24 c → c.bits 2 3 0 = 0 →
      (c.bits 2 31 24 = 0 ∨ 15 < c.bits 2 31 24) → s.l8Present → s.protState = 0 → s.laneState 8 = 0 →
      exec (.laneProtectDisarm m) s = .next (s.finish c .done))
  ∧ (∀ (s : State) (m : MBox) (c : Cmd), s.fronts m 0x24 c → c.bits 2 3 0 = 2 →
      (c.bits 2 31 24 = 0 ∨ 15 < c.bits 2 31 24) → s.l8Present → s.protState = 2 →
      s.lanes.prot.lane = c.bits 2 10 8 → s.agreeOpen = false → s.get F.LYD_AGREE_STAT_STAGE ≠ 4 →
      exec (.laneProtectSwitch m) s = .next ((s.await c (.protect 2)).propose false 1 c.lead))
  ∧ (∀ (s : State) (m : MBox) (c : Cmd), s.fronts m 0x24 c → c.bits 2 3 0 = 3 →
      (c.bits 2 31 24 = 0 ∨ 15 < c.bits 2 31 24) → s.l8Present → s.protState = 3 →
      s.lanes.prot.lane = c.bits 2 10 8 → s.agreeOpen = false → s.get F.LYD_AGREE_STAT_STAGE ≠ 4 →
      exec (.laneProtectRevert m) s = .next ((s.await c (.protect 3)).propose true 1 c.lead))
  ∧ (∀ s : State, s.protState = 1 → exec .protectArmTimeout s
      = .next (s.armFail (if s.lanes.prot.confirmed ∧ s.lanes.prot.measured ∧ ¬s.skewOk then 6 else 5)))
  ∧ (∀ s : State, exec .protectionSwitch s = .next (s.agreeAct false))
  ∧ (∀ s : State, exec .protectionRevert s = .next (s.agreeAct true))
  ∧ (∀ s : State, s.protState = 2 → s.lanes.prot.emergency = true → s.rxFramed 8 →
      exec .emergencySwitch s = .next
        (let s := (((s.abandon 7 true).protSelect true).put F.LRX_PROT_STAT_CAUSE 4).put F.LRX_PROT_STAT_ASYM 1
         s.notify false (s.get F.LRX_AM_SEQ_SEQ 8)))
  ∧ (∀ s : State, s.protState = 3 → s.lanes.prot.returning = false → s.l8Failed →
      exec .l8FailRevert s = .next (l8FailNoted s.lanes.prot.lane s))
  ∧ (∀ s : State, s.lanes.prot.returning = true → s.rxFramed s.lanes.prot.lane →
      exec .l8FailSelectionReturn s = .next s.l8Return)

/-- The agreement over the Lanyard: the initiator repeats PROPOSE, gives up at its deadline, and confirms an ACCEPT,
too late a one with an abandonment; the responder accepts a fitting PROPOSE, a repeated one with the same ACCEPT, or
answers why not, and confirms on CONFIRM; the final point hands the switch over or abandons; ABANDON ends the
agreement that it names, to an initiator past its final point as an asymmetry, and NOTIFY is an event. -/
def Obligations.AgreementCompletes : Prop :=
  (∀ s : State, s.get F.LYD_AGREE_STAT_ROLE = 1 → s.get F.LYD_AGREE_STAT_STAGE = 1 → s.fw.running = true →
      exec .proposeRepeat s = .next (s.sendProtect 1 (s.get F.LYD_AGREE_SEQ_K_I) 0))
  ∧ (∀ s : State, s.get F.LYD_AGREE_STAT_ROLE = 1 → s.get F.LYD_AGREE_STAT_STAGE = 1 →
      s.get F.LTX_AM_SEQ_SEQ s.lanes.prot.lane = (s.get F.LYD_AGREE_SEQ_K_I + 4094) % 4096 →
      exec .proposeDeadline s = .next (s.abandon 5 true))
  ∧ (∀ s : State, s.agreeOpen → s.get F.LYD_AGREE_STAT_STAGE = 3 →
      s.get F.LRX_AM_SEQ_SEQ s.lanes.prot.lane = (s.agreeK + 4095) % 4096 →
      exec .protectFinalPoint s = .next (s.put F.LYD_AGREE_STAT_STAGE 4))
  ∧ (∀ s : State, s.agreeOpen → s.get F.LYD_AGREE_STAT_STAGE = 2 →
      s.get F.LRX_AM_SEQ_SEQ s.lanes.prot.lane = (s.agreeK + 4095) % 4096 →
      exec .protectFinalPoint s = .next (s.abandon 5 true))
  ∧ (∀ (s : State) (n : Line) (b : List Byte), s.delivers n → (s.frameIn n).get F.LYD_AGREE_STAT_ROLE = 2 →
      2 ≤ (s.frameIn n).get F.LYD_AGREE_STAT_STAGE → (s.frameIn n).get F.LYD_AGREE_STAT_STAGE ≤ 4 →
      (s.frameIn n).get F.LYD_AGREE_STAT_AGREE_ID = cbyte b 1 →
      exec (.protectProposeRx n b) s
        = .next ((s.frameIn n).sendProtect 2 ((s.frameIn n).get F.LYD_AGREE_SEQ_K_R) 0))
  ∧ (∀ (s : State) (n : Line) (b : List Byte), s.delivers n → (s.frameIn n).agreeOpen →
      (s.frameIn n).get F.LYD_AGREE_STAT_ROLE = 1 → s.fw.serial < (s.frameIn n).partnerSerial n →
      (s.frameIn n).fw.serial = s.fw.serial → exec (.protectProposeRx n b) s = .next (s.frameIn n))
  ∧ (∀ (s : State) (n : Line) (b : List Byte), s.delivers n → (s.frameIn n).agreeOpen = false →
      (s.frameIn n).get F.LYD_AGREE_STAT_ROLE ≠ 2 → proposeRefusal n b (s.frameIn n) = none →
      exec (.protectProposeRx n b) s = .next (proposeAccept n b false (s.frameIn n)))
  ∧ (∀ (s : State) (n : Line) (b : List Byte) (r : Nat), s.delivers n → (s.frameIn n).agreeOpen = false →
      (s.frameIn n).get F.LYD_AGREE_STAT_ROLE ≠ 2 → proposeRefusal n b (s.frameIn n) = some r →
      exec (.protectProposeRx n b) s = .next ((s.frameIn n).refusePropose n b r))
  ∧ (∀ (s : State) (n : Line) (b : List Byte), s.delivers n → (s.frameIn n).get F.LYD_AGREE_STAT_ROLE = 1 →
      (s.frameIn n).get F.LYD_AGREE_STAT_AGREE_ID = cbyte b 1 → (s.frameIn n).get F.LYD_AGREE_STAT_STAGE = 3 →
      exec (.protectAcceptRx n b) s = .next
        (let s := ((s.frameIn n).put F.LYD_AGREE_SEQ_K_R (cval b 4 2 % 4096)).put F.LYD_AGREE_STAT_STAGE 3
         s.sendProtect 3 (s.get F.LYD_AGREE_SEQ_K_I) 0))
  ∧ (∀ (s : State) (n : Line) (b : List Byte) (left : Nat), s.delivers n → (s.frameIn n).get F.LYD_AGREE_STAT_ROLE = 1 →
      (s.frameIn n).get F.LYD_AGREE_STAT_AGREE_ID = cbyte b 1 → (s.frameIn n).get F.LYD_AGREE_STAT_STAGE = 1 →
      left = (cval b 4 2 % 4096 + 4096 - 1 - (s.frameIn n).get F.LRX_AM_SEQ_SEQ (s.frameIn n).lanes.prot.lane) % 4096 →
      left ≠ 0 → left ≤ 2047 →
      exec (.protectAcceptRx n b) s = .next
        (let s := ((s.frameIn n).put F.LYD_AGREE_SEQ_K_R (cval b 4 2 % 4096)).put F.LYD_AGREE_STAT_STAGE 3
         s.sendProtect 3 (s.get F.LYD_AGREE_SEQ_K_I) 0))
  ∧ (∀ (s : State) (n : Line) (b : List Byte) (left : Nat), s.delivers n → (s.frameIn n).get F.LYD_AGREE_STAT_ROLE = 1 →
      (s.frameIn n).get F.LYD_AGREE_STAT_AGREE_ID = cbyte b 1 → (s.frameIn n).get F.LYD_AGREE_STAT_STAGE = 1 →
      left = (cval b 4 2 % 4096 + 4096 - 1 - (s.frameIn n).get F.LRX_AM_SEQ_SEQ (s.frameIn n).lanes.prot.lane) % 4096 →
      (left = 0 ∨ 2047 < left) →
      exec (.protectAcceptRx n b) s = .next ((s.frameIn n).abandon 3 true))
  ∧ (∀ (s : State) (n : Line) (b : List Byte), s.delivers n → (s.frameIn n).get F.LYD_AGREE_STAT_ROLE = 2 →
      (s.frameIn n).get F.LYD_AGREE_STAT_STAGE = 2 → (s.frameIn n).get F.LYD_AGREE_STAT_AGREE_ID = cbyte b 1 →
      (s.frameIn n).get F.LYD_AGREE_SEQ_K_I = cval b 4 2 % 4096 →
      exec (.protectConfirmRx n b) s = .next ((s.frameIn n).put F.LYD_AGREE_STAT_STAGE 3))
  ∧ (∀ (s : State) (n : Line) (b : List Byte), s.delivers n → (s.frameIn n).get F.LYD_AGREE_STAT_AGREE_ID = cbyte b 1 →
      ((s.frameIn n).get F.LYD_AGREE_STAT_ROLE ≠ 1 ∨ ((s.frameIn n).get F.LYD_AGREE_STAT_STAGE ≠ 4
        ∧ (s.frameIn n).get F.LYD_AGREE_STAT_STAGE ≠ 6)) →
      exec (.protectAbandonRx n b) s = .next ((s.frameIn n).abandon (cbyte b 6) false))
  ∧ (∀ (s : State) (n : Line) (b : List Byte), s.delivers n → (s.frameIn n).get F.LYD_AGREE_STAT_AGREE_ID = cbyte b 1 →
      (s.frameIn n).get F.LYD_AGREE_STAT_ROLE = 1 → ((s.frameIn n).get F.LYD_AGREE_STAT_STAGE = 4
        ∨ (s.frameIn n).get F.LYD_AGREE_STAT_STAGE = 6) →
      exec (.protectAbandonRx n b) s
        = .next (((s.frameIn n).put F.LRX_PROT_STAT_ASYM 1).put F.LYD_AGREE_STAT_REASON (cbyte b 6)))
  ∧ (∀ (s : State) (n : Line) (b : List Byte), s.delivers n → exec (.protectNotifyRx n b) s = .next
      (let t := s.frameIn n
       t.postBare 0x78 (((List.range 8).find? fun k => t.partnerOf k && t.get F.LYD_PTR_INFO_FAR_LANE k = cbyte b 3
         && t.partnerSerial k = t.partnerSerial n).getD t.lanes.prot.lane)))

/-! ## Capstan -/

/-- Capstan decodes: a first pass enters the store, an iteration goes on from its context, an empty context loads the
next candidate, a finished codeword goes to the write-back queue while it holds fewer than 32, and at a slice boundary
the slice's slots, policy, engines and schedule are settled and the waiting commands answered. Release, protection by
waste, and policy: a codeword at its release position leaves once its time has come, a lane switched to L8 releases
L8's, a window of the protected lane shows its waste and fires the trigger it was armed for, and CAPSTAN_SET_POLICY
changes its fields and waits for the boundary. -/
def Obligations.CapstanCompletes : Prop :=
  (∀ (s : State) (n : Line) (b : Bool) (pos : Nat) (dt : Fin 64) (codes : List (BitVec 8)) (off : Nat) (tie : Word),
      fpTakes n b pos s → exec (.firstPassDecode n b pos dt ⟨codes, off⟩ tie) s = .next
        (let z := fpWindow n codes off s
         let counted := s.flag F.LRX_FRAME_STAT_SLOT_LOCK n
         let (d, s) := detOf s n b counted []
         let (llr, s) := softValues d z s
         fpEnter n b pos dt z llr (chase tie llr) counted s))
  ∧ (∀ s : State, s.coreOn → exec .sliceBoundary s = .next (sliceAnswer (sliceTurn s)))
  ∧ (∀ (s : State) (e : Fin 6) (k : Fin 16) (dt : Fin 64) (tie : Word) (w : CapCw) (since t : Int),
      s.coreOn → t = s.cap.now + Int.ofNat dt.val → inFlight s e k dt = some (w, since) → w.released = false →
      w.converged = false → since ≤ t - 8 → (8 ≤ dt.val → w.finished s.cap.maxIter (t - 8) = false) →
      10 ≤ w.deadline - (t - 8) → exec (.capstanIterationResult e k dt tie) s
        = .next (iterateCw (if dt.val < 8 then w else { w with since := t }) tie (s.modCap fun c =>
            { c with flight := c.flight.filter fun f => !(f.engine = e.val && f.slot = k.val && dt.val < 8) })))
  ∧ (∀ (s : State) (e : Fin 6) (k : Fin 16) (dt : Fin 64) (t : Int), t = s.cap.now + Int.ofNat dt.val →
      inContext (capSettle t s) e k = none → (capSettle t s).coreOn →
      exec (.writebackEntry e k dt) s = .next (contextEmpty e k t (capSettle t s)))
  ∧ (∀ (s : State) (e : Fin 6) (k : Fin 16) (dt : Fin 64) (w : CapCw) (t : Int), t = s.cap.now + Int.ofNat dt.val →
      inContext (capSettle t s) e k = some w → (capSettle t s).coreOn → w.finished (capSettle t s).cap.maxIter t →
      ((capSettle t s).cap.cws.filter fun v => v.place = some .writeback).length < 32 →
      exec (.writebackEntry e k dt) s = .next
        (let v := { w with place := some .writeback, ready := some (t + 2) }
         takeNext e k t (ringWrite v (!v.released) (capSet v (capSettle t s)))))
  ∧ (∀ (s : State) (e : Fin 6) (k : Fin 16) (dt : Fin 64) (w : CapCw) (t : Int), t = s.cap.now + Int.ofNat dt.val →
      inContext (capSettle t s) e k = some w → (capSettle t s).coreOn → w.finished (capSettle t s).cap.maxIter t →
      32 ≤ ((capSettle t s).cap.cws.filter fun v => v.place = some .writeback).length →
      exec (.writebackEntry e k dt) s
        = .next (capSlots 3 1 ((capSettle t s).modCap fun c => { c with stuck := c.stuck + 1 })))
  ∧ (∀ (s : State) (n : Line) (b : Bool) (dt : Fin 64) (pos : Nat) (w : CapCw) (t : Int), s.coreOn →
      (n.val ≠ 8 ∨ selSwitched s = false) → t = s.cap.now + Int.ofNat dt.val → relPos (capSettle t s) n b = some pos → relSwitched (capSettle t s) n = false →
      cwWaits (capSettle t s) n b pos = some w →
      relTime (capSettle t s) n (relPrev (capSettle t s) n b t) w ≤ t →
      exec (.codewordRelease n b dt) s
        = .next (releaseCw n w (relTime (capSettle t s) n (relPrev (capSettle t s) n b t) w) (capSettle t s)))
  ∧ (∀ (s : State) (n : Line) (b : Bool) (dt : Fin 64) (pos : Nat) (t : Int), s.coreOn →
      (n.val ≠ 8 ∨ selSwitched s = false) → t = s.cap.now + Int.ofNat dt.val → relPos (capSettle t s) n b = some pos → relSwitched (capSettle t s) n →
      exec (.codewordRelease n b dt) s = .next (releaseL8 n b pos t (capSettle t s)))
  ∧ (∀ s : State, (s.protState = 2 ∨ s.protState = 3) → s.lanes.prot.windowLeft = 0 →
      (wasteBeyond s = false ∨ s.lanes.prot.ratioReady = false ∨ s.lanes.prot.onRatio = false) →
      exec .wasteWindowEnd s = .next (wasteWindow s))
  ∧ (∀ s : State, (s.protState = 2 ∨ s.protState = 3) → s.lanes.prot.windowLeft = 0 → wasteBeyond s → s.lanes.prot.ratioReady = true →
      s.lanes.prot.onRatio = true → exec .wasteWindowEnd s = .next ((wasteWindow s).fire F.CAP_PROT_STAT_FIRED_WST 3))
  ∧ (∀ (s : State) (m : MBox) (c : Cmd), s.fronts m 0x27 c → c.capBad = false →
      (c.on 4 9 = false ∨ deadlineHeld s = false) → s.coreOn →
      exec (.capstanSetPolicy m) s = .next (capPolicySet c s))

/-! ## The Lanyard -/

/-- The Lanyard's physical layer and framing: a block is decoded, measured and judged, the chain settles with its 40th
output, a header moves the synchroniser, the end of a frame starts the next one, and the periods queue HELLO,
TELEMETRY and TIME. The Lanyard's commands: LANYARD_CONFIG writes its settings, LANYARD_SEND queues its fragments and
waits, or times out after a second, LANYARD_PARTNER reads, greets or forgets a partner, and the TXADJ policy is
written for its lanes. -/
def Obligations.LanyardLinkAndCommandsComplete : Prop :=
  (∀ (s t : State) (n : Line) (data : RxData) (soft : List (BitVec 4)) (slip : Bool) (snr : BitVec 8) (fofs : BitVec 16),
      rxData n data s = t → t.flag F.LYD_CTRL_RX_EN n → t.flag F.LYD_PHY_STAT_SETTLED n →
      t.flag F.LRX_LOS_STAT_LOS n = false → exec (.lanyardBlock n data ⟨soft, slip⟩ snr fofs) s
        = .next (lydJudge n (lydMeasured n snr fofs (lydDecode n soft slip t))))
  ∧ (∀ (s : State) (n : Line) (data : RxData), s.powered (.lrx n) → exec (.lanyardChainSettled ⟨n, data⟩) s
      = .next (data.foldl (fun s x => rxSample n x s) (s.modChain n fun c => { c with out := [] })))
  ∧ (∀ (s t : State) (n : Line) (x y : Int), dcBlock n x s = (y, t) → 39 ≤ (t.lydOf n).chain.count →
      chainDeliver n x s = (t.modChain n fun c => { c with out := c.out ++ [y], count := min 40 (c.count + 1) }).put
        F.LYD_PHY_STAT_SETTLED 1 n)
  ∧ (∀ (s t : State) (n : Line) (hdr body fcs : List Byte), s.flag F.LYD_PHY_STAT_PHY_LOCK n →
      t = lydBody n body (beVal fcs = crc32 body) s → hdrGood hdr →
      exec (.lanyardHeaderFound n hdr body fcs) s
        = .next (lydSync n (if t.get F.LYD_PHY_STAT_SYNC_ST n = 0 then 1 else 2) t))
  ∧ (∀ (s t : State) (n : Line) (hdr body fcs : List Byte), s.flag F.LYD_PHY_STAT_PHY_LOCK n →
      t = lydBody n body (beVal fcs = crc32 body) s → hdrGood hdr = false → 2 ≤ t.get F.LYD_PHY_STAT_SYNC_ST n →
      exec (.lanyardHeaderFound n hdr body fcs) s
        = .next (if 2 ≤ (t.lydOf n).badHeaders then (lydSync n 0 t).agreeLinkLost n
            else t.modLyd n fun l => { l with badHeaders := l.badHeaders + 1 }))
  ∧ (∀ (s : State) (n : Line) (pilot : BitVec 48), s.flag F.LYD_CTRL_TX_EN n →
      exec (.lanyardFrameEnd n pilot) s = .next (lydStart n pilot (lydSent n s)))
  ∧ (∀ (s : State) (n : Line), s.fw.running = true → s.lydTxOn n →
      exec (.helloPeriod n) s = .next (s.lydQueue n 1 (helloContent s n)))
  ∧ (∀ (s : State) (n : Line), s.fw.running = true → s.lydTxOn n → s.get F.LYD_PER_TEL_PER ≠ 0 →
      exec (.telemetryPeriod n none) s = .next (telemetryQueue n s))
  ∧ (∀ (s : State) (n : Line) (r : List Byte), s.fw.running = true → s.lydTxOn n → s.get F.LYD_PER_TEL_PER ≠ 0 →
      exec (.telemetryPeriod n (some r)) s = .next (txadjSend n r (telemetryQueue n s)))
  ∧ (∀ (s : State) (n : Line), s.fw.running = true → s.lydTxOn n → s.get F.LYD_PER_TIME_PER ≠ 0 →
      exec (.timePeriod n) s = .next (s.lydQueue n 4 (timeContent s n)))
  ∧ (∀ (s : State) (m : MBox) (c : Cmd), s.fronts m 0x70 c →
      (c.bits 3 13 13 = 1 → 4 ≤ c.bits 3 12 8 ∧ c.bits 3 12 8 ≤ 24) →
      (c.bits 3 3 3 = 1 → ∀ n ∈ maskLanes 9 (c.bits 2 8 0), s.laneOn n = true) →
      exec (.lanyardConfig m) s
        = .next ((lydPeriods c (eachOf (maskLanes 9 (c.bits 2 8 0)) (lydConfigure c) s)).finish c .done))
  ∧ (∀ (s : State) (m : MBox) (c : Cmd), s.fronts m 0x71 c → c.bits 2 3 0 ≤ 8 → c.extLen ≠ 0 → c.extLen ≤ 200 →
      s.partnerOf (c.bits 2 3 0) → s.get F.LYD_PTR_CAP_CAP (c.bits 2 3 0) / 128 % 2 ≠ 0 →
      (s.lydOf (c.bits 2 3 0)).userTx.length < 4 →
      exec (.lanyardSend m) s = .next ((userQueue c (c.bits 2 3 0) s).await c (.lanyardSend (c.bits 2 3 0))))
  ∧ (∀ (s : State) (n : Line) (u : Nat × Nat) (rest : List (Nat × Nat)) (c : Cmd), (s.lydOf n).userTx = u :: rest →
      (userDrop n u.1 rest s).cmdById u.2 = some c →
      exec (.lanyardSendTimeout n) s = .next ((userDrop n u.1 rest s).finish c .timedOut))
  ∧ (∀ (s : State) (m : MBox) (c : Cmd), s.fronts m 0x72 c → c.bits 2 3 0 ≤ 8 → c.bits 2 9 8 = 0 →
      exec (.lanyardPartnerRead m) s = .next (s.finish c .done (s.get F.LYD_PTR_INFO_PARTNER_ID (c.bits 2 3 0)
        + 16 * s.get F.LYD_PTR_INFO_VALID (c.bits 2 3 0) + 256 * s.get F.LYD_PART_CNT_COUNT)))
  ∧ (∀ (s : State) (m : MBox) (c : Cmd), s.fronts m 0x72 c → c.bits 2 3 0 ≤ 8 → c.bits 2 9 8 = 1 →
      exec (.lanyardPartnerHello m) s = .next
        (let n := c.bits 2 3 0
         let s := if s.lydTxOn n then s.lydQueue n 1 (helloContent s n) else s
         s.finish c .done (s.get F.LYD_PTR_INFO_PARTNER_ID n + 16 * s.get F.LYD_PTR_INFO_VALID n
           + 256 * s.get F.LYD_PART_CNT_COUNT)))
  ∧ (∀ (s : State) (m : MBox) (c : Cmd), s.fronts m 0x72 c → c.bits 2 3 0 ≤ 8 → c.bits 2 9 8 = 2 →
      exec (.lanyardPartnerForget m) s = .next
        (let n := c.bits 2 3 0
         let s := partnerForget n s
         s.finish c .done (s.get F.LYD_PTR_INFO_PARTNER_ID n + 16 * s.get F.LYD_PTR_INFO_VALID n
           + 256 * s.get F.LYD_PART_CNT_COUNT)))
  ∧ (∀ (s : State) (m : MBox) (c : Cmd), s.fronts m 0x73 c → exec (.lanyardTxadjPolicy m) s
      = .next ((eachOf (maskLanes 9 (c.bits 2 8 0)) (fun n s =>
          txadjCapture n (lydPolWrite n (c.word 3) s)) s).finish c .done))

/-- Frames that the Lanyard delivers: HELLO teaches the partner, TELEMETRY and a RESULT are kept, TIME gives a two-way
result where its stamps are valid, a REQUEST is repeated its result, refused, or taken, and a user fragment joins its
message, which is delivered when it is complete. -/
def Obligations.LanyardReceptionCompletes : Prop :=
  (∀ (s : State) (n : Line) (b : List Byte) (pilot : BitVec 48), s.delivers n → exec (.helloRx n b pilot) s = .next
      (let s := helloTaken n b pilot (s.frameIn n)
       (s.modProt fun p => { p with confirmed := s.farConfirms }).armCheck))
  ∧ (∀ (s : State) (n : Line), s.partnerOf n → exec (.helloPeriodMissed n) s
      = .next (if 8 ≤ s.get F.LYD_PTR_AGE_MISSED n + 1 then partnerForget n s
          else s.put F.LYD_PTR_AGE_MISSED (s.get F.LYD_PTR_AGE_MISSED n + 1) n))
  ∧ (∀ (s : State) (n : Line) (b : List Byte), s.delivers n →
      exec (.telemetryRx n b) s = .next ((s.frameIn n).modLyd n fun l => { l with telemetry := b }))
  ∧ (∀ (s : State) (n : Line) (b : List Byte), s.delivers n →
      exec (.txadjResultRx n b) s = .next ((s.frameIn n).modLyd n fun l => { l with txadjResult := b }))
  ∧ (∀ (s t : State) (n : Line) (flags : BitVec 8) (b : List Byte) (pilot : BitVec 48) (t4 : Stamp), s.delivers n →
      t = timeTaken n b pilot (s.frameIn n) → rxStampOf t n (cval b 2 2 % 4096) = some t4 → cbyte b 1 % 2 = 1 →
      cbyte b 1 / 2 % 2 = 1 → t.timeInvalid = false → flags.getLsbD 1 = false →
      exec (.timeRx n flags b pilot) s = .next
        (let back := t4.tod - stampVal (b.drop 8)
         let forth := stampVal (b.drop 34) - stampVal (b.drop 22)
         t.twoWayResult n (forth + back) (forth - back) (t.coarse || flags.getLsbD 0)))
  ∧ (∀ (s : State) (n : Line) (b : List Byte), s.delivers n → cbyte b 2 ≤ 8 → (s.frameIn n).partnerOf n →
      txadjKnown (cbyte b 2) (cbyte b 1) ((s.frameIn n).partnerSerial n) (s.frameIn n) = none →
      ((s.frameIn n).lydOf (cbyte b 2)).waiting ≠ some ((s.frameIn n).partnerSerial n, cbyte b 1) →
      txadjAllows (cbyte b 2) ((s.frameIn n).partnerSerial n) (s.frameIn n) →
      txadjHeld (cbyte b 2) ((s.frameIn n).partnerSerial n) b (s.frameIn n) = false →
      exec (.txadjRequestRx n b) s
        = .next (txadjTake (cbyte b 2) (cbyte b 1) ((s.frameIn n).partnerSerial n) b (s.frameIn n)))
  ∧ (∀ (s : State) (n : Line) (b : List Byte), s.delivers n → cbyte b 2 ≤ 8 → (s.frameIn n).partnerOf n →
      txadjKnown (cbyte b 2) (cbyte b 1) ((s.frameIn n).partnerSerial n) (s.frameIn n) = none →
      ((s.frameIn n).lydOf (cbyte b 2)).waiting ≠ some ((s.frameIn n).partnerSerial n, cbyte b 1) →
      txadjAllows (cbyte b 2) ((s.frameIn n).partnerSerial n) (s.frameIn n) = false →
      exec (.txadjRequestRx n b) s
        = .next (txadjResult (cbyte b 2) (cbyte b 1) ((s.frameIn n).partnerSerial n) .denied 0 (s.frameIn n)))
  ∧ (∀ (s : State) (n : Line) (b : List Byte), s.delivers n → cbyte b 1 / 16 < cbyte b 1 % 16 → cbyte b 1 % 16 ≤ 4 →
      exec (.userFragmentRx n b) s = .next
        (let s := s.frameIn n
         let msg := userMsg n b s
         let rest := (s.lydOf n).userRx.filter fun u => !(u.id = msg.id)
         if msg.complete then userDeliver n msg.id msg.content (s.modLyd n fun l => { l with userRx := rest })
         else s.modLyd n fun l => { l with userRx := rest ++ [msg] }))
  ∧ (∀ (s : State) (n : Line) (id : BitVec 8), (∃ u ∈ (s.lydOf n).userRx, u.id = id.toNat) →
      exec (.userReassemblyTimeout n id) s = .next ((s.modLyd n fun l =>
        { l with userRx := l.userRx.filter fun u => !(u.id = id.toNat) }).addSat F.LYD_USER_STAT_LOST 1))

/-! ## Firmware and trust -/

/-- Boot and restarts: the reset's release lets Cleat boot, Rigger is released with an image that passes or not at
all, a restart aborts the outstanding commands and resets the SYS domain, causes of a restart begin one, and its image
is loaded, replaced or missing. Firmware commands: FW_STATUS and ATTEST stage their reports, FW_RESTART begins a
restart of the running or the other slot and waits, and the debug unlock takes a response that a key of its level has
signed, counts a bad one, and boundary scan cuts every lane. -/
def Obligations.BootAndFirmwareComplete : Prop :=
  (∀ (s : State) (scl sda : Bool) (t : SelfTest), s.pwr.held = true → s.pwr.vin = true →
      exec (.porRelease scl sda t) s = .next (cleatLast (cleatTest t (cleatFirst scl sda s))))
  ∧ (∀ (s t : State), s.pwr.held = false → s.fw.released = false → s.flag F.TOP_BOOT_STAT_HELD = false →
      s.bst.noRigger = false → t = s.noteFail (slotFail s s.fw.committed) → exec .riggerRelease s
        = .next (if slotFail s s.fw.committed = none then (startSlot s.fw.committed s).bootBit 0 true
          else if slotFail t (!s.fw.committed) = none then
            ((startSlot (!s.fw.committed) t).bootBit 0 true).bootBit 2 true
          else (t.noteFail (slotFail t (!s.fw.committed))).bootBit 7 true))
  ∧ (∀ (s : State) (r : Restart), s.fw.restart = some r →
      exec .riggerRestart s = .next ((restartAborts r s).resetRegs fun d _ => d.dom = .sys))
  ∧ (∀ (s : State) (k : Fin 4), exec (.riggerCoreHalt k) s = .next (riggerCause 5 s.fw.slotB false none s))
  ∧ (∀ s : State, s.fw.wdog = true → s.flag F.TOP_WDOG_CFG_EN → exec .watchdogExpiry s
      = .next (riggerCause 3 s.fw.slotB false none s))
  ∧ (∀ (s t : State) (r : Restart) (other : Bool), s.fw.restart = some r → r.loaded = false →
      other = (if r.slotB = r.prev then !r.prev else r.prev) →
      t = ((s.noteFail (slotFail s r.slotB)).modFw fun f => { f with stagedRuns := f.stagedRuns && !r.run }) →
      exec .riggerImageLoaded s = .next (if slotFail s r.slotB = none then restartLoad r r.slotB r.back s
        else if r.cause ≠ 6 ∧ s.flag F.TOP_BOOT_STAT_HELD = false ∧ slotFail t other = none then
          (restartLoad r other true t).bootBit 2 (t.get F.TOP_BOOT_STAT_BOOT / 4 % 2 = 1 || other ≠ r.prev)
        else restartHolds r t))
  ∧ (∀ (s : State) (m : MBox) (c : Cmd), s.fronts m 0xA0 c →
      exec (.fwStatus m) s = .next (s.finishStaged c (fwStatusBytes s)))
  ∧ (∀ (s : State) (m : MBox) (c : Cmd), s.fronts m 0xA1 c → c.bits 2 0 0 = 0 → s.fw.write = none →
      exec (.fwRestartRunning m) s = .next (riggerCause 1 s.fw.slotB false (some c.id) (s.await c .fwRestart)))
  ∧ (∀ (s : State) (m : MBox) (c : Cmd), s.fronts m 0xA1 c → c.bits 2 0 0 = 1 → s.fw.write = none →
      exec (.fwRestartOther m) s = .next (if (slotFail s (!s.fw.slotB)).isSome then s.finish c .conflict
          else riggerCause 1 (!s.fw.slotB) false (some c.id) (s.await c .fwRestart)))
  ∧ (∀ (s : State) (m : MBox) (c : Cmd), s.fronts m 0xA2 c → c.bits 10 0 0 = 0 → exec (.attestReport m) s = .next
      (({ s with fresh := s.fresh + 1 } : State).finishStaged c
        (attestBytes c s ++ beBytes 96 (Config.ecdsaSign s.fresh (Config.sha384 (attestBytes c s))).toNat)))
  ∧ (∀ (s : State) (m : MBox) (c : Cmd), s.fronts m 0xA2 c → c.bits 10 0 0 = 1 →
      exec (.attestCertificate m) s = .next (s.finishStaged c (s.fw.cert.take 1024)))
  ∧ (∀ (s : State) (factory : Bool) (key sig : List Byte), s.mbx.policyBits.getLsbD 5 = true →
      s.fw.otp.dbgPermanent = false → s.fw.debugFails < 3 → exec (.debugUnlockResponse factory key sig) s = .next
        (let t : State := { s with fresh := s.fresh + 1 }
         if s.unlocks factory key sig then (t.modFw fun f => { f with debug := if factory then .factory else .debug }).put
           F.TOP_BOOT_STAT_DBG_UNLOCKED 1
         else t.modFw fun f => { f with debugFails := f.debugFails + 1 }))
  ∧ (∀ s : State, s.scanOpen → exec .boundaryScanEntry s
      = .next ((eachBelow 9 (fun n s => s.cut n 1 .denied) s).modFw fun f => { f with boundaryScan := true }))

/-- CDB firmware management: a download is opened, aborted, filled by blocks, and completed into a background write of
the flash whose end is noted; Run and Commit act on the last complete image, and queries and unknown commands are
answered. -/
def Obligations.CdbFirmwareCompletes : Prop :=
  (∀ (s : State) (len : Nat) (h : List Byte), s.cdbTakes → s.fw.write = none → h.length ≤ 112 →
      len ≤ areaSize (h.getD 6 0).toNat →
      exec (.cdbStartDownload len h) s = .next ((downloadOpen len s).cdbDone .success))
  ∧ (∀ s : State, s.cdbTakes →
      exec .cdbAbortDownload s = .next ((s.modFw fun f => { f with download := none }).cdbDone .success))
  ∧ (∀ (s : State) (a : Nat) (d : List Byte), exec (.cdbWriteBlockLpl a d) s = .next (cdbBlock 116 a d s))
  ∧ (∀ (s : State) (a : Nat) (d : List Byte), exec (.cdbWriteBlockEpl a d) s = .next (cdbBlock 2048 a d s))
  ∧ (∀ (s : State) (d : Download), s.cdbTakes → s.fw.download = some d → exec .cdbCompleteDownload s
      = .next (match imageFail s s.stagedImage s.stagedImage.type (s.slotMajor (s.fw.completed.getD s.fw.slotB)) with
        | some c => ((s.noteFail (some c)).modFw fun f => { f with download := none }).cdbDone .failed c
        | none => (s.modFw fun f => { f with
            download := none,
            write := some { type := s.stagedImage.type, slotB := !f.slotB, len := s.stagedImage.length } }).modCmis fun c =>
              { c with cdb := { c.cdb with busy := some 0x0107, status := .inProgress } }))
  ∧ (∀ (s : State) (w : FlashWrite), s.fw.write = some w → s.hws.pushed ≠ 1 →
      exec (.flashWriteComplete true) s = .next ((flashNote w (flashStore w s)).cdbDone .success))
  ∧ (∀ (s : State) (w : FlashWrite), s.fw.write = some w → s.hws.pushed ≠ 1 →
      exec (.flashWriteComplete false) s = .next ((flashStore w s).cdbDone .failed))
  ∧ (∀ (s : State) (w : FlashWrite), s.fw.write = some w → s.hws.pushed = 1 →
      exec (.flashWriteComplete true) s
        = .next (runImage w.slotB ((flashNote w (flashStore w s)).modHws fun h => { h with pushed := 2 })))
  ∧ (∀ (s : State) (mode : Byte) (b : Bool), s.cdbTakes → mode.toNat ≤ 1 → s.fw.write = none → s.fw.completed = some b →
      exec (.cdbRunImage mode) s = .next (runImage b (s.modCmis fun c =>
        { c with cdb := { c.cdb with busy := some 0x0109, status := .inProgress } })))
  ∧ (∀ s t : State, s.cdbTakes → commitImage s = some t → exec .cdbCommitImage s = .next (t.cdbDone .success))
  ∧ (∀ s : State, exec .cdbQueryStatus s = .next (cdbQuery 0x0000 s)
      ∧ exec .cdbModuleFeatures s = .next (cdbQuery 0x0040 s) ∧ exec .cdbFwMgmtFeatures s = .next (cdbQuery 0x0041 s))
  ∧ (∀ s : State, s.cdbTakes → exec .cdbGetFwInfo s
      = .next (s.cdbDone .success 0 (s.versionAt (slotBase false) ++ s.versionAt (slotBase true))))
  ∧ (∀ s : State, s.cdbTakes → exec .cdbUnknownCommand s = .next (s.cdbDone .unknownCommand))

/-! ## Data paths, power and service -/

/-- The data paths: an accepted configuration replaces the paths of its lanes and takes their controls, an immediate
one takes controls only, DPDeinit and OutputDisableTx move the paths they name, and a path advances. -/
def Obligations.DataPathCommandsComplete : Prop :=
  (∀ (s : State) (b k : Fin 2) (mask : BitVec 8), s.cmisRuns → applyCheck s b k (laneMask mask) = .success →
      exec (.cmisApplyDpinit b k mask) s = .next
        (let t := pathsReplaced b k (laneMask mask) s
         pathsStart ((applySi b k ((laneMask mask).filter fun i => stagedApp t b k i ≠ 0) t).setConfig b (laneMask mask)
           .success)))
  ∧ (∀ (s : State) (b k : Fin 2) (mask : BitVec 8), s.cmisRuns → (∀ i ∈ laneMask mask, appKept b k i s = true) →
      (∀ i ∈ laneMask mask, siBad b k i s = false) → exec (.cmisApplyImmediate b k mask) s
        = .next ((applySi b k (laneMask mask) s).setConfig b (laneMask mask) .success))
  ∧ (∀ (s : State) (h : HLane) (i : Nat), s.cmisRuns → s.pathAt h = some i →
      exec (.datapathStateAdvance h) s = .next (pathAdvance i s))
  ∧ (∀ (s t : State) (b : Fin 2) (v : BitVec 8), t = s.setCmisByte b 0x10 128 v.toNat → t.cmisRuns →
      exec (.dpdeinitWrite b v) s = .next (eachBelow t.cmis.paths.length (deinitPath b v) t))
  ∧ (∀ (s t : State) (b : Fin 2) (v : BitVec 4), t = s.setCmisByte b 0x10 130 v.toNat → t.cmisRuns →
      exec (.outputDisableTxWrite b v) s = .next
        (let u := eachBelow 4 (disableLane b v) t
         eachBelow u.cmis.paths.length disablePath u))
  ∧ (∀ (s : State) (n : Line), exec (.deferredLiveTimeout n) s = .next
      (if s.laneTrans n ∧ (deferredLimit n s).laneTrans n = false then pathTimedOut n (deferredLimit n s)
        else deferredLimit n s))
  ∧ (∀ (s : State) (n : Line), exec (.tokenWaitTimeout n) s = .next
      (if s.laneTrans n ∧ (tokenLimit n s).laneTrans n = false then pathTimedOut n (tokenLimit n s)
        else tokenLimit n s))

/-- Module power: power-up and power-down complete, the core's clock is gated and restored, MgmtInit completes in low
power or in a fault, and SET_POWER_STATE and the accounting are answered. Clocks, supplies and blocks: the reference
is lost and restored, a block's enabling completes, power comes and goes, start-up goes on without the reference, and
the always-on watchdog resets. -/
def Obligations.PowerCompletes : Prop :=
  (∀ s : State, s.cmis.mod = .pwrUp → s.grant.running = some .vcore → exec .powerUpComplete s = .next
      (let t := (s.put F.PWR_STATE_STATE 3).put F.PWR_STATE_TRANS 0
       let t := if s.flag F.PWR_BLK_EN_CORE then coreUp t else t
       powerUpPaths (follow ((t.stepEnd .vcore).demand.modEnter .ready))))
  ∧ (∀ s : State, s.cmis.mod = .pwrDn → (∀ n, n < 9 → s.laneState n = 0 ∧ s.laneTrans n = false) →
      exec .powerDownComplete s
        = .next (follow ((keepEnter (eachBelow s.cmis.paths.length pathAdvance s)).modEnter .lowPwr)))
  ∧ (∀ s : State, s.active → s.assigned = false → s.flag F.PWR_CLK_STAT_CORE_LOCK →
      exec .coreIdleGate s = .next (coreDown s))
  ∧ (∀ s : State, s.grant.running = some .core → exec .coreUngateComplete s = .next ((coreUp s).stepEnd .core))
  ∧ (∀ s : State, s.pwr.held = false → s.cmis.mod = .noAnswer →
      (s.fw.running = true ∨ s.get F.TOP_BOOT_STAT_BOOT / 128 % 2 = 1 ∨ s.bst.noRigger = true) →
      exec .mgmtinitComplete s = .next
        (let t := s.setCmisByte 0 0 26 0x40
         if s.cmis.faultCause = 0xF0 then modFault 0xF0 t
         else if s.get F.TOP_BOOT_STAT_BOOT / 128 % 2 = 1 then modFault 3 t
         else if s.bst.safe then modFault 2 t else follow (t.modEnter .lowPwr)))
  ∧ (∀ (s : State) (m : MBox) (c : Cmd), s.fronts m 0x06 c → (c.on 2 4 → 10 ≤ c.bits 2 31 16) → c.bits 3 0 0 = 0 →
      exec (.setPowerState m) s = .next ((anchorSet c s).finish c .done))
  ∧ (∀ (s : State) (m : MBox) (c : Cmd), s.fronts m 0x06 c → (c.on 2 4 → 10 ≤ c.bits 2 31 16) → c.bits 3 0 0 = 1 →
      s.cmis.mod = .lowPwr → exec (.setPowerState m) s = .next (anchorAttempt ((anchorSet c s).finish c .done)))
  ∧ (∀ (s : State) (m : MBox) (c : Cmd), s.fronts m 0x07 c → exec (.getPowerAccounting m) s
      = .next (eachBelow 7 (fun k s => s.put F.PWR_ACCT_AUX 0 (k + 1)) (s.finishStaged c (acctBytes s))))
  ∧ (∀ (s : State) (mW mA : BitVec 16) (v : Vector (BitVec 16) 7), s.pwr.held = false →
      exec (.powerAccountingUpdate mW mA v) s = .next
        (v.toList.zipIdx.foldl (fun s p => acctBlock (p.2 + 1) p.1.toNat s)
          ((s.put F.PWR_ACCT_PRESENT mW.toNat 0).put F.PWR_ACCT_AUX mA.toNat 0)))
  ∧ (∀ (s t : State), s.pwr.held = false → s.flag F.PWR_CLK_STAT_AON_SRC = false →
      t = (s.put F.PWR_CLK_STAT_AON_SRC 1).put F.TIM_STAT_CLKSRC 1 →
      exec .memsReferenceLoss s
        = .next (if s.tim.running then follow (refLost t) else t.modTim fun t => { t with srcChanged := true }))
  ∧ (∀ (s t : State), s.pwr.held = false → s.flag F.PWR_CLK_STAT_AON_SRC →
      t = ((s.put F.PWR_CLK_STAT_AON_SRC 0).put F.TIM_STAT_CLKSRC 0).put F.PWR_STATE_REF_LOST 0 →
      exec .referenceRestored s
        = .next (if s.tim.running then follow t else t.modTim fun t => { t with srcChanged := true }))
  ∧ (∀ (s : State) (b : Fin 27), s.pwr.enable.contains b.val → exec (.blockEnableComplete b) s
      = .next (blkReset b (s.modPwr fun p => { p with enable := p.enable.filter fun x => !(x = b.val) })))
  ∧ (∀ s : State, s.pwr.vin = false → exec (.powerOn true) s
      = .next (((s.modPwr fun p => { p with vin := true, rcStart := false }).put F.PWR_RST_CAUSE_CAUSE 1).lifeAdd 2))
  ∧ (∀ s : State, s.pwr.vin = false → exec (.powerOn false) s
      = .next (s.modPwr fun p => { p with vin := true, rcStart := false }))
  ∧ (∀ s : State, s.pwr.held = true → s.pwr.vin = true →
      exec .memsSettleTimeout s = .next (s.modPwr fun p => { p with rcStart := true }))
  ∧ (∀ (s : State) (b : Bool), s.pwr.vin = true → exec (.brownOut b) s
      = .next ((s.deviceReset true 2).modPwr fun p => { p with vin := !b }))
  ∧ (∀ s : State, s.pwr.vin = true → exec .vinLoss s
      = .next ((s.deviceReset true 2).modPwr fun p => { p with vin := false }))
  ∧ (∀ s : State, exec .aonWatchdogExpiry s = .next (aonReset 5 s))

/-- ANCHOR and back: an attempt starts on the idle time-out, the second check lets the entry go on or refuses it, the
device reaches ANCHOR or is woken at once, wake events start a wake, which reaches KEEP and fills SRAM. -/
def Obligations.AnchorCommandsComplete : Prop :=
  (∀ s : State, s.flag F.PWR_ANCHOR_CFG_AUTO → exec .anchorIdleTimeout s = .next (anchorAttempt s))
  ∧ (∀ s : State, s.pwr.entry = .halting → refuser s = 0 → exec .anchorRiggerHalted s = .next (anchorDown s))
  ∧ (∀ s : State, s.pwr.entry = .halting → refuser s ≠ 0 →
      exec .anchorRiggerHalted s = .next (refused (refuser s) (entryEnd s)))
  ∧ (∀ (s : State) (cleat : Bool), s.pwr.entry = .window → levelWake cleat (anchorReached s) = none →
      exec (.anchorWindowClose cleat) s = .next (anchorReached s))
  ∧ (∀ (s : State) (cleat : Bool) (k : Nat), s.pwr.entry = .window → levelWake cleat (anchorReached s) = some k →
      exec (.anchorWindowClose cleat) s
        = .next (wakeStart k (((anchorReached s).addSat F.PWR_REFUSE_CNT_ABORTED 1).put F.PWR_REFUSE_LAST 8)))
  ∧ (∀ s : State, exec (.wakeEvent 0) s = .next (edgeWake 1 s) ∧ exec (.wakeEvent 3) s = .next (edgeWake 4 s)
      ∧ exec (.wakeEvent 4) s = .next (wakeStart 5 s))
  ∧ (∀ s : State, s.lowWanted = false → exec (.wakeEvent 1) s = .next (wakeStart 2 s))
  ∧ (∀ s : State, alarmHolds s → exec (.wakeEvent 2) s = .next (wakeStart 3 s))
  ∧ (∀ s : State, s.inAnchor → s.pwr.wake ≠ none →
      exec .wakeKeepReached s = .next (wakeKeep s).rawRestart.vdrvDemand)
  ∧ (∀ (s : State) (k : Nat), s.pwr.wake = some k → s.inAnchor = false → exec .wakeSramFilled s
      = .next (if (wakeFill s).fw.released then wakeFill s else wakeEnds k (wakeFill s)))

/-- Self-test and service life: BIST_RUN starts the tests it may run, the end of a block's test is recorded and starts
the next or answers, BIST_RESULT stages what it selects, a retirement reaches the ledger, and minutes and records of
the service life are kept. -/
def Obligations.ServiceCommandsComplete : Prop :=
  (∀ (s : State) (m : MBox) (c : Cmd), s.fronts m 0x90 c →
      (∀ b ∈ maskLanes 22 (c.bits 2 21 0), b ≠ 13 ∧ b ≠ 14 ∧ b ≠ 16 ∧ b ≠ 18 ∧ bistOff s b = false) →
      bistConflict s (maskLanes 22 (c.bits 2 21 0)) (c.bits 3 0 0 = 1) = false → maskLanes 22 (c.bits 2 21 0) ≠ [] →
      exec (.bistRun m) s = .next (bistStart c (maskLanes 22 (c.bits 2 21 0)) s))
  ∧ (∀ (s : State) (failed : Bool) (us : BitVec 16) (m0 m1 m2 : BitVec 32) (b : Nat) (rest : List Nat),
      s.bst.left = b :: rest → exec (.bistBlockDone failed us m0 m1 m2) s = .next
        (let s := bistRecord b rest failed
           { outcome := if failed then 3 else 1, us := us.toNat, m0 := m0, m1 := m1, m2 := m2 } s
         if rest = [] then bistAnswer s else bistNext s))
  ∧ (∀ (s : State) (m : MBox) (c : Cmd), s.fronts m 0x91 c → c.bits 2 1 0 = 0 →
      exec (.bistResult m) s = .next (s.finishStaged c (testBytes s)))
  ∧ (∀ (s : State) (m : MBox) (c : Cmd), s.fronts m 0x91 c → c.bits 2 1 0 = 1 →
      exec (.bistResult m) s = .next (s.finishStaged c (repairBytes s)))
  ∧ (∀ (s : State) (m : MBox) (c : Cmd), s.fronts m 0x91 c → c.bits 2 1 0 = 2 →
      exec (.bistResult m) s = .next (s.finishStaged c (lifeRecord s.bst.lifeSaved s.bst.lifeSeq)))
  ∧ (∀ (s : State) (e : Nat) (rest : List Nat), s.ecc.ledgerPending = e :: rest →
      exec .retireLedgerWritten s = .next
        (let page := s.ecc.retired.getD e 0 * 0x1000
         let t := s.modEcc fun x => { x with ledgerPending := rest }
         t.ledgerAppend (ledgerRecord t 3 ((page - 0x80000000) / 0x80000) e page)))
  ∧ (∀ s : State, s.pwr.held = false →
      exec .lifetimeMinute s = .next ((lifeMinute s).modBst fun b => { b with lifeAge := b.lifeAge + 1 }))
  ∧ (∀ s : State, (60 ≤ s.bst.lifeAge ∨ s.cmis.mod = .pwrDn) → exec .lifetimeRecordAppend s = .next
      ((s.flashWrite (0xE80000 + s.bst.lifePos % 3072 * 512) (lifeRecord s.bst.life (s.bst.lifeSeq + 1))).modBst fun b =>
        { b with lifeSaved := b.life, lifeSeq := s.bst.lifeSeq + 1, lifePos := (b.lifePos + 1) % 3072, lifeAge := 0 }))

/-! ## Hawser -/

/-- A Hawser port: a detect pulse that finds a load lets it train, a training set steps the taps and goes back, symbol
lock sends CAPS, CAPS are taken and credits sent, time-outs and lost signal take the port down, the line is taken
symbol by symbol until its lock is lost, and LINK frames bring credits or a replay. Discovery, time and power over
Hawser: the leader starts discovery, ASSIGN and DONE are taken on an open port, time exchanges start, are answered and
applied, and the power-grant token arrives, leaves, starts a round and ends a step. -/
def Obligations.HawserLinkCompletes : Prop :=
  (∀ (s : State) (p : Port), s.get F.HWS_PORT_STAT_STATE p = 1 → (edgeWake 4 s).mgmtOn →
      exec (.hawserDetectPulse p true) s = .next ((edgeWake 4 s).put F.HWS_PORT_STAT_STATE 2 p))
  ∧ (∀ (s t : State) (p : Port) (pre post askPre askPost : Fin 3) (done : Bool), s.get F.HWS_PORT_STAT_STATE p = 2 →
      t = trainAsk p done askPre askPost (trainStep p pre post s) →
      exec (.trainingSetRx p pre post done askPre askPost) s
        = .next (if (t.hwPort p).mine && (t.hwPort p).theirs then t.put F.HWS_PORT_STAT_STATE 3 p else t))
  ∧ (∀ (s : State) (p : Port), s.get F.HWS_PORT_STAT_STATE p = 3 → exec (.hawserSymbolLock p) s = .next
      (let s := (s.put F.HWS_PORT_STAT_STATE 4 p).put F.HWS_PORT_STAT_LOL 0 p
       s.hwEmit p s.hwIndex 0 0 (.caps (capsBytes s))))
  ∧ (∀ (s : State) (p : Port) (caps : Vector Byte 32), s.get F.HWS_PORT_STAT_STATE p = 4 →
      exec (.capsRx p caps) s = .next
        (let s := capsTaken p caps.toList s
         portActive p ((s.hwEmit p s.hwIndex 0 0 (.link 0 16 none)).hwEmit p s.hwIndex 0 0 (.link 1 16 none))))
  ∧ (∀ (s : State) (p : Port), s.get F.HWS_PORT_STAT_STATE p = 2 →
      exec (.hawserStateTimeout p) s = .next (portDown p 1 (s.addSat F.HWS_PORT_STAT_TRAIN_FAIL 1 p)))
  ∧ (∀ (s : State) (p : Port), (s.get F.HWS_PORT_STAT_STATE p = 3 ∨ s.get F.HWS_PORT_STAT_STATE p = 4) →
      exec (.hawserStateTimeout p) s = .next (portDown p 1 s))
  ∧ (∀ (s : State) (p : Port), exec (.hawserLos p) s
      = .next (if 3 ≤ s.get F.HWS_PORT_STAT_STATE p then portDown p 1 (s.put F.HWS_PORT_STAT_LOS 1 p)
          else s.put F.HWS_PORT_STAT_LOS 1 p))
  ∧ (∀ (s : State) (p : Port), exec (.hawserLosDeassert p) s = .next (s.put F.HWS_PORT_STAT_LOS 0 p))
  ∧ (∀ (s : State) (p : Port) (cdr : Bool) (line : List (Option (BitVec 10))), s.get F.HWS_PORT_STAT_STATE p = 0 →
      exec (.hawserLol p ⟨cdr, line⟩) s = .next (if cdr then hwLol p s else s))
  ∧ (∀ (s : State) (p : Port) (cdr : Bool) (line : List (Option (BitVec 10))), s.get F.HWS_PORT_STAT_STATE p ≠ 0 →
      exec (.hawserLol p ⟨cdr, line⟩) s = .next (if (lineTicks p cdr line s).2 then hwLol p (lineTicks p cdr line s).1
        else (lineTicks p cdr line s).1))
  ∧ (∀ (s : State) (p : Port) (ack : Bool) (credits : Fin 17), 4 ≤ s.get F.HWS_PORT_STAT_STATE p →
      s.flag F.HWS_PORT_STAT_BLOCKED p = false →
      exec (.linkFrameRx p ack credits none) s = .next (portActive p (creditsIn p ack credits s)))
  ∧ (∀ (s : State) (p : Port) (ack : Bool) (credits : Fin 17) (q : Byte), 4 ≤ s.get F.HWS_PORT_STAT_STATE p →
      s.flag F.HWS_PORT_STAT_BLOCKED p = false → exec (.linkFrameRx p ack credits (some q)) s
        = .next (if 8 ≤ ((s.hwPort p).chan ack).tries + 1 then hwLol p (replayFrom p ack credits q s)
            else replayFrom p ack credits q s))
  ∧ (∀ s : State, s.leads → s.hws.report = true → s.hws.disc = none →
      exec .discoveryDelayExpiry s = .next (discStart s))
  ∧ (∀ (s : State) (u : Port) (next : Fin 256) (l : BitVec 64) (e : BitVec 16) (h : Fin 128), s.portOpen u →
      exec (.assignRx u next l e h) s = .next (assignIn u next l e h s))
  ∧ (∀ (s : State) (p : Port) (r : AssignReply), s.portOpen p → exec (.doneRx p r) s = .next (doneIn p r s))
  ∧ (∀ (s : State) (p : Nat), s.upstream = some p → exec .syncPeriod s = .next
      (let s := syncMissed s
       (s.modHws fun h => { h with t1 := some s.tod }).hwEmit p s.hwIndex 0 0 .syncReq))
  ∧ (∀ (s : State) (p : Port) (d : BitVec 32), portCarries s p true → exec (.syncReqRx p d) s
      = .next (s.hwEmit p s.hwIndex 0 0 (.syncResp s.tod (s.tod + Int.ofNat d.toNat) s.hws.e s.coarse s.timeInvalid)))
  ∧ (∀ (s : State) (p : Port) (t2 t3 : BitVec 64) (e : BitVec 32) (coarse invalid : Bool) (t1 : Int),
      s.upstream = some p.val → s.hws.t1 = some t1 → exec (.syncRespRx p t2 t3 e coarse invalid) s = .next
        (let theta := syncTheta p t1 t2.toInt t3.toInt s
         let s := syncBound theta e.toNat (syncServo theta coarse invalid s)
         suspectEval (s.hws.e ≤ s.tol * 65536 && s.flag F.HWS_TIME_STAT_LOCKED && !s.tooDeep) s))
  ∧ (∀ (s t : State) (head : Bool),
      t = (s.modGrant fun g => { g with tkIn := true, head := head, passed := false, tkOut := false }) →
      exec (.pgtkiRise head) s = .next (if t.grant.running.isSome then t
        else if t.grant.pending = [] ∧ head = false then t.pass else t.takeStep))
  ∧ (∀ s : State, exec .pgtkiFall s
      = .next (s.modGrant fun g => { g with tkIn := false, head := false, passed := false, tkOut := false }))
  ∧ (∀ s : State, s.grant.head = true → s.grant.passed = true → exec .powerGrantRoundEnd s
      = .next (s.modGrant fun g => { g with passed := false, tkOut := false, reqIn := false }).takeStep)
  ∧ (∀ (s t : State) (low : Bool) (p : PStep), t = (s.modGrant fun g => { g with reqIn := low }) →
      t.grant.running = some p → exec (.powerGrantStepEnd low) s = .next (if p.timed then t.stepEnd p else t))
  ∧ (∀ (s t : State) (low : Bool), t = (s.modGrant fun g => { g with reqIn := low }) →
      t.grant.running = none → exec (.powerGrantStepEnd low) s
        = .next (if t.grant.head = true ∧ low = true ∧ t.grant.passed = false then t.pass else t))

/-! ## Controls and knots -/

/-- CMIS controls and monitors: a change of the low-power requests is followed, MODSEL_N is taken, resets and
passwords act, VDM freezes and resumes, monitors are refreshed and flags evaluated. -/
def Obligations.ManagementControlsComplete : Prop :=
  (∀ (s : State) (pin : Option PinLevel) (sw : Option Bool), exec (.lowPowerRequestChange pin sw) s
      = .next (follow (if (lowRequests pin sw s).lowWanted then lowRequests pin sw s
          else wakeStart 2 (lowRequests pin sw s))))
  ∧ (∀ (s : State) (p : PinLevel), exec (.modselChange p) s
      = .next (if pinActs p then s.modCmis fun c => { c with modselHigh := levelHigh c.modselHigh p.mv } else s))
  ∧ (∀ (s : State) (p : PinLevel), (resetLow s p = true ∧ 10000 ≤ p.ns.toNat) → exec (.sidebandReset p) s
      = .next (aonReset 3 (s.modCmis fun c => { c with rstLow := true })))
  ∧ (∀ (s : State) (p : PinLevel), (resetLow s p = false ∨ p.ns.toNat < 10000) → exec (.sidebandReset p) s
      = .next (s.modCmis fun c => { c with rstLow := resetLow s p }))
  ∧ (∀ s : State, exec .cmisSoftwareReset s = .next (aonReset 4 s))
  ∧ (∀ (s : State) (v : Word), exec (.hostPasswordEntry v) s
      = .next (s.modCmis fun c => { c with priv := v ≠ 0 && v = s.fw.password }))
  ∧ (∀ (s : State) (v : Word), s.cmis.priv = true → s.mbx.policyBits.getLsbD 3 = true → exec (.hostPasswordChange v) s
      = .next (s.modFw fun f => { f with password := v, pwFlash := some v }))
  ∧ (∀ s : State, s.cmisRuns → exec .vdmFreeze s = .next
      (let s := (List.finRange 32).foldl (fun s (i : Fin 32) =>
         if s.flag F.MON_FTH_CFG_RUN i then fathomRequest i s else s) s
       (vdmHold (eachBelow 16 rsmSnap (capSnapWrite 1 s))).modCmis fun c => { c with frozen := true, unfrozen := false }))
  ∧ (∀ s : State, s.cmisRuns → exec .vdmUnfreeze s
      = .next (s.modCmis fun c => { c with frozen := false, unfrozen := true }))
  ∧ (∀ s : State, s.cmisRuns → exec .cmisMonitorRefresh s = .next
      (let s := (s.setMonitor 0 0 (moduleTemp s)).setMonitor 1 0 (s.inputBits 59)
       eachBelow 16 (fun h s => s.setMonitor 5 h (s.get F.HST_CHK_BIT_COUNT h)) (eachBelow 8 laneMonitors (vdmRefresh s))))
  ∧ (∀ s : State, exec .cmisFlagEvaluation s
      = .next (let s := eachBelow 512 (fun i s => vdmFlags (i / 256) (i / 64 % 4) (i % 64) s) s
        irqUpdate (eachBelow 64 windowFlags (eachBelow 8 mediaFlags (eachBelow 16 hostFlags s)))))

/-- Knots: KNOT_OPEN takes the lowest free slot and answers its handle, KNOT_STAGE stages what it does not refuse,
KNOT_CINCH of each local kind marks the slot and waits, a knot is abandoned, read or idle, and an AM knot's lanes
apply or time out. -/
def Obligations.KnotCommandsComplete : Prop :=
  (∀ (s : State) (m : MBox) (c : Cmd) (k : Nat), s.fronts m 0x40 c →
      freeKnot s = some k → exec (.knotOpen m) s
        = .next ((knotOpened c.ident k s).finish c .done ((knotOpened c.ident k s).handle k)))
  ∧ (∀ (s : State) (m : MBox) (c : Cmd) (k : Nat) (all : List KEntry), s.fronts m 0x41 c → c.bits 2 18 16 ≤ 6 →
      knotOf c s = .ok k → all = (stagedEntries c s).foldl stageEntry (s.knot k).entries →
      stageRefusal k (stagedEntries c s) all s = none → exec (.knotStage m) s
        = .next ((knotStaged k (stagedEntries c s) all s).finish c .done
            (stageResult k all (knotStaged k (stagedEntries c s) all s))))
  ∧ (∀ (s : State) (m : MBox) (c : Cmd) (k : Nat), s.fronts m 0x42 c → c.bits 3 1 0 = 0 → knotOf c s = .ok k →
      cinchRefusal 0 c k s = none → exec (.knotCinchImmediate m) s = .next ((cinchMarked 0 c k s).await c (.knot k)))
  ∧ (∀ (s : State) (m : MBox) (c : Cmd) (k : Nat), s.fronts m 0x42 c → c.bits 3 1 0 = 1 → knotOf c s = .ok k →
      cinchRefusal 1 c k s = none → exec (.knotCinchAm m) s = .next ((cinchMarked 1 c k s).defer c (.knot k)))
  ∧ (∀ (s : State) (m : MBox) (c : Cmd) (k : Nat), s.fronts m 0x42 c → c.bits 3 1 0 = 2 → knotOf c s = .ok k →
      cinchRefusal 2 c k s = none → exec (.knotCinchTime m) s = .next ((cinchMarked 2 c k s).defer c (.knot k)))
  ∧ (∀ (s : State) (m : MBox) (c : Cmd) (k : Nat), s.fronts m 0x43 c → knotOf c s = .ok k → s.knotState k ≤ 2 →
      exec (.knotAbandon m) s = .next ((knotEnd k .cancelled 0 s).finish c .done 0))
  ∧ (∀ (s : State) (m : MBox) (c : Cmd), s.fronts m 0x44 c → exec (.knotStatus m) s
      = .next (s.finish c .done (s.word R.KNT_SLOT_STAT (c.bits 2 2 0)).toNat))
  ∧ (∀ (s : State) (k : Fin 8), s.knotState k = 1 → (s.knot k).checking = false → s.get F.KNT_CTRL_IDLE ≠ 0 →
      exec (.knotIdleExpiry k) s = .next ((knotFree k .timedOut s).post 0x45 0xF (s.handle k)))
  ∧ (∀ (s : State) (k : Fin 8), s.get F.KNT_SLOT_INFO_KIND k = 1 → s.knotState k = 2 →
      exec (.knotAmWaitExpiry k) s = .next (knotEnd k .timedOut 0 s))
  ∧ (∀ (s : State) (k : Fin 8), s.get F.KNT_SLOT_INFO_KIND k = 1 → s.knotState k = 4 →
      exec (.knotAmWaitExpiry k) s = .next (amForce k s))

/-! ## Gangs -/

/-- Frames of the gang arrive: each takes its effect through the arrival of a frame for this device. The gang's
commands: GANG_FORWARD sends the message of its command, GANG_STATUS stages the records, and the actions of
GANG_CONFIG, at the leader, set parameters and the list, rediscover, push and reload; a push times out. -/
def Obligations.GangFramesAndCommandsComplete : Prop :=
  (∀ (s : State) (p : Port) (h : HwHdr) (e d : Word) (a b : Byte) (l : Option (List Word))
      (q : Option (BitVec 10 × BitVec 8)), exec (.epochRx p h ⟨e, a, b⟩ d l q) s
        = .next (hwArrive p h (.epoch e d a b) (epochIn e d (a, b) l q) (fun _ => false) s))
  ∧ (∀ (s : State) (p : Port) (h : HwHdr) (l : List Byte) (first last : Bool) (ns : BitVec 16),
      exec (.msgRx p h ⟨l, first, last⟩ ns) s = .next (hwArrive p h (.msg l first last) (msgIn p h.src l first last)
        (msgWaits p h.src l first last) (msgOffer p h (.msg l first last) ns s)))
  ∧ (∀ (s : State) (p : Port) (h : HwHdr) (tag : BitVec 16), exec (.takenRx p h tag) s
      = .next (hwArrive p h (.taken tag) (takenIn h.src tag) (fun _ => false) s))
  ∧ (∀ (s : State) (p : Port) (h : HwHdr) (w0 : Word) (a b : BitVec 8) (st og : Status) (e : BitVec 16) (r : Word)
      (final : Bool) (m : MBox) (l : List Byte) (first last : Bool), Status.ofCode a = some st → Status.ofCode b = some og →
      exec (.completionRx p h w0 a b e r final m ⟨l, first, last⟩) s = .next
        (let c : Cpl := { w0 := w0, status := st, orig := og, epoch := e, result := r, final := final, m := m, seq := 0 }
         hwArrive p h (.completion c l first last) (completionPart p h.src c l first last) (fun _ => false) s))
  ∧ (∀ (s : State) (p : Port) (h : HwHdr) (src dst : Fin 128) (type : Byte) (tag : BitVec 16),
      exec (.droppedRx p h src dst type tag) s = .next (hwArrive p h (.dropped src dst type.toNat tag)
        (droppedIn src dst type.toNat tag) (fun _ => false) s))
  ∧ (∀ (s : State) (p : Port) (h : HwHdr) (o : Fin 8388608) (b : List Byte) (last : Bool), exec (.pushRx p h o b last) s
      = .next (hwArrive p h (.push o b last) (pushIn o b last) (fun _ => false) s))
  ∧ (∀ (s : State) (p : Port) (h : HwHdr) (sec : BitVec 48) (ns : BitVec 30) (k : BitVec 16),
      exec (.gangPrepareRx p h sec ns k) s = .next (hwArrive p h (.prepare (todOf sec.toNat ns.toNat 0) k.toNat)
        (prepareIn h.src (todOf sec.toNat ns.toNat 0) k.toNat) (fun _ => false) s))
  ∧ (∀ (s : State) (p : Port) (h : HwHdr) (k : BitVec 16), exec (.gangPreparedRx p h k) s
      = .next (hwArrive p h (.prepared k.toNat) (preparedIn h.src k.toNat) (fun _ => false) s))
  ∧ (∀ (s : State) (p : Port) (h : HwHdr) (k : BitVec 16) (st : BitVec 8), exec (.gangRefusedRx p h k st) s
      = .next (hwArrive p h (.refused k.toNat st.toNat) (refusedIn h.src k.toNat st) (fun _ => false) s))
  ∧ (∀ (s : State) (p : Port) (h : HwHdr) (k : BitVec 16), exec (.gangCommitRx p h k) s
      = .next (hwArrive p h (.commit k.toNat) (commitIn k.toNat) (fun _ => false) s))
  ∧ (∀ (s : State) (p : Port) (h : HwHdr) (k : BitVec 16), exec (.gangAbortRx p h k) s
      = .next (hwArrive p h (.abort k.toNat) (abortIn k.toNat) (fun _ => false) s))
  ∧ (∀ (s : State) (p : Port) (h : HwHdr) (k : BitVec 16), exec (.gangAppliedRx p h k) s
      = .next (hwArrive p h (.applied k.toNat) (appliedIn h.src k.toNat) (fun _ => false) s))
  ∧ (∀ (s : State) (p : Port) (h : HwHdr) (st : HwStatus), exec (.statusRx p h st) s
      = .next (hwArrive p h (.status st) (statusIn h.src st) (fun _ => false) s))
  ∧ (∀ (s : State) (m : MBox) (c : Cmd) (r : Member), s.fronts m 0x82 c → c.bits 2 15 8 ≠ 0x82 →
      c.bits 2 6 0 ≠ s.hwIndex → c.bits 2 6 0 < s.get F.HWS_GANG_STAT_SIZE → s.leads →
      s.member (c.bits 2 6 0) = some r → (r.quarantine = false ∨ quarantineOpen (c.bits 2 15 8)) →
      exec (.gangForward m) s = .next (forward c (c.bits 2 6 0) (c.bits 2 15 8) s))
  ∧ (∀ (s : State) (m : MBox) (c : Cmd), s.fronts m 0x80 c → exec (.gangStatus m) s
      = .next (s.finishStaged c (ownBytes s ++ if s.leads then othersBytes s else [])))
  ∧ (∀ (s : State) (m : MBox) (c : Cmd), s.fronts m 0x81 c → s.leads → c.bits 2 2 0 = 0 →
      (c.on 3 10 → 50 ≤ c.bits 3 9 0 ∧ c.bits 3 9 0 ≤ 500) → (c.on 3 24 → 1 ≤ c.bits 3 23 16 ∧ c.bits 3 23 16 ≤ 100) →
      exec (.gangConfigParameters m) s = .next ((gangParameters c s).finish c .done))
  ∧ (∀ (s : State) (m : MBox) (c : Cmd), s.fronts m 0x81 c → s.leads → c.bits 2 2 0 = 1 →
      (stagedWords c s).all listable → exec (.gangConfigList m) s
        = .next ((epochBump (hwBroadcast (.gangList (stagedWords c s)) (s.modHws fun h =>
            { h with gangList := stagedWords c s }))).finish c .done))
  ∧ (∀ (s t : State) (m : MBox) (c : Cmd), s.fronts m 0x81 c → s.leads → c.bits 2 2 0 = 2 →
      t = s.await c .gangRediscover → exec (.gangConfigRediscover m) s
        = .next (if t.hws.disc.isSome then t else discStart t))
  ∧ (∀ (s : State) (m : MBox) (c : Cmd), s.fronts m 0x81 c → s.leads → c.bits 2 2 0 = 3 →
      s.member (c.bits 3 6 0) ≠ none → s.hwRoute (c.bits 3 6 0) ≠ none → exec (.gangConfigPush m) s
        = .next ((pushSegments s).foldl (fun s x => s.hwSendTo (c.bits 3 6 0) x)
            (s.await c (.gangPush [c.bits 3 6 0]))))
  ∧ (∀ (s : State) (m : MBox) (c : Cmd), s.fronts m 0x81 c → s.leads → c.bits 2 2 0 = 4 →
      s.member (c.bits 3 6 0) ≠ none → s.hwRoute (c.bits 3 6 0) ≠ none → exec (.gangConfigReload m) s
        = .next (reloadStart (c.bits 3 6 0) (s.await c (.gangReload (c.bits 3 6 0)))))
  ∧ (∀ (s : State) (i : Fin 128), exec (.gangPushTimeout i) s
      = .next (s.finishWhere (fun w => match w with | .gangPush l => l.contains i.val | _ => false) .timedOut))

/-- The gang knot: it is cinched at the leader or alone, its checks end in an application, a request to the
participants, an armed knot or a failure, the leader commits or aborts and repeats its COMMIT, a participant gives up
at its deadline, a scheduled time fires, and the gang's digest and lagging members are followed up. -/
def Obligations.GangKnotCompletes : Prop :=
  (∀ (s : State) (m : MBox) (c : Cmd) (k : Nat), (s.leads ∨ s.hws.leader = none) → s.fronts m 0x42 c →
      c.bits 3 1 0 = 3 → knotOf c s = .ok k → cinchRefusal 3 c k s = none →
      exec (.knotCinchGang m) s = .next (cinchGang c k (cinchMarked 3 c k s)))
  ∧ (∀ (s : State) (k : Fin 8), (s.knot k).checking = true → knotCheck k s = none → s.get F.KNT_SLOT_INFO_KIND k = 0 →
      exec (.knotReady k) s = .next (knotEnd k .done 0 (knotApply k (knotHold k s))))
  ∧ (∀ (s : State) (k : Fin 8), (s.knot k).checking = true → knotCheck k s = none → s.get F.KNT_SLOT_INFO_KIND k = 1 →
      (s.knot k).leads = false → exec (.knotReady k) s = .next ((knotHold k s).put F.KNT_SLOT_STAT_STATE 2 k))
  ∧ (∀ (s : State) (k : Fin 8), (s.knot k).checking = true → knotCheck k s = none → 2 ≤ s.get F.KNT_SLOT_INFO_KIND k →
      tooLate k 0 s → exec (.knotReady k) s = .next (knotEnd k .timedOut 0 s))
  ∧ (∀ (s : State) (k : Fin 8), (s.knot k).checking = true → knotCheck k s = none → 2 ≤ s.get F.KNT_SLOT_INFO_KIND k →
      tooLate k 0 s = false → exec (.knotReady k) s = .next (if (s.knot k).leads then gangAsk k (knotHold k s)
        else (knotHold k s).put F.KNT_SLOT_STAT_STATE 2 k))
  ∧ (∀ (s : State) (k : Fin 8) (st : Status) (a : Option Nat), (s.knot k).checking = true → knotCheck k s = some (st, a) →
      exec (.knotReady k) s = .next (knotEnd k st 0 (knotErr k a s)))
  ∧ (∀ (s : State) (k : Fin 8), (s.knot k).leads = true → (s.knot k).asked = true → (s.knot k).committed = false →
      (s.knot k).unanswered = none → exec (.gangDecisionPoint k) s
        = .next ((((s.knot k).parts.foldl (fun s q => s.hwSendTo q.idx (.commit q.handle)) s).modKnot k fun x =>
            { x with committed := true }).put F.KNT_SLOT_STAT_STATE 2 k))
  ∧ (∀ (s : State) (k : Fin 8) (q : KPart), (s.knot k).leads = true → (s.knot k).asked = true →
      (s.knot k).committed = false → (s.knot k).unanswered = some q →
      exec (.gangDecisionPoint k) s = .next (gangAborted k .peerLost (gangResult q.idx 2) s))
  ∧ (∀ (s : State) (k : Fin 8) (l : List (Fin 128)), (s.knot k).committed = true → (s.knot k).applied = false →
      exec (.gangCommitRepeat k l) s = .next ((((gangAcked k l s).knot k).parts.filter fun q => !q.acked).foldl
        (fun s q => s.hwSendTo q.idx (.commit q.handle)) (gangAcked k l s)))
  ∧ (∀ (s : State) (k : Fin 8), s.knotState k = 3 → (s.knot k).leads = false → exec (.participantDeadline k) s
      = .next ((((knotEnd k .timedOut 0 s).put F.HWS_GANG_STAT_DIVERGED 1).post 0x46 0xF (s.handle k)).hwReport false))
  ∧ (∀ s : State, exec (.scheduledTimeReached none) s = .next (timeAdjustFires s))
  ∧ (∀ (s : State) (k : Fin 8), exec (.scheduledTimeReached (some k)) s = .next (knotFires k s))
  ∧ (∀ (s : State) (i : Fin 128), s.leads → s.hws.lagging.contains i.val → exec (.epochLagTimeout i) s
      = .next (if !(s.member i).any Member.quarantine && (memberLags i s).flag F.HWS_TIME_CFG_AUTO_RELOAD
            && (memberLags i s).fw.running then reloadStart i (memberLags i s) else memberLags i s))
  ∧ (∀ s : State, s.mgmtOn → exec .digestRecompute s = .next (gangSettleAll (digestTick s)))

/-! ## The management bus -/

/-- The management bus: a write transaction takes its bytes and is acknowledged or ends in a NACK, a read answers its
bytes, common command codes assign and give addresses and lengths, the register window accesses and completes, and the
read-out pages are copied. -/
def Obligations.ManagementBusCompletes : Prop :=
  (∀ (s : State) (off : Byte) (data : List Byte) (x : Xfer), busAnswers s → x = i2cBytes off data (edgeWake 1 s) →
      exec (.i2cWrite off data) s = .next ((irqUpdate (i2cWritten off data x (edgeWake 1 s))).answer
        (if x.live then .ack [] else .nack (2 + x.count))))
  ∧ (∀ (s : State) (off : Option Byte) (k : Nat), busAnswers s → exec (.i2cRead off k) s
      = .next ((irqUpdate (i2cFetch off k (edgeWake 1 s)).1).answer (.ack (i2cFetch off k (edgeWake 1 s)).2)))
  ∧ (∀ (s : State) (a : BitVec 7), busAnswers s → (edgeWake 1 s).cmis.dynAddr = none → exec (.i3cCcc (.setdasa a)) s
      = .next (((edgeWake 1 s).modCmis fun c => { c with dynAddr := some a }).answer (.ack [])))
  ∧ (∀ s : State, busAnswers s → exec (.i3cCcc .rstdaa) s
      = .next (((edgeWake 1 s).modCmis fun c => { c with dynAddr := none }).answer (.ack [])))
  ∧ (∀ s : State, busAnswers s → exec (.i3cCcc .getpid) s
      = .next ((edgeWake 1 s).answer (.ack (beBytes 6 (edgeWake 1 s).fw.otp.provId.toNat))))
  ∧ (∀ (s : State) (u : Upset), exec (.registerWindowRead u) s = .next (windowStart false u s))
  ∧ (∀ (s : State) (u : Upset), exec (.registerWindowWrite u) s = .next (windowStart true u s))
  ∧ (∀ (s : State) (st : Nat) (d : Option Word), s.cmis.window.held = some (st, d) → exec .windowAccessComplete s
      = .next (s.modWindow fun w => { w with
          held := none, status := st, rdata := d.getD w.rdata, addr := if w.autoInc then w.addr + 4 else w.addr }))
  ∧ (∀ s : State, exec .fathomReadoutCopy s = .next (s.modCmis fun c => { c with fathom := fathomBytes s }))
  ∧ (∀ s : State, s.mbx.policyBits.getLsbD 0 = true → exec .perfWindowCopy s
      = .next (s.modCmis fun c => { c with perf := perfBytes s, perfStatus := Status.done.code }))
  ∧ (∀ s : State, s.mbx.policyBits.getLsbD 0 = false → exec .perfWindowCopy s
      = .next (s.modCmis fun c => { c with perf := List.replicate 48 0, perfStatus := Status.denied.code }))

/-! ## Accesses -/

/-- A write of a line-lane, host-lane, Winch or Capstan register that the checks of R27 let through is answered and
has the effect its register gives it. A write of an optical, Lanyard or lane-reset register that the checks of R27 let
through is answered and has the effect its register gives it. -/
def Obligations.LineAndOpticalWritesComplete : Prop :=
  (∀ (q : Req) (n : Line) (v : Word) (s : State), s.mayWrite q R.LTX_LANE_CFG n 0 v → exec (.ltxLaneCfgWrite q n v) s
      = .next ((laneCfgWrite n v (knotDirty (R.LTX_LANE_CFG.addr n 0) s)).answer (.access .ok 0)))
  ∧ (∀ (q : Req) (n : Line) (v : Word) (s : State), s.mayWrite q R.LTX_SHAPE_CTRL n 0 (v ||| 1) → exec (.shapeApply q n v) s
      = .next ((shadowWrite n 24 (shapeCtrlWrite n (v ||| 1) (knotDirty (R.LTX_SHAPE_CTRL.addr n 0) s))).answer (.access .ok 0)))
  ∧ (∀ (q : Req) (n : Line) (v : Word) (s : State), s.mayWrite q R.LTX_MASK_CTRL n 0 v → exec (.maskCtrlWrite q n none v) s
      = .next ((let s := knotDirty (R.LTX_MASK_CTRL.addr n 0) s
         let w := s.writePlain R.LTX_MASK_CTRL v n
         maskChanged n (s.flag F.LTX_MASK_CTRL_EN n) (w.word R.LTX_MASK_CTRL n = s.word R.LTX_MASK_CTRL n) w).answer
           (.access .ok 0)))
  ∧ (∀ (q : Req) (n : Line) (m : Fin 8) (v : Word) (s : State), s.mayWrite q R.LTX_MASK_LIM n m v → exec (.maskCtrlWrite q n (some m) v) s
      = .next ((let s := knotDirty (R.LTX_MASK_LIM.addr n m) s
         let w := s.writePlain R.LTX_MASK_LIM v n m
         maskChanged n (s.flag F.LTX_MASK_CTRL_EN n) (w.word R.LTX_MASK_LIM n m = s.word R.LTX_MASK_LIM n m) w).answer
           (.access .ok 0)))
  ∧ (∀ (q : Req) (n : Line) (v : Word) (s : State), s.mayWrite q R.LTX_CAL_CTRL n 0 (v ||| 2) → exec (.txCalRevert q n v) s
      = .next ((txCalCtrlWrite n (v ||| 2) (knotDirty (R.LTX_CAL_CTRL.addr n 0) s)).answer (.access .ok 0)))
  ∧ (∀ (q : Req) (n : Line) (v : Word) (s : State), s.mayWrite q R.LRX_TIA_CTRL n 0 (v ||| 0x10000) → exec (.tiaRetrim q n v) s
      = .next ((tiaCtrlWrite n (v ||| 0x10000) (knotDirty (R.LRX_TIA_CTRL.addr n 0) s)).answer (.access .ok 0)))
  ∧ (∀ (q : Req) (i : Fin 25) (v : Word) (s : State), s.mayWrite q R.WNC_LANE_CFG i 0 (v ||| 0x1000000) → exec (.winchReseed q i v) s
      = .next ((((knotDirty (R.WNC_LANE_CFG.addr i 0) s).writePlain R.WNC_LANE_CFG (v ||| 0x1000000) i).reseed i).answer (.access .ok 0)))
  ∧ (∀ (q : Req) (n : Line) (v : Word) (s : State), s.mayWrite q R.LRX_CAL_CTRL n 0 (v ||| 2) → exec (.rxCalRevert q n v) s
      = .next ((rxCalCtrlWrite n (v ||| 2) (knotDirty (R.LRX_CAL_CTRL.addr n 0) s)).answer (.access .ok 0)))
  ∧ (∀ (q : Req) (n : Line) (v : Word) (s : State), s.mayWrite q R.LRX_CAP_CTRL n 0 (v ||| 1) → exec (.captureArm q n v) s
      = .next ((capCtrlWrite n (v ||| 1) (knotDirty (R.LRX_CAP_CTRL.addr n 0) s)).answer (.access .ok 0)))
  ∧ (∀ (q : Req) (n : Line) (v : Word) (s : State), s.mayWrite q R.LRX_CAP_CTRL n 0 (v ||| 2) → exec (.captureAbort q n v) s
      = .next ((capCtrlWrite n (v ||| 2) (knotDirty (R.LRX_CAP_CTRL.addr n 0) s)).answer (.access .ok 0)))
  ∧ (∀ (q : Req) (v : Word) (s : State), s.mayWrite q R.CAP_CTRL 0 0 v → exec (.deadlineWrite q v) s
      = .next ((capCtrlRegWrite v (knotDirty (R.CAP_CTRL.addr 0 0) s)).answer (.access .ok 0)))
  ∧ (∀ (q : Req) (s : State), s.mayWrite q R.CAP_SNAP 0 0 1 → exec (.capstanSnapshot q) s
      = .next ((capSnapWrite 1 (knotDirty (R.CAP_SNAP.addr 0 0) s)).answer (.access .ok 0)))
  ∧ (∀ (q : Req) (h : HLane) (v : Word) (s : State), s.mayWrite q R.HST_TX_CTRL h 0 (v ||| 1) → exec (.hostTxApply q h v) s
      = .next ((hstTxCtrlWrite h (v ||| 1) (knotDirty (R.HST_TX_CTRL.addr h 0) s)).answer (.access .ok 0)))
  ∧ (∀ (q : Req) (h : HLane) (v : Word) (s : State), s.mayWrite q R.HST_TEST_CTRL h 0 v → exec (.hostLoopbackSet q h v) s
      = .next ((hstTestCtrlWrite h v (knotDirty (R.HST_TEST_CTRL.addr h 0) s)).answer (.access .ok 0)))
  ∧ (∀ (q : Req) (h : HLane) (v : Word) (s : State), s.mayWrite q R.HST_RSM_CTRL h 0 (v ||| 1) → exec (.rsmEnable q h v) s
      = .next ((hstRsmCtrlWrite h (v ||| 1) (knotDirty (R.HST_RSM_CTRL.addr h 0) s)).answer (.access .ok 0)))
  ∧ (∀ (q : Req) (h : HLane) (v : Word) (s : State), s.mayWrite q R.HST_RSM_CTRL h 0 (v ||| 2) → exec (.rsmSnapshot q h v) s
      = .next ((hstRsmCtrlWrite h (v ||| 2) (knotDirty (R.HST_RSM_CTRL.addr h 0) s)).answer (.access .ok 0)))
  ∧ (∀ (q : Req) (n : Line) (v : Word) (s : State), s.mayWrite q R.OLC_CTRL n 0 v → exec (.olcReqWrite q n v) s
      = .next ((olcReqWrite n v (knotDirty (R.OLC_CTRL.addr n 0) s)).answer (.access .ok 0)))
  ∧ (∀ (q : Req) (n : Line) (v : Word) (s : State), s.mayWrite q R.OLC_PROBE n 0 (v ||| 1) → exec (.probeGo q n v) s
      = .next ((olcProbeWrite n (v ||| 1) (knotDirty (R.OLC_PROBE.addr n 0) s)).answer (.access .ok 0)))
  ∧ (∀ (q : Req) (n : Line) (v : Word) (s : State), s.mayWrite q R.OLC_CODE n 0 v → exec (.lbRangeWrite q n v) s
      = .next ((olcCodeWrite n 0 v (knotDirty (R.OLC_CODE.addr n 0) s)).answer (.access .ok 0)))
  ∧ (∀ (q : Req) (n : Line) (k : Fin 5) (v : Word) (s : State), s.mayWrite q R.OLC_CODE n k v → exec (.olcCodeWrite q n k v) s
      = .next ((olcCodeWrite n k v (knotDirty (R.OLC_CODE.addr n k) s)).answer (.access .ok 0)))
  ∧ (∀ (q : Req) (v : Word) (s : State), s.mayWrite q R.OLC_STROBE 0 0 v → exec (.strobeWrite q v) s
      = .next ((olcStrobe (bitsOf v 3 0) (knotDirty (R.OLC_STROBE.addr 0 0) s)).answer (.access .ok 0)))
  ∧ (∀ (q : Req) (c : Fin 45) (v : Word) (s : State), s.mayWrite q R.OLC_CH_WAV c 0 (v ||| 1) → exec (.waveformStart q c v) s
      = .next ((olcWavWrite c (v ||| 1) (knotDirty (R.OLC_CH_WAV.addr c 0) s)).answer (.access .ok 0)))
  ∧ (∀ (q : Req) (c : Fin 45) (v : Word) (s : State), s.mayWrite q R.OLC_CH_WAV c 0 (v ||| 2) → exec (.waveformStop q c v) s
      = .next ((olcWavWrite c (v ||| 2) (knotDirty (R.OLC_CH_WAV.addr c 0) s)).answer (.access .ok 0)))
  ∧ (∀ (q : Req) (n : Line) (v : Word) (s : State), s.mayWrite q R.OLC_FAULT n 0 v → exec (.faultClear q n v) s
      = .next ((olcFaultWrite n v (knotDirty (R.OLC_FAULT.addr n 0) s)).answer (.access .ok 0)))
  ∧ (∀ (q : Req) (n : Line) (v : Word) (s : State), s.mayWrite q R.LYD_CTRL n 0 v → exec (.lydTxEnWrite q n v) s
      = .next ((lydCtrlWrite n v (knotDirty (R.LYD_CTRL.addr n 0) s)).answer (.access .ok 0)))
  ∧ (∀ (q : Req) (n : Line) (v : Word) (s : State), s.mayWrite q R.LYD_CTRL n 0 v → exec (.lydRxEnWrite q n v) s
      = .next ((lydCtrlWrite n v (knotDirty (R.LYD_CTRL.addr n 0) s)).answer (.access .ok 0)))
  ∧ (∀ (q : Req) (n : Line) (m : Fin 16) (v : Word) (s : State), s.mayWrite q R.LYD_FIR n m v → exec (.lydCoefWrite q n m v) s
      = .next ((lydFirWrite n m v (knotDirty (R.LYD_FIR.addr n m) s)).answer (.access .ok 0)))
  ∧ (∀ (q : Req) (v : Word) (s : State), s.mayWrite q R.LYD_USER_FREE 0 0 v → exec (.userSlotFree q v) s
      = .next ((userFreeWrite v (knotDirty (R.LYD_USER_FREE.addr 0 0) s)).answer (.access .ok 0)))
  ∧ (∀ (q : Req) (v : Word) (s : State), s.mayWrite q R.PWR_LANE_RST 0 0 v → exec (.laneReset q v) s
      = .next ((laneRstWrite v (knotDirty (R.PWR_LANE_RST.addr 0 0) s)).answer (.access .ok 0)))

/-- A write of an ECC, time, Rigger, monitor, counter, power or Hawser register that the checks of R27 let through is
answered and has the effect its register gives it. -/
def Obligations.ManagementRegisterWritesComplete : Prop :=
  (∀ (q : Req) (v : Word) (s : State), s.mayWrite q R.ECC_INJ_CTRL 0 0 (v ||| 0x80000000) → exec (.eccInjectArm q v) s
      = .next (((knotDirty (R.ECC_INJ_CTRL.addr 0 0) s).writePlain R.ECC_INJ_CTRL (v ||| 0x80000000)).answer (.access .ok 0)))
  ∧ (∀ (q : Req) (v : Word) (s : State), s.mayWrite q R.ECC_CTRL 0 0 (v ||| 0x100) → exec (.eccLogClear q v) s
      = .next ((eccCtrlWrite (v ||| 0x100) ((knotDirty (R.ECC_CTRL.addr 0 0) s).writePlain R.ECC_CTRL (v ||| 0x100))).answer (.access .ok 0)))
  ∧ (∀ (q : Req) (v : Word) (s : State), s.mayWrite q R.TIM_ADJ_CTRL 0 0 (v ||| 1) → exec (.timeApplyRate q v) s
      = .next ((timAdjWrite (v ||| 1) (knotDirty (R.TIM_ADJ_CTRL.addr 0 0) s)).answer (.access .ok 0)))
  ∧ (∀ (q : Req) (v : Word) (s : State), s.mayWrite q R.TIM_ADJ_CTRL 0 0 (v ||| 2) → exec (.timeApplyStep q v) s
      = .next ((timAdjWrite (v ||| 2) (knotDirty (R.TIM_ADJ_CTRL.addr 0 0) s)).answer (.access .ok 0)))
  ∧ (∀ (q : Req) (v : Word) (s : State), s.mayWrite q R.TIM_ADJ_CTRL 0 0 (v ||| 4) → exec (.timeClearCoarse q v) s
      = .next ((timAdjWrite (v ||| 4) (knotDirty (R.TIM_ADJ_CTRL.addr 0 0) s)).answer (.access .ok 0)))
  ∧ (∀ (c : Fin 4) (v : Word) (s : State), s.mayWrite (.rigger c) R.TOP_RIG_CTRL 0 0 (v ||| 1) → exec (.riggerReady c v) s
      = .next ((rigCtrlWrite (v ||| 1) (knotDirty (R.TOP_RIG_CTRL.addr 0 0) s)).answer (.access .ok 0)))
  ∧ (∀ (c : Fin 4) (v : Word) (s : State), s.mayWrite (.rigger c) R.TOP_RIG_CTRL 0 0 (v ||| 0x100) → exec (.watchdogKick c v) s
      = .next ((rigCtrlWrite (v ||| 0x100) (knotDirty (R.TOP_RIG_CTRL.addr 0 0) s)).answer (.access .ok 0)))
  ∧ (∀ (q : Req) (v : Word) (s : State), s.mayWrite q R.MON_ADC_URG 0 0 v → exec (.urgentConversion q v) s
      = .next ((adcUrgWrite v ((knotDirty (R.MON_ADC_URG.addr 0 0) s).writePlain R.MON_ADC_URG v)).answer (.access .ok 0)))
  ∧ (∀ (q : Req) (v : Word) (s : State), s.mayWrite q R.MON_ADC_CTRL 0 0 v → exec (.referenceEnable q v) s
      = .next ((adcCtrlWrite ((knotDirty (R.MON_ADC_CTRL.addr 0 0) s).writePlain R.MON_ADC_CTRL v)).answer (.access .ok 0)))
  ∧ (∀ (q : Req) (i : Fin 32) (v : Word) (s : State), s.mayWrite q R.MON_FTH_CFG i 0 (v ||| 1) → exec (.fathomStart q i v) s
      = .next ((fathomWrite i true (v ||| 1) ((knotDirty (R.MON_FTH_CFG.addr i 0) s).writePlain R.MON_FTH_CFG (v ||| 1) i)).answer (.access .ok 0)))
  ∧ (∀ (q : Req) (i : Fin 32) (v : Word) (s : State), s.mayWrite q R.MON_FTH_CFG i 0 ((v ||| 2) &&& 0xFFFFFFFE) → exec (.fathomStop q i 0 v) s
      = .next ((fathomWrite i true ((v ||| 2) &&& 0xFFFFFFFE) ((knotDirty (R.MON_FTH_CFG.addr i 0) s).writePlain R.MON_FTH_CFG ((v ||| 2) &&& 0xFFFFFFFE) i)).answer (.access .ok 0)))
  ∧ (∀ (q : Req) (i : Fin 32) (v : Word) (s : State), s.mayWrite q R.MON_FTH_FILT i 0 v → exec (.fathomStop q i 1 v) s
      = .next ((fathomWrite i false v ((knotDirty (R.MON_FTH_FILT.addr i 0) s).writePlain R.MON_FTH_FILT v i)).answer (.access .ok 0)))
  ∧ (∀ (q : Req) (i : Fin 32) (v : Word) (s : State), s.mayWrite q R.MON_FTH_BIN i 0 v → exec (.fathomStop q i 2 v) s
      = .next ((fathomWrite i false v ((knotDirty (R.MON_FTH_BIN.addr i 0) s).writePlain R.MON_FTH_BIN v i)).answer (.access .ok 0)))
  ∧ (∀ (q : Req) (i : Fin 32) (v : Word) (s : State), s.mayWrite q R.MON_FTH_BASE i 0 v → exec (.fathomStop q i 3 v) s
      = .next ((fathomWrite i false v ((knotDirty (R.MON_FTH_BASE.addr i 0) s).writePlain R.MON_FTH_BASE v i)).answer (.access .ok 0)))
  ∧ (∀ (q : Req) (i : Fin 32) (v : Word) (s : State), s.mayWrite q R.MON_FTH_LIM i 0 v → exec (.fathomStop q i 4 v) s
      = .next ((fathomWrite i false v ((knotDirty (R.MON_FTH_LIM.addr i 0) s).writePlain R.MON_FTH_LIM v i)).answer (.access .ok 0)))
  ∧ (∀ (q : Req) (v : Word) (s : State), s.mayWrite q R.PMU_CTRL 0 0 (v ||| 1) → exec (.perfSnapshot q v) s
      = .next ((pmuCtrlWrite (v ||| 1) ((knotDirty (R.PMU_CTRL.addr 0 0) s).writePlain R.PMU_CTRL (v ||| 1))).answer (.access .ok 0)))
  ∧ (∀ (q : Req) (v : Word) (s : State), s.mayWrite q R.PWR_BLK_EN 0 0 v → exec (.blockEnableWrite q v) s
      = .next ((blkEnWrite v (knotDirty (R.PWR_BLK_EN.addr 0 0) s)).answer (.access .ok 0)))
  ∧ (∀ (s : State), s.mayWrite .cleat R.PWR_RST 0 0 1 → exec (.softwareAonReset) s
      = .next ((aonReset 4 (knotDirty (R.PWR_RST.addr 0 0) s)).answer (.access .ok 0)))
  ∧ (∀ (q : Req) (p : Port) (v : Word) (s : State), s.mayWrite q R.HWS_PORT_CTRL p 0 v → exec (.hawserPortEnable q p v) s
      = .next ((hwsCtrlWrite p v (knotDirty (R.HWS_PORT_CTRL.addr p 0) s)).answer (.access .ok 0)))
  ∧ (∀ (q : Req) (p : Port) (v : Word) (s : State), s.mayWrite q R.HWS_PORT_CTRL p 0 (v ||| 2) → exec (.hawserRetrain q p v) s
      = .next ((hwsCtrlWrite p (v ||| 2) (knotDirty (R.HWS_PORT_CTRL.addr p 0) s)).answer (.access .ok 0)))

/-- A read that captures, pops or returns what an earlier read captured, let through by the checks of R27, answers its
word. -/
def Obligations.CapturingReadsComplete : Prop :=
  (∀ (q : Req) (s : State), s.reaches q R.TIM_SNAP_W0 0 0 false → exec (.timeSnapshotRead q 0) s
      = .next (((snapRead q s).2).answer (.access .ok ((snapRead q s).1.setWidth 64))))
  ∧ (∀ (q : Req) (s : State), s.reaches q R.TIM_SNAP_TOD 0 0 false → exec (.timeSnapshotRead q 1) s
      = .next ((s).answer (.access .ok (((s.hold q).snap.getD 0 0).setWidth 64))))
  ∧ (∀ (q : Req) (s : State), s.reaches q R.TIM_SNAP_TOD 1 0 false → exec (.timeSnapshotRead q 2) s
      = .next ((s).answer (.access .ok (((s.hold q).snap.getD 1 0).setWidth 64))))
  ∧ (∀ (q : Req) (s : State), s.reaches q R.TIM_SNAP_TOD 2 0 false → exec (.timeSnapshotRead q 3) s
      = .next ((s).answer (.access .ok (((s.hold q).snap.getD 2 0).setWidth 64))))
  ∧ (∀ (q : Req) (s : State), s.reaches q R.TIM_SNAP_W4 0 0 false → exec (.timeSnapshotRead q 4) s
      = .next ((s).answer (.access .ok (((s.hold q).snap.getD 3 0).setWidth 64))))
  ∧ (∀ (q : Req) (rx : Bool) (s : State), s.reaches q R.TIM_TSQ_W rx.toNat 0 false → exec (.tsqPop q rx 0) s
      = .next (((tsqRead q (!rx) s).2).answer (.access .ok ((tsqRead q (!rx) s).1.setWidth 64))))
  ∧ (∀ (q : Req) (rx : Bool) (w : Fin 4) (s : State), s.reaches q R.TIM_TSQ_W rx.toNat w false → w ≠ 0 → exec (.tsqPop q rx w) s
      = .next ((s).answer (.access .ok (((if rx then (s.hold q).rxq else (s.hold q).txq).getD (w - 1) 0).setWidth 64))))
  ∧ (∀ (q : Req) (s : State), s.reaches q R.TIM_AON_LO 0 0 false → exec (.aonCounterRead q false) s
      = .next (((aonRead q s).2).answer (.access .ok ((aonRead q s).1.setWidth 64))))
  ∧ (∀ (q : Req) (s : State), s.reaches q R.TIM_AON_HI 0 0 false → exec (.aonCounterRead q true) s
      = .next ((s).answer (.access .ok (((s.hold q).aonHi).setWidth 64))))
  ∧ (∀ (q : Req) (n : Line) (s : State), s.reaches q R.TIM_TT_STAT n 0 false → exec (.twoWayRead q n 0) s
      = .next (((twoWayRead q n s).2).answer (.access .ok ((twoWayRead q n s).1.setWidth 64))))
  ∧ (∀ (q : Req) (n : Line) (s : State), s.reaches q R.TIM_TT_LO n 0 false → exec (.twoWayRead q n 1) s
      = .next ((s).answer (.access .ok (((Bank.get (s.hold q).twoWay n []).getD 0 0).setWidth 64))))
  ∧ (∀ (q : Req) (n : Line) (s : State), s.reaches q R.TIM_TT_HI n 0 false → exec (.twoWayRead q n 2) s
      = .next ((s).answer (.access .ok (((Bank.get (s.hold q).twoWay n []).getD 1 0 &&& 0xFFFF).setWidth 64))))
  ∧ (∀ (q : Req) (n : Line) (s : State), s.reaches q R.TIM_TT_LO n 1 false → exec (.twoWayRead q n 3) s
      = .next ((s).answer (.access .ok (((Bank.get (s.hold q).twoWay n []).getD 2 0).setWidth 64))))
  ∧ (∀ (q : Req) (n : Line) (s : State), s.reaches q R.TIM_TT_HI n 1 false → exec (.twoWayRead q n 4) s
      = .next ((s).answer (.access .ok (((Bank.get (s.hold q).twoWay n []).getD 3 0 &&& 0xFFFF).setWidth 64))))
  ∧ (∀ (q : Req) (s : State), s.reaches q R.TIM_PPSI_W0 0 0 false → exec (.ppsInRead q 0) s
      = .next (((ppsInRead q s).2).answer (.access .ok ((ppsInRead q s).1.setWidth 64))))
  ∧ (∀ (q : Req) (s : State), s.reaches q R.TIM_PPSI_TOD 0 0 false → exec (.ppsInRead q 1) s
      = .next ((s).answer (.access .ok (((s.hold q).pps.getD 0 0).setWidth 64))))
  ∧ (∀ (q : Req) (s : State), s.reaches q R.TIM_PPSI_TOD 1 0 false → exec (.ppsInRead q 2) s
      = .next ((s).answer (.access .ok (((s.hold q).pps.getD 1 0).setWidth 64))))
  ∧ (∀ (q : Req) (s : State), s.reaches q R.TIM_PPSI_TOD 2 0 false → exec (.ppsInRead q 3) s
      = .next ((s).answer (.access .ok (((s.hold q).pps.getD 2 0).setWidth 64))))
  ∧ (∀ (q : Req) (k : Fin 3) (s : State), s.reaches q R.MBX_IRING_W k 0 false → exec (.internalRingPop q k 0) s
      = .next (((iringRead q k s).2).answer (.access .ok ((iringRead q k s).1.setWidth 64))))
  ∧ (∀ (q : Req) (k : Fin 3) (i : Fin 4) (s : State), s.reaches q R.MBX_IRING_W k i false → i ≠ 0 → exec (.internalRingPop q k i) s
      = .next ((s).answer (.access .ok (((Bank.get (s.hold q).ring k []).getD (i - 1) 0).setWidth 64))))
  ∧ (∀ (q : Req) (j : BitVec 8) (s : State), s.reaches q R.PMU_CNT_LO j.toNat 0 false → exec (.perfCounterRead q j false) s
      = .next ((s.modHold q fun h => { h with pmuHi := Bank.put h.pmuHi j.toNat (BitVec.ofNat 32 ((pmuRead s j.toNat).toNat / 2 ^ 32)) 0 }).answer (.access .ok ((BitVec.ofNat 32 (pmuRead s j.toNat).toNat).setWidth 64))))
  ∧ (∀ (q : Req) (j : BitVec 8) (s : State), s.reaches q R.PMU_CNT_HI j.toNat 0 false → exec (.perfCounterRead q j true) s
      = .next ((s).answer (.access .ok ((Bank.get (s.hold q).pmuHi j.toNat 0).setWidth 64))))

/-- A write of any other register or any other address, a mailbox word, a doorbell, a staging buffer or SRAM, and an
SRAM read, let through by the checks of R27. -/
def Obligations.MemoryAccessesComplete : Prop :=
  (∀ (q : Req) (r : RegD) (n m : Nat) (v : Word) (s : State), r ∈ regMap → n < r.n1 → m < r.n2 → mbxTarget r = false →
      s.mayWrite q r n m v → exec (.registerWrite q 4 (BitVec.ofNat 32 (r.addr n m)) v) s
        = .next ((regWrite r n m v (knotDirty (r.addr n m) s)).answer (.access .ok 0)))
  ∧ (∀ (q : Req) (k : Nat) (a v : Word) (s : State),
      exec (.registerWrite q k a v) s = exec (.sramPartialWrite q a (leBytes k v.toNat) .none) s)
  ∧ (∀ (q : Req) (m : MBox) (w : Fin 16) (v : Word) (s : State), s.busUp = true → mbxCause s m (s.identOf q) false = 0 →
      s.reaches q (if w = 0 then R.MBX_W0 else R.MBX_W) m (w.val - 1) true → exec (.mailboxWordWrite q m w v none) s
        = .next ((if w = 0 then s.writePlain R.MBX_W0 v m else s.writePlain R.MBX_W v m (w.val - 1)).answer (.access .ok 0)))
  ∧ (∀ (q : Req) (m : MBox) (o : Fin 1024) (w : Fin 16) (v : Word) (s t : State), s.busUp = true →
      sramCheck q 4 (stagingBase m + 4 * o) true s = .ok →
      (if q = .cleat then s.flag F.MBX_STAT_STG_BUSY m = false else stagingCause s m (s.identOf q) = 0) →
      s.eccRead (stagingBase m + 4 * o) (reqNum q) .none = (true, t) → exec (.mailboxWordWrite q m w v (some o)) s
        = .next ((t.setBytes (stagingBase m + 4 * o) (leBytes 4 v.toNat)).answer (.access .ok 0)))
  ∧ (∀ (q : Req) (m : MBox) (s : State), s.reaches q R.MBX_DB m 0 true → mbxCause s m (s.identOf q) true = 0 →
      exec (.mailboxGo q m) s = .next ((mbxGo m (s.identOf q) 1 s).2.answer (.access .ok 0)))
  ∧ (∀ (q : Req) (a : Word) (bs : List Byte) (s : State), isSram a.toNat = true → s.busUp = true →
      sramCheck q bs.length a.toNat true s = .ok → ¬(0x81F60000 ≤ a.toNat ∧ a.toNat < 0x81F6F000) →
      bs.length = 8 → ∀ u, exec (.sramPartialWrite q a bs u) s = .next ((s.setBytes a.toNat bs).answer (.access .ok 0)))
  ∧ (∀ (q : Req) (a : Word) (bs : List Byte) (u : Upset) (s t : State), isSram a.toNat = true → s.busUp = true →
      sramCheck q bs.length a.toNat true s = .ok → ¬(0x81F60000 ≤ a.toNat ∧ a.toNat < 0x81F6F000) →
      bs.length ≠ 8 → s.eccRead a.toNat (reqNum q) u = (true, t) →
      exec (.sramPartialWrite q a bs u) s = .next ((t.setBytes a.toNat bs).answer (.access .ok 0)))
  ∧ (∀ (p : ReadPath) (q : Req) (k : Nat) (a : Word) (u : Upset) (s t : State), readMem p = none → readRequester p = some q →
      isSram a.toNat = true → s.busUp = true → sramCheck q k a.toNat false s = .ok →
      s.eccRead a.toNat (reqNum q) u = (true, t) →
      exec (.sramRead p k a u) s = .next (t.answer (.access .ok (BitVec.ofNat 64 (leVal (t.bytes a.toNat k))))))

/-! ## The whole machine -/

/-- A step takes the command at the front of the queue and runs it on the state with the rest of the queue; with no
command waiting one tick of time passes, which is the model's choice (log 2). -/
def Obligations.StepTakesTheFront : Prop :=
  (∀ (s : State) (c : Instr) (rest : List Instr), s.pending = c :: rest → step s = exec c { s with pending := rest })
  ∧ (∀ s : State, s.pending = [] → step s = .next s.tick)

/-- Every command has a next state in every state: none faults and none is refused. -/
def Obligations.EveryCommandAnswers : Prop :=
  ∀ (c : Instr) (s : State), ∃ t, exec c s = .next t

/-- The state after reset has its stores in their form, no queue beyond its capacity, an empty command queue, every
byte of SRAM zero, and every register at the reset value of its table. -/
def Obligations.ResetInForm : Prop :=
  State.reset.wf = true ∧ State.reset.bounded = true ∧ State.reset.pending = []
  ∧ (∀ a : Nat, State.reset.byte a = 0)
  ∧ (∀ (r : RegD) (n m : Nat), State.reset.word r n m = r.reset n m)

/-- Every step keeps the canonical form of the SRAM and of the register bank. -/
def Obligations.StepKeepsStores : Prop :=
  ∀ s t : State, s.wf = true → step s = .next t → t.wf = true

/-- No step lets a queue outgrow its capacity: 256 host completions, 64 completions of each internal ring, 64 events,
2,048 outstanding commands, 64 ECC log entries, 64 stamps of each time-stamp queue. -/
def Obligations.StepKeepsCapacities : Prop :=
  ∀ s t : State, s.bounded = true → step s = .next t → t.bounded = true

/-- OTP is one-way: a step raises its anti-rollback counters, revokes key slots, and changes nothing else of it. -/
def Obligations.StepGrowsOtp : Prop :=
  ∀ s t : State, step s = .next t → Otp.Grows s.fw.otp t.fw.otp

/-- No command touches the queue of the commands that wait. -/
def Obligations.CommandsKeepQueue : Prop :=
  ∀ (c : Instr) (s t : State), exec c s = .next t → t.pending = s.pending

/-- A write of GO that the mailbox accepts stamps the sender field with the identity of the writing requester: the
host by its password, Cleat, a Rigger core, the test port, and Hawser for the message that index 0 forwards; writes of
the message's words leave the field alone, and it reads 0 before any GO. -/
def Obligations.GoStampsSender : Prop :=
  (∀ (q : Req) (m : MBox) (s : State), Registers.wf s = true → s.reaches q R.MBX_DB m 0 true →
      mbxCause s m (s.identOf q) true = 0 →
      ∃ t, exec (.mailboxGo q m) s = .next t ∧ t.get F.MBX_W0_SENDER m = s.identOf q)
  ∧ (∀ s : State, s.identOf .host = (if s.cmis.priv then 0x02 else 0x01) ∧ s.identOf .cleat = 0x03
      ∧ (∀ c, s.identOf (.rigger c) = 0x04) ∧ s.identOf .jtag = 0x05)
  ∧ (∀ (m : MBox) (i : Fin 128) (s : State), Registers.wf s = true → mbxCause s m (0x80 + i) true = 0 →
      (mbxGo m (0x80 + i) 1 s).2.get F.MBX_W0_SENDER m = 0x80 + i)
  ∧ (∀ (m : MBox) (w : Fin 16) (ident : Nat) (v : Word) (s : State), Registers.wf s = true →
      (mbxWordWrite m w ident v s).2.get F.MBX_W0_SENDER m = s.get F.MBX_W0_SENDER m)
  ∧ (∀ m : MBox, State.reset.get F.MBX_W0_SENDER m = 0)

/-- A write to SRAM outside the staging buffers. A partial one whose read finds an uncorrectable error stores nothing,
answers a bus error and is logged, unless the log is full; any other stores its bytes and no byte besides, and a full
word has good check bits unless an injection is armed. -/
def Obligations.SramWriteMergesOrDiscards : Prop :=
  (∀ (q : Req) (a : Word) (bs : List Byte) (u : Upset) (s : State), isSram a.toNat = true → s.busUp = true →
      sramCheck q bs.length a.toNat true s = .ok → ¬(0x81F60000 ≤ a.toNat ∧ a.toNat < 0x81F6F000) → bs.length ≠ 8 →
      (s.eccRead a.toNat (reqNum q) u).1 = false →
      ∃ t, exec (.sramPartialWrite q a bs u) s = .next t ∧ t.resp = .access .uncorrectable 0 ∧ t.sram = s.sram
        ∧ ((∃ e ∈ t.ecc.log, e.mem = 0 ∧ e.addr = BitVec.ofNat 32 (a.toNat / 8 * 8) ∧ e.unc = true)
          ∨ 64 ≤ s.ecc.log.length))
  ∧ (∀ (q : Req) (a : Word) (bs : List Byte) (u : Upset) (s : State), s.wf = true → isSram a.toNat = true →
      s.busUp = true → sramCheck q bs.length a.toNat true s = .ok →
      ¬(0x81F60000 ≤ a.toNat ∧ a.toNat < 0x81F6F000) →
      (bs.length = 8 ∨ (s.eccRead a.toNat (reqNum q) u).1 = true) →
      ∃ t, exec (.sramPartialWrite q a bs u) s = .next t ∧ t.resp = .access .ok 0
        ∧ (∀ i, i < bs.length → t.byte (a.toNat + i) = bs.getD i 0)
        ∧ (∀ b, (∀ i, i < bs.length → s.phys b ≠ s.phys (a.toNat + i)) → t.byte b = s.byte b)
        ∧ (bs.length = 8 → s.flag F.ECC_INJ_CTRL_ARM = false → Bank.wf (fun _ => []) s.ecc.flips = true →
            t.flips (s.phys a.toNat) = []))

/-- Two RAW values compare by their signed difference, which is exact for events within 2^47 ns of each other, across
a wrap too. -/
def Obligations.RawComparison : Prop :=
  (∀ a b : BitVec 48, rawDiff a b = ((a.toNat : Int) - b.toNat + 2 ^ 47) % 2 ^ 48 - 2 ^ 47)
  ∧ (∀ (b : BitVec 48) (d : Int), -(2 ^ 47) ≤ d → d < 2 ^ 47 → rawDiff (b + BitVec.ofInt 48 d) b = d)

/-- A write that R27 refuses as narrow, unmapped or denied, in SRAM or elsewhere, is answered so, and changes no
register but the two that capture it and nothing else but the performance counter of refusals with its overflow flag.
-/
def Obligations.RefusedWriteChangesNothing : Prop :=
  ∀ (q : Req) (k : Nat) (a v : Word) (s : State) (e : Acc), Registers.wf s = true → s.busUp = true → e ≠ .off →
    (if isSram a.toNat then sramCheck q k a.toNat true s = e ∧ e ≠ .ok else regCheck q k a.toNat true s = .error e) →
    ∃ t, exec (.registerWrite q k a v) s = .next t ∧ t.resp = .access e 0
      ∧ { t with regs := s.regs, mon := s.mon, resp := s.resp } = s
      ∧ t.word R.TOP_DECERR_ADDR = a
      ∧ t.get F.TOP_DECERR_STAT_CAUSE = (match e with | .narrow => 1 | .unmapped => 0 | _ => 2)
      ∧ t.get F.TOP_DECERR_STAT_WRITE = 1 ∧ t.get F.TOP_DECERR_STAT_REQ = reqNum q
      ∧ (∀ (r : RegD) (n m : Nat), r.addr n m ≠ 0x10000020 → r.addr n m ≠ 0x10000024 →
          (∀ k : Fin 8, r.addr n m ≠ R.PMU_OVF.addr k 0) → t.word r n m = s.word r n m)

/-- A granted write to a register whose fields do no more than store: the register holds what its field types say, and
no other register changes, but for the DIRTY mark of a knot that stages its address. -/
def Obligations.RegisterWriteFrame : Prop :=
  ∀ (q : Req) (r : RegD) (n m : Nat) (v : Word) (s : State), Registers.wf s = true → r ∈ regMap → n < r.n1 → m < r.n2 →
    mbxTarget r = false → (writeHooks.all fun h => h.1.base != r.base) = true → s.mayWrite q r n m v →
    (∀ k : Fin 8, r.addr n m ≠ R.KNT_SLOT_STAT.addr k 0) →
    ∃ t, exec (.registerWrite q 4 (BitVec.ofNat 32 (r.addr n m)) v) s = .next t ∧ t.resp = .access .ok 0
      ∧ t.word r n m = r.fields.foldl (writeField (s.word r n m) v) (s.word r n m)
      ∧ { t with regs := s.regs, resp := s.resp } = s
      ∧ (∀ (x : RegD) (i j : Nat), x.addr i j ≠ r.addr n m → (∀ k : Fin 8, x.addr i j ≠ R.KNT_SLOT_STAT.addr k 0) →
          t.word x i j = s.word x i j)

/-- A completion that finds its ring full is dropped: the entries stay, its SEQ number is used up, and the first one
dropped since the ring was last not full posts event 0x0A with that number; a ring with room takes it at its end. -/
def Obligations.FullRingDropsCompletion : Prop :=
  (∀ (s : State) (w0 : Word) (m : Nat) (st orig : Status) (v : Word) (fin : Bool), bitsOf w0 31 24 ≤ 2 →
      256 ≤ s.mbx.host.entries.length →
      (s.postCpl w0 m st orig v fin).mbx.host = { s.mbx.host with gen := s.mbx.host.gen + 1, dropping := true }
      ∧ (s.mbx.host.dropping = true → (s.postCpl w0 m st orig v fin).mbx.events = s.mbx.events)
      ∧ (s.mbx.host.dropping = false → s.mbx.events.length < 64 → ∃ e : Evt,
          (s.postCpl w0 m st orig v fin).mbx.events = s.mbx.events ++ [e] ∧ e.code = 0x0A
            ∧ e.arg = s.mbx.host.gen.setWidth 32))
  ∧ (∀ (s : State) (w0 : Word) (m : Nat) (st orig : Status) (v : Word) (fin : Bool), bitsOf w0 31 24 ≤ 2 →
      s.mbx.host.entries.length < 256 →
      (s.postCpl w0 m st orig v fin).mbx.host.entries = s.mbx.host.entries ++
          [{ w0 := w0, status := st, orig := orig, epoch := s.fw.epoch, result := v, final := fin, m := m,
             seq := s.mbx.host.gen }]
      ∧ (s.postCpl w0 m st orig v fin).mbx.host.gen = s.mbx.host.gen + 1)
  ∧ (∀ (s : State) (w0 : Word) (m : Nat) (st orig : Status) (v : Word) (fin : Bool) (k : Fin 3),
      bitsOf w0 31 24 = 3 + k → 64 ≤ s.mbx.internal[k].entries.length →
      (s.postCpl w0 m st orig v fin).mbx.internal
        = s.mbx.internal.set k { s.mbx.internal[k] with gen := s.mbx.internal[k].gen + 1, dropping := true })

/-- A POR (a brown-out) or an AON reset asserts the reset, and its release boots: all SRAM reads zero with no flipped
bit, and the reset epoch has counted one. -/
def Obligations.ResetIsFullBoot : Prop :=
  (∀ s : State, s.pwr.vin = true → s.pwr.held = false →
      ∃ t, exec .aonWatchdogExpiry s = .next t ∧ t.pwr.held = true ∧ t.pwr.vin = true)
  ∧ (∀ (v : Bool) (s : State), s.pwr.vin = true → ∃ t, exec (.brownOut v) s = .next t ∧ t.pwr.held = true)
  ∧ (∀ (scl sda : Bool) (u : SelfTest) (s : State), s.pwr.held = true → s.pwr.vin = true →
      ∃ t, exec (.porRelease scl sda u) s = .next t ∧ t.pwr.held = false ∧ (∀ a, t.byte a = 0) ∧ t.ecc.flips = []
        ∧ t.fw.epoch = s.fw.epoch + 1)

/-! ## Rules and frames -/

/-- An access is judged by its width and alignment, its mapping, the firewall, the power of its block and the RWL
policy, in this order; the first check that fails decides the answer and what is captured: in the TOP registers with
its CAUSE, or, for a block that is off, in the PWR_OFFACC registers. A refusal by a mailbox is captured in neither. -/
def Obligations.AccessesJudgedInOrder : Prop :=
  (∀ (q : Req) (k : Nat) (a v : Word) (s : State), Registers.wf s = true → s.busUp = true → isSram a.toNat = false →
      (k ≠ 4 ∨ a.toNat % 4 ≠ 0) →
      ∃ t, exec (.registerWrite q k a v) s = .next t ∧ t.resp = .access .narrow 0 ∧ t.captured q a 1 true ∧ s.sameOff t)
  ∧ (∀ (q : Req) (a v : Word) (s : State), Registers.wf s = true → s.busUp = true → a.toNat % 4 = 0 →
      isSram a.toNat = false → findReg a.toNat = none →
      ∃ t, exec (.registerWrite q 4 a v) s = .next t ∧ t.resp = .access .unmapped 0 ∧ t.captured q a 0 true ∧ s.sameOff t)
  ∧ (∀ (q : Req) (a v : Word) (r : RegD) (n m : Nat) (s : State), Registers.wf s = true → s.busUp = true →
      a.toNat % 4 = 0 → findReg a.toNat = some (r, n, m) → regGrant s q r n true = false →
      ∃ t, exec (.registerWrite q 4 a v) s = .next t ∧ t.resp = .access .denied 0 ∧ t.captured q a 2 true ∧ s.sameOff t)
  ∧ (∀ (q : Req) (a v : Word) (r : RegD) (n m : Nat) (s : State), Registers.wf s = true → s.busUp = true →
      a.toNat % 4 = 0 → findReg a.toNat = some (r, n, m) → regGrant s q r n true = true → blockOff s a.toNat = true →
      ∃ t, exec (.registerWrite q 4 a v) s = .next t ∧ t.resp = .access .off 0 ∧ t.offCaptured q a true ∧ s.sameTop t)
  ∧ (∀ (q : Req) (a v : Word) (r : RegD) (n m : Nat) (s : State), Registers.wf s = true → s.busUp = true →
      a.toNat % 4 = 0 → findReg a.toNat = some (r, n, m) → regGrant s q r n true = true → blockOff s a.toNat = false →
      mbxTarget r = false → rwlChanges s r n m v = true → rwlAllows s q r n = false →
      ∃ t, exec (.registerWrite q 4 a v) s = .next t ∧ t.resp = .access .denied 0 ∧ t.captured q a 2 true ∧ s.sameOff t)
  ∧ (∀ (q : Req) (a v : Word) (r : RegD) (n m : Nat) (s : State), Registers.wf s = true → s.busUp = true →
      a.toNat % 4 = 0 → findReg a.toNat = some (r, n, m) → regGrant s q r n true = true → blockOff s a.toNat = false →
      mbxTarget r = false → (rwlChanges s r n m v = true → rwlAllows s q r n = true) →
      ∃ t, exec (.registerWrite q 4 a v) s = .next t ∧ t.resp = .access .ok 0)
  ∧ (∀ (q : Req) (a v : Word) (s t : State), Registers.wf s = true → s.busUp = true →
      exec (.registerWrite q 4 a v) s = .next t → t.resp = .access .mbx 0 → s.sameTop t ∧ s.sameOff t)
  ∧ (∀ (q : Req) (k : Nat) (a : Word) (s : State), Registers.wf s = true → s.busUp = true → (k ≠ 4 ∨ a.toNat % 4 ≠ 0) →
      isSram a.toNat = false →
      (busRead q k a.toNat s).1 = (.narrow, 0) ∧ (busRead q k a.toNat s).2.captured q a 1 false
        ∧ s.sameOff (busRead q k a.toNat s).2)
  ∧ (∀ (q : Req) (a : Word) (s : State), Registers.wf s = true → s.busUp = true → a.toNat % 4 = 0 →
      isSram a.toNat = false → findReg a.toNat = none →
      (busRead q 4 a.toNat s).1 = (.unmapped, 0) ∧ (busRead q 4 a.toNat s).2.captured q a 0 false
        ∧ s.sameOff (busRead q 4 a.toNat s).2)
  ∧ (∀ (q : Req) (a : Word) (r : RegD) (n m : Nat) (s : State), Registers.wf s = true → s.busUp = true →
      a.toNat % 4 = 0 → findReg a.toNat = some (r, n, m) → regGrant s q r n false = false →
      (busRead q 4 a.toNat s).1 = (.denied, 0) ∧ (busRead q 4 a.toNat s).2.captured q a 2 false
        ∧ s.sameOff (busRead q 4 a.toNat s).2)
  ∧ (∀ (q : Req) (a : Word) (r : RegD) (n m : Nat) (s : State), Registers.wf s = true → s.busUp = true →
      a.toNat % 4 = 0 → findReg a.toNat = some (r, n, m) → regGrant s q r n false = true → blockOff s a.toNat = true →
      (busRead q 4 a.toNat s).1 = (.off, 0x0FF00FF0) ∧ (busRead q 4 a.toNat s).2.offCaptured q a false
        ∧ s.sameTop (busRead q 4 a.toNat s).2)
  ∧ (∀ (p : ReadPath) (q : Req) (k : Nat) (a : Word) (u : Upset) (s : State), readRequester p = some q →
      isSram a.toNat = false → exec (.sramRead p k a u) s = .next ((busRead q k a.toNat s).2.answer
        (.access (busRead q k a.toNat s).1.1 (BitVec.ofNat 64 (leVal (leBytes k (busRead q k a.toNat s).1.2.toNat))))))
  ∧ (∀ (q : Req) (a : Word) (bs : List Byte) (u : Upset) (s : State), Registers.wf s = true → s.busUp = true →
      isSram a.toNat = true → (bs.length ∈ [1, 2, 4] ∨ (bs.length = 8 ∧ (q = .dma ∨ ∃ c, q = .rigger c)) →
        a.toNat % bs.length ≠ 0) →
      ∃ t, exec (.sramPartialWrite q a bs u) s = .next t ∧ t.resp = .access .narrow 0 ∧ t.captured q a 1 true
        ∧ s.sameOff t)
  ∧ (∀ (q : Req) (a : Word) (bs : List Byte) (u : Upset) (s : State), Registers.wf s = true → s.busUp = true →
      isSram a.toNat = true → (bs.length ∈ [1, 2, 4] ∧ a.toNat % bs.length = 0) → sramGrant s q a.toNat true = false →
      ∃ t, exec (.sramPartialWrite q a bs u) s = .next t ∧ t.resp = .access .denied 0 ∧ t.captured q a 2 true
        ∧ s.sameOff t)
  ∧ (∀ (q : Req) (a : Word) (bs : List Byte) (u : Upset) (s : State), Registers.wf s = true → s.busUp = true →
      isSram a.toNat = true → (bs.length ∈ [1, 2, 4] ∧ a.toNat % bs.length = 0) → sramGrant s q a.toNat true = true →
      blockOff s a.toNat = true →
      ∃ t, exec (.sramPartialWrite q a bs u) s = .next t ∧ t.resp = .access .off 0 ∧ t.offCaptured q a true
        ∧ s.sameTop t)

/-- The field types, at a register whose accesses do no more than store and show its fields: a granted write sets RW
and RWL fields to the written bits, clears the RW1C bits written 1, and leaves RO, RC and WO fields and reserved bits
alone; a granted read shows WO fields as zero, and the RC fields it shows are zero after it. A write that the RWL
policy refuses changes no register but those that capture it. -/
def Obligations.FieldTypes : Prop :=
  (∀ (q : Req) (r : RegD) (n m : Nat) (v : Word) (s : State), Registers.wf s = true → r ∈ regMap → n < r.n1 → m < r.n2 →
    mbxTarget r = false → (writeHooks.all fun h => h.1.base != r.base) = true → s.mayWrite q r n m v →
    (∀ k : Fin 8, r.addr n m ≠ R.KNT_SLOT_STAT.addr k 0) →
    ∃ t, exec (.registerWrite q 4 (BitVec.ofNat 32 (r.addr n m)) v) s = .next t ∧ t.resp = .access .ok 0
      ∧ (∀ f ∈ r.fields, bitsOf (t.word r n m) f.hi f.lo = match f.kind with
          | .rw | .rwl => bitsOf v f.hi f.lo
          | .rw1c => bitsOf (s.word r n m &&& ~~~v) f.hi f.lo
          | .ro | .rc | .wo => bitsOf (s.word r n m) f.hi f.lo)
      ∧ (∀ i, (∀ f ∈ r.fields, i < f.lo ∨ f.hi < i) → (t.word r n m).getLsbD i = (s.word r n m).getLsbD i))
  ∧ (∀ (q : Req) (r : RegD) (n m : Nat) (s : State), Registers.wf s = true → r ∈ regMap → n < r.n1 → m < r.n2 →
    (readHooks.all fun h => h.1.base != r.base) = true → s.reaches q r n m false →
    ∃ w t, busRead q 4 (r.addr n m) s = ((.ok, w), t)
      ∧ (∀ f ∈ r.fields, bitsOf w f.hi f.lo = if f.kind = .wo then 0 else bitsOf (regView s r n m) f.hi f.lo)
      ∧ (∀ f ∈ r.fields, bitsOf (t.word r n m) f.hi f.lo =
          if f.kind = .rc then 0 else bitsOf (s.word r n m) f.hi f.lo)
      ∧ { t with regs := s.regs } = s
      ∧ (∀ (x : RegD) (i j : Nat), x.addr i j ≠ r.addr n m → t.word x i j = s.word x i j))
  ∧ (∀ (q : Req) (r : RegD) (n m : Nat) (v : Word) (s : State), Registers.wf s = true → r ∈ regMap → n < r.n1 → m < r.n2 →
    mbxTarget r = false → s.reaches q r n m true → rwlChanges s r n m v = true → rwlAllows s q r n = false →
    ∃ t, exec (.registerWrite q 4 (BitVec.ofNat 32 (r.addr n m)) v) s = .next t ∧ t.resp = .access .denied 0
      ∧ { t with regs := s.regs, mon := s.mon, resp := s.resp } = s
      ∧ (∀ (x : RegD) (i j : Nat), x.addr i j ≠ 0x10000020 → x.addr i j ≠ 0x10000024 →
          (∀ k : Fin 8, x.addr i j ≠ R.PMU_OVF.addr k 0) → t.word x i j = s.word x i j))

/-- An SRAM read by a requester: a word with one flipped bit is corrected, answered and written back, and the error is
logged unless the log is full; a word with two or more is answered as a bus error and logged likewise; no byte of SRAM
changes. -/
def Obligations.SramReadCorrects : Prop :=
  ∀ (p : ReadPath) (q : Req) (k : Nat) (a : Word) (u : Upset) (s : State), readRequester p = some q → q ≠ .dma →
    (∀ c, p ≠ .riggerFetch c) → isSram a.toNat = true → s.busUp = true → sramCheck q k a.toNat false s = .ok →
    Bank.wf (fun _ => []) s.ecc.flips = true →
    ∃ t, exec (.sramRead p k a u) s = .next t ∧ t.sram = s.sram ∧ t.ecc.retired = s.ecc.retired
      ∧ match upsetAdd u (s.flips (s.phys (a.toNat / 8 * 8))) with
        | [] => t.resp = .access .ok (BitVec.ofNat 64 (leVal (s.bytes a.toNat k)))
            ∧ t.flips (s.phys (a.toNat / 8 * 8)) = [] ∧ t.ecc.log = s.ecc.log
        | [_] => t.resp = .access .ok (BitVec.ofNat 64 (leVal (s.bytes a.toNat k)))
            ∧ t.flips (s.phys (a.toNat / 8 * 8)) = []
            ∧ ((∃ e ∈ t.ecc.log, e.mem = 0 ∧ e.addr = BitVec.ofNat 32 (a.toNat / 8 * 8)) ∨ 64 ≤ s.ecc.log.length)
        | l => t.resp = .access .uncorrectable 0 ∧ t.flips (s.phys (a.toNat / 8 * 8)) = l
            ∧ ((∃ e ∈ t.ecc.log, e.mem = 0 ∧ e.addr = BitVec.ofNat 32 (a.toNat / 8 * 8) ∧ e.unc = true)
              ∨ 64 ≤ s.ecc.log.length)

/-- A write of a word, the doorbell or the staging buffer that a mailbox refuses sets ERROR and ERR_CAUSE, 0x02 before
0x01 before 0x03, answers a bus error, and changes nothing else. -/
def Obligations.MailboxRefusals : Prop :=
  (∀ (q : Req) (m : MBox) (w : Fin 16) (v : Word) (s : State), Registers.wf s = true →
      s.reaches q (if w = 0 then R.MBX_W0 else R.MBX_W) m (w.val - 1) true → mbxAccepts m (s.identOf q) = false →
      ∃ t, exec (.mailboxWordWrite q m w v none) s = .next t ∧ s.mbxRefused t m 0x02)
  ∧ (∀ (q : Req) (m : MBox) (w : Fin 16) (v : Word) (s : State), Registers.wf s = true →
      s.reaches q (if w = 0 then R.MBX_W0 else R.MBX_W) m (w.val - 1) true → mbxAccepts m (s.identOf q) = true →
      s.flag F.MBX_STAT_FULL m = true →
      ∃ t, exec (.mailboxWordWrite q m w v none) s = .next t ∧ s.mbxRefused t m 0x01)
  ∧ (∀ (q : Req) (m : MBox) (s : State), Registers.wf s = true → s.reaches q R.MBX_DB m 0 true →
      mbxAccepts m (s.identOf q) = false → ∃ t, exec (.mailboxGo q m) s = .next t ∧ s.mbxRefused t m 0x02)
  ∧ (∀ (q : Req) (m : MBox) (s : State), Registers.wf s = true → s.reaches q R.MBX_DB m 0 true →
      mbxAccepts m (s.identOf q) = true → s.flag F.MBX_STAT_FULL m = true →
      ∃ t, exec (.mailboxGo q m) s = .next t ∧ s.mbxRefused t m 0x01)
  ∧ (∀ (q : Req) (m : MBox) (s : State), Registers.wf s = true → s.reaches q R.MBX_DB m 0 true →
      mbxAccepts m (s.identOf q) = true → s.flag F.MBX_STAT_FULL m = false → s.flag F.MBX_STAT_STG_BUSY m = true →
      needsStaging (s.mbxMessage m) = true → ∃ t, exec (.mailboxGo q m) s = .next t ∧ s.mbxRefused t m 0x03)
  ∧ (∀ (q : Req) (m : MBox) (o : Fin 1024) (w : Fin 16) (v : Word) (s : State), Registers.wf s = true → s.busUp = true →
      sramCheck q 4 (stagingBase m + 4 * o) true s = .ok → q ≠ .cleat → mbxAccepts m (s.identOf q) = false →
      ∃ t, exec (.mailboxWordWrite q m w v (some o)) s = .next t ∧ s.mbxRefused t m 0x02)
  ∧ (∀ (q : Req) (m : MBox) (o : Fin 1024) (w : Fin 16) (v : Word) (s : State), Registers.wf s = true → s.busUp = true →
      sramCheck q 4 (stagingBase m + 4 * o) true s = .ok → (q ≠ .cleat → mbxAccepts m (s.identOf q) = true) →
      s.flag F.MBX_STAT_STG_BUSY m = true →
      ∃ t, exec (.mailboxWordWrite q m w v (some o)) s = .next t ∧ s.mbxRefused t m 0x03)

/-- A host's message whose tag stands in its replay window with a final completion is taken and not executed: the
cached outcome is posted again with status REPLAYED and the cached status beside it, and the outstanding table and the
windows stay as they are. -/
def Obligations.DuplicateIsReplayed : Prop :=
  ∀ (m : Nat) (c : Cmd) (e : WinEntry) (st : Status) (res : Word) (s : State), Registers.wf s = true →
    s.hws.inbox = [] → s.flag F.MBX_ENG_STAT_RUNNING = true → s.nextFull = some m →
    c = { id := 0, m := m, words := s.mbxMessage m, locked := needsStaging (s.mbxMessage m) } →
    c.bits 1 15 1 = 0 → opcodes.contains c.opcode = true → lenAccepted c = true →
    (s.allow c.opcode).getLsbD (classOf c.ident) = true → c.tag ≠ 0 → (c.ident = 1 ∨ c.ident = 2) →
    s.windowFind c.ident c.tag = some e → e.final = some (st, res) → s.mbx.host.entries.length < 256 →
    ∃ t, exec .mailboxTake s = .next t
      ∧ t.mbx.host.entries = s.mbx.host.entries ++
          [{ w0 := c.word 0, status := .replayed, orig := st, epoch := s.fw.epoch, result := res, final := true, m := m,
             seq := s.mbx.host.gen }]
      ∧ t.mbx.outstanding = s.mbx.outstanding ∧ t.mbx.windows = s.mbx.windows ∧ t.flag F.MBX_STAT_FULL m = false
      ∧ (needsStaging (s.mbxMessage m) = true → t.flag F.MBX_STAT_STG_BUSY m = false)

/-- KNOT_OPEN takes the lowest-numbered FREE slot, whose generation goes up by one modulo 256, and answers the handle
of both; with none FREE it completes with QUEUE_FULL. A KNOT_STAGE of at most six inline entries or a KNOT_CINCH whose
handle names no knot completes with CANCELLED. -/
def Obligations.KnotHandles : Prop :=
  (∀ (m : MBox) (c : Cmd) (k : Nat) (s : State), Registers.wf s = true → s.fronts m 0x40 c → freeKnot s = some k →
      k < 8 ∧ s.knotState k = 0 ∧ (∀ j, j < k → s.knotState j ≠ 0)
      ∧ ∃ o : State, exec (.knotOpen m) s
          = .next (o.finish c .done (k + (s.get F.KNT_SLOT_STAT_GEN k + 1) % 256 * 256))
        ∧ o.knotState k = 1 ∧ o.get F.KNT_SLOT_STAT_GEN k = (s.get F.KNT_SLOT_STAT_GEN k + 1) % 256
        ∧ o.get F.KNT_SLOT_INFO_OWNER k = c.ident ∧ (o.knot k).entries = []
        ∧ o.named (k + (s.get F.KNT_SLOT_STAT_GEN k + 1) % 256 * 256) = some k
        ∧ { o with regs := s.regs, knt := s.knt } = s)
  ∧ (∀ (m : MBox) (c : Cmd) (s : State), s.fronts m 0x40 c → (∀ k, k < 8 → s.knotState k ≠ 0) →
      exec (.knotOpen m) s = .next (s.finish c .queueFull))
  ∧ (∀ (m : MBox) (c : Cmd) (s : State), s.fronts m 0x41 c → c.bits 2 18 16 ≤ 6 → s.named (c.bits 2 15 0) = none →
      exec (.knotStage m) s = .next (s.finish c .cancelled))
  ∧ (∀ (m : MBox) (c : Cmd) (s : State), s.fronts m 0x42 c → c.bits 3 1 0 = 0 → s.named (c.bits 2 15 0) = none →
      exec (.knotCinchImmediate m) s = .next (s.finish c .cancelled))
  ∧ (∀ (m : MBox) (c : Cmd) (s : State), s.fronts m 0x42 c → c.bits 3 1 0 = 1 → s.named (c.bits 2 15 0) = none →
      exec (.knotCinchAm m) s = .next (s.finish c .cancelled))
  ∧ (∀ (m : MBox) (c : Cmd) (s : State), s.fronts m 0x42 c → c.bits 3 1 0 = 2 → s.named (c.bits 2 15 0) = none →
      exec (.knotCinchTime m) s = .next (s.finish c .cancelled))
  ∧ (∀ (m : MBox) (c : Cmd) (s : State), s.fronts m 0x42 c → c.bits 3 1 0 = 3 → (s.leads = true ∨ s.hws.leader = none) →
      s.named (c.bits 2 15 0) = none → exec (.knotCinchGang m) s = .next (s.finish c .cancelled))

/-- A slew tick moves its channel by no more than the step in use, and no other channel; on a laser channel that step
is the smaller of STEP, where it is not 0, and MAX_SLEW times DIV, in LSBs of the range in use. -/
def Obligations.SlewStep : Prop :=
  (∀ (c : Fin 45) (k : Nat) (s t : State), Registers.wf s = true → chanStep s c = some k → exec (.slewTick c) s = .next t →
      (t.chan c).slewed ≤ (s.chan c).slewed + k ∧ (s.chan c).slewed ≤ (t.chan c).slewed + k)
  ∧ (∀ (c d : Fin 45) (s t : State), d ≠ c → exec (.slewTick c) s = .next t → (t.chan d).slewed = (s.chan d).slewed)
  ∧ (∀ (n : Line) (s : State), ∃ k, chanStep s (5 * n) = some k
      ∧ k ≤ s.get F.OLC_SAFE_LIM_MAX_SLEW n * max 1 (min 1000 (s.get F.OLC_CH_CFG_DIV (5 * n)))
          * (if (s.chan (5 * n)).range = 0 then 4 else 1)
      ∧ (s.get F.OLC_CH_CFG_STEP (5 * n) ≠ 0 → k ≤ s.get F.OLC_CH_CFG_STEP (5 * n)))

/-- A safety fault whose condition the latest conversions show cuts every lane it is about that emits: the lane is OFF
with CAUSE 1 and its FAULT bit, the laser output stands at zero without slewing, and every request for it is refused;
the MB and HT channels keep their codes, and the other lanes their states. Where no condition shows, nothing changes.
-/
def Obligations.SafetyFaultCuts : Prop :=
  ∀ (b : Fin 6) (n : Line) (s t : State), Registers.wf s = true → b ≠ 5 → exec (.safetyFault b n) s = .next t →
    (s.faultShows b n = false → t = s)
    ∧ (∀ k : Line, s.faultShows b n = true → s.emits k → (b.val ≤ 1 → k = n) →
      t.laneState k = 0 ∧ t.get F.OLC_STAT_CAUSE k = 1 ∧ (t.get F.OLC_FAULT_FAULT k).testBit b = true
        ∧ (t.chan (5 * k)).slewed = 0 ∧ t.faulted k = true)
    ∧ (∀ k : Line, (s.emits k = false ∨ (b.val ≤ 1 ∧ k ≠ n)) → t.laneState k = s.laneState k)
    ∧ (∀ c : Fin 45, c.val % 5 ≠ 0 → t.chan c = s.chan c)

/-- A command that stores nothing and retires no page leaves every byte of SRAM as it reads. -/
def Obligations.OnlyStoringCommandsStore : Prop :=
  ∀ (c : Instr) (s t : State), c.stores = false → exec c s = .next t → t.sram = s.sram ∧ ∀ a : Nat, t.byte a = s.byte a

/-- The frame of the commands of the lanes: outside the registers, the monitors, the lanes and the optical state
nothing changes; of those that move data or the Lanyard, outside these, the Lanyard and the counter behind the free
values. -/
def Obligations.LaneCommandsFrame : Prop :=
  (∀ (c : Instr) (s t : State), c.onLanes = true → exec c s = .next t →
    { t with regs := s.regs, mon := s.mon, lanes := s.lanes, optics := s.optics } = s)
  ∧ (∀ (c : Instr) (s t : State), c.onLines = true → exec c s = .next t →
    { t with regs := s.regs, mon := s.mon, lanes := s.lanes, optics := s.optics, lyd := s.lyd, fresh := s.fresh } = s)

/-- The frame of the commands of the mailboxes, the monitors and Hawser: outside these, the registers and the counter
behind the free values nothing changes. -/
def Obligations.MailboxCommandsFrame : Prop :=
  ∀ (c : Instr) (s t : State), c.onMailboxes = true → exec c s = .next t →
    { t with regs := s.regs, mbx := s.mbx, mon := s.mon, hws := s.hws, fresh := s.fresh } = s

/-- The frame of the commands of the management interface: outside it, the firmware state, the registers, the lanes
and the counter behind the free values nothing changes. -/
def Obligations.ManagementCommandsFrame : Prop :=
  ∀ (c : Instr) (s t : State), c.onManagement = true → exec c s = .next t →
    { t with regs := s.regs, cmis := s.cmis, fw := s.fw, lanes := s.lanes, fresh := s.fresh } = s

end
end

