-- ==== Sys2Proof/Laws/Access.lean ====
section
/-! SUPPORT. Sys2Proof/Laws/Access.lean: each address of the register map names one register (R25), and an access that
the checks of R27 let through does what its register says. -/

namespace Sys2Proof.Machine

/-! ## The register map -/

/-- An address above every repetition of r. -/
def RegD.top (r : RegD) : Nat := r.base + r.s1 * r.n1 + r.s2 * r.n2 + 1

/-- No repetition of r is a repetition of x. -/
def RegD.apart (r x : RegD) : Bool :=
  decide (x.top ≤ r.base) || decide (r.top ≤ x.base)
    || (List.range r.n1).all fun n => (List.range r.n2).all fun m => (x.index? (r.addr n m)).isNone

/-- Every repetition of r is found at its own address, a multiple of 4. -/
def RegD.found (r : RegD) : Bool :=
  (List.range r.n1).all fun n => (List.range r.n2).all fun m =>
    decide (r.index? (r.addr n m) = some (n, m)) && decide (r.addr n m % 4 = 0)

/-- Each register of the list is found at its addresses, and none after it lies at an address of one before. -/
def mapApart (l : List RegD) : Bool :=
  match l with
  | [] => true
  | x :: t => x.found && t.all (fun r => r.apart x) && mapApart t

theorem regMap_apart : mapApart regMap = true := by decide +kernel

theorem RegD.index?_low {x : RegD} {a n m : Nat} (h : x.index? a = some (n, m)) : x.base ≤ a ∧ a < x.top := by
  unfold RegD.index? at h
  split at h
  · cases h
  · rename_i hl
    simp only [Option.ite_none_right_eq_some, Option.some.injEq, Prod.mk.injEq] at h
    obtain ⟨hc, h1, h2⟩ := h
    rw [h1, h2] at hc
    simp only [Bool.and_eq_true, decide_eq_true_eq] at hc
    obtain ⟨⟨hn, hm⟩, hd⟩ := hc
    have a1 := Nat.mul_le_mul_left x.s1 (Nat.le_of_lt hn)
    have a2 := Nat.mul_le_mul_left x.s2 (Nat.le_of_lt hm)
    unfold RegD.top
    omega

theorem RegD.addr_low {r : RegD} {n m : Nat} (hn : n < r.n1) (hm : m < r.n2) : r.base ≤ r.addr n m ∧ r.addr n m < r.top := by
  have a1 := Nat.mul_le_mul_left r.s1 (Nat.le_of_lt hn)
  have a2 := Nat.mul_le_mul_left r.s2 (Nat.le_of_lt hm)
  unfold RegD.addr RegD.top
  omega

theorem RegD.index?_apart {r x : RegD} {n m : Nat} (h : r.apart x = true) (hn : n < r.n1) (hm : m < r.n2) :
    x.index? (r.addr n m) = none := by
  cases hi : x.index? (r.addr n m) with
  | none => rfl
  | some i =>
    have hx := RegD.index?_low hi
    have hr := RegD.addr_low hn hm
    simp only [RegD.apart, Bool.or_eq_true, decide_eq_true_eq, List.all_eq_true, List.mem_range] at h
    rcases h with (h | h) | h
    · omega
    · omega
    · have := h n hn m hm
      simp [hi] at this

theorem RegD.found_at {r : RegD} {n m : Nat} (h : r.found = true) (hn : n < r.n1) (hm : m < r.n2) :
    r.index? (r.addr n m) = some (n, m) ∧ r.addr n m % 4 = 0 := by
  simp only [RegD.found, List.all_eq_true, List.mem_range, Bool.and_eq_true, decide_eq_true_eq] at h
  exact h n hn m hm

theorem findSome_apart {r : RegD} {n m : Nat} (hn : n < r.n1) (hm : m < r.n2) (l : List RegD) (h : mapApart l = true)
    (hr : r ∈ l) :
    l.findSome? (fun x => (x.index? (r.addr n m)).map fun i => (x, i.1, i.2)) = some (r, n, m) ∧ r.addr n m % 4 = 0 := by
  induction l with
  | nil => cases hr
  | cons x t ih =>
    simp only [mapApart, Bool.and_eq_true, List.all_eq_true] at h
    obtain ⟨⟨hf, ha⟩, ht⟩ := h
    rcases List.mem_cons.mp hr with rfl | hr
    · obtain ⟨hi, h4⟩ := RegD.found_at hf hn hm
      simp [hi, h4]
    · have hx := RegD.index?_apart (ha r hr) hn hm
      simpa [List.findSome?_cons, hx] using ih ht hr

/-- Each repetition of each register is what its address finds. -/
theorem findReg_addr {r : RegD} {n m : Nat} (hr : r ∈ regMap) (hn : n < r.n1) (hm : m < r.n2) :
    findReg (r.addr n m) = some (r, n, m) :=
  (findSome_apart hn hm regMap regMap_apart hr).1

/-- Register addresses are multiples of 4. -/
theorem addr_mod_four {r : RegD} {n m : Nat} (hr : r ∈ regMap) (hn : n < r.n1) (hm : m < r.n2) : r.addr n m % 4 = 0 :=
  (findSome_apart hn hm regMap regMap_apart hr).2

/-! ## Accesses that the checks let through -/

theorem leBytes_length (k v : Nat) : (leBytes k v).length = k := by simp [leBytes]

theorem leVal_cons (b : Byte) (l : List Byte) : leVal (b :: l) = leVal l * 256 + b.toNat := rfl

theorem leBytes_succ (k v : Nat) : leBytes (k + 1) v = BitVec.ofNat 8 v :: leBytes k (v / 256) := by
  simp only [leBytes, List.range_succ_eq_map, List.map_cons, List.map_map, Nat.pow_zero, Nat.div_one]
  congr 2
  funext i
  simp only [Function.comp, Nat.succ_eq_add_one, Nat.pow_succ', Nat.div_div_eq_div_mul]

/-- Little-endian bytes give their value back (R5). -/
theorem leVal_leBytes (k v : Nat) : leVal (leBytes k v) = v % 256 ^ k := by
  induction k generalizing v with
  | zero => simp [leBytes, leVal, Nat.mod_one]
  | succ k ih =>
    rw [leBytes_succ, leVal_cons, ih, BitVec.toNat_ofNat, Nat.pow_succ' (m := 256), Nat.mod_mul]
    omega

/-- No register lies in SRAM (R25). -/
theorem findReg_low {a : Nat} {x : RegD × Nat × Nat} (h : findReg a = some x) : isSram a = false := by
  obtain ⟨r, hr, h⟩ := List.exists_of_findSome?_eq_some h
  have ht : regMap.all (fun r => decide (r.top ≤ 0x80000000)) = true := by decide +kernel
  have ht := of_decide_eq_true (List.all_eq_true.1 ht r hr)
  cases hi : r.index? a with
  | none => rw [hi] at h; cases h
  | some i =>
    have := (RegD.index?_low (n := i.1) (m := i.2) hi).2
    simp only [isSram, Bool.and_eq_false_iff, decide_eq_false_iff_not]
    omega

/-- Outside SRAM a write of 4 bytes is a register write (R25). -/
theorem anyWrite_reg (q : Req) {a : Nat} (v : Word) (u : Upset) (s : State) (h : isSram a = false) :
    anyWrite q a (leBytes 4 v.toNat) u s = busWrite q 4 a v s := by
  have hv : BitVec.ofNat 32 (leVal (leBytes 4 v.toNat)) = v := by
    rw [leVal_leBytes]
    apply BitVec.eq_of_toNat_eq
    rw [BitVec.toNat_ofNat]
    have := v.isLt
    omega
  simp only [anyWrite, h, leBytes_length, hv, Bool.false_eq_true, if_false]

/-- A write to a register that is no mailbox's. -/
theorem accWrite_done {q : Req} {r : RegD} {n m : Nat} {v : Word} {s : State} (hr : r ∈ regMap) (hn : n < r.n1)
    (hm : m < r.n2) (hb : mbxTarget r = false) (h : s.mayWrite q r n m v) :
    accWrite q r n m v s = .next ((regWrite r n m v (knotDirty (r.addr n m) s)).answer (.access .ok 0)) := by
  obtain ⟨⟨hu, hg, ho⟩, hw⟩ := h
  simp only [mbxTarget, Bool.or_eq_false_iff, decide_eq_false_iff_not] at hb
  obtain ⟨⟨h0, h1⟩, h2⟩ := hb
  simp only [accWrite, busWrite, regCheck, hu, findReg_addr hr hn hm, addr_mod_four hr hn hm, hg, ho]
  by_cases hc : rwlChanges s r n m v = true
  · simp [h0, h1, h2, hw hc]
  · simp [h0, h1, h2, hc]

/-- A read. -/
theorem accRead_done {q : Req} {r : RegD} {n m : Nat} {s : State} (hr : r ∈ regMap) (hn : n < r.n1) (hm : m < r.n2)
    (h : s.reaches q r n m false) :
    accRead q r n m s = .next ((regRead q r n m s).2.answer (.access .ok ((regRead q r n m s).1.setWidth 64))) := by
  obtain ⟨hu, hg, ho⟩ := h
  simp [accRead, busRead, regCheck, hu, findReg_addr hr hn hm, addr_mod_four hr hn hm, hg, ho]

/-! ## The rules of a register -/

/-- A register that the i-th rule of the write table names, and none before it. -/
theorem regWrite_rule {r r' : RegD} {f : Nat → Nat → Word → State → State} (i : Nat) (hi : writeHooks[i]? = some (r', f))
    (hb : r'.base = r.base) (hn : ((writeHooks.take i).all fun h => h.1.base != r.base) = true) (n m : Nat) (v : Word)
    (s : State) : regWrite r n m v s = f n m v s := by
  have hl : i < writeHooks.length := (List.getElem?_eq_some_iff.mp hi).1
  have he : writeHooks[i] = (r', f) := (List.getElem?_eq_some_iff.mp hi).2
  have hs : writeHooks = writeHooks.take i ++ (r', f) :: writeHooks.drop (i + 1) := by
    rw [← he, ← List.drop_eq_getElem_cons hl, List.take_append_drop]
  have hf : writeHooks.find? (fun h => h.1.base = r.base) = some (r', f) := by
    rw [hs, List.find?_append]
    have hz : (writeHooks.take i).find? (fun h => h.1.base = r.base) = none := by
      rw [List.find?_eq_none]
      intro x hx
      have := List.all_eq_true.mp hn x hx
      simpa using this
    rw [hz]
    simp [hb]
  simp only [regWrite, hf]

/-- A register that the write table does not name. -/
theorem regWrite_plain {r : RegD} (hn : (writeHooks.all fun h => h.1.base != r.base) = true) (n m : Nat) (v : Word)
    (s : State) : regWrite r n m v s = s.writePlain r v n m := by
  have hf : writeHooks.find? (fun h => h.1.base = r.base) = none := by
    rw [List.find?_eq_none]
    intro x hx
    have := List.all_eq_true.mp hn x hx
    simpa using this
  simp only [regWrite, hf]

/-- A register that the i-th rule of the read table names, and none before it. -/
theorem regRead_rule {r r' : RegD} {f : Req → Nat → Nat → State → Word × State} (i : Nat)
    (hi : readHooks[i]? = some (r', f)) (hb : r'.base = r.base)
    (hn : ((readHooks.take i).all fun h => h.1.base != r.base) = true) (q : Req) (n m : Nat) (s : State) :
    regRead q r n m s = f q n m s := by
  have hl : i < readHooks.length := (List.getElem?_eq_some_iff.mp hi).1
  have he : readHooks[i] = (r', f) := (List.getElem?_eq_some_iff.mp hi).2
  have hs : readHooks = readHooks.take i ++ (r', f) :: readHooks.drop (i + 1) := by
    rw [← he, ← List.drop_eq_getElem_cons hl, List.take_append_drop]
  have hf : readHooks.find? (fun h => h.1.base = r.base) = some (r', f) := by
    rw [hs, List.find?_append]
    have hz : (readHooks.take i).find? (fun h => h.1.base = r.base) = none := by
      rw [List.find?_eq_none]
      intro x hx
      have := List.all_eq_true.mp hn x hx
      simpa using this
    rw [hz]
    simp [hb]
  simp only [regRead, hf]

/-! ## The registers of the access rows -/

theorem R.LTX_LANE_CFG_mem : R.LTX_LANE_CFG ∈ regMap := List.mem_of_getElem? (i := 3) rfl
theorem R.LTX_SHAPE_CTRL_mem : R.LTX_SHAPE_CTRL ∈ regMap := List.mem_of_getElem? (i := 14) rfl
theorem R.LTX_MASK_CTRL_mem : R.LTX_MASK_CTRL ∈ regMap := List.mem_of_getElem? (i := 19) rfl
theorem R.LTX_MASK_LIM_mem : R.LTX_MASK_LIM ∈ regMap := List.mem_of_getElem? (i := 22) rfl
theorem R.LTX_CAL_CTRL_mem : R.LTX_CAL_CTRL ∈ regMap := List.mem_of_getElem? (i := 30) rfl
theorem R.LRX_TIA_CTRL_mem : R.LRX_TIA_CTRL ∈ regMap := List.mem_of_getElem? (i := 32) rfl
theorem R.WNC_LANE_CFG_mem : R.WNC_LANE_CFG ∈ regMap := List.mem_of_getElem? (i := 63) rfl
theorem R.LRX_CAL_CTRL_mem : R.LRX_CAL_CTRL ∈ regMap := List.mem_of_getElem? (i := 49) rfl
theorem R.LRX_CAP_CTRL_mem : R.LRX_CAP_CTRL ∈ regMap := List.mem_of_getElem? (i := 53) rfl
theorem R.CAP_CTRL_mem : R.CAP_CTRL ∈ regMap := List.mem_of_getElem? (i := 65) rfl
theorem R.CAP_SNAP_mem : R.CAP_SNAP ∈ regMap := List.mem_of_getElem? (i := 70) rfl
theorem R.HST_TX_CTRL_mem : R.HST_TX_CTRL ∈ regMap := List.mem_of_getElem? (i := 85) rfl
theorem R.HST_TEST_CTRL_mem : R.HST_TEST_CTRL ∈ regMap := List.mem_of_getElem? (i := 89) rfl
theorem R.HST_RSM_CTRL_mem : R.HST_RSM_CTRL ∈ regMap := List.mem_of_getElem? (i := 93) rfl
theorem R.OLC_CTRL_mem : R.OLC_CTRL ∈ regMap := List.mem_of_getElem? (i := 98) rfl
theorem R.OLC_PROBE_mem : R.OLC_PROBE ∈ regMap := List.mem_of_getElem? (i := 100) rfl
theorem R.OLC_CODE_mem : R.OLC_CODE ∈ regMap := List.mem_of_getElem? (i := 102) rfl
theorem R.OLC_STROBE_mem : R.OLC_STROBE ∈ regMap := List.mem_of_getElem? (i := 106) rfl
theorem R.OLC_CH_WAV_mem : R.OLC_CH_WAV ∈ regMap := List.mem_of_getElem? (i := 111) rfl
theorem R.OLC_FAULT_mem : R.OLC_FAULT ∈ regMap := List.mem_of_getElem? (i := 101) rfl
theorem R.PWR_LANE_RST_mem : R.PWR_LANE_RST ∈ regMap := List.mem_of_getElem? (i := 231) rfl
theorem R.LYD_CTRL_mem : R.LYD_CTRL ∈ regMap := List.mem_of_getElem? (i := 115) rfl
theorem R.LYD_FIR_mem : R.LYD_FIR ∈ regMap := List.mem_of_getElem? (i := 131) rfl
theorem R.LYD_USER_FREE_mem : R.LYD_USER_FREE ∈ regMap := List.mem_of_getElem? (i := 135) rfl
theorem R.TIM_ADJ_CTRL_mem : R.TIM_ADJ_CTRL ∈ regMap := List.mem_of_getElem? (i := 148) rfl
theorem R.TIM_SNAP_W0_mem : R.TIM_SNAP_W0 ∈ regMap := List.mem_of_getElem? (i := 139) rfl
theorem R.TIM_SNAP_W4_mem : R.TIM_SNAP_W4 ∈ regMap := List.mem_of_getElem? (i := 141) rfl
theorem R.TIM_SNAP_TOD_mem : R.TIM_SNAP_TOD ∈ regMap := List.mem_of_getElem? (i := 140) rfl
theorem R.TIM_TSQ_W_mem : R.TIM_TSQ_W ∈ regMap := List.mem_of_getElem? (i := 155) rfl
theorem R.TIM_AON_HI_mem : R.TIM_AON_HI ∈ regMap := List.mem_of_getElem? (i := 152) rfl
theorem R.TIM_AON_LO_mem : R.TIM_AON_LO ∈ regMap := List.mem_of_getElem? (i := 151) rfl
theorem R.TIM_TT_STAT_mem : R.TIM_TT_STAT ∈ regMap := List.mem_of_getElem? (i := 165) rfl
theorem R.TIM_TT_LO_mem : R.TIM_TT_LO ∈ regMap := List.mem_of_getElem? (i := 166) rfl
theorem R.TIM_TT_HI_mem : R.TIM_TT_HI ∈ regMap := List.mem_of_getElem? (i := 167) rfl
theorem R.TIM_PPSI_W0_mem : R.TIM_PPSI_W0 ∈ regMap := List.mem_of_getElem? (i := 162) rfl
theorem R.TIM_PPSI_TOD_mem : R.TIM_PPSI_TOD ∈ regMap := List.mem_of_getElem? (i := 163) rfl
theorem R.MBX_W0_mem : R.MBX_W0 ∈ regMap := List.mem_of_getElem? (i := 168) rfl
theorem R.MBX_W_mem : R.MBX_W ∈ regMap := List.mem_of_getElem? (i := 169) rfl
theorem R.MBX_DB_mem : R.MBX_DB ∈ regMap := List.mem_of_getElem? (i := 170) rfl
theorem R.MBX_IRING_W_mem : R.MBX_IRING_W ∈ regMap := List.mem_of_getElem? (i := 179) rfl
theorem R.TOP_RIG_CTRL_mem : R.TOP_RIG_CTRL ∈ regMap := List.mem_of_getElem? (i := 190) rfl
theorem R.MON_ADC_URG_mem : R.MON_ADC_URG ∈ regMap := List.mem_of_getElem? (i := 195) rfl
theorem R.MON_ADC_CTRL_mem : R.MON_ADC_CTRL ∈ regMap := List.mem_of_getElem? (i := 193) rfl
theorem R.MON_FTH_CFG_mem : R.MON_FTH_CFG ∈ regMap := List.mem_of_getElem? (i := 208) rfl
theorem R.MON_FTH_FILT_mem : R.MON_FTH_FILT ∈ regMap := List.mem_of_getElem? (i := 209) rfl
theorem R.MON_FTH_BIN_mem : R.MON_FTH_BIN ∈ regMap := List.mem_of_getElem? (i := 212) rfl
theorem R.MON_FTH_BASE_mem : R.MON_FTH_BASE ∈ regMap := List.mem_of_getElem? (i := 210) rfl
theorem R.MON_FTH_LIM_mem : R.MON_FTH_LIM ∈ regMap := List.mem_of_getElem? (i := 211) rfl
theorem R.PMU_CTRL_mem : R.PMU_CTRL ∈ regMap := List.mem_of_getElem? (i := 219) rfl
theorem R.PMU_CNT_HI_mem : R.PMU_CNT_HI ∈ regMap := List.mem_of_getElem? (i := 216) rfl
theorem R.PMU_CNT_LO_mem : R.PMU_CNT_LO ∈ regMap := List.mem_of_getElem? (i := 215) rfl
theorem R.PWR_BLK_EN_mem : R.PWR_BLK_EN ∈ regMap := List.mem_of_getElem? (i := 228) rfl
theorem R.PWR_RST_mem : R.PWR_RST ∈ regMap := List.mem_of_getElem? (i := 232) rfl
theorem R.HWS_PORT_CTRL_mem : R.HWS_PORT_CTRL ∈ regMap := List.mem_of_getElem? (i := 249) rfl
theorem R.ECC_INJ_CTRL_mem : R.ECC_INJ_CTRL ∈ regMap := List.mem_of_getElem? (i := 242) rfl
theorem R.ECC_CTRL_mem : R.ECC_CTRL ∈ regMap := List.mem_of_getElem? (i := 237) rfl

/-! ## What their writes and reads do -/

theorem R.LTX_LANE_CFG_write (n m : Nat) (v : Word) (s : State) : regWrite R.LTX_LANE_CFG n m v s
    = (fun n _ v s => laneCfgWrite n v s : Nat → Nat → Word → State → State) n m v s :=
  regWrite_rule 0 rfl rfl rfl n m v s
theorem R.LTX_SHAPE_CTRL_write (n m : Nat) (v : Word) (s : State) : regWrite R.LTX_SHAPE_CTRL n m v s
    = (fun n _ v s => shadowWrite n 24 (shapeCtrlWrite n v s) : Nat → Nat → Word → State → State) n m v s :=
  regWrite_rule 1 rfl rfl rfl n m v s
theorem R.LTX_MASK_CTRL_write (n m : Nat) (v : Word) (s : State) : regWrite R.LTX_MASK_CTRL n m v s
    = (fun n _ v s => let w := s.writePlain R.LTX_MASK_CTRL v n
      maskChanged n (s.flag F.LTX_MASK_CTRL_EN n) (w.word R.LTX_MASK_CTRL n = s.word R.LTX_MASK_CTRL n) w : Nat → Nat → Word → State → State) n m v s :=
  regWrite_rule 4 rfl rfl rfl n m v s
theorem R.LTX_MASK_LIM_write (n m : Nat) (v : Word) (s : State) : regWrite R.LTX_MASK_LIM n m v s
    = (fun n m v s => let w := s.writePlain R.LTX_MASK_LIM v n m
      maskChanged n (s.flag F.LTX_MASK_CTRL_EN n) (w.word R.LTX_MASK_LIM n m = s.word R.LTX_MASK_LIM n m) w : Nat → Nat → Word → State → State) n m v s :=
  regWrite_rule 5 rfl rfl rfl n m v s
theorem R.LTX_CAL_CTRL_write (n m : Nat) (v : Word) (s : State) : regWrite R.LTX_CAL_CTRL n m v s
    = (fun n _ v s => txCalCtrlWrite n v s : Nat → Nat → Word → State → State) n m v s :=
  regWrite_rule 8 rfl rfl rfl n m v s
theorem R.LRX_TIA_CTRL_write (n m : Nat) (v : Word) (s : State) : regWrite R.LRX_TIA_CTRL n m v s
    = (fun n _ v s => tiaCtrlWrite n v s : Nat → Nat → Word → State → State) n m v s :=
  regWrite_rule 9 rfl rfl rfl n m v s
theorem R.LRX_CAL_CTRL_write (n m : Nat) (v : Word) (s : State) : regWrite R.LRX_CAL_CTRL n m v s
    = (fun n _ v s => rxCalCtrlWrite n v s : Nat → Nat → Word → State → State) n m v s :=
  regWrite_rule 13 rfl rfl rfl n m v s
theorem R.LRX_CAP_CTRL_write (n m : Nat) (v : Word) (s : State) : regWrite R.LRX_CAP_CTRL n m v s
    = (fun n _ v s => capCtrlWrite n v s : Nat → Nat → Word → State → State) n m v s :=
  regWrite_rule 15 rfl rfl rfl n m v s
theorem R.WNC_LANE_CFG_write (n m : Nat) (v : Word) (s : State) : regWrite R.WNC_LANE_CFG n m v s
    = (fun i _ v s => let s := s.writePlain R.WNC_LANE_CFG v i
      if v.getLsbD 24 then s.reseed i else s : Nat → Nat → Word → State → State) n m v s :=
  regWrite_rule 16 rfl rfl rfl n m v s
theorem R.CAP_CTRL_write (n m : Nat) (v : Word) (s : State) : regWrite R.CAP_CTRL n m v s
    = (fun _ _ v s => capCtrlRegWrite v s : Nat → Nat → Word → State → State) n m v s :=
  regWrite_rule 17 rfl rfl rfl n m v s
theorem R.CAP_SNAP_write (n m : Nat) (v : Word) (s : State) : regWrite R.CAP_SNAP n m v s
    = (fun _ _ v s => capSnapWrite v s : Nat → Nat → Word → State → State) n m v s :=
  regWrite_rule 19 rfl rfl rfl n m v s
theorem R.HST_TX_CTRL_write (n m : Nat) (v : Word) (s : State) : regWrite R.HST_TX_CTRL n m v s
    = (fun h _ v s => hstTxCtrlWrite h v s : Nat → Nat → Word → State → State) n m v s :=
  regWrite_rule 25 rfl rfl rfl n m v s
theorem R.HST_TEST_CTRL_write (n m : Nat) (v : Word) (s : State) : regWrite R.HST_TEST_CTRL n m v s
    = (fun h _ v s => hstTestCtrlWrite h v s : Nat → Nat → Word → State → State) n m v s :=
  regWrite_rule 26 rfl rfl rfl n m v s
theorem R.HST_RSM_CTRL_write (n m : Nat) (v : Word) (s : State) : regWrite R.HST_RSM_CTRL n m v s
    = (fun h _ v s => hstRsmCtrlWrite h v s : Nat → Nat → Word → State → State) n m v s :=
  regWrite_rule 28 rfl rfl rfl n m v s
theorem R.OLC_CTRL_write (n m : Nat) (v : Word) (s : State) : regWrite R.OLC_CTRL n m v s
    = (fun n _ v s => olcReqWrite n v s : Nat → Nat → Word → State → State) n m v s :=
  regWrite_rule 29 rfl rfl rfl n m v s
theorem R.OLC_PROBE_write (n m : Nat) (v : Word) (s : State) : regWrite R.OLC_PROBE n m v s
    = (fun n _ v s => olcProbeWrite n v s : Nat → Nat → Word → State → State) n m v s :=
  regWrite_rule 30 rfl rfl rfl n m v s
theorem R.OLC_FAULT_write (n m : Nat) (v : Word) (s : State) : regWrite R.OLC_FAULT n m v s
    = (fun n _ v s => olcFaultWrite n v s : Nat → Nat → Word → State → State) n m v s :=
  regWrite_rule 31 rfl rfl rfl n m v s
theorem R.OLC_CODE_write (n m : Nat) (v : Word) (s : State) : regWrite R.OLC_CODE n m v s
    = (fun n k v s => olcCodeWrite n k v s : Nat → Nat → Word → State → State) n m v s :=
  regWrite_rule 32 rfl rfl rfl n m v s
theorem R.OLC_STROBE_write (n m : Nat) (v : Word) (s : State) : regWrite R.OLC_STROBE n m v s
    = (fun _ _ v s => olcStrobe (bitsOf v 3 0) s : Nat → Nat → Word → State → State) n m v s :=
  regWrite_rule 33 rfl rfl rfl n m v s
theorem R.OLC_CH_WAV_write (n m : Nat) (v : Word) (s : State) : regWrite R.OLC_CH_WAV n m v s
    = (fun c _ v s => olcWavWrite c v s : Nat → Nat → Word → State → State) n m v s :=
  regWrite_rule 34 rfl rfl rfl n m v s
theorem R.LYD_CTRL_write (n m : Nat) (v : Word) (s : State) : regWrite R.LYD_CTRL n m v s
    = (fun n _ v s => lydCtrlWrite n v s : Nat → Nat → Word → State → State) n m v s :=
  regWrite_rule 35 rfl rfl rfl n m v s
theorem R.LYD_FIR_write (n m : Nat) (v : Word) (s : State) : regWrite R.LYD_FIR n m v s
    = (fun n m v s => lydFirWrite n m v s : Nat → Nat → Word → State → State) n m v s :=
  regWrite_rule 36 rfl rfl rfl n m v s
theorem R.LYD_USER_FREE_write (n m : Nat) (v : Word) (s : State) : regWrite R.LYD_USER_FREE n m v s
    = (fun _ _ v s => userFreeWrite v s : Nat → Nat → Word → State → State) n m v s :=
  regWrite_rule 38 rfl rfl rfl n m v s
theorem R.TIM_ADJ_CTRL_write (n m : Nat) (v : Word) (s : State) : regWrite R.TIM_ADJ_CTRL n m v s
    = (fun _ _ v s => timAdjWrite v s : Nat → Nat → Word → State → State) n m v s :=
  regWrite_rule 39 rfl rfl rfl n m v s
theorem R.TOP_RIG_CTRL_write (n m : Nat) (v : Word) (s : State) : regWrite R.TOP_RIG_CTRL n m v s
    = (fun _ _ v s => rigCtrlWrite v s : Nat → Nat → Word → State → State) n m v s :=
  regWrite_rule 42 rfl rfl rfl n m v s
theorem R.MON_ADC_CTRL_write (n m : Nat) (v : Word) (s : State) : regWrite R.MON_ADC_CTRL n m v s
    = (fun _ _ v s => adcCtrlWrite (s.writePlain R.MON_ADC_CTRL v) : Nat → Nat → Word → State → State) n m v s :=
  regWrite_rule 43 rfl rfl rfl n m v s
theorem R.MON_ADC_URG_write (n m : Nat) (v : Word) (s : State) : regWrite R.MON_ADC_URG n m v s
    = (fun _ _ v s => adcUrgWrite v (s.writePlain R.MON_ADC_URG v) : Nat → Nat → Word → State → State) n m v s :=
  regWrite_rule 45 rfl rfl rfl n m v s
theorem R.MON_FTH_CFG_write (n m : Nat) (v : Word) (s : State) : regWrite R.MON_FTH_CFG n m v s
    = (fun i _ v s => fathomWrite (Fin.ofNat 32 i) true v (s.writePlain R.MON_FTH_CFG v i) : Nat → Nat → Word → State → State) n m v s :=
  regWrite_rule 46 rfl rfl rfl n m v s
theorem R.MON_FTH_FILT_write (n m : Nat) (v : Word) (s : State) : regWrite R.MON_FTH_FILT n m v s
    = (fun i _ v s => fathomWrite (Fin.ofNat 32 i) false v (s.writePlain R.MON_FTH_FILT v i) : Nat → Nat → Word → State → State) n m v s :=
  regWrite_rule 47 rfl rfl rfl n m v s
theorem R.MON_FTH_BASE_write (n m : Nat) (v : Word) (s : State) : regWrite R.MON_FTH_BASE n m v s
    = (fun i _ v s => fathomWrite (Fin.ofNat 32 i) false v (s.writePlain R.MON_FTH_BASE v i) : Nat → Nat → Word → State → State) n m v s :=
  regWrite_rule 48 rfl rfl rfl n m v s
theorem R.MON_FTH_LIM_write (n m : Nat) (v : Word) (s : State) : regWrite R.MON_FTH_LIM n m v s
    = (fun i _ v s => fathomWrite (Fin.ofNat 32 i) false v (s.writePlain R.MON_FTH_LIM v i) : Nat → Nat → Word → State → State) n m v s :=
  regWrite_rule 49 rfl rfl rfl n m v s
theorem R.MON_FTH_BIN_write (n m : Nat) (v : Word) (s : State) : regWrite R.MON_FTH_BIN n m v s
    = (fun i _ v s => fathomWrite (Fin.ofNat 32 i) false v (s.writePlain R.MON_FTH_BIN v i) : Nat → Nat → Word → State → State) n m v s :=
  regWrite_rule 50 rfl rfl rfl n m v s
theorem R.PMU_CTRL_write (n m : Nat) (v : Word) (s : State) : regWrite R.PMU_CTRL n m v s
    = (fun _ _ v s => pmuCtrlWrite v (s.writePlain R.PMU_CTRL v) : Nat → Nat → Word → State → State) n m v s :=
  regWrite_rule 51 rfl rfl rfl n m v s
theorem R.PWR_BLK_EN_write (n m : Nat) (v : Word) (s : State) : regWrite R.PWR_BLK_EN n m v s
    = (fun _ _ v s => blkEnWrite v s : Nat → Nat → Word → State → State) n m v s :=
  regWrite_rule 54 rfl rfl rfl n m v s
theorem R.PWR_LANE_RST_write (n m : Nat) (v : Word) (s : State) : regWrite R.PWR_LANE_RST n m v s
    = (fun _ _ v s => laneRstWrite v s : Nat → Nat → Word → State → State) n m v s :=
  regWrite_rule 55 rfl rfl rfl n m v s
theorem R.PWR_RST_write (n m : Nat) (v : Word) (s : State) : regWrite R.PWR_RST n m v s
    = (fun _ _ v s => if v.getLsbD 0 then aonReset 4 s else s : Nat → Nat → Word → State → State) n m v s :=
  regWrite_rule 56 rfl rfl rfl n m v s
theorem R.ECC_CTRL_write (n m : Nat) (v : Word) (s : State) : regWrite R.ECC_CTRL n m v s
    = (fun _ _ v s => eccCtrlWrite v (s.writePlain R.ECC_CTRL v) : Nat → Nat → Word → State → State) n m v s :=
  regWrite_rule 57 rfl rfl rfl n m v s
theorem R.HWS_PORT_CTRL_write (n m : Nat) (v : Word) (s : State) : regWrite R.HWS_PORT_CTRL n m v s
    = (fun p _ v s => hwsCtrlWrite p v s : Nat → Nat → Word → State → State) n m v s :=
  regWrite_rule 58 rfl rfl rfl n m v s
theorem R.ECC_INJ_CTRL_write (n m : Nat) (v : Word) (s : State) :
    regWrite R.ECC_INJ_CTRL n m v s = s.writePlain R.ECC_INJ_CTRL v n m :=
  regWrite_plain rfl n m v s
theorem R.TIM_SNAP_W0_read (q : Req) (n m : Nat) (s : State) : regRead q R.TIM_SNAP_W0 n m s
    = (fun q _ _ s => snapRead q s : Req → Nat → Nat → State → Word × State) q n m s :=
  regRead_rule 0 rfl rfl rfl q n m s
theorem R.TIM_SNAP_TOD_read (q : Req) (n m : Nat) (s : State) : regRead q R.TIM_SNAP_TOD n m s
    = (fun q i _ s => ((s.hold q).snap.getD i 0, s) : Req → Nat → Nat → State → Word × State) q n m s :=
  regRead_rule 1 rfl rfl rfl q n m s
theorem R.TIM_SNAP_W4_read (q : Req) (n m : Nat) (s : State) : regRead q R.TIM_SNAP_W4 n m s
    = (fun q _ _ s => ((s.hold q).snap.getD 3 0, s) : Req → Nat → Nat → State → Word × State) q n m s :=
  regRead_rule 2 rfl rfl rfl q n m s
theorem R.TIM_AON_LO_read (q : Req) (n m : Nat) (s : State) : regRead q R.TIM_AON_LO n m s
    = (fun q _ _ s => aonRead q s : Req → Nat → Nat → State → Word × State) q n m s :=
  regRead_rule 3 rfl rfl rfl q n m s
theorem R.TIM_AON_HI_read (q : Req) (n m : Nat) (s : State) : regRead q R.TIM_AON_HI n m s
    = (fun q _ _ s => ((s.hold q).aonHi, s) : Req → Nat → Nat → State → Word × State) q n m s :=
  regRead_rule 4 rfl rfl rfl q n m s
theorem R.TIM_TSQ_W_read (q : Req) (n m : Nat) (s : State) : regRead q R.TIM_TSQ_W n m s
    = (fun q d i s => if i = 0 then tsqRead q (d = 0) s
      else ((if d = 0 then (s.hold q).txq else (s.hold q).rxq).getD (i - 1) 0, s) : Req → Nat → Nat → State → Word × State) q n m s :=
  regRead_rule 5 rfl rfl rfl q n m s
theorem R.TIM_TT_STAT_read (q : Req) (n m : Nat) (s : State) : regRead q R.TIM_TT_STAT n m s
    = (fun q n _ s => twoWayRead q (Fin.ofNat 9 n) s : Req → Nat → Nat → State → Word × State) q n m s :=
  regRead_rule 6 rfl rfl rfl q n m s
theorem R.TIM_TT_LO_read (q : Req) (n m : Nat) (s : State) : regRead q R.TIM_TT_LO n m s
    = (fun q n i s => ((Bank.get (s.hold q).twoWay n []).getD (2 * i) 0, s) : Req → Nat → Nat → State → Word × State) q n m s :=
  regRead_rule 7 rfl rfl rfl q n m s
theorem R.TIM_TT_HI_read (q : Req) (n m : Nat) (s : State) : regRead q R.TIM_TT_HI n m s
    = (fun q n i s => ((Bank.get (s.hold q).twoWay n []).getD (2 * i + 1) 0 &&& 0xFFFF, s) : Req → Nat → Nat → State → Word × State) q n m s :=
  regRead_rule 8 rfl rfl rfl q n m s
theorem R.TIM_PPSI_W0_read (q : Req) (n m : Nat) (s : State) : regRead q R.TIM_PPSI_W0 n m s
    = (fun q _ _ s => ppsInRead q s : Req → Nat → Nat → State → Word × State) q n m s :=
  regRead_rule 9 rfl rfl rfl q n m s
theorem R.TIM_PPSI_TOD_read (q : Req) (n m : Nat) (s : State) : regRead q R.TIM_PPSI_TOD n m s
    = (fun q i _ s => ((s.hold q).pps.getD i 0, s) : Req → Nat → Nat → State → Word × State) q n m s :=
  regRead_rule 10 rfl rfl rfl q n m s
theorem R.PMU_CNT_LO_read (q : Req) (n m : Nat) (s : State) : regRead q R.PMU_CNT_LO n m s
    = (fun q j _ s => let x := (pmuRead s j).toNat
      (BitVec.ofNat 32 x, s.modHold q fun h => { h with pmuHi := Bank.put h.pmuHi j (BitVec.ofNat 32 (x / 2 ^ 32)) 0 }) : Req → Nat → Nat → State → Word × State) q n m s :=
  regRead_rule 11 rfl rfl rfl q n m s
theorem R.PMU_CNT_HI_read (q : Req) (n m : Nat) (s : State) : regRead q R.PMU_CNT_HI n m s
    = (fun q j _ s => (Bank.get (s.hold q).pmuHi j 0, s) : Req → Nat → Nat → State → Word × State) q n m s :=
  regRead_rule 12 rfl rfl rfl q n m s
theorem R.MBX_IRING_W_read (q : Req) (n m : Nat) (s : State) : regRead q R.MBX_IRING_W n m s
    = (fun q k i s => if i = 0 then iringRead q k s else ((Bank.get (s.hold q).ring k []).getD (i - 1) 0, s) : Req → Nat → Nat → State → Word × State) q n m s :=
  regRead_rule 13 rfl rfl rfl q n m s

end Sys2Proof.Machine
end

