-- ==== Sys2Proof/Laws/Bank.lean ====
section
/-! SUPPORT. Sys2Proof/Laws/Bank.lean: the laws of sparse storage: read after write, other keys untouched, and the
canonical form kept. -/

namespace Sys2Proof.Machine

variable {α : Type}

/-- A key below every listed key is not listed. -/
theorem Bank.find_low [DecidableEq α] {d : Nat → α} {lo k : Nat} {b : List (Nat × α)} (h : Bank.wfFrom d lo b = true)
    (hk : k < lo) : Bank.find b k = none := by
  cases b with
  | nil => rfl
  | cons e t =>
    obtain ⟨a, v⟩ := e
    simp only [Bank.wfFrom, Bool.and_eq_true, decide_eq_true_eq] at h
    simp only [Bank.find]
    rw [if_neg (by omega), if_pos (by omega)]

/-- The form from a higher key on is the form from a lower one on. -/
theorem Bank.wfFrom_mono [DecidableEq α] {d : Nat → α} {lo hi : Nat} {b : List (Nat × α)} (h : Bank.wfFrom d hi b = true)
    (hl : lo ≤ hi) : Bank.wfFrom d lo b = true := by
  cases b with
  | nil => rfl
  | cons e t =>
    simp only [Bank.wfFrom, Bool.and_eq_true, decide_eq_true_eq] at h ⊢
    exact ⟨⟨by omega, h.1.2⟩, h.2⟩

/-- Inserting a value that is not the default keeps the canonical form. -/
theorem Bank.insert_wfFrom [DecidableEq α] {d : Nat → α} {k : Nat} {v : α} (hv : v ≠ d k) (b : List (Nat × α)) :
    ∀ lo, lo ≤ k → Bank.wfFrom d lo b = true → Bank.wfFrom d lo (Bank.insert b k v) = true := by
  induction b with
  | nil => intro lo hl _; simp [Bank.insert, Bank.wfFrom, hl, hv]
  | cons e t ih =>
    obtain ⟨a, w⟩ := e
    intro lo hl h
    simp only [Bank.wfFrom, Bool.and_eq_true, decide_eq_true_eq] at h
    simp only [Bank.insert]
    split
    · simp [Bank.wfFrom, hl, hv, h.1.2, h.2]; omega
    · split
      · subst a; simp [Bank.wfFrom, hl, hv, h.2]
      · simp [Bank.wfFrom, h.1.1, h.1.2, ih (a + 1) (by omega) h.2]

/-- Removing an entry keeps the canonical form. -/
theorem Bank.erase_wfFrom [DecidableEq α] {d : Nat → α} {k : Nat} (b : List (Nat × α)) :
    ∀ lo, Bank.wfFrom d lo b = true → Bank.wfFrom d lo (Bank.erase b k) = true := by
  induction b with
  | nil => intro lo _; rfl
  | cons e t ih =>
    obtain ⟨a, w⟩ := e
    intro lo h
    have h' := h
    simp only [Bank.wfFrom, Bool.and_eq_true, decide_eq_true_eq] at h
    simp only [Bank.erase]
    split
    · exact Bank.wfFrom_mono h.2 (by omega)
    · split
      · exact h'
      · simp [Bank.wfFrom, h.1.1, h.1.2, ih (a + 1) h.2]

/-- A write of any value keeps the canonical form of a bank whose key k reads d k by default. -/
theorem Bank.put_wf [DecidableEq α] {d : Nat → α} {b : List (Nat × α)} (k : Nat) (v : α) (h : Bank.wf d b = true) :
    Bank.wf d (Bank.put b k v (d k)) = true := by
  unfold Bank.put
  split
  · exact Bank.erase_wfFrom b 0 h
  · exact Bank.insert_wfFrom ‹_› b 0 (Nat.zero_le _) h

/-- The rising order from a higher key on is the order from a lower one on. -/
theorem keysRise_mono {lo hi : Nat} {b : List (Nat × α)} (h : keysRise hi b = true) (hl : lo ≤ hi) :
    keysRise lo b = true := by
  cases b with
  | nil => rfl
  | cons e t =>
    simp only [keysRise, Bool.and_eq_true, decide_eq_true_eq] at h ⊢
    exact ⟨by omega, h.2⟩

/-- Inserting keeps the keys rising. -/
theorem Bank.insert_keysRise {k : Nat} {v : α} (b : List (Nat × α)) :
    ∀ lo, lo ≤ k → keysRise lo b = true → keysRise lo (Bank.insert b k v) = true := by
  induction b with
  | nil => intro lo hl _; simp [Bank.insert, keysRise, hl]
  | cons e t ih =>
    obtain ⟨a, w⟩ := e
    intro lo hl h
    simp only [keysRise, Bool.and_eq_true, decide_eq_true_eq] at h
    simp only [Bank.insert]
    split
    · simp [keysRise, hl, h.2]; omega
    · split
      · subst a; simp [keysRise, hl, h.2]
      · simp [keysRise, h.1, ih (a + 1) (by omega) h.2]

/-- Removing keeps the keys rising. -/
theorem Bank.erase_keysRise {k : Nat} (b : List (Nat × α)) :
    ∀ lo, keysRise lo b = true → keysRise lo (Bank.erase b k) = true := by
  induction b with
  | nil => intro lo _; rfl
  | cons e t ih =>
    obtain ⟨a, w⟩ := e
    intro lo h
    have h' := h
    simp only [keysRise, Bool.and_eq_true, decide_eq_true_eq] at h
    simp only [Bank.erase]
    split
    · exact keysRise_mono h.2 (by omega)
    · split
      · exact h'
      · simp [keysRise, h.1, ih (a + 1) h.2]

/-- A write keeps the keys rising, whatever the default it compares with. -/
theorem Bank.put_keysRise [DecidableEq α] {b : List (Nat × α)} (k : Nat) (v d : α) (h : keysRise 0 b = true) :
    keysRise 0 (Bank.put b k v d) = true := by
  unfold Bank.put
  split
  · exact Bank.erase_keysRise b 0 h
  · exact Bank.insert_keysRise b 0 (Nat.zero_le _) h

/-- Dropping entries keeps the keys rising. -/
theorem keysRise_filter (p : Nat × α → Bool) (b : List (Nat × α)) :
    ∀ lo, keysRise lo b = true → keysRise lo (b.filter p) = true := by
  induction b with
  | nil => intro lo _; rfl
  | cons e t ih =>
    obtain ⟨a, w⟩ := e
    intro lo h
    simp only [keysRise, Bool.and_eq_true, decide_eq_true_eq] at h
    rw [List.filter_cons]
    split
    · simp [keysRise, h.1, ih (a + 1) h.2]
    · exact keysRise_mono (ih (a + 1) h.2) (by omega)

/-- Dropping entries keeps the canonical form. -/
theorem Bank.wfFrom_filter [DecidableEq α] {d : Nat → α} (p : Nat × α → Bool) (b : List (Nat × α)) :
    ∀ lo, Bank.wfFrom d lo b = true → Bank.wfFrom d lo (b.filter p) = true := by
  induction b with
  | nil => intro lo _; rfl
  | cons e t ih =>
    obtain ⟨a, w⟩ := e
    intro lo h
    simp only [Bank.wfFrom, Bool.and_eq_true, decide_eq_true_eq] at h
    rw [List.filter_cons]
    split
    · simp [Bank.wfFrom, h.1.1, h.1.2, ih (a + 1) h.2]
    · exact Bank.wfFrom_mono (ih (a + 1) h.2) (by omega)

/-- What is listed after an insertion. -/
theorem Bank.find_insert (k : Nat) (v : α) (j : Nat) (b : List (Nat × α)) :
    ∀ lo, keysRise lo b = true → Bank.find (Bank.insert b k v) j = if j = k then some v else Bank.find b j := by
  induction b with
  | nil =>
    intro lo _
    simp only [Bank.insert, Bank.find]
    by_cases e : j = k
    · simp [e]
    · simp [e, Ne.symm e]
  | cons e t ih =>
    obtain ⟨a, w⟩ := e
    intro lo h
    simp only [keysRise, Bool.and_eq_true, decide_eq_true_eq] at h
    simp only [Bank.insert]
    split
    · simp only [Bank.find]; repeat' split
      all_goals first | rfl | omega
    · split
      · subst a; simp only [Bank.find]; repeat' split
        all_goals first | rfl | omega
      · simp only [Bank.find, ih (a + 1) h.2]; repeat' split
        all_goals first | rfl | omega

/-- Nothing below the first key is listed. -/
theorem find_rise {k : Nat} (b : List (Nat × α)) : ∀ lo, keysRise lo b = true → k < lo → Bank.find b k = none := by
  cases b with
  | nil => intro _ _ _; rfl
  | cons e t =>
    intro lo h hk
    obtain ⟨a, v⟩ := e
    simp only [keysRise, Bool.and_eq_true, decide_eq_true_eq] at h
    simp only [Bank.find]
    rw [if_neg (by omega), if_pos (by omega)]

/-- What is listed after a removal. -/
theorem Bank.find_erase (k j : Nat) (b : List (Nat × α)) :
    ∀ lo, keysRise lo b = true → Bank.find (Bank.erase b k) j = if j = k then none else Bank.find b j := by
  induction b with
  | nil => intro lo _; simp only [Bank.erase, Bank.find]; split <;> rfl
  | cons e t ih =>
    obtain ⟨a, w⟩ := e
    intro lo h
    simp only [keysRise, Bool.and_eq_true, decide_eq_true_eq] at h
    simp only [Bank.erase]
    split
    · subst a
      simp only [Bank.find]
      split
      · rw [find_rise t _ h.2 (by omega)]
      · rw [if_neg (by omega)]
        split
        · exact find_rise t _ h.2 (by omega)
        · rfl
    · split
      · simp only [Bank.find]; repeat' split
        all_goals first | rfl | omega
      · simp only [Bank.find, ih (a + 1) h.2]; repeat' split
        all_goals first | rfl | omega

/-- Read after write at the same key. -/
theorem Bank.get_put_same [DecidableEq α] (b : List (Nat × α)) (k : Nat) (v d : α) (h : keysRise 0 b = true) :
    Bank.get (Bank.put b k v d) k d = v := by
  unfold Bank.get Bank.put
  split
  · rw [Bank.find_erase k k b 0 h]; simp [*]
  · rw [Bank.find_insert k v k b 0 h]; simp

/-- A write leaves every other key alone. -/
theorem Bank.get_put_other [DecidableEq α] (b : List (Nat × α)) (k j : Nat) (v d e : α) (h : keysRise 0 b = true)
    (hj : j ≠ k) : Bank.get (Bank.put b k v d) j e = Bank.get b j e := by
  unfold Bank.get Bank.put
  split
  · rw [Bank.find_erase k j b 0 h, if_neg hj]
  · rw [Bank.find_insert k v j b 0 h, if_neg hj]

/-- The canonical form has rising keys. -/
theorem Bank.wf_rise [DecidableEq α] (d : Nat → α) (b : List (Nat × α)) :
    ∀ lo, Bank.wfFrom d lo b = true → keysRise lo b = true := by
  induction b with
  | nil => intro lo _; rfl
  | cons e t ih =>
    obtain ⟨a, v⟩ := e
    intro lo h
    simp only [Bank.wfFrom, Bool.and_eq_true, decide_eq_true_eq] at h
    simp [keysRise, h.1.1, ih (a + 1) h.2]

end Sys2Proof.Machine
end

