-- ==== Sys2Proof/Laws/Data.lean ====
section
/-! SUPPORT. Sys2Proof/Laws/Data.lean: what commands carry of a lane's samples and blocks, one entry for each code or
interval given. -/

namespace Sys2Proof

@[simp] theorem rxOf_length (codes : List (BitVec 8)) (lv : List (Fin 4)) (am : List (Option (Fin 4))) :
    (rxOf codes lv am).length = codes.length := by simp [rxOf]

@[simp] theorem rxOf_nil (lv : List (Fin 4)) (am : List (Option (Fin 4))) : rxOf [] lv am = [] := rfl

/-- The samples carry the codes as they are given. -/
theorem rxOf_codes (codes : List (BitVec 8)) (lv : List (Fin 4)) (am : List (Option (Fin 4))) :
    (rxOf codes lv am).map RxSample.code = codes := by
  simp only [rxOf, List.map_map, Function.comp_def]
  exact List.zipIdx_map_fst 0 codes

@[simp] theorem txOf_length (a b : List (List (BitVec 128))) : (txOf a b).length = a.length := by simp [txOf]

@[simp] theorem txOf_nil (b : List (List (BitVec 128))) : txOf [] b = [] := rfl

/-- Stream A's blocks stand in the intervals as they are given. -/
theorem txOf_a (a b : List (List (BitVec 128))) : (txOf a b).map Prod.fst = a := by
  simp only [txOf, List.map_map, Function.comp_def]
  exact List.zipIdx_map_fst 0 a

end Sys2Proof
end

