-- ==== Sys2Proof/Laws/Keeps.lean ====
section
/-! SUPPORT. Sys2Proof/Laws/Keeps.lean: the preorder Keeps: what one operation leaves in force in the state it answers;
the operations that touch what it speaks of, and the combinators. -/

namespace Sys2Proof.Machine

/-- OTP only grows, through any number of operations. -/
theorem Otp.Grows.refl (a : Otp) : Otp.Grows a a :=
  ⟨Nat.le_refl _, Nat.le_refl _, Nat.le_refl _, fun _ h => h, rfl⟩

theorem Otp.Grows.trans {a b c : Otp} (h : Otp.Grows a b) (k : Otp.Grows b c) : Otp.Grows a c := by
  obtain ⟨h1, h2, h3, h4, h5⟩ := h
  obtain ⟨k1, k2, k3, k4, k5⟩ := k
  exact ⟨Nat.le_trans h1 k1, Nat.le_trans h2 k2, Nat.le_trans h3 k3, fun i x => k4 i (h4 i x), by
    rw [k5, h5]⟩

/-- What every operation of the model keeps from s to t: the queue of commands is as it was, the stores keep their form,
no queue outgrows its capacity, and OTP only grows. An operation that stores nothing (stores is false) keeps the bytes
of SRAM and its retired pages too. -/
structure Keeps (stores : Bool) (s t : State) : Prop where
  pending : t.pending = s.pending
  sram : Memory.wf s = true → Memory.wf t = true
  regs : Registers.wf s = true → Registers.wf t = true
  bounded : s.bounded = true → t.bounded = true
  otp : Otp.Grows s.fw.otp t.fw.otp
  bytes : stores = false → t.sram = s.sram ∧ t.ecc.retired = s.ecc.retired

theorem Keeps.refl {ms : Bool} (s : State) : Keeps ms s s := ⟨rfl, id, id, id, Otp.Grows.refl _, fun _ => ⟨rfl, rfl⟩⟩

theorem Keeps.trans {ms : Bool} {s t u : State} (h : Keeps ms s t) (k : Keeps ms t u) : Keeps ms s u :=
  ⟨k.pending.trans h.pending, k.sram ∘ h.sram, k.regs ∘ h.regs, k.bounded ∘ h.bounded, h.otp.trans k.otp,
    fun e => ⟨(k.bytes e).1.trans (h.bytes e).1, (k.bytes e).2.trans (h.bytes e).2⟩⟩

/-- What stores nothing keeps no less than what may store. -/
theorem Keeps.weaken {s t : State} {ms : Bool} (h : Keeps ms s t) : Keeps true s t :=
  ⟨h.pending, h.sram, h.regs, h.bounded, h.otp, fun e => nomatch e⟩

/-- What a command answers is kept from s. -/
def KeepsO (ms : Bool) (s : State) (o : Host.Outcome State Fault Refusal) : Prop := ∀ t, o = .next t → Keeps ms s t

theorem KeepsO.next {ms : Bool} {s t : State} (h : Keeps ms s t) : KeepsO ms s (.next t) := by
  intro u e
  cases e
  exact h

theorem KeepsO.refused {ms : Bool} {s : State} {r : Refusal} : KeepsO ms s (.refused r) := by
  intro u e
  cases e

variable {ms : Bool} {s0 s : State}

/-- The queues of the mailboxes are as they were, or shorter. -/
def Mbx.Within (x y : Mbx) : Prop := x.bounded = true → y.bounded = true

/-- An update of fields that Keeps does not speak of. -/
theorem Keeps.lit {mbx : Mbx} {tim : Tim} {mon : Mon} {fw : Fw} {hws : Hws} {knt : Knt} {cmis : Cmis} {pwr : Pwr}
    {bst : Bst} {lanes : Lanes} {optics : Optics} {lyd : Vector Lyd 9} {cap : Cap} {resp : Resp} {fresh : Nat}
    (h : Keeps ms s0 s) (hm : Mbx.Within s.mbx mbx) (hx : tim.txq.length ≤ max 64 s.tim.txq.length) (hr : tim.rxq.length ≤ max 64 s.tim.rxq.length)
    (ho : fw.otp = s.fw.otp) :
    Keeps ms s0 (State.mk s.regs s.sram mbx s.ecc tim mon fw hws knt cmis pwr bst lanes optics lyd cap resp fresh s.pending) :=
  h.trans ⟨rfl, id, id, by
    simp only [State.bounded, Bool.and_eq_true, decide_eq_true_eq]
    intro b
    exact ⟨⟨⟨hm b.1.1.1, by omega⟩, by omega⟩, by omega⟩, by
    show Otp.Grows s.fw.otp fw.otp
    rw [ho]
    exact Otp.Grows.refl _, fun _ => ⟨rfl, rfl⟩⟩

/-- The same with the SRAM cleared. -/
theorem Keeps.zeroFill_keeps {mbx : Mbx} {ecc : Ecc} {tim : Tim} {mon : Mon} {fw : Fw} {hws : Hws} {knt : Knt} {cmis : Cmis}
    {pwr : Pwr} {bst : Bst} {lanes : Lanes} {optics : Optics} {lyd : Vector Lyd 9} {cap : Cap} {resp : Resp} {fresh : Nat}
    (h : Keeps true s0 s) (hm : Mbx.Within s.mbx mbx) (he : ecc.log.length ≤ max 64 s.ecc.log.length)
    (hx : tim.txq.length ≤ max 64 s.tim.txq.length) (hr : tim.rxq.length ≤ max 64 s.tim.rxq.length)
    (ho : fw.otp = s.fw.otp) :
    Keeps true s0 (State.mk s.regs [] mbx ecc tim mon fw hws knt cmis pwr bst lanes optics lyd cap resp fresh s.pending) :=
  h.trans ⟨rfl, fun _ => rfl, id, by
    simp only [State.bounded, Bool.and_eq_true, decide_eq_true_eq]
    intro b
    exact ⟨⟨⟨hm b.1.1.1, by omega⟩, by omega⟩, by omega⟩, by
    show Otp.Grows s.fw.otp fw.otp
    rw [ho]
    exact Otp.Grows.refl _, fun e => nomatch e⟩

/-- The SRAM loses what is not retained. -/
theorem Keeps.retain_keeps (p : Host.Cell → Bool) (h : Keeps true s0 s) : Keeps true s0 { s with sram := s.sram.filter p } :=
  h.trans ⟨rfl, fun b => Bank.wfFrom_filter _ _ _ b, id, id, Otp.Grows.refl _, fun e => nomatch e⟩

theorem Mbx.Within.refl (x : Mbx) : Mbx.Within x x := id

/-! ## Combinators -/

theorem keeps_foldl {α : Type} {g : State → α → State} (l : List α) (h : Keeps ms s0 s)
    (hg : ∀ s x, Keeps ms s0 s → Keeps ms s0 (g s x)) : Keeps ms s0 (l.foldl g s) := by
  induction l generalizing s with
  | nil => exact h
  | cons x l ih => exact ih (hg s x h)

theorem keeps_foldl_fst {α β : Type} {g : State × β → α → State × β} (l : List α) (b : State × β) (h : Keeps ms s0 b.1)
    (hg : ∀ s x, Keeps ms s0 s.1 → Keeps ms s0 (g s x).1) : Keeps ms s0 (l.foldl g b).1 := by
  induction l generalizing b with
  | nil => exact h
  | cons x l ih => exact ih _ (hg b x h)

theorem keeps_foldl_snd {α β : Type} {g : β × State → α → β × State} (l : List α) (b : β × State) (h : Keeps ms s0 b.2)
    (hg : ∀ s x, Keeps ms s0 s.2 → Keeps ms s0 (g s x).2) : Keeps ms s0 (l.foldl g b).2 := by
  induction l generalizing b with
  | nil => exact h
  | cons x l ih => exact ih _ (hg b x h)

theorem Keeps.ofFst {β : Type} {e : State × β} {t : State} {b : β} (h : e = (t, b)) (k : Keeps ms s0 e.1) : Keeps ms s0 t := by
  rw [h] at k
  exact k

theorem Keeps.ofSnd {β : Type} {e : β × State} {t : State} {b : β} (h : e = (b, t)) (k : Keeps ms s0 e.2) : Keeps ms s0 t := by
  rw [h] at k
  exact k

/-! ## The stores -/

theorem State.setWord_keeps (r : RegD) (w : Word) (n m : Nat) (h : Keeps ms s0 s) : Keeps ms s0 (s.setWord r w n m) :=
  h.trans ⟨rfl, id, Bank.put_keysRise _ _ _, id, Otp.Grows.refl _, fun _ => ⟨rfl, rfl⟩⟩

theorem State.setPhysByte_keeps (p : Nat) (v : Byte) (h : Keeps true s0 s) : Keeps true s0 (s.setPhysByte p v) :=
  h.trans ⟨rfl, Bank.put_wf (d := fun _ => 0) p v, id, id, Otp.Grows.refl _, fun e => nomatch e⟩

/-! ## Updates of one part -/

theorem State.modEcc_keeps (f : Ecc → Ecc) (h : Keeps ms s0 s) (he : (f s.ecc).log.length ≤ max 64 s.ecc.log.length)
    (hr : ms = false → (f s.ecc).retired = s.ecc.retired) : Keeps ms s0 (s.modEcc f) :=
  h.trans ⟨rfl, id, id, by
    unfold State.modEcc
    simp only [State.bounded, Bool.and_eq_true, decide_eq_true_eq]
    intro b
    exact ⟨⟨⟨b.1.1.1, by omega⟩, b.1.2⟩, b.2⟩, Otp.Grows.refl _, fun e => ⟨rfl, hr e⟩⟩

/-! ## The event queue, the rings and the outstanding table -/

theorem Mbx.Within.of {x y : Mbx} (h : y.host.entries.length ≤ max 256 x.host.entries.length)
    (i : ∀ k : Fin 3, y.internal[k].entries.length ≤ max 64 x.internal[k].entries.length)
    (e : y.events.length ≤ max 64 x.events.length) (o : y.outstanding.length ≤ max 2048 x.outstanding.length) :
    Mbx.Within x y := by
  intro b
  simp only [Mbx.bounded, Bool.and_eq_true, decide_eq_true_eq] at b ⊢
  obtain ⟨⟨⟨b1, b2⟩, b3⟩, b4⟩ := b
  refine ⟨⟨⟨by omega, fun k => ?_⟩, by omega⟩, by omega⟩
  have := i k
  have := b2 k
  omega

/-- Fields of the mailboxes that are no queue. -/
theorem Mbx.Within.keep {x : Mbx} {n : Nat} {rr : Nat} {w e p b cb pc} :
    Mbx.Within x { x with nextId := n, rr := rr, windows := w, evGen := e, policy := p, policyBits := b, changedBy := cb,
                          policyChanged := pc } := id

theorem Mbx.Within.outstanding (x : Mbx) (l : List Cmd) (h : l.length ≤ max 2048 x.outstanding.length) :
    Mbx.Within x { x with outstanding := l } :=
  .of (Nat.le_max_right ..) (fun _ => Nat.le_max_right ..) (Nat.le_max_right ..) h

theorem Mbx.Within.events (x : Mbx) (l : List Evt) (n : BitVec 16) (h : l.length ≤ max 64 x.events.length) :
    Mbx.Within x { x with events := l, evGen := n } :=
  .of (Nat.le_max_right ..) (fun _ => Nat.le_max_right ..) h (Nat.le_max_right ..)

theorem Mbx.Within.host (x : Mbx) (r : Ring) (h : r.entries.length ≤ max 256 x.host.entries.length) :
    Mbx.Within x { x with host := r } :=
  .of h (fun _ => Nat.le_max_right ..) (Nat.le_max_right ..) (Nat.le_max_right ..)

theorem Mbx.Within.internal (x : Mbx) (k : Fin 3) (r : Ring)
    (h : r.entries.length ≤ max 64 x.internal[k].entries.length) :
    Mbx.Within x { x with internal := x.internal.set k r } := by
  refine .of (Nat.le_max_right ..) (fun j => ?_) (Nat.le_max_right ..) (Nat.le_max_right ..)
  by_cases e : k = j
  · subst e; simpa using h
  · have : (k : Nat) ≠ j := fun x => e (Fin.ext x)
    simp [this]

theorem Ring.push_length (r : Ring) (cap : Nat) (c : Cpl) :
    (r.push cap c).1.entries.length ≤ max cap r.entries.length := by
  unfold Ring.push
  split
  · simp; omega
  · exact Nat.le_max_right ..

theorem Ring.of_push {r r' : Ring} {cap : Nat} {c : Cpl} {b : Bool × Bool} (h : r.push cap c = (r', b)) :
    r'.entries.length ≤ max cap r.entries.length := by
  have := Ring.push_length r cap c
  rw [h] at this
  exact this

theorem Ring.pop_length (r : Ring) : r.pop.entries.length ≤ r.entries.length := by simp [Ring.pop]

theorem length_filter_max {α : Type} (k : Nat) (p : α → Bool) (l : List α) : (l.filter p).length ≤ max k l.length :=
  Nat.le_trans (List.length_filter_le p l) (Nat.le_max_right ..)

theorem length_map_max {α : Type} (k : Nat) (f : α → α) (l : List α) : (l.map f).length ≤ max k l.length := by
  simp

end Sys2Proof.Machine
end

