-- ==== Sys2Proof/Laws/KeepOps.lean ====
section
/-! SUPPORT. Sys2Proof/Laws/KeepOps.lean: each operation of Machine/Ops.lean keeps what Keeps says. -/

namespace Sys2Proof.Machine

variable {ms : Bool} {s0 : State}

theorem State.put_keeps {s : State} (f) (v) (n) (m) (h0 : Keeps ms s0 s) :
    Keeps ms s0 (State.put s f v n m) := by
  unfold State.put
  repeat' (first | with_reducible assumption | with_reducible apply State.setWord_keeps)

theorem State.putB_keeps {s : State} (f) (b) (n) (m) (h0 : Keeps ms s0 s) :
    Keeps ms s0 (State.putB s f b n m) := by
  unfold State.putB
  repeat' (first | with_reducible assumption | with_reducible apply State.put_keeps)

theorem State.addSat_keeps {s : State} (f) (k) (n) (m) (h0 : Keeps ms s0 s) :
    Keeps ms s0 (State.addSat s f k n m) := by
  unfold State.addSat
  repeat' (first | with_reducible assumption | with_reducible apply State.put_keeps)

theorem State.incWrap_keeps {s : State} (f) (n) (m) (h0 : Keeps ms s0 s) :
    Keeps ms s0 (State.incWrap s f n m) := by
  unfold State.incWrap
  repeat' (first | with_reducible assumption | with_reducible apply State.put_keeps)

theorem State.free_keeps {s : State} (site) (h0 : Keeps ms s0 s) :
    Keeps ms s0 (State.free s site).2 := by
  unfold State.free
  repeat' (first
    | (extract_lets +onlyGivenNames _) | with_reducible exact Nat.le_max_right _ _
    | with_reducible exact Mbx.Within.refl _ | (with_reducible apply Keeps.lit; with_reducible assumption)
    | dsimp +zetaDelta only)

theorem State.freeRound_keeps {s : State} (site) (num) (den) (h0 : Keeps ms s0 s) :
    Keeps ms s0 (State.freeRound s site num den).2 := by
  unfold State.freeRound
  repeat' (first | with_reducible assumption | with_reducible apply State.free_keeps | split)

theorem State.answer_keeps {s : State} (r) (h0 : Keeps ms s0 s) :
    Keeps ms s0 (State.answer s r) := by
  unfold State.answer
  repeat' (first
    | (extract_lets +onlyGivenNames _) | with_reducible exact Nat.le_max_right _ _
    | with_reducible exact Mbx.Within.refl _ | (with_reducible apply Keeps.lit; with_reducible assumption)
    | dsimp +zetaDelta only)

theorem State.lifeAdd_keeps {s : State} (w) (k) (h0 : Keeps ms s0 s) :
    Keeps ms s0 (State.lifeAdd s w k) := by
  unfold State.lifeAdd
  repeat' (first
    | (extract_lets +onlyGivenNames _) | with_reducible exact Nat.le_max_right _ _
    | with_reducible exact Mbx.Within.refl _ | (with_reducible apply Keeps.lit; with_reducible assumption)
    | dsimp +zetaDelta only)

theorem State.perfAdd_keeps {s : State} (fuel) (j) (k) (h0 : Keeps ms s0 s) :
    Keeps ms s0 (State.perfAdd s fuel j k) := by
  induction fuel generalizing s j k with
  | zero =>
    unfold State.perfAdd
    dsimp only
    split
    · with_reducible apply Keeps.lit h0 <;> first | exact Mbx.Within.refl _ | exact Nat.le_max_right _ _ | rfl
    · with_reducible apply State.setWord_keeps
      with_reducible apply Keeps.lit h0 <;> first | exact Mbx.Within.refl _ | exact Nat.le_max_right _ _ | rfl
  | succ fuel ih =>
    unfold State.perfAdd
    dsimp only
    split
    · with_reducible apply Keeps.lit h0 <;> first | exact Mbx.Within.refl _ | exact Nat.le_max_right _ _ | rfl
    · split
      · apply ih
        with_reducible apply State.setWord_keeps
        with_reducible apply Keeps.lit h0 <;> first | exact Mbx.Within.refl _ | exact Nat.le_max_right _ _ | rfl
      · with_reducible apply State.setWord_keeps
        with_reducible apply Keeps.lit h0 <;> first | exact Mbx.Within.refl _ | exact Nat.le_max_right _ _ | rfl

theorem State.perf_keeps {s : State} (j) (k) (h0 : Keeps ms s0 s) :
    Keeps ms s0 (State.perf s j k) := by
  unfold State.perf
  repeat' (first | with_reducible assumption | with_reducible apply State.perfAdd_keeps | split)

theorem State.post_keeps {s : State} (code) (lane) (arg) (h0 : Keeps ms s0 s) :
    Keeps ms s0 (State.post s code lane arg) := by
  unfold State.post
  repeat' (first
    | (extract_lets +onlyGivenNames _) | with_reducible exact Nat.le_max_right _ _
    | with_reducible apply State.perf_keeps | with_reducible apply State.addSat_keeps
    | (with_reducible apply Keeps.lit; with_reducible assumption) | split | dsimp +zetaDelta only
    | (with_reducible apply Mbx.Within.keep; done))
  exact Mbx.Within.events _ _ _ (by simp; omega)

theorem State.postBare_keeps {s : State} (code) (lane) (h0 : Keeps ms s0 s) :
    Keeps ms s0 (State.postBare s code lane) := by
  unfold State.postBare
  repeat' (first
    | with_reducible assumption | (extract_lets +onlyGivenNames _) | with_reducible apply State.free_keeps
    | with_reducible apply State.post_keeps)

theorem State.modMon_keeps {s : State} (f) (h0 : Keeps ms s0 s) :
    Keeps ms s0 (State.modMon s f) := by
  unfold State.modMon
  repeat' (first
    | (extract_lets +onlyGivenNames _) | with_reducible exact Nat.le_max_right _ _
    | with_reducible exact Mbx.Within.refl _ | (with_reducible apply Keeps.lit; with_reducible assumption)
    | dsimp +zetaDelta only)

theorem State.modFathom_keeps {s : State} (i) (f) (h0 : Keeps ms s0 s) :
    Keeps ms s0 (State.modFathom s i f) := by
  unfold State.modFathom
  repeat' (first | with_reducible assumption | with_reducible apply State.modMon_keeps)

theorem fathomSample_keeps (i) (v) (excess) {s : State} (h3 : Keeps ms s0 s) :
    Keeps ms s0 (fathomSample i v excess s) := by
  unfold fathomSample
  repeat' (first
    | with_reducible assumption
    | (extract_lets +onlyGivenNames x; refine (fun hx : Keeps ms s0 x => ?_) ?_; clear_value x; on_goal 2 => subst x)
    | (extract_lets +onlyGivenNames _) | with_reducible apply State.perf_keeps
    | with_reducible apply State.addSat_keeps | with_reducible apply State.modFathom_keeps
    | with_reducible apply State.putB_keeps | with_reducible apply State.put_keeps
    | with_reducible apply State.post_keeps | split)

theorem fathomOffer_keeps (src) (pass) (v) {s : State} (h3 : Keeps ms s0 s) :
    Keeps ms s0 (fathomOffer src pass v s) := by
  unfold fathomOffer
  repeat' (first
    | with_reducible assumption | (with_reducible intro _) | (extract_lets +onlyGivenNames _)
    | with_reducible apply keeps_foldl | with_reducible apply fathomSample_keeps | split)

theorem State.setByte_keeps {s : State} (a) (v) (h0 : Keeps true s0 s) :
    Keeps true s0 (State.setByte s a v) := by
  unfold State.setByte
  repeat' (first | with_reducible assumption | with_reducible apply State.setPhysByte_keeps)

theorem State.setFlips_keeps {s : State} (p) (l) (h0 : Keeps ms s0 s) :
    Keeps ms s0 (State.setFlips s p l) := by
  unfold State.setFlips
  repeat' (first
    | with_reducible assumption | (with_reducible intro _) | (extract_lets +onlyGivenNames _)
    | with_reducible exact Nat.le_max_right _ _ | with_reducible apply State.modEcc_keeps | dsimp +zetaDelta only)

theorem State.eccWritten_keeps {s : State} (a) (h0 : Keeps ms s0 s) :
    Keeps ms s0 (State.eccWritten s a) := by
  unfold State.eccWritten
  repeat' (first
    | with_reducible assumption | (extract_lets +onlyGivenNames _) | with_reducible apply State.setFlips_keeps
    | with_reducible apply State.put_keeps | split)

theorem State.setBytes_keeps {s : State} (a) (bs) (h0 : Keeps true s0 s) :
    Keeps true s0 (State.setBytes s a bs) := by
  unfold State.setBytes
  repeat' (first
    | with_reducible assumption | (with_reducible intro _)
    | (extract_lets +onlyGivenNames x; refine (fun hx : Keeps true s0 x => ?_) ?_; clear_value x; on_goal 2 => subst x)
    | (extract_lets +onlyGivenNames _) | with_reducible apply keeps_foldl | with_reducible apply State.setByte_keeps
    | with_reducible apply State.eccWritten_keeps | with_reducible apply State.setFlips_keeps | split)

theorem State.modPort_keeps {s : State} (p) (f) (h0 : Keeps ms s0 s) :
    Keeps ms s0 (State.modPort s p f) := by
  unfold State.modPort
  repeat' (first
    | (extract_lets +onlyGivenNames _) | with_reducible exact Nat.le_max_right _ _
    | with_reducible exact Mbx.Within.refl _ | (with_reducible apply Keeps.lit; with_reducible assumption)
    | dsimp +zetaDelta only)

theorem State.modHws_keeps {s : State} (f) (h0 : Keeps ms s0 s) :
    Keeps ms s0 (State.modHws s f) := by
  unfold State.modHws
  repeat' (first
    | (extract_lets +onlyGivenNames _) | with_reducible exact Nat.le_max_right _ _
    | with_reducible exact Mbx.Within.refl _ | (with_reducible apply Keeps.lit; with_reducible assumption)
    | dsimp +zetaDelta only)

theorem State.hwLine_keeps {s : State} (x) (h0 : Keeps ms s0 s) :
    Keeps ms s0 (State.hwLine s x) := by
  unfold State.hwLine
  repeat' (first
    | with_reducible assumption | (extract_lets +onlyGivenNames _) | with_reducible apply State.free_keeps
    | with_reducible apply State.modPort_keeps | with_reducible apply State.modHws_keeps)

theorem State.hwReliable_keeps {s : State} (ack) (x) (h0 : Keeps ms s0 s) :
    Keeps ms s0 (State.hwReliable s ack x) := by
  unfold State.hwReliable
  repeat' (first
    | with_reducible assumption
    | (extract_lets +onlyGivenNames x; refine (fun hx : Keeps ms s0 x => ?_) ?_; clear_value x; on_goal 2 => subst x)
    | (extract_lets +onlyGivenNames _) | with_reducible apply State.modPort_keeps
    | with_reducible apply State.hwLine_keeps | split)

theorem State.hwEmit_keeps {s : State} (p) (src) (dst) (hops) (m) (h0 : Keeps ms s0 s) :
    Keeps ms s0 (State.hwEmit s p src dst hops m) := by
  unfold State.hwEmit
  repeat' (first
    | with_reducible assumption | (extract_lets +onlyGivenNames _) | with_reducible apply State.hwReliable_keeps
    | with_reducible apply State.hwLine_keeps | split)

theorem State.hwTryAll_keeps {s : State} (d) (ms1) (h0 : Keeps ms s0 s) :
    Keeps ms s0 (State.hwTryAll s d ms1).1 := by
  unfold State.hwTryAll
  repeat' (first
    | with_reducible assumption | (with_reducible intro _) | (extract_lets +onlyGivenNames _)
    | with_reducible apply keeps_foldl | with_reducible apply State.hwEmit_keeps | split)

theorem State.hwTry_keeps {s : State} (d) (m) (h0 : Keeps ms s0 s) :
    Keeps ms s0 (State.hwTry s d m).1 := by
  unfold State.hwTry
  repeat' (first | with_reducible assumption | with_reducible apply State.hwTryAll_keeps)

theorem State.hwSendTo_keeps {s : State} (d) (m) (h0 : Keeps ms s0 s) :
    Keeps ms s0 (State.hwSendTo s d m) := by
  unfold State.hwSendTo
  repeat' (first
    | with_reducible assumption | (extract_lets +onlyGivenNames _) | with_reducible apply State.hwTry_keeps
    | with_reducible apply State.addSat_keeps | split | (with_reducible refine Keeps.ofFst ‹_› ?_))

theorem State.postCpl_keeps {s : State} (w0) (m) (st) (orig) (result) (final) (h0 : Keeps ms s0 s) :
    Keeps ms s0 (State.postCpl s w0 m st orig result final) := by
  unfold State.postCpl
  repeat' (first
    | with_reducible assumption
    | (extract_lets +onlyGivenNames x; refine (fun hx : Keeps ms s0 x => ?_) ?_; clear_value x; on_goal 2 => subst x)
    | (extract_lets +onlyGivenNames _) | with_reducible exact Nat.le_max_right _ _
    | with_reducible apply State.hwTryAll_keeps | with_reducible apply State.addSat_keeps
    | with_reducible apply State.perf_keeps | with_reducible apply State.post_keeps
    | with_reducible apply State.incWrap_keeps | (with_reducible apply Keeps.lit; with_reducible assumption) | split
    | dsimp +zetaDelta only | (with_reducible refine Keeps.ofFst ‹_› ?_))
  · exact Mbx.Within.host _ _ (Ring.of_push ‹_›)
  · exact Mbx.Within.internal _ _ _ (Ring.of_push ‹_›)

theorem State.setWindow_keeps {s : State} (ident) (w) (h0 : Keeps ms s0 s) :
    Keeps ms s0 (State.setWindow s ident w) := by
  unfold State.setWindow
  repeat' (first
    | (extract_lets +onlyGivenNames _) | with_reducible exact Nat.le_max_right _ _
    | (with_reducible apply Keeps.lit; with_reducible assumption) | dsimp +zetaDelta only
    | (with_reducible apply Mbx.Within.keep; done))

theorem State.windowFinal_keeps {s : State} (c) (st) (result) (h0 : Keeps ms s0 s) :
    Keeps ms s0 (State.windowFinal s c st result) := by
  unfold State.windowFinal
  repeat' (first
    | with_reducible assumption | (extract_lets +onlyGivenNames _) | with_reducible apply State.setWindow_keeps
    | split)

theorem State.unlockStaging_keeps {s : State} (m) (h0 : Keeps ms s0 s) :
    Keeps ms s0 (State.unlockStaging s m) := by
  unfold State.unlockStaging
  repeat' (first | with_reducible assumption | with_reducible apply State.put_keeps)

theorem completionOffer_keeps (ident) (us) {s : State} (h2 : Keeps ms s0 s) :
    Keeps ms s0 (completionOffer ident us s) := by
  unfold completionOffer
  repeat' (first | with_reducible assumption | with_reducible apply fathomOffer_keeps)

theorem State.finishAs_keeps {s : State} (c) (st) (orig) (result) (h0 : Keeps ms s0 s) :
    Keeps ms s0 (State.finishAs s c st orig result) := by
  unfold State.finishAs
  repeat' (first
    | with_reducible assumption | (with_reducible intro _)
    | (extract_lets +onlyGivenNames x; refine (fun hx : Keeps ms s0 x => ?_) ?_; clear_value x; on_goal 2 => subst x)
    | (extract_lets +onlyGivenNames _) | with_reducible exact Nat.le_max_right _ _ | with_reducible apply keeps_foldl
    | with_reducible apply State.windowFinal_keeps | with_reducible apply State.unlockStaging_keeps
    | with_reducible apply completionOffer_keeps | with_reducible apply State.postCpl_keeps
    | (with_reducible apply Keeps.lit; with_reducible assumption) | split | dsimp +zetaDelta only)
  exact Mbx.Within.outstanding _ _ (length_filter_max ..)

theorem State.finish_keeps {s : State} (c) (st) (result) (h0 : Keeps ms s0 s) :
    Keeps ms s0 (State.finish s c st result) := by
  unfold State.finish
  repeat' (first | with_reducible assumption | with_reducible apply State.finishAs_keeps)

theorem State.setCmd_keeps {s : State} (c) (h0 : Keeps ms s0 s) :
    Keeps ms s0 (State.setCmd s c) := by
  unfold State.setCmd
  repeat' (first
    | (extract_lets +onlyGivenNames _) | with_reducible exact Nat.le_max_right _ _
    | (with_reducible apply Keeps.lit; with_reducible assumption) | dsimp +zetaDelta only)
  exact Mbx.Within.outstanding _ _ (length_map_max ..)

theorem State.await_keeps {s : State} (c) (w) (h0 : Keeps ms s0 s) :
    Keeps ms s0 (State.await s c w) := by
  unfold State.await
  repeat' (first | with_reducible assumption | with_reducible apply State.setCmd_keeps)

theorem State.defer_keeps {s : State} (c) (w) (h0 : Keeps ms s0 s) :
    Keeps ms s0 (State.defer s c w) := by
  unfold State.defer
  repeat' (first
    | with_reducible assumption
    | (extract_lets +onlyGivenNames x; refine (fun hx : Keeps ms s0 x => ?_) ?_; clear_value x; on_goal 2 => subst x)
    | with_reducible apply State.await_keeps | with_reducible apply State.postCpl_keeps | split)

theorem State.finishWhere_keeps {s : State} (p) (st) (result) (h0 : Keeps ms s0 s) :
    Keeps ms s0 (State.finishWhere s p st result) := by
  unfold State.finishWhere
  repeat' (first
    | with_reducible assumption | (with_reducible intro _) | (extract_lets +onlyGivenNames _)
    | with_reducible apply keeps_foldl | with_reducible apply State.finish_keeps)

theorem State.mapWaits_keeps {s : State} (f) (h0 : Keeps ms s0 s) :
    Keeps ms s0 (State.mapWaits s f) := by
  unfold State.mapWaits
  repeat' (first
    | (extract_lets +onlyGivenNames _) | with_reducible exact Nat.le_max_right _ _
    | (with_reducible apply Keeps.lit; with_reducible assumption) | dsimp +zetaDelta only)
  exact Mbx.Within.outstanding _ _ (length_map_max ..)

theorem runCmd_keeps (op) (m) (f) {s : State} (h2 : ∀ a0 t1, Keeps ms s0 t1 → Keeps ms s0 (f a0 t1)) (h3 : Keeps ms s0 s) :
    Keeps ms s0 (runCmd op m f s) := by
  unfold runCmd
  repeat' (first | with_reducible assumption | with_reducible apply h2 | split)

theorem State.finishStaged_keeps {s : State} (c) (bs) (h0 : Keeps true s0 s) :
    Keeps true s0 (State.finishStaged s c bs) := by
  unfold State.finishStaged
  repeat' (first
    | with_reducible assumption | (extract_lets +onlyGivenNames _) | with_reducible apply State.finish_keeps
    | with_reducible apply State.setBytes_keeps)

theorem State.writePlain_keeps {s : State} (r) (v) (n) (m) (h0 : Keeps ms s0 s) :
    Keeps ms s0 (State.writePlain s r v n m) := by
  unfold State.writePlain
  repeat' (first
    | with_reducible assumption | (extract_lets +onlyGivenNames _) | with_reducible apply State.setWord_keeps)

end Sys2Proof.Machine
end

