-- ==== Sys2Proof/Laws/KeepMonitor.lean ====
section
/-! SUPPORT. Sys2Proof/Laws/KeepMonitor.lean: each operation of Machine/Monitor.lean keeps what Keeps says. -/

namespace Sys2Proof.Machine

variable {ms : Bool} {s0 : State}

theorem windowOutward_keeps (w) (z) (v) {s : State} (h3 : Keeps ms s0 s) :
    Keeps ms s0 (windowOutward w z v s) := by
  unfold windowOutward
  repeat' (first
    | with_reducible assumption
    | (extract_lets +onlyGivenNames x; refine (fun hx : Keeps ms s0 x => ?_) ?_; clear_value x; on_goal 2 => subst x)
    | (extract_lets +onlyGivenNames _) | with_reducible apply State.put_keeps
    | with_reducible apply State.addSat_keeps | with_reducible apply State.perf_keeps
    | with_reducible apply State.post_keeps | split)

theorem windowEval_keeps (c) (v) {s : State} (w) (h2 : Keeps ms s0 s) :
    Keeps ms s0 (windowEval c v s w) := by
  unfold windowEval
  repeat' (first
    | with_reducible assumption
    | (extract_lets +onlyGivenNames x; refine (fun hx : Keeps ms s0 x => ?_) ?_; clear_value x; on_goal 2 => subst x)
    | (extract_lets +onlyGivenNames _) | with_reducible apply State.put_keeps
    | with_reducible apply State.modMon_keeps | with_reducible apply windowOutward_keeps | split)

theorem convDone_keeps (c) (code) (gain) (offs) {s : State} (h4 : Keeps ms s0 s) :
    Keeps ms s0 (convDone c code gain offs s) := by
  unfold convDone
  repeat' (first
    | with_reducible assumption | (with_reducible intro _)
    | (extract_lets +onlyGivenNames x; refine (fun hx : Keeps ms s0 x => ?_) ?_; clear_value x; on_goal 2 => subst x)
    | (extract_lets +onlyGivenNames _) | with_reducible apply keeps_foldl | with_reducible apply State.put_keeps
    | with_reducible apply State.perf_keeps | with_reducible apply windowEval_keeps
    | with_reducible apply fathomOffer_keeps)

theorem convStart_keeps (c) (urgent) {s : State} (h2 : Keeps ms s0 s) :
    Keeps ms s0 (convStart c urgent s) := by
  unfold convStart
  repeat' (first | with_reducible assumption | with_reducible apply State.modMon_keeps)

theorem convNext_keeps {s : State} (h0 : Keeps ms s0 s) :
    Keeps ms s0 (convNext s) := by
  unfold convNext
  repeat' (first
    | with_reducible assumption | (extract_lets +onlyGivenNames _) | with_reducible apply convStart_keeps
    | with_reducible apply State.modMon_keeps | split)

theorem adcUrgWrite_keeps (v) {s : State} (h1 : Keeps ms s0 s) :
    Keeps ms s0 (adcUrgWrite v s) := by
  unfold adcUrgWrite
  repeat' (first
    | with_reducible assumption
    | (extract_lets +onlyGivenNames x; refine (fun hx : Keeps ms s0 x => ?_) ?_; clear_value x; on_goal 2 => subst x)
    | (extract_lets +onlyGivenNames _) | with_reducible apply State.put_keeps | with_reducible apply convNext_keeps
    | with_reducible apply State.modMon_keeps | split)

theorem adcCtrlWrite_keeps {s : State} (h0 : Keeps ms s0 s) :
    Keeps ms s0 (adcCtrlWrite s) := by
  unfold adcCtrlWrite
  repeat' (first | with_reducible assumption | with_reducible apply State.put_keeps | split)

theorem triggerDrop_keeps (c) {s : State} (h1 : Keeps ms s0 s) :
    Keeps ms s0 (triggerDrop c s) := by
  unfold triggerDrop
  repeat' (first
    | with_reducible assumption
    | (extract_lets +onlyGivenNames x; refine (fun hx : Keeps ms s0 x => ?_) ?_; clear_value x; on_goal 2 => subst x)
    | (extract_lets +onlyGivenNames _) | with_reducible apply State.put_keeps | with_reducible apply State.perf_keeps
    | with_reducible apply State.addSat_keeps | with_reducible apply State.post_keeps | split)

theorem triggerEvent_keeps {s : State} (c) (h0 : Keeps ms s0 s) :
    Keeps ms s0 (triggerEvent s c) := by
  unfold triggerEvent
  repeat' (first
    | with_reducible assumption
    | (extract_lets +onlyGivenNames x; refine (fun hx : Keeps ms s0 x => ?_) ?_; clear_value x; on_goal 2 => subst x)
    | (extract_lets +onlyGivenNames _) | with_reducible apply State.modMon_keeps
    | with_reducible apply triggerDrop_keeps | split)

theorem execTriggeredConversionRequest_keeps (ch) (kind) {s : State} (h2 : Keeps ms s0 s) :
    KeepsO ms s0 (execTriggeredConversionRequest ch kind s) := by
  unfold execTriggeredConversionRequest
  repeat' (first
    | with_reducible assumption | (with_reducible intro _) | (extract_lets +onlyGivenNames _)
    | with_reducible apply KeepsO.next | with_reducible apply keeps_foldl | with_reducible apply triggerEvent_keeps)

theorem execTriggeredConversionDue_keeps (c) {s : State} (h1 : Keeps ms s0 s) :
    KeepsO ms s0 (execTriggeredConversionDue c s) := by
  unfold execTriggeredConversionDue
  repeat' (first
    | with_reducible assumption | (extract_lets +onlyGivenNames _) | with_reducible apply KeepsO.next
    | with_reducible apply convNext_keeps | with_reducible apply State.modMon_keeps | split)

theorem execSequencerRound_keeps {s : State} (h0 : Keeps ms s0 s) :
    KeepsO ms s0 (execSequencerRound s) := by
  unfold execSequencerRound
  repeat' (first
    | with_reducible assumption | (extract_lets +onlyGivenNames _) | with_reducible apply KeepsO.next
    | with_reducible apply convNext_keeps | with_reducible apply State.modMon_keeps
    | with_reducible apply State.addSat_keeps | split)

theorem execAdcConversionEnd_keeps (code) {s : State} (h1 : Keeps ms s0 s) :
    KeepsO ms s0 (execAdcConversionEnd code s) := by
  unfold execAdcConversionEnd
  repeat' (first
    | with_reducible assumption
    | (extract_lets +onlyGivenNames x; refine (fun hx : Keeps ms s0 x => ?_) ?_; clear_value x; on_goal 2 => subst x)
    | (extract_lets +onlyGivenNames _) | with_reducible apply KeepsO.next | with_reducible apply convDone_keeps
    | with_reducible apply State.modMon_keeps | with_reducible apply State.put_keeps
    | with_reducible apply convNext_keeps | split)

theorem execReferenceReady_keeps {s : State} (h0 : Keeps ms s0 s) :
    KeepsO ms s0 (execReferenceReady s) := by
  unfold execReferenceReady
  repeat' (first
    | with_reducible assumption
    | (extract_lets +onlyGivenNames x; refine (fun hx : Keeps ms s0 x => ?_) ?_; clear_value x; on_goal 2 => subst x)
    | (extract_lets +onlyGivenNames _) | with_reducible apply KeepsO.next | with_reducible apply State.put_keeps
    | with_reducible apply State.modMon_keeps | with_reducible apply convNext_keeps | split)

theorem execAnchorMonitorRound_keeps (codes) {s : State} (h1 : Keeps ms s0 s) :
    KeepsO ms s0 (execAnchorMonitorRound codes s) := by
  unfold execAnchorMonitorRound
  repeat' (first
    | with_reducible assumption | (with_reducible intro _) | (extract_lets +onlyGivenNames _)
    | with_reducible apply KeepsO.next | with_reducible apply keeps_foldl | with_reducible apply convDone_keeps
    | split)

theorem fathomStop_keeps (i) {s : State} (h1 : Keeps ms s0 s) :
    Keeps ms s0 (fathomStop i s) := by
  unfold fathomStop
  repeat' (first | with_reducible assumption | with_reducible apply State.put_keeps)

theorem fathomStart_keeps (i) {s : State} (h1 : Keeps ms s0 s) :
    Keeps ms s0 (fathomStart i s) := by
  unfold fathomStart
  repeat' (first
    | with_reducible assumption
    | (extract_lets +onlyGivenNames x; refine (fun hx : Keeps ms s0 x => ?_) ?_; clear_value x; on_goal 2 => subst x)
    | (extract_lets +onlyGivenNames _) | with_reducible apply State.modFathom_keeps
    | with_reducible apply State.put_keeps)

theorem fathomWrite_keeps (i) (isCfg) (v) {s : State} (h3 : Keeps ms s0 s) :
    Keeps ms s0 (fathomWrite i isCfg v s) := by
  unfold fathomWrite
  repeat' (first
    | with_reducible assumption
    | (extract_lets +onlyGivenNames x; refine (fun hx : Keeps ms s0 x => ?_) ?_; clear_value x; on_goal 2 => subst x)
    | with_reducible apply fathomStop_keeps | with_reducible apply fathomStart_keeps | split)

theorem fathomRequest_keeps (i) {s : State} (h1 : Keeps ms s0 s) :
    Keeps ms s0 (fathomRequest i s) := by
  unfold fathomRequest
  repeat' (first
    | with_reducible assumption | (extract_lets +onlyGivenNames _) | with_reducible apply State.put_keeps
    | with_reducible apply State.modFathom_keeps)

theorem execFathomSample_keeps (i) (y) (excess) {s : State} (h5 : Keeps ms s0 s) :
    KeepsO ms s0 (execFathomSample i y excess s) := by
  unfold execFathomSample
  repeat' (first
    | with_reducible assumption | (extract_lets +onlyGivenNames _) | with_reducible apply KeepsO.next
    | with_reducible apply fathomSample_keeps | split)

theorem fathomEnd_keeps (i) {s : State} (h1 : Keeps ms s0 s) :
    Keeps ms s0 (fathomEnd i s) := by
  unfold fathomEnd
  repeat' (first
    | with_reducible assumption
    | (extract_lets +onlyGivenNames x; refine (fun hx : Keeps ms s0 x => ?_) ?_; clear_value x; on_goal 2 => subst x)
    | (extract_lets +onlyGivenNames _) | with_reducible apply fathomRequest_keeps
    | with_reducible apply fathomStop_keeps | with_reducible apply State.put_keeps
    | with_reducible apply State.post_keeps | split)

theorem execFathomCaptureEnd_keeps (i) {s : State} (h1 : Keeps ms s0 s) :
    KeepsO ms s0 (execFathomCaptureEnd i s) := by
  unfold execFathomCaptureEnd
  repeat' (first
    | with_reducible assumption | (extract_lets +onlyGivenNames _) | with_reducible apply KeepsO.next
    | with_reducible apply fathomEnd_keeps | split)

theorem fathomSwap_keeps (i) {s : State} (h1 : Keeps ms s0 s) :
    Keeps ms s0 (fathomSwap i s) := by
  unfold fathomSwap
  repeat' (first
    | with_reducible assumption
    | (extract_lets +onlyGivenNames x; refine (fun hx : Keeps ms s0 x => ?_) ?_; clear_value x; on_goal 2 => subst x)
    | (extract_lets +onlyGivenNames _) | with_reducible apply State.modFathom_keeps
    | with_reducible apply State.putB_keeps)

theorem execFathomSnapshotSwap_keeps (i) {s : State} (h1 : Keeps ms s0 s) :
    KeepsO ms s0 (execFathomSnapshotSwap i s) := by
  unfold execFathomSnapshotSwap
  repeat' (first
    | with_reducible assumption | (extract_lets +onlyGivenNames _) | with_reducible apply KeepsO.next
    | with_reducible apply fathomSwap_keeps | split)

theorem fathomWritten_keeps (i) {s : State} (h1 : Keeps true s0 s) :
    Keeps true s0 (fathomWritten i s) := by
  unfold fathomWritten
  repeat' (first
    | with_reducible assumption
    | (extract_lets +onlyGivenNames x; refine (fun hx : Keeps true s0 x => ?_) ?_; clear_value x; on_goal 2 => subst x)
    | (extract_lets +onlyGivenNames _) | with_reducible apply State.setBytes_keeps
    | with_reducible apply State.put_keeps | with_reducible apply State.modFathom_keeps
    | with_reducible apply State.putB_keeps)

theorem fathomAnswer_keeps (i) {s : State} (h1 : Keeps ms s0 s) :
    Keeps ms s0 (fathomAnswer i s) := by
  unfold fathomAnswer
  repeat' (first
    | with_reducible assumption | (with_reducible intro _)
    | (extract_lets +onlyGivenNames x; refine (fun hx : Keeps ms s0 x => ?_) ?_; clear_value x; on_goal 2 => subst x)
    | (extract_lets +onlyGivenNames _) | with_reducible apply keeps_foldl | with_reducible apply State.mapWaits_keeps
    | with_reducible apply State.finish_keeps)

theorem execFathomWriteoutDone_keeps (i) {s : State} (h1 : Keeps true s0 s) :
    KeepsO true s0 (execFathomWriteoutDone i s) := by
  unfold execFathomWriteoutDone
  repeat' (first
    | with_reducible assumption | (extract_lets +onlyGivenNames _) | with_reducible apply KeepsO.next
    | with_reducible apply fathomAnswer_keeps | with_reducible apply fathomWritten_keeps | split)

theorem monConfigured_keeps (c) (i) {s : State} (h2 : Keeps ms s0 s) :
    Keeps ms s0 (monConfigured c i s) := by
  unfold monConfigured
  repeat' (first
    | with_reducible assumption
    | (extract_lets +onlyGivenNames x; refine (fun hx : Keeps ms s0 x => ?_) ?_; clear_value x; on_goal 2 => subst x)
    | (extract_lets +onlyGivenNames _) | with_reducible apply fathomStop_keeps
    | with_reducible apply State.writePlain_keeps)

theorem execMonConfig_keeps (m) {s : State} (h1 : Keeps ms s0 s) :
    KeepsO ms s0 (execMonConfig m s) := by
  unfold execMonConfig
  repeat' (first
    | with_reducible assumption | (with_reducible intro _)
    | (extract_lets +onlyGivenNames x; refine (fun hx : Keeps ms s0 x => ?_) ?_; clear_value x; on_goal 2 => subst x)
    | (extract_lets +onlyGivenNames _) | with_reducible apply KeepsO.next | with_reducible apply runCmd_keeps
    | with_reducible apply monConfigured_keeps | with_reducible apply fathomStart_keeps
    | with_reducible apply State.finish_keeps | split)

theorem execMonSnapshot_keeps (m) {s : State} (h1 : Keeps ms s0 s) :
    KeepsO ms s0 (execMonSnapshot m s) := by
  unfold execMonSnapshot
  repeat' (first
    | with_reducible assumption | (with_reducible intro _)
    | (extract_lets +onlyGivenNames x; refine (fun hx : Keeps ms s0 x => ?_) ?_; clear_value x; on_goal 2 => subst x)
    | (extract_lets +onlyGivenNames _) | with_reducible apply KeepsO.next | with_reducible apply keeps_foldl
    | with_reducible apply runCmd_keeps | with_reducible apply State.finish_keeps
    | with_reducible apply State.free_keeps | with_reducible apply fathomRequest_keeps
    | with_reducible apply State.await_keeps | split | (clear_value *; split)
    | (with_reducible refine Keeps.ofSnd ‹_› ?_))

theorem monWinCfgWrite_keeps (w) (v) {s : State} (h2 : Keeps ms s0 s) :
    Keeps ms s0 (monWinCfgWrite w v s) := by
  unfold monWinCfgWrite
  repeat' (first | with_reducible assumption | with_reducible apply State.writePlain_keeps)

theorem windowSet_keeps (c) (w) {s : State} (h2 : Keeps ms s0 s) :
    Keeps ms s0 (windowSet c w s) := by
  unfold windowSet
  repeat' (first
    | with_reducible assumption | (extract_lets +onlyGivenNames _) | with_reducible apply monWinCfgWrite_keeps
    | with_reducible apply State.writePlain_keeps)

theorem execMonSetWindow_keeps (m) {s : State} (h1 : Keeps ms s0 s) :
    KeepsO ms s0 (execMonSetWindow m s) := by
  unfold execMonSetWindow
  repeat' (first
    | with_reducible assumption | (with_reducible intro _) | (extract_lets +onlyGivenNames _)
    | with_reducible apply KeepsO.next | with_reducible apply runCmd_keeps | with_reducible apply State.finish_keeps
    | with_reducible apply windowSet_keeps | split)

theorem samplerArm_keeps (k) {s : State} (h1 : Keeps ms s0 s) :
    Keeps ms s0 (samplerArm k s) := by
  unfold samplerArm
  repeat' (first
    | with_reducible assumption | (extract_lets +onlyGivenNames _) | with_reducible apply State.modMon_keeps)

theorem perfConfig_keeps (action) (f) (m) {s : State} (h1 : ∀ a0 t1, Keeps ms s0 t1 → Keeps ms s0 (f a0 t1)) (h3 : Keeps ms s0 s) :
    KeepsO ms s0 (perfConfig action f m s) := by
  unfold perfConfig
  repeat' (first
    | with_reducible assumption | (with_reducible intro _) | (extract_lets +onlyGivenNames _)
    | with_reducible apply KeepsO.next | with_reducible apply h1 | with_reducible apply runCmd_keeps
    | with_reducible apply State.finish_keeps | split)

theorem execPerfConfigChain_keeps (m) {s : State} (h1 : Keeps ms s0 s) :
    KeepsO ms s0 (execPerfConfigChain m s) := by
  unfold execPerfConfigChain
  repeat' (first
    | with_reducible assumption | (with_reducible intro _) | (extract_lets +onlyGivenNames _)
    | with_reducible apply keeps_foldl | with_reducible apply perfConfig_keeps
    | with_reducible apply State.writePlain_keeps)

theorem execPerfConfigSampler_keeps (m) {s : State} (h1 : Keeps ms s0 s) :
    KeepsO ms s0 (execPerfConfigSampler m s) := by
  unfold execPerfConfigSampler
  repeat' (first
    | with_reducible assumption | (with_reducible intro _) | (extract_lets +onlyGivenNames _)
    | with_reducible apply perfConfig_keeps | with_reducible apply samplerArm_keeps
    | with_reducible apply State.writePlain_keeps)

theorem execPerfConfigClearOvf_keeps (m) {s : State} (h1 : Keeps ms s0 s) :
    KeepsO ms s0 (execPerfConfigClearOvf m s) := by
  unfold execPerfConfigClearOvf
  repeat' (first
    | with_reducible assumption | (with_reducible intro _) | (extract_lets +onlyGivenNames _)
    | with_reducible apply keeps_foldl | with_reducible apply perfConfig_keeps
    | with_reducible apply State.writePlain_keeps)

theorem pmuCtrlWrite_keeps (v) {s : State} (h1 : Keeps ms s0 s) :
    Keeps ms s0 (pmuCtrlWrite v s) := by
  unfold pmuCtrlWrite
  repeat' (first | with_reducible assumption | with_reducible apply State.modMon_keeps | split)

theorem execSamplerCrossing_keeps (k) (pc) {s : State} (h2 : Keeps ms s0 s) :
    KeepsO ms s0 (execSamplerCrossing k pc s) := by
  unfold execSamplerCrossing
  repeat' (first
    | with_reducible assumption
    | (extract_lets +onlyGivenNames x; refine (fun hx : Keeps ms s0 x => ?_) ?_; clear_value x; on_goal 2 => subst x)
    | (extract_lets +onlyGivenNames _) | with_reducible apply KeepsO.next | with_reducible apply State.put_keeps
    | with_reducible apply samplerArm_keeps | split)

end Sys2Proof.Machine
end

