-- ==== Sys2Proof/Laws/KeepTime.lean ====
section
/-! SUPPORT. Sys2Proof/Laws/KeepTime.lean: each operation of Machine/Time.lean keeps what Keeps says. -/

namespace Sys2Proof.Machine

variable {ms : Bool} {s0 : State}

theorem State.modTim_keeps {s : State} (f : Tim → Tim) (h0 : Keeps ms s0 s) (hx : (f s.tim).txq.length ≤ max 64 s.tim.txq.length)
    (hr : (f s.tim).rxq.length ≤ max 64 s.tim.rxq.length) : Keeps ms s0 (s.modTim f) :=
  Keeps.lit h0 (Mbx.Within.refl _) hx hr rfl

theorem State.setRate_keeps {s : State} (r) (h0 : Keeps ms s0 s) :
    Keeps ms s0 (State.setRate s r) := by
  unfold State.setRate
  repeat' (first
    | with_reducible assumption | (extract_lets +onlyGivenNames _) | with_reducible apply State.put_keeps)

theorem State.retarget_keeps {s : State} (h0 : Keeps ms s0 s) :
    Keeps ms s0 (State.retarget s) := by
  unfold State.retarget
  repeat' (first
    | with_reducible assumption
    | (extract_lets +onlyGivenNames x; refine (fun hx : Keeps ms s0 x => ?_) ?_; clear_value x; on_goal 2 => subst x)
    | (extract_lets +onlyGivenNames _) | with_reducible exact Nat.le_max_right _ _
    | with_reducible exact Mbx.Within.refl _ | with_reducible apply State.modTim_keeps
    | (with_reducible apply Keeps.lit; with_reducible assumption) | dsimp +zetaDelta only)

theorem State.ppsRealign_keeps {s : State} (before) (h0 : Keeps ms s0 s) :
    Keeps ms s0 (State.ppsRealign s before) := by
  unfold State.ppsRealign
  repeat' (first
    | with_reducible assumption | (extract_lets +onlyGivenNames _) | with_reducible exact Nat.le_max_right _ _
    | with_reducible apply State.modTim_keeps | split)

theorem State.applyTime_keeps {s : State} (a) (h0 : Keeps ms s0 s) :
    Keeps ms s0 (State.applyTime s a) := by
  unfold State.applyTime
  repeat' (first
    | with_reducible assumption
    | (extract_lets +onlyGivenNames x; refine (fun hx : Keeps ms s0 x => ?_) ?_; clear_value x; on_goal 2 => subst x)
    | (extract_lets +onlyGivenNames _) | with_reducible exact Nat.le_max_right _ _
    | with_reducible apply State.setRate_keeps | with_reducible apply State.modTim_keeps
    | with_reducible apply State.retarget_keeps | with_reducible apply State.ppsRealign_keeps | split)

theorem State.clearCoarse_keeps {s : State} (h0 : Keeps ms s0 s) :
    Keeps ms s0 (State.clearCoarse s) := by
  unfold State.clearCoarse
  repeat' (first
    | with_reducible assumption | (extract_lets +onlyGivenNames _) | with_reducible apply State.put_keeps)

theorem State.requestTime_keeps {s : State} (a) (clear) (cmd) (h0 : Keeps ms s0 s) :
    Keeps ms s0 (State.requestTime s a clear cmd) := by
  unfold State.requestTime
  repeat' (first
    | with_reducible assumption
    | (extract_lets +onlyGivenNames x; refine (fun hx : Keeps ms s0 x => ?_) ?_; clear_value x; on_goal 2 => subst x)
    | (extract_lets +onlyGivenNames _) | with_reducible exact Nat.le_max_right _ _
    | with_reducible apply State.applyTime_keeps | with_reducible apply State.clearCoarse_keeps
    | with_reducible apply State.put_keeps | with_reducible apply State.finish_keeps
    | with_reducible apply State.modTim_keeps | with_reducible apply State.await_keeps | split)

theorem State.releaseHeld_keeps {s : State} (h0 : Keeps ms s0 s) :
    Keeps ms s0 (State.releaseHeld s) := by
  unfold State.releaseHeld
  repeat' (first
    | with_reducible assumption | (with_reducible intro _) | (extract_lets +onlyGivenNames _)
    | with_reducible exact Nat.le_max_right _ _ | with_reducible apply keeps_foldl
    | with_reducible apply State.requestTime_keeps | with_reducible apply State.modTim_keeps)

theorem timAdjWrite_keeps (v) {s : State} (h1 : Keeps ms s0 s) :
    Keeps ms s0 (timAdjWrite v s) := by
  unfold timAdjWrite
  repeat' (first
    | with_reducible assumption
    | (extract_lets +onlyGivenNames x; refine (fun hx : Keeps ms s0 x => ?_) ?_; clear_value x; on_goal 2 => subst x)
    | (extract_lets +onlyGivenNames _) | with_reducible apply State.put_keeps
    | with_reducible apply State.requestTime_keeps | with_reducible apply State.clearCoarse_keeps | split)

theorem State.advanceRaw_keeps {s : State} (k) (h0 : Keeps ms s0 s) :
    Keeps ms s0 (State.advanceRaw s k) := by
  unfold State.advanceRaw
  repeat' (first
    | with_reducible assumption | (extract_lets +onlyGivenNames _) | with_reducible exact Nat.le_max_right _ _
    | with_reducible apply State.modTim_keeps)

theorem State.aonEdge_keeps {s : State} (h0 : Keeps ms s0 s) :
    Keeps ms s0 (State.aonEdge s) := by
  unfold State.aonEdge
  repeat' (first
    | with_reducible assumption
    | (extract_lets +onlyGivenNames x; refine (fun hx : Keeps ms s0 x => ?_) ?_; clear_value x; on_goal 2 => subst x)
    | (extract_lets +onlyGivenNames _) | with_reducible exact Nat.le_max_right _ _
    | with_reducible apply State.perf_keeps | with_reducible apply State.modTim_keeps
    | with_reducible apply State.incWrap_keeps | split)

theorem State.account_keeps {s : State} (k) (h0 : Keeps ms s0 s) :
    Keeps ms s0 (State.account s k) := by
  unfold State.account
  repeat' (first
    | (extract_lets +onlyGivenNames _) | with_reducible exact Nat.le_max_right _ _
    | with_reducible exact Mbx.Within.refl _ | (with_reducible apply Keeps.lit; with_reducible assumption) | split
    | dsimp +zetaDelta only)

theorem State.tick_keeps {s : State} (h0 : Keeps ms s0 s) :
    Keeps ms s0 (State.tick s) := by
  unfold State.tick
  repeat' (first
    | with_reducible assumption
    | (extract_lets +onlyGivenNames x; refine (fun hx : Keeps ms s0 x => ?_) ?_; clear_value x; on_goal 2 => subst x)
    | (extract_lets +onlyGivenNames _) | with_reducible exact Nat.le_max_right _ _
    | with_reducible apply State.account_keeps | with_reducible apply State.advanceRaw_keeps
    | with_reducible apply State.perf_keeps | with_reducible apply State.aonEdge_keeps
    | with_reducible apply State.modTim_keeps | split)

theorem execRawWrap_keeps {s : State} (h0 : Keeps ms s0 s) :
    KeepsO ms s0 (execRawWrap s) := by
  unfold execRawWrap
  repeat' (first
    | with_reducible assumption | (extract_lets +onlyGivenNames _) | with_reducible apply KeepsO.next
    | with_reducible apply State.tick_keeps | split)

theorem execCleatAonWake_keeps {s : State} (h0 : Keeps ms s0 s) :
    KeepsO ms s0 (execCleatAonWake s) := by
  unfold execCleatAonWake
  repeat' (first
    | with_reducible assumption | (extract_lets +onlyGivenNames _) | with_reducible apply KeepsO.next
    | with_reducible exact Nat.le_max_right _ _ | with_reducible apply State.modTim_keeps
    | with_reducible apply State.put_keeps | split)

theorem ppsGate_keeps {s : State} (h0 : Keeps ms s0 s) :
    Keeps ms s0 (ppsGate s) := by
  unfold ppsGate
  repeat' (first
    | with_reducible assumption | (extract_lets +onlyGivenNames _) | with_reducible exact Nat.le_max_right _ _
    | with_reducible apply State.modTim_keeps | split)

theorem State.invalidate_keeps {s : State} (h0 : Keeps ms s0 s) :
    Keeps ms s0 (State.invalidate s) := by
  unfold State.invalidate
  repeat' (first
    | with_reducible assumption | (extract_lets +onlyGivenNames _) | with_reducible apply ppsGate_keeps
    | with_reducible apply State.put_keeps)

theorem State.rawStop_keeps {s : State} (h0 : Keeps ms s0 s) :
    Keeps ms s0 (State.rawStop s) := by
  unfold State.rawStop
  repeat' (first
    | with_reducible assumption | (extract_lets +onlyGivenNames _) | with_reducible exact Nat.le_max_right _ _
    | with_reducible apply State.modTim_keeps)

theorem State.rawRestart_keeps {s : State} (h0 : Keeps ms s0 s) :
    Keeps ms s0 (State.rawRestart s) := by
  unfold State.rawRestart
  repeat' (first
    | with_reducible assumption
    | (extract_lets +onlyGivenNames x; refine (fun hx : Keeps ms s0 x => ?_) ?_; clear_value x; on_goal 2 => subst x)
    | (extract_lets +onlyGivenNames _) | with_reducible exact Nat.le_max_right _ _
    | with_reducible apply State.advanceRaw_keeps | with_reducible apply State.modTim_keeps
    | with_reducible apply State.put_keeps | with_reducible apply State.addSat_keeps
    | with_reducible apply State.incWrap_keeps | with_reducible apply State.postBare_keeps
    | with_reducible apply State.invalidate_keeps | with_reducible apply State.releaseHeld_keeps | split)

theorem State.queueStamp_keeps {s : State} (tx) (st) (h0 : Keeps ms s0 s) :
    Keeps ms s0 (State.queueStamp s tx st) := by
  unfold State.queueStamp
  repeat' (first
    | with_reducible assumption
    | (extract_lets +onlyGivenNames x; refine (fun hx : Keeps ms s0 x => ?_) ?_; clear_value x; on_goal 2 => subst x)
    | (extract_lets +onlyGivenNames _) | with_reducible exact Nat.le_max_right _ _
    | with_reducible apply State.perf_keeps | with_reducible apply State.modTim_keeps
    | with_reducible apply State.addSat_keeps | with_reducible apply State.put_keeps
    | with_reducible apply State.post_keeps | split | dsimp +zetaDelta only)
  all_goals (first | contradiction | (rename_i q _ _ g _ _; subst q; simp_all; try omega))

theorem State.modHold_keeps {s : State} (q) (f) (h0 : Keeps ms s0 s) :
    Keeps ms s0 (State.modHold s q f) := by
  unfold State.modHold
  repeat' (first
    | with_reducible assumption | (extract_lets +onlyGivenNames _) | with_reducible exact Nat.le_max_right _ _
    | with_reducible apply State.modTim_keeps)

theorem snapRead_keeps (q) {s : State} (h1 : Keeps ms s0 s) :
    Keeps ms s0 (snapRead q s).2 := by
  unfold snapRead
  repeat' (first
    | with_reducible assumption | (extract_lets +onlyGivenNames _) | with_reducible apply State.modHold_keeps)

theorem tsqRead_keeps (q) (tx) {s : State} (h2 : Keeps ms s0 s) :
    Keeps ms s0 (tsqRead q tx s).2 := by
  unfold tsqRead
  repeat' (first
    | with_reducible assumption | (extract_lets +onlyGivenNames _) | with_reducible exact Nat.le_max_right _ _
    | with_reducible apply State.modHold_keeps | with_reducible apply State.modTim_keeps | split
    | dsimp +zetaDelta only)
  all_goals (simp_all; try omega)

theorem aonRead_keeps (q) {s : State} (h1 : Keeps ms s0 s) :
    Keeps ms s0 (aonRead q s).2 := by
  unfold aonRead
  repeat' (first | with_reducible assumption | with_reducible apply State.modHold_keeps)

theorem twoWayRead_keeps (q) (n) {s : State} (h2 : Keeps ms s0 s) :
    Keeps ms s0 (twoWayRead q n s).2 := by
  unfold twoWayRead
  repeat' (first
    | with_reducible assumption | (extract_lets +onlyGivenNames _) | with_reducible apply State.modHold_keeps)

theorem ppsInRead_keeps (q) {s : State} (h1 : Keeps ms s0 s) :
    Keeps ms s0 (ppsInRead q s).2 := by
  unfold ppsInRead
  repeat' (first
    | with_reducible assumption | (extract_lets +onlyGivenNames _) | with_reducible apply State.put_keeps
    | with_reducible apply State.modHold_keeps)

theorem State.twoWayResult_keeps {s : State} (n) (delta2) (theta2) (coarse) (h0 : Keeps ms s0 s) :
    Keeps ms s0 (State.twoWayResult s n delta2 theta2 coarse) := by
  unfold State.twoWayResult
  repeat' (first
    | with_reducible assumption | (extract_lets +onlyGivenNames _) | with_reducible exact Nat.le_max_right _ _
    | with_reducible apply State.modTim_keeps | with_reducible apply State.incWrap_keeps
    | with_reducible apply State.put_keeps | with_reducible apply State.putB_keeps)

theorem ppsStamp_keeps {s : State} (h0 : Keeps ms s0 s) :
    Keeps ms s0 (ppsStamp s) := by
  unfold ppsStamp
  repeat' (first
    | with_reducible assumption
    | (extract_lets +onlyGivenNames x; refine (fun hx : Keeps ms s0 x => ?_) ?_; clear_value x; on_goal 2 => subst x)
    | (extract_lets +onlyGivenNames _) | with_reducible exact Nat.le_max_right _ _
    | with_reducible apply State.putB_keeps | with_reducible apply State.put_keeps
    | with_reducible apply State.modTim_keeps)

theorem dropPend_keeps {s : State} (h0 : Keeps ms s0 s) :
    Keeps ms s0 (dropPend s) := by
  unfold dropPend
  repeat' (first
    | with_reducible assumption | (extract_lets +onlyGivenNames _) | with_reducible exact Nat.le_max_right _ _
    | with_reducible apply State.put_keeps | with_reducible apply State.modTim_keeps)

theorem execPpsInEdge_keeps (falling) (short) {s : State} (h2 : Keeps ms s0 s) :
    KeepsO ms s0 (execPpsInEdge falling short s) := by
  unfold execPpsInEdge
  repeat' (first
    | with_reducible assumption
    | (extract_lets +onlyGivenNames x; refine (fun hx : Keeps ms s0 x => ?_) ?_; clear_value x; on_goal 2 => subst x)
    | (extract_lets +onlyGivenNames _) | with_reducible apply KeepsO.next | with_reducible apply ppsStamp_keeps
    | with_reducible apply State.requestTime_keeps | with_reducible apply dropPend_keeps | split)

theorem execPpsOutSecond_keeps {s : State} (h0 : Keeps ms s0 s) :
    KeepsO ms s0 (execPpsOutSecond s) := by
  unfold execPpsOutSecond
  repeat' (first
    | with_reducible assumption | (extract_lets +onlyGivenNames _) | with_reducible apply KeepsO.next
    | with_reducible exact Nat.le_max_right _ _ | with_reducible apply State.modTim_keeps | split)

theorem execPpsOutPulseEnd_keeps {s : State} (h0 : Keeps ms s0 s) :
    KeepsO ms s0 (execPpsOutPulseEnd s) := by
  unfold execPpsOutPulseEnd
  repeat' (first
    | with_reducible assumption | (extract_lets +onlyGivenNames _) | with_reducible apply KeepsO.next
    | with_reducible exact Nat.le_max_right _ _ | with_reducible apply State.modTim_keeps)

theorem ppsoWrite_keeps (wasOn) {s : State} (h1 : Keeps ms s0 s) :
    Keeps ms s0 (ppsoWrite wasOn s) := by
  unfold ppsoWrite
  repeat' (first
    | with_reducible assumption
    | (extract_lets +onlyGivenNames x; refine (fun hx : Keeps ms s0 x => ?_) ?_; clear_value x; on_goal 2 => subst x)
    | (extract_lets +onlyGivenNames _) | with_reducible exact Nat.le_max_right _ _
    | with_reducible apply State.modTim_keeps | with_reducible apply ppsGate_keeps | split)

theorem State.pendTime_keeps {s : State} (c) (p) (h0 : Keeps ms s0 s) :
    Keeps ms s0 (State.pendTime s c p) := by
  unfold State.pendTime
  repeat' (first
    | with_reducible assumption
    | (extract_lets +onlyGivenNames x; refine (fun hx : Keeps ms s0 x => ?_) ?_; clear_value x; on_goal 2 => subst x)
    | (extract_lets +onlyGivenNames _) | with_reducible exact Nat.le_max_right _ _
    | with_reducible apply State.finish_keeps | with_reducible apply State.put_keeps
    | with_reducible apply State.modTim_keeps | with_reducible apply State.await_keeps | split)

theorem execTimeSet_keeps (m) {s : State} (h1 : Keeps ms s0 s) :
    KeepsO ms s0 (execTimeSet m s) := by
  unfold execTimeSet
  repeat' (first
    | with_reducible assumption | (with_reducible intro _) | (extract_lets +onlyGivenNames _)
    | with_reducible apply KeepsO.next | with_reducible apply runCmd_keeps | with_reducible apply State.finish_keeps
    | with_reducible apply State.requestTime_keeps | with_reducible apply State.pendTime_keeps | split)

theorem execTimeAdjust_keeps (m) {s : State} (h1 : Keeps ms s0 s) :
    KeepsO ms s0 (execTimeAdjust m s) := by
  unfold execTimeAdjust
  repeat' (first
    | with_reducible assumption | (with_reducible intro _) | (extract_lets +onlyGivenNames _)
    | with_reducible apply KeepsO.next | with_reducible apply runCmd_keeps | with_reducible apply State.finish_keeps
    | with_reducible apply State.pendTime_keeps | with_reducible apply State.requestTime_keeps | split)

theorem stampQueueSet_keeps (c) (i) (k) {s : State} (h3 : Keeps ms s0 s) :
    Keeps ms s0 (stampQueueSet c i k s) := by
  unfold stampQueueSet
  repeat' (first
    | with_reducible assumption | (extract_lets +onlyGivenNames _) | with_reducible apply State.put_keeps | split)

theorem stampConfigured_keeps (c) {s : State} (h1 : Keeps ms s0 s) :
    Keeps ms s0 (stampConfigured c s) := by
  unfold stampConfigured
  repeat' (first
    | with_reducible assumption
    | (extract_lets +onlyGivenNames x; refine (fun hx : Keeps ms s0 x => ?_) ?_; clear_value x; on_goal 2 => subst x)
    | (extract_lets +onlyGivenNames _) | with_reducible apply stampQueueSet_keeps
    | with_reducible apply ppsoWrite_keeps | with_reducible apply State.writePlain_keeps | split)

theorem execTimeStampConfig_keeps (m) {s : State} (h1 : Keeps ms s0 s) :
    KeepsO ms s0 (execTimeStampConfig m s) := by
  unfold execTimeStampConfig
  repeat' (first
    | with_reducible assumption | (with_reducible intro _) | (extract_lets +onlyGivenNames _)
    | with_reducible apply KeepsO.next | with_reducible apply runCmd_keeps | with_reducible apply State.finish_keeps
    | with_reducible apply stampConfigured_keeps | split)

theorem execTimeSetPpsTimeout_keeps {s : State} (h0 : Keeps ms s0 s) :
    KeepsO ms s0 (execTimeSetPpsTimeout s) := by
  unfold execTimeSetPpsTimeout
  repeat' (first
    | with_reducible assumption | (extract_lets +onlyGivenNames _) | with_reducible apply KeepsO.next
    | with_reducible apply State.finish_keeps | with_reducible apply dropPend_keeps | split)

theorem timeAdjustFires_keeps {s : State} (h0 : Keeps ms s0 s) :
    Keeps ms s0 (timeAdjustFires s) := by
  unfold timeAdjustFires
  repeat' (first
    | with_reducible assumption
    | (extract_lets +onlyGivenNames x; refine (fun hx : Keeps ms s0 x => ?_) ?_; clear_value x; on_goal 2 => subst x)
    | (extract_lets +onlyGivenNames _) | with_reducible exact Nat.le_max_right _ _
    | with_reducible apply State.put_keeps | with_reducible apply State.modTim_keeps
    | with_reducible apply State.requestTime_keeps | split)

end Sys2Proof.Machine
end

