-- ==== Sys2Proof/Laws/KeepMail.lean ====
section
/-! SUPPORT. Sys2Proof/Laws/KeepMail.lean: each operation of Machine/Mail.lean keeps what Keeps says. -/

namespace Sys2Proof.Machine

variable {ms : Bool} {s0 : State}

theorem State.modMbx_keeps {s : State} (f : Mbx → Mbx) (h0 : Keeps ms s0 s) (hm : Mbx.Within s.mbx (f s.mbx)) :
    Keeps ms s0 (s.modMbx f) := Keeps.lit h0 hm (Nat.le_max_right ..) (Nat.le_max_right ..) rfl

theorem State.mbxRefuse_keeps {s : State} (m) (cause) (h0 : Keeps ms s0 s) :
    Keeps ms s0 (State.mbxRefuse s m cause) := by
  unfold State.mbxRefuse
  repeat' (first
    | with_reducible assumption | (extract_lets +onlyGivenNames _) | with_reducible apply State.put_keeps)

theorem mbxWordWrite_keeps (m) (w) (ident) (v) {s : State} (h4 : Keeps ms s0 s) :
    Keeps ms s0 (mbxWordWrite m w ident v s).2 := by
  unfold mbxWordWrite
  repeat' (first
    | with_reducible assumption | with_reducible apply State.writePlain_keeps
    | with_reducible apply State.mbxRefuse_keeps | split)

theorem mbxGo_keeps (m) (ident) (v) {s : State} (h3 : Keeps ms s0 s) :
    Keeps ms s0 (mbxGo m ident v s).2 := by
  unfold mbxGo
  repeat' (first
    | with_reducible assumption
    | (extract_lets +onlyGivenNames x; refine (fun hx : Keeps ms s0 x => ?_) ?_; clear_value x; on_goal 2 => subst x)
    | (extract_lets +onlyGivenNames _) | with_reducible apply State.put_keeps
    | with_reducible apply State.mbxRefuse_keeps | split)

theorem State.windowEnter_keeps {s : State} (ident) (tag) (id) (h0 : Keeps ms s0 s) :
    Keeps ms s0 (State.windowEnter s ident tag id) := by
  unfold State.windowEnter
  repeat' (first
    | with_reducible assumption | (extract_lets +onlyGivenNames _) | with_reducible apply State.setWindow_keeps
    | split)

theorem intake_keeps (c) {s : State} (h1 : Keeps ms s0 s) :
    Keeps ms s0 (intake c s) := by
  unfold intake
  dsimp only
  repeat' (first
    | with_reducible assumption | split | with_reducible apply completionOffer_keeps
    | with_reducible apply State.postCpl_keeps | with_reducible apply State.unlockStaging_keeps
    | with_reducible apply State.setCmd_keeps | with_reducible apply State.windowEnter_keeps
    | with_reducible apply State.modMbx_keeps)
  all_goals
    rename_i h _
    simp only [Bool.or_eq_true, decide_eq_true_eq, not_or] at h
    exact .of (Nat.le_max_right ..) (fun _ => Nat.le_max_right ..) (Nat.le_max_right ..) (by simp; omega)

theorem peerEnter_keeps (m) (words) (ext) {s : State} (h3 : Keeps true s0 s) :
    Keeps true s0 (peerEnter m words ext s) := by
  unfold peerEnter
  repeat' (first
    | with_reducible assumption | (with_reducible intro _)
    | (extract_lets +onlyGivenNames x; refine (fun hx : Keeps true s0 x => ?_) ?_; clear_value x; on_goal 2 => subst x)
    | (extract_lets +onlyGivenNames _) | with_reducible apply keeps_foldl | with_reducible apply State.setBytes_keeps
    | with_reducible apply State.setWord_keeps | with_reducible apply mbxGo_keeps | split)

theorem inboxNext_keeps (fuel) {s : State} (h1 : Keeps true s0 s) :
    Keeps true s0 (inboxNext fuel s) := by
  induction fuel generalizing s with
  | zero => unfold inboxNext; exact h1
  | succ fuel ih =>
    unfold inboxNext
    repeat' (first
      | with_reducible assumption
      | (extract_lets +onlyGivenNames x; refine (fun hx : Keeps true s0 x => ?_) ?_; clear_value x; on_goal 2 => subst x)
      | (extract_lets +onlyGivenNames _) | with_reducible apply State.modHws_keeps
      | with_reducible apply peerEnter_keeps | split)
    cases ‹fuel + 1 = _›
    with_reducible apply ih
    with_reducible apply State.hwEmit_keeps
    with_reducible assumption

theorem takeMessage_keeps (m) {s : State} (h1 : Keeps ms s0 s) :
    Keeps ms s0 (takeMessage m s) := by
  unfold takeMessage
  repeat' (first
    | with_reducible assumption
    | (extract_lets +onlyGivenNames x; refine (fun hx : Keeps ms s0 x => ?_) ?_; clear_value x; on_goal 2 => subst x)
    | (extract_lets +onlyGivenNames _) | with_reducible apply State.put_keeps
    | with_reducible apply State.modMbx_keeps | with_reducible apply State.perf_keeps
    | with_reducible apply State.hwSendTo_keeps | with_reducible apply intake_keeps | split
    | (with_reducible apply Mbx.Within.keep; done))

theorem execMailboxTake_keeps {s : State} (h0 : Keeps true s0 s) :
    KeepsO true s0 (execMailboxTake s) := by
  unfold execMailboxTake
  repeat' (first
    | with_reducible assumption
    | (extract_lets +onlyGivenNames x; refine (fun hx : Keeps true s0 x => ?_) ?_; clear_value x; on_goal 2 => subst x)
    | (extract_lets +onlyGivenNames _) | with_reducible apply KeepsO.next | with_reducible apply inboxNext_keeps
    | with_reducible apply takeMessage_keeps | split)

theorem iringRead_keeps (q) (k) {s : State} (h2 : Keeps ms s0 s) :
    Keeps ms s0 (iringRead q k s).2 := by
  unfold iringRead
  repeat' (first
    | with_reducible assumption | (extract_lets +onlyGivenNames _) | with_reducible apply State.modHold_keeps
    | with_reducible apply State.modMbx_keeps | dsimp +zetaDelta only)
  exact Mbx.Within.internal _ _ _ (Nat.le_trans (Ring.pop_length _) (Nat.le_max_right ..))

theorem execCompletionRingPop_keeps {s : State} (h0 : Keeps ms s0 s) :
    KeepsO ms s0 (execCompletionRingPop s) := by
  unfold execCompletionRingPop
  repeat' (first
    | with_reducible assumption | (extract_lets +onlyGivenNames _) | with_reducible apply KeepsO.next
    | with_reducible apply State.incWrap_keeps | with_reducible apply State.modMbx_keeps | split)
  exact Mbx.Within.host _ _ (Nat.le_trans (Ring.pop_length _) (Nat.le_max_right ..))

theorem execEventQueuePop_keeps {s : State} (h0 : Keeps ms s0 s) :
    KeepsO ms s0 (execEventQueuePop s) := by
  unfold execEventQueuePop
  repeat' (first
    | with_reducible assumption | (extract_lets +onlyGivenNames _) | with_reducible apply KeepsO.next
    | with_reducible apply State.modMbx_keeps)
  exact Mbx.Within.events _ _ _ (by simp)

theorem execPing_keeps (m) {s : State} (h1 : Keeps ms s0 s) :
    KeepsO ms s0 (execPing m s) := by
  unfold execPing
  repeat' (first
    | with_reducible assumption | (with_reducible intro _) | (extract_lets +onlyGivenNames _)
    | with_reducible apply KeepsO.next | with_reducible apply runCmd_keeps | with_reducible apply State.finish_keeps)

theorem execGetInfo_keeps (m) {s : State} (h1 : Keeps true s0 s) :
    KeepsO true s0 (execGetInfo m s) := by
  unfold execGetInfo
  repeat' (first
    | with_reducible assumption | (with_reducible intro _) | (extract_lets +onlyGivenNames _)
    | with_reducible apply KeepsO.next | with_reducible apply runCmd_keeps
    | with_reducible apply State.finishStaged_keeps)

theorem execCancel_keeps (m) {s : State} (h1 : Keeps ms s0 s) :
    KeepsO ms s0 (execCancel m s) := by
  unfold execCancel
  repeat' (first
    | with_reducible assumption | (with_reducible intro _) | (extract_lets +onlyGivenNames _)
    | with_reducible apply KeepsO.next | with_reducible apply runCmd_keeps | with_reducible apply State.finish_keeps
    | split)

theorem State.flushRing_keeps {s : State} (ident) (h0 : Keeps ms s0 s) :
    Keeps ms s0 (State.flushRing s ident) := by
  unfold State.flushRing
  repeat' (first
    | with_reducible assumption | (extract_lets +onlyGivenNames _) | with_reducible apply State.put_keeps
    | with_reducible apply State.modMbx_keeps | split | dsimp +zetaDelta only)
  · exact Mbx.Within.host _ _ (Nat.zero_le _)
  · exact Mbx.Within.internal _ _ _ (Nat.zero_le _)

theorem execFlushCompletions_keeps (m) {s : State} (h1 : Keeps ms s0 s) :
    KeepsO ms s0 (execFlushCompletions m s) := by
  unfold execFlushCompletions
  repeat' (first
    | with_reducible assumption | (with_reducible intro _)
    | (extract_lets +onlyGivenNames x; refine (fun hx : Keeps ms s0 x => ?_) ?_; clear_value x; on_goal 2 => subst x)
    | (extract_lets +onlyGivenNames _) | with_reducible apply KeepsO.next | with_reducible apply runCmd_keeps
    | with_reducible apply State.flushRing_keeps | with_reducible apply State.modMbx_keeps
    | with_reducible apply State.finish_keeps | split)
  exact Mbx.Within.events _ _ _ (Nat.zero_le _)

theorem setPolicy_keeps (t) (m) (f) {s : State} (h2 : ∀ a0 t1, Keeps ms s0 t1 → Keeps ms s0 (f a0 t1)) (h3 : Keeps ms s0 s) :
    Keeps ms s0 (setPolicy t m f s) := by
  unfold setPolicy
  repeat' (first
    | with_reducible assumption | (with_reducible intro _) | (extract_lets +onlyGivenNames _)
    | with_reducible apply h2 | with_reducible apply runCmd_keeps | with_reducible apply State.finish_keeps | split)

theorem State.setAllow_keeps {s : State} (op) (mask) (h0 : Keeps ms s0 s) :
    Keeps ms s0 (State.setAllow s op mask) := by
  unfold State.setAllow
  repeat' (first
    | with_reducible assumption | (extract_lets +onlyGivenNames _) | with_reducible apply State.modMbx_keeps
    | (with_reducible apply Mbx.Within.keep; done))

theorem State.setPolicyBit_keeps {s : State} (b) (v) (h0 : Keeps ms s0 s) :
    Keeps ms s0 (State.setPolicyBit s b v) := by
  unfold State.setPolicyBit
  repeat' (first
    | with_reducible assumption | (extract_lets +onlyGivenNames _) | with_reducible apply State.modMbx_keeps | split
    | dsimp +zetaDelta only | (with_reducible apply Mbx.Within.keep; done))

theorem execSetPolicySender_keeps (m) {s : State} (h1 : Keeps ms s0 s) :
    KeepsO ms s0 (execSetPolicySender m s) := by
  unfold execSetPolicySender
  repeat' (first
    | with_reducible assumption | (with_reducible intro _) | (extract_lets +onlyGivenNames _)
    | with_reducible apply KeepsO.next | with_reducible apply setPolicy_keeps
    | with_reducible apply State.finish_keeps | with_reducible apply State.setAllow_keeps | split)

theorem execSetPolicyBit_keeps (m) {s : State} (h1 : Keeps ms s0 s) :
    KeepsO ms s0 (execSetPolicyBit m s) := by
  unfold execSetPolicyBit
  repeat' (first
    | with_reducible assumption | (with_reducible intro _) | (extract_lets +onlyGivenNames _)
    | with_reducible apply KeepsO.next | with_reducible apply setPolicy_keeps
    | with_reducible apply State.finish_keeps | with_reducible apply State.setPolicyBit_keeps | split)

theorem execSetPolicyQuota_keeps (m) {s : State} (h1 : Keeps ms s0 s) :
    KeepsO ms s0 (execSetPolicyQuota m s) := by
  unfold execSetPolicyQuota
  repeat' (first
    | with_reducible assumption | (with_reducible intro _) | (extract_lets +onlyGivenNames _)
    | with_reducible apply KeepsO.next | with_reducible apply setPolicy_keeps
    | with_reducible apply State.finish_keeps | with_reducible apply State.put_keeps | split)

end Sys2Proof.Machine
end

