-- ==== Sys2Proof/Laws/KeepEcc.lean ====
section
/-! SUPPORT. Sys2Proof/Laws/KeepEcc.lean: each operation of Machine/Ecc.lean keeps what Keeps says. -/

namespace Sys2Proof.Machine

variable {ms : Bool} {s0 : State}

theorem State.eccLog_keeps {s : State} (mem) (addr) (unc) (bit) (req) (h0 : Keeps ms s0 s) :
    Keeps ms s0 (State.eccLog s mem addr unc bit req).2 := by
  unfold State.eccLog
  repeat' (first
    | with_reducible assumption | (with_reducible intro _)
    | (extract_lets +onlyGivenNames x; refine (fun hx : Keeps ms s0 x => ?_) ?_; clear_value x; on_goal 2 => subst x)
    | (extract_lets +onlyGivenNames _) | with_reducible exact Nat.le_max_right _ _
    | with_reducible apply State.modEcc_keeps | with_reducible apply State.addSat_keeps | split
    | dsimp +zetaDelta only)
  all_goals (simp <;> omega)

theorem State.eccError_keeps {s : State} (mem) (addr) (unc) (bit) (req) (h0 : Keeps ms s0 s) :
    Keeps ms s0 (State.eccError s mem addr unc bit req) := by
  unfold State.eccError
  repeat' (first
    | with_reducible assumption | (extract_lets +onlyGivenNames _) | with_reducible apply State.eccLog_keeps
    | with_reducible apply State.lifeAdd_keeps | with_reducible apply State.perf_keeps
    | with_reducible apply State.free_keeps | with_reducible apply State.post_keeps | split
    | (with_reducible refine Keeps.ofSnd ‹_› ?_))

theorem State.eccRead_keeps {s : State} (a) (req) (u) (h0 : Keeps ms s0 s) :
    Keeps ms s0 (State.eccRead s a req u).2 := by
  unfold State.eccRead
  repeat' (first
    | with_reducible assumption | (extract_lets +onlyGivenNames _) | with_reducible apply State.setFlips_keeps
    | with_reducible apply State.eccError_keeps | split)

theorem State.eccWrite_keeps {s : State} (a) (bs) (req) (u) (h0 : Keeps true s0 s) :
    Keeps true s0 (State.eccWrite s a bs req u).2 := by
  unfold State.eccWrite
  repeat' (first
    | with_reducible assumption | (extract_lets +onlyGivenNames _) | with_reducible apply State.setBytes_keeps
    | with_reducible apply State.eccRead_keeps | split | dsimp +zetaDelta only
    | (with_reducible refine Keeps.ofSnd ‹_› ?_))

theorem scrubWord_keeps (a) (u) (raced) {s : State} (h3 : Keeps ms s0 s) :
    Keeps ms s0 (scrubWord a u raced s) := by
  unfold scrubWord
  repeat' (first
    | with_reducible assumption | (extract_lets +onlyGivenNames _) | with_reducible apply State.setFlips_keeps
    | with_reducible apply State.eccError_keeps | split)

theorem execScrubRead_keeps (u) (raced) {s : State} (h2 : Keeps ms s0 s) :
    KeepsO ms s0 (execScrubRead u raced s) := by
  unfold execScrubRead
  repeat' (first
    | with_reducible assumption
    | (extract_lets +onlyGivenNames x; refine (fun hx : Keeps ms s0 x => ?_) ?_; clear_value x; on_goal 2 => subst x)
    | (extract_lets +onlyGivenNames _) | with_reducible apply KeepsO.next | with_reducible apply State.put_keeps
    | with_reducible apply scrubWord_keeps | with_reducible apply State.incWrap_keeps | split)

theorem eccCtrlWrite_keeps (v) {s : State} (h1 : Keeps ms s0 s) :
    Keeps ms s0 (eccCtrlWrite v s) := by
  unfold eccCtrlWrite
  repeat' (first
    | with_reducible assumption | (with_reducible intro _) | (extract_lets +onlyGivenNames _)
    | with_reducible apply State.modEcc_keeps | split | dsimp +zetaDelta only | exact Nat.zero_le _)

theorem execEccLog_keeps (m) {s : State} (h1 : Keeps true s0 s) :
    KeepsO true s0 (execEccLog m s) := by
  unfold execEccLog
  repeat' (first
    | with_reducible assumption | (with_reducible intro _) | (extract_lets +onlyGivenNames _)
    | with_reducible apply KeepsO.next | with_reducible apply runCmd_keeps
    | with_reducible apply State.finishStaged_keeps)

theorem copyPage_keeps (a) (e) {s : State} (h2 : Keeps true s0 s) :
    Keeps true s0 (copyPage a e s) := by
  unfold copyPage
  repeat' (first
    | with_reducible assumption | (with_reducible intro _) | (extract_lets +onlyGivenNames _)
    | with_reducible apply keeps_foldl | with_reducible apply State.eccRead_keeps
    | with_reducible apply State.setPhysByte_keeps | with_reducible apply State.setFlips_keeps)

theorem execRetirePage_keeps (m) {s : State} (h1 : Keeps true s0 s) :
    KeepsO true s0 (execRetirePage m s) := by
  unfold execRetirePage
  repeat' (first
    | with_reducible assumption | (with_reducible intro _)
    | (extract_lets +onlyGivenNames x; refine (fun hx : Keeps true s0 x => ?_) ?_; clear_value x; on_goal 2 => subst x)
    | (extract_lets +onlyGivenNames _) | with_reducible apply KeepsO.next | with_reducible exact Nat.le_max_right _ _
    | with_reducible apply runCmd_keeps | with_reducible apply State.finish_keeps
    | with_reducible apply State.modEcc_keeps | with_reducible apply copyPage_keeps
    | exact Bool.noConfusion (‹true = false› : true = false) | split)

end Sys2Proof.Machine
end

