-- ==== Sys2Proof/Laws/KeepLanes.lean ====
section
/-! SUPPORT. Sys2Proof/Laws/KeepLanes.lean: each operation of Machine/Lanes.lean keeps what Keeps says. -/

namespace Sys2Proof.Machine

variable {ms : Bool} {s0 : State}

theorem State.modLanes_keeps {s : State} (f) (h0 : Keeps ms s0 s) :
    Keeps ms s0 (State.modLanes s f) := by
  unfold State.modLanes
  repeat' (first
    | (extract_lets +onlyGivenNames _) | with_reducible exact Nat.le_max_right _ _
    | with_reducible exact Mbx.Within.refl _ | (with_reducible apply Keeps.lit; with_reducible assumption)
    | dsimp +zetaDelta only)

theorem State.modTx_keeps {s : State} (n) (f) (h0 : Keeps ms s0 s) :
    Keeps ms s0 (State.modTx s n f) := by
  unfold State.modTx
  repeat' (first | with_reducible assumption | with_reducible apply State.modLanes_keeps)

theorem State.modRx_keeps {s : State} (n) (f) (h0 : Keeps ms s0 s) :
    Keeps ms s0 (State.modRx s n f) := by
  unfold State.modRx
  repeat' (first | with_reducible assumption | with_reducible apply State.modLanes_keeps)

theorem State.modHst_keeps {s : State} (h) (f) (h0 : Keeps ms s0 s) :
    Keeps ms s0 (State.modHst s h f) := by
  unfold State.modHst
  repeat' (first | with_reducible assumption | with_reducible apply State.modLanes_keeps)

theorem State.modPll_keeps {s : State} (p) (f) (h0 : Keeps ms s0 s) :
    Keeps ms s0 (State.modPll s p f) := by
  unfold State.modPll
  repeat' (first | with_reducible assumption | with_reducible apply State.modLanes_keeps)

theorem State.modWinch_keeps {s : State} (f) (h0 : Keeps ms s0 s) :
    Keeps ms s0 (State.modWinch s f) := by
  unfold State.modWinch
  repeat' (first | with_reducible assumption | with_reducible apply State.modLanes_keeps)

theorem State.modProt_keeps {s : State} (f) (h0 : Keeps ms s0 s) :
    Keeps ms s0 (State.modProt s f) := by
  unfold State.modProt
  repeat' (first | with_reducible assumption | with_reducible apply State.modLanes_keeps)

theorem State.modLyd_keeps {s : State} (n) (f) (h0 : Keeps ms s0 s) :
    Keeps ms s0 (State.modLyd s n f) := by
  unfold State.modLyd
  repeat' (first
    | (extract_lets +onlyGivenNames _) | with_reducible exact Nat.le_max_right _ _
    | with_reducible exact Mbx.Within.refl _ | (with_reducible apply Keeps.lit; with_reducible assumption)
    | dsimp +zetaDelta only)

theorem eachBelow_keeps (k) (f) {s : State} (h1 : ∀ a0 t1, Keeps ms s0 t1 → Keeps ms s0 (f a0 t1)) (h2 : Keeps ms s0 s) :
    Keeps ms s0 (eachBelow k f s) := by
  unfold eachBelow
  repeat' (first
    | with_reducible assumption | (with_reducible intro _) | (extract_lets +onlyGivenNames _)
    | with_reducible apply keeps_foldl | with_reducible apply h1)

theorem eachOf_keeps (l) (f) {s : State} (h1 : ∀ a0 t1, Keeps ms s0 t1 → Keeps ms s0 (f a0 t1)) (h2 : Keeps ms s0 s) :
    Keeps ms s0 (eachOf l f s) := by
  unfold eachOf
  repeat' (first
    | with_reducible assumption | (with_reducible intro _) | (extract_lets +onlyGivenNames _)
    | with_reducible apply keeps_foldl | with_reducible apply h1)

theorem State.lydLose_keeps {s : State} (n) (h0 : Keeps ms s0 s) :
    Keeps ms s0 (State.lydLose s n) := by
  unfold State.lydLose
  repeat' (first | with_reducible assumption | with_reducible apply State.modLyd_keeps | split)

theorem State.setLane_keeps {s : State} (n) (st) (h0 : Keeps ms s0 s) :
    Keeps ms s0 (State.setLane s n st) := by
  unfold State.setLane
  repeat' (first
    | with_reducible assumption | (extract_lets +onlyGivenNames _) | with_reducible apply State.lydLose_keeps
    | with_reducible apply State.put_keeps)

theorem State.squelch_keeps {s : State} (n) (frame) (pll) (h0 : Keeps ms s0 s) :
    Keeps ms s0 (State.squelch s n frame pll) := by
  unfold State.squelch
  repeat' (first
    | with_reducible assumption | (extract_lets +onlyGivenNames _) | with_reducible apply State.lydLose_keeps
    | with_reducible apply State.putB_keeps | with_reducible apply State.modTx_keeps)

theorem State.preClear_keeps {s : State} (n) (h0 : Keeps ms s0 s) :
    Keeps ms s0 (State.preClear s n) := by
  unfold State.preClear
  repeat' (first
    | with_reducible assumption
    | (extract_lets +onlyGivenNames x; refine (fun hx : Keeps ms s0 x => ?_) ?_; clear_value x; on_goal 2 => subst x)
    | with_reducible apply State.modTx_keeps | split)

theorem State.refreshHost_keeps {s : State} (h) (h0 : Keeps ms s0 s) :
    Keeps ms s0 (State.refreshHost s h) := by
  unfold State.refreshHost
  repeat' (first
    | with_reducible assumption
    | (extract_lets +onlyGivenNames x; refine (fun hx : Keeps ms s0 x => ?_) ?_; clear_value x; on_goal 2 => subst x)
    | (extract_lets +onlyGivenNames _) | with_reducible apply State.modHst_keeps
    | with_reducible apply State.put_keeps)

theorem State.refreshHosts_keeps {s : State} (h0 : Keeps ms s0 s) :
    Keeps ms s0 (State.refreshHosts s) := by
  unfold State.refreshHosts
  repeat' (first
    | with_reducible assumption | (with_reducible intro _) | (extract_lets +onlyGivenNames _)
    | with_reducible apply eachBelow_keeps | with_reducible apply State.refreshHost_keeps)

theorem State.releaseHost_keeps {s : State} (h) (framed) (h0 : Keeps ms s0 s) :
    Keeps ms s0 (State.releaseHost s h framed) := by
  unfold State.releaseHost
  repeat' (first
    | with_reducible assumption
    | (extract_lets +onlyGivenNames x; refine (fun hx : Keeps ms s0 x => ?_) ?_; clear_value x; on_goal 2 => subst x)
    | with_reducible apply State.modHst_keeps | with_reducible apply State.put_keeps)

theorem State.rsmCheck_keeps {s : State} (h0 : Keeps ms s0 s) :
    Keeps ms s0 (State.rsmCheck s) := by
  unfold State.rsmCheck
  repeat' (first
    | with_reducible assumption | (with_reducible intro _) | (extract_lets +onlyGivenNames _)
    | with_reducible apply eachBelow_keeps | with_reducible apply State.put_keeps | split)

theorem State.modGrant_keeps {s : State} (f) (h0 : Keeps ms s0 s) :
    Keeps ms s0 (State.modGrant s f) := by
  unfold State.modGrant
  repeat' (first
    | (extract_lets +onlyGivenNames _) | with_reducible exact Nat.le_max_right _ _
    | with_reducible exact Mbx.Within.refl _ | (with_reducible apply Keeps.lit; with_reducible assumption)
    | dsimp +zetaDelta only)

theorem State.stepStart_keeps {s : State} (p) (h0 : Keeps ms s0 s) :
    Keeps ms s0 (State.stepStart s p) := by
  unfold State.stepStart
  repeat' (first
    | with_reducible assumption
    | (extract_lets +onlyGivenNames x; refine (fun hx : Keeps ms s0 x => ?_) ?_; clear_value x; on_goal 2 => subst x)
    | (extract_lets +onlyGivenNames _) | with_reducible exact Nat.le_max_right _ _
    | with_reducible exact Mbx.Within.refl _ | with_reducible apply State.put_keeps
    | with_reducible apply State.modPll_keeps | with_reducible apply State.modGrant_keeps
    | (with_reducible apply Keeps.lit; with_reducible assumption) | split | dsimp +zetaDelta only)

theorem State.takeStep_keeps {s : State} (h0 : Keeps ms s0 s) :
    Keeps ms s0 (State.takeStep s) := by
  unfold State.takeStep
  repeat' (first
    | with_reducible assumption
    | (extract_lets +onlyGivenNames x; refine (fun hx : Keeps ms s0 x => ?_) ?_; clear_value x; on_goal 2 => subst x)
    | (extract_lets +onlyGivenNames _) | with_reducible apply State.incWrap_keeps
    | with_reducible apply State.put_keeps | with_reducible apply State.stepStart_keeps
    | with_reducible apply State.modGrant_keeps | split)

theorem State.wantStep_keeps {s : State} (p) (h0 : Keeps ms s0 s) :
    Keeps ms s0 (State.wantStep s p) := by
  unfold State.wantStep
  repeat' (first
    | with_reducible assumption
    | (extract_lets +onlyGivenNames x; refine (fun hx : Keeps ms s0 x => ?_) ?_; clear_value x; on_goal 2 => subst x)
    | with_reducible apply State.modGrant_keeps | with_reducible apply State.put_keeps
    | with_reducible apply State.takeStep_keeps | split)

theorem State.pass_keeps {s : State} (h0 : Keeps ms s0 s) :
    Keeps ms s0 (State.pass s) := by
  unfold State.pass
  repeat' (first
    | with_reducible assumption
    | (extract_lets +onlyGivenNames x; refine (fun hx : Keeps ms s0 x => ?_) ?_; clear_value x; on_goal 2 => subst x)
    | with_reducible apply State.modGrant_keeps | with_reducible apply State.takeStep_keeps)

theorem State.stepEnd_keeps {s : State} (p) (h0 : Keeps ms s0 s) :
    Keeps ms s0 (State.stepEnd s p) := by
  unfold State.stepEnd
  repeat' (first
    | with_reducible assumption | (extract_lets +onlyGivenNames _) | with_reducible apply State.pass_keeps
    | with_reducible apply State.modGrant_keeps | split)

theorem State.dropStep_keeps {s : State} (p) (h0 : Keeps ms s0 s) :
    Keeps ms s0 (State.dropStep s p) := by
  unfold State.dropStep
  repeat' (first
    | with_reducible assumption
    | (extract_lets +onlyGivenNames x; refine (fun hx : Keeps ms s0 x => ?_) ?_; clear_value x; on_goal 2 => subst x)
    | with_reducible apply State.stepEnd_keeps | with_reducible apply State.modGrant_keeps)

theorem State.pllRefLost_keeps {s : State} (h) (h0 : Keeps ms s0 s) :
    Keeps ms s0 (State.pllRefLost s h) := by
  unfold State.pllRefLost
  repeat' (first
    | with_reducible assumption | (with_reducible intro _) | (extract_lets +onlyGivenNames _)
    | with_reducible apply eachBelow_keeps | with_reducible apply State.modPll_keeps | split)

theorem State.capSource_keeps {s : State} (n) (k) (h0 : Keeps ms s0 s) :
    Keeps ms s0 (State.capSource s n k) := by
  unfold State.capSource
  repeat' (first | with_reducible assumption | with_reducible apply State.modRx_keeps | split)

theorem State.txFramingLost_keeps {s : State} (n) (b) (h0 : Keeps ms s0 s) :
    Keeps ms s0 (State.txFramingLost s n b) := by
  unfold State.txFramingLost
  repeat' (first
    | with_reducible assumption
    | (extract_lets +onlyGivenNames x; refine (fun hx : Keeps ms s0 x => ?_) ?_; clear_value x; on_goal 2 => subst x)
    | (extract_lets +onlyGivenNames _) | with_reducible apply State.putB_keeps
    | with_reducible apply State.modTx_keeps | with_reducible apply State.squelch_keeps | split)

theorem State.rxFramingLost_keeps {s : State} (n) (b) (h0 : Keeps ms s0 s) :
    Keeps ms s0 (State.rxFramingLost s n b) := by
  unfold State.rxFramingLost
  repeat' (first
    | with_reducible assumption
    | (extract_lets +onlyGivenNames x; refine (fun hx : Keeps ms s0 x => ?_) ?_; clear_value x; on_goal 2 => subst x)
    | (extract_lets +onlyGivenNames _) | with_reducible apply State.putB_keeps
    | with_reducible apply State.modRx_keeps | with_reducible apply State.put_keeps
    | with_reducible apply State.capSource_keeps | with_reducible apply State.modWinch_keeps
    | with_reducible apply State.rsmCheck_keeps | with_reducible apply State.refreshHosts_keeps | split)

theorem State.slotLost_keeps {s : State} (n) (h0 : Keeps ms s0 s) :
    Keeps ms s0 (State.slotLost s n) := by
  unfold State.slotLost
  repeat' (first
    | with_reducible assumption
    | (extract_lets +onlyGivenNames x; refine (fun hx : Keeps ms s0 x => ?_) ?_; clear_value x; on_goal 2 => subst x)
    | (extract_lets +onlyGivenNames _) | with_reducible apply State.capSource_keeps
    | with_reducible apply State.put_keeps | with_reducible apply State.modWinch_keeps
    | with_reducible apply State.rxFramingLost_keeps | split)

theorem State.rxLost_keeps {s : State} (n) (h0 : Keeps ms s0 s) :
    Keeps ms s0 (State.rxLost s n) := by
  unfold State.rxLost
  repeat' (first
    | with_reducible assumption
    | (extract_lets +onlyGivenNames x; refine (fun hx : Keeps ms s0 x => ?_) ?_; clear_value x; on_goal 2 => subst x)
    | with_reducible apply State.rxFramingLost_keeps | with_reducible apply State.slotLost_keeps
    | with_reducible apply State.modRx_keeps)

theorem State.hostLost_keeps {s : State} (h) (h0 : Keeps ms s0 s) :
    Keeps ms s0 (State.hostLost s h) := by
  unfold State.hostLost
  repeat' (first
    | with_reducible assumption | (with_reducible intro _)
    | (extract_lets +onlyGivenNames x; refine (fun hx : Keeps ms s0 x => ?_) ?_; clear_value x; on_goal 2 => subst x)
    | (extract_lets +onlyGivenNames _) | with_reducible apply State.modHst_keeps
    | with_reducible apply State.put_keeps | with_reducible apply State.modWinch_keeps
    | with_reducible apply State.rsmCheck_keeps | with_reducible apply eachBelow_keeps
    | with_reducible apply State.txFramingLost_keeps | split)

theorem State.laneDone_keeps {s : State} (pick) (put) (n) (h0 : Keeps ms s0 s) :
    Keeps ms s0 (State.laneDone s pick put n) := by
  unfold State.laneDone
  repeat' (first
    | with_reducible assumption
    | (extract_lets +onlyGivenNames x; refine (fun hx : Keeps ms s0 x => ?_) ?_; clear_value x; on_goal 2 => subst x)
    | with_reducible apply State.mapWaits_keeps | with_reducible apply State.finishWhere_keeps)

theorem State.cfgDone_keeps {s : State} (n) (h0 : Keeps ms s0 s) :
    Keeps ms s0 (State.cfgDone s n) := by
  unfold State.cfgDone
  repeat' (first | with_reducible assumption | with_reducible apply State.laneDone_keeps)

theorem State.shapingDone_keeps {s : State} (n) (h0 : Keeps ms s0 s) :
    Keeps ms s0 (State.shapingDone s n) := by
  unfold State.shapingDone
  repeat' (first | with_reducible assumption | with_reducible apply State.laneDone_keeps)

theorem State.patternDone_keeps {s : State} (n) (h0 : Keeps ms s0 s) :
    Keeps ms s0 (State.patternDone s n) := by
  unfold State.patternDone
  repeat' (first | with_reducible assumption | with_reducible apply State.laneDone_keeps)

theorem State.eqDone_keeps {s : State} (n) (h0 : Keeps ms s0 s) :
    Keeps ms s0 (State.eqDone s n) := by
  unfold State.eqDone
  repeat' (first | with_reducible assumption | with_reducible apply State.laneDone_keeps)

theorem State.hostEqDone_keeps {s : State} (n) (h0 : Keeps ms s0 s) :
    Keeps ms s0 (State.hostEqDone s n) := by
  unfold State.hostEqDone
  repeat' (first | with_reducible assumption | with_reducible apply State.laneDone_keeps)

end Sys2Proof.Machine
end

