-- ==== Sys2Proof/Laws/KeepLineTx.lean ====
section
/-! SUPPORT. Sys2Proof/Laws/KeepLineTx.lean: each operation of Machine/LineTx.lean keeps what Keeps says. -/

namespace Sys2Proof.Machine

variable {ms : Bool} {s0 : State}

theorem txInject_keeps (n) (streamB) (cw) {s : State} (h3 : Keeps ms s0 s) :
    Keeps ms s0 (txInject n streamB cw s).2 := by
  unfold txInject
  repeat' (first
    | with_reducible assumption
    | (extract_lets +onlyGivenNames x; refine (fun hx : Keeps ms s0 x => ?_) ?_; clear_value x; on_goal 2 => subst x)
    | (extract_lets +onlyGivenNames _) | with_reducible apply State.modTx_keeps
    | with_reducible apply State.addSat_keeps | split)

theorem bufferCentre_keeps (n) (streamB) {s : State} (h2 : Keeps ms s0 s) :
    Keeps ms s0 (bufferCentre n streamB s) := by
  unfold bufferCentre
  repeat' (first
    | with_reducible assumption
    | (extract_lets +onlyGivenNames x; refine (fun hx : Keeps ms s0 x => ?_) ?_; clear_value x; on_goal 2 => subst x)
    | with_reducible apply State.modTx_keeps | with_reducible apply State.put_keeps)

theorem bufferSlip_keeps (n) (streamB) {s : State} (h2 : Keeps ms s0 s) :
    Keeps ms s0 (bufferSlip n streamB s) := by
  unfold bufferSlip
  repeat' (first
    | with_reducible assumption
    | (extract_lets +onlyGivenNames x; refine (fun hx : Keeps ms s0 x => ?_) ?_; clear_value x; on_goal 2 => subst x)
    | (extract_lets +onlyGivenNames _) | with_reducible apply State.txFramingLost_keeps
    | with_reducible apply bufferCentre_keeps | with_reducible apply State.addSat_keeps
    | with_reducible apply State.put_keeps | with_reducible apply State.squelch_keeps
    | with_reducible apply State.preClear_keeps | split)

theorem bufferFill_keeps (n) (streamB) (fill) {s : State} (h3 : Keeps ms s0 s) :
    Keeps ms s0 (bufferFill n streamB fill s) := by
  unfold bufferFill
  repeat' (first
    | with_reducible assumption
    | (extract_lets +onlyGivenNames x; refine (fun hx : Keeps ms s0 x => ?_) ?_; clear_value x; on_goal 2 => subst x)
    | (extract_lets +onlyGivenNames _) | with_reducible apply State.modTx_keeps
    | with_reducible apply State.put_keeps | with_reducible apply bufferSlip_keeps | split)

theorem execElasticBufferSlip_keeps (n) (f) {s : State} (h3 : Keeps ms s0 s) :
    KeepsO ms s0 (execElasticBufferSlip n f s) := by
  unfold execElasticBufferSlip
  repeat' (first
    | with_reducible assumption | (extract_lets +onlyGivenNames _) | with_reducible apply KeepsO.next
    | with_reducible apply bufferFill_keeps | split)

theorem shapeApply_keeps (n) {s : State} (h1 : Keeps ms s0 s) :
    Keeps ms s0 (shapeApply n s) := by
  unfold shapeApply
  repeat' (first | with_reducible assumption | with_reducible apply State.put_keeps | split)

theorem shapeCtrlWrite_keeps (n) (v) {s : State} (h2 : Keeps ms s0 s) :
    Keeps ms s0 (shapeCtrlWrite n v s) := by
  unfold shapeCtrlWrite
  repeat' (first
    | with_reducible assumption
    | (extract_lets +onlyGivenNames x; refine (fun hx : Keeps ms s0 x => ?_) ?_; clear_value x; on_goal 2 => subst x)
    | with_reducible apply State.writePlain_keeps | with_reducible apply shapeApply_keeps | split)

theorem shapeCopy_keeps (n) {s : State} (h1 : Keeps ms s0 s) :
    Keeps ms s0 (shapeCopy n s) := by
  unfold shapeCopy
  repeat' (first
    | with_reducible assumption
    | (extract_lets +onlyGivenNames x; refine (fun hx : Keeps ms s0 x => ?_) ?_; clear_value x; on_goal 2 => subst x)
    | (extract_lets +onlyGivenNames _) | with_reducible apply State.modTx_keeps
    | with_reducible apply State.put_keeps | split)

theorem shadowBegin_keeps (n) {s : State} (h1 : Keeps ms s0 s) :
    Keeps ms s0 (shadowBegin n s) := by
  unfold shadowBegin
  repeat' (first
    | with_reducible assumption | (with_reducible intro _)
    | (extract_lets +onlyGivenNames x; refine (fun hx : Keeps ms s0 x => ?_) ?_; clear_value x; on_goal 2 => subst x)
    | (extract_lets +onlyGivenNames _) | with_reducible apply eachBelow_keeps
    | with_reducible apply State.setWord_keeps | with_reducible apply State.put_keeps
    | with_reducible apply State.modTx_keeps | split)

theorem shadowTaps_keeps (n) (ws) {s : State} (h2 : Keeps ms s0 s) :
    Keeps ms s0 (shadowTaps n ws s) := by
  unfold shadowTaps
  repeat' (first
    | with_reducible assumption | (with_reducible intro _) | (extract_lets +onlyGivenNames _)
    | with_reducible apply eachBelow_keeps | with_reducible apply State.writePlain_keeps)

theorem shadowWrite_keeps (n) (i) {s : State} (h2 : Keeps ms s0 s) :
    Keeps ms s0 (shadowWrite n i s) := by
  unfold shadowWrite
  repeat' (first | with_reducible assumption | with_reducible apply State.modTx_keeps)

theorem shadowPd_keeps (n) (bs) {s : State} (h2 : Keeps ms s0 s) :
    Keeps ms s0 (shadowPd n bs s) := by
  unfold shadowPd
  repeat' (first
    | with_reducible assumption | (with_reducible intro _) | (extract_lets +onlyGivenNames _)
    | with_reducible apply eachBelow_keeps | with_reducible apply State.setWord_keeps)

theorem shapeLane_keeps (c) (n) {s : State} (h2 : Keeps ms s0 s) :
    Keeps ms s0 (shapeLane c n s) := by
  unfold shapeLane
  repeat' (first
    | with_reducible assumption
    | (extract_lets +onlyGivenNames x; refine (fun hx : Keeps ms s0 x => ?_) ?_; clear_value x; on_goal 2 => subst x)
    | (extract_lets +onlyGivenNames _) | with_reducible exact Nat.le_max_right _ _
    | with_reducible exact Mbx.Within.refl _ | with_reducible apply shadowBegin_keeps
    | with_reducible apply shadowTaps_keeps | with_reducible apply shadowPd_keeps
    | with_reducible apply State.put_keeps | (with_reducible apply Keeps.lit; with_reducible assumption) | split
    | dsimp +zetaDelta only)

theorem execTxSetShaping_keeps (m) {s : State} (h1 : Keeps ms s0 s) :
    KeepsO ms s0 (execTxSetShaping m s) := by
  unfold execTxSetShaping
  repeat' (first
    | with_reducible assumption | (with_reducible intro _)
    | (extract_lets +onlyGivenNames x; refine (fun hx : Keeps ms s0 x => ?_) ?_; clear_value x; on_goal 2 => subst x)
    | (extract_lets +onlyGivenNames _) | with_reducible apply KeepsO.next | with_reducible apply runCmd_keeps
    | with_reducible apply State.finish_keeps | with_reducible apply eachOf_keeps
    | with_reducible apply shapeLane_keeps | with_reducible apply State.await_keeps | split)

theorem patCtrlWrite_keeps (n) (v) {s : State} (h2 : Keeps ms s0 s) :
    Keeps ms s0 (patCtrlWrite n v s) := by
  unfold patCtrlWrite
  repeat' (first
    | with_reducible assumption
    | (extract_lets +onlyGivenNames x; refine (fun hx : Keeps ms s0 x => ?_) ?_; clear_value x; on_goal 2 => subst x)
    | with_reducible apply State.writePlain_keeps | with_reducible apply State.putB_keeps | split)

theorem patStart_keeps (n) (src) {s : State} (h2 : Keeps ms s0 s) :
    Keeps ms s0 (patStart n src s) := by
  unfold patStart
  repeat' (first
    | with_reducible assumption | (extract_lets +onlyGivenNames _) | with_reducible apply State.lydLose_keeps
    | with_reducible apply State.modTx_keeps)

theorem patApply_keeps (n) {s : State} (h1 : Keeps ms s0 s) :
    Keeps ms s0 (patApply n s) := by
  unfold patApply
  repeat' (first
    | with_reducible assumption
    | (extract_lets +onlyGivenNames x; refine (fun hx : Keeps ms s0 x => ?_) ?_; clear_value x; on_goal 2 => subst x)
    | (extract_lets +onlyGivenNames _) | with_reducible apply State.put_keeps | with_reducible apply patStart_keeps
    | split)

theorem patternLane_keeps (c) (n) {s : State} (h2 : Keeps ms s0 s) :
    Keeps ms s0 (patternLane c n s) := by
  unfold patternLane
  repeat' (first
    | with_reducible assumption
    | (extract_lets +onlyGivenNames x; refine (fun hx : Keeps ms s0 x => ?_) ?_; clear_value x; on_goal 2 => subst x)
    | (extract_lets +onlyGivenNames _) | with_reducible apply State.put_keeps
    | with_reducible apply patCtrlWrite_keeps | split)

theorem execTxLoadPattern_keeps (m) {s : State} (h1 : Keeps true s0 s) :
    KeepsO true s0 (execTxLoadPattern m s) := by
  unfold execTxLoadPattern
  repeat' (first
    | with_reducible assumption | (with_reducible intro _)
    | (extract_lets +onlyGivenNames x; refine (fun hx : Keeps true s0 x => ?_) ?_; clear_value x; on_goal 2 => subst x)
    | (extract_lets +onlyGivenNames _) | with_reducible apply KeepsO.next | with_reducible apply runCmd_keeps
    | with_reducible apply State.finish_keeps | with_reducible apply State.setBytes_keeps
    | with_reducible apply eachOf_keeps | with_reducible apply patternLane_keeps
    | with_reducible apply State.await_keeps | split)

theorem maskTake_keeps (n) {s : State} (h1 : Keeps ms s0 s) :
    Keeps ms s0 (maskTake n s) := by
  unfold maskTake
  repeat' (first
    | with_reducible assumption
    | (extract_lets +onlyGivenNames x; refine (fun hx : Keeps ms s0 x => ?_) ?_; clear_value x; on_goal 2 => subst x)
    | (extract_lets +onlyGivenNames _) | with_reducible apply State.modTx_keeps | split)

theorem maskClear_keeps (n) {s : State} (h1 : Keeps ms s0 s) :
    Keeps ms s0 (maskClear n s) := by
  unfold maskClear
  repeat' (first | with_reducible assumption | with_reducible apply State.modTx_keeps)

theorem maskBin_keeps (n) (b) {s : State} (h2 : Keeps ms s0 s) :
    Keeps ms s0 (maskBin n b s).2 := by
  unfold maskBin
  repeat' (first
    | with_reducible assumption | (extract_lets +onlyGivenNames _) | with_reducible apply State.free_keeps | split)

theorem maskBinsOf_keeps (n) {s : State} (h1 : Keeps ms s0 s) :
    Keeps ms s0 (maskBinsOf n s).2 := by
  unfold maskBinsOf
  repeat' (first
    | with_reducible assumption | (with_reducible intro _) | (extract_lets +onlyGivenNames _)
    | with_reducible apply keeps_foldl_snd | with_reducible apply maskBin_keeps)

theorem maskResult_keeps (n) (p) {s : State} (h2 : Keeps ms s0 s) :
    Keeps ms s0 (maskResult n p s) := by
  unfold maskResult
  repeat' (first
    | with_reducible assumption | (with_reducible intro _)
    | (extract_lets +onlyGivenNames x; refine (fun hx : Keeps ms s0 x => ?_) ?_; clear_value x; on_goal 2 => subst x)
    | (extract_lets +onlyGivenNames _) | with_reducible apply eachBelow_keeps
    | with_reducible apply State.setWord_keeps | with_reducible apply State.put_keeps
    | with_reducible apply State.incWrap_keeps | with_reducible apply State.modTx_keeps)

theorem maskJudge_keeps (n) {s : State} (h1 : Keeps ms s0 s) :
    Keeps ms s0 (maskJudge n s) := by
  unfold maskJudge
  repeat' (first
    | with_reducible assumption | (extract_lets +onlyGivenNames _) | with_reducible apply State.put_keeps
    | with_reducible apply State.addSat_keeps | split)

theorem maskEstimate_keeps (n) {s : State} (h1 : Keeps ms s0 s) :
    Keeps ms s0 (maskEstimate n s) := by
  unfold maskEstimate
  repeat' (first
    | with_reducible assumption | (extract_lets +onlyGivenNames _) | with_reducible apply maskBinsOf_keeps
    | with_reducible apply maskClear_keeps | with_reducible apply maskJudge_keeps
    | with_reducible apply maskResult_keeps | split)

theorem maskChanged_keeps (n) (enBefore) (same) {s : State} (h3 : Keeps ms s0 s) :
    Keeps ms s0 (maskChanged n enBefore same s) := by
  unfold maskChanged
  repeat' (first
    | with_reducible assumption
    | (extract_lets +onlyGivenNames x; refine (fun hx : Keeps ms s0 x => ?_) ?_; clear_value x; on_goal 2 => subst x)
    | (extract_lets +onlyGivenNames _) | with_reducible apply State.modTx_keeps
    | with_reducible apply maskClear_keeps | with_reducible apply State.put_keeps | split)

theorem driverApply_keeps (n) {s : State} (h1 : Keeps ms s0 s) :
    Keeps ms s0 (driverApply n s) := by
  unfold driverApply
  repeat' (first
    | with_reducible assumption | (extract_lets +onlyGivenNames _) | with_reducible apply State.lydLose_keeps
    | with_reducible apply State.modTx_keeps)

theorem execDriverSwingResume_keeps (n) {s : State} (h1 : Keeps ms s0 s) :
    KeepsO ms s0 (execDriverSwingResume n s) := by
  unfold execDriverSwingResume
  repeat' (first
    | with_reducible assumption | (extract_lets +onlyGivenNames _) | with_reducible apply KeepsO.next
    | with_reducible apply State.modTx_keeps)

theorem lydAddWrite_keeps (n) (v) {s : State} (h2 : Keeps ms s0 s) :
    Keeps ms s0 (lydAddWrite n v s) := by
  unfold lydAddWrite
  repeat' (first
    | with_reducible assumption
    | (extract_lets +onlyGivenNames x; refine (fun hx : Keeps ms s0 x => ?_) ?_; clear_value x; on_goal 2 => subst x)
    | with_reducible apply State.writePlain_keeps | with_reducible apply State.put_keeps)

theorem txCalApply_keeps (n) (r) {s : State} (h2 : Keeps ms s0 s) :
    Keeps ms s0 (txCalApply n r s) := by
  unfold txCalApply
  repeat' (first
    | with_reducible assumption
    | (extract_lets +onlyGivenNames x; refine (fun hx : Keeps ms s0 x => ?_) ?_; clear_value x; on_goal 2 => subst x)
    | (extract_lets +onlyGivenNames _) | with_reducible apply State.modTx_keeps
    | with_reducible apply State.put_keeps | with_reducible apply State.addSat_keeps)

theorem txCalBoundary_keeps (n) {s : State} (h1 : Keeps ms s0 s) :
    Keeps ms s0 (txCalBoundary n s) := by
  unfold txCalBoundary
  repeat' (first
    | with_reducible assumption | (with_reducible intro _)
    | (extract_lets +onlyGivenNames x; refine (fun hx : Keeps ms s0 x => ?_) ?_; clear_value x; on_goal 2 => subst x)
    | (extract_lets +onlyGivenNames _) | with_reducible apply keeps_foldl | with_reducible apply txCalApply_keeps
    | with_reducible apply State.modTx_keeps)

theorem execTxCalResult_keeps (n) (kind) (v) {s : State} (h3 : Keeps ms s0 s) :
    KeepsO ms s0 (execTxCalResult n kind v s) := by
  unfold execTxCalResult
  repeat' (first
    | with_reducible assumption | (extract_lets +onlyGivenNames _) | with_reducible apply KeepsO.next
    | with_reducible apply State.modTx_keeps | with_reducible apply txCalApply_keeps | split)

theorem txCalCtrlWrite_keeps (n) (v) {s : State} (h2 : Keeps ms s0 s) :
    Keeps ms s0 (txCalCtrlWrite n v s) := by
  unfold txCalCtrlWrite
  repeat' (first
    | with_reducible assumption
    | (extract_lets +onlyGivenNames x; refine (fun hx : Keeps ms s0 x => ?_) ?_; clear_value x; on_goal 2 => subst x)
    | with_reducible apply State.writePlain_keeps | with_reducible apply State.modTx_keeps | split)

theorem pllSquelch_keeps (p) (on) {s : State} (h2 : Keeps ms s0 s) :
    Keeps ms s0 (pllSquelch p on s) := by
  unfold pllSquelch
  repeat' (first
    | with_reducible assumption | (with_reducible intro _) | (extract_lets +onlyGivenNames _)
    | with_reducible apply eachOf_keeps | with_reducible apply State.squelch_keeps)

theorem pllRecal_keeps (p) {s : State} (h1 : Keeps ms s0 s) :
    Keeps ms s0 (pllRecal p s) := by
  unfold pllRecal
  repeat' (first
    | with_reducible assumption
    | (extract_lets +onlyGivenNames x; refine (fun hx : Keeps ms s0 x => ?_) ?_; clear_value x; on_goal 2 => subst x)
    | with_reducible apply State.modPll_keeps | with_reducible apply pllSquelch_keeps)

theorem execTxPllBandCalComplete_keeps (p) {s : State} (h1 : Keeps ms s0 s) :
    KeepsO ms s0 (execTxPllBandCalComplete p s) := by
  unfold execTxPllBandCalComplete
  repeat' (first
    | with_reducible assumption | (extract_lets +onlyGivenNames _) | with_reducible apply KeepsO.next
    | with_reducible apply State.modPll_keeps | split)

theorem execTxPllLockLoss_keeps (p) {s : State} (h1 : Keeps ms s0 s) :
    KeepsO ms s0 (execTxPllLockLoss p s) := by
  unfold execTxPllLockLoss
  repeat' (first
    | with_reducible assumption | (with_reducible intro _)
    | (extract_lets +onlyGivenNames x; refine (fun hx : Keeps ms s0 x => ?_) ?_; clear_value x; on_goal 2 => subst x)
    | (extract_lets +onlyGivenNames _) | with_reducible apply KeepsO.next | with_reducible apply State.modPll_keeps
    | with_reducible apply pllSquelch_keeps | with_reducible apply eachOf_keeps
    | with_reducible apply State.addSat_keeps | split)

theorem execTxPllReferenceSwitch_keeps (p) {s : State} (h1 : Keeps ms s0 s) :
    KeepsO ms s0 (execTxPllReferenceSwitch p s) := by
  unfold execTxPllReferenceSwitch
  repeat' (first
    | with_reducible assumption | (extract_lets +onlyGivenNames _) | with_reducible apply KeepsO.next
    | with_reducible apply State.modPll_keeps | split)

theorem execTxPllHoldoverExpiry_keeps (p) {s : State} (h1 : Keeps ms s0 s) :
    KeepsO ms s0 (execTxPllHoldoverExpiry p s) := by
  unfold execTxPllHoldoverExpiry
  repeat' (first
    | with_reducible assumption | (extract_lets +onlyGivenNames _) | with_reducible apply KeepsO.next
    | with_reducible apply State.modPll_keeps | split)

theorem execTxPllStop_keeps (p) {s : State} (h1 : Keeps ms s0 s) :
    KeepsO ms s0 (execTxPllStop p s) := by
  unfold execTxPllStop
  repeat' (first
    | with_reducible assumption
    | (extract_lets +onlyGivenNames x; refine (fun hx : Keeps ms s0 x => ?_) ?_; clear_value x; on_goal 2 => subst x)
    | (extract_lets +onlyGivenNames _) | with_reducible apply KeepsO.next | with_reducible apply State.modPll_keeps
    | with_reducible apply State.dropStep_keeps | with_reducible apply pllSquelch_keeps | split)

theorem pllStart_keeps (p) {s : State} (h1 : Keeps ms s0 s) :
    Keeps ms s0 (pllStart p s) := by
  unfold pllStart
  repeat' (first
    | with_reducible assumption | (extract_lets +onlyGivenNames _) | with_reducible apply State.wantStep_keeps
    | with_reducible apply pllSquelch_keeps | split)

end Sys2Proof.Machine
end

