-- ==== Sys2Proof/Laws/KeepLydCore.lean ====
section
/-! SUPPORT. Sys2Proof/Laws/KeepLydCore.lean: each operation of Machine/LydCore.lean keeps what Keeps says. -/

namespace Sys2Proof.Machine

variable {ms : Bool} {s0 : State}

theorem State.lydQueue_keeps {s : State} (n) (type) (content) (h0 : Keeps ms s0 s) :
    Keeps ms s0 (State.lydQueue s n type content) := by
  unfold State.lydQueue
  repeat' (first | with_reducible assumption | with_reducible apply State.modLyd_keeps)

theorem State.sendProtect_keeps {s : State} (op) (k) (reason) (h0 : Keeps ms s0 s) :
    Keeps ms s0 (State.sendProtect s op k reason) := by
  unfold State.sendProtect
  repeat' (first | with_reducible assumption | with_reducible apply State.lydQueue_keeps)

theorem State.postProtectResult_keeps {s : State} (reason) (h0 : Keeps ms s0 s) :
    Keeps ms s0 (State.postProtectResult s reason) := by
  unfold State.postProtectResult
  repeat' (first
    | with_reducible assumption | (extract_lets +onlyGivenNames _) | with_reducible apply State.free_keeps
    | with_reducible apply State.post_keeps)

theorem State.abandon_keeps {s : State} (reason) (send) (h0 : Keeps ms s0 s) :
    Keeps ms s0 (State.abandon s reason send) := by
  unfold State.abandon
  repeat' (first
    | with_reducible assumption
    | (extract_lets +onlyGivenNames x; refine (fun hx : Keeps ms s0 x => ?_) ?_; clear_value x; on_goal 2 => subst x)
    | (extract_lets +onlyGivenNames _) | with_reducible apply State.sendProtect_keeps
    | with_reducible apply State.put_keeps | with_reducible apply State.postProtectResult_keeps
    | with_reducible apply State.modProt_keeps | with_reducible apply State.finishWhere_keeps | split)

theorem State.agreeHalt_keeps {s : State} (h0 : Keeps ms s0 s) :
    Keeps ms s0 (State.agreeHalt s) := by
  unfold State.agreeHalt
  repeat' (first
    | with_reducible assumption
    | (extract_lets +onlyGivenNames x; refine (fun hx : Keeps ms s0 x => ?_) ?_; clear_value x; on_goal 2 => subst x)
    | (extract_lets +onlyGivenNames _) | with_reducible apply State.put_keeps
    | with_reducible apply State.modProt_keeps | split)

theorem State.agreeLinkLost_keeps {s : State} (n) (h0 : Keeps ms s0 s) :
    Keeps ms s0 (State.agreeLinkLost s n) := by
  unfold State.agreeLinkLost
  repeat' (first | with_reducible assumption | with_reducible apply State.abandon_keeps | split)

theorem State.phyLost_keeps {s : State} (n) (h0 : Keeps ms s0 s) :
    Keeps ms s0 (State.phyLost s n) := by
  unfold State.phyLost
  repeat' (first
    | with_reducible assumption
    | (extract_lets +onlyGivenNames x; refine (fun hx : Keeps ms s0 x => ?_) ?_; clear_value x; on_goal 2 => subst x)
    | (extract_lets +onlyGivenNames _) | with_reducible apply State.modLyd_keeps
    | with_reducible apply State.put_keeps | with_reducible apply State.agreeLinkLost_keeps | split)

theorem State.chainRestart_keeps {s : State} (n) (h0 : Keeps ms s0 s) :
    Keeps ms s0 (State.chainRestart s n) := by
  unfold State.chainRestart
  repeat' (first
    | with_reducible assumption | (extract_lets +onlyGivenNames _) | with_reducible apply State.modLyd_keeps
    | with_reducible apply State.put_keeps | with_reducible apply State.phyLost_keeps)

end Sys2Proof.Machine
end

