-- ==== Sys2Proof/Laws/KeepTxPath.lean ====
section
/-! SUPPORT. Sys2Proof/Laws/KeepTxPath.lean: each operation of Machine/TxPath.lean keeps what Keeps says. -/

namespace Sys2Proof.Machine

variable {ms : Bool} {s0 : State}

theorem lydRest_keeps (n) {s : State} (h1 : Keeps ms s0 s) :
    Keeps ms s0 (lydRest n s) := by
  unfold lydRest
  repeat' (first | with_reducible assumption | with_reducible apply State.modLyd_keeps)

theorem txMux_keeps (n) (g) {s : State} (h2 : Keeps ms s0 s) :
    Keeps ms s0 (txMux n g s).2 := by
  unfold txMux
  repeat' (first
    | with_reducible assumption
    | (extract_lets +onlyGivenNames x; refine (fun hx : Keeps ms s0 x => ?_) ?_; clear_value x; on_goal 2 => subst x)
    | (extract_lets +onlyGivenNames _) | with_reducible apply State.modTx_keeps | split)

theorem txSymbol_keeps (n) (x) {s : State} (h2 : Keeps ms s0 s) :
    Keeps ms s0 (txSymbol n x s) := by
  unfold txSymbol
  repeat' (first
    | with_reducible assumption
    | (extract_lets +onlyGivenNames x; refine (fun hx : Keeps ms s0 x => ?_) ?_; clear_value x; on_goal 2 => subst x)
    | (extract_lets +onlyGivenNames _) | with_reducible apply State.modTx_keeps
    | with_reducible apply State.perf_keeps | with_reducible apply State.addSat_keeps | split)

theorem txLevel_keeps (n) (g) {s : State} (h2 : Keeps ms s0 s) :
    Keeps ms s0 (txLevel n g s) := by
  unfold txLevel
  repeat' (first
    | with_reducible assumption
    | (extract_lets +onlyGivenNames x; refine (fun hx : Keeps ms s0 x => ?_) ?_; clear_value x; on_goal 2 => subst x)
    | (extract_lets +onlyGivenNames _) | with_reducible apply txMux_keeps | with_reducible apply txSymbol_keeps
    | split | (with_reducible refine Keeps.ofSnd ‹_› ?_))

theorem txBlock_keeps (n) (streamB) (p) {s : State} (h3 : Keeps ms s0 s) :
    Keeps ms s0 (txBlock n streamB p s) := by
  unfold txBlock
  repeat' (first
    | with_reducible assumption | (with_reducible intro _) | (extract_lets +onlyGivenNames _)
    | with_reducible apply txInject_keeps | with_reducible apply eachOf_keeps | with_reducible apply txLevel_keeps)

theorem txSlots_keeps (fuel) (n) {s : State} (h2 : Keeps ms s0 s) :
    Keeps ms s0 (txSlots fuel n s) := by
  induction fuel generalizing s with
  | zero => unfold txSlots; exact h2
  | succ fuel ih =>
    unfold txSlots
    repeat' (first
      | with_reducible assumption
      | (extract_lets +onlyGivenNames x; refine (fun hx : Keeps ms s0 x => ?_) ?_; clear_value x; on_goal 2 => subst x)
      | (extract_lets +onlyGivenNames _) | with_reducible apply ih | with_reducible apply State.modTx_keeps
      | with_reducible apply txBlock_keeps | split)

theorem txInterval_keeps (n) (x) {s : State} (h2 : Keeps ms s0 s) :
    Keeps ms s0 (txInterval n x s) := by
  unfold txInterval
  repeat' (first
    | with_reducible assumption
    | (extract_lets +onlyGivenNames x; refine (fun hx : Keeps ms s0 x => ?_) ?_; clear_value x; on_goal 2 => subst x)
    | with_reducible apply State.modTx_keeps | with_reducible apply txSlots_keeps
    | with_reducible apply maskTake_keeps | split)

theorem txData_keeps (n) (data) {s : State} (h2 : Keeps ms s0 s) :
    Keeps ms s0 (txData n data s) := by
  unfold txData
  repeat' (first
    | with_reducible assumption | (with_reducible intro _)
    | (extract_lets +onlyGivenNames x; refine (fun hx : Keeps ms s0 x => ?_) ?_; clear_value x; on_goal 2 => subst x)
    | (extract_lets +onlyGivenNames _) | with_reducible apply keeps_foldl | with_reducible apply State.modTx_keeps
    | with_reducible apply txInterval_keeps | split)

theorem execErrorInjection_keeps (n) (streamB) (block) {s : State} (h3 : Keeps ms s0 s) :
    KeepsO ms s0 (execErrorInjection n streamB block s) := by
  unfold execErrorInjection
  repeat' (first
    | with_reducible assumption | (extract_lets +onlyGivenNames _) | with_reducible apply KeepsO.next
    | with_reducible apply txBlock_keeps | split)

theorem execMaskEstimateEnd_keeps (n) (a) (b) {s : State} (h2 : Keeps ms s0 s) :
    KeepsO ms s0 (execMaskEstimateEnd n a b s) := by
  unfold execMaskEstimateEnd
  repeat' (first
    | with_reducible assumption | (extract_lets +onlyGivenNames _) | with_reducible apply KeepsO.next
    | with_reducible apply maskEstimate_keeps | with_reducible apply txData_keeps)

theorem lydBoundary_keeps (n) {s : State} (h1 : Keeps ms s0 s) :
    Keeps ms s0 (lydBoundary n s) := by
  unfold lydBoundary
  repeat' (first
    | with_reducible assumption
    | (extract_lets +onlyGivenNames x; refine (fun hx : Keeps ms s0 x => ?_) ?_; clear_value x; on_goal 2 => subst x)
    | with_reducible apply State.modTx_keeps | with_reducible apply State.modLyd_keeps | split)

theorem execLanyardSymbolBoundary_keeps (d) {s : State} (h2 : Keeps ms s0 s) :
    KeepsO ms s0 (execLanyardSymbolBoundary d s) := by
  unfold execLanyardSymbolBoundary
  repeat' (first
    | with_reducible assumption | (extract_lets +onlyGivenNames _) | with_reducible apply KeepsO.next
    | with_reducible apply lydBoundary_keeps | with_reducible apply txData_keeps)

end Sys2Proof.Machine
end

