-- ==== Sys2Proof/Laws/KeepRxPath.lean ====
section
/-! SUPPORT. Sys2Proof/Laws/KeepRxPath.lean: each operation of Machine/RxPath.lean keeps what Keeps says. -/

namespace Sys2Proof.Machine

variable {ms : Bool} {s0 : State}

theorem dcBlock_keeps (n) (x) {s : State} (h2 : Keeps ms s0 s) :
    Keeps ms s0 (dcBlock n x s).2 := by
  unfold dcBlock
  repeat' (first
    | with_reducible assumption | (extract_lets +onlyGivenNames _) | with_reducible apply State.freeRound_keeps
    | with_reducible apply State.modLyd_keeps | split)

theorem State.modChain_keeps {s : State} (n) (f) (h0 : Keeps ms s0 s) :
    Keeps ms s0 (State.modChain s n f) := by
  unfold State.modChain
  repeat' (first | with_reducible assumption | with_reducible apply State.modLyd_keeps)

theorem chainDeliver_keeps (n) (x) {s : State} (h2 : Keeps ms s0 s) :
    Keeps ms s0 (chainDeliver n x s) := by
  unfold chainDeliver
  repeat' (first
    | with_reducible assumption
    | (extract_lets +onlyGivenNames x; refine (fun hx : Keeps ms s0 x => ?_) ?_; clear_value x; on_goal 2 => subst x)
    | (extract_lets +onlyGivenNames _) | with_reducible apply dcBlock_keeps
    | with_reducible apply State.modChain_keeps | with_reducible apply State.put_keeps | split
    | (with_reducible refine Keeps.ofSnd ‹_› ?_))

theorem chainFir_keeps (n) (x) {s : State} (h2 : Keeps ms s0 s) :
    Keeps ms s0 (chainFir n x s) := by
  unfold chainFir
  repeat' (first
    | with_reducible assumption
    | (extract_lets +onlyGivenNames x; refine (fun hx : Keeps ms s0 x => ?_) ?_; clear_value x; on_goal 2 => subst x)
    | (extract_lets +onlyGivenNames _) | with_reducible apply State.modChain_keeps
    | with_reducible apply chainDeliver_keeps | split)

theorem chainHb2_keeps (n) (x) {s : State} (h2 : Keeps ms s0 s) :
    Keeps ms s0 (chainHb2 n x s) := by
  unfold chainHb2
  repeat' (first
    | with_reducible assumption
    | (extract_lets +onlyGivenNames x; refine (fun hx : Keeps ms s0 x => ?_) ?_; clear_value x; on_goal 2 => subst x)
    | (extract_lets +onlyGivenNames _) | with_reducible apply State.modChain_keeps
    | with_reducible apply chainFir_keeps | split)

theorem chainHb1_keeps (n) (x) {s : State} (h2 : Keeps ms s0 s) :
    Keeps ms s0 (chainHb1 n x s) := by
  unfold chainHb1
  repeat' (first
    | with_reducible assumption
    | (extract_lets +onlyGivenNames x; refine (fun hx : Keeps ms s0 x => ?_) ?_; clear_value x; on_goal 2 => subst x)
    | (extract_lets +onlyGivenNames _) | with_reducible apply State.modChain_keeps
    | with_reducible apply chainHb2_keeps | split)

theorem chainStep_keeps (n) (z) {s : State} (h2 : Keeps ms s0 s) :
    Keeps ms s0 (chainStep n z s) := by
  unfold chainStep
  repeat' (first
    | with_reducible assumption | (extract_lets +onlyGivenNames _) | with_reducible apply State.modChain_keeps
    | with_reducible apply chainHb1_keeps | split)

theorem timingStep_keeps (n) (z) (level) (am) {s : State} (h4 : Keeps ms s0 s) :
    Keeps ms s0 (timingStep n z level am s) := by
  unfold timingStep
  repeat' (first
    | with_reducible assumption
    | (extract_lets +onlyGivenNames x; refine (fun hx : Keeps ms s0 x => ?_) ?_; clear_value x; on_goal 2 => subst x)
    | (extract_lets +onlyGivenNames _) | with_reducible apply State.modRx_keeps
    | with_reducible apply State.freeRound_keeps | with_reducible apply State.put_keeps)

theorem State.setChk_keeps {s : State} (u) (c) (h0 : Keeps ms s0 s) :
    Keeps ms s0 (State.setChk s u c) := by
  unfold State.setChk
  repeat' (first
    | with_reducible assumption | with_reducible apply State.modRx_keeps | with_reducible apply State.modHst_keeps
    | split)

theorem chkCount_keeps (u) (f) (n) (c) (l) (e) {s : State} (h6 : Keeps ms s0 s) :
    Keeps ms s0 (chkCount u f n c l e s) := by
  unfold chkCount
  repeat' (first
    | with_reducible assumption
    | (extract_lets +onlyGivenNames x; refine (fun hx : Keeps ms s0 x => ?_) ?_; clear_value x; on_goal 2 => subst x)
    | (extract_lets +onlyGivenNames _) | with_reducible apply State.addSat_keeps
    | with_reducible apply State.put_keeps | with_reducible apply State.setChk_keeps | split)

theorem chkLevel_keeps (u) (level) {s : State} (h2 : Keeps ms s0 s) :
    Keeps ms s0 (chkLevel u level s) := by
  unfold chkLevel
  repeat' (first
    | with_reducible assumption | (extract_lets +onlyGivenNames _) | with_reducible apply State.setChk_keeps
    | with_reducible apply chkCount_keeps | with_reducible apply State.put_keeps | split)

theorem capWrite_keeps (n) (bs) {s : State} (h2 : Keeps true s0 s) :
    Keeps true s0 (capWrite n bs s) := by
  unfold capWrite
  repeat' (first
    | with_reducible assumption | (with_reducible intro _)
    | (extract_lets +onlyGivenNames x; refine (fun hx : Keeps true s0 x => ?_) ?_; clear_value x; on_goal 2 => subst x)
    | (extract_lets +onlyGivenNames _) | with_reducible apply keeps_foldl | with_reducible apply State.setByte_keeps
    | with_reducible apply State.modRx_keeps)

theorem capStop_keeps (n) (state) (st) {s : State} (h3 : Keeps ms s0 s) :
    Keeps ms s0 (capStop n state st s) := by
  unfold capStop
  repeat' (first
    | with_reducible assumption
    | (extract_lets +onlyGivenNames x; refine (fun hx : Keeps ms s0 x => ?_) ?_; clear_value x; on_goal 2 => subst x)
    | (extract_lets +onlyGivenNames _) | with_reducible apply State.put_keeps
    | with_reducible apply State.finishWhere_keeps)

theorem capSample_keeps (n) (code) (z) {s : State} (h3 : Keeps true s0 s) :
    Keeps true s0 (capSample n code z s) := by
  unfold capSample
  repeat' (first
    | with_reducible assumption
    | (extract_lets +onlyGivenNames x; refine (fun hx : Keeps true s0 x => ?_) ?_; clear_value x; on_goal 2 => subst x)
    | with_reducible apply capWrite_keeps | with_reducible apply State.modRx_keeps
    | with_reducible apply capStop_keeps | split)

theorem adcClips_keeps (n) (codes) {s : State} (h2 : Keeps ms s0 s) :
    Keeps ms s0 (adcClips n codes s) := by
  unfold adcClips
  repeat' (first
    | with_reducible assumption | (extract_lets +onlyGivenNames _) | with_reducible apply State.perf_keeps
    | with_reducible apply State.addSat_keeps)

theorem loopSymbol_keeps (n) (level) {s : State} (h2 : Keeps ms s0 s) :
    Keeps ms s0 (loopSymbol n level s) := by
  unfold loopSymbol
  repeat' (first
    | with_reducible assumption | (extract_lets +onlyGivenNames _) | with_reducible apply State.modTx_keeps | split)

theorem rxSymbol_keeps (n) (z) (level) (am) {s : State} (h4 : Keeps ms s0 s) :
    Keeps ms s0 (rxSymbol n z level am s) := by
  unfold rxSymbol
  repeat' (first
    | with_reducible assumption
    | (extract_lets +onlyGivenNames x; refine (fun hx : Keeps ms s0 x => ?_) ?_; clear_value x; on_goal 2 => subst x)
    | (extract_lets +onlyGivenNames _) | with_reducible apply State.modRx_keeps
    | with_reducible apply timingStep_keeps | with_reducible apply chkLevel_keeps
    | with_reducible apply loopSymbol_keeps | split)

theorem rxCode_keeps (n) (code) {s : State} (h2 : Keeps ms s0 s) :
    Keeps ms s0 (rxCode n code s).2 := by
  unfold rxCode
  repeat' (first | with_reducible assumption | with_reducible apply State.modTx_keeps | split)

theorem rxSample_keeps (n) (x) {s : State} (h2 : Keeps true s0 s) :
    Keeps true s0 (rxSample n x s) := by
  unfold rxSample
  repeat' (first
    | with_reducible assumption
    | (extract_lets +onlyGivenNames x; refine (fun hx : Keeps true s0 x => ?_) ?_; clear_value x; on_goal 2 => subst x)
    | (extract_lets +onlyGivenNames _) | with_reducible apply rxCode_keeps | with_reducible apply capSample_keeps
    | with_reducible apply adcClips_keeps | with_reducible apply State.modRx_keeps
    | with_reducible apply chainStep_keeps | with_reducible apply rxSymbol_keeps | split
    | (with_reducible refine Keeps.ofSnd ‹_› ?_))

theorem rxData_keeps (n) (data) {s : State} (h2 : Keeps true s0 s) :
    Keeps true s0 (rxData n data s) := by
  unfold rxData
  repeat' (first
    | with_reducible assumption | (with_reducible intro _)
    | (extract_lets +onlyGivenNames x; refine (fun hx : Keeps true s0 x => ?_) ?_; clear_value x; on_goal 2 => subst x)
    | (extract_lets +onlyGivenNames _) | with_reducible apply keeps_foldl | with_reducible apply State.modChain_keeps
    | with_reducible apply rxSample_keeps | split)

theorem hostSample_keeps (h) (code) {s : State} (h2 : Keeps ms s0 s) :
    Keeps ms s0 (hostSample h code s) := by
  unfold hostSample
  repeat' (first
    | with_reducible assumption | (extract_lets +onlyGivenNames _) | with_reducible apply chkLevel_keeps
    | with_reducible apply State.modHst_keeps)

theorem hostData_keeps (h) (codes) {s : State} (h2 : Keeps ms s0 s) :
    Keeps ms s0 (hostData h codes s) := by
  unfold hostData
  repeat' (first
    | with_reducible assumption | (with_reducible intro _) | (extract_lets +onlyGivenNames _)
    | with_reducible apply keeps_foldl | with_reducible apply hostSample_keeps | split)

end Sys2Proof.Machine
end

