-- ==== Sys2Proof/Laws/KeepLineRx.lean ====
section
/-! SUPPORT. Sys2Proof/Laws/KeepLineRx.lean: each operation of Machine/LineRx.lean keeps what Keeps says. -/

namespace Sys2Proof.Machine

variable {ms : Bool} {s0 : State}

theorem storeTaps_keeps (r) (n) (k) (taps) {s : State} (h4 : Keeps ms s0 s) :
    Keeps ms s0 (storeTaps r n k taps s) := by
  unfold storeTaps
  repeat' (first
    | with_reducible assumption | (with_reducible intro _) | (extract_lets +onlyGivenNames _)
    | with_reducible apply eachBelow_keeps | with_reducible apply State.setWord_keeps)

theorem State.eqLoad_keeps {s : State} (n) (e) (h0 : Keeps ms s0 s) :
    Keeps ms s0 (State.eqLoad s n e) := by
  unfold State.eqLoad
  repeat' (first
    | with_reducible assumption | (with_reducible intro _)
    | (extract_lets +onlyGivenNames x; refine (fun hx : Keeps ms s0 x => ?_) ?_; clear_value x; on_goal 2 => subst x)
    | (extract_lets +onlyGivenNames _) | with_reducible apply State.put_keeps | with_reducible apply storeTaps_keeps
    | with_reducible apply eachBelow_keeps | with_reducible apply State.setWord_keeps)

theorem State.eqLoadHost_keeps {s : State} (h) (e) (h0 : Keeps ms s0 s) :
    Keeps ms s0 (State.eqLoadHost s h e) := by
  unfold State.eqLoadHost
  repeat' (first
    | with_reducible assumption | (extract_lets +onlyGivenNames _) | with_reducible apply State.put_keeps
    | with_reducible apply storeTaps_keeps)

theorem State.eqStage_keeps {s : State} (n) (e) (h0 : Keeps ms s0 s) :
    Keeps ms s0 (State.eqStage s n e) := by
  unfold State.eqStage
  repeat' (first
    | with_reducible assumption | (extract_lets +onlyGivenNames _) | with_reducible apply State.put_keeps
    | with_reducible apply State.modRx_keeps)

theorem State.eqStageHost_keeps {s : State} (h) (e) (h0 : Keeps ms s0 s) :
    Keeps ms s0 (State.eqStageHost s h e) := by
  unfold State.eqStageHost
  repeat' (first
    | with_reducible assumption | (extract_lets +onlyGivenNames _) | with_reducible apply State.put_keeps
    | with_reducible apply State.modHst_keeps)

theorem State.eqCopy_keeps {s : State} (n) (h0 : Keeps ms s0 s) :
    Keeps ms s0 (State.eqCopy s n) := by
  unfold State.eqCopy
  repeat' (first
    | with_reducible assumption
    | (extract_lets +onlyGivenNames x; refine (fun hx : Keeps ms s0 x => ?_) ?_; clear_value x; on_goal 2 => subst x)
    | (extract_lets +onlyGivenNames _) | with_reducible apply State.put_keeps
    | with_reducible apply State.eqLoad_keeps | with_reducible apply State.addSat_keeps | split)

theorem State.eqCopyHost_keeps {s : State} (h) (h0 : Keeps ms s0 s) :
    Keeps ms s0 (State.eqCopyHost s h) := by
  unfold State.eqCopyHost
  repeat' (first
    | with_reducible assumption | (extract_lets +onlyGivenNames _) | with_reducible apply State.addSat_keeps
    | with_reducible apply State.put_keeps | with_reducible apply State.eqLoadHost_keeps | split)

theorem State.winchSpoil_keeps {s : State} (i) (h0 : Keeps ms s0 s) :
    Keeps ms s0 (State.winchSpoil s i) := by
  unfold State.winchSpoil
  repeat' (first | with_reducible assumption | with_reducible apply State.modWinch_keeps | split)

theorem State.reseed_keeps {s : State} (i) (h0 : Keeps ms s0 s) :
    Keeps ms s0 (State.reseed s i) := by
  unfold State.reseed
  repeat' (first
    | with_reducible assumption
    | (extract_lets +onlyGivenNames x; refine (fun hx : Keeps ms s0 x => ?_) ?_; clear_value x; on_goal 2 => subst x)
    | with_reducible apply State.winchSpoil_keeps | with_reducible apply State.eqStage_keeps
    | with_reducible apply State.eqStageHost_keeps | split)

theorem eqWrite_keeps (n) (f) {s : State} (h2 : Keeps ms s0 s) :
    Keeps ms s0 (eqWrite n f s) := by
  unfold eqWrite
  repeat' (first
    | with_reducible assumption | with_reducible apply State.eqStage_keeps | with_reducible apply State.put_keeps
    | split)

theorem eqWriteHost_keeps (h) (f) {s : State} (h2 : Keeps ms s0 s) :
    Keeps ms s0 (eqWriteHost h f s) := by
  unfold eqWriteHost
  repeat' (first
    | with_reducible assumption | with_reducible apply State.eqStageHost_keeps | with_reducible apply State.put_keeps
    | split)

theorem eqCtrlWrite_keeps (n) (v) {s : State} (h2 : Keeps ms s0 s) :
    Keeps ms s0 (eqCtrlWrite n v s) := by
  unfold eqCtrlWrite
  repeat' (first
    | with_reducible assumption
    | (extract_lets +onlyGivenNames x; refine (fun hx : Keeps ms s0 x => ?_) ?_; clear_value x; on_goal 2 => subst x)
    | (extract_lets +onlyGivenNames _) | with_reducible apply State.put_keeps | with_reducible apply eqWrite_keeps
    | split)

theorem tiaApply_keeps (n) (g) {s : State} (h2 : Keeps ms s0 s) :
    Keeps ms s0 (tiaApply n g s) := by
  unfold tiaApply
  repeat' (first
    | with_reducible assumption
    | (extract_lets +onlyGivenNames x; refine (fun hx : Keeps ms s0 x => ?_) ?_; clear_value x; on_goal 2 => subst x)
    | (extract_lets +onlyGivenNames _) | with_reducible apply State.put_keeps
    | with_reducible apply State.eqStage_keeps | split)

theorem execTiaGainAcquired_keeps (n) (gain) {s : State} (h2 : Keeps ms s0 s) :
    KeepsO ms s0 (execTiaGainAcquired n gain s) := by
  unfold execTiaGainAcquired
  repeat' (first
    | with_reducible assumption | (extract_lets +onlyGivenNames _) | with_reducible apply KeepsO.next
    | with_reducible apply State.put_keeps | split)

theorem execTiaAcqTimeout_keeps (n) (high) {s : State} (h2 : Keeps ms s0 s) :
    KeepsO ms s0 (execTiaAcqTimeout n high s) := by
  unfold execTiaAcqTimeout
  repeat' (first
    | with_reducible assumption | (extract_lets +onlyGivenNames _) | with_reducible apply KeepsO.next
    | with_reducible apply State.put_keeps | split)

theorem tiaCtrlWrite_keeps (n) (v) {s : State} (h2 : Keeps ms s0 s) :
    Keeps ms s0 (tiaCtrlWrite n v s) := by
  unfold tiaCtrlWrite
  repeat' (first
    | with_reducible assumption
    | (extract_lets +onlyGivenNames x; refine (fun hx : Keeps ms s0 x => ?_) ?_; clear_value x; on_goal 2 => subst x)
    | (extract_lets +onlyGivenNames _) | with_reducible apply State.writePlain_keeps
    | with_reducible apply State.modRx_keeps | with_reducible apply State.put_keeps | split)

theorem execRetrimMeasureDone_keeps (n) (rms256) {s : State} (h2 : Keeps ms s0 s) :
    KeepsO ms s0 (execRetrimMeasureDone n rms256 s) := by
  unfold execRetrimMeasureDone
  repeat' (first
    | with_reducible assumption | (extract_lets +onlyGivenNames _) | with_reducible apply KeepsO.next
    | with_reducible apply State.modRx_keeps | split)

theorem tiaBoundary_keeps (n) (framed) {s : State} (h2 : Keeps ms s0 s) :
    Keeps ms s0 (tiaBoundary n framed s) := by
  unfold tiaBoundary
  repeat' (first
    | with_reducible assumption
    | (extract_lets +onlyGivenNames x; refine (fun hx : Keeps ms s0 x => ?_) ?_; clear_value x; on_goal 2 => subst x)
    | (extract_lets +onlyGivenNames _) | with_reducible apply State.modRx_keeps | with_reducible apply tiaApply_keeps
    | with_reducible apply State.put_keeps | split | dsimp +zetaDelta only)

theorem rotate_keeps (n) {s : State} (h1 : Keeps ms s0 s) :
    Keeps ms s0 (rotate n s) := by
  unfold rotate
  repeat' (first
    | with_reducible assumption
    | (extract_lets +onlyGivenNames x; refine (fun hx : Keeps ms s0 x => ?_) ?_; clear_value x; on_goal 2 => subst x)
    | (extract_lets +onlyGivenNames _) | with_reducible apply State.put_keeps
    | with_reducible apply State.modRx_keeps | with_reducible apply State.addSat_keeps | split)

theorem execAdcRotationTimer_keeps (n) (data) {s : State} (h2 : Keeps true s0 s) :
    KeepsO true s0 (execAdcRotationTimer n data s) := by
  unfold execAdcRotationTimer
  repeat' (first
    | with_reducible assumption | (extract_lets +onlyGivenNames _) | with_reducible apply KeepsO.next
    | with_reducible apply rotate_keeps | with_reducible apply State.put_keeps | with_reducible apply rxData_keeps
    | split)

theorem State.rxDown_keeps {s : State} (n) (h0 : Keeps ms s0 s) :
    Keeps ms s0 (State.rxDown s n) := by
  unfold State.rxDown
  repeat' (first
    | with_reducible assumption | (extract_lets +onlyGivenNames _) | with_reducible apply State.rxLost_keeps
    | with_reducible apply State.put_keeps | with_reducible apply State.winchSpoil_keeps)

theorem State.protLoss_keeps {s : State} (n) (h0 : Keeps ms s0 s) :
    Keeps ms s0 (State.protLoss s n) := by
  unfold State.protLoss
  repeat' (first | with_reducible assumption | with_reducible apply State.modProt_keeps | split)

theorem execLosAssert_keeps (n) {s : State} (h1 : Keeps ms s0 s) :
    KeepsO ms s0 (execLosAssert n s) := by
  unfold execLosAssert
  repeat' (first
    | with_reducible assumption
    | (extract_lets +onlyGivenNames x; refine (fun hx : Keeps ms s0 x => ?_) ?_; clear_value x; on_goal 2 => subst x)
    | (extract_lets +onlyGivenNames _) | with_reducible apply KeepsO.next | with_reducible apply State.addSat_keeps
    | with_reducible apply State.put_keeps | with_reducible apply State.refreshHosts_keeps
    | with_reducible apply State.capSource_keeps | with_reducible apply State.protLoss_keeps
    | with_reducible apply State.phyLost_keeps | with_reducible apply State.rxDown_keeps | split)

theorem execLosDeassert_keeps (n) {s : State} (h1 : Keeps ms s0 s) :
    KeepsO ms s0 (execLosDeassert n s) := by
  unfold execLosDeassert
  repeat' (first
    | with_reducible assumption
    | (extract_lets +onlyGivenNames x; refine (fun hx : Keeps ms s0 x => ?_) ?_; clear_value x; on_goal 2 => subst x)
    | (extract_lets +onlyGivenNames _) | with_reducible apply KeepsO.next | with_reducible apply State.put_keeps
    | with_reducible apply State.modRx_keeps | with_reducible apply State.refreshHosts_keeps | split)

theorem execLolAssert_keeps (n) (range) {s : State} (h2 : Keeps ms s0 s) :
    KeepsO ms s0 (execLolAssert n range s) := by
  unfold execLolAssert
  repeat' (first
    | with_reducible assumption
    | (extract_lets +onlyGivenNames x; refine (fun hx : Keeps ms s0 x => ?_) ?_; clear_value x; on_goal 2 => subst x)
    | (extract_lets +onlyGivenNames _) | with_reducible apply KeepsO.next | with_reducible apply State.addSat_keeps
    | with_reducible apply State.put_keeps | with_reducible apply State.modRx_keeps
    | with_reducible apply State.refreshHosts_keeps | with_reducible apply State.capSource_keeps
    | with_reducible apply State.protLoss_keeps | with_reducible apply State.rxDown_keeps | split)

theorem State.visitEarly_keeps {s : State} (i) (h0 : Keeps ms s0 s) :
    Keeps ms s0 (State.visitEarly s i) := by
  unfold State.visitEarly
  repeat' (first | with_reducible assumption | with_reducible apply State.modWinch_keeps | split)

theorem execTimingRecoveryLock_keeps (n) (freq) {s : State} (h2 : Keeps ms s0 s) :
    KeepsO ms s0 (execTimingRecoveryLock n freq s) := by
  unfold execTimingRecoveryLock
  repeat' (first
    | with_reducible assumption
    | (extract_lets +onlyGivenNames x; refine (fun hx : Keeps ms s0 x => ?_) ?_; clear_value x; on_goal 2 => subst x)
    | (extract_lets +onlyGivenNames _) | with_reducible apply KeepsO.next | with_reducible apply State.put_keeps
    | with_reducible apply State.modRx_keeps | with_reducible apply State.visitEarly_keeps
    | with_reducible apply State.refreshHosts_keeps | split)

theorem execSlotLockWindowEnd_keeps (n) (even) (odd) (cwLock) {s : State} (h4 : Keeps ms s0 s) :
    KeepsO ms s0 (execSlotLockWindowEnd n even odd cwLock s) := by
  unfold execSlotLockWindowEnd
  repeat' (first
    | with_reducible assumption | (extract_lets +onlyGivenNames _) | with_reducible apply KeepsO.next
    | with_reducible apply State.slotLost_keeps | with_reducible apply State.put_keeps | split)

theorem execRxPllLock_keeps (n) {s : State} (h1 : Keeps ms s0 s) :
    KeepsO ms s0 (execRxPllLock n s) := by
  unfold execRxPllLock
  repeat' (first
    | with_reducible assumption | (extract_lets +onlyGivenNames _) | with_reducible apply KeepsO.next
    | with_reducible apply State.put_keeps | split)

theorem rxCalApply_keeps (n) (r) {s : State} (h2 : Keeps ms s0 s) :
    Keeps ms s0 (rxCalApply n r s) := by
  unfold rxCalApply
  repeat' (first
    | with_reducible assumption
    | (extract_lets +onlyGivenNames x; refine (fun hx : Keeps ms s0 x => ?_) ?_; clear_value x; on_goal 2 => subst x)
    | (extract_lets +onlyGivenNames _) | with_reducible apply State.modRx_keeps
    | with_reducible apply State.put_keeps | with_reducible apply State.addSat_keeps)

theorem rxCalBoundary_keeps (n) {s : State} (h1 : Keeps ms s0 s) :
    Keeps ms s0 (rxCalBoundary n s) := by
  unfold rxCalBoundary
  repeat' (first
    | with_reducible assumption | (with_reducible intro _)
    | (extract_lets +onlyGivenNames x; refine (fun hx : Keeps ms s0 x => ?_) ?_; clear_value x; on_goal 2 => subst x)
    | (extract_lets +onlyGivenNames _) | with_reducible apply keeps_foldl | with_reducible apply rxCalApply_keeps
    | with_reducible apply State.modRx_keeps)

theorem execRxCalResult_keeps (n) (kind) (v) {s : State} (h3 : Keeps ms s0 s) :
    KeepsO ms s0 (execRxCalResult n kind v s) := by
  unfold execRxCalResult
  repeat' (first
    | with_reducible assumption | (extract_lets +onlyGivenNames _) | with_reducible apply KeepsO.next
    | with_reducible apply State.modRx_keeps | with_reducible apply rxCalApply_keeps | split)

theorem rxCalFreeze_keeps (n) {s : State} (h1 : Keeps ms s0 s) :
    Keeps ms s0 (rxCalFreeze n s) := by
  unfold rxCalFreeze
  repeat' (first | with_reducible assumption | with_reducible apply State.modRx_keeps | split)

theorem rxCalCtrlWrite_keeps (n) (v) {s : State} (h2 : Keeps ms s0 s) :
    Keeps ms s0 (rxCalCtrlWrite n v s) := by
  unfold rxCalCtrlWrite
  repeat' (first
    | with_reducible assumption
    | (extract_lets +onlyGivenNames x; refine (fun hx : Keeps ms s0 x => ?_) ?_; clear_value x; on_goal 2 => subst x)
    | (extract_lets +onlyGivenNames _) | with_reducible apply rxCalFreeze_keeps
    | with_reducible apply State.writePlain_keeps | with_reducible apply State.modRx_keeps | split)

theorem checkerData_keeps (u) (line) (host) {s : State} (h3 : Keeps true s0 s) :
    Keeps true s0 (checkerData u line host s) := by
  unfold checkerData
  repeat' (first
    | with_reducible assumption | with_reducible apply rxData_keeps | with_reducible apply hostData_keeps | split)

theorem execCheckerSyncAcquired_keeps (d) {s : State} (h3 : Keeps true s0 s) :
    KeepsO true s0 (execCheckerSyncAcquired d s) := by
  unfold execCheckerSyncAcquired
  repeat' (first
    | with_reducible assumption | (extract_lets +onlyGivenNames _) | with_reducible apply KeepsO.next
    | with_reducible apply checkerData_keeps)

theorem execCheckerSyncLost_keeps (u) (line) (host) {s : State} (h3 : Keeps true s0 s) :
    KeepsO true s0 (execCheckerSyncLost u line host s) := by
  unfold execCheckerSyncLost
  repeat' (first
    | with_reducible assumption | (extract_lets +onlyGivenNames _) | with_reducible apply KeepsO.next
    | with_reducible apply checkerData_keeps)

theorem chkCtrlWrite_keeps (n) (v) {s : State} (h2 : Keeps ms s0 s) :
    Keeps ms s0 (chkCtrlWrite n v s) := by
  unfold chkCtrlWrite
  repeat' (first
    | with_reducible assumption
    | (extract_lets +onlyGivenNames x; refine (fun hx : Keeps ms s0 x => ?_) ?_; clear_value x; on_goal 2 => subst x)
    | (extract_lets +onlyGivenNames _) | with_reducible apply State.writePlain_keeps
    | with_reducible apply State.put_keeps | with_reducible apply State.setChk_keeps | split)

theorem capArm_keeps (n) {s : State} (h1 : Keeps ms s0 s) :
    Keeps ms s0 (capArm n s) := by
  unfold capArm
  repeat' (first
    | with_reducible assumption | (extract_lets +onlyGivenNames _) | with_reducible apply State.put_keeps
    | with_reducible apply State.modRx_keeps | split)

theorem capCtrlWrite_keeps (n) (v) {s : State} (h2 : Keeps ms s0 s) :
    Keeps ms s0 (capCtrlWrite n v s) := by
  unfold capCtrlWrite
  repeat' (first
    | with_reducible assumption
    | (extract_lets +onlyGivenNames x; refine (fun hx : Keeps ms s0 x => ?_) ?_; clear_value x; on_goal 2 => subst x)
    | with_reducible apply State.writePlain_keeps | with_reducible apply capStop_keeps
    | with_reducible apply capArm_keeps | split)

theorem execCaptureTrigger_keeps (n) (data) {s : State} (h2 : Keeps true s0 s) :
    KeepsO true s0 (execCaptureTrigger n data s) := by
  unfold execCaptureTrigger
  repeat' (first
    | with_reducible assumption
    | (extract_lets +onlyGivenNames x; refine (fun hx : Keeps true s0 x => ?_) ?_; clear_value x; on_goal 2 => subst x)
    | (extract_lets +onlyGivenNames _) | with_reducible apply KeepsO.next | with_reducible apply rxData_keeps
    | with_reducible apply State.put_keeps | split)

theorem execCaptureStop_keeps (n) (data) {s : State} (h2 : Keeps true s0 s) :
    KeepsO true s0 (execCaptureStop n data s) := by
  unfold execCaptureStop
  repeat' (first
    | with_reducible assumption | (extract_lets +onlyGivenNames _) | with_reducible apply KeepsO.next
    | with_reducible apply rxData_keeps)

theorem execCaptureAdc_keeps (m) {s : State} (h1 : Keeps ms s0 s) :
    KeepsO ms s0 (execCaptureAdc m s) := by
  unfold execCaptureAdc
  repeat' (first
    | with_reducible assumption | (with_reducible intro _)
    | (extract_lets +onlyGivenNames x; refine (fun hx : Keeps ms s0 x => ?_) ?_; clear_value x; on_goal 2 => subst x)
    | (extract_lets +onlyGivenNames _) | with_reducible apply KeepsO.next | with_reducible apply runCmd_keeps
    | with_reducible apply State.finish_keeps | with_reducible apply State.put_keeps
    | with_reducible apply State.await_keeps | with_reducible apply capArm_keeps | split)

theorem execCaptureAdcTimeout_keeps (n) {s : State} (h1 : Keeps ms s0 s) :
    KeepsO ms s0 (execCaptureAdcTimeout n s) := by
  unfold execCaptureAdcTimeout
  repeat' (first
    | with_reducible assumption | (extract_lets +onlyGivenNames _) | with_reducible apply KeepsO.next
    | with_reducible apply capStop_keeps | split)

theorem eqPolicyWinch_keeps (c) (i) {s : State} (h2 : Keeps ms s0 s) :
    Keeps ms s0 (eqPolicyWinch c i s) := by
  unfold eqPolicyWinch
  repeat' (first
    | with_reducible assumption | (extract_lets +onlyGivenNames _) | with_reducible apply State.put_keeps | split
    | dsimp +zetaDelta only)

theorem eqPolicyLine_keeps (c) (n) {s : State} (h2 : Keeps ms s0 s) :
    Keeps ms s0 (eqPolicyLine c n s) := by
  unfold eqPolicyLine
  repeat' (first
    | with_reducible assumption
    | (extract_lets +onlyGivenNames x; refine (fun hx : Keeps ms s0 x => ?_) ?_; clear_value x; on_goal 2 => subst x)
    | (extract_lets +onlyGivenNames _) | with_reducible apply State.put_keeps
    | with_reducible apply rxCalFreeze_keeps | with_reducible apply State.modRx_keeps | split)

theorem execRxSetEqPolicy_keeps (m) {s : State} (h1 : Keeps ms s0 s) :
    KeepsO ms s0 (execRxSetEqPolicy m s) := by
  unfold execRxSetEqPolicy
  repeat' (first
    | with_reducible assumption | (with_reducible intro _)
    | (extract_lets +onlyGivenNames x; refine (fun hx : Keeps ms s0 x => ?_) ?_; clear_value x; on_goal 2 => subst x)
    | (extract_lets +onlyGivenNames _) | with_reducible apply KeepsO.next | with_reducible apply runCmd_keeps
    | with_reducible apply State.finish_keeps | with_reducible apply eachOf_keeps
    | with_reducible apply eqPolicyLine_keeps | with_reducible apply eqPolicyWinch_keeps
    | with_reducible apply State.reseed_keeps | with_reducible apply State.await_keeps | split)

end Sys2Proof.Machine
end

