-- ==== Sys2Proof/Laws/KeepHost.lean ====
section
/-! SUPPORT. Sys2Proof/Laws/KeepHost.lean: each operation of Machine/Host.lean keeps what Keeps says. -/

namespace Sys2Proof.Machine

variable {ms : Bool} {s0 : State}

theorem execHostPllLock_keeps (q) {s : State} (h1 : Keeps ms s0 s) :
    KeepsO ms s0 (execHostPllLock q s) := by
  unfold execHostPllLock
  repeat' (first
    | with_reducible assumption | (extract_lets +onlyGivenNames _) | with_reducible apply KeepsO.next
    | with_reducible apply State.put_keeps | split)

theorem State.hostDown_keeps {s : State} (h) (h0 : Keeps ms s0 s) :
    Keeps ms s0 (State.hostDown s h) := by
  unfold State.hostDown
  repeat' (first
    | with_reducible assumption
    | (extract_lets +onlyGivenNames x; refine (fun hx : Keeps ms s0 x => ?_) ?_; clear_value x; on_goal 2 => subst x)
    | (extract_lets +onlyGivenNames _) | with_reducible apply State.modHst_keeps
    | with_reducible apply State.pllRefLost_keeps | with_reducible apply State.hostLost_keeps
    | with_reducible apply State.winchSpoil_keeps)

theorem State.ctleStart_keeps {s : State} (h) (h0 : Keeps ms s0 s) :
    Keeps ms s0 (State.ctleStart s h) := by
  unfold State.ctleStart
  repeat' (first
    | with_reducible assumption | (extract_lets +onlyGivenNames _) | with_reducible apply State.put_keeps
    | with_reducible apply State.modHst_keeps | split)

theorem execHostLosAssert_keeps (h) {s : State} (h1 : Keeps ms s0 s) :
    KeepsO ms s0 (execHostLosAssert h s) := by
  unfold execHostLosAssert
  repeat' (first
    | with_reducible assumption
    | (extract_lets +onlyGivenNames x; refine (fun hx : Keeps ms s0 x => ?_) ?_; clear_value x; on_goal 2 => subst x)
    | (extract_lets +onlyGivenNames _) | with_reducible apply KeepsO.next | with_reducible apply State.addSat_keeps
    | with_reducible apply State.put_keeps | with_reducible apply State.hostDown_keeps | split)

theorem execHostLosDeassert_keeps (h) {s : State} (h1 : Keeps ms s0 s) :
    KeepsO ms s0 (execHostLosDeassert h s) := by
  unfold execHostLosDeassert
  repeat' (first
    | with_reducible assumption
    | (extract_lets +onlyGivenNames x; refine (fun hx : Keeps ms s0 x => ?_) ?_; clear_value x; on_goal 2 => subst x)
    | (extract_lets +onlyGivenNames _) | with_reducible apply KeepsO.next | with_reducible apply State.put_keeps
    | with_reducible apply State.ctleStart_keeps | split)

theorem execHostLolAssert_keeps (h) {s : State} (h1 : Keeps ms s0 s) :
    KeepsO ms s0 (execHostLolAssert h s) := by
  unfold execHostLolAssert
  repeat' (first
    | with_reducible assumption
    | (extract_lets +onlyGivenNames x; refine (fun hx : Keeps ms s0 x => ?_) ?_; clear_value x; on_goal 2 => subst x)
    | (extract_lets +onlyGivenNames _) | with_reducible apply KeepsO.next | with_reducible apply State.addSat_keeps
    | with_reducible apply State.put_keeps | with_reducible apply State.hostDown_keeps | split)

theorem execHostLolDeassert_keeps (h) {s : State} (h1 : Keeps ms s0 s) :
    KeepsO ms s0 (execHostLolDeassert h s) := by
  unfold execHostLolDeassert
  repeat' (first
    | with_reducible assumption
    | (extract_lets +onlyGivenNames x; refine (fun hx : Keeps ms s0 x => ?_) ?_; clear_value x; on_goal 2 => subst x)
    | (extract_lets +onlyGivenNames _) | with_reducible apply KeepsO.next | with_reducible apply State.put_keeps
    | with_reducible apply State.ctleStart_keeps | with_reducible apply State.visitEarly_keeps
    | with_reducible apply State.modHst_keeps | split)

theorem execHostCdrLock_keeps (h) {s : State} (h1 : Keeps ms s0 s) :
    KeepsO ms s0 (execHostCdrLock h s) := by
  unfold execHostCdrLock
  repeat' (first
    | with_reducible assumption | (extract_lets +onlyGivenNames _) | with_reducible apply KeepsO.next
    | with_reducible apply State.visitEarly_keeps | with_reducible apply State.modHst_keeps | split)

theorem execCtleSearchStep_keeps (h) (eye) {s : State} (h2 : Keeps ms s0 s) :
    KeepsO ms s0 (execCtleSearchStep h eye s) := by
  unfold execCtleSearchStep
  repeat' (first
    | with_reducible assumption | (extract_lets +onlyGivenNames _) | with_reducible apply KeepsO.next
    | with_reducible apply State.put_keeps | with_reducible apply State.visitEarly_keeps
    | with_reducible apply State.modHst_keeps | split)

theorem execHostEqTimeout_keeps (h) {s : State} (h1 : Keeps ms s0 s) :
    KeepsO ms s0 (execHostEqTimeout h s) := by
  unfold execHostEqTimeout
  repeat' (first
    | with_reducible assumption | (extract_lets +onlyGivenNames _) | with_reducible apply KeepsO.next
    | with_reducible apply State.put_keeps | split)

theorem hostRxApply_keeps (h) {s : State} (h1 : Keeps ms s0 s) :
    Keeps ms s0 (hostRxApply h s) := by
  unfold hostRxApply
  repeat' (first
    | with_reducible assumption
    | (extract_lets +onlyGivenNames x; refine (fun hx : Keeps ms s0 x => ?_) ?_; clear_value x; on_goal 2 => subst x)
    | (extract_lets +onlyGivenNames _) | with_reducible apply State.put_keeps
    | with_reducible apply State.modHst_keeps | with_reducible apply State.eqDone_keeps
    | with_reducible apply State.hostEqDone_keeps | with_reducible apply State.eqCopyHost_keeps | split)

theorem execHostRxFrameBoundary_keeps (h) (before) (after) {s : State} (h2 : Keeps ms s0 s) :
    KeepsO ms s0 (execHostRxFrameBoundary h before after s) := by
  unfold execHostRxFrameBoundary
  repeat' (first
    | with_reducible assumption | (extract_lets +onlyGivenNames _) | with_reducible apply KeepsO.next
    | with_reducible apply hostRxApply_keeps | with_reducible apply State.perf_keeps
    | with_reducible apply hostData_keeps | split)

theorem hstRxCtrlWrite_keeps (h) (v) {s : State} (h2 : Keeps ms s0 s) :
    Keeps ms s0 (hstRxCtrlWrite h v s) := by
  unfold hstRxCtrlWrite
  repeat' (first
    | with_reducible assumption
    | (extract_lets +onlyGivenNames x; refine (fun hx : Keeps ms s0 x => ?_) ?_; clear_value x; on_goal 2 => subst x)
    | (extract_lets +onlyGivenNames _) | with_reducible apply State.put_keeps
    | with_reducible apply eqWriteHost_keeps)

theorem hstRefuse_keeps (h) {s : State} (h1 : Keeps ms s0 s) :
    Keeps ms s0 (hstRefuse h s) := by
  unfold hstRefuse
  repeat' (first
    | with_reducible assumption | (extract_lets +onlyGivenNames _) | with_reducible apply State.put_keeps)

theorem hstApply_keeps (h) {s : State} (h1 : Keeps ms s0 s) :
    Keeps ms s0 (hstApply h s) := by
  unfold hstApply
  repeat' (first
    | with_reducible assumption
    | (extract_lets +onlyGivenNames x; refine (fun hx : Keeps ms s0 x => ?_) ?_; clear_value x; on_goal 2 => subst x)
    | (extract_lets +onlyGivenNames _) | with_reducible apply State.put_keeps
    | with_reducible apply State.setWord_keeps | with_reducible apply hstRefuse_keeps | split)

theorem hstShadowBegin_keeps (h) {s : State} (h1 : Keeps ms s0 s) :
    Keeps ms s0 (hstShadowBegin h s) := by
  unfold hstShadowBegin
  repeat' (first
    | with_reducible assumption | (extract_lets +onlyGivenNames _) | with_reducible apply State.put_keeps
    | with_reducible apply State.setWord_keeps | with_reducible apply State.modHst_keeps | split)

theorem hstShadowWrite_keeps (h) (i) {s : State} (h2 : Keeps ms s0 s) :
    Keeps ms s0 (hstShadowWrite h i s) := by
  unfold hstShadowWrite
  repeat' (first | with_reducible assumption | with_reducible apply State.modHst_keeps)

theorem hstCodeApply_keeps (h) {s : State} (h1 : Keeps ms s0 s) :
    Keeps ms s0 (hstCodeApply h s) := by
  unfold hstCodeApply
  repeat' (first
    | with_reducible assumption | (extract_lets +onlyGivenNames _) | with_reducible apply hstApply_keeps
    | with_reducible apply hstShadowBegin_keeps | split)

theorem hstTxCtrlWrite_keeps (h) (v) {s : State} (h2 : Keeps ms s0 s) :
    Keeps ms s0 (hstTxCtrlWrite h v s) := by
  unfold hstTxCtrlWrite
  repeat' (first
    | with_reducible assumption
    | (extract_lets +onlyGivenNames x; refine (fun hx : Keeps ms s0 x => ?_) ?_; clear_value x; on_goal 2 => subst x)
    | (extract_lets +onlyGivenNames _) | with_reducible apply State.writePlain_keeps
    | with_reducible apply hstShadowBegin_keeps | with_reducible apply hstShadowWrite_keeps
    | with_reducible apply hstApply_keeps | with_reducible apply State.refreshHost_keeps | split)

theorem hostSrcAct_keeps (h) {s : State} (h1 : Keeps ms s0 s) :
    Keeps ms s0 (hostSrcAct h s) := by
  unfold hostSrcAct
  repeat' (first | with_reducible assumption | with_reducible apply State.put_keeps)

theorem hstCopy_keeps (h) {s : State} (h1 : Keeps ms s0 s) :
    Keeps ms s0 (hstCopy h s) := by
  unfold hstCopy
  repeat' (first
    | with_reducible assumption | (extract_lets +onlyGivenNames _) | with_reducible apply hstRefuse_keeps
    | with_reducible apply State.put_keeps | with_reducible apply State.modHst_keeps | split)

theorem hstPattern_keeps (h) {s : State} (h1 : Keeps ms s0 s) :
    Keeps ms s0 (hstPattern h s) := by
  unfold hstPattern
  repeat' (first
    | with_reducible assumption | (extract_lets +onlyGivenNames _) | with_reducible apply State.modHst_keeps | split)

theorem hostTxApply_keeps (h) {s : State} (h1 : Keeps ms s0 s) :
    Keeps ms s0 (hostTxApply h s) := by
  unfold hostTxApply
  repeat' (first
    | with_reducible assumption | (extract_lets +onlyGivenNames _) | with_reducible apply State.hostEqDone_keeps
    | with_reducible apply hostSrcAct_keeps | with_reducible apply hstPattern_keeps
    | with_reducible apply hstCopy_keeps)

theorem hstMux_keeps (h) (g) {s : State} (h2 : Keeps ms s0 s) :
    Keeps ms s0 (hstMux h g s).2 := by
  unfold hstMux
  repeat' (first
    | with_reducible assumption | (extract_lets +onlyGivenNames _) | with_reducible apply State.modHst_keeps | split)

theorem hstSymbol_keeps (h) (g) {s : State} (h2 : Keeps ms s0 s) :
    Keeps ms s0 (hstSymbol h g s) := by
  unfold hstSymbol
  repeat' (first
    | with_reducible assumption | (extract_lets +onlyGivenNames _) | with_reducible apply hstMux_keeps
    | with_reducible apply State.modHst_keeps)

theorem hostSend_keeps (h) (levels) {s : State} (h2 : Keeps ms s0 s) :
    Keeps ms s0 (hostSend h levels s) := by
  unfold hostSend
  repeat' (first
    | with_reducible assumption | (with_reducible intro _)
    | (extract_lets +onlyGivenNames x; refine (fun hx : Keeps ms s0 x => ?_) ?_; clear_value x; on_goal 2 => subst x)
    | (extract_lets +onlyGivenNames _) | with_reducible apply keeps_foldl | with_reducible apply State.modHst_keeps
    | with_reducible apply hstSymbol_keeps | split)

theorem execHostTxFrameBoundary_keeps (d) {s : State} (h2 : Keeps ms s0 s) :
    KeepsO ms s0 (execHostTxFrameBoundary d s) := by
  unfold execHostTxFrameBoundary
  repeat' (first
    | with_reducible assumption | (extract_lets +onlyGivenNames _) | with_reducible apply KeepsO.next
    | with_reducible apply State.releaseHost_keeps | with_reducible apply hostTxApply_keeps
    | with_reducible apply State.perf_keeps | with_reducible apply hostSend_keeps | split)

theorem hstTestCtrlWrite_keeps (h) (v) {s : State} (h2 : Keeps ms s0 s) :
    Keeps ms s0 (hstTestCtrlWrite h v s) := by
  unfold hstTestCtrlWrite
  repeat' (first
    | with_reducible assumption
    | (extract_lets +onlyGivenNames x; refine (fun hx : Keeps ms s0 x => ?_) ?_; clear_value x; on_goal 2 => subst x)
    | (extract_lets +onlyGivenNames _) | with_reducible apply State.writePlain_keeps
    | with_reducible apply State.put_keeps | with_reducible apply hostSrcAct_keeps | split)

theorem hstChkCtrlWrite_keeps (h) (v) {s : State} (h2 : Keeps ms s0 s) :
    Keeps ms s0 (hstChkCtrlWrite h v s) := by
  unfold hstChkCtrlWrite
  repeat' (first
    | with_reducible assumption
    | (extract_lets +onlyGivenNames x; refine (fun hx : Keeps ms s0 x => ?_) ?_; clear_value x; on_goal 2 => subst x)
    | (extract_lets +onlyGivenNames _) | with_reducible apply State.writePlain_keeps
    | with_reducible apply State.put_keeps | with_reducible apply State.setChk_keeps | split)

theorem rsmShow_keeps (h) (c) (v) {s : State} (h3 : Keeps ms s0 s) :
    Keeps ms s0 (rsmShow h c v s) := by
  unfold rsmShow
  repeat' (first
    | with_reducible assumption | (extract_lets +onlyGivenNames _) | with_reducible apply State.put_keeps)

theorem rsmRoles_keeps {s : State} (h0 : Keeps ms s0 s) :
    Keeps ms s0 (rsmRoles s) := by
  unfold rsmRoles
  repeat' (first
    | with_reducible assumption | (with_reducible intro _)
    | (extract_lets +onlyGivenNames x; refine (fun hx : Keeps ms s0 x => ?_) ?_; clear_value x; on_goal 2 => subst x)
    | (extract_lets +onlyGivenNames _) | with_reducible apply eachBelow_keeps | with_reducible apply State.put_keeps
    | with_reducible apply rsmShow_keeps | split)

theorem rsmSnap_keeps (h) {s : State} (h1 : Keeps ms s0 s) :
    Keeps ms s0 (rsmSnap h s) := by
  unfold rsmSnap
  repeat' (first
    | with_reducible assumption | (with_reducible intro _)
    | (extract_lets +onlyGivenNames x; refine (fun hx : Keeps ms s0 x => ?_) ?_; clear_value x; on_goal 2 => subst x)
    | (extract_lets +onlyGivenNames _) | with_reducible apply keeps_foldl | with_reducible apply State.incWrap_keeps
    | with_reducible apply eachOf_keeps | with_reducible apply rsmShow_keeps | split)

theorem hstRsmCtrlWrite_keeps (h) (v) {s : State} (h2 : Keeps ms s0 s) :
    Keeps ms s0 (hstRsmCtrlWrite h v s) := by
  unfold hstRsmCtrlWrite
  repeat' (first
    | with_reducible assumption
    | (extract_lets +onlyGivenNames x; refine (fun hx : Keeps ms s0 x => ?_) ?_; clear_value x; on_goal 2 => subst x)
    | (extract_lets +onlyGivenNames _) | with_reducible apply State.put_keeps | with_reducible apply rsmRoles_keeps
    | with_reducible apply State.writePlain_keeps | with_reducible apply rsmSnap_keeps | split)

theorem rsmCount_keeps (h) (c) (k) {s : State} (h3 : Keeps ms s0 s) :
    Keeps ms s0 (rsmCount h c k s) := by
  unfold rsmCount
  repeat' (first | with_reducible assumption | with_reducible apply State.modHst_keeps)

theorem rsmCounted_keeps (h) (bad) (corr) {s : State} (h3 : Keeps ms s0 s) :
    Keeps ms s0 (rsmCounted h bad corr s) := by
  unfold rsmCounted
  repeat' (first
    | with_reducible assumption | (with_reducible intro _)
    | (extract_lets +onlyGivenNames x; refine (fun hx : Keeps ms s0 x => ?_) ?_; clear_value x; on_goal 2 => subst x)
    | (extract_lets +onlyGivenNames _) | with_reducible apply keeps_foldl | with_reducible apply rsmCount_keeps
    | split)

theorem execRsmCodeword_keeps (h) (skew) (corr) (unc) {s : State} (h4 : Keeps ms s0 s) :
    KeepsO ms s0 (execRsmCodeword h skew corr unc s) := by
  unfold execRsmCodeword
  repeat' (first
    | with_reducible assumption | (extract_lets +onlyGivenNames _) | with_reducible apply KeepsO.next
    | with_reducible apply State.put_keeps | with_reducible apply fathomOffer_keeps
    | with_reducible apply rsmCounted_keeps | split)

theorem hostEqLane_keeps (c) (tx) (h) {s : State} (h3 : Keeps ms s0 s) :
    Keeps ms s0 (hostEqLane c tx h s) := by
  unfold hostEqLane
  repeat' (first
    | with_reducible assumption
    | (extract_lets +onlyGivenNames x; refine (fun hx : Keeps ms s0 x => ?_) ?_; clear_value x; on_goal 2 => subst x)
    | (extract_lets +onlyGivenNames _) | with_reducible apply hstShadowBegin_keeps
    | with_reducible apply State.put_keeps | with_reducible apply State.writePlain_keeps
    | with_reducible apply hstApply_keeps | split)

theorem execHostSetEq_keeps (m) {s : State} (h1 : Keeps ms s0 s) :
    KeepsO ms s0 (execHostSetEq m s) := by
  unfold execHostSetEq
  repeat' (first
    | with_reducible assumption | (with_reducible intro _)
    | (extract_lets +onlyGivenNames x; refine (fun hx : Keeps ms s0 x => ?_) ?_; clear_value x; on_goal 2 => subst x)
    | (extract_lets +onlyGivenNames _) | with_reducible apply KeepsO.next | with_reducible apply runCmd_keeps
    | with_reducible apply State.finish_keeps | with_reducible apply eachOf_keeps
    | with_reducible apply hostEqLane_keeps | with_reducible apply State.await_keeps | split)

theorem State.rxOff_keeps {s : State} (n) (h0 : Keeps ms s0 s) :
    Keeps ms s0 (State.rxOff s n) := by
  unfold State.rxOff
  repeat' (first
    | with_reducible assumption
    | (extract_lets +onlyGivenNames x; refine (fun hx : Keeps ms s0 x => ?_) ?_; clear_value x; on_goal 2 => subst x)
    | (extract_lets +onlyGivenNames _) | with_reducible apply State.dropStep_keeps
    | with_reducible apply State.put_keeps | with_reducible apply State.modRx_keeps
    | with_reducible apply State.phyLost_keeps | with_reducible apply State.rxDown_keeps
    | with_reducible apply State.refreshHosts_keeps | split)

theorem State.hostOff_keeps {s : State} (h) (h0 : Keeps ms s0 s) :
    Keeps ms s0 (State.hostOff s h) := by
  unfold State.hostOff
  repeat' (first
    | with_reducible assumption
    | (extract_lets +onlyGivenNames x; refine (fun hx : Keeps ms s0 x => ?_) ?_; clear_value x; on_goal 2 => subst x)
    | (extract_lets +onlyGivenNames _) | with_reducible apply State.put_keeps
    | with_reducible apply State.modHst_keeps | with_reducible apply State.hostDown_keeps)

theorem State.demand_keeps {s : State} (h0 : Keeps ms s0 s) :
    Keeps ms s0 (State.demand s) := by
  unfold State.demand
  repeat' (first
    | with_reducible assumption | (with_reducible intro _)
    | (extract_lets +onlyGivenNames x; refine (fun hx : Keeps ms s0 x => ?_) ?_; clear_value x; on_goal 2 => subst x)
    | (extract_lets +onlyGivenNames _) | with_reducible apply eachBelow_keeps
    | with_reducible apply State.wantStep_keeps | with_reducible apply State.chainRestart_keeps
    | with_reducible apply State.rxOff_keeps | with_reducible apply State.dropStep_keeps
    | with_reducible apply State.hostOff_keeps | with_reducible apply State.put_keeps | split)

end Sys2Proof.Machine
end

