-- ==== Sys2Proof/Laws/KeepOptical.lean ====
section
/-! SUPPORT. Sys2Proof/Laws/KeepOptical.lean: each operation of Machine/Optical.lean keeps what Keeps says. -/

namespace Sys2Proof.Machine

variable {ms : Bool} {s0 : State}

theorem State.modOlc_keeps {s : State} (n) (f) (h0 : Keeps ms s0 s) :
    Keeps ms s0 (State.modOlc s n f) := by
  unfold State.modOlc
  repeat' (first
    | (extract_lets +onlyGivenNames _) | with_reducible exact Nat.le_max_right _ _
    | with_reducible exact Mbx.Within.refl _ | (with_reducible apply Keeps.lit; with_reducible assumption)
    | dsimp +zetaDelta only)

theorem State.modChan_keeps {s : State} (c) (f) (h0 : Keeps ms s0 s) :
    Keeps ms s0 (State.modChan s c f) := by
  unfold State.modChan
  repeat' (first
    | (extract_lets +onlyGivenNames _) | with_reducible exact Nat.le_max_right _ _
    | with_reducible exact Mbx.Within.refl _ | (with_reducible apply Keeps.lit; with_reducible assumption)
    | dsimp +zetaDelta only)

theorem State.endRequests_keeps {s : State} (n) (st) (h0 : Keeps ms s0 s) :
    Keeps ms s0 (State.endRequests s n st) := by
  unfold State.endRequests
  repeat' (first
    | with_reducible assumption
    | (extract_lets +onlyGivenNames x; refine (fun hx : Keeps ms s0 x => ?_) ?_; clear_value x; on_goal 2 => subst x)
    | with_reducible apply State.put_keeps | with_reducible apply State.finishWhere_keeps | split)

theorem State.arrive_keeps {s : State} (n) (h0 : Keeps ms s0 s) :
    Keeps ms s0 (State.arrive s n) := by
  unfold State.arrive
  repeat' (first
    | with_reducible assumption | (with_reducible intro _)
    | (extract_lets +onlyGivenNames x; refine (fun hx : Keeps ms s0 x => ?_) ?_; clear_value x; on_goal 2 => subst x)
    | (extract_lets +onlyGivenNames _) | with_reducible apply keeps_foldl | with_reducible apply State.put_keeps
    | with_reducible apply State.mapWaits_keeps | with_reducible apply State.finishWhere_keeps
    | with_reducible apply State.finish_keeps | with_reducible apply State.modProt_keeps
    | with_reducible apply State.demand_keeps | split)

theorem State.probeExit_keeps {s : State} (n) (h0 : Keeps ms s0 s) :
    Keeps ms s0 (State.probeExit s n) := by
  unfold State.probeExit
  repeat' (first
    | with_reducible assumption
    | (extract_lets +onlyGivenNames x; refine (fun hx : Keeps ms s0 x => ?_) ?_; clear_value x; on_goal 2 => subst x)
    | (extract_lets +onlyGivenNames _) | with_reducible apply State.modOlc_keeps
    | with_reducible apply State.put_keeps | with_reducible apply patStart_keeps
    | with_reducible apply State.refreshHosts_keeps | with_reducible apply State.phyLost_keeps
    | with_reducible apply State.rxDown_keeps | with_reducible apply pllSquelch_keeps
    | with_reducible apply State.modPll_keeps | with_reducible apply State.setLane_keeps | split)

theorem State.laneAdvance_keeps {s : State} (fuel) (n) (h0 : Keeps ms s0 s) :
    Keeps ms s0 (State.laneAdvance s fuel n) := by
  induction fuel generalizing s with
  | zero => unfold State.laneAdvance; exact h0
  | succ fuel ih =>
    unfold State.laneAdvance
    repeat' (first
      | with_reducible assumption | (extract_lets +onlyGivenNames _) | with_reducible apply ih
      | with_reducible apply State.setLane_keeps | with_reducible apply State.arrive_keeps
      | with_reducible apply State.wantStep_keeps | with_reducible apply State.probeExit_keeps
      | with_reducible apply pllStart_keeps | split | (clear_value *; split))

theorem State.rampUnwant_keeps {s : State} (n) (h0 : Keeps ms s0 s) :
    Keeps ms s0 (State.rampUnwant s n) := by
  unfold State.rampUnwant
  repeat' (first
    | with_reducible assumption | (extract_lets +onlyGivenNames _) | with_reducible apply State.put_keeps
    | with_reducible apply State.modGrant_keeps | split)

theorem requestRefused_keeps (lanes) (st) {s : State} (h2 : Keeps ms s0 s) :
    Keeps ms s0 (requestRefused lanes st s) := by
  unfold requestRefused
  repeat' (first
    | with_reducible assumption | (with_reducible intro _) | (extract_lets +onlyGivenNames _)
    | with_reducible apply eachOf_keeps | with_reducible apply State.put_keeps)

theorem State.laneRequest_keeps {s : State} (n) (tg) (h0 : Keeps ms s0 s) :
    Keeps ms s0 (State.laneRequest s n tg) := by
  unfold State.laneRequest
  repeat' (first
    | with_reducible assumption
    | (extract_lets +onlyGivenNames x; refine (fun hx : Keeps ms s0 x => ?_) ?_; clear_value x; on_goal 2 => subst x)
    | (extract_lets +onlyGivenNames _) | with_reducible apply State.endRequests_keeps
    | with_reducible apply State.rampUnwant_keeps | with_reducible apply State.put_keeps
    | with_reducible apply State.modOlc_keeps)

theorem laneStatesSet_keeps (c) (lanes) (tg) {s : State} (h3 : Keeps ms s0 s) :
    Keeps ms s0 (laneStatesSet c lanes tg s) := by
  unfold laneStatesSet
  repeat' (first
    | with_reducible assumption | (with_reducible intro _)
    | (extract_lets +onlyGivenNames x; refine (fun hx : Keeps ms s0 x => ?_) ?_; clear_value x; on_goal 2 => subst x)
    | (extract_lets +onlyGivenNames _) | with_reducible apply eachOf_keeps
    | with_reducible apply State.laneRequest_keeps | with_reducible apply State.await_keeps
    | with_reducible apply State.laneAdvance_keeps | with_reducible apply State.postCpl_keeps | split)

theorem execLaneSetState_keeps (m) {s : State} (h1 : Keeps ms s0 s) :
    KeepsO ms s0 (execLaneSetState m s) := by
  unfold execLaneSetState
  repeat' (first
    | with_reducible assumption | (with_reducible intro _) | (extract_lets +onlyGivenNames _)
    | with_reducible apply KeepsO.next | with_reducible apply runCmd_keeps | with_reducible apply State.finish_keeps
    | with_reducible apply requestRefused_keeps | with_reducible apply laneStatesSet_keeps | split)

theorem olcReqWrite_keeps (n) (v) {s : State} (h2 : Keeps ms s0 s) :
    Keeps ms s0 (olcReqWrite n v s) := by
  unfold olcReqWrite
  repeat' (first
    | with_reducible assumption
    | (extract_lets +onlyGivenNames x; refine (fun hx : Keeps ms s0 x => ?_) ?_; clear_value x; on_goal 2 => subst x)
    | (extract_lets +onlyGivenNames _) | with_reducible apply State.put_keeps
    | with_reducible apply State.laneAdvance_keeps | with_reducible apply State.laneRequest_keeps | split)

theorem deferredLimit_keeps (n) {s : State} (h1 : Keeps ms s0 s) :
    Keeps ms s0 (deferredLimit n s) := by
  unfold deferredLimit
  repeat' (first
    | with_reducible assumption | (with_reducible intro _)
    | (extract_lets +onlyGivenNames x; refine (fun hx : Keeps ms s0 x => ?_) ?_; clear_value x; on_goal 2 => subst x)
    | (extract_lets +onlyGivenNames _) | with_reducible apply keeps_foldl | with_reducible apply State.put_keeps
    | with_reducible apply State.setLane_keeps | with_reducible apply State.mapWaits_keeps
    | with_reducible apply State.finish_keeps | with_reducible apply State.finishWhere_keeps | split)

theorem tokenLimit_keeps (n) {s : State} (h1 : Keeps ms s0 s) :
    Keeps ms s0 (tokenLimit n s) := by
  unfold tokenLimit
  repeat' (first
    | with_reducible assumption
    | (extract_lets +onlyGivenNames x; refine (fun hx : Keeps ms s0 x => ?_) ?_; clear_value x; on_goal 2 => subst x)
    | (extract_lets +onlyGivenNames _) | with_reducible apply State.rampUnwant_keeps
    | with_reducible apply State.endRequests_keeps | with_reducible apply State.modOlc_keeps
    | with_reducible apply State.put_keeps | split)

theorem pllAdvance_keeps (p) {s : State} (h1 : Keeps ms s0 s) :
    Keeps ms s0 (pllAdvance p s) := by
  unfold pllAdvance
  repeat' (first
    | with_reducible assumption | (with_reducible intro _) | (extract_lets +onlyGivenNames _)
    | with_reducible apply eachOf_keeps | with_reducible apply State.laneAdvance_keeps | split)

theorem execTxPllLocked_keeps (p) {s : State} (h1 : Keeps ms s0 s) :
    KeepsO ms s0 (execTxPllLocked p s) := by
  unfold execTxPllLocked
  repeat' (first
    | with_reducible assumption | (extract_lets +onlyGivenNames _) | with_reducible apply KeepsO.next
    | with_reducible apply pllAdvance_keeps | with_reducible apply State.modPll_keeps | split)

theorem execTxPllReady_keeps (p) {s : State} (h1 : Keeps ms s0 s) :
    KeepsO ms s0 (execTxPllReady p s) := by
  unfold execTxPllReady
  repeat' (first
    | with_reducible assumption | (extract_lets +onlyGivenNames _) | with_reducible apply KeepsO.next
    | with_reducible apply pllAdvance_keeps | with_reducible apply State.modPll_keeps | split)

theorem State.probeStart_keeps {s : State} (n) (kind) (src) (ret) (dur) (h0 : Keeps ms s0 s) :
    Keeps ms s0 (State.probeStart s n kind src ret dur).2 := by
  unfold State.probeStart
  repeat' (first
    | with_reducible assumption
    | (extract_lets +onlyGivenNames x; refine (fun hx : Keeps ms s0 x => ?_) ?_; clear_value x; on_goal 2 => subst x)
    | (extract_lets +onlyGivenNames _) | with_reducible apply State.laneRequest_keeps
    | with_reducible apply State.probeExit_keeps | with_reducible apply State.modOlc_keeps | split)

theorem execLaneProbe_keeps (m) {s : State} (h1 : Keeps ms s0 s) :
    KeepsO ms s0 (execLaneProbe m s) := by
  unfold execLaneProbe
  repeat' (first
    | with_reducible assumption | (with_reducible intro _) | (extract_lets +onlyGivenNames _)
    | with_reducible apply KeepsO.next | with_reducible apply runCmd_keeps | with_reducible apply State.finish_keeps
    | with_reducible apply State.probeStart_keeps | with_reducible apply requestRefused_keeps
    | with_reducible apply State.laneAdvance_keeps | with_reducible apply State.await_keeps | split
    | (with_reducible refine Keeps.ofSnd ‹_› ?_))

theorem olcProbeWrite_keeps (n) (v) {s : State} (h2 : Keeps ms s0 s) :
    Keeps ms s0 (olcProbeWrite n v s) := by
  unfold olcProbeWrite
  repeat' (first
    | with_reducible assumption
    | (extract_lets +onlyGivenNames x; refine (fun hx : Keeps ms s0 x => ?_) ?_; clear_value x; on_goal 2 => subst x)
    | (extract_lets +onlyGivenNames _) | with_reducible apply State.writePlain_keeps
    | with_reducible apply State.probeStart_keeps | with_reducible apply State.put_keeps
    | with_reducible apply State.laneAdvance_keeps | split | (with_reducible refine Keeps.ofSnd ‹_› ?_))

theorem probeBegin_keeps (n) (p) {s : State} (h2 : Keeps ms s0 s) :
    Keeps ms s0 (probeBegin n p s) := by
  unfold probeBegin
  repeat' (first
    | with_reducible assumption | (extract_lets +onlyGivenNames _) | with_reducible apply State.put_keeps
    | with_reducible apply patStart_keeps | with_reducible apply State.refreshHosts_keeps
    | with_reducible apply State.phyLost_keeps | with_reducible apply State.rxDown_keeps
    | with_reducible apply State.modPll_keeps | split)

theorem State.probeEnter_keeps {s : State} (n) (h0 : Keeps ms s0 s) :
    Keeps ms s0 (State.probeEnter s n) := by
  unfold State.probeEnter
  repeat' (first
    | with_reducible assumption
    | (extract_lets +onlyGivenNames x; refine (fun hx : Keeps ms s0 x => ?_) ?_; clear_value x; on_goal 2 => subst x)
    | (extract_lets +onlyGivenNames _) | with_reducible apply probeBegin_keeps | with_reducible apply State.put_keeps
    | with_reducible apply State.setLane_keeps | with_reducible apply State.finishWhere_keeps | split)

theorem execProbeDurationEnd_keeps (n) {s : State} (h1 : Keeps ms s0 s) :
    KeepsO ms s0 (execProbeDurationEnd n s) := by
  unfold execProbeDurationEnd
  repeat' (first
    | with_reducible assumption
    | (extract_lets +onlyGivenNames x; refine (fun hx : Keeps ms s0 x => ?_) ?_; clear_value x; on_goal 2 => subst x)
    | (extract_lets +onlyGivenNames _) | with_reducible apply KeepsO.next | with_reducible apply State.put_keeps
    | with_reducible apply State.probeExit_keeps | with_reducible apply State.laneAdvance_keeps | split)

theorem olcBoundary_keeps (n) {s : State} (h1 : Keeps ms s0 s) :
    Keeps ms s0 (olcBoundary n s) := by
  unfold olcBoundary
  repeat' (first
    | with_reducible assumption | (extract_lets +onlyGivenNames _) | with_reducible apply State.arrive_keeps
    | with_reducible apply State.setLane_keeps | with_reducible apply State.probeEnter_keeps | split)

theorem State.vdrvDemand_keeps {s : State} (h0 : Keeps ms s0 s) :
    Keeps ms s0 (State.vdrvDemand s) := by
  unfold State.vdrvDemand
  repeat' (first
    | with_reducible assumption | (extract_lets +onlyGivenNames _) | with_reducible apply State.wantStep_keeps
    | with_reducible apply State.dropStep_keeps | split)

theorem State.vlasDrop_keeps {s : State} (h0 : Keeps ms s0 s) :
    Keeps ms s0 (State.vlasDrop s) := by
  unfold State.vlasDrop
  repeat' (first
    | with_reducible assumption | (extract_lets +onlyGivenNames _) | with_reducible apply State.dropStep_keeps
    | split)

theorem chanLoad_keeps (n) (k) (code) {s : State} (h3 : Keeps ms s0 s) :
    Keeps ms s0 (chanLoad n k code s) := by
  unfold chanLoad
  repeat' (first
    | with_reducible assumption
    | (extract_lets +onlyGivenNames x; refine (fun hx : Keeps ms s0 x => ?_) ?_; clear_value x; on_goal 2 => subst x)
    | with_reducible apply State.modChan_keeps | with_reducible apply State.put_keeps
    | with_reducible apply State.vdrvDemand_keeps | split)

theorem rangeStore_keeps (n) (range) {s : State} (h2 : Keeps ms s0 s) :
    Keeps ms s0 (rangeStore n range s) := by
  unfold rangeStore
  repeat' (first | with_reducible assumption | with_reducible apply State.modChan_keeps)

theorem olcCodeWrite_keeps (n) (k) (v) {s : State} (h3 : Keeps ms s0 s) :
    Keeps ms s0 (olcCodeWrite n k v s) := by
  unfold olcCodeWrite
  repeat' (first
    | with_reducible assumption
    | (extract_lets +onlyGivenNames x; refine (fun hx : Keeps ms s0 x => ?_) ?_; clear_value x; on_goal 2 => subst x)
    | (extract_lets +onlyGivenNames _) | with_reducible apply State.setWord_keeps
    | with_reducible apply rangeStore_keeps | with_reducible apply State.wantStep_keeps
    | with_reducible apply State.lydLose_keeps | with_reducible apply State.put_keeps
    | with_reducible apply State.modChan_keeps | with_reducible apply chanLoad_keeps | split)

theorem olcStrobe_keeps (mask) {s : State} (h1 : Keeps ms s0 s) :
    Keeps ms s0 (olcStrobe mask s) := by
  unfold olcStrobe
  repeat' (first
    | with_reducible assumption | (with_reducible intro _) | (extract_lets +onlyGivenNames _)
    | with_reducible apply eachBelow_keeps | with_reducible apply State.put_keeps
    | with_reducible apply chanLoad_keeps | split)

theorem olcWavWrite_keeps (c) (v) {s : State} (h2 : Keeps ms s0 s) :
    Keeps ms s0 (olcWavWrite c v s) := by
  unfold olcWavWrite
  repeat' (first
    | with_reducible assumption
    | (extract_lets +onlyGivenNames x; refine (fun hx : Keeps ms s0 x => ?_) ?_; clear_value x; on_goal 2 => subst x)
    | (extract_lets +onlyGivenNames _) | with_reducible apply State.writePlain_keeps
    | with_reducible apply State.put_keeps | with_reducible apply State.modChan_keeps
    | with_reducible apply State.vdrvDemand_keeps | split)

theorem wavTick_keeps (c) {s : State} (h1 : Keeps ms s0 s) :
    Keeps ms s0 (wavTick c s).2 := by
  unfold wavTick
  repeat' (first
    | with_reducible assumption | (extract_lets +onlyGivenNames _) | with_reducible apply State.putB_keeps
    | with_reducible apply State.modChan_keeps | split)

theorem rampDone_keeps (n) {s : State} (h1 : Keeps ms s0 s) :
    Keeps ms s0 (rampDone n s) := by
  unfold rampDone
  repeat' (first
    | with_reducible assumption
    | (extract_lets +onlyGivenNames x; refine (fun hx : Keeps ms s0 x => ?_) ?_; clear_value x; on_goal 2 => subst x)
    | (extract_lets +onlyGivenNames _) | with_reducible apply State.modChan_keeps
    | with_reducible apply chanLoad_keeps | with_reducible apply State.put_keeps
    | with_reducible apply State.setLane_keeps | with_reducible apply State.laneAdvance_keeps
    | with_reducible apply State.stepEnd_keeps | split)

theorem turnOnStart_keeps (c) {s : State} (h1 : Keeps ms s0 s) :
    Keeps ms s0 (turnOnStart c s) := by
  unfold turnOnStart
  repeat' (first
    | with_reducible assumption | (extract_lets +onlyGivenNames _) | with_reducible apply State.put_keeps
    | with_reducible apply State.modChan_keeps | split)

theorem slewMove_keeps (c) {s : State} (h1 : Keeps ms s0 s) :
    Keeps ms s0 (slewMove c s) := by
  unfold slewMove
  repeat' (first
    | with_reducible assumption
    | (extract_lets +onlyGivenNames x; refine (fun hx : Keeps ms s0 x => ?_) ?_; clear_value x; on_goal 2 => subst x)
    | (extract_lets +onlyGivenNames _) | with_reducible apply State.modChan_keeps
    | with_reducible apply wavTick_keeps | with_reducible apply State.put_keeps | split)

theorem rangeZero_keeps (n) {s : State} (h1 : Keeps ms s0 s) :
    Keeps ms s0 (rangeZero n s) := by
  unfold rangeZero
  repeat' (first | with_reducible assumption | with_reducible apply State.modChan_keeps)

theorem slewEnd_keeps (c) (played) {s : State} (h2 : Keeps ms s0 s) :
    Keeps ms s0 (slewEnd c played s) := by
  unfold slewEnd
  repeat' (first
    | with_reducible assumption | (extract_lets +onlyGivenNames _) | with_reducible apply State.vlasDrop_keeps
    | with_reducible apply rangeZero_keeps | with_reducible apply rampDone_keeps | split)

theorem execSlewTick_keeps (c) {s : State} (h1 : Keeps ms s0 s) :
    KeepsO ms s0 (execSlewTick c s) := by
  unfold execSlewTick
  repeat' (first
    | with_reducible assumption
    | (extract_lets +onlyGivenNames x; refine (fun hx : Keeps ms s0 x => ?_) ?_; clear_value x; on_goal 2 => subst x)
    | (extract_lets +onlyGivenNames _) | with_reducible apply KeepsO.next | with_reducible apply turnOnStart_keeps
    | with_reducible apply slewEnd_keeps | with_reducible apply slewMove_keeps)

theorem execHeaterPwmPeriod_keeps (n) (j) {s : State} (h2 : Keeps ms s0 s) :
    KeepsO ms s0 (execHeaterPwmPeriod n j s) := by
  unfold execHeaterPwmPeriod
  repeat' (first
    | with_reducible assumption | (extract_lets +onlyGivenNames _) | with_reducible apply KeepsO.next
    | with_reducible apply State.modChan_keeps)

theorem execTokenAcquired_keeps {s : State} (h0 : Keeps ms s0 s) :
    KeepsO ms s0 (execTokenAcquired s) := by
  unfold execTokenAcquired
  repeat' (first
    | with_reducible assumption | (extract_lets +onlyGivenNames _) | with_reducible apply KeepsO.next
    | with_reducible apply State.takeStep_keeps)

theorem execTokenSegmentEnd_keeps (n) {s : State} (h1 : Keeps ms s0 s) :
    KeepsO ms s0 (execTokenSegmentEnd n s) := by
  unfold execTokenSegmentEnd
  repeat' (first
    | with_reducible assumption | (extract_lets +onlyGivenNames _) | with_reducible apply KeepsO.next
    | with_reducible apply State.wantStep_keeps | with_reducible apply State.stepEnd_keeps | split)

theorem lockinCorrelate_keeps (n) (m) {s : State} (h2 : Keeps ms s0 s) :
    Keeps ms s0 (lockinCorrelate n m s) := by
  unfold lockinCorrelate
  repeat' (first
    | with_reducible assumption | (extract_lets +onlyGivenNames _) | with_reducible apply State.freeRound_keeps
    | with_reducible apply State.put_keeps | with_reducible apply State.modOlc_keeps)

theorem lockinClose_keeps (n) {s : State} (h1 : Keeps ms s0 s) :
    Keeps ms s0 (lockinClose n s) := by
  unfold lockinClose
  repeat' (first
    | with_reducible assumption
    | (extract_lets +onlyGivenNames x; refine (fun hx : Keeps ms s0 x => ?_) ?_; clear_value x; on_goal 2 => subst x)
    | (extract_lets +onlyGivenNames _) | with_reducible apply State.modOlc_keeps
    | with_reducible apply State.putB_keeps | with_reducible apply State.put_keeps
    | with_reducible apply chanLoad_keeps | split)

theorem execLockinPeriodEnd_keeps (n) (m) {s : State} (h2 : Keeps ms s0 s) :
    KeepsO ms s0 (execLockinPeriodEnd n m s) := by
  unfold execLockinPeriodEnd
  repeat' (first
    | with_reducible assumption | (extract_lets +onlyGivenNames _) | with_reducible apply KeepsO.next
    | with_reducible apply lockinClose_keeps | with_reducible apply lockinCorrelate_keeps | split)

theorem State.cut_keeps {s : State} (n) (cause) (st) (h0 : Keeps ms s0 s) :
    Keeps ms s0 (State.cut s n cause st) := by
  unfold State.cut
  repeat' (first
    | with_reducible assumption
    | (extract_lets +onlyGivenNames x; refine (fun hx : Keeps ms s0 x => ?_) ?_; clear_value x; on_goal 2 => subst x)
    | (extract_lets +onlyGivenNames _) | with_reducible apply State.endRequests_keeps
    | with_reducible apply State.probeExit_keeps | with_reducible apply State.modOlc_keeps
    | with_reducible apply State.dropStep_keeps | with_reducible apply State.put_keeps
    | with_reducible apply State.setLane_keeps | with_reducible apply State.modChan_keeps
    | with_reducible apply State.vlasDrop_keeps | split)

theorem faultLane_keeps (b) (n) {s : State} (h2 : Keeps ms s0 s) :
    Keeps ms s0 (faultLane b n s) := by
  unfold faultLane
  repeat' (first
    | with_reducible assumption
    | (extract_lets +onlyGivenNames x; refine (fun hx : Keeps ms s0 x => ?_) ?_; clear_value x; on_goal 2 => subst x)
    | (extract_lets +onlyGivenNames _) | with_reducible apply State.cut_keeps
    | with_reducible apply State.addSat_keeps | with_reducible apply State.put_keeps
    | with_reducible apply State.lifeAdd_keeps | with_reducible apply State.modOlc_keeps | split)

theorem olcFaultWrite_keeps (n) (v) {s : State} (h2 : Keeps ms s0 s) :
    Keeps ms s0 (olcFaultWrite n v s) := by
  unfold olcFaultWrite
  repeat' (first
    | with_reducible assumption
    | (extract_lets +onlyGivenNames x; refine (fun hx : Keeps ms s0 x => ?_) ?_; clear_value x; on_goal 2 => subst x)
    | (extract_lets +onlyGivenNames _) | with_reducible apply State.put_keeps
    | with_reducible apply State.modOlc_keeps | split)

theorem State.txDisable_keeps {s : State} (n) (h0 : Keeps ms s0 s) :
    Keeps ms s0 (State.txDisable s n) := by
  unfold State.txDisable
  repeat' (first
    | with_reducible assumption | (extract_lets +onlyGivenNames _) | with_reducible apply State.put_keeps
    | with_reducible apply State.cut_keeps | split)

theorem State.txEnable_keeps {s : State} (n) (h0 : Keeps ms s0 s) :
    Keeps ms s0 (State.txEnable s n) := by
  unfold State.txEnable
  repeat' (first
    | with_reducible assumption
    | (extract_lets +onlyGivenNames x; refine (fun hx : Keeps ms s0 x => ?_) ?_; clear_value x; on_goal 2 => subst x)
    | (extract_lets +onlyGivenNames _) | with_reducible apply State.put_keeps
    | with_reducible apply requestRefused_keeps | with_reducible apply State.laneAdvance_keeps
    | with_reducible apply State.laneRequest_keeps | split)

theorem execTxDisableSet_keeps (n) {s : State} (h1 : Keeps ms s0 s) :
    KeepsO ms s0 (execTxDisableSet n s) := by
  unfold execTxDisableSet
  repeat' (first
    | with_reducible assumption | (extract_lets +onlyGivenNames _) | with_reducible apply KeepsO.next
    | with_reducible apply State.txDisable_keeps)

theorem execTxDisableClear_keeps (n) {s : State} (h1 : Keeps ms s0 s) :
    KeepsO ms s0 (execTxDisableClear n s) := by
  unfold execTxDisableClear
  repeat' (first
    | with_reducible assumption | (extract_lets +onlyGivenNames _) | with_reducible apply KeepsO.next
    | with_reducible apply State.txEnable_keeps)

end Sys2Proof.Machine
end

