-- ==== Sys2Proof/Laws/KeepCapCore.lean ====
section
/-! SUPPORT. Sys2Proof/Laws/KeepCapCore.lean: each operation of Machine/CapCore.lean keeps what Keeps says. -/

namespace Sys2Proof.Machine

variable {ms : Bool} {s0 : State}

theorem State.modCap_keeps {s : State} (f) (h0 : Keeps ms s0 s) :
    Keeps ms s0 (State.modCap s f) := by
  unfold State.modCap
  repeat' (first
    | (extract_lets +onlyGivenNames _) | with_reducible exact Nat.le_max_right _ _
    | with_reducible exact Mbx.Within.refl _ | (with_reducible apply Keeps.lit; with_reducible assumption)
    | dsimp +zetaDelta only)

theorem capSet_keeps (w) {s : State} (h1 : Keeps ms s0 s) :
    Keeps ms s0 (capSet w s) := by
  unfold capSet
  repeat' (first | with_reducible assumption | with_reducible apply State.modCap_keeps)

theorem portMove_keeps (c) {s : State} (h1 : Keeps ms s0 s) :
    Keeps ms s0 (portMove c s) := by
  unfold portMove
  repeat' (first | with_reducible assumption | with_reducible apply State.modCap_keeps)

theorem capMove_keeps (t) (w) {s : State} (h2 : Keeps ms s0 s) :
    Keeps ms s0 (capMove t w s) := by
  unfold capMove
  repeat' (first
    | with_reducible assumption | (extract_lets +onlyGivenNames _) | with_reducible apply portMove_keeps
    | with_reducible apply capSet_keeps | split)

theorem capSettle_keeps (t) {s : State} (h1 : Keeps ms s0 s) :
    Keeps ms s0 (capSettle t s) := by
  unfold capSettle
  repeat' (first
    | with_reducible assumption | (with_reducible intro _) | (extract_lets +onlyGivenNames _)
    | with_reducible apply keeps_foldl | with_reducible apply capMove_keeps)

theorem capCount_keeps (n) (c) (k) {s : State} (h3 : Keeps ms s0 s) :
    Keeps ms s0 (capCount n c k s) := by
  unfold capCount
  repeat' (first | with_reducible assumption | with_reducible apply State.modCap_keeps)

theorem capSlots_keeps (c) (k) {s : State} (h2 : Keeps ms s0 s) :
    Keeps ms s0 (capSlots c k s) := by
  unfold capSlots
  repeat' (first
    | with_reducible assumption | (extract_lets +onlyGivenNames _) | with_reducible apply State.perf_keeps
    | with_reducible apply State.modCap_keeps)

theorem ringWrite_keeps (w) (valid) {s : State} (h2 : Keeps true s0 s) :
    Keeps true s0 (ringWrite w valid s) := by
  unfold ringWrite
  repeat' (first
    | with_reducible assumption | (extract_lets +onlyGivenNames _) | with_reducible apply State.setBytes_keeps)

theorem ringMove_keeps (w) {s : State} (h1 : Keeps true s0 s) :
    Keeps true s0 (ringMove w s) := by
  unfold ringMove
  repeat' (first
    | with_reducible assumption
    | (extract_lets +onlyGivenNames x; refine (fun hx : Keeps true s0 x => ?_) ?_; clear_value x; on_goal 2 => subst x)
    | (extract_lets +onlyGivenNames _) | with_reducible apply State.modCap_keeps
    | with_reducible apply ringWrite_keeps | with_reducible apply capSet_keeps | split)

theorem capSwap_keeps (switched) {s : State} (h1 : Keeps true s0 s) :
    Keeps true s0 (capSwap switched s) := by
  unfold capSwap
  repeat' (first
    | with_reducible assumption | (with_reducible intro _)
    | (extract_lets +onlyGivenNames x; refine (fun hx : Keeps true s0 x => ?_) ?_; clear_value x; on_goal 2 => subst x)
    | (extract_lets +onlyGivenNames _) | with_reducible apply keeps_foldl | with_reducible apply State.modCap_keeps
    | with_reducible apply ringMove_keeps)

end Sys2Proof.Machine
end

