-- ==== Sys2Proof/Laws/KeepProtect.lean ====
section
/-! SUPPORT. Sys2Proof/Laws/KeepProtect.lean: each operation of Machine/Protect.lean keeps what Keeps says. -/

namespace Sys2Proof.Machine

variable {ms : Bool} {s0 : State}

theorem State.armFail_keeps {s : State} (cause) (h0 : Keeps ms s0 s) :
    Keeps ms s0 (State.armFail s cause) := by
  unfold State.armFail
  repeat' (first
    | with_reducible assumption
    | (extract_lets +onlyGivenNames x; refine (fun hx : Keeps ms s0 x => ?_) ?_; clear_value x; on_goal 2 => subst x)
    | (extract_lets +onlyGivenNames _) | with_reducible apply State.put_keeps
    | with_reducible apply State.finishWhere_keeps | with_reducible apply State.laneAdvance_keeps
    | with_reducible apply State.laneRequest_keeps | with_reducible apply State.modProt_keeps)

theorem State.armCheck_keeps {s : State} (h0 : Keeps ms s0 s) :
    Keeps ms s0 (State.armCheck s) := by
  unfold State.armCheck
  repeat' (first
    | with_reducible assumption
    | (extract_lets +onlyGivenNames x; refine (fun hx : Keeps ms s0 x => ?_) ?_; clear_value x; on_goal 2 => subst x)
    | (extract_lets +onlyGivenNames _) | with_reducible apply State.modProt_keeps
    | with_reducible apply State.put_keeps | with_reducible apply State.finishWhere_keeps
    | with_reducible apply State.armFail_keeps | split)

theorem execProtectArmTimeout_keeps {s : State} (h0 : Keeps ms s0 s) :
    KeepsO ms s0 (execProtectArmTimeout s) := by
  unfold execProtectArmTimeout
  repeat' (first
    | with_reducible assumption | (extract_lets +onlyGivenNames _) | with_reducible apply KeepsO.next
    | with_reducible apply State.armFail_keeps | split)

theorem State.protSelect_keeps {s : State} (switched) (h0 : Keeps true s0 s) :
    Keeps true s0 (State.protSelect s switched) := by
  unfold State.protSelect
  repeat' (first
    | with_reducible assumption
    | (extract_lets +onlyGivenNames x; refine (fun hx : Keeps true s0 x => ?_) ?_; clear_value x; on_goal 2 => subst x)
    | (extract_lets +onlyGivenNames _) | with_reducible apply State.addSat_keeps
    | with_reducible apply State.put_keeps | with_reducible apply State.modProt_keeps
    | with_reducible apply State.rsmCheck_keeps | with_reducible apply State.refreshHosts_keeps
    | with_reducible apply capSwap_keeps)

theorem State.notify_keeps {s : State} (revert) (k) (h0 : Keeps ms s0 s) :
    Keeps ms s0 (State.notify s revert k) := by
  unfold State.notify
  repeat' (first | with_reducible assumption | with_reducible apply State.lydQueue_keeps | split)

theorem State.propose_keeps {s : State} (revert) (cause) (lead) (h0 : Keeps ms s0 s) :
    Keeps ms s0 (State.propose s revert cause lead) := by
  unfold State.propose
  repeat' (first
    | with_reducible assumption
    | (extract_lets +onlyGivenNames x; refine (fun hx : Keeps ms s0 x => ?_) ?_; clear_value x; on_goal 2 => subst x)
    | (extract_lets +onlyGivenNames _) | with_reducible apply State.finishWhere_keeps
    | with_reducible apply State.modProt_keeps | with_reducible apply State.put_keeps
    | with_reducible apply State.setWord_keeps | with_reducible apply State.sendProtect_keeps | split)

theorem State.fire_keeps {s : State} (fired) (cause) (h0 : Keeps ms s0 s) :
    Keeps ms s0 (State.fire s fired cause) := by
  unfold State.fire
  repeat' (first
    | with_reducible assumption | (extract_lets +onlyGivenNames _) | with_reducible apply State.propose_keeps
    | with_reducible apply State.put_keeps | split)

theorem laneProtect_keeps (f) (action) (m) {s : State} (h0 : ∀ a0 a1 t2, Keeps ms s0 t2 → Keeps ms s0 (f a0 a1 t2)) (h3 : Keeps ms s0 s) :
    KeepsO ms s0 (laneProtect f action m s) := by
  unfold laneProtect
  repeat' (first
    | with_reducible assumption | (with_reducible intro _) | (extract_lets +onlyGivenNames _)
    | with_reducible apply KeepsO.next | with_reducible apply h0 | with_reducible apply runCmd_keeps
    | with_reducible apply State.finish_keeps | split)

theorem protParams_keeps (c) {s : State} (h1 : Keeps ms s0 s) :
    Keeps ms s0 (protParams c s) := by
  unfold protParams
  repeat' (first | with_reducible assumption | with_reducible apply State.modProt_keeps)

theorem shadowSet_keeps (n) {s : State} (h1 : Keeps ms s0 s) :
    Keeps ms s0 (shadowSet n s) := by
  unfold shadowSet
  repeat' (first
    | with_reducible assumption | (extract_lets +onlyGivenNames _) | with_reducible apply State.put_keeps)

theorem protArm_keeps (c) (n) {s : State} (h2 : Keeps ms s0 s) :
    Keeps ms s0 (protArm c n s) := by
  unfold protArm
  repeat' (first
    | with_reducible assumption
    | (extract_lets +onlyGivenNames x; refine (fun hx : Keeps ms s0 x => ?_) ?_; clear_value x; on_goal 2 => subst x)
    | (extract_lets +onlyGivenNames _) | with_reducible apply State.finishWhere_keeps
    | with_reducible apply protParams_keeps | with_reducible apply State.modProt_keeps
    | with_reducible apply shadowSet_keeps | with_reducible apply State.demand_keeps
    | with_reducible apply State.put_keeps | with_reducible apply State.laneAdvance_keeps
    | with_reducible apply State.laneRequest_keeps | with_reducible apply State.await_keeps)

theorem execLaneProtectArm_keeps (m) {s : State} (h1 : Keeps ms s0 s) :
    KeepsO ms s0 (execLaneProtectArm m s) := by
  unfold execLaneProtectArm
  repeat' (first
    | with_reducible assumption | (with_reducible intro _) | (extract_lets +onlyGivenNames _)
    | with_reducible apply laneProtect_keeps | with_reducible apply State.finish_keeps
    | with_reducible apply State.await_keeps | with_reducible apply protParams_keeps
    | with_reducible apply protArm_keeps | split)

theorem protDisarm_keeps (c) {s : State} (h1 : Keeps ms s0 s) :
    Keeps ms s0 (protDisarm c s) := by
  unfold protDisarm
  repeat' (first
    | with_reducible assumption
    | (extract_lets +onlyGivenNames x; refine (fun hx : Keeps ms s0 x => ?_) ?_; clear_value x; on_goal 2 => subst x)
    | (extract_lets +onlyGivenNames _) | with_reducible apply State.finishWhere_keeps
    | with_reducible apply State.abandon_keeps | with_reducible apply State.modProt_keeps
    | with_reducible apply State.put_keeps | with_reducible apply State.laneAdvance_keeps
    | with_reducible apply State.laneRequest_keeps | with_reducible apply State.await_keeps)

theorem execLaneProtectDisarm_keeps (m) {s : State} (h1 : Keeps ms s0 s) :
    KeepsO ms s0 (execLaneProtectDisarm m s) := by
  unfold execLaneProtectDisarm
  repeat' (first
    | with_reducible assumption | (with_reducible intro _) | (extract_lets +onlyGivenNames _)
    | with_reducible apply laneProtect_keeps | with_reducible apply State.finish_keeps
    | with_reducible apply protDisarm_keeps | split)

theorem execLaneProtectSwitch_keeps (m) {s : State} (h1 : Keeps ms s0 s) :
    KeepsO ms s0 (execLaneProtectSwitch m s) := by
  unfold execLaneProtectSwitch
  repeat' (first
    | with_reducible assumption | (with_reducible intro _) | (extract_lets +onlyGivenNames _)
    | with_reducible apply laneProtect_keeps | with_reducible apply State.finish_keeps
    | with_reducible apply State.propose_keeps | with_reducible apply State.await_keeps | split)

theorem execLaneProtectRevert_keeps (m) {s : State} (h1 : Keeps ms s0 s) :
    KeepsO ms s0 (execLaneProtectRevert m s) := by
  unfold execLaneProtectRevert
  repeat' (first
    | with_reducible assumption | (with_reducible intro _) | (extract_lets +onlyGivenNames _)
    | with_reducible apply laneProtect_keeps | with_reducible apply State.finish_keeps
    | with_reducible apply State.propose_keeps | with_reducible apply State.await_keeps | split)

theorem execProposeRepeat_keeps {s : State} (h0 : Keeps ms s0 s) :
    KeepsO ms s0 (execProposeRepeat s) := by
  unfold execProposeRepeat
  repeat' (first
    | with_reducible assumption | (extract_lets +onlyGivenNames _) | with_reducible apply KeepsO.next
    | with_reducible apply State.sendProtect_keeps | split)

theorem execProposeDeadline_keeps {s : State} (h0 : Keeps ms s0 s) :
    KeepsO ms s0 (execProposeDeadline s) := by
  unfold execProposeDeadline
  repeat' (first
    | with_reducible assumption | (extract_lets +onlyGivenNames _) | with_reducible apply KeepsO.next
    | with_reducible apply State.abandon_keeps | split)

theorem execProtectFinalPoint_keeps {s : State} (h0 : Keeps ms s0 s) :
    KeepsO ms s0 (execProtectFinalPoint s) := by
  unfold execProtectFinalPoint
  repeat' (first
    | with_reducible assumption | (extract_lets +onlyGivenNames _) | with_reducible apply KeepsO.next
    | with_reducible apply State.put_keeps | with_reducible apply State.abandon_keeps | split)

theorem State.agreeAct_keeps {s : State} (revert) (h0 : Keeps true s0 s) :
    Keeps true s0 (State.agreeAct s revert) := by
  unfold State.agreeAct
  repeat' (first
    | with_reducible assumption
    | (extract_lets +onlyGivenNames x; refine (fun hx : Keeps true s0 x => ?_) ?_; clear_value x; on_goal 2 => subst x)
    | (extract_lets +onlyGivenNames _) | with_reducible apply State.put_keeps
    | with_reducible apply State.protSelect_keeps | with_reducible apply State.postProtectResult_keeps
    | with_reducible apply State.modProt_keeps | with_reducible apply State.finishWhere_keeps | split)

theorem execProtectionSwitch_keeps {s : State} (h0 : Keeps true s0 s) :
    KeepsO true s0 (execProtectionSwitch s) := by
  unfold execProtectionSwitch
  repeat' (first
    | with_reducible assumption | (extract_lets +onlyGivenNames _) | with_reducible apply KeepsO.next
    | with_reducible apply State.agreeAct_keeps)

theorem execProtectionRevert_keeps {s : State} (h0 : Keeps true s0 s) :
    KeepsO true s0 (execProtectionRevert s) := by
  unfold execProtectionRevert
  repeat' (first
    | with_reducible assumption | (extract_lets +onlyGivenNames _) | with_reducible apply KeepsO.next
    | with_reducible apply State.agreeAct_keeps)

theorem execEmergencySwitch_keeps {s : State} (h0 : Keeps true s0 s) :
    KeepsO true s0 (execEmergencySwitch s) := by
  unfold execEmergencySwitch
  repeat' (first
    | with_reducible assumption
    | (extract_lets +onlyGivenNames x; refine (fun hx : Keeps true s0 x => ?_) ?_; clear_value x; on_goal 2 => subst x)
    | (extract_lets +onlyGivenNames _) | with_reducible apply KeepsO.next | with_reducible apply State.put_keeps
    | with_reducible apply State.protSelect_keeps | with_reducible apply State.abandon_keeps
    | with_reducible apply State.notify_keeps | split)

theorem State.l8Return_keeps {s : State} (h0 : Keeps true s0 s) :
    Keeps true s0 (State.l8Return s) := by
  unfold State.l8Return
  repeat' (first
    | with_reducible assumption
    | (extract_lets +onlyGivenNames x; refine (fun hx : Keeps true s0 x => ?_) ?_; clear_value x; on_goal 2 => subst x)
    | (extract_lets +onlyGivenNames _) | with_reducible apply capSwap_keeps | with_reducible apply State.put_keeps
    | with_reducible apply State.rsmCheck_keeps | with_reducible apply State.refreshHosts_keeps
    | with_reducible apply State.modProt_keeps | split)

theorem l8FailNoted_keeps (n) {s : State} (h1 : Keeps true s0 s) :
    Keeps true s0 (l8FailNoted n s) := by
  unfold l8FailNoted
  repeat' (first
    | with_reducible assumption
    | (extract_lets +onlyGivenNames x; refine (fun hx : Keeps true s0 x => ?_) ?_; clear_value x; on_goal 2 => subst x)
    | (extract_lets +onlyGivenNames _) | with_reducible apply State.abandon_keeps
    | with_reducible apply State.modProt_keeps | with_reducible apply State.addSat_keeps
    | with_reducible apply State.postBare_keeps | with_reducible apply State.put_keeps
    | with_reducible apply State.refreshHosts_keeps | with_reducible apply State.notify_keeps
    | with_reducible apply State.l8Return_keeps | split)

theorem execL8FailRevert_keeps {s : State} (h0 : Keeps true s0 s) :
    KeepsO true s0 (execL8FailRevert s) := by
  unfold execL8FailRevert
  repeat' (first
    | with_reducible assumption | (extract_lets +onlyGivenNames _) | with_reducible apply KeepsO.next
    | with_reducible apply l8FailNoted_keeps | split)

theorem execL8FailSelectionReturn_keeps {s : State} (h0 : Keeps true s0 s) :
    KeepsO true s0 (execL8FailSelectionReturn s) := by
  unfold execL8FailSelectionReturn
  repeat' (first
    | with_reducible assumption | (extract_lets +onlyGivenNames _) | with_reducible apply KeepsO.next
    | with_reducible apply State.l8Return_keeps | split)

theorem State.frameIn_keeps {s : State} (n) (h0 : Keeps ms s0 s) :
    Keeps ms s0 (State.frameIn s n) := by
  unfold State.frameIn
  repeat' (first
    | with_reducible assumption | (extract_lets +onlyGivenNames _) | with_reducible apply State.perf_keeps
    | with_reducible apply State.addSat_keeps)

theorem State.refusePropose_keeps {s : State} (n) (b) (reason) (h0 : Keeps ms s0 s) :
    Keeps ms s0 (State.refusePropose s n b reason) := by
  unfold State.refusePropose
  repeat' (first
    | with_reducible assumption
    | (extract_lets +onlyGivenNames x; refine (fun hx : Keeps ms s0 x => ?_) ?_; clear_value x; on_goal 2 => subst x)
    | with_reducible apply State.put_keeps | with_reducible apply State.lydQueue_keeps)

theorem proposeAccept_keeps (n) (b) (mine) {s : State} (h3 : Keeps ms s0 s) :
    Keeps ms s0 (proposeAccept n b mine s) := by
  unfold proposeAccept
  repeat' (first
    | with_reducible assumption
    | (extract_lets +onlyGivenNames x; refine (fun hx : Keeps ms s0 x => ?_) ?_; clear_value x; on_goal 2 => subst x)
    | (extract_lets +onlyGivenNames _) | with_reducible apply State.modProt_keeps
    | with_reducible apply State.setWord_keeps | with_reducible apply State.sendProtect_keeps)

theorem proposeWithdraw_keeps {s : State} (h0 : Keeps ms s0 s) :
    Keeps ms s0 (proposeWithdraw s) := by
  unfold proposeWithdraw
  repeat' (first
    | with_reducible assumption | (extract_lets +onlyGivenNames _) | with_reducible apply State.put_keeps
    | with_reducible apply State.sendProtect_keeps)

theorem withdrawnEnds_keeps {s : State} (h0 : Keeps ms s0 s) :
    Keeps ms s0 (withdrawnEnds s) := by
  unfold withdrawnEnds
  repeat' (first
    | with_reducible assumption | (extract_lets +onlyGivenNames _) | with_reducible apply State.finishWhere_keeps
    | with_reducible apply State.put_keeps)

theorem execProtectProposeRx_keeps (n) (b) {s : State} (h2 : Keeps ms s0 s) :
    KeepsO ms s0 (execProtectProposeRx n b s) := by
  unfold execProtectProposeRx
  repeat' (first
    | with_reducible assumption
    | (extract_lets +onlyGivenNames x; refine (fun hx : Keeps ms s0 x => ?_) ?_; clear_value x; on_goal 2 => subst x)
    | (extract_lets +onlyGivenNames _) | with_reducible apply KeepsO.next | with_reducible apply State.frameIn_keeps
    | with_reducible apply State.sendProtect_keeps | with_reducible apply proposeWithdraw_keeps
    | with_reducible apply State.refusePropose_keeps | with_reducible apply withdrawnEnds_keeps
    | with_reducible apply proposeAccept_keeps | split)

theorem execProtectAcceptRx_keeps (n) (b) {s : State} (h2 : Keeps ms s0 s) :
    KeepsO ms s0 (execProtectAcceptRx n b s) := by
  unfold execProtectAcceptRx
  repeat' (first
    | with_reducible assumption
    | (extract_lets +onlyGivenNames x; refine (fun hx : Keeps ms s0 x => ?_) ?_; clear_value x; on_goal 2 => subst x)
    | (extract_lets +onlyGivenNames _) | with_reducible apply KeepsO.next | with_reducible apply State.frameIn_keeps
    | with_reducible apply State.abandon_keeps | with_reducible apply State.put_keeps
    | with_reducible apply State.sendProtect_keeps | split)

theorem execProtectConfirmRx_keeps (n) (b) {s : State} (h2 : Keeps ms s0 s) :
    KeepsO ms s0 (execProtectConfirmRx n b s) := by
  unfold execProtectConfirmRx
  repeat' (first
    | with_reducible assumption
    | (extract_lets +onlyGivenNames x; refine (fun hx : Keeps ms s0 x => ?_) ?_; clear_value x; on_goal 2 => subst x)
    | (extract_lets +onlyGivenNames _) | with_reducible apply KeepsO.next | with_reducible apply State.frameIn_keeps
    | with_reducible apply State.put_keeps | split)

theorem execProtectAbandonRx_keeps (n) (b) {s : State} (h2 : Keeps ms s0 s) :
    KeepsO ms s0 (execProtectAbandonRx n b s) := by
  unfold execProtectAbandonRx
  repeat' (first
    | with_reducible assumption
    | (extract_lets +onlyGivenNames x; refine (fun hx : Keeps ms s0 x => ?_) ?_; clear_value x; on_goal 2 => subst x)
    | (extract_lets +onlyGivenNames _) | with_reducible apply KeepsO.next | with_reducible apply State.frameIn_keeps
    | with_reducible apply State.put_keeps | with_reducible apply State.abandon_keeps | split)

theorem execProtectNotifyRx_keeps (n) (b) {s : State} (h2 : Keeps ms s0 s) :
    KeepsO ms s0 (execProtectNotifyRx n b s) := by
  unfold execProtectNotifyRx
  repeat' (first
    | with_reducible assumption
    | (extract_lets +onlyGivenNames x; refine (fun hx : Keeps ms s0 x => ?_) ?_; clear_value x; on_goal 2 => subst x)
    | (extract_lets +onlyGivenNames _) | with_reducible apply KeepsO.next | with_reducible apply State.frameIn_keeps
    | with_reducible apply State.postBare_keeps | split)

end Sys2Proof.Machine
end

