-- ==== Sys2Proof/Laws/KeepWinch.lean ====
section
/-! SUPPORT. Sys2Proof/Laws/KeepWinch.lean: each operation of Machine/Winch.lean keeps what Keeps says. -/

namespace Sys2Proof.Machine

variable {ms : Bool} {s0 : State}

theorem slotStart_keeps (i) {s : State} (h1 : Keeps ms s0 s) :
    Keeps ms s0 (slotStart i s) := by
  unfold slotStart
  repeat' (first
    | with_reducible assumption | (extract_lets +onlyGivenNames _) | with_reducible apply State.perf_keeps
    | with_reducible apply State.addSat_keeps | with_reducible apply State.modWinch_keeps | split)

theorem execWinchSlot_keeps {s : State} (h0 : Keeps ms s0 s) :
    KeepsO ms s0 (execWinchSlot s) := by
  unfold execWinchSlot
  repeat' (first
    | with_reducible assumption
    | (extract_lets +onlyGivenNames x; refine (fun hx : Keeps ms s0 x => ?_) ?_; clear_value x; on_goal 2 => subst x)
    | (extract_lets +onlyGivenNames _) | with_reducible apply KeepsO.next | with_reducible apply State.incWrap_keeps
    | with_reducible apply slotStart_keeps | with_reducible apply State.modWinch_keeps
    | with_reducible apply State.put_keeps | split)

theorem snrVisit_keeps {s : State} (sigma2) (h0 : Keeps ms s0 s) :
    Keeps ms s0 (snrVisit s sigma2).2 := by
  unfold snrVisit
  repeat' (first
    | with_reducible assumption | (extract_lets +onlyGivenNames _) | with_reducible apply State.free_keeps | split
    | dsimp +zetaDelta only | (with_reducible refine Keeps.ofSnd ‹_› ?_))

theorem fomTrigger_keeps (i) {s : State} (h1 : Keeps ms s0 s) :
    Keeps ms s0 (fomTrigger i s) := by
  unfold fomTrigger
  repeat' (first
    | with_reducible assumption | (extract_lets +onlyGivenNames _) | with_reducible apply State.fire_keeps
    | with_reducible apply State.modProt_keeps | split)

theorem fomUpdate_keeps (i) (sigma2) {s : State} (h2 : Keeps ms s0 s) :
    Keeps ms s0 (fomUpdate i sigma2 s) := by
  unfold fomUpdate
  repeat' (first
    | with_reducible assumption
    | (extract_lets +onlyGivenNames x; refine (fun hx : Keeps ms s0 x => ?_) ?_; clear_value x; on_goal 2 => subst x)
    | (extract_lets +onlyGivenNames _) | with_reducible apply snrVisit_keeps
    | with_reducible apply State.modWinch_keeps | with_reducible apply State.put_keeps
    | with_reducible apply fathomOffer_keeps | with_reducible apply fomTrigger_keeps | split
    | (with_reducible refine Keeps.ofSnd ‹_› ?_))

theorem visitStage_keeps (i) (start) (v) (main) {s : State} (h4 : Keeps ms s0 s) :
    Keeps ms s0 (visitStage i start v main s) := by
  unfold visitStage
  repeat' (first
    | with_reducible assumption
    | (extract_lets +onlyGivenNames x; refine (fun hx : Keeps ms s0 x => ?_) ?_; clear_value x; on_goal 2 => subst x)
    | (extract_lets +onlyGivenNames _) | with_reducible apply State.free_keeps
    | with_reducible apply State.eqStage_keeps | with_reducible apply State.eqStageHost_keeps
    | with_reducible apply State.put_keeps | split | (with_reducible refine Keeps.ofSnd ‹_› ?_))

theorem visitRetired_keeps (i) (w) (v) {s : State} (h3 : Keeps ms s0 s) :
    Keeps ms s0 (visitRetired i w v s) := by
  unfold visitRetired
  repeat' (first
    | with_reducible assumption
    | (extract_lets +onlyGivenNames x; refine (fun hx : Keeps ms s0 x => ?_) ?_; clear_value x; on_goal 2 => subst x)
    | (extract_lets +onlyGivenNames _) | with_reducible apply State.perf_keeps
    | with_reducible apply State.addSat_keeps | with_reducible apply visitStage_keeps
    | with_reducible apply State.modRx_keeps | with_reducible apply State.modHst_keeps
    | with_reducible apply State.modWinch_keeps | with_reducible apply fomUpdate_keeps | split)

theorem execWinchVisitEnd_keeps (b) {s : State} (h3 : Keeps ms s0 s) :
    KeepsO ms s0 (execWinchVisitEnd b s) := by
  unfold execWinchVisitEnd
  repeat' (first
    | with_reducible assumption
    | (extract_lets +onlyGivenNames x; refine (fun hx : Keeps ms s0 x => ?_) ?_; clear_value x; on_goal 2 => subst x)
    | (extract_lets +onlyGivenNames _) | with_reducible apply KeepsO.next | with_reducible apply State.modWinch_keeps
    | with_reducible apply State.perf_keeps | with_reducible apply State.addSat_keeps
    | with_reducible apply visitRetired_keeps | split)

end Sys2Proof.Machine
end

