-- ==== Sys2Proof/Laws/KeepLanyard.lean ====
section
/-! SUPPORT. Sys2Proof/Laws/KeepLanyard.lean: each operation of Machine/Lanyard.lean keeps what Keeps says. -/

namespace Sys2Proof.Machine

variable {ms : Bool} {s0 : State}

theorem lydSoft_keeps (n) (x) {s : State} (h2 : Keeps ms s0 s) :
    Keeps ms s0 (lydSoft n x s) := by
  unfold lydSoft
  dsimp only
  split
  · exact State.modLyd_keeps _ _ h2
  · generalize vitStep _ _ _ _ = r
    obtain ⟨v, out⟩ := r
    have g := State.free_keeps 29 h2
    generalize s.free 29 = fr at g
    dsimp only
    split
    · exact State.modLyd_keeps _ _ g
    · exact State.addSat_keeps _ _ _ _ (State.modLyd_keeps _ _ (State.modLyd_keeps _ _ g))

theorem lydDecode_keeps (n) (soft) (slip) {s : State} (h3 : Keeps ms s0 s) :
    Keeps ms s0 (lydDecode n soft slip s) := by
  unfold lydDecode
  repeat' (first
    | with_reducible assumption | (with_reducible intro _)
    | (extract_lets +onlyGivenNames x; refine (fun hx : Keeps ms s0 x => ?_) ?_; clear_value x; on_goal 2 => subst x)
    | (extract_lets +onlyGivenNames _) | with_reducible apply keeps_foldl | with_reducible apply State.modLyd_keeps
    | with_reducible apply lydSoft_keeps)

theorem lydMeasured_keeps (n) (snr) (fofs) {s : State} (h3 : Keeps ms s0 s) :
    Keeps ms s0 (lydMeasured n snr fofs s) := by
  unfold lydMeasured
  repeat' (first
    | with_reducible assumption
    | (extract_lets +onlyGivenNames x; refine (fun hx : Keeps ms s0 x => ?_) ?_; clear_value x; on_goal 2 => subst x)
    | (extract_lets +onlyGivenNames _) | with_reducible apply State.put_keeps
    | with_reducible apply State.modLyd_keeps)

theorem lydJudge_keeps (n) {s : State} (h1 : Keeps ms s0 s) :
    Keeps ms s0 (lydJudge n s) := by
  unfold lydJudge
  repeat' (first
    | with_reducible assumption | with_reducible apply State.phyLost_keeps | with_reducible apply State.put_keeps
    | split)

theorem execLanyardBlock_keeps (n) (data) (b) (snr) (fofs) {s : State} (h6 : Keeps true s0 s) :
    KeepsO true s0 (execLanyardBlock n data b snr fofs s) := by
  unfold execLanyardBlock
  repeat' (first
    | with_reducible assumption
    | (extract_lets +onlyGivenNames x; refine (fun hx : Keeps true s0 x => ?_) ?_; clear_value x; on_goal 2 => subst x)
    | (extract_lets +onlyGivenNames _) | with_reducible apply KeepsO.next | with_reducible apply rxData_keeps
    | with_reducible apply lydJudge_keeps | with_reducible apply lydMeasured_keeps
    | with_reducible apply lydDecode_keeps | split)

theorem execLanyardChainSettled_keeps (d) {s : State} (h2 : Keeps true s0 s) :
    KeepsO true s0 (execLanyardChainSettled d s) := by
  unfold execLanyardChainSettled
  repeat' (first
    | with_reducible assumption | (extract_lets +onlyGivenNames _) | with_reducible apply KeepsO.next
    | with_reducible apply rxData_keeps)

theorem lydBody_keeps (n) (body) (fcsOk) {s : State} (h3 : Keeps ms s0 s) :
    Keeps ms s0 (lydBody n body fcsOk s) := by
  unfold lydBody
  repeat' (first
    | with_reducible assumption | (extract_lets +onlyGivenNames _) | with_reducible apply State.addSat_keeps
    | with_reducible apply State.modLyd_keeps | with_reducible apply State.frameIn_keeps | split)

theorem lydSync_keeps (n) (st) {s : State} (h2 : Keeps ms s0 s) :
    Keeps ms s0 (lydSync n st s) := by
  unfold lydSync
  repeat' (first
    | with_reducible assumption | (extract_lets +onlyGivenNames _) | with_reducible apply State.modLyd_keeps
    | with_reducible apply State.put_keeps)

theorem execLanyardHeaderFound_keeps (n) (hdr) (body) (fcs) {s : State} (h4 : Keeps ms s0 s) :
    KeepsO ms s0 (execLanyardHeaderFound n hdr body fcs s) := by
  unfold execLanyardHeaderFound
  repeat' (first
    | with_reducible assumption
    | (extract_lets +onlyGivenNames x; refine (fun hx : Keeps ms s0 x => ?_) ?_; clear_value x; on_goal 2 => subst x)
    | (extract_lets +onlyGivenNames _) | with_reducible apply KeepsO.next | with_reducible apply lydBody_keeps
    | with_reducible apply lydSync_keeps | with_reducible apply State.agreeLinkLost_keeps
    | with_reducible apply State.modLyd_keeps | split)

theorem lydAnchor_keeps (n) (p) (f) {s : State} (h3 : Keeps ms s0 s) :
    Keeps ms s0 (lydAnchor n p f s).2 := by
  unfold lydAnchor
  repeat' (first
    | with_reducible assumption | (extract_lets +onlyGivenNames _) | with_reducible apply State.free_keeps | split)

theorem userSent_keeps (n) (cur) {s : State} (h2 : Keeps ms s0 s) :
    Keeps ms s0 (userSent n cur s) := by
  unfold userSent
  repeat' (first
    | with_reducible assumption
    | (extract_lets +onlyGivenNames x; refine (fun hx : Keeps ms s0 x => ?_) ?_; clear_value x; on_goal 2 => subst x)
    | (extract_lets +onlyGivenNames _) | with_reducible apply State.modLyd_keeps
    | with_reducible apply State.finish_keeps | split)

theorem lydSent_keeps (n) {s : State} (h1 : Keeps ms s0 s) :
    Keeps ms s0 (lydSent n s) := by
  unfold lydSent
  repeat' (first
    | with_reducible assumption
    | (extract_lets +onlyGivenNames x; refine (fun hx : Keeps ms s0 x => ?_) ?_; clear_value x; on_goal 2 => subst x)
    | (extract_lets +onlyGivenNames _) | with_reducible apply State.lydLose_keeps
    | with_reducible apply lydRest_keeps | with_reducible apply State.modLyd_keeps
    | with_reducible apply userSent_keeps | with_reducible apply State.perf_keeps
    | with_reducible apply State.addSat_keeps | split)

theorem lydStart_keeps (n) (p) {s : State} (h2 : Keeps ms s0 s) :
    Keeps ms s0 (lydStart n p s) := by
  unfold lydStart
  repeat' (first
    | with_reducible assumption
    | (extract_lets +onlyGivenNames x; refine (fun hx : Keeps ms s0 x => ?_) ?_; clear_value x; on_goal 2 => subst x)
    | (extract_lets +onlyGivenNames _) | with_reducible apply State.modLyd_keeps
    | with_reducible apply lydAnchor_keeps | split)

theorem execLanyardFrameEnd_keeps (n) (pilot) {s : State} (h2 : Keeps ms s0 s) :
    KeepsO ms s0 (execLanyardFrameEnd n pilot s) := by
  unfold execLanyardFrameEnd
  repeat' (first
    | with_reducible assumption | (extract_lets +onlyGivenNames _) | with_reducible apply KeepsO.next
    | with_reducible apply lydStart_keeps | with_reducible apply lydSent_keeps | split)

theorem execHelloPeriod_keeps (n) {s : State} (h1 : Keeps ms s0 s) :
    KeepsO ms s0 (execHelloPeriod n s) := by
  unfold execHelloPeriod
  repeat' (first
    | with_reducible assumption | (extract_lets +onlyGivenNames _) | with_reducible apply KeepsO.next
    | with_reducible apply State.lydQueue_keeps | split)

theorem preBer_keeps (b) (cw) {s : State} (h2 : Keeps ms s0 s) :
    Keeps ms s0 (preBer b cw s).2 := by
  unfold preBer
  repeat' (first
    | with_reducible assumption | (extract_lets +onlyGivenNames _) | with_reducible apply State.free_keeps | split)

theorem wasteRatio_keeps (n) {s : State} (h1 : Keeps ms s0 s) :
    Keeps ms s0 (wasteRatio n s).2 := by
  unfold wasteRatio
  repeat' (first
    | with_reducible assumption | (extract_lets +onlyGivenNames _) | with_reducible apply State.free_keeps
    | with_reducible apply State.freeRound_keeps | split)

theorem levelByte_keeps (lo) (hi) (q) {s : State} (h3 : Keeps ms s0 s) :
    Keeps ms s0 (levelByte lo hi q s).2 := by
  unfold levelByte
  repeat' (first
    | with_reducible assumption | (extract_lets +onlyGivenNames _) | with_reducible apply State.free_keeps | split
    | (clear_value *; split) | dsimp +zetaDelta only | (with_reducible refine Keeps.ofSnd ‹_› ?_))

theorem levelBytes_keeps (n) {s : State} (h1 : Keeps ms s0 s) :
    Keeps ms s0 (levelBytes n s).2 := by
  unfold levelBytes
  repeat' (first
    | with_reducible assumption | (with_reducible intro _) | (extract_lets +onlyGivenNames _)
    | with_reducible apply keeps_foldl_snd | with_reducible apply levelByte_keeps)

theorem telemetryReset_keeps (n) {s : State} (h1 : Keeps ms s0 s) :
    Keeps ms s0 (telemetryReset n s) := by
  unfold telemetryReset
  repeat' (first
    | with_reducible assumption | (extract_lets +onlyGivenNames _) | with_reducible apply State.modRx_keeps
    | with_reducible apply State.modLyd_keeps)

theorem telemetryQueue_keeps (n) {s : State} (h1 : Keeps ms s0 s) :
    Keeps ms s0 (telemetryQueue n s) := by
  unfold telemetryQueue
  repeat' (first
    | with_reducible assumption | (extract_lets +onlyGivenNames _) | with_reducible apply preBer_keeps
    | with_reducible apply wasteRatio_keeps | with_reducible apply levelBytes_keeps
    | with_reducible apply State.lydQueue_keeps | with_reducible apply telemetryReset_keeps)

theorem txadjSend_keeps (n) (r) {s : State} (h2 : Keeps ms s0 s) :
    Keeps ms s0 (txadjSend n r s) := by
  unfold txadjSend
  repeat' (first | with_reducible assumption | with_reducible apply State.lydQueue_keeps | split)

theorem execTelemetryPeriod_keeps (n) (request) {s : State} (h2 : Keeps ms s0 s) :
    KeepsO ms s0 (execTelemetryPeriod n request s) := by
  unfold execTelemetryPeriod
  repeat' (first
    | with_reducible assumption
    | (extract_lets +onlyGivenNames x; refine (fun hx : Keeps ms s0 x => ?_) ?_; clear_value x; on_goal 2 => subst x)
    | (extract_lets +onlyGivenNames _) | with_reducible apply KeepsO.next | with_reducible apply telemetryQueue_keeps
    | with_reducible apply txadjSend_keeps | split)

theorem execTimePeriod_keeps (n) {s : State} (h1 : Keeps ms s0 s) :
    KeepsO ms s0 (execTimePeriod n s) := by
  unfold execTimePeriod
  repeat' (first
    | with_reducible assumption | (extract_lets +onlyGivenNames _) | with_reducible apply KeepsO.next
    | with_reducible apply State.lydQueue_keeps | split)

theorem renumber_keeps (n) (seq) (k) (i) {s : State} (h4 : Keeps ms s0 s) :
    Keeps ms s0 (renumber n seq k i s) := by
  unfold renumber
  repeat' (first
    | with_reducible assumption
    | (extract_lets +onlyGivenNames x; refine (fun hx : Keeps ms s0 x => ?_) ?_; clear_value x; on_goal 2 => subst x)
    | (extract_lets +onlyGivenNames _) | with_reducible apply State.modRx_keeps
    | with_reducible apply State.put_keeps | split)

theorem rxAnchor_keeps (n) (seq) (offs) (p) {s : State} (h4 : Keeps ms s0 s) :
    Keeps ms s0 (rxAnchor n seq offs p s) := by
  unfold rxAnchor
  repeat' (first
    | with_reducible assumption | (extract_lets +onlyGivenNames _) | with_reducible apply State.addSat_keeps
    | with_reducible apply renumber_keeps | split)

theorem partnerCount_keeps {s : State} (h0 : Keeps ms s0 s) :
    Keeps ms s0 (partnerCount s) := by
  unfold partnerCount
  repeat' (first | with_reducible assumption | with_reducible apply State.put_keeps)

theorem partnerClear_keeps (n) {s : State} (h1 : Keeps ms s0 s) :
    Keeps ms s0 (partnerClear n s) := by
  unfold partnerClear
  repeat' (first
    | with_reducible assumption | (with_reducible intro _) | (extract_lets +onlyGivenNames _)
    | with_reducible apply keeps_foldl | with_reducible apply partnerCount_keeps
    | with_reducible apply State.setWord_keeps)

theorem userLost_keeps (n) {s : State} (h1 : Keeps ms s0 s) :
    Keeps ms s0 (userLost n s) := by
  unfold userLost
  repeat' (first
    | with_reducible assumption | (with_reducible intro _)
    | (extract_lets +onlyGivenNames x; refine (fun hx : Keeps ms s0 x => ?_) ?_; clear_value x; on_goal 2 => subst x)
    | (extract_lets +onlyGivenNames _) | with_reducible apply State.modLyd_keeps | with_reducible apply eachOf_keeps
    | with_reducible apply State.finish_keeps | split)

theorem partnerForget_keeps (n) {s : State} (h1 : Keeps ms s0 s) :
    Keeps ms s0 (partnerForget n s) := by
  unfold partnerForget
  repeat' (first
    | with_reducible assumption | (extract_lets +onlyGivenNames _) | with_reducible apply State.postBare_keeps
    | with_reducible apply userLost_keeps | with_reducible apply partnerClear_keeps | split)

theorem partnerLearn_keeps (n) (b) {s : State} (h2 : Keeps ms s0 s) :
    Keeps ms s0 (partnerLearn n b s) := by
  unfold partnerLearn
  repeat' (first
    | with_reducible assumption
    | (extract_lets +onlyGivenNames x; refine (fun hx : Keeps ms s0 x => ?_) ?_; clear_value x; on_goal 2 => subst x)
    | (extract_lets +onlyGivenNames _) | with_reducible apply State.setWord_keeps
    | with_reducible apply State.put_keeps | with_reducible apply partnerCount_keeps
    | with_reducible apply State.modLyd_keeps)

theorem helloTaken_keeps (n) (b) (pilot) {s : State} (h3 : Keeps ms s0 s) :
    Keeps ms s0 (helloTaken n b pilot s) := by
  unfold helloTaken
  repeat' (first
    | with_reducible assumption
    | (extract_lets +onlyGivenNames x; refine (fun hx : Keeps ms s0 x => ?_) ?_; clear_value x; on_goal 2 => subst x)
    | (extract_lets +onlyGivenNames _) | with_reducible apply State.put_keeps
    | with_reducible apply partnerLearn_keeps | with_reducible apply State.postBare_keeps
    | with_reducible apply rxAnchor_keeps | split)

theorem execHelloRx_keeps (n) (b) (pilot) {s : State} (h3 : Keeps ms s0 s) :
    KeepsO ms s0 (execHelloRx n b pilot s) := by
  unfold execHelloRx
  repeat' (first
    | with_reducible assumption
    | (extract_lets +onlyGivenNames x; refine (fun hx : Keeps ms s0 x => ?_) ?_; clear_value x; on_goal 2 => subst x)
    | (extract_lets +onlyGivenNames _) | with_reducible apply KeepsO.next | with_reducible apply helloTaken_keeps
    | with_reducible apply State.frameIn_keeps | with_reducible apply State.modProt_keeps
    | with_reducible apply State.armCheck_keeps | split)

theorem execHelloPeriodMissed_keeps (n) {s : State} (h1 : Keeps ms s0 s) :
    KeepsO ms s0 (execHelloPeriodMissed n s) := by
  unfold execHelloPeriodMissed
  repeat' (first
    | with_reducible assumption | (extract_lets +onlyGivenNames _) | with_reducible apply KeepsO.next
    | with_reducible apply partnerForget_keeps | with_reducible apply State.put_keeps | split)

theorem execTelemetryRx_keeps (n) (b) {s : State} (h2 : Keeps ms s0 s) :
    KeepsO ms s0 (execTelemetryRx n b s) := by
  unfold execTelemetryRx
  repeat' (first
    | with_reducible assumption | (extract_lets +onlyGivenNames _) | with_reducible apply KeepsO.next
    | with_reducible apply State.modLyd_keeps | with_reducible apply State.frameIn_keeps | split)

theorem timeTaken_keeps (n) (b) (pilot) {s : State} (h3 : Keeps ms s0 s) :
    Keeps ms s0 (timeTaken n b pilot s) := by
  unfold timeTaken
  repeat' (first
    | with_reducible assumption
    | (extract_lets +onlyGivenNames x; refine (fun hx : Keeps ms s0 x => ?_) ?_; clear_value x; on_goal 2 => subst x)
    | (extract_lets +onlyGivenNames _) | with_reducible apply rxAnchor_keeps
    | with_reducible apply State.modLyd_keeps)

theorem execTimeRx_keeps (n) (flags) (b) (pilot) {s : State} (h4 : Keeps ms s0 s) :
    KeepsO ms s0 (execTimeRx n flags b pilot s) := by
  unfold execTimeRx
  repeat' (first
    | with_reducible assumption
    | (extract_lets +onlyGivenNames x; refine (fun hx : Keeps ms s0 x => ?_) ?_; clear_value x; on_goal 2 => subst x)
    | (extract_lets +onlyGivenNames _) | with_reducible apply KeepsO.next | with_reducible apply timeTaken_keeps
    | with_reducible apply State.frameIn_keeps | with_reducible apply State.twoWayResult_keeps | split)

theorem txadjResult_keeps (t) (id) (serial) (st) (seq) {s : State} (h5 : Keeps ms s0 s) :
    Keeps ms s0 (txadjResult t id serial st seq s) := by
  unfold txadjResult
  repeat' (first
    | with_reducible assumption
    | (extract_lets +onlyGivenNames x; refine (fun hx : Keeps ms s0 x => ?_) ?_; clear_value x; on_goal 2 => subst x)
    | (extract_lets +onlyGivenNames _) | with_reducible apply State.put_keeps
    | with_reducible apply State.addSat_keeps | with_reducible apply State.modLyd_keeps
    | with_reducible apply State.lydQueue_keeps | split)

theorem txadjCapture_keeps (n) {s : State} (h1 : Keeps ms s0 s) :
    Keeps ms s0 (txadjCapture n s) := by
  unfold txadjCapture
  repeat' (first | with_reducible assumption | with_reducible apply State.modLyd_keeps)

theorem txadjAnswer_keeps (n) {s : State} (h1 : Keeps ms s0 s) :
    Keeps ms s0 (txadjAnswer n s) := by
  unfold txadjAnswer
  repeat' (first
    | with_reducible assumption
    | (extract_lets +onlyGivenNames x; refine (fun hx : Keeps ms s0 x => ?_) ?_; clear_value x; on_goal 2 => subst x)
    | (extract_lets +onlyGivenNames _) | with_reducible apply State.modLyd_keeps
    | with_reducible apply State.post_keeps | with_reducible apply txadjResult_keeps | split)

theorem shapingCopied_keeps (n) {s : State} (h1 : Keeps ms s0 s) :
    Keeps ms s0 (shapingCopied n s) := by
  unfold shapingCopied
  repeat' (first
    | with_reducible assumption
    | (extract_lets +onlyGivenNames x; refine (fun hx : Keeps ms s0 x => ?_) ?_; clear_value x; on_goal 2 => subst x)
    | (extract_lets +onlyGivenNames _) | with_reducible apply txadjAnswer_keeps
    | with_reducible apply txadjCapture_keeps | with_reducible apply State.shapingDone_keeps | split)

theorem txadjTake_keeps (t) (id) (serial) (b) {s : State} (h4 : Keeps ms s0 s) :
    Keeps ms s0 (txadjTake t id serial b s) := by
  unfold txadjTake
  repeat' (first
    | with_reducible assumption
    | (extract_lets +onlyGivenNames x; refine (fun hx : Keeps ms s0 x => ?_) ?_; clear_value x; on_goal 2 => subst x)
    | (extract_lets +onlyGivenNames _) | with_reducible apply shadowTaps_keeps
    | with_reducible apply shadowBegin_keeps | with_reducible apply shadowPd_keeps
    | with_reducible apply State.put_keeps | with_reducible apply State.modLyd_keeps
    | with_reducible apply shapeApply_keeps | split)

theorem execTxadjRequestRx_keeps (n) (b) {s : State} (h2 : Keeps ms s0 s) :
    KeepsO ms s0 (execTxadjRequestRx n b s) := by
  unfold execTxadjRequestRx
  repeat' (first
    | with_reducible assumption
    | (extract_lets +onlyGivenNames x; refine (fun hx : Keeps ms s0 x => ?_) ?_; clear_value x; on_goal 2 => subst x)
    | (extract_lets +onlyGivenNames _) | with_reducible apply KeepsO.next | with_reducible apply State.frameIn_keeps
    | with_reducible apply State.lydQueue_keeps | with_reducible apply txadjResult_keeps
    | with_reducible apply txadjTake_keeps | split)

theorem execTxadjResultRx_keeps (n) (b) {s : State} (h2 : Keeps ms s0 s) :
    KeepsO ms s0 (execTxadjResultRx n b s) := by
  unfold execTxadjResultRx
  repeat' (first
    | with_reducible assumption | (extract_lets +onlyGivenNames _) | with_reducible apply KeepsO.next
    | with_reducible apply State.modLyd_keeps | with_reducible apply State.frameIn_keeps | split)

theorem userDeliver_keeps (n) (id) (msg) {s : State} (h3 : Keeps true s0 s) :
    Keeps true s0 (userDeliver n id msg s) := by
  unfold userDeliver
  repeat' (first
    | with_reducible assumption
    | (extract_lets +onlyGivenNames x; refine (fun hx : Keeps true s0 x => ?_) ?_; clear_value x; on_goal 2 => subst x)
    | (extract_lets +onlyGivenNames _) | with_reducible apply State.addSat_keeps
    | with_reducible apply State.setBytes_keeps | with_reducible apply State.post_keeps
    | with_reducible apply State.put_keeps | split)

theorem execUserFragmentRx_keeps (n) (b) {s : State} (h2 : Keeps true s0 s) :
    KeepsO true s0 (execUserFragmentRx n b s) := by
  unfold execUserFragmentRx
  repeat' (first
    | with_reducible assumption
    | (extract_lets +onlyGivenNames x; refine (fun hx : Keeps true s0 x => ?_) ?_; clear_value x; on_goal 2 => subst x)
    | (extract_lets +onlyGivenNames _) | with_reducible apply KeepsO.next | with_reducible apply State.frameIn_keeps
    | with_reducible apply userDeliver_keeps | with_reducible apply State.modLyd_keeps | split)

theorem execUserReassemblyTimeout_keeps (n) (id) {s : State} (h2 : Keeps ms s0 s) :
    KeepsO ms s0 (execUserReassemblyTimeout n id s) := by
  unfold execUserReassemblyTimeout
  repeat' (first
    | with_reducible assumption | (extract_lets +onlyGivenNames _) | with_reducible apply KeepsO.next
    | with_reducible apply State.addSat_keeps | with_reducible apply State.modLyd_keeps | split)

theorem userFreeWrite_keeps (v) {s : State} (h1 : Keeps true s0 s) :
    Keeps true s0 (userFreeWrite v s) := by
  unfold userFreeWrite
  repeat' (first
    | with_reducible assumption | (with_reducible intro _) | (extract_lets +onlyGivenNames _)
    | with_reducible apply eachBelow_keeps | with_reducible apply State.setByte_keeps
    | with_reducible apply State.put_keeps | split)

theorem lydCtrlWrite_keeps (n) (v) {s : State} (h2 : Keeps ms s0 s) :
    Keeps ms s0 (lydCtrlWrite n v s) := by
  unfold lydCtrlWrite
  repeat' (first
    | with_reducible assumption
    | (extract_lets +onlyGivenNames x; refine (fun hx : Keeps ms s0 x => ?_) ?_; clear_value x; on_goal 2 => subst x)
    | (extract_lets +onlyGivenNames _) | with_reducible apply State.writePlain_keeps
    | with_reducible apply State.put_keeps | with_reducible apply State.modLyd_keeps
    | with_reducible apply State.chainRestart_keeps | split)

theorem lydFirWrite_keeps (n) (q) (v) {s : State} (h3 : Keeps ms s0 s) :
    Keeps ms s0 (lydFirWrite n q v s) := by
  unfold lydFirWrite
  repeat' (first
    | with_reducible assumption | with_reducible apply State.put_keeps | with_reducible apply State.writePlain_keeps
    | split)

theorem lydPolWrite_keeps (n) (v) {s : State} (h2 : Keeps ms s0 s) :
    Keeps ms s0 (lydPolWrite n v s) := by
  unfold lydPolWrite
  repeat' (first
    | with_reducible assumption
    | (extract_lets +onlyGivenNames x; refine (fun hx : Keeps ms s0 x => ?_) ?_; clear_value x; on_goal 2 => subst x)
    | with_reducible apply State.writePlain_keeps | with_reducible apply txadjCapture_keeps | split)

theorem lydConfigure_keeps (c) (n) {s : State} (h2 : Keeps ms s0 s) :
    Keeps ms s0 (lydConfigure c n s) := by
  unfold lydConfigure
  repeat' (first
    | with_reducible assumption
    | (extract_lets +onlyGivenNames x; refine (fun hx : Keeps ms s0 x => ?_) ?_; clear_value x; on_goal 2 => subst x)
    | (extract_lets +onlyGivenNames _) | with_reducible apply lydCtrlWrite_keeps
    | with_reducible apply State.put_keeps | split)

theorem lydPeriods_keeps (c) {s : State} (h1 : Keeps ms s0 s) :
    Keeps ms s0 (lydPeriods c s) := by
  unfold lydPeriods
  repeat' (first
    | with_reducible assumption
    | (extract_lets +onlyGivenNames x; refine (fun hx : Keeps ms s0 x => ?_) ?_; clear_value x; on_goal 2 => subst x)
    | with_reducible apply State.put_keeps | split)

theorem execLanyardConfig_keeps (m) {s : State} (h1 : Keeps ms s0 s) :
    KeepsO ms s0 (execLanyardConfig m s) := by
  unfold execLanyardConfig
  repeat' (first
    | with_reducible assumption | (with_reducible intro _) | (extract_lets +onlyGivenNames _)
    | with_reducible apply KeepsO.next | with_reducible apply runCmd_keeps | with_reducible apply State.finish_keeps
    | with_reducible apply lydPeriods_keeps | with_reducible apply eachOf_keeps
    | with_reducible apply lydConfigure_keeps | split)

theorem userQueue_keeps (c) (n) {s : State} (h2 : Keeps ms s0 s) :
    Keeps ms s0 (userQueue c n s) := by
  unfold userQueue
  repeat' (first
    | with_reducible assumption | (with_reducible intro _)
    | (extract_lets +onlyGivenNames x; refine (fun hx : Keeps ms s0 x => ?_) ?_; clear_value x; on_goal 2 => subst x)
    | (extract_lets +onlyGivenNames _) | with_reducible apply State.modLyd_keeps
    | with_reducible apply eachBelow_keeps | with_reducible apply State.lydQueue_keeps)

theorem execLanyardSend_keeps (m) {s : State} (h1 : Keeps ms s0 s) :
    KeepsO ms s0 (execLanyardSend m s) := by
  unfold execLanyardSend
  repeat' (first
    | with_reducible assumption | (with_reducible intro _) | (extract_lets +onlyGivenNames _)
    | with_reducible apply KeepsO.next | with_reducible apply runCmd_keeps | with_reducible apply State.finish_keeps
    | with_reducible apply State.await_keeps | with_reducible apply userQueue_keeps | split)

theorem userDrop_keeps (n) (id) (others) {s : State} (h3 : Keeps ms s0 s) :
    Keeps ms s0 (userDrop n id others s) := by
  unfold userDrop
  repeat' (first | with_reducible assumption | with_reducible apply State.modLyd_keeps)

theorem execLanyardSendTimeout_keeps (n) {s : State} (h1 : Keeps ms s0 s) :
    KeepsO ms s0 (execLanyardSendTimeout n s) := by
  unfold execLanyardSendTimeout
  repeat' (first
    | with_reducible assumption
    | (extract_lets +onlyGivenNames x; refine (fun hx : Keeps ms s0 x => ?_) ?_; clear_value x; on_goal 2 => subst x)
    | (extract_lets +onlyGivenNames _) | with_reducible apply KeepsO.next | with_reducible apply userDrop_keeps
    | with_reducible apply State.finish_keeps | split)

theorem lanyardPartner_keeps (action) (f) (m) {s : State} (h1 : ∀ a0 t1, Keeps ms s0 t1 → Keeps ms s0 (f a0 t1)) (h3 : Keeps ms s0 s) :
    KeepsO ms s0 (lanyardPartner action f m s) := by
  unfold lanyardPartner
  repeat' (first
    | with_reducible assumption | (with_reducible intro _)
    | (extract_lets +onlyGivenNames x; refine (fun hx : Keeps ms s0 x => ?_) ?_; clear_value x; on_goal 2 => subst x)
    | (extract_lets +onlyGivenNames _) | with_reducible apply KeepsO.next | with_reducible apply h1
    | with_reducible apply runCmd_keeps | with_reducible apply State.finish_keeps | split)

theorem execLanyardPartnerRead_keeps (m) {s : State} (h1 : Keeps ms s0 s) :
    KeepsO ms s0 (execLanyardPartnerRead m s) := by
  unfold execLanyardPartnerRead
  repeat' (first | with_reducible assumption | (with_reducible intro _) | with_reducible apply lanyardPartner_keeps)

theorem execLanyardPartnerHello_keeps (m) {s : State} (h1 : Keeps ms s0 s) :
    KeepsO ms s0 (execLanyardPartnerHello m s) := by
  unfold execLanyardPartnerHello
  repeat' (first
    | with_reducible assumption | (with_reducible intro _) | (extract_lets +onlyGivenNames _)
    | with_reducible apply lanyardPartner_keeps | with_reducible apply State.lydQueue_keeps | split)

theorem execLanyardPartnerForget_keeps (m) {s : State} (h1 : Keeps ms s0 s) :
    KeepsO ms s0 (execLanyardPartnerForget m s) := by
  unfold execLanyardPartnerForget
  repeat' (first
    | with_reducible assumption | (with_reducible intro _) | (extract_lets +onlyGivenNames _)
    | with_reducible apply lanyardPartner_keeps | with_reducible apply partnerForget_keeps)

theorem execLanyardTxadjPolicy_keeps (m) {s : State} (h1 : Keeps ms s0 s) :
    KeepsO ms s0 (execLanyardTxadjPolicy m s) := by
  unfold execLanyardTxadjPolicy
  repeat' (first
    | with_reducible assumption | (with_reducible intro _) | (extract_lets +onlyGivenNames _)
    | with_reducible apply KeepsO.next | with_reducible apply runCmd_keeps | with_reducible apply State.finish_keeps
    | with_reducible apply eachOf_keeps | with_reducible apply txadjCapture_keeps
    | with_reducible apply lydPolWrite_keeps)

end Sys2Proof.Machine
end

