-- ==== Sys2Proof/Laws/KeepCapstan.lean ====
section
/-! SUPPORT. Sys2Proof/Laws/KeepCapstan.lean: each operation of Machine/Capstan.lean keeps what Keeps says. -/

namespace Sys2Proof.Machine

variable {ms : Bool} {s0 : State}

theorem detOf_keeps {s : State} (n) (streamB) (counted) (la) (h0 : Keeps ms s0 s) :
    Keeps ms s0 (detOf s n streamB counted la).2 := by
  unfold detOf
  repeat' (first
    | with_reducible assumption | (extract_lets +onlyGivenNames _) | with_reducible apply State.free_keeps)

theorem softValues_keeps (d) (z) {s : State} (h2 : Keeps ms s0 s) :
    Keeps ms s0 (softValues d z s).2 := by
  unfold softValues
  repeat' (first | with_reducible assumption | with_reducible apply State.free_keeps)

theorem fpCount_keeps (n) (c) (cand) {s : State} (h3 : Keeps ms s0 s) :
    Keeps ms s0 (fpCount n c cand s) := by
  unfold fpCount
  repeat' (first
    | with_reducible assumption
    | (extract_lets +onlyGivenNames x; refine (fun hx : Keeps ms s0 x => ?_) ?_; clear_value x; on_goal 2 => subst x)
    | (extract_lets +onlyGivenNames _) | with_reducible apply State.modCap_keeps
    | with_reducible apply State.perf_keeps | with_reducible apply State.addSat_keeps
    | with_reducible apply State.modLyd_keeps | split)

theorem fpStore_keeps (n) (w) {s : State} (h2 : Keeps true s0 s) :
    Keeps true s0 (fpStore n w s) := by
  unfold fpStore
  repeat' (first
    | with_reducible assumption
    | (extract_lets +onlyGivenNames x; refine (fun hx : Keeps true s0 x => ?_) ?_; clear_value x; on_goal 2 => subst x)
    | (extract_lets +onlyGivenNames _) | with_reducible apply State.modCap_keeps
    | with_reducible apply State.perf_keeps | with_reducible apply State.put_keeps
    | with_reducible apply ringWrite_keeps | split)

theorem fpEnter_keeps (n) (streamB) (pos) (dt) (z) (llr) (c) (counted) {s : State} (h8 : Keeps true s0 s) :
    Keeps true s0 (fpEnter n streamB pos dt z llr c counted s) := by
  unfold fpEnter
  repeat' (first
    | with_reducible assumption
    | (extract_lets +onlyGivenNames x; refine (fun hx : Keeps true s0 x => ?_) ?_; clear_value x; on_goal 2 => subst x)
    | (extract_lets +onlyGivenNames _) | with_reducible apply capSettle_keeps | with_reducible apply fpCount_keeps
    | with_reducible apply fpStore_keeps | split)

theorem execFirstPassDecode_keeps (n) (streamB) (pos) (dt) (w) (tie) {s : State} (h7 : Keeps true s0 s) :
    KeepsO true s0 (execFirstPassDecode n streamB pos dt w tie s) := by
  unfold execFirstPassDecode
  repeat' (first
    | with_reducible assumption | (extract_lets +onlyGivenNames _) | with_reducible apply KeepsO.next
    | with_reducible apply detOf_keeps | with_reducible apply softValues_keeps | with_reducible apply fpEnter_keeps
    | split)

theorem contextTake_keeps (e) (k) (t) (w) {s : State} (h4 : Keeps ms s0 s) :
    Keeps ms s0 (contextTake e k t w s) := by
  unfold contextTake
  repeat' (first
    | with_reducible assumption | (extract_lets +onlyGivenNames _) | with_reducible apply capSet_keeps
    | with_reducible apply State.modCap_keeps)

theorem schedule_keeps (tb) {s : State} (h1 : Keeps ms s0 s) :
    Keeps ms s0 (schedule tb s) := by
  unfold schedule
  repeat' (first
    | with_reducible assumption | (with_reducible intro _) | (extract_lets +onlyGivenNames _)
    | with_reducible apply keeps_foldl | with_reducible apply contextTake_keeps
    | with_reducible apply State.modCap_keeps)

theorem policyApply_keeps {s : State} (h0 : Keeps ms s0 s) :
    Keeps ms s0 (policyApply s) := by
  unfold policyApply
  repeat' (first | with_reducible assumption | with_reducible apply State.modCap_keeps)

theorem capLeave_keeps (tb) {s : State} (h1 : Keeps true s0 s) :
    Keeps true s0 (capLeave tb s) := by
  unfold capLeave
  repeat' (first
    | with_reducible assumption | (with_reducible intro _)
    | (extract_lets +onlyGivenNames x; refine (fun hx : Keeps true s0 x => ?_) ?_; clear_value x; on_goal 2 => subst x)
    | (extract_lets +onlyGivenNames _) | with_reducible apply keeps_foldl | with_reducible apply ringWrite_keeps
    | with_reducible apply State.modCap_keeps)

theorem wakeStep_keeps {s : State} (h0 : Keeps ms s0 s) :
    Keeps ms s0 (wakeStep s) := by
  unfold wakeStep
  repeat' (first | with_reducible assumption | with_reducible apply State.modCap_keeps)

theorem gateStep_keeps (busy) {s : State} (h1 : Keeps ms s0 s) :
    Keeps ms s0 (gateStep busy s) := by
  unfold gateStep
  repeat' (first
    | with_reducible assumption | (extract_lets +onlyGivenNames _) | with_reducible apply State.modCap_keeps)

theorem wakeMore_keeps {s : State} (h0 : Keeps ms s0 s) :
    Keeps ms s0 (wakeMore s) := by
  unfold wakeMore
  repeat' (first
    | with_reducible assumption
    | (extract_lets +onlyGivenNames x; refine (fun hx : Keeps ms s0 x => ?_) ?_; clear_value x; on_goal 2 => subst x)
    | (extract_lets +onlyGivenNames _) | with_reducible apply State.modCap_keeps
    | with_reducible apply State.perf_keeps | with_reducible apply State.addSat_keeps)

theorem sliceTurn_keeps {s : State} (h0 : Keeps true s0 s) :
    Keeps true s0 (sliceTurn s) := by
  unfold sliceTurn
  repeat' (first
    | with_reducible assumption
    | (extract_lets +onlyGivenNames x; refine (fun hx : Keeps true s0 x => ?_) ?_; clear_value x; on_goal 2 => subst x)
    | (extract_lets +onlyGivenNames _) | with_reducible apply capSettle_keeps | with_reducible apply capSlots_keeps
    | with_reducible apply State.modCap_keeps | with_reducible apply capLeave_keeps
    | with_reducible apply policyApply_keeps | with_reducible apply wakeMore_keeps
    | with_reducible apply schedule_keeps | with_reducible apply wakeStep_keeps | with_reducible apply gateStep_keeps)

theorem sliceAnswer_keeps {s : State} (h0 : Keeps ms s0 s) :
    Keeps ms s0 (sliceAnswer s) := by
  unfold sliceAnswer
  repeat' (first
    | with_reducible assumption | (with_reducible intro _)
    | (extract_lets +onlyGivenNames x; refine (fun hx : Keeps ms s0 x => ?_) ?_; clear_value x; on_goal 2 => subst x)
    | (extract_lets +onlyGivenNames _) | with_reducible apply State.modCap_keeps | with_reducible apply eachOf_keeps
    | with_reducible apply State.finish_keeps | split)

theorem execSliceBoundary_keeps {s : State} (h0 : Keeps true s0 s) :
    KeepsO true s0 (execSliceBoundary s) := by
  unfold execSliceBoundary
  repeat' (first
    | with_reducible assumption | (extract_lets +onlyGivenNames _) | with_reducible apply KeepsO.next
    | with_reducible apply sliceAnswer_keeps | with_reducible apply sliceTurn_keeps | split)

theorem iterateCw_keeps (w) (tie) {s : State} (h2 : Keeps ms s0 s) :
    Keeps ms s0 (iterateCw w tie s) := by
  unfold iterateCw
  repeat' (first
    | with_reducible assumption | (extract_lets +onlyGivenNames _) | with_reducible apply detOf_keeps
    | with_reducible apply softValues_keeps | with_reducible apply State.modCap_keeps
    | with_reducible apply capSet_keeps)

theorem execCapstanIterationResult_keeps (e) (k) (dt) (tie) {s : State} (h4 : Keeps ms s0 s) :
    KeepsO ms s0 (execCapstanIterationResult e k dt tie s) := by
  unfold execCapstanIterationResult
  repeat' (first
    | with_reducible assumption | (extract_lets +onlyGivenNames _) | with_reducible apply KeepsO.next
    | with_reducible apply iterateCw_keeps | with_reducible apply State.modCap_keeps | split)

theorem takeNext_keeps (e) (k) (t) {s : State} (h3 : Keeps ms s0 s) :
    Keeps ms s0 (takeNext e k t s) := by
  unfold takeNext
  repeat' (first
    | with_reducible assumption
    | (extract_lets +onlyGivenNames x; refine (fun hx : Keeps ms s0 x => ?_) ?_; clear_value x; on_goal 2 => subst x)
    | (extract_lets +onlyGivenNames _) | with_reducible apply State.modCap_keeps
    | with_reducible apply contextTake_keeps | split)

theorem contextEmpty_keeps (e) (k) (t) {s : State} (h3 : Keeps ms s0 s) :
    Keeps ms s0 (contextEmpty e k t s) := by
  unfold contextEmpty
  repeat' (first
    | with_reducible assumption
    | (extract_lets +onlyGivenNames x; refine (fun hx : Keeps ms s0 x => ?_) ?_; clear_value x; on_goal 2 => subst x)
    | (extract_lets +onlyGivenNames _) | with_reducible apply takeNext_keeps | with_reducible apply capSlots_keeps
    | with_reducible apply State.modCap_keeps | split)

theorem execWritebackEntry_keeps (e) (k) (dt) {s : State} (h3 : Keeps true s0 s) :
    KeepsO true s0 (execWritebackEntry e k dt s) := by
  unfold execWritebackEntry
  repeat' (first
    | with_reducible assumption
    | (extract_lets +onlyGivenNames x; refine (fun hx : Keeps true s0 x => ?_) ?_; clear_value x; on_goal 2 => subst x)
    | (extract_lets +onlyGivenNames _) | with_reducible apply KeepsO.next | with_reducible apply capSettle_keeps
    | with_reducible apply contextEmpty_keeps | with_reducible apply takeNext_keeps
    | with_reducible apply ringWrite_keeps | with_reducible apply capSet_keeps | with_reducible apply capSlots_keeps
    | with_reducible apply State.modCap_keeps | split)

theorem iterCount_keeps (w) (ret) {s : State} (h2 : Keeps ms s0 s) :
    Keeps ms s0 (iterCount w ret s) := by
  unfold iterCount
  repeat' (first
    | with_reducible assumption
    | (extract_lets +onlyGivenNames x; refine (fun hx : Keeps ms s0 x => ?_) ?_; clear_value x; on_goal 2 => subst x)
    | (extract_lets +onlyGivenNames _) | with_reducible apply State.perf_keeps | with_reducible apply capCount_keeps
    | with_reducible apply capSlots_keeps)

theorem releaseCount_keeps (w) (hold) {s : State} (h2 : Keeps ms s0 s) :
    Keeps ms s0 (releaseCount w hold s) := by
  unfold releaseCount
  repeat' (first
    | with_reducible assumption
    | (extract_lets +onlyGivenNames x; refine (fun hx : Keeps ms s0 x => ?_) ?_; clear_value x; on_goal 2 => subst x)
    | (extract_lets +onlyGivenNames _) | with_reducible apply capCount_keeps | with_reducible apply iterCount_keeps
    | with_reducible apply fathomOffer_keeps | split)

theorem loopRelease_keeps (n) (streamB) (p) {s : State} (h3 : Keeps ms s0 s) :
    Keeps ms s0 (loopRelease n streamB p s) := by
  unfold loopRelease
  repeat' (first | with_reducible assumption | with_reducible apply State.modTx_keeps | split)

theorem releaseCw_keeps (n) (w) (rel) {s : State} (h3 : Keeps true s0 s) :
    Keeps true s0 (releaseCw n w rel s) := by
  unfold releaseCw
  repeat' (first
    | with_reducible assumption
    | (extract_lets +onlyGivenNames x; refine (fun hx : Keeps true s0 x => ?_) ?_; clear_value x; on_goal 2 => subst x)
    | (extract_lets +onlyGivenNames _) | with_reducible apply portMove_keeps | with_reducible apply ringWrite_keeps
    | with_reducible apply releaseCount_keeps | with_reducible apply State.modCap_keeps
    | with_reducible apply loopRelease_keeps | with_reducible apply capSet_keeps)

theorem dropOwn_keeps (k) (streamB) (pos) {s : State} (h3 : Keeps ms s0 s) :
    Keeps ms s0 (dropOwn k streamB pos s) := by
  unfold dropOwn
  repeat' (first
    | with_reducible assumption | (with_reducible intro _)
    | (extract_lets +onlyGivenNames x; refine (fun hx : Keeps ms s0 x => ?_) ?_; clear_value x; on_goal 2 => subst x)
    | (extract_lets +onlyGivenNames _) | with_reducible apply keeps_foldl | with_reducible apply iterCount_keeps
    | with_reducible apply State.modCap_keeps)

theorem releaseStandIn_keeps (n) (streamB) (pos) (t) {s : State} (h4 : Keeps true s0 s) :
    Keeps true s0 (releaseStandIn n streamB pos t s) := by
  unfold releaseStandIn
  repeat' (first
    | with_reducible assumption | (extract_lets +onlyGivenNames _) | with_reducible apply dropOwn_keeps
    | with_reducible apply releaseCw_keeps | with_reducible apply capCount_keeps
    | with_reducible apply State.modCap_keeps | split)

theorem releaseL8_keeps (n) (streamB) (pos) (t) {s : State} (h4 : Keeps true s0 s) :
    Keeps true s0 (releaseL8 n streamB pos t s) := by
  unfold releaseL8
  repeat' (first
    | with_reducible assumption | (extract_lets +onlyGivenNames _) | with_reducible apply dropOwn_keeps
    | with_reducible apply releaseCw_keeps | with_reducible apply releaseStandIn_keeps | split)

theorem execCodewordRelease_keeps (n) (streamB) (dt) {s : State} (h3 : Keeps true s0 s) :
    KeepsO true s0 (execCodewordRelease n streamB dt s) := by
  unfold execCodewordRelease
  repeat' (first
    | with_reducible assumption
    | (extract_lets +onlyGivenNames x; refine (fun hx : Keeps true s0 x => ?_) ?_; clear_value x; on_goal 2 => subst x)
    | (extract_lets +onlyGivenNames _) | with_reducible apply KeepsO.next | with_reducible apply capSettle_keeps
    | with_reducible apply releaseL8_keeps | with_reducible apply releaseCw_keeps | split)

theorem wasteWindow_keeps {s : State} (h0 : Keeps ms s0 s) :
    Keeps ms s0 (wasteWindow s) := by
  unfold wasteWindow
  repeat' (first
    | with_reducible assumption | (extract_lets +onlyGivenNames _) | with_reducible apply State.free_keeps
    | with_reducible apply State.freeRound_keeps | with_reducible apply State.put_keeps
    | with_reducible apply State.modProt_keeps | split)

theorem execWasteWindowEnd_keeps {s : State} (h0 : Keeps ms s0 s) :
    KeepsO ms s0 (execWasteWindowEnd s) := by
  unfold execWasteWindowEnd
  repeat' (first
    | with_reducible assumption | (extract_lets +onlyGivenNames _) | with_reducible apply KeepsO.next
    | with_reducible apply State.fire_keeps | with_reducible apply wasteWindow_keeps | split)

theorem capCtrlRegWrite_keeps (v) {s : State} (h1 : Keeps ms s0 s) :
    Keeps ms s0 (capCtrlRegWrite v s) := by
  unfold capCtrlRegWrite
  repeat' (first
    | with_reducible assumption
    | (extract_lets +onlyGivenNames x; refine (fun hx : Keeps ms s0 x => ?_) ?_; clear_value x; on_goal 2 => subst x)
    | (extract_lets +onlyGivenNames _) | with_reducible apply State.writePlain_keeps
    | with_reducible apply State.put_keeps | split)

theorem capSnapWrite_keeps (v) {s : State} (h1 : Keeps ms s0 s) :
    Keeps ms s0 (capSnapWrite v s) := by
  unfold capSnapWrite
  repeat' (first
    | with_reducible assumption | (with_reducible intro _)
    | (extract_lets +onlyGivenNames x; refine (fun hx : Keeps ms s0 x => ?_) ?_; clear_value x; on_goal 2 => subst x)
    | (extract_lets +onlyGivenNames _) | with_reducible apply eachBelow_keeps
    | with_reducible apply State.setWord_keeps | with_reducible apply State.incWrap_keeps | split)

theorem capTake_keeps (c) (w) (ap) (hi) (lo) (f) (n) {s : State} (h7 : Keeps ms s0 s) :
    Keeps ms s0 (capTake c w ap hi lo f n s) := by
  unfold capTake
  repeat' (first | with_reducible assumption | with_reducible apply State.put_keeps | split)

theorem capPolicySet_keeps (c) {s : State} (h1 : Keeps ms s0 s) :
    Keeps ms s0 (capPolicySet c s) := by
  unfold capPolicySet
  repeat' (first
    | with_reducible assumption | (with_reducible intro _)
    | (extract_lets +onlyGivenNames x; refine (fun hx : Keeps ms s0 x => ?_) ?_; clear_value x; on_goal 2 => subst x)
    | (extract_lets +onlyGivenNames _) | with_reducible apply eachOf_keeps | with_reducible apply capTake_keeps
    | with_reducible apply State.modCap_keeps | with_reducible apply State.await_keeps)

theorem execCapstanSetPolicy_keeps (m) {s : State} (h1 : Keeps ms s0 s) :
    KeepsO ms s0 (execCapstanSetPolicy m s) := by
  unfold execCapstanSetPolicy
  repeat' (first
    | with_reducible assumption | (with_reducible intro _) | (extract_lets +onlyGivenNames _)
    | with_reducible apply KeepsO.next | with_reducible apply runCmd_keeps | with_reducible apply State.finish_keeps
    | with_reducible apply capPolicySet_keeps | split)

theorem coreStart_keeps {s : State} (h0 : Keeps true s0 s) :
    Keeps true s0 (coreStart s) := by
  unfold coreStart
  repeat' (first
    | with_reducible assumption | (with_reducible intro _)
    | (extract_lets +onlyGivenNames x; refine (fun hx : Keeps true s0 x => ?_) ?_; clear_value x; on_goal 2 => subst x)
    | (extract_lets +onlyGivenNames _) | with_reducible apply State.modCap_keeps
    | with_reducible apply policyApply_keeps | with_reducible apply eachBelow_keeps
    | with_reducible apply State.setByte_keeps | with_reducible apply State.modWinch_keeps | split)

theorem capDrop_keeps (n) {s : State} (h1 : Keeps ms s0 s) :
    Keeps ms s0 (capDrop n s) := by
  unfold capDrop
  repeat' (first | with_reducible assumption | with_reducible apply State.modCap_keeps)

end Sys2Proof.Machine
end

