-- ==== Sys2Proof/Laws/KeepFrames.lean ====
section
/-! SUPPORT. Sys2Proof/Laws/KeepFrames.lean: each operation of Machine/Frames.lean keeps what Keeps says. -/

namespace Sys2Proof.Machine

variable {ms : Bool} {s0 : State}

theorem hostLeft_keeps (h) {s : State} (h1 : Keeps ms s0 s) :
    Keeps ms s0 (hostLeft h s) := by
  unfold hostLeft
  repeat' (first
    | with_reducible assumption | (extract_lets +onlyGivenNames _) | with_reducible apply State.modHst_keeps
    | with_reducible apply State.hostOff_keeps | split)

theorem cfgPend_keeps (n) (w) {s : State} (h2 : Keeps ms s0 s) :
    Keeps ms s0 (cfgPend n w s) := by
  unfold cfgPend
  repeat' (first
    | with_reducible assumption | (with_reducible intro _) | (extract_lets +onlyGivenNames _)
    | with_reducible apply eachBelow_keeps | with_reducible apply hostLeft_keeps
    | with_reducible apply State.put_keeps | with_reducible apply State.modTx_keeps)

theorem rxRestart_keeps (k) {s : State} (h1 : Keeps ms s0 s) :
    Keeps ms s0 (rxRestart k s) := by
  unfold rxRestart
  repeat' (first
    | with_reducible assumption
    | (extract_lets +onlyGivenNames x; refine (fun hx : Keeps ms s0 x => ?_) ?_; clear_value x; on_goal 2 => subst x)
    | (extract_lets +onlyGivenNames _) | with_reducible apply State.rxLost_keeps
    | with_reducible apply State.winchSpoil_keeps | with_reducible apply State.put_keeps
    | with_reducible apply State.eqLoad_keeps)

theorem sourcesChanged_keeps (k) (m0) (old) {s : State} (h3 : Keeps ms s0 s) :
    Keeps ms s0 (sourcesChanged k m0 old s) := by
  unfold sourcesChanged
  repeat' (first
    | with_reducible assumption
    | (extract_lets +onlyGivenNames x; refine (fun hx : Keeps ms s0 x => ?_) ?_; clear_value x; on_goal 2 => subst x)
    | with_reducible apply State.txFramingLost_keeps | split)

theorem lineChanged_keeps (k) (m0) (old) {s : State} (h3 : Keeps ms s0 s) :
    Keeps ms s0 (lineChanged k m0 old s) := by
  unfold lineChanged
  repeat' (first
    | with_reducible assumption
    | (extract_lets +onlyGivenNames x; refine (fun hx : Keeps ms s0 x => ?_) ?_; clear_value x; on_goal 2 => subst x)
    | (extract_lets +onlyGivenNames _) | with_reducible apply sourcesChanged_keeps
    | with_reducible apply State.squelch_keeps | with_reducible apply rxRestart_keeps
    | with_reducible apply State.modRx_keeps | with_reducible apply State.put_keeps
    | with_reducible apply capDrop_keeps | with_reducible apply State.chainRestart_keeps | split)

theorem pllChanged_keeps (k) {s : State} (h1 : Keeps ms s0 s) :
    Keeps ms s0 (pllChanged k s) := by
  unfold pllChanged
  repeat' (first
    | with_reducible assumption | (extract_lets +onlyGivenNames _) | with_reducible apply State.squelch_keeps
    | with_reducible apply pllRecal_keeps | with_reducible apply State.modPll_keeps | split)

theorem hostChanged_keeps (h) (m0) {s : State} (h2 : Keeps ms s0 s) :
    Keeps ms s0 (hostChanged h m0 s) := by
  unfold hostChanged
  repeat' (first
    | with_reducible assumption
    | (extract_lets +onlyGivenNames x; refine (fun hx : Keeps ms s0 x => ?_) ?_; clear_value x; on_goal 2 => subst x)
    | (extract_lets +onlyGivenNames _) | with_reducible apply State.hostOff_keeps
    | with_reducible apply State.hostLost_keeps | with_reducible apply State.put_keeps
    | with_reducible apply State.winchSpoil_keeps | with_reducible apply State.modHst_keeps
    | with_reducible apply State.eqLoadHost_keeps | with_reducible apply State.ctleStart_keeps | split)

theorem cfgApply_keeps (n) (w) {s : State} (h2 : Keeps ms s0 s) :
    Keeps ms s0 (cfgApply n w s) := by
  unfold cfgApply
  repeat' (first
    | with_reducible assumption | (with_reducible intro _)
    | (extract_lets +onlyGivenNames x; refine (fun hx : Keeps ms s0 x => ?_) ?_; clear_value x; on_goal 2 => subst x)
    | (extract_lets +onlyGivenNames _) | with_reducible apply State.put_keeps
    | with_reducible apply State.setWord_keeps | with_reducible apply State.modLanes_keeps
    | with_reducible apply eachBelow_keeps | with_reducible apply pllChanged_keeps
    | with_reducible apply lineChanged_keeps | with_reducible apply hostChanged_keeps
    | with_reducible apply State.modHst_keeps | with_reducible apply State.refreshHosts_keeps
    | with_reducible apply State.demand_keeps | with_reducible apply rsmRoles_keeps | split)

theorem cfgTake_keeps (n) {s : State} (h1 : Keeps ms s0 s) :
    Keeps ms s0 (cfgTake n s) := by
  unfold cfgTake
  repeat' (first
    | with_reducible assumption | (extract_lets +onlyGivenNames _) | with_reducible apply State.cfgDone_keeps
    | with_reducible apply cfgApply_keeps | split)

theorem laneCfgWrite_keeps (n) (v) {s : State} (h2 : Keeps ms s0 s) :
    Keeps ms s0 (laneCfgWrite n v s) := by
  unfold laneCfgWrite
  repeat' (first
    | with_reducible assumption | (extract_lets +onlyGivenNames _) | with_reducible apply State.put_keeps
    | with_reducible apply cfgPend_keeps | split)

theorem laneMapCmd_keeps (c) (ch) {s : State} (h2 : Keeps ms s0 s) :
    Keeps ms s0 (laneMapCmd c ch s) := by
  unfold laneMapCmd
  repeat' (first
    | with_reducible assumption | (with_reducible intro _) | (extract_lets +onlyGivenNames _)
    | with_reducible apply keeps_foldl | with_reducible apply State.finish_keeps
    | with_reducible apply State.await_keeps | with_reducible apply cfgPend_keeps | split)

theorem execLaneSetMode_keeps (m) {s : State} (h1 : Keeps ms s0 s) :
    KeepsO ms s0 (execLaneSetMode m s) := by
  unfold execLaneSetMode
  repeat' (first
    | with_reducible assumption | (with_reducible intro _) | (extract_lets +onlyGivenNames _)
    | with_reducible apply KeepsO.next | with_reducible apply runCmd_keeps | with_reducible apply laneMapCmd_keeps)

theorem execLaneMap_keeps (m) {s : State} (h1 : Keeps ms s0 s) :
    KeepsO ms s0 (execLaneMap m s) := by
  unfold execLaneMap
  repeat' (first
    | with_reducible assumption | (with_reducible intro _) | (extract_lets +onlyGivenNames _)
    | with_reducible apply KeepsO.next | with_reducible apply runCmd_keeps | with_reducible apply laneMapCmd_keeps)

theorem setSearch_keeps (f) (x) {s : State} (h2 : Keeps ms s0 s) :
    Keeps ms s0 (setSearch f x s) := by
  unfold setSearch
  repeat' (first
    | with_reducible assumption | with_reducible apply State.modTx_keeps | with_reducible apply State.modRx_keeps
    | with_reducible apply State.modHst_keeps | split)

theorem streamFramed_keeps (n) (b) {s : State} (h2 : Keeps ms s0 s) :
    Keeps ms s0 (streamFramed n b s) := by
  unfold streamFramed
  repeat' (first
    | with_reducible assumption
    | (extract_lets +onlyGivenNames x; refine (fun hx : Keeps ms s0 x => ?_) ?_; clear_value x; on_goal 2 => subst x)
    | (extract_lets +onlyGivenNames _) | with_reducible apply State.put_keeps
    | with_reducible apply State.preClear_keeps | with_reducible apply bufferCentre_keeps
    | with_reducible apply State.modTx_keeps | split)

theorem framerLocked_keeps (f) {s : State} (h1 : Keeps ms s0 s) :
    Keeps ms s0 (framerLocked f s) := by
  unfold framerLocked
  repeat' (first
    | with_reducible assumption
    | (extract_lets +onlyGivenNames x; refine (fun hx : Keeps ms s0 x => ?_) ?_; clear_value x; on_goal 2 => subst x)
    | (extract_lets +onlyGivenNames _) | with_reducible apply streamFramed_keeps
    | with_reducible apply State.put_keeps | with_reducible apply State.modWinch_keeps
    | with_reducible apply State.modRx_keeps | split)

theorem execAmGroupArrival_keeps (f) (onPeriod) {s : State} (h2 : Keeps ms s0 s) :
    KeepsO ms s0 (execAmGroupArrival f onPeriod s) := by
  unfold execAmGroupArrival
  repeat' (first
    | with_reducible assumption | (extract_lets +onlyGivenNames _) | with_reducible apply KeepsO.next
    | with_reducible apply setSearch_keeps | with_reducible apply framerLocked_keeps | split)

theorem execAmPositionMissed_keeps (f) {s : State} (h1 : Keeps ms s0 s) :
    KeepsO ms s0 (execAmPositionMissed f s) := by
  unfold execAmPositionMissed
  repeat' (first
    | with_reducible assumption | (extract_lets +onlyGivenNames _) | with_reducible apply KeepsO.next
    | with_reducible apply setSearch_keeps | with_reducible apply State.txFramingLost_keeps
    | with_reducible apply State.rxFramingLost_keeps | with_reducible apply State.rsmCheck_keeps
    | with_reducible apply State.modWinch_keeps | with_reducible apply State.put_keeps | split)

theorem txChanges_keeps (n) {s : State} (h1 : Keeps ms s0 s) :
    Keeps ms s0 (txChanges n s) := by
  unfold txChanges
  repeat' (first
    | with_reducible assumption
    | (extract_lets +onlyGivenNames x; refine (fun hx : Keeps ms s0 x => ?_) ?_; clear_value x; on_goal 2 => subst x)
    | (extract_lets +onlyGivenNames _) | with_reducible apply shapeCopy_keeps
    | with_reducible apply shapingCopied_keeps | with_reducible apply txCalBoundary_keeps
    | with_reducible apply driverApply_keeps | with_reducible apply State.patternDone_keeps
    | with_reducible apply patApply_keeps | split)

theorem squelchEnd_keeps (n) {s : State} (h1 : Keeps ms s0 s) :
    Keeps ms s0 (squelchEnd n s) := by
  unfold squelchEnd
  repeat' (first | with_reducible assumption | with_reducible apply State.squelch_keeps)

theorem rxChanges_keeps (n) (framed) {s : State} (h2 : Keeps ms s0 s) :
    Keeps ms s0 (rxChanges n framed s) := by
  unfold rxChanges
  repeat' (first
    | with_reducible assumption
    | (extract_lets +onlyGivenNames x; refine (fun hx : Keeps ms s0 x => ?_) ?_; clear_value x; on_goal 2 => subst x)
    | (extract_lets +onlyGivenNames _) | with_reducible apply State.eqCopy_keeps
    | with_reducible apply tiaBoundary_keeps | with_reducible apply State.modRx_keeps
    | with_reducible apply State.eqDone_keeps | with_reducible apply rxCalBoundary_keeps)

theorem txBoundary_keeps (n) (fillA) (fillB) {s : State} (h3 : Keeps ms s0 s) :
    Keeps ms s0 (txBoundary n fillA fillB s) := by
  unfold txBoundary
  repeat' (first
    | with_reducible assumption
    | (extract_lets +onlyGivenNames x; refine (fun hx : Keeps ms s0 x => ?_) ?_; clear_value x; on_goal 2 => subst x)
    | (extract_lets +onlyGivenNames _) | with_reducible apply bufferFill_keeps
    | with_reducible apply State.perf_keeps | with_reducible apply State.incWrap_keeps
    | with_reducible apply State.modTx_keeps | with_reducible apply State.queueStamp_keeps
    | with_reducible apply olcBoundary_keeps | with_reducible apply txChanges_keeps
    | with_reducible apply cfgTake_keeps | with_reducible apply squelchEnd_keeps | split)

theorem skewMeasure_keeps {s : State} (h0 : Keeps ms s0 s) :
    Keeps ms s0 (skewMeasure s) := by
  unfold skewMeasure
  repeat' (first
    | with_reducible assumption
    | (extract_lets +onlyGivenNames x; refine (fun hx : Keeps ms s0 x => ?_) ?_; clear_value x; on_goal 2 => subst x)
    | (extract_lets +onlyGivenNames _) | with_reducible apply State.modProt_keeps
    | with_reducible apply State.put_keeps | with_reducible apply State.armCheck_keeps | split)

theorem rxBoundary_keeps (n) {s : State} (h1 : Keeps ms s0 s) :
    Keeps ms s0 (rxBoundary n s) := by
  unfold rxBoundary
  repeat' (first
    | with_reducible assumption
    | (extract_lets +onlyGivenNames x; refine (fun hx : Keeps ms s0 x => ?_) ?_; clear_value x; on_goal 2 => subst x)
    | (extract_lets +onlyGivenNames _) | with_reducible apply State.capSource_keeps
    | with_reducible apply State.modRx_keeps | with_reducible apply State.perf_keeps
    | with_reducible apply State.put_keeps | with_reducible apply State.queueStamp_keeps
    | with_reducible apply rxChanges_keeps | with_reducible apply rotate_keeps
    | with_reducible apply State.modProt_keeps | with_reducible apply skewMeasure_keeps | split)

theorem execPendingChangeNoFraming_keeps (u) {s : State} (h1 : Keeps ms s0 s) :
    KeepsO ms s0 (execPendingChangeNoFraming u s) := by
  unfold execPendingChangeNoFraming
  repeat' (first
    | with_reducible assumption
    | (extract_lets +onlyGivenNames x; refine (fun hx : Keeps ms s0 x => ?_) ?_; clear_value x; on_goal 2 => subst x)
    | (extract_lets +onlyGivenNames _) | with_reducible apply KeepsO.next | with_reducible apply txChanges_keeps
    | with_reducible apply cfgTake_keeps | with_reducible apply State.squelch_keeps
    | with_reducible apply State.probeEnter_keeps | with_reducible apply rxChanges_keeps
    | with_reducible apply hostRxApply_keeps | with_reducible apply State.releaseHost_keeps
    | with_reducible apply hostTxApply_keeps | split)

end Sys2Proof.Machine
end

