-- ==== Sys2Proof/Laws/KeepReset.lean ====
section
/-! SUPPORT. Sys2Proof/Laws/KeepReset.lean: each operation of Machine/Reset.lean keeps what Keeps says. -/

namespace Sys2Proof.Machine

variable {ms : Bool} {s0 : State}

theorem State.resetRegs_keeps {s : State} (pick) (h0 : Keeps ms s0 s) :
    Keeps ms s0 (State.resetRegs s pick) := 
  h0.trans ⟨rfl, id, fun b => keysRise_filter _ _ _ b, id, Otp.Grows.refl _, fun _ => ⟨rfl, rfl⟩⟩

theorem State.abortLine_keeps {s : State} (n) (h0 : Keeps ms s0 s) :
    Keeps ms s0 (State.abortLine s n) := by
  unfold State.abortLine
  repeat' (first | with_reducible assumption | with_reducible apply State.finishWhere_keeps)

theorem State.olcReset_keeps {s : State} (n) (h0 : Keeps ms s0 s) :
    Keeps ms s0 (State.olcReset s n) := by
  unfold State.olcReset
  repeat' (first
    | with_reducible assumption | (with_reducible intro _)
    | (extract_lets +onlyGivenNames x; refine (fun hx : Keeps ms s0 x => ?_) ?_; clear_value x; on_goal 2 => subst x)
    | (extract_lets +onlyGivenNames _) | with_reducible apply State.put_keeps
    | with_reducible apply State.modOlc_keeps | with_reducible apply State.dropStep_keeps
    | with_reducible apply State.probeExit_keeps | with_reducible apply State.setLane_keeps
    | with_reducible apply rangeStore_keeps | with_reducible apply State.modChan_keeps
    | with_reducible apply eachBelow_keeps | split)

theorem State.spareReset_keeps {s : State} (h0 : Keeps true s0 s) :
    Keeps true s0 (State.spareReset s) := by
  unfold State.spareReset
  repeat' (first
    | with_reducible assumption
    | (extract_lets +onlyGivenNames x; refine (fun hx : Keeps true s0 x => ?_) ?_; clear_value x; on_goal 2 => subst x)
    | (extract_lets +onlyGivenNames _) | with_reducible apply State.abandon_keeps
    | with_reducible apply State.notify_keeps | with_reducible apply State.postBare_keeps
    | with_reducible apply State.modProt_keeps | with_reducible apply State.l8Return_keeps | split)

theorem laneReset_keeps (n) {s : State} (h1 : Keeps true s0 s) :
    Keeps true s0 (laneReset n s) := by
  unfold laneReset
  repeat' (first
    | with_reducible assumption
    | (extract_lets +onlyGivenNames x; refine (fun hx : Keeps true s0 x => ?_) ?_; clear_value x; on_goal 2 => subst x)
    | (extract_lets +onlyGivenNames _) | with_reducible apply State.spareReset_keeps
    | with_reducible apply State.olcReset_keeps | with_reducible apply State.abortLine_keeps
    | with_reducible apply cfgApply_keeps | with_reducible apply State.winchSpoil_keeps
    | with_reducible apply State.phyLost_keeps | with_reducible apply State.rxDown_keeps
    | with_reducible apply partnerClear_keeps | with_reducible apply capDrop_keeps
    | with_reducible apply State.resetRegs_keeps | with_reducible apply State.modRx_keeps
    | with_reducible apply State.modTx_keeps | with_reducible apply State.modLyd_keeps
    | with_reducible apply State.put_keeps | with_reducible apply State.modWinch_keeps
    | with_reducible apply State.modProt_keeps | with_reducible apply State.refreshHosts_keeps
    | with_reducible apply State.demand_keeps | split)

theorem hostReset_keeps (h) {s : State} (h1 : Keeps ms s0 s) :
    Keeps ms s0 (hostReset h s) := by
  unfold hostReset
  repeat' (first
    | with_reducible assumption
    | (extract_lets +onlyGivenNames x; refine (fun hx : Keeps ms s0 x => ?_) ?_; clear_value x; on_goal 2 => subst x)
    | (extract_lets +onlyGivenNames _) | with_reducible apply State.finishWhere_keeps
    | with_reducible apply State.hostDown_keeps | with_reducible apply State.resetRegs_keeps
    | with_reducible apply State.modHst_keeps | with_reducible apply State.put_keeps
    | with_reducible apply State.modWinch_keeps | with_reducible apply State.refreshHost_keeps
    | with_reducible apply rsmRoles_keeps)

theorem laneRstWrite_keeps (v) {s : State} (h1 : Keeps true s0 s) :
    Keeps true s0 (laneRstWrite v s) := by
  unfold laneRstWrite
  repeat' (first
    | with_reducible assumption | (with_reducible intro _)
    | (extract_lets +onlyGivenNames x; refine (fun hx : Keeps true s0 x => ?_) ?_; clear_value x; on_goal 2 => subst x)
    | (extract_lets +onlyGivenNames _) | with_reducible apply eachBelow_keeps | with_reducible apply laneReset_keeps
    | with_reducible apply hostReset_keeps | split)

theorem otpCal_keeps {s : State} (h0 : Keeps ms s0 s) :
    Keeps ms s0 (otpCal s) := by
  unfold otpCal
  repeat' (first
    | with_reducible assumption | (with_reducible intro _) | (extract_lets +onlyGivenNames _)
    | with_reducible apply keeps_foldl | with_reducible apply State.writePlain_keeps | split)

theorem State.deviceReset_keeps {s : State} (por) (cause) (h0 : Keeps true s0 s) :
    Keeps true s0 (State.deviceReset s por cause) := by
  unfold State.deviceReset
  apply State.put_keeps
  apply otpCal_keeps
  refine h0.trans ⟨rfl, fun _ => rfl, fun b => ?_, fun _ => rfl, Otp.Grows.refl _, fun e => nomatch e⟩
  unfold Registers.wf
  dsimp only
  split
  · rfl
  · exact keysRise_filter _ _ _ b

end Sys2Proof.Machine
end

