-- ==== Sys2Proof/Laws/KeepFirmware.lean ====
section
/-! SUPPORT. Sys2Proof/Laws/KeepFirmware.lean: each operation of Machine/Firmware.lean keeps what Keeps says. -/

namespace Sys2Proof.Machine

variable {ms : Bool} {s0 : State}

theorem State.modFw_keeps {s : State} (f : Fw → Fw) (h0 : Keeps ms s0 s) (ho : ∀ w : Fw, (f w).otp = w.otp) :
    Keeps ms s0 (s.modFw f) := Keeps.lit h0 (Mbx.Within.refl _) (Nat.le_max_right ..) (Nat.le_max_right ..)
  (ho _)

theorem State.modCmis_keeps {s : State} (f) (h0 : Keeps ms s0 s) :
    Keeps ms s0 (State.modCmis s f) := by
  unfold State.modCmis
  repeat' (first
    | (extract_lets +onlyGivenNames _) | with_reducible exact Nat.le_max_right _ _
    | with_reducible exact Mbx.Within.refl _ | (with_reducible apply Keeps.lit; with_reducible assumption)
    | dsimp +zetaDelta only)

theorem State.modPwr_keeps {s : State} (f) (h0 : Keeps ms s0 s) :
    Keeps ms s0 (State.modPwr s f) := by
  unfold State.modPwr
  repeat' (first
    | (extract_lets +onlyGivenNames _) | with_reducible exact Nat.le_max_right _ _
    | with_reducible exact Mbx.Within.refl _ | (with_reducible apply Keeps.lit; with_reducible assumption)
    | dsimp +zetaDelta only)

theorem State.modBst_keeps {s : State} (f) (h0 : Keeps ms s0 s) :
    Keeps ms s0 (State.modBst s f) := by
  unfold State.modBst
  repeat' (first
    | (extract_lets +onlyGivenNames _) | with_reducible exact Nat.le_max_right _ _
    | with_reducible exact Mbx.Within.refl _ | (with_reducible apply Keeps.lit; with_reducible assumption)
    | dsimp +zetaDelta only)

theorem State.noteFail_keeps {s : State} (f) (h0 : Keeps ms s0 s) :
    Keeps ms s0 (State.noteFail s f) := by
  unfold State.noteFail
  repeat' (first | with_reducible assumption | with_reducible apply State.put_keeps | split)

theorem loadImage_keeps (r) {s : State} (h1 : Keeps true s0 s) :
    Keeps true s0 (loadImage r s) := by
  unfold loadImage
  repeat' (first
    | with_reducible assumption | (with_reducible intro _) | (extract_lets +onlyGivenNames _)
    | with_reducible apply keeps_foldl | with_reducible apply State.setBytes_keeps | split)

theorem State.flashWrite_keeps {s : State} (o) (bs) (h0 : Keeps ms s0 s) :
    Keeps ms s0 (State.flashWrite s o bs) := by
  unfold State.flashWrite
  repeat' (first
    | with_reducible assumption | (with_reducible intro _) | (extract_lets +onlyGivenNames _)
    | with_reducible apply State.modFw_keeps | dsimp +zetaDelta only)

theorem State.bootBit_keeps {s : State} (b) (v) (h0 : Keeps ms s0 s) :
    Keeps ms s0 (State.bootBit s b v) := by
  unfold State.bootBit
  repeat' (first | with_reducible assumption | with_reducible apply State.put_keeps)

theorem persBoot_keeps {s : State} (h0 : Keeps ms s0 s) :
    Keeps ms s0 (persBoot s) := by
  unfold persBoot
  repeat' (first
    | with_reducible assumption | (with_reducible intro _)
    | (extract_lets +onlyGivenNames x; refine (fun hx : Keeps ms s0 x => ?_) ?_; clear_value x; on_goal 2 => subst x)
    | (extract_lets +onlyGivenNames _) | with_reducible apply keeps_foldl | with_reducible apply State.noteFail_keeps
    | with_reducible apply State.writePlain_keeps | with_reducible apply eachBelow_keeps
    | with_reducible apply State.modMbx_keeps | with_reducible apply State.put_keeps
    | with_reducible apply State.modFw_keeps | split | dsimp +zetaDelta only
    | (with_reducible apply Mbx.Within.keep; done))

theorem State.ledgerAppend_keeps {s : State} (r) (h0 : Keeps ms s0 s) :
    Keeps ms s0 (State.ledgerAppend s r) := by
  unfold State.ledgerAppend
  repeat' (first
    | with_reducible assumption
    | (extract_lets +onlyGivenNames x; refine (fun hx : Keeps ms s0 x => ?_) ?_; clear_value x; on_goal 2 => subst x)
    | with_reducible apply State.flashWrite_keeps | with_reducible apply State.modBst_keeps)

theorem ledgerTurn_keeps {s : State} (h0 : Keeps ms s0 s) :
    Keeps ms s0 (ledgerTurn s) := by
  unfold ledgerTurn
  repeat' (first
    | with_reducible assumption
    | (extract_lets +onlyGivenNames x; refine (fun hx : Keeps ms s0 x => ?_) ?_; clear_value x; on_goal 2 => subst x)
    | (extract_lets +onlyGivenNames _) | with_reducible apply State.flashWrite_keeps
    | with_reducible apply State.modBst_keeps | split)

theorem repairSram_keeps (f) {s : State} (h1 : Keeps ms s0 s) :
    Keeps ms s0 (repairSram f s).2 := by
  unfold repairSram
  repeat' (first
    | with_reducible assumption
    | (extract_lets +onlyGivenNames x; refine (fun hx : Keeps ms s0 x => ?_) ?_; clear_value x; on_goal 2 => subst x)
    | (extract_lets +onlyGivenNames _) | with_reducible apply State.modBst_keeps
    | with_reducible apply State.ledgerAppend_keeps | with_reducible apply State.post_keeps | split)

theorem repairAll_keeps (l) {s : State} (h1 : Keeps ms s0 s) :
    Keeps ms s0 (repairAll l s).2 := by
  unfold repairAll
  repeat' (first
    | with_reducible assumption | (with_reducible intro _) | (extract_lets +onlyGivenNames _)
    | with_reducible apply keeps_foldl_snd | with_reducible apply repairSram_keeps)

theorem startupTest_keeps (t) {s : State} (h1 : Keeps ms s0 s) :
    Keeps ms s0 (startupTest t s) := by
  unfold startupTest
  repeat' (first
    | with_reducible assumption | (with_reducible intro _)
    | (extract_lets +onlyGivenNames x; refine (fun hx : Keeps ms s0 x => ?_) ?_; clear_value x; on_goal 2 => subst x)
    | (extract_lets +onlyGivenNames _) | with_reducible apply keeps_foldl | with_reducible apply repairAll_keeps
    | with_reducible apply State.bootBit_keeps | with_reducible apply State.put_keeps
    | with_reducible apply State.modBst_keeps | split | (with_reducible refine Keeps.ofSnd ‹_› ?_))

theorem startupRecs_keeps (t) {s : State} (h1 : Keeps ms s0 s) :
    Keeps ms s0 (startupRecs t s) := by
  unfold startupRecs
  repeat' (first
    | with_reducible assumption | (with_reducible intro _) | (extract_lets +onlyGivenNames _)
    | with_reducible apply keeps_foldl | with_reducible apply State.free_keeps
    | with_reducible apply State.modBst_keeps)

theorem cleatFirst_keeps (scl) (sda) {s : State} (h2 : Keeps ms s0 s) :
    Keeps ms s0 (cleatFirst scl sda s) := by
  unfold cleatFirst
  repeat' (first
    | with_reducible assumption | (with_reducible intro _)
    | (extract_lets +onlyGivenNames x; refine (fun hx : Keeps ms s0 x => ?_) ?_; clear_value x; on_goal 2 => subst x)
    | (extract_lets +onlyGivenNames _) | with_reducible exact Nat.le_max_right _ _
    | with_reducible apply State.modMon_keeps | with_reducible apply State.put_keeps
    | with_reducible apply State.modFw_keeps | with_reducible apply State.modPwr_keeps
    | with_reducible apply State.putB_keeps | with_reducible apply State.lifeAdd_keeps
    | with_reducible apply State.modTim_keeps | with_reducible apply State.postBare_keeps
    | with_reducible apply State.invalidate_keeps | with_reducible apply State.noteFail_keeps | split
    | dsimp +zetaDelta only)

theorem cleatTest_keeps (t) {s : State} (h1 : Keeps true s0 s) :
    Keeps true s0 (cleatTest t s) := by
  unfold cleatTest
  repeat' (first
    | with_reducible assumption
    | (extract_lets +onlyGivenNames x; refine (fun hx : Keeps true s0 x => ?_) ?_; clear_value x; on_goal 2 => subst x)
    | (extract_lets +onlyGivenNames _) | with_reducible exact Nat.le_max_right _ _
    | with_reducible exact Mbx.Within.refl _ | with_reducible apply Keeps.zeroFill_keeps
    | with_reducible apply startupRecs_keeps | with_reducible apply startupTest_keeps
    | with_reducible apply ledgerTurn_keeps | dsimp +zetaDelta only | exact Nat.zero_le _)

theorem cleatLast_keeps {s : State} (h0 : Keeps ms s0 s) :
    Keeps ms s0 (cleatLast s) := by
  unfold cleatLast
  repeat' (first
    | with_reducible assumption | (with_reducible intro _)
    | (extract_lets +onlyGivenNames x; refine (fun hx : Keeps ms s0 x => ?_) ?_; clear_value x; on_goal 2 => subst x)
    | (extract_lets +onlyGivenNames _) | with_reducible apply persBoot_keeps | with_reducible apply State.modFw_keeps
    | with_reducible apply State.put_keeps | split | dsimp +zetaDelta only)

theorem execPorRelease_keeps (scl) (sda) (t) {s : State} (h3 : Keeps true s0 s) :
    KeepsO true s0 (execPorRelease scl sda t s) := by
  unfold execPorRelease
  repeat' (first
    | with_reducible assumption | (extract_lets +onlyGivenNames _) | with_reducible apply KeepsO.next
    | with_reducible apply cleatLast_keeps | with_reducible apply cleatTest_keeps
    | with_reducible apply cleatFirst_keeps | split)

theorem cmisDefaults_keeps (d) {s : State} (h1 : Keeps ms s0 s) :
    Keeps ms s0 (cmisDefaults d s) := by
  unfold cmisDefaults
  repeat' (first
    | with_reducible assumption | (with_reducible intro _)
    | (extract_lets +onlyGivenNames x; refine (fun hx : Keeps ms s0 x => ?_) ?_; clear_value x; on_goal 2 => subst x)
    | (extract_lets +onlyGivenNames _) | with_reducible apply keeps_foldl | with_reducible apply State.modCmis_keeps
    | with_reducible apply State.modFw_keeps | with_reducible apply State.put_keeps
    | with_reducible apply State.setWord_keeps | dsimp +zetaDelta only)

theorem startSlot_keeps (b) {s : State} (h1 : Keeps true s0 s) :
    Keeps true s0 (startSlot b s) := by
  unfold startSlot
  repeat' (first
    | with_reducible assumption | (with_reducible intro _)
    | (extract_lets +onlyGivenNames x; refine (fun hx : Keeps true s0 x => ?_) ?_; clear_value x; on_goal 2 => subst x)
    | (extract_lets +onlyGivenNames _) | with_reducible apply loadImage_keeps
    | with_reducible apply State.modFw_keeps | with_reducible apply cmisDefaults_keeps
    | with_reducible apply State.noteFail_keeps | with_reducible apply State.bootBit_keeps | split
    | dsimp +zetaDelta only)

theorem execRiggerRelease_keeps {s : State} (h0 : Keeps true s0 s) :
    KeepsO true s0 (execRiggerRelease s) := by
  unfold execRiggerRelease
  repeat' (first
    | with_reducible assumption
    | (extract_lets +onlyGivenNames x; refine (fun hx : Keeps true s0 x => ?_) ?_; clear_value x; on_goal 2 => subst x)
    | (extract_lets +onlyGivenNames _) | with_reducible apply KeepsO.next | with_reducible apply State.noteFail_keeps
    | with_reducible apply State.bootBit_keeps | with_reducible apply startSlot_keeps | split)

theorem tally_keeps (cause) (b) {s : State} (h2 : Keeps ms s0 s) :
    Keeps ms s0 (tally cause b s) := by
  unfold tally
  repeat' (first
    | with_reducible assumption | (with_reducible intro _) | (extract_lets +onlyGivenNames _)
    | with_reducible apply State.modFw_keeps | split | dsimp +zetaDelta only)

theorem State.latchFlag_keeps {s : State} (bank) (page) (off) (b) (h0 : Keeps ms s0 s) :
    Keeps ms s0 (State.latchFlag s bank page off b) := by
  unfold State.latchFlag
  repeat' (first
    | with_reducible assumption | (extract_lets +onlyGivenNames _) | with_reducible apply State.modCmis_keeps)

theorem State.firmwareFault_keeps {s : State} (h0 : Keeps ms s0 s) :
    Keeps ms s0 (State.firmwareFault s) := by
  unfold State.firmwareFault
  repeat' (first | with_reducible assumption | with_reducible apply State.latchFlag_keeps)

theorem State.riggerHalt_keeps {s : State} (h0 : Keeps ms s0 s) :
    Keeps ms s0 (State.riggerHalt s) := by
  unfold State.riggerHalt
  repeat' (first
    | with_reducible assumption | (with_reducible intro _) | (extract_lets +onlyGivenNames _)
    | with_reducible apply State.agreeHalt_keeps | with_reducible apply State.modFw_keeps
    | with_reducible apply State.put_keeps | dsimp +zetaDelta only)

theorem State.holdRigger_keeps {s : State} (h0 : Keeps ms s0 s) :
    Keeps ms s0 (State.holdRigger s) := by
  unfold State.holdRigger
  repeat' (first
    | with_reducible assumption | (with_reducible intro _) | (extract_lets +onlyGivenNames _)
    | with_reducible apply State.modFw_keeps | with_reducible apply State.put_keeps
    | with_reducible apply State.riggerHalt_keeps | dsimp +zetaDelta only)

theorem State.cdbDone_keeps {s : State} (st) (vendor) (reply) (h0 : Keeps ms s0 s) :
    Keeps ms s0 (State.cdbDone s st vendor reply) := by
  unfold State.cdbDone
  repeat' (first
    | with_reducible assumption | (extract_lets +onlyGivenNames _) | with_reducible apply State.latchFlag_keeps
    | with_reducible apply State.modCmis_keeps)

theorem restartAborts_keeps (r) {s : State} (h1 : Keeps ms s0 s) :
    Keeps ms s0 (restartAborts r s) := by
  unfold restartAborts
  repeat' (first
    | with_reducible assumption | (with_reducible intro _)
    | (extract_lets +onlyGivenNames x; refine (fun hx : Keeps ms s0 x => ?_) ?_; clear_value x; on_goal 2 => subst x)
    | (extract_lets +onlyGivenNames _) | with_reducible apply keeps_foldl | with_reducible apply State.finish_keeps
    | with_reducible apply State.cdbDone_keeps | split)

theorem restartHolds_keeps (r) {s : State} (h1 : Keeps ms s0 s) :
    Keeps ms s0 (restartHolds r s) := by
  unfold restartHolds
  repeat' (first
    | with_reducible assumption
    | (extract_lets +onlyGivenNames x; refine (fun hx : Keeps ms s0 x => ?_) ?_; clear_value x; on_goal 2 => subst x)
    | with_reducible apply State.cdbDone_keeps | with_reducible apply State.finish_keeps
    | with_reducible apply State.holdRigger_keeps | split)

theorem downloadLost_keeps (run) {s : State} (h1 : Keeps ms s0 s) :
    Keeps ms s0 (downloadLost run s) := by
  unfold downloadLost
  repeat' (first
    | with_reducible assumption | (with_reducible intro _)
    | (extract_lets +onlyGivenNames x; refine (fun hx : Keeps ms s0 x => ?_) ?_; clear_value x; on_goal 2 => subst x)
    | (extract_lets +onlyGivenNames _) | with_reducible apply State.modFw_keeps
    | with_reducible apply State.cdbDone_keeps | split | dsimp +zetaDelta only)

theorem restartStart_keeps (r) {s : State} (h1 : Keeps ms s0 s) :
    Keeps ms s0 (restartStart r s) := by
  unfold restartStart
  repeat' (first
    | with_reducible assumption | (with_reducible intro _)
    | (extract_lets +onlyGivenNames x; refine (fun hx : Keeps ms s0 x => ?_) ?_; clear_value x; on_goal 2 => subst x)
    | (extract_lets +onlyGivenNames _) | with_reducible apply State.modFw_keeps
    | with_reducible apply State.riggerHalt_keeps | with_reducible apply downloadLost_keeps
    | with_reducible apply tally_keeps | with_reducible apply State.perf_keeps
    | with_reducible apply State.lifeAdd_keeps | with_reducible apply State.put_keeps | split | dsimp +zetaDelta only)

theorem riggerCause_keeps (cause) (b) (run) (cmd) {s : State} (h4 : Keeps ms s0 s) :
    Keeps ms s0 (riggerCause cause b run cmd s) := by
  unfold riggerCause
  repeat' (first
    | with_reducible assumption
    | (extract_lets +onlyGivenNames x; refine (fun hx : Keeps ms s0 x => ?_) ?_; clear_value x; on_goal 2 => subst x)
    | (extract_lets +onlyGivenNames _) | with_reducible apply State.put_keeps | with_reducible apply tally_keeps
    | with_reducible apply State.firmwareFault_keeps | with_reducible apply restartHolds_keeps
    | with_reducible apply restartAborts_keeps | with_reducible apply State.riggerHalt_keeps
    | with_reducible apply downloadLost_keeps | with_reducible apply restartStart_keeps | split)

theorem execRiggerRestart_keeps {s : State} (h0 : Keeps ms s0 s) :
    KeepsO ms s0 (execRiggerRestart s) := by
  unfold execRiggerRestart
  repeat' (first
    | with_reducible assumption | (extract_lets +onlyGivenNames _) | with_reducible apply KeepsO.next
    | with_reducible apply State.resetRegs_keeps | with_reducible apply restartAborts_keeps | split)

theorem execRiggerCoreHalt_keeps (core) {s : State} (h1 : Keeps ms s0 s) :
    KeepsO ms s0 (execRiggerCoreHalt core s) := by
  unfold execRiggerCoreHalt
  repeat' (first
    | with_reducible assumption | (extract_lets +onlyGivenNames _) | with_reducible apply KeepsO.next
    | with_reducible apply riggerCause_keeps)

theorem execWatchdogExpiry_keeps {s : State} (h0 : Keeps ms s0 s) :
    KeepsO ms s0 (execWatchdogExpiry s) := by
  unfold execWatchdogExpiry
  repeat' (first
    | with_reducible assumption | (extract_lets +onlyGivenNames _) | with_reducible apply KeepsO.next
    | with_reducible apply riggerCause_keeps | split)

theorem restartLoad_keeps (r) (b) (back) {s : State} (h3 : Keeps true s0 s) :
    Keeps true s0 (restartLoad r b back s) := by
  unfold restartLoad
  repeat' (first
    | with_reducible assumption | (with_reducible intro _) | (extract_lets +onlyGivenNames _)
    | with_reducible apply State.modFw_keeps | with_reducible apply startSlot_keeps | dsimp +zetaDelta only)

theorem execRiggerImageLoaded_keeps {s : State} (h0 : Keeps true s0 s) :
    KeepsO true s0 (execRiggerImageLoaded s) := by
  unfold execRiggerImageLoaded
  repeat' (first
    | with_reducible assumption | (with_reducible intro _)
    | (extract_lets +onlyGivenNames x; refine (fun hx : Keeps true s0 x => ?_) ?_; clear_value x; on_goal 2 => subst x)
    | (extract_lets +onlyGivenNames _) | with_reducible apply KeepsO.next | with_reducible apply restartLoad_keeps
    | with_reducible apply State.modFw_keeps | with_reducible apply State.noteFail_keeps
    | with_reducible apply State.bootBit_keeps | with_reducible apply restartHolds_keeps | split
    | dsimp +zetaDelta only)

theorem Otp.raise_grows (o : Otp) (type k : Nat) : Otp.Grows o (o.raise type k) := by
  unfold Otp.raise
  split <;> exact ⟨by simp, by simp, by simp, fun _ h => h, rfl⟩

theorem Otp.revoke_grows (o : Otp) (r : Image) : Otp.Grows o (o.revoke r) := by
  unfold Otp.revoke
  split
  · exact ⟨Nat.le_refl _, Nat.le_refl _, Nat.le_refl _, fun i h => by simp [h], rfl⟩
  · exact Otp.Grows.refl _

theorem State.modFw_grows {s : State} (f : Fw → Fw) (h0 : Keeps ms s0 s) (ho : Otp.Grows s.fw.otp (f s.fw).otp) :
    Keeps ms s0 (s.modFw f) := h0.trans ⟨rfl, id, id, id, ho, fun _ => ⟨rfl, rfl⟩⟩

theorem commitImage_keeps {s t : State} (h0 : Keeps ms s0 s) (e : commitImage s = some t) : Keeps ms s0 t := by
  unfold commitImage at e
  dsimp only at e
  split at e
  · cases e
  · cases e
    have g (o : Otp) (a b c : Nat) (r : Image) (p q : Bool) : Otp.Grows o
        (if p then (if q then ((o.raise 1 a).revoke r).raise 2 b else (o.raise 1 a).revoke r).raise 3 c
          else (if q then ((o.raise 1 a).revoke r).raise 2 b else (o.raise 1 a).revoke r)) := by
      have h1 := (Otp.raise_grows o 1 a).trans (Otp.revoke_grows _ r)
      have h2 := h1.trans (Otp.raise_grows _ 2 b)
      cases p <;> cases q
      · exact h1
      · exact h2
      · exact h1.trans (Otp.raise_grows _ 3 c)
      · exact h2.trans (Otp.raise_grows _ 3 c)
    apply State.modFw_grows
    · apply State.modFw_keeps
      · split
        · exact State.flashWrite_keeps _ _ h0
        · exact h0
      · intro _; rfl
    · exact g _ _ _ _ _ _ _

theorem commitImage_getD_keeps {s : State} (h0 : Keeps ms s0 s) : Keeps ms s0 ((commitImage s).getD s) := by
  cases e : commitImage s with
  | none => exact h0
  | some t => exact commitImage_keeps h0 e

theorem runImage_keeps (b) {s : State} (h1 : Keeps ms s0 s) :
    Keeps ms s0 (runImage b s) := by
  unfold runImage
  repeat' (first
    | with_reducible assumption | (with_reducible intro _)
    | (extract_lets +onlyGivenNames x; refine (fun hx : Keeps ms s0 x => ?_) ?_; clear_value x; on_goal 2 => subst x)
    | (extract_lets +onlyGivenNames _) | with_reducible apply State.modFw_keeps
    | with_reducible apply riggerCause_keeps | split | dsimp +zetaDelta only)

theorem pushedEnds_keeps (back) {s : State} (h1 : Keeps ms s0 s) :
    Keeps ms s0 (pushedEnds back s) := by
  unfold pushedEnds
  dsimp only
  split
  · split
    · exact State.modHws_keeps _ h1
    · exact commitImage_getD_keeps (State.modHws_keeps _ h1)
  · exact h1

theorem restartEnds_keeps (r) {s : State} (h1 : Keeps ms s0 s) :
    Keeps ms s0 (restartEnds r s) := by
  unfold restartEnds
  repeat' (first
    | with_reducible assumption | (with_reducible intro _)
    | (extract_lets +onlyGivenNames x; refine (fun hx : Keeps ms s0 x => ?_) ?_; clear_value x; on_goal 2 => subst x)
    | (extract_lets +onlyGivenNames _) | with_reducible apply State.put_keeps
    | with_reducible apply State.modFw_keeps | with_reducible apply State.post_keeps
    | with_reducible apply State.cdbDone_keeps | with_reducible apply pushedEnds_keeps
    | with_reducible apply State.finish_keeps | split | dsimp +zetaDelta only)

theorem execFwStatus_keeps (m) {s : State} (h1 : Keeps true s0 s) :
    KeepsO true s0 (execFwStatus m s) := by
  unfold execFwStatus
  repeat' (first
    | with_reducible assumption | (with_reducible intro _) | (extract_lets +onlyGivenNames _)
    | with_reducible apply KeepsO.next | with_reducible apply runCmd_keeps
    | with_reducible apply State.finishStaged_keeps)

theorem execFwRestartRunning_keeps (m) {s : State} (h1 : Keeps ms s0 s) :
    KeepsO ms s0 (execFwRestartRunning m s) := by
  unfold execFwRestartRunning
  repeat' (first
    | with_reducible assumption | (with_reducible intro _) | (extract_lets +onlyGivenNames _)
    | with_reducible apply KeepsO.next | with_reducible apply runCmd_keeps | with_reducible apply State.finish_keeps
    | with_reducible apply riggerCause_keeps | with_reducible apply State.await_keeps | split)

theorem execFwRestartOther_keeps (m) {s : State} (h1 : Keeps ms s0 s) :
    KeepsO ms s0 (execFwRestartOther m s) := by
  unfold execFwRestartOther
  repeat' (first
    | with_reducible assumption | (with_reducible intro _) | (extract_lets +onlyGivenNames _)
    | with_reducible apply KeepsO.next | with_reducible apply runCmd_keeps | with_reducible apply State.finish_keeps
    | with_reducible apply riggerCause_keeps | with_reducible apply State.await_keeps | split)

theorem execAttestReport_keeps (m) {s : State} (h1 : Keeps true s0 s) :
    KeepsO true s0 (execAttestReport m s) := by
  unfold execAttestReport
  repeat' (first
    | with_reducible assumption | (with_reducible intro _) | (extract_lets +onlyGivenNames _)
    | with_reducible apply KeepsO.next | with_reducible exact Nat.le_max_right _ _
    | with_reducible exact Mbx.Within.refl _ | with_reducible apply runCmd_keeps
    | with_reducible apply State.finishStaged_keeps | (with_reducible apply Keeps.lit; with_reducible assumption)
    | split | dsimp +zetaDelta only)

theorem execAttestCertificate_keeps (m) {s : State} (h1 : Keeps true s0 s) :
    KeepsO true s0 (execAttestCertificate m s) := by
  unfold execAttestCertificate
  repeat' (first
    | with_reducible assumption | (with_reducible intro _) | (extract_lets +onlyGivenNames _)
    | with_reducible apply KeepsO.next | with_reducible apply runCmd_keeps
    | with_reducible apply State.finishStaged_keeps | split)

theorem execDebugUnlockResponse_keeps (factory) (key) (sig) {s : State} (h3 : Keeps ms s0 s) :
    KeepsO ms s0 (execDebugUnlockResponse factory key sig s) := by
  unfold execDebugUnlockResponse
  repeat' (first
    | with_reducible assumption | (with_reducible intro _)
    | (extract_lets +onlyGivenNames x; refine (fun hx : Keeps ms s0 x => ?_) ?_; clear_value x; on_goal 2 => subst x)
    | (extract_lets +onlyGivenNames _) | with_reducible apply KeepsO.next | with_reducible exact Nat.le_max_right _ _
    | with_reducible exact Mbx.Within.refl _ | with_reducible apply State.put_keeps
    | with_reducible apply State.modFw_keeps | (with_reducible apply Keeps.lit; with_reducible assumption) | split
    | dsimp +zetaDelta only)

theorem execBoundaryScanEntry_keeps {s : State} (h0 : Keeps ms s0 s) :
    KeepsO ms s0 (execBoundaryScanEntry s) := by
  unfold execBoundaryScanEntry
  repeat' (first
    | with_reducible assumption | (with_reducible intro _) | (extract_lets +onlyGivenNames _)
    | with_reducible apply KeepsO.next | with_reducible apply State.modFw_keeps
    | with_reducible apply eachBelow_keeps | with_reducible apply State.cut_keeps | split | dsimp +zetaDelta only)

theorem downloadOpen_keeps (len) {s : State} (h1 : Keeps true s0 s) :
    Keeps true s0 (downloadOpen len s) := by
  unfold downloadOpen
  repeat' (first
    | with_reducible assumption | (with_reducible intro _)
    | (extract_lets +onlyGivenNames x; refine (fun hx : Keeps true s0 x => ?_) ?_; clear_value x; on_goal 2 => subst x)
    | (extract_lets +onlyGivenNames _) | with_reducible apply State.setBytes_keeps
    | with_reducible apply State.put_keeps | with_reducible apply State.modFw_keeps | dsimp +zetaDelta only)

theorem execCdbStartDownload_keeps (len) (header) {s : State} (h2 : Keeps true s0 s) :
    KeepsO true s0 (execCdbStartDownload len header s) := by
  unfold execCdbStartDownload
  repeat' (first
    | with_reducible assumption | (extract_lets +onlyGivenNames _) | with_reducible apply KeepsO.next
    | with_reducible apply State.cdbDone_keeps | with_reducible apply downloadOpen_keeps | split)

theorem execCdbAbortDownload_keeps {s : State} (h0 : Keeps ms s0 s) :
    KeepsO ms s0 (execCdbAbortDownload s) := by
  unfold execCdbAbortDownload
  repeat' (first
    | with_reducible assumption | (with_reducible intro _) | (extract_lets +onlyGivenNames _)
    | with_reducible apply KeepsO.next | with_reducible apply State.cdbDone_keeps
    | with_reducible apply State.modFw_keeps | split | dsimp +zetaDelta only)

theorem cdbBlock_keeps (limit) (addr) (data) {s : State} (h3 : Keeps true s0 s) :
    Keeps true s0 (cdbBlock limit addr data s) := by
  unfold cdbBlock
  repeat' (first
    | with_reducible assumption | (extract_lets +onlyGivenNames _) | with_reducible apply State.cdbDone_keeps
    | with_reducible apply State.setBytes_keeps | split)

theorem execCdbWriteBlockLpl_keeps (addr) (data) {s : State} (h2 : Keeps true s0 s) :
    KeepsO true s0 (execCdbWriteBlockLpl addr data s) := by
  unfold execCdbWriteBlockLpl
  repeat' (first
    | with_reducible assumption | (extract_lets +onlyGivenNames _) | with_reducible apply KeepsO.next
    | with_reducible apply cdbBlock_keeps)

theorem execCdbWriteBlockEpl_keeps (addr) (data) {s : State} (h2 : Keeps true s0 s) :
    KeepsO true s0 (execCdbWriteBlockEpl addr data s) := by
  unfold execCdbWriteBlockEpl
  repeat' (first
    | with_reducible assumption | (extract_lets +onlyGivenNames _) | with_reducible apply KeepsO.next
    | with_reducible apply cdbBlock_keeps)

theorem execCdbCompleteDownload_keeps {s : State} (h0 : Keeps ms s0 s) :
    KeepsO ms s0 (execCdbCompleteDownload s) := by
  unfold execCdbCompleteDownload
  repeat' (first
    | with_reducible assumption | (with_reducible intro _)
    | (extract_lets +onlyGivenNames x; refine (fun hx : Keeps ms s0 x => ?_) ?_; clear_value x; on_goal 2 => subst x)
    | (extract_lets +onlyGivenNames _) | with_reducible apply KeepsO.next | with_reducible apply State.cdbDone_keeps
    | with_reducible apply State.modFw_keeps | with_reducible apply State.noteFail_keeps
    | with_reducible apply State.modCmis_keeps | split | dsimp +zetaDelta only)

theorem flashStore_keeps (w) {s : State} (h1 : Keeps ms s0 s) :
    Keeps ms s0 (flashStore w s) := by
  unfold flashStore
  repeat' (first
    | with_reducible assumption | (with_reducible intro _) | (extract_lets +onlyGivenNames _)
    | with_reducible apply State.modFw_keeps | with_reducible apply State.flashWrite_keeps | dsimp +zetaDelta only)

theorem flashNote_keeps (w) {s : State} (h1 : Keeps ms s0 s) :
    Keeps ms s0 (flashNote w s) := by
  unfold flashNote
  repeat' (first
    | with_reducible assumption | (with_reducible intro _) | (extract_lets +onlyGivenNames _)
    | with_reducible apply State.modFw_keeps | split | dsimp +zetaDelta only)

theorem execFlashWriteComplete_keeps (ok) {s : State} (h1 : Keeps ms s0 s) :
    KeepsO ms s0 (execFlashWriteComplete ok s) := by
  unfold execFlashWriteComplete
  repeat' (first
    | with_reducible assumption
    | (extract_lets +onlyGivenNames x; refine (fun hx : Keeps ms s0 x => ?_) ?_; clear_value x; on_goal 2 => subst x)
    | (extract_lets +onlyGivenNames _) | with_reducible apply KeepsO.next | with_reducible apply flashStore_keeps
    | with_reducible apply runImage_keeps | with_reducible apply State.modHws_keeps
    | with_reducible apply flashNote_keeps | with_reducible apply State.cdbDone_keeps | split)

theorem execCdbRunImage_keeps (mode) {s : State} (h1 : Keeps ms s0 s) :
    KeepsO ms s0 (execCdbRunImage mode s) := by
  unfold execCdbRunImage
  repeat' (first
    | with_reducible assumption | (extract_lets +onlyGivenNames _) | with_reducible apply KeepsO.next
    | with_reducible apply State.cdbDone_keeps | with_reducible apply runImage_keeps
    | with_reducible apply State.modCmis_keeps | split)

theorem execCdbCommitImage_keeps {s : State} (h0 : Keeps ms s0 s) :
    KeepsO ms s0 (execCdbCommitImage s) := by
  unfold execCdbCommitImage
  split
  · exact KeepsO.next h0
  · split
    · exact KeepsO.next (State.cdbDone_keeps _ _ _ h0)
    · exact KeepsO.next (State.cdbDone_keeps _ _ _ (commitImage_keeps h0 ‹_›))

theorem cdbQuery_keeps (k) {s : State} (h1 : Keeps ms s0 s) :
    Keeps ms s0 (cdbQuery k s) := by
  unfold cdbQuery
  repeat' (first
    | with_reducible assumption | (extract_lets +onlyGivenNames _) | with_reducible apply State.free_keeps
    | with_reducible apply State.cdbDone_keeps | split)

theorem execCdbQueryStatus_keeps {s : State} (h0 : Keeps ms s0 s) :
    KeepsO ms s0 (execCdbQueryStatus s) := by
  unfold execCdbQueryStatus
  repeat' (first
    | with_reducible assumption | (extract_lets +onlyGivenNames _) | with_reducible apply KeepsO.next
    | with_reducible apply cdbQuery_keeps)

theorem execCdbModuleFeatures_keeps {s : State} (h0 : Keeps ms s0 s) :
    KeepsO ms s0 (execCdbModuleFeatures s) := by
  unfold execCdbModuleFeatures
  repeat' (first
    | with_reducible assumption | (extract_lets +onlyGivenNames _) | with_reducible apply KeepsO.next
    | with_reducible apply cdbQuery_keeps)

theorem execCdbFwMgmtFeatures_keeps {s : State} (h0 : Keeps ms s0 s) :
    KeepsO ms s0 (execCdbFwMgmtFeatures s) := by
  unfold execCdbFwMgmtFeatures
  repeat' (first
    | with_reducible assumption | (extract_lets +onlyGivenNames _) | with_reducible apply KeepsO.next
    | with_reducible apply cdbQuery_keeps)

theorem execCdbGetFwInfo_keeps {s : State} (h0 : Keeps ms s0 s) :
    KeepsO ms s0 (execCdbGetFwInfo s) := by
  unfold execCdbGetFwInfo
  repeat' (first
    | with_reducible assumption | (extract_lets +onlyGivenNames _) | with_reducible apply KeepsO.next
    | with_reducible apply State.cdbDone_keeps | split)

theorem execCdbUnknownCommand_keeps {s : State} (h0 : Keeps ms s0 s) :
    KeepsO ms s0 (execCdbUnknownCommand s) := by
  unfold execCdbUnknownCommand
  repeat' (first
    | with_reducible assumption | (extract_lets +onlyGivenNames _) | with_reducible apply KeepsO.next
    | with_reducible apply State.cdbDone_keeps | split)

end Sys2Proof.Machine
end

