-- ==== Sys2Proof/Laws/KeepPaths.lean ====
section
/-! SUPPORT. Sys2Proof/Laws/KeepPaths.lean: each operation of Machine/Paths.lean keeps what Keeps says. -/

namespace Sys2Proof.Machine

variable {ms : Bool} {s0 : State}

theorem State.setCmisByte_keeps {s : State} (bank) (page) (off) (v) (h0 : Keeps ms s0 s) :
    Keeps ms s0 (State.setCmisByte s bank page off v) := by
  unfold State.setCmisByte
  repeat' (first | with_reducible assumption | with_reducible apply State.modCmis_keeps)

theorem State.setConfig_keeps {s : State} (b) (lanes) (st) (h0 : Keeps ms s0 s) :
    Keeps ms s0 (State.setConfig s b lanes st) := by
  unfold State.setConfig
  repeat' (first | with_reducible assumption | with_reducible apply State.modCmis_keeps)

theorem applySi_keeps (b) (k) (lanes) {s : State} (h3 : Keeps ms s0 s) :
    Keeps ms s0 (applySi b k lanes s) := by
  unfold applySi
  repeat' (first
    | with_reducible assumption | (with_reducible intro _)
    | (extract_lets +onlyGivenNames x; refine (fun hx : Keeps ms s0 x => ?_) ?_; clear_value x; on_goal 2 => subst x)
    | (extract_lets +onlyGivenNames _) | with_reducible apply eachOf_keeps | with_reducible apply State.put_keeps
    | with_reducible apply hstCodeApply_keeps | split)

theorem pathsReplaced_keeps (b) (k) (lanes) {s : State} (h3 : Keeps ms s0 s) :
    Keeps ms s0 (pathsReplaced b k lanes s) := by
  unfold pathsReplaced
  repeat' (first
    | with_reducible assumption | (extract_lets +onlyGivenNames _) | with_reducible apply State.modCmis_keeps)

theorem execCmisApplyImmediate_keeps (b) (k) (mask) {s : State} (h3 : Keeps ms s0 s) :
    KeepsO ms s0 (execCmisApplyImmediate b k mask s) := by
  unfold execCmisApplyImmediate
  repeat' (first
    | with_reducible assumption | (extract_lets +onlyGivenNames _) | with_reducible apply KeepsO.next
    | with_reducible apply State.setConfig_keeps | with_reducible apply applySi_keeps | split)

theorem State.modPath_keeps {s : State} (i) (f) (h0 : Keeps ms s0 s) :
    Keeps ms s0 (State.modPath s i f) := by
  unfold State.modPath
  repeat' (first | with_reducible assumption | with_reducible apply State.modCmis_keeps)

theorem State.pathEnter_keeps {s : State} (i) (st) (stays) (h0 : Keeps ms s0 s) :
    Keeps ms s0 (State.pathEnter s i st stays) := by
  unfold State.pathEnter
  repeat' (first
    | with_reducible assumption | (with_reducible intro _)
    | (extract_lets +onlyGivenNames x; refine (fun hx : Keeps ms s0 x => ?_) ?_; clear_value x; on_goal 2 => subst x)
    | (extract_lets +onlyGivenNames _) | with_reducible apply keeps_foldl | with_reducible apply State.modPath_keeps
    | with_reducible apply State.latchFlag_keeps | split)

theorem pathLane_keeps (tg) (n) {s : State} (h2 : Keeps ms s0 s) :
    Keeps ms s0 (pathLane tg n s) := by
  unfold pathLane
  repeat' (first
    | with_reducible assumption | with_reducible apply requestRefused_keeps
    | with_reducible apply State.laneRequest_keeps | split)

theorem pathRequest_keeps (lanes) (tg) {s : State} (h2 : Keeps ms s0 s) :
    Keeps ms s0 (pathRequest lanes tg s) := by
  unfold pathRequest
  repeat' (first
    | with_reducible assumption | (with_reducible intro _)
    | (extract_lets +onlyGivenNames x; refine (fun hx : Keeps ms s0 x => ?_) ?_; clear_value x; on_goal 2 => subst x)
    | (extract_lets +onlyGivenNames _) | with_reducible apply eachOf_keeps | with_reducible apply pathLane_keeps
    | with_reducible apply State.laneAdvance_keeps)

theorem unassign_keeps (lanes) {s : State} (h1 : Keeps ms s0 s) :
    Keeps ms s0 (unassign lanes s) := by
  unfold unassign
  repeat' (first
    | with_reducible assumption | (with_reducible intro _)
    | (extract_lets +onlyGivenNames x; refine (fun hx : Keeps ms s0 x => ?_) ?_; clear_value x; on_goal 2 => subst x)
    | with_reducible apply eachOf_keeps | with_reducible apply cfgPend_keeps | with_reducible apply cfgTake_keeps
    | split)

theorem pathFail_keeps (i) (p) {s : State} (h2 : Keeps ms s0 s) :
    Keeps ms s0 (pathFail i p s) := by
  unfold pathFail
  repeat' (first
    | with_reducible assumption
    | (extract_lets +onlyGivenNames x; refine (fun hx : Keeps ms s0 x => ?_) ?_; clear_value x; on_goal 2 => subst x)
    | (extract_lets +onlyGivenNames _) | with_reducible apply unassign_keeps | with_reducible apply pathRequest_keeps
    | with_reducible apply State.modCmis_keeps | with_reducible apply State.pathEnter_keeps
    | with_reducible apply State.modPath_keeps)

theorem State.pathLatch_keeps {s : State} (n) (h0 : Keeps ms s0 s) :
    Keeps ms s0 (State.pathLatch s n) := by
  unfold State.pathLatch
  repeat' (first | with_reducible assumption | with_reducible apply State.modCmis_keeps)

theorem pathInitialized_keeps (i) (p) {s : State} (h2 : Keeps ms s0 s) :
    Keeps ms s0 (pathInitialized i p s) := by
  unfold pathInitialized
  repeat' (first
    | with_reducible assumption | (with_reducible intro _) | (extract_lets +onlyGivenNames _)
    | with_reducible apply State.pathEnter_keeps | with_reducible apply pathRequest_keeps
    | with_reducible apply eachOf_keeps | with_reducible apply State.pathLatch_keeps
    | with_reducible apply pathLane_keeps | split)

theorem pathMonitor_keeps (p) {s : State} (h1 : Keeps ms s0 s) :
    Keeps ms s0 (pathMonitor p s) := by
  unfold pathMonitor
  repeat' (first | with_reducible assumption | with_reducible apply hstRsmCtrlWrite_keeps | split)

theorem pathInit_keeps (i) (p) {s : State} (h2 : Keeps ms s0 s) :
    Keeps ms s0 (pathInit i p s) := by
  unfold pathInit
  repeat' (first
    | with_reducible assumption | (with_reducible intro _)
    | (extract_lets +onlyGivenNames x; refine (fun hx : Keeps ms s0 x => ?_) ?_; clear_value x; on_goal 2 => subst x)
    | (extract_lets +onlyGivenNames _) | with_reducible apply keeps_foldl | with_reducible apply pathFail_keeps
    | with_reducible apply cfgPend_keeps | with_reducible apply cfgTake_keeps
    | with_reducible apply pathMonitor_keeps | with_reducible apply State.pathEnter_keeps
    | with_reducible apply pathRequest_keeps | split)

theorem pathDeinit_keeps (i) (p) {s : State} (h2 : Keeps ms s0 s) :
    Keeps ms s0 (pathDeinit i p s) := by
  unfold pathDeinit
  repeat' (first
    | with_reducible assumption | (extract_lets +onlyGivenNames _) | with_reducible apply State.pathEnter_keeps
    | with_reducible apply pathRequest_keeps)

theorem pathActivated_keeps (i) (p) {s : State} (h2 : Keeps ms s0 s) :
    Keeps ms s0 (pathActivated i p s) := by
  unfold pathActivated
  repeat' (first
    | with_reducible assumption | (extract_lets +onlyGivenNames _) | with_reducible apply State.pathEnter_keeps
    | with_reducible apply pathRequest_keeps | split)

theorem pathAdvance_keeps (i) {s : State} (h1 : Keeps ms s0 s) :
    Keeps ms s0 (pathAdvance i s) := by
  unfold pathAdvance
  repeat' (first
    | with_reducible assumption | (extract_lets +onlyGivenNames _) | with_reducible apply pathInit_keeps
    | with_reducible apply pathInitialized_keeps | with_reducible apply pathActivated_keeps
    | with_reducible apply State.pathEnter_keeps | with_reducible apply unassign_keeps | split)

theorem pathsStart_keeps {s : State} (h0 : Keeps ms s0 s) :
    Keeps ms s0 (pathsStart s) := by
  unfold pathsStart
  repeat' (first
    | with_reducible assumption | (with_reducible intro _) | (extract_lets +onlyGivenNames _)
    | with_reducible apply eachBelow_keeps | with_reducible apply pathAdvance_keeps | split)

theorem execCmisApplyDpinit_keeps (b) (k) (mask) {s : State} (h3 : Keeps ms s0 s) :
    KeepsO ms s0 (execCmisApplyDpinit b k mask s) := by
  unfold execCmisApplyDpinit
  repeat' (first
    | with_reducible assumption
    | (extract_lets +onlyGivenNames x; refine (fun hx : Keeps ms s0 x => ?_) ?_; clear_value x; on_goal 2 => subst x)
    | (extract_lets +onlyGivenNames _) | with_reducible apply KeepsO.next | with_reducible apply pathsReplaced_keeps
    | with_reducible apply pathsStart_keeps | with_reducible apply State.setConfig_keeps
    | with_reducible apply applySi_keeps | split)

theorem execDatapathStateAdvance_keeps (h) {s : State} (h1 : Keeps ms s0 s) :
    KeepsO ms s0 (execDatapathStateAdvance h s) := by
  unfold execDatapathStateAdvance
  repeat' (first
    | with_reducible assumption | (extract_lets +onlyGivenNames _) | with_reducible apply KeepsO.next
    | with_reducible apply pathAdvance_keeps | split)

theorem deinitPath_keeps (b) (v) (i) {s : State} (h3 : Keeps ms s0 s) :
    Keeps ms s0 (deinitPath b v i s) := by
  unfold deinitPath
  repeat' (first
    | with_reducible assumption
    | (extract_lets +onlyGivenNames x; refine (fun hx : Keeps ms s0 x => ?_) ?_; clear_value x; on_goal 2 => subst x)
    | with_reducible apply State.modPath_keeps | with_reducible apply pathAdvance_keeps
    | with_reducible apply pathDeinit_keeps | split)

theorem execDpdeinitWrite_keeps (b) (v) {s : State} (h2 : Keeps ms s0 s) :
    KeepsO ms s0 (execDpdeinitWrite b v s) := by
  unfold execDpdeinitWrite
  repeat' (first
    | with_reducible assumption | (with_reducible intro _)
    | (extract_lets +onlyGivenNames x; refine (fun hx : Keeps ms s0 x => ?_) ?_; clear_value x; on_goal 2 => subst x)
    | (extract_lets +onlyGivenNames _) | with_reducible apply KeepsO.next
    | with_reducible apply State.setCmisByte_keeps | with_reducible apply eachBelow_keeps
    | with_reducible apply deinitPath_keeps | split)

theorem disableLane_keeps (b) (v) (j) {s : State} (h3 : Keeps ms s0 s) :
    Keeps ms s0 (disableLane b v j s) := by
  unfold disableLane
  repeat' (first
    | with_reducible assumption | (extract_lets +onlyGivenNames _) | with_reducible apply State.txDisable_keeps
    | with_reducible apply State.modCmis_keeps | with_reducible apply State.txEnable_keeps | split)

theorem disablePath_keeps (i) {s : State} (h1 : Keeps ms s0 s) :
    Keeps ms s0 (disablePath i s) := by
  unfold disablePath
  repeat' (first
    | with_reducible assumption | with_reducible apply pathInitialized_keeps
    | with_reducible apply pathActivated_keeps | split)

theorem execOutputDisableTxWrite_keeps (b) (v) {s : State} (h2 : Keeps ms s0 s) :
    KeepsO ms s0 (execOutputDisableTxWrite b v s) := by
  unfold execOutputDisableTxWrite
  repeat' (first
    | with_reducible assumption | (with_reducible intro _)
    | (extract_lets +onlyGivenNames x; refine (fun hx : Keeps ms s0 x => ?_) ?_; clear_value x; on_goal 2 => subst x)
    | (extract_lets +onlyGivenNames _) | with_reducible apply KeepsO.next
    | with_reducible apply State.setCmisByte_keeps | with_reducible apply eachBelow_keeps
    | with_reducible apply disableLane_keeps | with_reducible apply disablePath_keeps | split)

theorem pathTimedOut_keeps (n) {s : State} (h1 : Keeps ms s0 s) :
    Keeps ms s0 (pathTimedOut n s) := by
  unfold pathTimedOut
  repeat' (first
    | with_reducible assumption
    | (extract_lets +onlyGivenNames x; refine (fun hx : Keeps ms s0 x => ?_) ?_; clear_value x; on_goal 2 => subst x)
    | (extract_lets +onlyGivenNames _) | with_reducible apply State.pathLatch_keeps
    | with_reducible apply State.pathEnter_keeps | with_reducible apply pathRequest_keeps
    | with_reducible apply pathFail_keeps | split)

theorem execDeferredLiveTimeout_keeps (n) {s : State} (h1 : Keeps ms s0 s) :
    KeepsO ms s0 (execDeferredLiveTimeout n s) := by
  unfold execDeferredLiveTimeout
  repeat' (first
    | with_reducible assumption
    | (extract_lets +onlyGivenNames x; refine (fun hx : Keeps ms s0 x => ?_) ?_; clear_value x; on_goal 2 => subst x)
    | (extract_lets +onlyGivenNames _) | with_reducible apply KeepsO.next | with_reducible apply deferredLimit_keeps
    | with_reducible apply pathTimedOut_keeps | split)

theorem execTokenWaitTimeout_keeps (n) {s : State} (h1 : Keeps ms s0 s) :
    KeepsO ms s0 (execTokenWaitTimeout n s) := by
  unfold execTokenWaitTimeout
  repeat' (first
    | with_reducible assumption
    | (extract_lets +onlyGivenNames x; refine (fun hx : Keeps ms s0 x => ?_) ?_; clear_value x; on_goal 2 => subst x)
    | (extract_lets +onlyGivenNames _) | with_reducible apply KeepsO.next | with_reducible apply tokenLimit_keeps
    | with_reducible apply pathTimedOut_keeps | split)

end Sys2Proof.Machine
end

