-- ==== Sys2Proof/Laws/KeepPower.lean ====
section
/-! SUPPORT. Sys2Proof/Laws/KeepPower.lean: each operation of Machine/Power.lean keeps what Keeps says. -/

namespace Sys2Proof.Machine

variable {ms : Bool} {s0 : State}

theorem State.modEnter_keeps {s : State} (m) (h0 : Keeps ms s0 s) :
    Keeps ms s0 (State.modEnter s m) := by
  unfold State.modEnter
  repeat' (first
    | with_reducible assumption | (extract_lets +onlyGivenNames _) | with_reducible apply State.latchFlag_keeps
    | with_reducible apply State.modCmis_keeps)

theorem modUp_keeps {s : State} (h0 : Keeps ms s0 s) :
    Keeps ms s0 (modUp s) := by
  unfold modUp
  repeat' (first
    | with_reducible assumption | (extract_lets +onlyGivenNames _) | with_reducible apply State.wantStep_keeps
    | with_reducible apply State.put_keeps | with_reducible apply State.modEnter_keeps)

theorem modDown_keeps {s : State} (h0 : Keeps ms s0 s) :
    Keeps ms s0 (modDown s) := by
  unfold modDown
  repeat' (first
    | with_reducible assumption | (with_reducible intro _)
    | (extract_lets +onlyGivenNames x; refine (fun hx : Keeps ms s0 x => ?_) ?_; clear_value x; on_goal 2 => subst x)
    | (extract_lets +onlyGivenNames _) | with_reducible apply State.put_keeps
    | with_reducible apply State.modEnter_keeps | with_reducible apply eachBelow_keeps
    | with_reducible apply pathDeinit_keeps | with_reducible apply pathRequest_keeps | split)

theorem follow_keeps {s : State} (h0 : Keeps ms s0 s) :
    Keeps ms s0 (follow s) := by
  unfold follow
  repeat' (first
    | with_reducible assumption | with_reducible apply modUp_keeps | with_reducible apply modDown_keeps | split)

theorem coreUp_keeps {s : State} (h0 : Keeps true s0 s) :
    Keeps true s0 (coreUp s) := by
  unfold coreUp
  repeat' (first
    | with_reducible assumption | (extract_lets +onlyGivenNames _) | with_reducible apply coreStart_keeps
    | with_reducible apply State.modGrant_keeps | with_reducible apply State.put_keeps)

theorem coreDown_keeps {s : State} (h0 : Keeps ms s0 s) :
    Keeps ms s0 (coreDown s) := by
  unfold coreDown
  repeat' (first
    | with_reducible assumption | (extract_lets +onlyGivenNames _) | with_reducible apply State.dropStep_keeps
    | with_reducible apply State.put_keeps)

theorem powerUpPaths_keeps {s : State} (h0 : Keeps ms s0 s) :
    Keeps ms s0 (powerUpPaths s) := by
  unfold powerUpPaths
  repeat' (first | with_reducible assumption | with_reducible apply pathsStart_keeps | split)

theorem execPowerUpComplete_keeps {s : State} (h0 : Keeps true s0 s) :
    KeepsO true s0 (execPowerUpComplete s) := by
  unfold execPowerUpComplete
  repeat' (first
    | with_reducible assumption
    | (extract_lets +onlyGivenNames x; refine (fun hx : Keeps true s0 x => ?_) ?_; clear_value x; on_goal 2 => subst x)
    | (extract_lets +onlyGivenNames _) | with_reducible apply KeepsO.next | with_reducible apply State.put_keeps
    | with_reducible apply coreUp_keeps | with_reducible apply powerUpPaths_keeps | with_reducible apply follow_keeps
    | with_reducible apply State.modEnter_keeps | with_reducible apply State.demand_keeps
    | with_reducible apply State.stepEnd_keeps | split)

theorem keepEnter_keeps {s : State} (h0 : Keeps ms s0 s) :
    Keeps ms s0 (keepEnter s) := by
  unfold keepEnter
  repeat' (first
    | with_reducible assumption | (with_reducible intro _)
    | (extract_lets +onlyGivenNames x; refine (fun hx : Keeps ms s0 x => ?_) ?_; clear_value x; on_goal 2 => subst x)
    | (extract_lets +onlyGivenNames _) | with_reducible apply State.put_keeps
    | with_reducible apply State.dropStep_keeps | with_reducible apply coreDown_keeps
    | with_reducible apply State.demand_keeps | with_reducible apply eachBelow_keeps
    | with_reducible apply pllSquelch_keeps | with_reducible apply State.modPll_keeps)

theorem execPowerDownComplete_keeps {s : State} (h0 : Keeps ms s0 s) :
    KeepsO ms s0 (execPowerDownComplete s) := by
  unfold execPowerDownComplete
  repeat' (first
    | with_reducible assumption | (with_reducible intro _) | (extract_lets +onlyGivenNames _)
    | with_reducible apply KeepsO.next | with_reducible apply follow_keeps
    | with_reducible apply State.modEnter_keeps | with_reducible apply keepEnter_keeps
    | with_reducible apply eachBelow_keeps | with_reducible apply pathAdvance_keeps | split)

theorem modFault_keeps (cause) {s : State} (h1 : Keeps ms s0 s) :
    Keeps ms s0 (modFault cause s) := by
  unfold modFault
  repeat' (first
    | with_reducible assumption
    | (extract_lets +onlyGivenNames x; refine (fun hx : Keeps ms s0 x => ?_) ?_; clear_value x; on_goal 2 => subst x)
    | (extract_lets +onlyGivenNames _) | with_reducible apply State.modEnter_keeps
    | with_reducible apply State.modCmis_keeps | with_reducible apply keepEnter_keeps | split)

theorem execCoreIdleGate_keeps {s : State} (h0 : Keeps ms s0 s) :
    KeepsO ms s0 (execCoreIdleGate s) := by
  unfold execCoreIdleGate
  repeat' (first
    | with_reducible assumption | (extract_lets +onlyGivenNames _) | with_reducible apply KeepsO.next
    | with_reducible apply coreDown_keeps | split)

theorem execCoreUngateComplete_keeps {s : State} (h0 : Keeps true s0 s) :
    KeepsO true s0 (execCoreUngateComplete s) := by
  unfold execCoreUngateComplete
  repeat' (first
    | with_reducible assumption | (extract_lets +onlyGivenNames _) | with_reducible apply KeepsO.next
    | with_reducible apply State.stepEnd_keeps | with_reducible apply coreUp_keeps | split)

theorem execMgmtinitComplete_keeps {s : State} (h0 : Keeps ms s0 s) :
    KeepsO ms s0 (execMgmtinitComplete s) := by
  unfold execMgmtinitComplete
  repeat' (first
    | with_reducible assumption
    | (extract_lets +onlyGivenNames x; refine (fun hx : Keeps ms s0 x => ?_) ?_; clear_value x; on_goal 2 => subst x)
    | (extract_lets +onlyGivenNames _) | with_reducible apply KeepsO.next
    | with_reducible apply State.setCmisByte_keeps | with_reducible apply modFault_keeps
    | with_reducible apply follow_keeps | with_reducible apply State.modEnter_keeps | split)

theorem refused_keeps (k) {s : State} (h1 : Keeps ms s0 s) :
    Keeps ms s0 (refused k s) := by
  unfold refused
  repeat' (first
    | with_reducible assumption | (extract_lets +onlyGivenNames _) | with_reducible apply State.put_keeps
    | with_reducible apply State.addSat_keeps)

theorem anchorAttempt_keeps {s : State} (h0 : Keeps ms s0 s) :
    Keeps ms s0 (anchorAttempt s) := by
  unfold anchorAttempt
  repeat' (first
    | with_reducible assumption | (extract_lets +onlyGivenNames _) | with_reducible apply State.put_keeps
    | with_reducible apply State.modPwr_keeps | with_reducible apply refused_keeps | split)

theorem execAnchorIdleTimeout_keeps {s : State} (h0 : Keeps ms s0 s) :
    KeepsO ms s0 (execAnchorIdleTimeout s) := by
  unfold execAnchorIdleTimeout
  repeat' (first
    | with_reducible assumption | (extract_lets +onlyGivenNames _) | with_reducible apply KeepsO.next
    | with_reducible apply anchorAttempt_keeps | split)

theorem entryEnd_keeps {s : State} (h0 : Keeps ms s0 s) :
    Keeps ms s0 (entryEnd s) := by
  unfold entryEnd
  repeat' (first
    | with_reducible assumption | (extract_lets +onlyGivenNames _) | with_reducible apply State.put_keeps
    | with_reducible apply State.modPwr_keeps)

theorem outputsOff_keeps {s : State} (h0 : Keeps ms s0 s) :
    Keeps ms s0 (outputsOff s) := by
  unfold outputsOff
  repeat' (first
    | with_reducible assumption | (with_reducible intro _)
    | (extract_lets +onlyGivenNames x; refine (fun hx : Keeps ms s0 x => ?_) ?_; clear_value x; on_goal 2 => subst x)
    | (extract_lets +onlyGivenNames _) | with_reducible apply eachBelow_keeps | with_reducible apply State.put_keeps
    | with_reducible apply State.modChan_keeps | with_reducible apply State.dropStep_keeps | split)

theorem anchorDown_keeps {s : State} (h0 : Keeps ms s0 s) :
    Keeps ms s0 (anchorDown s) := by
  unfold anchorDown
  repeat' (first
    | with_reducible assumption | (with_reducible intro _)
    | (extract_lets +onlyGivenNames x; refine (fun hx : Keeps ms s0 x => ?_) ?_; clear_value x; on_goal 2 => subst x)
    | (extract_lets +onlyGivenNames _) | with_reducible apply keeps_foldl
    | with_reducible apply State.riggerHalt_keeps | with_reducible apply fathomStop_keeps
    | with_reducible apply outputsOff_keeps | with_reducible apply State.rawStop_keeps
    | with_reducible apply State.modPwr_keeps | with_reducible apply State.put_keeps)

theorem execAnchorRiggerHalted_keeps {s : State} (h0 : Keeps ms s0 s) :
    KeepsO ms s0 (execAnchorRiggerHalted s) := by
  unfold execAnchorRiggerHalted
  repeat' (first
    | with_reducible assumption | (extract_lets +onlyGivenNames _) | with_reducible apply KeepsO.next
    | with_reducible apply anchorDown_keeps | with_reducible apply refused_keeps
    | with_reducible apply entryEnd_keeps | split)

theorem wakeStart_keeps (code) {s : State} (h1 : Keeps ms s0 s) :
    Keeps ms s0 (wakeStart code s) := by
  unfold wakeStart
  repeat' (first
    | with_reducible assumption
    | (extract_lets +onlyGivenNames x; refine (fun hx : Keeps ms s0 x => ?_) ?_; clear_value x; on_goal 2 => subst x)
    | (extract_lets +onlyGivenNames _) | with_reducible apply State.incWrap_keeps
    | with_reducible apply State.put_keeps | with_reducible apply State.modPwr_keeps | split)

theorem anchorReached_keeps {s : State} (h0 : Keeps ms s0 s) :
    Keeps ms s0 (anchorReached s) := by
  unfold anchorReached
  repeat' (first
    | with_reducible assumption | (with_reducible intro _)
    | (extract_lets +onlyGivenNames x; refine (fun hx : Keeps ms s0 x => ?_) ?_; clear_value x; on_goal 2 => subst x)
    | (extract_lets +onlyGivenNames _) | with_reducible apply eachBelow_keeps
    | with_reducible apply State.aonEdge_keeps | with_reducible apply State.modMon_keeps
    | with_reducible apply State.put_keeps | with_reducible apply State.modPwr_keeps)

theorem execAnchorWindowClose_keeps (cleat) {s : State} (h1 : Keeps ms s0 s) :
    KeepsO ms s0 (execAnchorWindowClose cleat s) := by
  unfold execAnchorWindowClose
  repeat' (first
    | with_reducible assumption
    | (extract_lets +onlyGivenNames x; refine (fun hx : Keeps ms s0 x => ?_) ?_; clear_value x; on_goal 2 => subst x)
    | (extract_lets +onlyGivenNames _) | with_reducible apply KeepsO.next | with_reducible apply anchorReached_keeps
    | with_reducible apply wakeStart_keeps | with_reducible apply State.put_keeps
    | with_reducible apply State.addSat_keeps | split)

theorem edgeWake_keeps (code) {s : State} (h1 : Keeps ms s0 s) :
    Keeps ms s0 (edgeWake code s) := by
  unfold edgeWake
  repeat' (first
    | with_reducible assumption | (extract_lets +onlyGivenNames _) | with_reducible apply entryEnd_keeps
    | with_reducible apply State.put_keeps | with_reducible apply State.addSat_keeps
    | with_reducible apply wakeStart_keeps | split)

theorem execWakeEvent_keeps (k) {s : State} (h1 : Keeps ms s0 s) :
    KeepsO ms s0 (execWakeEvent k s) := by
  unfold execWakeEvent
  repeat' (first
    | with_reducible assumption | (extract_lets +onlyGivenNames _) | with_reducible apply KeepsO.next
    | with_reducible apply edgeWake_keeps | with_reducible apply wakeStart_keeps | split)

theorem wakeKeep_keeps {s : State} (h0 : Keeps ms s0 s) :
    Keeps ms s0 (wakeKeep s) := by
  unfold wakeKeep
  repeat' (first
    | with_reducible assumption
    | (extract_lets +onlyGivenNames x; refine (fun hx : Keeps ms s0 x => ?_) ?_; clear_value x; on_goal 2 => subst x)
    | (extract_lets +onlyGivenNames _) | with_reducible exact Nat.le_max_right _ _
    | with_reducible apply State.putB_keeps | with_reducible apply State.modPwr_keeps
    | with_reducible apply State.put_keeps | with_reducible apply State.modTim_keeps)

theorem execWakeKeepReached_keeps {s : State} (h0 : Keeps ms s0 s) :
    KeepsO ms s0 (execWakeKeepReached s) := by
  unfold execWakeKeepReached
  repeat' (first
    | with_reducible assumption | (extract_lets +onlyGivenNames _) | with_reducible apply KeepsO.next
    | with_reducible apply State.vdrvDemand_keeps | with_reducible apply State.rawRestart_keeps
    | with_reducible apply wakeKeep_keeps | split)

theorem wakeEnds_keeps (code) {s : State} (h1 : Keeps ms s0 s) :
    Keeps ms s0 (wakeEnds code s) := by
  unfold wakeEnds
  repeat' (first
    | with_reducible assumption | (extract_lets +onlyGivenNames _) | with_reducible apply State.post_keeps
    | with_reducible apply State.modPwr_keeps)

theorem wakeFill_keeps {s : State} (h0 : Keeps true s0 s) :
    Keeps true s0 (wakeFill s) := by
  unfold wakeFill
  repeat' (first
    | with_reducible assumption | (with_reducible intro _)
    | (extract_lets +onlyGivenNames x; refine (fun hx : Keeps true s0 x => ?_) ?_; clear_value x; on_goal 2 => subst x)
    | (extract_lets +onlyGivenNames _) | with_reducible exact Nat.le_max_right _ _
    | with_reducible apply Keeps.retain_keeps | with_reducible apply State.modEcc_keeps
    | with_reducible apply eachBelow_keeps | with_reducible apply State.put_keeps
    | exact Bool.noConfusion (‹true = false› : true = false) | split)

theorem execWakeSramFilled_keeps {s : State} (h0 : Keeps true s0 s) :
    KeepsO true s0 (execWakeSramFilled s) := by
  unfold execWakeSramFilled
  repeat' (first
    | with_reducible assumption | (extract_lets +onlyGivenNames _) | with_reducible apply KeepsO.next
    | with_reducible apply wakeFill_keeps | with_reducible apply wakeEnds_keeps | split)

theorem riggerReady_keeps {s : State} (h0 : Keeps ms s0 s) :
    Keeps ms s0 (riggerReady s) := by
  unfold riggerReady
  repeat' (first
    | with_reducible assumption | (with_reducible intro _)
    | (extract_lets +onlyGivenNames x; refine (fun hx : Keeps ms s0 x => ?_) ?_; clear_value x; on_goal 2 => subst x)
    | (extract_lets +onlyGivenNames _) | with_reducible apply State.put_keeps
    | with_reducible apply State.modCmis_keeps | with_reducible apply State.modFw_keeps
    | with_reducible apply restartEnds_keeps | with_reducible apply wakeEnds_keeps
    | with_reducible apply follow_keeps | with_reducible apply eachBelow_keeps
    | with_reducible apply txadjAnswer_keeps | split | dsimp +zetaDelta only)

theorem refLost_keeps {s : State} (h0 : Keeps true s0 s) :
    Keeps true s0 (refLost s) := by
  unfold refLost
  repeat' (first
    | with_reducible assumption | (with_reducible intro _)
    | (extract_lets +onlyGivenNames x; refine (fun hx : Keeps true s0 x => ?_) ?_; clear_value x; on_goal 2 => subst x)
    | (extract_lets +onlyGivenNames _) | with_reducible apply State.postBare_keeps
    | with_reducible apply State.invalidate_keeps | with_reducible apply State.put_keeps
    | with_reducible apply eachBelow_keeps | with_reducible apply laneReset_keeps | split)

theorem execMemsReferenceLoss_keeps {s : State} (h0 : Keeps true s0 s) :
    KeepsO true s0 (execMemsReferenceLoss s) := by
  unfold execMemsReferenceLoss
  repeat' (first
    | with_reducible assumption
    | (extract_lets +onlyGivenNames x; refine (fun hx : Keeps true s0 x => ?_) ?_; clear_value x; on_goal 2 => subst x)
    | (extract_lets +onlyGivenNames _) | with_reducible apply KeepsO.next | with_reducible exact Nat.le_max_right _ _
    | with_reducible apply State.put_keeps | with_reducible apply follow_keeps | with_reducible apply refLost_keeps
    | with_reducible apply State.modTim_keeps | split)

theorem execReferenceRestored_keeps {s : State} (h0 : Keeps ms s0 s) :
    KeepsO ms s0 (execReferenceRestored s) := by
  unfold execReferenceRestored
  repeat' (first
    | with_reducible assumption
    | (extract_lets +onlyGivenNames x; refine (fun hx : Keeps ms s0 x => ?_) ?_; clear_value x; on_goal 2 => subst x)
    | (extract_lets +onlyGivenNames _) | with_reducible apply KeepsO.next | with_reducible exact Nat.le_max_right _ _
    | with_reducible apply State.put_keeps | with_reducible apply follow_keeps
    | with_reducible apply State.modTim_keeps | split)

theorem blkBit_keeps (b) (v) {s : State} (h2 : Keeps ms s0 s) :
    Keeps ms s0 (blkBit b v s) := by
  unfold blkBit
  repeat' (first | with_reducible assumption | with_reducible apply State.setWord_keeps)

theorem blkDisable_keeps (b) {s : State} (h1 : Keeps ms s0 s) :
    Keeps ms s0 (blkDisable b s) := by
  unfold blkDisable
  repeat' (first
    | with_reducible assumption
    | (extract_lets +onlyGivenNames x; refine (fun hx : Keeps ms s0 x => ?_) ?_; clear_value x; on_goal 2 => subst x)
    | (extract_lets +onlyGivenNames _) | with_reducible apply State.put_keeps
    | with_reducible apply State.modPwr_keeps | with_reducible apply blkBit_keeps
    | with_reducible apply coreDown_keeps | split)

theorem blkDeferred_keeps {s : State} (h0 : Keeps ms s0 s) :
    Keeps ms s0 (blkDeferred s) := by
  unfold blkDeferred
  repeat' (first
    | with_reducible assumption | (with_reducible intro _) | (extract_lets +onlyGivenNames _)
    | with_reducible apply keeps_foldl | with_reducible apply blkDisable_keeps
    | with_reducible apply State.modPwr_keeps)

theorem blkEnable_keeps (b) {s : State} (h1 : Keeps ms s0 s) :
    Keeps ms s0 (blkEnable b s) := by
  unfold blkEnable
  repeat' (first
    | with_reducible assumption | (extract_lets +onlyGivenNames _) | with_reducible apply State.modPwr_keeps
    | with_reducible apply blkBit_keeps)

theorem blkEnWrite_keeps (v) {s : State} (h1 : Keeps ms s0 s) :
    Keeps ms s0 (blkEnWrite v s) := by
  unfold blkEnWrite
  repeat' (first
    | with_reducible assumption | (with_reducible intro _)
    | (extract_lets +onlyGivenNames x; refine (fun hx : Keeps ms s0 x => ?_) ?_; clear_value x; on_goal 2 => subst x)
    | (extract_lets +onlyGivenNames _) | with_reducible apply keeps_foldl | with_reducible apply State.put_keeps
    | with_reducible apply State.modPwr_keeps | with_reducible apply blkEnable_keeps
    | with_reducible apply blkDisable_keeps | split)

theorem blkReset_keeps (b) {s : State} (h1 : Keeps true s0 s) :
    Keeps true s0 (blkReset b s) := by
  unfold blkReset
  repeat' (first
    | with_reducible assumption | (with_reducible intro _)
    | (extract_lets +onlyGivenNames x; refine (fun hx : Keeps true s0 x => ?_) ?_; clear_value x; on_goal 2 => subst x)
    | (extract_lets +onlyGivenNames _) | with_reducible apply laneReset_keeps | with_reducible apply eachBelow_keeps
    | with_reducible apply hostReset_keeps | with_reducible apply State.resetRegs_keeps
    | with_reducible apply State.modWinch_keeps | with_reducible apply State.modCap_keeps
    | with_reducible apply coreStart_keeps | with_reducible apply State.put_keeps
    | with_reducible apply State.wantStep_keeps | with_reducible apply State.modHws_keeps
    | with_reducible apply State.modLyd_keeps | split)

theorem execBlockEnableComplete_keeps (b) {s : State} (h1 : Keeps true s0 s) :
    KeepsO true s0 (execBlockEnableComplete b s) := by
  unfold execBlockEnableComplete
  repeat' (first
    | with_reducible assumption | (extract_lets +onlyGivenNames _) | with_reducible apply KeepsO.next
    | with_reducible apply blkReset_keeps | with_reducible apply State.modPwr_keeps | split)

theorem execPowerOn_keeps (unpowered) {s : State} (h1 : Keeps ms s0 s) :
    KeepsO ms s0 (execPowerOn unpowered s) := by
  unfold execPowerOn
  repeat' (first
    | with_reducible assumption
    | (extract_lets +onlyGivenNames x; refine (fun hx : Keeps ms s0 x => ?_) ?_; clear_value x; on_goal 2 => subst x)
    | (extract_lets +onlyGivenNames _) | with_reducible apply KeepsO.next | with_reducible apply State.modPwr_keeps
    | with_reducible apply State.lifeAdd_keeps | with_reducible apply State.put_keeps | split)

theorem execMemsSettleTimeout_keeps {s : State} (h0 : Keeps ms s0 s) :
    KeepsO ms s0 (execMemsSettleTimeout s) := by
  unfold execMemsSettleTimeout
  repeat' (first
    | with_reducible assumption | (extract_lets +onlyGivenNames _) | with_reducible apply KeepsO.next
    | with_reducible apply State.modPwr_keeps | split)

theorem execBrownOut_keeps (vinFell) {s : State} (h1 : Keeps true s0 s) :
    KeepsO true s0 (execBrownOut vinFell s) := by
  unfold execBrownOut
  repeat' (first
    | with_reducible assumption | (extract_lets +onlyGivenNames _) | with_reducible apply KeepsO.next
    | with_reducible apply State.modPwr_keeps | with_reducible apply State.deviceReset_keeps | split)

theorem execVinLoss_keeps {s : State} (h0 : Keeps true s0 s) :
    KeepsO true s0 (execVinLoss s) := by
  unfold execVinLoss
  repeat' (first
    | with_reducible assumption | (extract_lets +onlyGivenNames _) | with_reducible apply KeepsO.next
    | with_reducible apply State.modPwr_keeps | with_reducible apply State.deviceReset_keeps | split)

theorem aonReset_keeps (cause) {s : State} (h1 : Keeps true s0 s) :
    Keeps true s0 (aonReset cause s) := by
  unfold aonReset
  repeat' (first | with_reducible assumption | with_reducible apply State.deviceReset_keeps | split)

theorem execAonWatchdogExpiry_keeps {s : State} (h0 : Keeps true s0 s) :
    KeepsO true s0 (execAonWatchdogExpiry s) := by
  unfold execAonWatchdogExpiry
  repeat' (first
    | with_reducible assumption | (extract_lets +onlyGivenNames _) | with_reducible apply KeepsO.next
    | with_reducible apply aonReset_keeps)

theorem acctBlock_keeps (k) (mW) {s : State} (h2 : Keeps ms s0 s) :
    Keeps ms s0 (acctBlock k mW s) := by
  unfold acctBlock
  repeat' (first
    | with_reducible assumption | (extract_lets +onlyGivenNames _) | with_reducible apply State.put_keeps)

theorem execPowerAccountingUpdate_keeps (mW) (mA) (blocks) {s : State} (h3 : Keeps ms s0 s) :
    KeepsO ms s0 (execPowerAccountingUpdate mW mA blocks s) := by
  unfold execPowerAccountingUpdate
  repeat' (first
    | with_reducible assumption | (with_reducible intro _) | (extract_lets +onlyGivenNames _)
    | with_reducible apply KeepsO.next | with_reducible apply keeps_foldl | with_reducible apply acctBlock_keeps
    | with_reducible apply State.put_keeps | split)

theorem anchorSet_keeps (c) {s : State} (h1 : Keeps ms s0 s) :
    Keeps ms s0 (anchorSet c s) := by
  unfold anchorSet
  repeat' (first
    | with_reducible assumption
    | (extract_lets +onlyGivenNames x; refine (fun hx : Keeps ms s0 x => ?_) ?_; clear_value x; on_goal 2 => subst x)
    | with_reducible apply State.putB_keeps | with_reducible apply State.put_keeps | split)

theorem execSetPowerState_keeps (m) {s : State} (h1 : Keeps ms s0 s) :
    KeepsO ms s0 (execSetPowerState m s) := by
  unfold execSetPowerState
  repeat' (first
    | with_reducible assumption | (with_reducible intro _)
    | (extract_lets +onlyGivenNames x; refine (fun hx : Keeps ms s0 x => ?_) ?_; clear_value x; on_goal 2 => subst x)
    | (extract_lets +onlyGivenNames _) | with_reducible apply KeepsO.next | with_reducible apply runCmd_keeps
    | with_reducible apply State.finish_keeps | with_reducible apply anchorSet_keeps
    | with_reducible apply anchorAttempt_keeps | split)

theorem execGetPowerAccounting_keeps (m) {s : State} (h1 : Keeps true s0 s) :
    KeepsO true s0 (execGetPowerAccounting m s) := by
  unfold execGetPowerAccounting
  repeat' (first
    | with_reducible assumption | (with_reducible intro _)
    | (extract_lets +onlyGivenNames x; refine (fun hx : Keeps true s0 x => ?_) ?_; clear_value x; on_goal 2 => subst x)
    | (extract_lets +onlyGivenNames _) | with_reducible apply KeepsO.next | with_reducible apply runCmd_keeps
    | with_reducible apply State.finishStaged_keeps | with_reducible apply eachBelow_keeps
    | with_reducible apply State.put_keeps)

end Sys2Proof.Machine
end

