-- ==== Sys2Proof/Laws/KeepService.lean ====
section
/-! SUPPORT. Sys2Proof/Laws/KeepService.lean: each operation of Machine/Service.lean keeps what Keeps says. -/

namespace Sys2Proof.Machine

variable {ms : Bool} {s0 : State}

theorem bistReset_keeps (b) {s : State} (h1 : Keeps true s0 s) :
    Keeps true s0 (bistReset b s) := by
  unfold bistReset
  repeat' (first
    | with_reducible assumption | (with_reducible intro _) | (extract_lets +onlyGivenNames _)
    | with_reducible apply laneReset_keeps | with_reducible apply eachBelow_keeps
    | with_reducible apply hostReset_keeps | split)

theorem bistNext_keeps {s : State} (h0 : Keeps true s0 s) :
    Keeps true s0 (bistNext s) := by
  unfold bistNext
  repeat' (first | with_reducible assumption | with_reducible apply bistReset_keeps | split)

theorem bistStart_keeps (c) (bits) {s : State} (h2 : Keeps true s0 s) :
    Keeps true s0 (bistStart c bits s) := by
  unfold bistStart
  repeat' (first
    | with_reducible assumption
    | (extract_lets +onlyGivenNames x; refine (fun hx : Keeps true s0 x => ?_) ?_; clear_value x; on_goal 2 => subst x)
    | (extract_lets +onlyGivenNames _) | with_reducible apply State.put_keeps
    | with_reducible apply State.defer_keeps | with_reducible apply bistNext_keeps
    | with_reducible apply State.modBst_keeps)

theorem execBistRun_keeps (m) {s : State} (h1 : Keeps true s0 s) :
    KeepsO true s0 (execBistRun m s) := by
  unfold execBistRun
  repeat' (first
    | with_reducible assumption | (with_reducible intro _) | (extract_lets +onlyGivenNames _)
    | with_reducible apply KeepsO.next | with_reducible apply runCmd_keeps | with_reducible apply State.finish_keeps
    | with_reducible apply bistStart_keeps | split)

theorem bistRecord_keeps (b) (rest) (failed) (r) {s : State} (h4 : Keeps true s0 s) :
    Keeps true s0 (bistRecord b rest failed r s) := by
  unfold bistRecord
  repeat' (first
    | with_reducible assumption
    | (extract_lets +onlyGivenNames x; refine (fun hx : Keeps true s0 x => ?_) ?_; clear_value x; on_goal 2 => subst x)
    | (extract_lets +onlyGivenNames _) | with_reducible apply State.modBst_keeps
    | with_reducible apply bistReset_keeps | with_reducible apply State.put_keeps)

theorem bistAnswer_keeps {s : State} (h0 : Keeps ms s0 s) :
    Keeps ms s0 (bistAnswer s) := by
  unfold bistAnswer
  repeat' (first
    | with_reducible assumption
    | (extract_lets +onlyGivenNames x; refine (fun hx : Keeps ms s0 x => ?_) ?_; clear_value x; on_goal 2 => subst x)
    | (extract_lets +onlyGivenNames _) | with_reducible apply State.put_keeps
    | with_reducible apply State.modBst_keeps | with_reducible apply State.finish_keeps | (clear_value *; split))

theorem execBistBlockDone_keeps (failed) (us) (m0) (m1) (m2) {s : State} (h5 : Keeps true s0 s) :
    KeepsO true s0 (execBistBlockDone failed us m0 m1 m2 s) := by
  unfold execBistBlockDone
  repeat' (first
    | with_reducible assumption
    | (extract_lets +onlyGivenNames x; refine (fun hx : Keeps true s0 x => ?_) ?_; clear_value x; on_goal 2 => subst x)
    | (extract_lets +onlyGivenNames _) | with_reducible apply KeepsO.next | with_reducible apply bistRecord_keeps
    | with_reducible apply bistAnswer_keeps | with_reducible apply bistNext_keeps | split)

theorem execBistResult_keeps (m) {s : State} (h1 : Keeps true s0 s) :
    KeepsO true s0 (execBistResult m s) := by
  unfold execBistResult
  repeat' (first
    | with_reducible assumption | (with_reducible intro _) | (extract_lets +onlyGivenNames _)
    | with_reducible apply KeepsO.next | with_reducible apply runCmd_keeps
    | with_reducible apply State.finishStaged_keeps | with_reducible apply State.finish_keeps | split)

theorem execRetireLedgerWritten_keeps {s : State} (h0 : Keeps ms s0 s) :
    KeepsO ms s0 (execRetireLedgerWritten s) := by
  unfold execRetireLedgerWritten
  repeat' (first
    | with_reducible assumption | (with_reducible intro _)
    | (extract_lets +onlyGivenNames x; refine (fun hx : Keeps ms s0 x => ?_) ?_; clear_value x; on_goal 2 => subst x)
    | (extract_lets +onlyGivenNames _) | with_reducible apply KeepsO.next | with_reducible exact Nat.le_max_right _ _
    | with_reducible apply State.modEcc_keeps | with_reducible apply State.ledgerAppend_keeps | split
    | dsimp +zetaDelta only)

theorem lifeMinute_keeps {s : State} (h0 : Keeps ms s0 s) :
    Keeps ms s0 (lifeMinute s) := by
  unfold lifeMinute
  repeat' (first
    | with_reducible assumption | (with_reducible intro _)
    | (extract_lets +onlyGivenNames x; refine (fun hx : Keeps ms s0 x => ?_) ?_; clear_value x; on_goal 2 => subst x)
    | (extract_lets +onlyGivenNames _) | with_reducible apply State.lifeAdd_keeps
    | with_reducible apply eachBelow_keeps | split)

theorem execLifetimeMinute_keeps {s : State} (h0 : Keeps ms s0 s) :
    KeepsO ms s0 (execLifetimeMinute s) := by
  unfold execLifetimeMinute
  repeat' (first
    | with_reducible assumption | (extract_lets +onlyGivenNames _) | with_reducible apply KeepsO.next
    | with_reducible apply State.modBst_keeps | with_reducible apply lifeMinute_keeps | split)

theorem lifeAppend_keeps {s : State} (h0 : Keeps ms s0 s) :
    Keeps ms s0 (lifeAppend s) := by
  unfold lifeAppend
  repeat' (first
    | with_reducible assumption
    | (extract_lets +onlyGivenNames x; refine (fun hx : Keeps ms s0 x => ?_) ?_; clear_value x; on_goal 2 => subst x)
    | (extract_lets +onlyGivenNames _) | with_reducible apply State.flashWrite_keeps
    | with_reducible apply State.modBst_keeps)

theorem execLifetimeRecordAppend_keeps {s : State} (h0 : Keeps ms s0 s) :
    KeepsO ms s0 (execLifetimeRecordAppend s) := by
  unfold execLifetimeRecordAppend
  repeat' (first
    | with_reducible assumption | (extract_lets +onlyGivenNames _) | with_reducible apply KeepsO.next
    | with_reducible apply lifeAppend_keeps | split)

end Sys2Proof.Machine
end

