-- ==== Sys2Proof/Laws/KeepHawser.lean ====
section
/-! SUPPORT. Sys2Proof/Laws/KeepHawser.lean: each operation of Machine/Hawser.lean keeps what Keeps says. -/

namespace Sys2Proof.Machine

variable {ms : Bool} {s0 : State}

theorem State.hwReport_keeps {s : State} (topo) (h0 : Keeps ms s0 s) :
    Keeps ms s0 (State.hwReport s topo) := by
  unfold State.hwReport
  repeat' (first
    | with_reducible assumption | with_reducible apply State.modHws_keeps | with_reducible apply State.hwSendTo_keeps
    | split)

theorem forwardsLost_keeps (p) {s : State} (h1 : Keeps ms s0 s) :
    Keeps ms s0 (forwardsLost p s) := by
  unfold forwardsLost
  repeat' (first
    | with_reducible assumption | (with_reducible intro _)
    | (extract_lets +onlyGivenNames x; refine (fun hx : Keeps ms s0 x => ?_) ?_; clear_value x; on_goal 2 => subst x)
    | (extract_lets +onlyGivenNames _) | with_reducible apply keeps_foldl | with_reducible apply State.modHws_keeps
    | with_reducible apply State.finish_keeps | split)

theorem partsGone_keeps (now) {s : State} (h1 : Keeps ms s0 s) :
    Keeps ms s0 (partsGone now s) := by
  unfold partsGone
  repeat' (first
    | (extract_lets +onlyGivenNames _) | with_reducible exact Nat.le_max_right _ _
    | with_reducible exact Mbx.Within.refl _ | (with_reducible apply Keeps.lit; with_reducible assumption)
    | dsimp +zetaDelta only)

theorem runEnds_keeps (next) {s : State} (h1 : Keeps ms s0 s) :
    Keeps ms s0 (runEnds next s) := by
  unfold runEnds
  repeat' (first
    | with_reducible assumption | (with_reducible intro _)
    | (extract_lets +onlyGivenNames x; refine (fun hx : Keeps ms s0 x => ?_) ?_; clear_value x; on_goal 2 => subst x)
    | (extract_lets +onlyGivenNames _) | with_reducible apply keeps_foldl | with_reducible apply State.modHws_keeps
    | with_reducible apply partsGone_keeps | with_reducible apply State.put_keeps
    | with_reducible apply State.putB_keeps | with_reducible apply State.post_keeps
    | with_reducible apply forwardsLost_keeps | with_reducible apply State.finishWhere_keeps | split)

theorem discNext_keeps (fuel) {s : State} (h1 : Keeps ms s0 s) :
    Keeps ms s0 (discNext fuel s) := by
  induction fuel generalizing s with
  | zero => unfold discNext; exact h1
  | succ fuel ih =>
    unfold discNext
    repeat' (first
      | with_reducible assumption
      | (extract_lets +onlyGivenNames x; refine (fun hx : Keeps ms s0 x => ?_) ?_; clear_value x; on_goal 2 => subst x)
      | (extract_lets +onlyGivenNames _) | with_reducible apply State.modHws_keeps
      | with_reducible apply State.hwEmit_keeps | with_reducible apply runEnds_keeps
      | with_reducible apply State.put_keeps | split)
    cases ‹fuel + 1 = _›
    with_reducible apply ih
    with_reducible apply State.modHws_keeps
    with_reducible assumption

theorem runClear_keeps {s : State} (h0 : Keeps ms s0 s) :
    Keeps ms s0 (runClear s) := by
  unfold runClear
  repeat' (first
    | with_reducible assumption | (with_reducible intro _) | (extract_lets +onlyGivenNames _)
    | with_reducible apply eachBelow_keeps | with_reducible apply State.modPort_keeps
    | with_reducible apply State.put_keeps)

theorem discStart_keeps {s : State} (h0 : Keeps ms s0 s) :
    Keeps ms s0 (discStart s) := by
  unfold discStart
  repeat' (first
    | with_reducible assumption
    | (extract_lets +onlyGivenNames x; refine (fun hx : Keeps ms s0 x => ?_) ?_; clear_value x; on_goal 2 => subst x)
    | (extract_lets +onlyGivenNames _) | with_reducible apply State.incWrap_keeps
    | with_reducible apply runClear_keeps | with_reducible apply State.modHws_keeps
    | with_reducible apply State.put_keeps | with_reducible apply discNext_keeps | split)

theorem execDiscoveryDelayExpiry_keeps {s : State} (h0 : Keeps ms s0 s) :
    KeepsO ms s0 (execDiscoveryDelayExpiry s) := by
  unfold execDiscoveryDelayExpiry
  repeat' (first
    | with_reducible assumption | (extract_lets +onlyGivenNames _) | with_reducible apply KeepsO.next
    | with_reducible apply discStart_keeps | split)

theorem assignIn_keeps (u) (next) (leader) (e) (hops) {s : State} (h5 : Keeps ms s0 s) :
    Keeps ms s0 (assignIn u next leader e hops s) := by
  unfold assignIn
  repeat' (first
    | with_reducible assumption
    | (extract_lets +onlyGivenNames x; refine (fun hx : Keeps ms s0 x => ?_) ?_; clear_value x; on_goal 2 => subst x)
    | (extract_lets +onlyGivenNames _) | with_reducible apply State.hwEmit_keeps
    | with_reducible apply State.put_keeps | with_reducible apply State.post_keeps
    | with_reducible apply State.hwSendTo_keeps | with_reducible apply runClear_keeps
    | with_reducible apply State.free_keeps | with_reducible apply State.modHws_keeps
    | with_reducible apply discNext_keeps | with_reducible apply State.hwReport_keeps | split)

theorem doneIn_keeps (p) (r) {s : State} (h2 : Keeps ms s0 s) :
    Keeps ms s0 (doneIn p r s) := by
  unfold doneIn
  repeat' (first
    | with_reducible assumption
    | (extract_lets +onlyGivenNames x; refine (fun hx : Keeps ms s0 x => ?_) ?_; clear_value x; on_goal 2 => subst x)
    | (extract_lets +onlyGivenNames _) | with_reducible apply State.modHws_keeps
    | with_reducible apply State.hwSendTo_keeps | with_reducible apply discNext_keeps
    | with_reducible apply State.modPort_keeps | with_reducible apply State.put_keeps
    | with_reducible apply State.post_keeps | split | dsimp +zetaDelta only)

theorem hwAlone_keeps {s : State} (h0 : Keeps ms s0 s) :
    Keeps ms s0 (hwAlone s) := by
  unfold hwAlone
  repeat' (first
    | with_reducible assumption
    | (extract_lets +onlyGivenNames x; refine (fun hx : Keeps ms s0 x => ?_) ?_; clear_value x; on_goal 2 => subst x)
    | (extract_lets +onlyGivenNames _) | with_reducible apply State.put_keeps
    | with_reducible apply State.modHws_keeps | with_reducible apply runClear_keeps)

theorem portDown_keeps (p) (to_) {s : State} (h2 : Keeps ms s0 s) :
    Keeps ms s0 (portDown p to_ s) := by
  unfold portDown
  repeat' (first
    | with_reducible assumption
    | (extract_lets +onlyGivenNames x; refine (fun hx : Keeps ms s0 x => ?_) ?_; clear_value x; on_goal 2 => subst x)
    | (extract_lets +onlyGivenNames _) | with_reducible apply State.modPort_keeps
    | with_reducible apply State.put_keeps | with_reducible apply State.modHws_keeps
    | with_reducible apply State.addSat_keeps | with_reducible apply hwAlone_keeps
    | with_reducible apply State.hwReport_keeps | with_reducible apply discNext_keeps | split)

theorem firManual_keeps (p) {s : State} (h1 : Keeps ms s0 s) :
    Keeps ms s0 (firManual p s) := by
  unfold firManual
  repeat' (first
    | with_reducible assumption | (extract_lets +onlyGivenNames _) | with_reducible apply State.put_keeps | split)

theorem hwsCtrlWrite_keeps (p) (v) {s : State} (h2 : Keeps ms s0 s) :
    Keeps ms s0 (hwsCtrlWrite p v s) := by
  unfold hwsCtrlWrite
  repeat' (first
    | with_reducible assumption
    | (extract_lets +onlyGivenNames x; refine (fun hx : Keeps ms s0 x => ?_) ?_; clear_value x; on_goal 2 => subst x)
    | (extract_lets +onlyGivenNames _) | with_reducible apply firManual_keeps
    | with_reducible apply State.writePlain_keeps | with_reducible apply portDown_keeps
    | with_reducible apply State.put_keeps | split)

theorem execHawserDetectPulse_keeps (p) (load) {s : State} (h2 : Keeps ms s0 s) :
    KeepsO ms s0 (execHawserDetectPulse p load s) := by
  unfold execHawserDetectPulse
  repeat' (first
    | with_reducible assumption
    | (extract_lets +onlyGivenNames x; refine (fun hx : Keeps ms s0 x => ?_) ?_; clear_value x; on_goal 2 => subst x)
    | (extract_lets +onlyGivenNames _) | with_reducible apply KeepsO.next | with_reducible apply edgeWake_keeps
    | with_reducible apply State.put_keeps | split)

theorem trainStep_keeps (p) (pre) (post) {s : State} (h3 : Keeps ms s0 s) :
    Keeps ms s0 (trainStep p pre post s) := by
  unfold trainStep
  repeat' (first
    | with_reducible assumption | (extract_lets +onlyGivenNames _) | with_reducible apply State.putB_keeps
    | with_reducible apply State.put_keeps | split)

theorem trainAsk_keeps (p) (done) (askPre) (askPost) {s : State} (h4 : Keeps ms s0 s) :
    Keeps ms s0 (trainAsk p done askPre askPost s) := by
  unfold trainAsk
  repeat' (first
    | with_reducible assumption
    | (extract_lets +onlyGivenNames x; refine (fun hx : Keeps ms s0 x => ?_) ?_; clear_value x; on_goal 2 => subst x)
    | (extract_lets +onlyGivenNames _) | with_reducible apply State.modPort_keeps
    | with_reducible apply State.hwEmit_keeps)

theorem execTrainingSetRx_keeps (p) (pre) (post) (done) (askPre) (askPost) {s : State} (h6 : Keeps ms s0 s) :
    KeepsO ms s0 (execTrainingSetRx p pre post done askPre askPost s) := by
  unfold execTrainingSetRx
  repeat' (first
    | with_reducible assumption
    | (extract_lets +onlyGivenNames x; refine (fun hx : Keeps ms s0 x => ?_) ?_; clear_value x; on_goal 2 => subst x)
    | (extract_lets +onlyGivenNames _) | with_reducible apply KeepsO.next | with_reducible apply trainAsk_keeps
    | with_reducible apply trainStep_keeps | with_reducible apply State.put_keeps | split)

theorem execHawserSymbolLock_keeps (p) {s : State} (h1 : Keeps ms s0 s) :
    KeepsO ms s0 (execHawserSymbolLock p s) := by
  unfold execHawserSymbolLock
  repeat' (first
    | with_reducible assumption
    | (extract_lets +onlyGivenNames x; refine (fun hx : Keeps ms s0 x => ?_) ?_; clear_value x; on_goal 2 => subst x)
    | (extract_lets +onlyGivenNames _) | with_reducible apply KeepsO.next | with_reducible apply State.put_keeps
    | with_reducible apply State.hwEmit_keeps | split)

theorem portActive_keeps (p) {s : State} (h1 : Keeps ms s0 s) :
    Keeps ms s0 (portActive p s) := by
  unfold portActive
  repeat' (first
    | with_reducible assumption | (extract_lets +onlyGivenNames _) | with_reducible apply State.hwReport_keeps
    | with_reducible apply State.put_keeps | split)

theorem capsTaken_keeps (p) (l) {s : State} (h2 : Keeps ms s0 s) :
    Keeps ms s0 (capsTaken p l s) := by
  unfold capsTaken
  repeat' (first
    | with_reducible assumption
    | (extract_lets +onlyGivenNames x; refine (fun hx : Keeps ms s0 x => ?_) ?_; clear_value x; on_goal 2 => subst x)
    | (extract_lets +onlyGivenNames _) | with_reducible apply State.modPort_keeps
    | with_reducible apply State.setWord_keeps | with_reducible apply State.put_keeps
    | with_reducible apply State.putB_keeps)

theorem execCapsRx_keeps (p) (caps) {s : State} (h2 : Keeps ms s0 s) :
    KeepsO ms s0 (execCapsRx p caps s) := by
  unfold execCapsRx
  repeat' (first
    | with_reducible assumption
    | (extract_lets +onlyGivenNames x; refine (fun hx : Keeps ms s0 x => ?_) ?_; clear_value x; on_goal 2 => subst x)
    | (extract_lets +onlyGivenNames _) | with_reducible apply KeepsO.next | with_reducible apply capsTaken_keeps
    | with_reducible apply portActive_keeps | with_reducible apply State.hwEmit_keeps | split)

theorem execHawserStateTimeout_keeps (p) {s : State} (h1 : Keeps ms s0 s) :
    KeepsO ms s0 (execHawserStateTimeout p s) := by
  unfold execHawserStateTimeout
  repeat' (first
    | with_reducible assumption | (extract_lets +onlyGivenNames _) | with_reducible apply KeepsO.next
    | with_reducible apply portDown_keeps | with_reducible apply State.addSat_keeps | split)

theorem execHawserLos_keeps (p) {s : State} (h1 : Keeps ms s0 s) :
    KeepsO ms s0 (execHawserLos p s) := by
  unfold execHawserLos
  repeat' (first
    | with_reducible assumption
    | (extract_lets +onlyGivenNames x; refine (fun hx : Keeps ms s0 x => ?_) ?_; clear_value x; on_goal 2 => subst x)
    | (extract_lets +onlyGivenNames _) | with_reducible apply KeepsO.next | with_reducible apply State.put_keeps
    | with_reducible apply portDown_keeps | split)

theorem execHawserLosDeassert_keeps (p) {s : State} (h1 : Keeps ms s0 s) :
    KeepsO ms s0 (execHawserLosDeassert p s) := by
  unfold execHawserLosDeassert
  repeat' (first
    | with_reducible assumption | (extract_lets +onlyGivenNames _) | with_reducible apply KeepsO.next
    | with_reducible apply State.put_keeps)

theorem hwLol_keeps (p) {s : State} (h1 : Keeps ms s0 s) :
    Keeps ms s0 (hwLol p s) := by
  unfold hwLol
  repeat' (first
    | with_reducible assumption
    | (extract_lets +onlyGivenNames x; refine (fun hx : Keeps ms s0 x => ?_) ?_; clear_value x; on_goal 2 => subst x)
    | (extract_lets +onlyGivenNames _) | with_reducible apply State.put_keeps | with_reducible apply portDown_keeps
    | split)

theorem lineTick_keeps (p) (g) {s : State} (h2 : Keeps ms s0 s) :
    Keeps ms s0 (lineTick p g s) := by
  unfold lineTick
  repeat' (first
    | with_reducible assumption
    | (extract_lets +onlyGivenNames x; refine (fun hx : Keeps ms s0 x => ?_) ?_; clear_value x; on_goal 2 => subst x)
    | (extract_lets +onlyGivenNames _) | with_reducible apply State.modPort_keeps
    | with_reducible apply State.perf_keeps | with_reducible apply State.addSat_keeps | split)

theorem lineTicks_keeps (p) (cdr) (l) {s : State} (h3 : Keeps ms s0 s) :
    Keeps ms s0 (lineTicks p cdr l s).1 := by
  unfold lineTicks
  repeat' (first
    | with_reducible assumption | (with_reducible intro _)
    | (extract_lets +onlyGivenNames x; refine (fun hx : Keeps ms s0 x => ?_) ?_; clear_value x; on_goal 2 => subst x)
    | with_reducible apply keeps_foldl_fst | with_reducible apply lineTick_keeps)

theorem execHawserLol_keeps (p) (l) {s : State} (h3 : Keeps ms s0 s) :
    KeepsO ms s0 (execHawserLol p l s) := by
  unfold execHawserLol
  repeat' (first
    | with_reducible assumption | (extract_lets +onlyGivenNames _) | with_reducible apply KeepsO.next
    | with_reducible apply lineTicks_keeps | with_reducible apply hwLol_keeps | split)

theorem hwDrop_keeps (h) (m) {s : State} (h2 : Keeps ms s0 s) :
    Keeps ms s0 (hwDrop h m s) := by
  unfold hwDrop
  repeat' (first
    | with_reducible assumption
    | (extract_lets +onlyGivenNames x; refine (fun hx : Keeps ms s0 x => ?_) ?_; clear_value x; on_goal 2 => subst x)
    | (extract_lets +onlyGivenNames _) | with_reducible apply State.addSat_keeps
    | with_reducible apply State.hwSendTo_keeps | split)

theorem hwForward_keeps (h) (m) {s : State} (h2 : Keeps ms s0 s) :
    Keeps ms s0 (hwForward h m s) := by
  unfold hwForward
  repeat' (first
    | with_reducible assumption | (extract_lets +onlyGivenNames _) | with_reducible apply State.perf_keeps
    | with_reducible apply State.hwEmit_keeps | with_reducible apply hwDrop_keeps | split)

theorem hwCopy_keeps (h) (m) {s : State} (h2 : Keeps ms s0 s) :
    Keeps ms s0 (hwCopy h m s) := by
  unfold hwCopy
  repeat' (first
    | with_reducible assumption | (with_reducible intro _) | (extract_lets +onlyGivenNames _)
    | with_reducible apply eachBelow_keeps | with_reducible apply State.perf_keeps
    | with_reducible apply State.hwEmit_keeps | split)

theorem hwBroadcast_keeps (m) {s : State} (h1 : Keeps ms s0 s) :
    Keeps ms s0 (hwBroadcast m s) := by
  unfold hwBroadcast
  repeat' (first
    | with_reducible assumption | (with_reducible intro _) | (extract_lets +onlyGivenNames _)
    | with_reducible apply eachBelow_keeps | with_reducible apply State.hwEmit_keeps | split)

theorem hwArrive_keeps (p) (h) (m) (deliver) (keep) {s : State} (h3 : ∀ t0, Keeps ms s0 t0 → Keeps ms s0 (deliver t0)) (h5 : Keeps ms s0 s) :
    Keeps ms s0 (hwArrive p h m deliver keep s) := by
  unfold hwArrive
  repeat' (first
    | with_reducible assumption
    | (extract_lets +onlyGivenNames x; refine (fun hx : Keeps ms s0 x => ?_) ?_; clear_value x; on_goal 2 => subst x)
    | (extract_lets +onlyGivenNames _) | with_reducible apply h3 | with_reducible apply hwCopy_keeps
    | with_reducible apply hwForward_keeps | with_reducible apply State.hwEmit_keeps
    | with_reducible apply State.modPort_keeps | split | dsimp +zetaDelta only)

theorem creditsIn_keeps (p) (ack) (credits) {s : State} (h3 : Keeps ms s0 s) :
    Keeps ms s0 (creditsIn p ack credits s) := by
  unfold creditsIn
  repeat' (first
    | with_reducible assumption | (with_reducible intro _)
    | (extract_lets +onlyGivenNames x; refine (fun hx : Keeps ms s0 x => ?_) ?_; clear_value x; on_goal 2 => subst x)
    | (extract_lets +onlyGivenNames _) | with_reducible apply keeps_foldl | with_reducible apply State.modPort_keeps
    | with_reducible apply State.hwReliable_keeps)

theorem replayFrom_keeps (p) (ack) (credits) (q) {s : State} (h4 : Keeps ms s0 s) :
    Keeps ms s0 (replayFrom p ack credits q s) := by
  unfold replayFrom
  repeat' (first
    | with_reducible assumption | (with_reducible intro _)
    | (extract_lets +onlyGivenNames x; refine (fun hx : Keeps ms s0 x => ?_) ?_; clear_value x; on_goal 2 => subst x)
    | (extract_lets +onlyGivenNames _) | with_reducible apply keeps_foldl | with_reducible apply State.hwLine_keeps
    | with_reducible apply State.addSat_keeps | with_reducible apply State.modPort_keeps)

theorem execLinkFrameRx_keeps (p) (ack) (credits) (replay) {s : State} (h4 : Keeps ms s0 s) :
    KeepsO ms s0 (execLinkFrameRx p ack credits replay s) := by
  unfold execLinkFrameRx
  repeat' (first
    | with_reducible assumption | (extract_lets +onlyGivenNames _) | with_reducible apply KeepsO.next
    | with_reducible apply portActive_keeps | with_reducible apply creditsIn_keeps | with_reducible apply hwLol_keeps
    | with_reducible apply replayFrom_keeps | split)

theorem execAssignRx_keeps (u) (next) (leader) (e) (hops) {s : State} (h5 : Keeps ms s0 s) :
    KeepsO ms s0 (execAssignRx u next leader e hops s) := by
  unfold execAssignRx
  repeat' (first
    | with_reducible assumption | (extract_lets +onlyGivenNames _) | with_reducible apply KeepsO.next
    | with_reducible apply assignIn_keeps | split)

theorem execDoneRx_keeps (p) (r) {s : State} (h2 : Keeps ms s0 s) :
    KeepsO ms s0 (execDoneRx p r s) := by
  unfold execDoneRx
  repeat' (first
    | with_reducible assumption | (extract_lets +onlyGivenNames _) | with_reducible apply KeepsO.next
    | with_reducible apply doneIn_keeps | split)

theorem suspectEval_keeps (good) {s : State} (h1 : Keeps ms s0 s) :
    Keeps ms s0 (suspectEval good s) := by
  unfold suspectEval
  repeat' (first
    | with_reducible assumption
    | (extract_lets +onlyGivenNames x; refine (fun hx : Keeps ms s0 x => ?_) ?_; clear_value x; on_goal 2 => subst x)
    | (extract_lets +onlyGivenNames _) | with_reducible apply State.modHws_keeps
    | with_reducible apply State.put_keeps | with_reducible apply State.hwReport_keeps | split)

theorem syncMissed_keeps {s : State} (h0 : Keeps ms s0 s) :
    Keeps ms s0 (syncMissed s) := by
  unfold syncMissed
  repeat' (first
    | with_reducible assumption
    | (extract_lets +onlyGivenNames x; refine (fun hx : Keeps ms s0 x => ?_) ?_; clear_value x; on_goal 2 => subst x)
    | with_reducible apply State.addSat_keeps | with_reducible apply suspectEval_keeps | split)

theorem execSyncPeriod_keeps {s : State} (h0 : Keeps ms s0 s) :
    KeepsO ms s0 (execSyncPeriod s) := by
  unfold execSyncPeriod
  repeat' (first
    | with_reducible assumption
    | (extract_lets +onlyGivenNames x; refine (fun hx : Keeps ms s0 x => ?_) ?_; clear_value x; on_goal 2 => subst x)
    | (extract_lets +onlyGivenNames _) | with_reducible apply KeepsO.next | with_reducible apply syncMissed_keeps
    | with_reducible apply State.hwEmit_keeps | with_reducible apply State.modHws_keeps | split)

theorem execSyncReqRx_keeps (p) (delay) {s : State} (h2 : Keeps ms s0 s) :
    KeepsO ms s0 (execSyncReqRx p delay s) := by
  unfold execSyncReqRx
  repeat' (first
    | with_reducible assumption | (extract_lets +onlyGivenNames _) | with_reducible apply KeepsO.next
    | with_reducible apply State.hwEmit_keeps | split)

theorem servo_keeps (theta) {s : State} (h1 : Keeps ms s0 s) :
    Keeps ms s0 (servo theta s) := by
  unfold servo
  repeat' (first
    | with_reducible assumption
    | (extract_lets +onlyGivenNames x; refine (fun hx : Keeps ms s0 x => ?_) ?_; clear_value x; on_goal 2 => subst x)
    | (extract_lets +onlyGivenNames _) | with_reducible apply State.modHws_keeps
    | with_reducible apply State.requestTime_keeps | with_reducible apply State.put_keeps
    | with_reducible apply State.freeRound_keeps | split | (with_reducible refine Keeps.ofSnd ‹_› ?_))

theorem syncServo_keeps (theta) (coarse) (invalid) {s : State} (h3 : Keeps ms s0 s) :
    Keeps ms s0 (syncServo theta coarse invalid s) := by
  unfold syncServo
  repeat' (first
    | with_reducible assumption
    | (extract_lets +onlyGivenNames x; refine (fun hx : Keeps ms s0 x => ?_) ?_; clear_value x; on_goal 2 => subst x)
    | (extract_lets +onlyGivenNames _) | with_reducible apply State.put_keeps | with_reducible apply servo_keeps
    | with_reducible apply State.modHws_keeps | with_reducible apply ppsGate_keeps
    | with_reducible apply State.putB_keeps | split)

theorem syncBound_keeps (theta) (e) {s : State} (h2 : Keeps ms s0 s) :
    Keeps ms s0 (syncBound theta e s) := by
  unfold syncBound
  repeat' (first
    | with_reducible assumption
    | (extract_lets +onlyGivenNames x; refine (fun hx : Keeps ms s0 x => ?_) ?_; clear_value x; on_goal 2 => subst x)
    | (extract_lets +onlyGivenNames _) | with_reducible apply State.modHws_keeps
    | with_reducible apply State.freeRound_keeps | with_reducible apply State.put_keeps)

theorem execSyncRespRx_keeps (p) (t2) (t3) (e) (coarse) (invalid) {s : State} (h6 : Keeps ms s0 s) :
    KeepsO ms s0 (execSyncRespRx p t2 t3 e coarse invalid s) := by
  unfold execSyncRespRx
  repeat' (first
    | with_reducible assumption
    | (extract_lets +onlyGivenNames x; refine (fun hx : Keeps ms s0 x => ?_) ?_; clear_value x; on_goal 2 => subst x)
    | (extract_lets +onlyGivenNames _) | with_reducible apply KeepsO.next | with_reducible apply syncBound_keeps
    | with_reducible apply syncServo_keeps | with_reducible apply suspectEval_keeps | split)

theorem execPgtkiRise_keeps (head) {s : State} (h1 : Keeps ms s0 s) :
    KeepsO ms s0 (execPgtkiRise head s) := by
  unfold execPgtkiRise
  repeat' (first
    | with_reducible assumption
    | (extract_lets +onlyGivenNames x; refine (fun hx : Keeps ms s0 x => ?_) ?_; clear_value x; on_goal 2 => subst x)
    | (extract_lets +onlyGivenNames _) | with_reducible apply KeepsO.next | with_reducible apply State.modGrant_keeps
    | with_reducible apply State.pass_keeps | with_reducible apply State.takeStep_keeps | split)

theorem execPgtkiFall_keeps {s : State} (h0 : Keeps ms s0 s) :
    KeepsO ms s0 (execPgtkiFall s) := by
  unfold execPgtkiFall
  repeat' (first
    | with_reducible assumption | (extract_lets +onlyGivenNames _) | with_reducible apply KeepsO.next
    | with_reducible apply State.modGrant_keeps)

theorem execPowerGrantRoundEnd_keeps {s : State} (h0 : Keeps ms s0 s) :
    KeepsO ms s0 (execPowerGrantRoundEnd s) := by
  unfold execPowerGrantRoundEnd
  repeat' (first
    | with_reducible assumption | (extract_lets +onlyGivenNames _) | with_reducible apply KeepsO.next
    | with_reducible apply State.takeStep_keeps | with_reducible apply State.modGrant_keeps | split)

theorem execPowerGrantStepEnd_keeps (low) {s : State} (h1 : Keeps ms s0 s) :
    KeepsO ms s0 (execPowerGrantStepEnd low s) := by
  unfold execPowerGrantStepEnd
  repeat' (first
    | with_reducible assumption
    | (extract_lets +onlyGivenNames x; refine (fun hx : Keeps ms s0 x => ?_) ?_; clear_value x; on_goal 2 => subst x)
    | (extract_lets +onlyGivenNames _) | with_reducible apply KeepsO.next | with_reducible apply State.modGrant_keeps
    | with_reducible apply State.stepEnd_keeps | with_reducible apply State.pass_keeps | split)

end Sys2Proof.Machine
end

