-- ==== Sys2Proof/Laws/KeepVdm.lean ====
section
/-! SUPPORT. Sys2Proof/Laws/KeepVdm.lean: each operation of Machine/Vdm.lean keeps what Keeps says. -/

namespace Sys2Proof.Machine

variable {ms : Bool} {s0 : State}

theorem vdmEach_keeps (f) {s : State} (h1 : Keeps ms s0 s) :
    Keeps ms s0 (vdmEach f s) := by
  unfold vdmEach
  repeat' (first | with_reducible assumption | with_reducible apply State.modCmis_keeps)

theorem vdmSample_keeps {s : State} (h0 : Keeps ms s0 s) :
    Keeps ms s0 (vdmSample s) := by
  unfold vdmSample
  repeat' (first
    | with_reducible assumption | (extract_lets +onlyGivenNames _) | with_reducible apply vdmEach_keeps
    | with_reducible apply State.modCmis_keeps)

theorem vdmRefresh_keeps {s : State} (h0 : Keeps ms s0 s) :
    Keeps ms s0 (vdmRefresh s) := by
  unfold vdmRefresh
  repeat' (first | with_reducible assumption | with_reducible apply vdmSample_keeps | split)

theorem vdmHold_keeps {s : State} (h0 : Keeps ms s0 s) :
    Keeps ms s0 (vdmHold s) := by
  unfold vdmHold
  repeat' (first
    | with_reducible assumption
    | (extract_lets +onlyGivenNames x; refine (fun hx : Keeps ms s0 x => ?_) ?_; clear_value x; on_goal 2 => subst x)
    | (extract_lets +onlyGivenNames _) | with_reducible apply vdmSample_keeps | with_reducible apply vdmEach_keeps
    | with_reducible apply State.modCmis_keeps)

theorem vdmFlags_keeps (b) (g) (o) {s : State} (h3 : Keeps ms s0 s) :
    Keeps ms s0 (vdmFlags b g o s) := by
  unfold vdmFlags
  repeat' (first
    | with_reducible assumption | (with_reducible intro _) | (extract_lets +onlyGivenNames _)
    | with_reducible apply eachBelow_keeps | with_reducible apply State.latchFlag_keeps | split)

end Sys2Proof.Machine
end

