-- ==== Sys2Proof/Laws/KeepControls.lean ====
section
/-! SUPPORT. Sys2Proof/Laws/KeepControls.lean: each operation of Machine/Controls.lean keeps what Keeps says. -/

namespace Sys2Proof.Machine

variable {ms : Bool} {s0 : State}

theorem ran_keeps {s : State} (a1) (h0 : Keeps ms s0 s) (h1 : KeepsO ms s0 a1) :
    Keeps ms s0 (ran s a1) := by
  unfold ran
  split
  · exact h1 _ rfl
  · exact h0

theorem lowRequests_keeps (pin) (sw) {s : State} (h2 : Keeps ms s0 s) :
    Keeps ms s0 (lowRequests pin sw s) := by
  unfold lowRequests
  repeat' (first
    | with_reducible assumption
    | (extract_lets +onlyGivenNames x; refine (fun hx : Keeps ms s0 x => ?_) ?_; clear_value x; on_goal 2 => subst x)
    | with_reducible apply State.modCmis_keeps | with_reducible apply State.setCmisByte_keeps | split)

theorem execLowPowerRequestChange_keeps (pin) (sw) {s : State} (h2 : Keeps ms s0 s) :
    KeepsO ms s0 (execLowPowerRequestChange pin sw s) := by
  unfold execLowPowerRequestChange
  repeat' (first
    | with_reducible assumption
    | (extract_lets +onlyGivenNames x; refine (fun hx : Keeps ms s0 x => ?_) ?_; clear_value x; on_goal 2 => subst x)
    | (extract_lets +onlyGivenNames _) | with_reducible apply KeepsO.next | with_reducible apply lowRequests_keeps
    | with_reducible apply follow_keeps | with_reducible apply wakeStart_keeps | split)

theorem execModselChange_keeps (p) {s : State} (h1 : Keeps ms s0 s) :
    KeepsO ms s0 (execModselChange p s) := by
  unfold execModselChange
  repeat' (first
    | with_reducible assumption | (extract_lets +onlyGivenNames _) | with_reducible apply KeepsO.next
    | with_reducible apply State.modCmis_keeps | split)

theorem execSidebandReset_keeps (p) {s : State} (h1 : Keeps true s0 s) :
    KeepsO true s0 (execSidebandReset s p) := by
  unfold execSidebandReset
  repeat' (first
    | with_reducible assumption
    | (extract_lets +onlyGivenNames x; refine (fun hx : Keeps true s0 x => ?_) ?_; clear_value x; on_goal 2 => subst x)
    | (extract_lets +onlyGivenNames _) | with_reducible apply KeepsO.next | with_reducible apply State.modCmis_keeps
    | with_reducible apply aonReset_keeps | split)

theorem execCmisSoftwareReset_keeps {s : State} (h0 : Keeps true s0 s) :
    KeepsO true s0 (execCmisSoftwareReset s) := by
  unfold execCmisSoftwareReset
  repeat' (first
    | with_reducible assumption | (extract_lets +onlyGivenNames _) | with_reducible apply KeepsO.next
    | with_reducible apply aonReset_keeps)

theorem execHostPasswordEntry_keeps (v) {s : State} (h1 : Keeps ms s0 s) :
    KeepsO ms s0 (execHostPasswordEntry v s) := by
  unfold execHostPasswordEntry
  repeat' (first
    | with_reducible assumption | (extract_lets +onlyGivenNames _) | with_reducible apply KeepsO.next
    | with_reducible apply State.modCmis_keeps)

theorem execHostPasswordChange_keeps (v) {s : State} (h1 : Keeps ms s0 s) :
    KeepsO ms s0 (execHostPasswordChange v s) := by
  unfold execHostPasswordChange
  repeat' (first
    | with_reducible assumption | (with_reducible intro _) | (extract_lets +onlyGivenNames _)
    | with_reducible apply KeepsO.next | with_reducible apply State.modFw_keeps | split | dsimp +zetaDelta only)

theorem execVdmFreeze_keeps {s : State} (h0 : Keeps ms s0 s) :
    KeepsO ms s0 (execVdmFreeze s) := by
  unfold execVdmFreeze
  repeat' (first
    | with_reducible assumption | (with_reducible intro _)
    | (extract_lets +onlyGivenNames x; refine (fun hx : Keeps ms s0 x => ?_) ?_; clear_value x; on_goal 2 => subst x)
    | (extract_lets +onlyGivenNames _) | with_reducible apply KeepsO.next | with_reducible apply keeps_foldl
    | with_reducible apply fathomRequest_keeps | with_reducible apply eachBelow_keeps
    | with_reducible apply rsmSnap_keeps | with_reducible apply capSnapWrite_keeps
    | with_reducible apply State.modCmis_keeps | with_reducible apply vdmHold_keeps | split)

theorem execVdmUnfreeze_keeps {s : State} (h0 : Keeps ms s0 s) :
    KeepsO ms s0 (execVdmUnfreeze s) := by
  unfold execVdmUnfreeze
  repeat' (first
    | with_reducible assumption | (extract_lets +onlyGivenNames _) | with_reducible apply KeepsO.next
    | with_reducible apply State.modCmis_keeps | split)

theorem cdbCommand_keeps {s : State} (h0 : Keeps true s0 s) :
    Keeps true s0 (cdbCommand s) := by
  unfold cdbCommand
  repeat' (first
    | with_reducible assumption | (extract_lets +onlyGivenNames _) | with_reducible apply State.cdbDone_keeps
    | with_reducible apply ran_keeps | with_reducible apply execCdbQueryStatus_keeps
    | with_reducible apply execCdbModuleFeatures_keeps | with_reducible apply execCdbFwMgmtFeatures_keeps
    | with_reducible apply execCdbGetFwInfo_keeps | with_reducible apply execCdbStartDownload_keeps
    | with_reducible apply execCdbAbortDownload_keeps | with_reducible apply execCdbWriteBlockLpl_keeps
    | with_reducible apply execCdbWriteBlockEpl_keeps | with_reducible apply execCdbCompleteDownload_keeps
    | with_reducible apply execCdbRunImage_keeps | with_reducible apply execCdbCommitImage_keeps
    | with_reducible apply execCdbUnknownCommand_keeps | split)

theorem State.ctlClear_keeps {s : State} (b) (page) (off) (i) (h0 : Keeps ms s0 s) :
    Keeps ms s0 (State.ctlClear s b page off i) := by
  unfold State.ctlClear
  repeat' (first | with_reducible assumption | with_reducible apply State.setCmisByte_keeps | split)

theorem srcLanes_keeps (b) (en) (pat) (k) (f) {s : State} (h4 : ∀ a0 a1 t2, Keeps ms s0 t2 → Keeps ms s0 (f a0 a1 t2)) (h5 : Keeps ms s0 s) :
    Keeps ms s0 (srcLanes b en pat k f s) := by
  unfold srcLanes
  repeat' (first
    | with_reducible assumption | (with_reducible intro _) | (extract_lets +onlyGivenNames _)
    | with_reducible apply h4 | with_reducible apply eachBelow_keeps | with_reducible apply State.ctlClear_keeps
    | split)

theorem srcControls_keeps (b) {s : State} (h1 : Keeps ms s0 s) :
    Keeps ms s0 (srcControls b s) := by
  unfold srcControls
  repeat' (first
    | with_reducible assumption | (with_reducible intro _)
    | (extract_lets +onlyGivenNames x; refine (fun hx : Keeps ms s0 x => ?_) ?_; clear_value x; on_goal 2 => subst x)
    | (extract_lets +onlyGivenNames _) | with_reducible apply srcLanes_keeps
    | with_reducible apply hstTestCtrlWrite_keeps | with_reducible apply patCtrlWrite_keeps
    | with_reducible apply hstChkCtrlWrite_keeps | with_reducible apply chkCtrlWrite_keeps)

theorem hostLoops_keeps (b) {s : State} (h1 : Keeps ms s0 s) :
    Keeps ms s0 (hostLoops b s) := by
  unfold hostLoops
  repeat' (first
    | with_reducible assumption | (with_reducible intro _)
    | (extract_lets +onlyGivenNames x; refine (fun hx : Keeps ms s0 x => ?_) ?_; clear_value x; on_goal 2 => subst x)
    | (extract_lets +onlyGivenNames _) | with_reducible apply eachBelow_keeps
    | with_reducible apply hstTestCtrlWrite_keeps | with_reducible apply State.ctlClear_keeps | split)

theorem mediaLoops_keeps (b) (k) (off) {s : State} (h3 : Keeps ms s0 s) :
    Keeps ms s0 (mediaLoops b k off s) := by
  unfold mediaLoops
  repeat' (first
    | with_reducible assumption | (with_reducible intro _) | (extract_lets +onlyGivenNames _)
    | with_reducible apply eachBelow_keeps | with_reducible apply State.probeStart_keeps
    | with_reducible apply State.ctlClear_keeps | with_reducible apply State.laneAdvance_keeps
    | with_reducible apply State.laneRequest_keeps | split | (with_reducible refine Keeps.ofSnd ‹_› ?_))

theorem hostOutputs_keeps (b) {s : State} (h1 : Keeps ms s0 s) :
    Keeps ms s0 (hostOutputs b s) := by
  unfold hostOutputs
  repeat' (first
    | with_reducible assumption | (with_reducible intro _) | (extract_lets +onlyGivenNames _)
    | with_reducible apply eachBelow_keeps | with_reducible apply hstTxCtrlWrite_keeps)

theorem ctlStore_keeps (b) (page) (off) (v) {s : State} (h4 : Keeps ms s0 s) :
    Keeps ms s0 (ctlStore b page off v s) := by
  unfold ctlStore
  repeat' (first
    | with_reducible assumption | (extract_lets +onlyGivenNames _) | with_reducible apply State.setCmisByte_keeps
    | split)

theorem ctlAct_keeps (b) (page) (off) (v) {s : State} (h4 : Keeps true s0 s) :
    Keeps true s0 (ctlAct b page off v s) := by
  unfold ctlAct
  repeat' (first
    | with_reducible assumption | (extract_lets +onlyGivenNames _) | with_reducible apply aonReset_keeps
    | with_reducible apply follow_keeps | with_reducible apply ran_keeps
    | with_reducible apply execDpdeinitWrite_keeps | with_reducible apply execOutputDisableTxWrite_keeps
    | with_reducible apply hostOutputs_keeps | with_reducible apply execCmisApplyDpinit_keeps
    | with_reducible apply execCmisApplyImmediate_keeps | with_reducible apply mediaLoops_keeps
    | with_reducible apply hostLoops_keeps | with_reducible apply srcControls_keeps
    | with_reducible apply execVdmFreeze_keeps | with_reducible apply execVdmUnfreeze_keeps
    | with_reducible apply cdbCommand_keeps | split)

theorem ctlWrite_keeps (b) (page) (off) (bs) {s : State} (h4 : Keeps true s0 s) :
    Keeps true s0 (ctlWrite b page off bs s) := by
  unfold ctlWrite
  repeat' (first
    | with_reducible assumption | (with_reducible intro _)
    | (extract_lets +onlyGivenNames x; refine (fun hx : Keeps true s0 x => ?_) ?_; clear_value x; on_goal 2 => subst x)
    | (extract_lets +onlyGivenNames _) | with_reducible apply keeps_foldl | with_reducible apply ran_keeps
    | with_reducible apply execHostPasswordChange_keeps | with_reducible apply execHostPasswordEntry_keeps
    | with_reducible apply State.modCmis_keeps | with_reducible apply ctlStore_keeps
    | with_reducible apply ctlAct_keeps | split)

theorem replay_keeps (b) (page) (off) (part) (bs) {s : State} (h5 : Keeps true s0 s) :
    Keeps true s0 (replay b page off part bs s) := by
  induction bs generalizing off part s with
  | nil => unfold replay; exact h5
  | cons v bs ih =>
    unfold replay
    repeat' (first
      | with_reducible assumption | (extract_lets +onlyGivenNames _) | with_reducible apply ih
      | with_reducible apply ctlWrite_keeps | split)

theorem riggerStart_keeps {s : State} (h0 : Keeps true s0 s) :
    Keeps true s0 (riggerStart s) := by
  unfold riggerStart
  repeat' (first
    | with_reducible assumption | (with_reducible intro _)
    | (extract_lets +onlyGivenNames x; refine (fun hx : Keeps true s0 x => ?_) ?_; clear_value x; on_goal 2 => subst x)
    | (extract_lets +onlyGivenNames _) | with_reducible apply keeps_foldl | with_reducible apply riggerReady_keeps
    | with_reducible apply follow_keeps | with_reducible apply replay_keeps | split)

theorem State.setMonitor_keeps {s : State} (kind) (n) (v) (h0 : Keeps ms s0 s) :
    Keeps ms s0 (State.setMonitor s kind n v) := by
  unfold State.setMonitor
  repeat' (first | with_reducible assumption | with_reducible apply State.modCmis_keeps)

theorem laneMonitors_keeps (n) {s : State} (h1 : Keeps ms s0 s) :
    Keeps ms s0 (laneMonitors n s) := by
  unfold laneMonitors
  repeat' (first
    | with_reducible assumption | (extract_lets +onlyGivenNames _) | with_reducible apply State.setMonitor_keeps)

theorem execCmisMonitorRefresh_keeps {s : State} (h0 : Keeps ms s0 s) :
    KeepsO ms s0 (execCmisMonitorRefresh s) := by
  unfold execCmisMonitorRefresh
  repeat' (first
    | with_reducible assumption | (with_reducible intro _)
    | (extract_lets +onlyGivenNames x; refine (fun hx : Keeps ms s0 x => ?_) ?_; clear_value x; on_goal 2 => subst x)
    | (extract_lets +onlyGivenNames _) | with_reducible apply KeepsO.next
    | with_reducible apply State.setMonitor_keeps | with_reducible apply eachBelow_keeps
    | with_reducible apply laneMonitors_keeps | with_reducible apply vdmRefresh_keeps | split)

theorem flagClear_keeps (b) (page) (off) {s : State} (h3 : Keeps ms s0 s) :
    Keeps ms s0 (flagClear b page off s) := by
  unfold flagClear
  repeat' (first
    | with_reducible assumption | (with_reducible intro _)
    | (extract_lets +onlyGivenNames x; refine (fun hx : Keeps ms s0 x => ?_) ?_; clear_value x; on_goal 2 => subst x)
    | (extract_lets +onlyGivenNames _) | with_reducible apply keeps_foldl | with_reducible apply State.modCmis_keeps
    | with_reducible apply eachBelow_keeps | with_reducible apply State.put_keeps | split)

theorem irqUpdate_keeps {s : State} (h0 : Keeps ms s0 s) :
    Keeps ms s0 (irqUpdate s) := by
  unfold irqUpdate
  repeat' (first
    | with_reducible assumption | (extract_lets +onlyGivenNames _) | with_reducible apply State.modCmis_keeps)

theorem latchWhile_keeps (on) (b) (off) (i) {s : State} (h4 : Keeps ms s0 s) :
    Keeps ms s0 (latchWhile on b off i s) := by
  unfold latchWhile
  repeat' (first | with_reducible assumption | with_reducible apply State.latchFlag_keeps | split)

theorem hostFlags_keeps (h) {s : State} (h1 : Keeps ms s0 s) :
    Keeps ms s0 (hostFlags h s) := by
  unfold hostFlags
  repeat' (first
    | with_reducible assumption | (extract_lets +onlyGivenNames _) | with_reducible apply latchWhile_keeps)

theorem mediaFlags_keeps (n) {s : State} (h1 : Keeps ms s0 s) :
    Keeps ms s0 (mediaFlags n s) := by
  unfold mediaFlags
  repeat' (first
    | with_reducible assumption | (extract_lets +onlyGivenNames _) | with_reducible apply latchWhile_keeps)

theorem windowFlags_keeps (w) {s : State} (h1 : Keeps ms s0 s) :
    Keeps ms s0 (windowFlags w s) := by
  unfold windowFlags
  repeat' (first | with_reducible assumption | with_reducible apply State.put_keeps | split)

theorem execCmisFlagEvaluation_keeps {s : State} (h0 : Keeps ms s0 s) :
    KeepsO ms s0 (execCmisFlagEvaluation s) := by
  unfold execCmisFlagEvaluation
  repeat' (first
    | with_reducible assumption | (with_reducible intro _)
    | (extract_lets +onlyGivenNames x; refine (fun hx : Keeps ms s0 x => ?_) ?_; clear_value x; on_goal 2 => subst x)
    | (extract_lets +onlyGivenNames _) | with_reducible apply KeepsO.next | with_reducible apply eachBelow_keeps
    | with_reducible apply vdmFlags_keeps | with_reducible apply irqUpdate_keeps
    | with_reducible apply windowFlags_keeps | with_reducible apply mediaFlags_keeps
    | with_reducible apply hostFlags_keeps)

end Sys2Proof.Machine
end

