-- ==== Sys2Proof/Laws/KeepBus.lean ====
section
/-! SUPPORT. Sys2Proof/Laws/KeepBus.lean: each operation of Machine/Bus.lean keeps what Keeps says. -/

namespace Sys2Proof.Machine

variable {ms : Bool} {s0 : State}

theorem vlasRead_keeps {s : State} (h0 : Keeps ms s0 s) :
    Keeps ms s0 (vlasRead s).2 := by
  unfold vlasRead
  repeat' (first | with_reducible assumption | with_reducible apply State.freeRound_keeps | split)

theorem readHooks_keeps : ∀ h ∈ readHooks, ∀ (q : Req) (n m : Nat) (s : State), Keeps ms s0 s →
    Keeps ms s0 (h.2 q n m s).2 := by
  unfold readHooks
  repeat' (first
    | with_reducible refine List.forall_mem_cons.2 ⟨?_, ?_⟩ | exact List.forall_mem_nil _ | with_reducible assumption
    | (with_reducible intro _) | with_reducible apply snapRead_keeps | with_reducible apply aonRead_keeps
    | with_reducible apply tsqRead_keeps | with_reducible apply twoWayRead_keeps
    | with_reducible apply ppsInRead_keeps | with_reducible apply State.modHold_keeps
    | with_reducible apply iringRead_keeps | with_reducible apply vlasRead_keeps | split | dsimp +zetaDelta only)

theorem regRead_keeps (q) (r) (n) (m) {s : State} (h4 : Keeps ms s0 s) :
    Keeps ms s0 (regRead q r n m s).2 := by
  unfold regRead
  split
  · exact readHooks_keeps _ (List.mem_of_find?_eq_some ‹_›) _ _ _ _ h4
  · dsimp only
    split
    · exact State.setWord_keeps _ _ _ _ h4
    · exact h4

theorem rigCtrlWrite_keeps (v) {s : State} (h1 : Keeps true s0 s) :
    Keeps true s0 (rigCtrlWrite v s) := by
  unfold rigCtrlWrite
  repeat' (first
    | with_reducible assumption | (with_reducible intro _)
    | (extract_lets +onlyGivenNames x; refine (fun hx : Keeps true s0 x => ?_) ?_; clear_value x; on_goal 2 => subst x)
    | (extract_lets +onlyGivenNames _) | with_reducible apply riggerStart_keeps
    | with_reducible apply discStart_keeps | with_reducible apply State.hwReport_keeps
    | with_reducible apply State.modFw_keeps | split | dsimp +zetaDelta only)

theorem writeHooks_keeps : ∀ h ∈ writeHooks, ∀ (n m : Nat) (v : Word) (s : State), Keeps true s0 s →
    Keeps true s0 (h.2 n m v s) := by
  unfold writeHooks
  repeat' (first
    | with_reducible refine List.forall_mem_cons.2 ⟨?_, ?_⟩ | exact List.forall_mem_nil _ | with_reducible assumption
    | (with_reducible intro _) | (extract_lets +onlyGivenNames _) | with_reducible apply laneCfgWrite_keeps
    | with_reducible apply shadowWrite_keeps | with_reducible apply shapeCtrlWrite_keeps
    | with_reducible apply State.writePlain_keeps | with_reducible apply maskChanged_keeps
    | with_reducible apply lydAddWrite_keeps | with_reducible apply patCtrlWrite_keeps
    | with_reducible apply txCalCtrlWrite_keeps | with_reducible apply tiaCtrlWrite_keeps
    | with_reducible apply eqCtrlWrite_keeps | with_reducible apply eqWrite_keeps
    | with_reducible apply rxCalCtrlWrite_keeps | with_reducible apply chkCtrlWrite_keeps
    | with_reducible apply capCtrlWrite_keeps | with_reducible apply State.reseed_keeps
    | with_reducible apply capCtrlRegWrite_keeps | with_reducible apply State.put_keeps
    | with_reducible apply capSnapWrite_keeps | with_reducible apply hstRxCtrlWrite_keeps
    | with_reducible apply eqWriteHost_keeps | with_reducible apply hstShadowWrite_keeps
    | with_reducible apply hstTxCtrlWrite_keeps | with_reducible apply hstTestCtrlWrite_keeps
    | with_reducible apply hstChkCtrlWrite_keeps | with_reducible apply hstRsmCtrlWrite_keeps
    | with_reducible apply olcReqWrite_keeps | with_reducible apply olcProbeWrite_keeps
    | with_reducible apply olcFaultWrite_keeps | with_reducible apply olcCodeWrite_keeps
    | with_reducible apply olcStrobe_keeps | with_reducible apply olcWavWrite_keeps
    | with_reducible apply lydCtrlWrite_keeps | with_reducible apply lydFirWrite_keeps
    | with_reducible apply lydPolWrite_keeps | with_reducible apply userFreeWrite_keeps
    | with_reducible apply timAdjWrite_keeps | with_reducible apply ppsoWrite_keeps
    | with_reducible apply rigCtrlWrite_keeps | with_reducible apply adcCtrlWrite_keeps
    | with_reducible apply monWinCfgWrite_keeps | with_reducible apply adcUrgWrite_keeps
    | with_reducible apply fathomWrite_keeps | with_reducible apply pmuCtrlWrite_keeps
    | with_reducible apply samplerArm_keeps | with_reducible apply blkEnWrite_keeps
    | with_reducible apply laneRstWrite_keeps | with_reducible apply aonReset_keeps
    | with_reducible apply eccCtrlWrite_keeps | with_reducible apply hwsCtrlWrite_keeps | split
    | dsimp +zetaDelta only)

theorem regWrite_keeps (r) (n) (m) (v) {s : State} (h4 : Keeps true s0 s) :
    Keeps true s0 (regWrite r n m v s) := by
  unfold regWrite
  split
  · exact writeHooks_keeps _ (List.mem_of_find?_eq_some ‹_›) _ _ _ _ h4
  · exact State.writePlain_keeps _ _ _ _ h4

theorem State.capture_keeps {s : State} (q) (a) (cause) (write) (h0 : Keeps ms s0 s) :
    Keeps ms s0 (State.capture s q a cause write) := by
  unfold State.capture
  repeat' (first
    | with_reducible assumption
    | (extract_lets +onlyGivenNames x; refine (fun hx : Keeps ms s0 x => ?_) ?_; clear_value x; on_goal 2 => subst x)
    | (extract_lets +onlyGivenNames _) | with_reducible apply State.setWord_keeps
    | with_reducible apply State.put_keeps | with_reducible apply State.putB_keeps
    | with_reducible apply State.perf_keeps | with_reducible apply State.addSat_keeps)

theorem State.offAccess_keeps {s : State} (q) (a) (write) (h0 : Keeps ms s0 s) :
    Keeps ms s0 (State.offAccess s q a write) := by
  unfold State.offAccess
  repeat' (first
    | with_reducible assumption
    | (extract_lets +onlyGivenNames x; refine (fun hx : Keeps ms s0 x => ?_) ?_; clear_value x; on_goal 2 => subst x)
    | (extract_lets +onlyGivenNames _) | with_reducible apply State.setWord_keeps
    | with_reducible apply State.put_keeps | with_reducible apply State.putB_keeps
    | with_reducible apply State.perf_keeps | with_reducible apply State.addSat_keeps)

theorem State.refusal_keeps {s : State} (q) (a) (write) (a4) (h0 : Keeps ms s0 s) :
    Keeps ms s0 (State.refusal s q a write a4) := by
  unfold State.refusal
  repeat' (first
    | with_reducible assumption | with_reducible apply State.capture_keeps
    | with_reducible apply State.offAccess_keeps | split)

theorem knotDirty_keeps (a) {s : State} (h1 : Keeps ms s0 s) :
    Keeps ms s0 (knotDirty a s) := by
  unfold knotDirty
  repeat' (first
    | with_reducible assumption | (with_reducible intro _) | (extract_lets +onlyGivenNames _)
    | with_reducible apply eachBelow_keeps | with_reducible apply State.put_keeps | split)

theorem busWrite_keeps (q) (k) (a) (v) {s : State} (h4 : Keeps true s0 s) :
    Keeps true s0 (busWrite q k a v s).2 := by
  unfold busWrite
  repeat' (first
    | with_reducible assumption | (extract_lets +onlyGivenNames _) | with_reducible apply State.refusal_keeps
    | with_reducible apply mbxWordWrite_keeps | with_reducible apply mbxGo_keeps
    | with_reducible apply regWrite_keeps | with_reducible apply knotDirty_keeps | split)

theorem busRead_keeps (q) (k) (a) {s : State} (h3 : Keeps ms s0 s) :
    Keeps ms s0 (busRead q k a s).2 := by
  unfold busRead
  repeat' (first
    | with_reducible assumption | with_reducible apply State.refusal_keeps | with_reducible apply regRead_keeps
    | split)

theorem sramWrite_keeps (q) (a) (bs) (u) {s : State} (h4 : Keeps true s0 s) :
    Keeps true s0 (sramWrite q a bs u s).2 := by
  unfold sramWrite
  repeat' (first
    | with_reducible assumption | (extract_lets +onlyGivenNames _) | with_reducible apply State.mbxRefuse_keeps
    | with_reducible apply State.eccWrite_keeps | with_reducible apply State.refusal_keeps | split
    | dsimp +zetaDelta only | (with_reducible refine Keeps.ofSnd ‹_› ?_))

theorem sramRead_keeps (q) (k) (a) (u) {s : State} (h4 : Keeps ms s0 s) :
    Keeps ms s0 (sramRead q k a u s).2 := by
  unfold sramRead
  repeat' (first
    | with_reducible assumption | (extract_lets +onlyGivenNames _) | with_reducible apply State.eccRead_keeps
    | with_reducible apply State.refusal_keeps | split | dsimp +zetaDelta only
    | (with_reducible refine Keeps.ofSnd ‹_› ?_))

theorem anyWrite_keeps (q) (a) (bs) (u) {s : State} (h4 : Keeps true s0 s) :
    Keeps true s0 (anyWrite q a bs u s).2 := by
  unfold anyWrite
  repeat' (first
    | with_reducible assumption | with_reducible apply sramWrite_keeps | with_reducible apply busWrite_keeps | split)

theorem anyRead_keeps (q) (k) (a) (u) {s : State} (h4 : Keeps ms s0 s) :
    Keeps ms s0 (anyRead q k a u s).2 := by
  unfold anyRead
  repeat' (first
    | with_reducible assumption | with_reducible apply sramRead_keeps | with_reducible apply busRead_keeps | split)

end Sys2Proof.Machine
end

