-- ==== Sys2Proof/Laws/KeepKnots.lean ====
section
/-! SUPPORT. Sys2Proof/Laws/KeepKnots.lean: each operation of Machine/Knots.lean keeps what Keeps says. -/

namespace Sys2Proof.Machine

variable {ms : Bool} {s0 : State}

theorem State.modKnot_keeps {s : State} (k) (f) (h0 : Keeps ms s0 s) :
    Keeps ms s0 (State.modKnot s k f) := by
  unfold State.modKnot
  repeat' (first
    | (extract_lets +onlyGivenNames _) | with_reducible exact Nat.le_max_right _ _
    | with_reducible exact Mbx.Within.refl _ | (with_reducible apply Keeps.lit; with_reducible assumption)
    | dsimp +zetaDelta only)

theorem knotFree_keeps (k) (st) {s : State} (h2 : Keeps ms s0 s) :
    Keeps ms s0 (knotFree k st s) := by
  unfold knotFree
  repeat' (first
    | with_reducible assumption
    | (extract_lets +onlyGivenNames x; refine (fun hx : Keeps ms s0 x => ?_) ?_; clear_value x; on_goal 2 => subst x)
    | (extract_lets +onlyGivenNames _) | with_reducible apply State.put_keeps
    | with_reducible apply State.modKnot_keeps | with_reducible apply blkDeferred_keeps
    | with_reducible apply State.perf_keeps | split)

theorem gangDigest_keeps {s : State} (h0 : Keeps ms s0 s) :
    Keeps ms s0 (gangDigest s) := by
  unfold gangDigest
  repeat' (first
    | with_reducible assumption | (extract_lets +onlyGivenNames _) | with_reducible apply State.setWord_keeps)

theorem knotEnd_keeps (k) (st) (result) {s : State} (h3 : Keeps ms s0 s) :
    Keeps ms s0 (knotEnd k st result s) := by
  unfold knotEnd
  repeat' (first
    | with_reducible assumption
    | (extract_lets +onlyGivenNames x; refine (fun hx : Keeps ms s0 x => ?_) ?_; clear_value x; on_goal 2 => subst x)
    | (extract_lets +onlyGivenNames _) | with_reducible apply knotFree_keeps | with_reducible apply gangDigest_keeps
    | with_reducible apply State.finish_keeps | split | (clear_value *; split))

theorem knotOpened_keeps (owner) (k) {s : State} (h2 : Keeps ms s0 s) :
    Keeps ms s0 (knotOpened owner k s) := by
  unfold knotOpened
  repeat' (first
    | with_reducible assumption | (with_reducible intro _)
    | (extract_lets +onlyGivenNames x; refine (fun hx : Keeps ms s0 x => ?_) ?_; clear_value x; on_goal 2 => subst x)
    | (extract_lets +onlyGivenNames _) | with_reducible apply State.setWord_keeps
    | with_reducible apply eachBelow_keeps | with_reducible apply State.modKnot_keeps)

theorem execKnotOpen_keeps (m) {s : State} (h1 : Keeps ms s0 s) :
    KeepsO ms s0 (execKnotOpen m s) := by
  unfold execKnotOpen
  repeat' (first
    | with_reducible assumption | (with_reducible intro _) | (extract_lets +onlyGivenNames _)
    | with_reducible apply KeepsO.next | with_reducible apply runCmd_keeps | with_reducible apply State.finish_keeps
    | with_reducible apply knotOpened_keeps | split)

theorem knotStaged_keeps (k) (new) (all) {s : State} (h3 : Keeps ms s0 s) :
    Keeps ms s0 (knotStaged k new all s) := by
  unfold knotStaged
  repeat' (first
    | with_reducible assumption
    | (extract_lets +onlyGivenNames x; refine (fun hx : Keeps ms s0 x => ?_) ?_; clear_value x; on_goal 2 => subst x)
    | (extract_lets +onlyGivenNames _) | with_reducible apply State.put_keeps
    | with_reducible apply State.modKnot_keeps | split)

theorem execKnotStage_keeps (m) {s : State} (h1 : Keeps ms s0 s) :
    KeepsO ms s0 (execKnotStage m s) := by
  unfold execKnotStage
  repeat' (first
    | with_reducible assumption | (with_reducible intro _) | (extract_lets +onlyGivenNames _)
    | with_reducible apply KeepsO.next | with_reducible apply runCmd_keeps | with_reducible apply State.finish_keeps
    | with_reducible apply knotStaged_keeps | split)

theorem applyEntry_keeps (ch) (e) {s : State} (h2 : Keeps true s0 s) :
    Keeps true s0 (applyEntry ch e s) := by
  unfold applyEntry
  repeat' (first
    | with_reducible assumption | with_reducible apply cfgPend_keeps | with_reducible apply State.put_keeps
    | with_reducible apply regWrite_keeps | split)

theorem applyEntries_keeps (ch) (l) {s : State} (h2 : Keeps true s0 s) :
    Keeps true s0 (applyEntries ch l s) := by
  unfold applyEntries
  repeat' (first
    | with_reducible assumption | (with_reducible intro _) | (extract_lets +onlyGivenNames _)
    | with_reducible apply keeps_foldl | with_reducible apply applyEntry_keeps)

theorem knotApply_keeps (k) {s : State} (h1 : Keeps true s0 s) :
    Keeps true s0 (knotApply k s) := by
  unfold knotApply
  repeat' (first
    | with_reducible assumption | (extract_lets +onlyGivenNames _) | with_reducible apply applyEntries_keeps)

theorem knotLaneApply_keeps (k) (n) (forced) {s : State} (h3 : Keeps true s0 s) :
    Keeps true s0 (knotLaneApply k n forced s) := by
  unfold knotLaneApply
  repeat' (first
    | with_reducible assumption
    | (extract_lets +onlyGivenNames x; refine (fun hx : Keeps true s0 x => ?_) ?_; clear_value x; on_goal 2 => subst x)
    | (extract_lets +onlyGivenNames _) | with_reducible apply State.put_keeps
    | with_reducible apply applyEntries_keeps | with_reducible apply knotEnd_keeps | split)

theorem knotBoundary_keeps (rx) (n) {s : State} (h2 : Keeps true s0 s) :
    Keeps true s0 (knotBoundary rx n s) := by
  unfold knotBoundary
  repeat' (first
    | with_reducible assumption | (with_reducible intro _) | (extract_lets +onlyGivenNames _)
    | with_reducible apply eachBelow_keeps | with_reducible apply knotLaneApply_keeps | split)

theorem amForce_keeps (k) {s : State} (h1 : Keeps true s0 s) :
    Keeps true s0 (amForce k s) := by
  unfold amForce
  repeat' (first
    | with_reducible assumption | (with_reducible intro _) | (extract_lets +onlyGivenNames _)
    | with_reducible apply keeps_foldl | with_reducible apply knotLaneApply_keeps | split)

theorem execKnotAmWaitExpiry_keeps (k) {s : State} (h1 : Keeps true s0 s) :
    KeepsO true s0 (execKnotAmWaitExpiry k s) := by
  unfold execKnotAmWaitExpiry
  repeat' (first
    | with_reducible assumption | (extract_lets +onlyGivenNames _) | with_reducible apply KeepsO.next
    | with_reducible apply knotEnd_keeps | with_reducible apply amForce_keeps | split)

theorem knotTarget_keeps (k) (t) {s : State} (h2 : Keeps ms s0 s) :
    Keeps ms s0 (knotTarget k t s) := by
  unfold knotTarget
  repeat' (first
    | with_reducible assumption | (extract_lets +onlyGivenNames _) | with_reducible apply State.setWord_keeps)

theorem cinchMarked_keeps (kind) (c) (k) {s : State} (h3 : Keeps ms s0 s) :
    Keeps ms s0 (cinchMarked kind c k s) := by
  unfold cinchMarked
  repeat' (first
    | with_reducible assumption
    | (extract_lets +onlyGivenNames x; refine (fun hx : Keeps ms s0 x => ?_) ?_; clear_value x; on_goal 2 => subst x)
    | (extract_lets +onlyGivenNames _) | with_reducible apply State.put_keeps | with_reducible apply knotTarget_keeps
    | with_reducible apply State.modKnot_keeps)

theorem cinch_keeps (kind) (m) (f) {s : State} (h2 : ∀ a0 a1 t2, Keeps ms s0 t2 → Keeps ms s0 (f a0 a1 t2)) (h3 : Keeps ms s0 s) :
    Keeps ms s0 (cinch kind m f s) := by
  unfold cinch
  repeat' (first
    | with_reducible assumption | (with_reducible intro _) | (extract_lets +onlyGivenNames _)
    | with_reducible apply h2 | with_reducible apply runCmd_keeps | with_reducible apply State.finish_keeps
    | with_reducible apply cinchMarked_keeps | split)

theorem execKnotCinchImmediate_keeps (m) {s : State} (h1 : Keeps ms s0 s) :
    KeepsO ms s0 (execKnotCinchImmediate m s) := by
  unfold execKnotCinchImmediate
  repeat' (first
    | with_reducible assumption | (with_reducible intro _) | (extract_lets +onlyGivenNames _)
    | with_reducible apply KeepsO.next | with_reducible apply cinch_keeps | with_reducible apply State.await_keeps)

theorem execKnotCinchAm_keeps (m) {s : State} (h1 : Keeps ms s0 s) :
    KeepsO ms s0 (execKnotCinchAm m s) := by
  unfold execKnotCinchAm
  repeat' (first
    | with_reducible assumption | (with_reducible intro _) | (extract_lets +onlyGivenNames _)
    | with_reducible apply KeepsO.next | with_reducible apply cinch_keeps | with_reducible apply State.defer_keeps)

theorem execKnotCinchTime_keeps (m) {s : State} (h1 : Keeps ms s0 s) :
    KeepsO ms s0 (execKnotCinchTime m s) := by
  unfold execKnotCinchTime
  repeat' (first
    | with_reducible assumption | (with_reducible intro _) | (extract_lets +onlyGivenNames _)
    | with_reducible apply KeepsO.next | with_reducible apply cinch_keeps | with_reducible apply State.defer_keeps)

theorem knotErr_keeps (k) (a) {s : State} (h2 : Keeps ms s0 s) :
    Keeps ms s0 (knotErr k a s) := by
  unfold knotErr
  repeat' (first | with_reducible assumption | with_reducible apply State.put_keeps | split)

theorem knotHold_keeps (k) {s : State} (h1 : Keeps ms s0 s) :
    Keeps ms s0 (knotHold k s) := by
  unfold knotHold
  repeat' (first | with_reducible assumption | with_reducible apply State.modKnot_keeps)

theorem execKnotAbandon_keeps (m) {s : State} (h1 : Keeps ms s0 s) :
    KeepsO ms s0 (execKnotAbandon m s) := by
  unfold execKnotAbandon
  repeat' (first
    | with_reducible assumption | (with_reducible intro _) | (extract_lets +onlyGivenNames _)
    | with_reducible apply KeepsO.next | with_reducible apply runCmd_keeps | with_reducible apply State.finish_keeps
    | with_reducible apply knotEnd_keeps | split)

theorem execKnotStatus_keeps (m) {s : State} (h1 : Keeps ms s0 s) :
    KeepsO ms s0 (execKnotStatus m s) := by
  unfold execKnotStatus
  repeat' (first
    | with_reducible assumption | (with_reducible intro _) | (extract_lets +onlyGivenNames _)
    | with_reducible apply KeepsO.next | with_reducible apply runCmd_keeps | with_reducible apply State.finish_keeps)

theorem execKnotIdleExpiry_keeps (k) {s : State} (h1 : Keeps ms s0 s) :
    KeepsO ms s0 (execKnotIdleExpiry k s) := by
  unfold execKnotIdleExpiry
  repeat' (first
    | with_reducible assumption | (extract_lets +onlyGivenNames _) | with_reducible apply KeepsO.next
    | with_reducible apply State.post_keeps | with_reducible apply knotFree_keeps | split)

end Sys2Proof.Machine
end

