-- ==== Sys2Proof/Laws/KeepGang.lean ====
section
/-! SUPPORT. Sys2Proof/Laws/KeepGang.lean: each operation of Machine/Gang.lean keeps what Keeps says. -/

namespace Sys2Proof.Machine

variable {ms : Bool} {s0 : State}

theorem quarantineJudge_keeps {s : State} (h0 : Keeps ms s0 s) :
    Keeps ms s0 (quarantineJudge s) := by
  unfold quarantineJudge
  repeat' (first | with_reducible assumption | with_reducible apply State.putB_keeps | split)

theorem epochBump_keeps {s : State} (h0 : Keeps ms s0 s) :
    Keeps ms s0 (epochBump s) := by
  unfold epochBump
  repeat' (first
    | with_reducible assumption
    | (extract_lets +onlyGivenNames x; refine (fun hx : Keeps ms s0 x => ?_) ?_; clear_value x; on_goal 2 => subst x)
    | (extract_lets +onlyGivenNames _) | with_reducible apply gangDigest_keeps
    | with_reducible apply State.incWrap_keeps | with_reducible apply State.modHws_keeps
    | with_reducible apply hwBroadcast_keeps)

theorem digestJudge_keeps {s : State} (h0 : Keeps ms s0 s) :
    Keeps ms s0 (digestJudge s) := by
  unfold digestJudge
  repeat' (first | with_reducible assumption | with_reducible apply State.putB_keeps | split)

theorem digestTick_keeps {s : State} (h0 : Keeps ms s0 s) :
    Keeps ms s0 (digestTick s) := by
  unfold digestTick
  repeat' (first
    | with_reducible assumption | (extract_lets +onlyGivenNames _) | with_reducible apply State.hwReport_keeps
    | with_reducible apply digestJudge_keeps | with_reducible apply gangDigest_keeps)

theorem epochIn_keeps (e) (d) (m) (list) (params) {s : State} (h5 : Keeps ms s0 s) :
    Keeps ms s0 (epochIn e d m list params s) := by
  unfold epochIn
  repeat' (first
    | with_reducible assumption
    | (extract_lets +onlyGivenNames x; refine (fun hx : Keeps ms s0 x => ?_) ?_; clear_value x; on_goal 2 => subst x)
    | (extract_lets +onlyGivenNames _) | with_reducible apply State.modHws_keeps
    | with_reducible apply State.put_keeps | with_reducible apply digestTick_keeps
    | with_reducible apply quarantineJudge_keeps | with_reducible apply State.setWord_keeps | split)

theorem execEpochRx_keeps (p) (h) (e) (d) (list) (params) {s : State} (h8 : Keeps ms s0 s) :
    KeepsO ms s0 (execEpochRx p h e d list params s) := by
  unfold execEpochRx
  repeat' (first
    | with_reducible assumption | (with_reducible intro _) | (extract_lets +onlyGivenNames _)
    | with_reducible apply KeepsO.next | with_reducible apply hwArrive_keeps | with_reducible apply epochIn_keeps)

theorem ownForward_keeps (i) (op) (words) (ext) {s : State} (h4 : Keeps ms s0 s) :
    Keeps ms s0 (ownForward i op words ext s).2 := by
  unfold ownForward
  repeat' (first
    | with_reducible assumption
    | (extract_lets +onlyGivenNames x; refine (fun hx : Keeps ms s0 x => ?_) ?_; clear_value x; on_goal 2 => subst x)
    | (extract_lets +onlyGivenNames _) | with_reducible apply State.modHws_keeps
    | with_reducible apply State.hwTryAll_keeps | with_reducible apply State.addSat_keeps | split
    | dsimp +zetaDelta only | (with_reducible refine Keeps.ofFst ‹_› ?_))

theorem reloadStart_keeps (i) {s : State} (h1 : Keeps ms s0 s) :
    Keeps ms s0 (reloadStart i s) := by
  unfold reloadStart
  repeat' (first
    | with_reducible assumption | (extract_lets +onlyGivenNames _) | with_reducible apply ownForward_keeps
    | with_reducible apply State.modHws_keeps | split)

theorem reloadStep_keeps (r) (st) (result) {s : State} (h3 : Keeps ms s0 s) :
    Keeps ms s0 (reloadStep r st result s) := by
  unfold reloadStep
  repeat' (first
    | with_reducible assumption | (extract_lets +onlyGivenNames _) | with_reducible apply State.modHws_keeps
    | with_reducible apply ownForward_keeps | split)

theorem forward_keeps (c) (t) (op) {s : State} (h3 : Keeps ms s0 s) :
    Keeps ms s0 (forward c t op s) := by
  unfold forward
  repeat' (first
    | with_reducible assumption
    | (extract_lets +onlyGivenNames x; refine (fun hx : Keeps ms s0 x => ?_) ?_; clear_value x; on_goal 2 => subst x)
    | (extract_lets +onlyGivenNames _) | with_reducible apply State.modHws_keeps
    | with_reducible apply State.hwTryAll_keeps | with_reducible apply State.await_keeps
    | with_reducible apply State.finish_keeps | split | (with_reducible refine Keeps.ofFst ‹_› ?_))

theorem execGangForward_keeps (m) {s : State} (h1 : Keeps ms s0 s) :
    KeepsO ms s0 (execGangForward m s) := by
  unfold execGangForward
  repeat' (first
    | with_reducible assumption | (with_reducible intro _) | (extract_lets +onlyGivenNames _)
    | with_reducible apply KeepsO.next | with_reducible apply runCmd_keeps | with_reducible apply State.finish_keeps
    | with_reducible apply forward_keeps | split)

theorem msgWhole_keeps (p) (ws) (ext) {s : State} (h3 : Keeps true s0 s) :
    Keeps true s0 (msgWhole p ws ext s) := by
  unfold msgWhole
  repeat' (first
    | with_reducible assumption | with_reducible apply peerEnter_keeps | with_reducible apply State.modHws_keeps
    | split)

theorem msgIn_keeps (p) (src) (bytes) (first) (last) {s : State} (h5 : Keeps true s0 s) :
    Keeps true s0 (msgIn p src bytes first last s) := by
  unfold msgIn
  repeat' (first
    | with_reducible assumption
    | (extract_lets +onlyGivenNames x; refine (fun hx : Keeps true s0 x => ?_) ?_; clear_value x; on_goal 2 => subst x)
    | (extract_lets +onlyGivenNames _) | with_reducible apply State.modHws_keeps
    | with_reducible apply msgWhole_keeps | split)

theorem msgOffer_keeps (p) (h) (m) (ns) {s : State} (h4 : Keeps ms s0 s) :
    Keeps ms s0 (msgOffer p h m ns s) := by
  unfold msgOffer
  repeat' (first | with_reducible assumption | with_reducible apply fathomOffer_keeps | split)

theorem execMsgRx_keeps (p) (h) (g) (ns) {s : State} (h6 : Keeps true s0 s) :
    KeepsO true s0 (execMsgRx p h g ns s) := by
  unfold execMsgRx
  repeat' (first
    | with_reducible assumption | (with_reducible intro _) | (extract_lets +onlyGivenNames _)
    | with_reducible apply KeepsO.next | with_reducible apply hwArrive_keeps | with_reducible apply msgIn_keeps
    | with_reducible apply msgOffer_keeps)

theorem takenIn_keeps (i) (tag) {s : State} (h2 : Keeps ms s0 s) :
    Keeps ms s0 (takenIn i tag s) := by
  unfold takenIn
  repeat' (first | with_reducible assumption | with_reducible apply State.modHws_keeps)

theorem execTakenRx_keeps (p) (h) (tag) {s : State} (h3 : Keeps ms s0 s) :
    KeepsO ms s0 (execTakenRx p h tag s) := by
  unfold execTakenRx
  repeat' (first
    | with_reducible assumption | (with_reducible intro _) | (extract_lets +onlyGivenNames _)
    | with_reducible apply KeepsO.next | with_reducible apply hwArrive_keeps | with_reducible apply takenIn_keeps)

theorem completionIn_keeps (i) (x) (staged) {s : State} (h3 : Keeps true s0 s) :
    Keeps true s0 (completionIn i x staged s) := by
  unfold completionIn
  repeat' (first
    | with_reducible assumption
    | (extract_lets +onlyGivenNames x; refine (fun hx : Keeps true s0 x => ?_) ?_; clear_value x; on_goal 2 => subst x)
    | with_reducible apply reloadStep_keeps | with_reducible apply State.addSat_keeps
    | with_reducible apply State.modHws_keeps | with_reducible apply State.setBytes_keeps
    | with_reducible apply State.finishAs_keeps | with_reducible apply State.postCpl_keeps | split)

theorem completionPart_keeps (p) (i) (x) (seg) (first) (last) {s : State} (h6 : Keeps true s0 s) :
    Keeps true s0 (completionPart p i x seg first last s) := by
  unfold completionPart
  repeat' (first
    | with_reducible assumption
    | (extract_lets +onlyGivenNames x; refine (fun hx : Keeps true s0 x => ?_) ?_; clear_value x; on_goal 2 => subst x)
    | (extract_lets +onlyGivenNames _) | with_reducible apply State.modHws_keeps
    | with_reducible apply completionIn_keeps | split)

theorem execCompletionRx_keeps (p) (h) (w0) (status) (orig) (epoch) (result) (final) (mb) (g) {s : State} (h12 : Keeps true s0 s) :
    KeepsO true s0 (execCompletionRx p h w0 status orig epoch result final mb g s) := by
  unfold execCompletionRx
  repeat' (first
    | with_reducible assumption | (with_reducible intro _) | (extract_lets +onlyGivenNames _)
    | with_reducible apply KeepsO.next | with_reducible apply hwArrive_keeps
    | with_reducible apply completionPart_keeps | split)

theorem forwardFails_keeps (i) (tag) {s : State} (h2 : Keeps ms s0 s) :
    Keeps ms s0 (forwardFails i tag s) := by
  unfold forwardFails
  repeat' (first
    | with_reducible assumption
    | (extract_lets +onlyGivenNames x; refine (fun hx : Keeps ms s0 x => ?_) ?_; clear_value x; on_goal 2 => subst x)
    | with_reducible apply State.modHws_keeps | with_reducible apply State.finish_keeps | split)

theorem droppedIn_keeps (src) (dst) (type) (tag) {s : State} (h4 : Keeps ms s0 s) :
    Keeps ms s0 (droppedIn src dst type tag s) := by
  unfold droppedIn
  repeat' (first
    | with_reducible assumption | with_reducible apply forwardFails_keeps | with_reducible apply State.hwSendTo_keeps
    | split)

theorem execDroppedRx_keeps (p) (h) (src) (dst) (type) (tag) {s : State} (h6 : Keeps ms s0 s) :
    KeepsO ms s0 (execDroppedRx p h src dst type tag s) := by
  unfold execDroppedRx
  repeat' (first
    | with_reducible assumption | (with_reducible intro _) | (extract_lets +onlyGivenNames _)
    | with_reducible apply KeepsO.next | with_reducible apply hwArrive_keeps | with_reducible apply droppedIn_keeps)

theorem pushIn_keeps (offset) (bytes) (last) {s : State} (h3 : Keeps true s0 s) :
    Keeps true s0 (pushIn offset bytes last s) := by
  unfold pushIn
  repeat' (first
    | with_reducible assumption | (with_reducible intro _)
    | (extract_lets +onlyGivenNames x; refine (fun hx : Keeps true s0 x => ?_) ?_; clear_value x; on_goal 2 => subst x)
    | (extract_lets +onlyGivenNames _) | with_reducible apply State.setBytes_keeps
    | with_reducible apply State.noteFail_keeps | with_reducible apply State.modHws_keeps
    | with_reducible apply State.modFw_keeps | split | dsimp +zetaDelta only)

theorem execPushRx_keeps (p) (h) (offset) (bytes) (last) {s : State} (h5 : Keeps true s0 s) :
    KeepsO true s0 (execPushRx p h offset bytes last s) := by
  unfold execPushRx
  repeat' (first
    | with_reducible assumption | (with_reducible intro _) | (extract_lets +onlyGivenNames _)
    | with_reducible apply KeepsO.next | with_reducible apply hwArrive_keeps | with_reducible apply pushIn_keeps)

theorem gangSettle_keeps (k) {s : State} (h1 : Keeps ms s0 s) :
    Keeps ms s0 (gangSettle k s) := by
  unfold gangSettle
  repeat' (first
    | with_reducible assumption | (extract_lets +onlyGivenNames _) | with_reducible apply epochBump_keeps
    | with_reducible apply knotEnd_keeps | split)

theorem gangSettleAll_keeps {s : State} (h0 : Keeps ms s0 s) :
    Keeps ms s0 (gangSettleAll s) := by
  unfold gangSettleAll
  repeat' (first
    | with_reducible assumption | (with_reducible intro _) | (extract_lets +onlyGivenNames _)
    | with_reducible apply eachBelow_keeps | with_reducible apply gangSettle_keeps)

theorem cinchGang_keeps (c) (k) {s : State} (h2 : Keeps ms s0 s) :
    Keeps ms s0 (cinchGang c k s) := by
  unfold cinchGang
  repeat' (first
    | with_reducible assumption
    | (extract_lets +onlyGivenNames x; refine (fun hx : Keeps ms s0 x => ?_) ?_; clear_value x; on_goal 2 => subst x)
    | (extract_lets +onlyGivenNames _) | with_reducible apply State.defer_keeps
    | with_reducible apply State.modKnot_keeps | with_reducible apply knotEnd_keeps | split)

theorem execKnotCinchGang_keeps (m) {s : State} (h1 : Keeps ms s0 s) :
    KeepsO ms s0 (execKnotCinchGang m s) := by
  unfold execKnotCinchGang
  repeat' (first
    | with_reducible assumption | (with_reducible intro _) | (extract_lets +onlyGivenNames _)
    | with_reducible apply KeepsO.next | with_reducible apply runCmd_keeps | with_reducible apply State.finish_keeps
    | with_reducible apply cinch_keeps | with_reducible apply cinchGang_keeps | split)

theorem gangAsk_keeps (k) {s : State} (h1 : Keeps ms s0 s) :
    Keeps ms s0 (gangAsk k s) := by
  unfold gangAsk
  repeat' (first
    | with_reducible assumption | (with_reducible intro _)
    | (extract_lets +onlyGivenNames x; refine (fun hx : Keeps ms s0 x => ?_) ?_; clear_value x; on_goal 2 => subst x)
    | (extract_lets +onlyGivenNames _) | with_reducible apply keeps_foldl | with_reducible apply State.modKnot_keeps
    | with_reducible apply State.put_keeps | with_reducible apply State.hwSendTo_keeps)

theorem execKnotReady_keeps (k) {s : State} (h1 : Keeps true s0 s) :
    KeepsO true s0 (execKnotReady k s) := by
  unfold execKnotReady
  repeat' (first
    | with_reducible assumption | (extract_lets +onlyGivenNames _) | with_reducible apply KeepsO.next
    | with_reducible apply knotEnd_keeps | with_reducible apply knotErr_keeps | with_reducible apply knotApply_keeps
    | with_reducible apply knotHold_keeps | with_reducible apply gangAsk_keeps | with_reducible apply State.put_keeps
    | split)

theorem prepareIn_keeps (i) (t) (handle) {s : State} (h3 : Keeps ms s0 s) :
    Keeps ms s0 (prepareIn i t handle s) := by
  unfold prepareIn
  repeat' (first
    | with_reducible assumption
    | (extract_lets +onlyGivenNames x; refine (fun hx : Keeps ms s0 x => ?_) ?_; clear_value x; on_goal 2 => subst x)
    | (extract_lets +onlyGivenNames _) | with_reducible apply State.hwSendTo_keeps
    | with_reducible apply State.modKnot_keeps | with_reducible apply State.put_keeps
    | with_reducible apply knotTarget_keeps | with_reducible apply knotEnd_keeps | with_reducible apply knotErr_keeps
    | with_reducible apply knotHold_keeps | split)

theorem execGangPrepareRx_keeps (p) (h) (sec) (ns) (handle) {s : State} (h5 : Keeps ms s0 s) :
    KeepsO ms s0 (execGangPrepareRx p h sec ns handle s) := by
  unfold execGangPrepareRx
  repeat' (first
    | with_reducible assumption | (with_reducible intro _) | (extract_lets +onlyGivenNames _)
    | with_reducible apply KeepsO.next | with_reducible apply hwArrive_keeps | with_reducible apply prepareIn_keeps)

theorem modPart_keeps (k) (i) (f) {s : State} (h3 : Keeps ms s0 s) :
    Keeps ms s0 (modPart k i f s) := by
  unfold modPart
  repeat' (first | with_reducible assumption | with_reducible apply State.modKnot_keeps)

theorem gangAborted_keeps (k) (st) (result) {s : State} (h3 : Keeps ms s0 s) :
    Keeps ms s0 (gangAborted k st result s) := by
  unfold gangAborted
  repeat' (first
    | with_reducible assumption | (with_reducible intro _)
    | (extract_lets +onlyGivenNames x; refine (fun hx : Keeps ms s0 x => ?_) ?_; clear_value x; on_goal 2 => subst x)
    | (extract_lets +onlyGivenNames _) | with_reducible apply keeps_foldl | with_reducible apply State.hwSendTo_keeps
    | with_reducible apply knotEnd_keeps)

theorem preparedIn_keeps (i) (handle) {s : State} (h2 : Keeps ms s0 s) :
    Keeps ms s0 (preparedIn i handle s) := by
  unfold preparedIn
  repeat' (first | with_reducible assumption | with_reducible apply modPart_keeps | split)

theorem execGangPreparedRx_keeps (p) (h) (handle) {s : State} (h3 : Keeps ms s0 s) :
    KeepsO ms s0 (execGangPreparedRx p h handle s) := by
  unfold execGangPreparedRx
  repeat' (first
    | with_reducible assumption | (with_reducible intro _) | (extract_lets +onlyGivenNames _)
    | with_reducible apply KeepsO.next | with_reducible apply hwArrive_keeps | with_reducible apply preparedIn_keeps)

theorem refusedIn_keeps (i) (handle) (status) {s : State} (h3 : Keeps ms s0 s) :
    Keeps ms s0 (refusedIn i handle status s) := by
  unfold refusedIn
  repeat' (first | with_reducible assumption | with_reducible apply gangAborted_keeps | split)

theorem execGangRefusedRx_keeps (p) (h) (handle) (status) {s : State} (h4 : Keeps ms s0 s) :
    KeepsO ms s0 (execGangRefusedRx p h handle status s) := by
  unfold execGangRefusedRx
  repeat' (first
    | with_reducible assumption | (with_reducible intro _) | (extract_lets +onlyGivenNames _)
    | with_reducible apply KeepsO.next | with_reducible apply hwArrive_keeps | with_reducible apply refusedIn_keeps)

theorem execGangDecisionPoint_keeps (k) {s : State} (h1 : Keeps ms s0 s) :
    KeepsO ms s0 (execGangDecisionPoint k s) := by
  unfold execGangDecisionPoint
  repeat' (first
    | with_reducible assumption | (with_reducible intro _) | (extract_lets +onlyGivenNames _)
    | with_reducible apply KeepsO.next | with_reducible apply keeps_foldl | with_reducible apply gangAborted_keeps
    | with_reducible apply State.put_keeps | with_reducible apply State.modKnot_keeps
    | with_reducible apply State.hwSendTo_keeps | split)

theorem gangAcked_keeps (k) (acked) {s : State} (h2 : Keeps ms s0 s) :
    Keeps ms s0 (gangAcked k acked s) := by
  unfold gangAcked
  repeat' (first | with_reducible assumption | with_reducible apply State.modKnot_keeps)

theorem execGangCommitRepeat_keeps (k) (acked) {s : State} (h2 : Keeps ms s0 s) :
    KeepsO ms s0 (execGangCommitRepeat k acked s) := by
  unfold execGangCommitRepeat
  repeat' (first
    | with_reducible assumption | (with_reducible intro _)
    | (extract_lets +onlyGivenNames x; refine (fun hx : Keeps ms s0 x => ?_) ?_; clear_value x; on_goal 2 => subst x)
    | (extract_lets +onlyGivenNames _) | with_reducible apply KeepsO.next | with_reducible apply keeps_foldl
    | with_reducible apply gangAcked_keeps | with_reducible apply State.hwSendTo_keeps | split)

theorem commitIn_keeps (handle) {s : State} (h1 : Keeps ms s0 s) :
    Keeps ms s0 (commitIn handle s) := by
  unfold commitIn
  repeat' (first | with_reducible assumption | with_reducible apply State.put_keeps | split)

theorem execGangCommitRx_keeps (p) (h) (handle) {s : State} (h3 : Keeps ms s0 s) :
    KeepsO ms s0 (execGangCommitRx p h handle s) := by
  unfold execGangCommitRx
  repeat' (first
    | with_reducible assumption | (with_reducible intro _) | (extract_lets +onlyGivenNames _)
    | with_reducible apply KeepsO.next | with_reducible apply hwArrive_keeps | with_reducible apply commitIn_keeps)

theorem abortIn_keeps (handle) {s : State} (h1 : Keeps ms s0 s) :
    Keeps ms s0 (abortIn handle s) := by
  unfold abortIn
  repeat' (first | with_reducible assumption | with_reducible apply knotEnd_keeps | split)

theorem execGangAbortRx_keeps (p) (h) (handle) {s : State} (h3 : Keeps ms s0 s) :
    KeepsO ms s0 (execGangAbortRx p h handle s) := by
  unfold execGangAbortRx
  repeat' (first
    | with_reducible assumption | (with_reducible intro _) | (extract_lets +onlyGivenNames _)
    | with_reducible apply KeepsO.next | with_reducible apply hwArrive_keeps | with_reducible apply abortIn_keeps)

theorem appliedIn_keeps (i) (handle) {s : State} (h2 : Keeps ms s0 s) :
    Keeps ms s0 (appliedIn i handle s) := by
  unfold appliedIn
  repeat' (first
    | with_reducible assumption | (extract_lets +onlyGivenNames _) | with_reducible apply gangSettle_keeps
    | with_reducible apply modPart_keeps | split)

theorem execGangAppliedRx_keeps (p) (h) (handle) {s : State} (h3 : Keeps ms s0 s) :
    KeepsO ms s0 (execGangAppliedRx p h handle s) := by
  unfold execGangAppliedRx
  repeat' (first
    | with_reducible assumption | (with_reducible intro _) | (extract_lets +onlyGivenNames _)
    | with_reducible apply KeepsO.next | with_reducible apply hwArrive_keeps | with_reducible apply appliedIn_keeps)

theorem execParticipantDeadline_keeps (k) {s : State} (h1 : Keeps ms s0 s) :
    KeepsO ms s0 (execParticipantDeadline k s) := by
  unfold execParticipantDeadline
  repeat' (first
    | with_reducible assumption | (extract_lets +onlyGivenNames _) | with_reducible apply KeepsO.next
    | with_reducible apply State.hwReport_keeps | with_reducible apply State.post_keeps
    | with_reducible apply State.put_keeps | with_reducible apply knotEnd_keeps | split)

theorem knotFires_keeps (k) {s : State} (h1 : Keeps true s0 s) :
    Keeps true s0 (knotFires k s) := by
  unfold knotFires
  repeat' (first
    | with_reducible assumption
    | (extract_lets +onlyGivenNames x; refine (fun hx : Keeps true s0 x => ?_) ?_; clear_value x; on_goal 2 => subst x)
    | (extract_lets +onlyGivenNames _) | with_reducible apply knotApply_keeps | with_reducible apply gangSettle_keeps
    | with_reducible apply State.modKnot_keeps | with_reducible apply State.put_keeps
    | with_reducible apply knotEnd_keeps | with_reducible apply State.hwSendTo_keeps | split)

theorem execScheduledTimeReached_keeps (k) {s : State} (h1 : Keeps true s0 s) :
    KeepsO true s0 (execScheduledTimeReached k s) := by
  unfold execScheduledTimeReached
  repeat' (first
    | with_reducible assumption | (extract_lets +onlyGivenNames _) | with_reducible apply KeepsO.next
    | with_reducible apply timeAdjustFires_keeps | with_reducible apply knotFires_keeps | split)

theorem statusIn_keeps (i) (st) {s : State} (h2 : Keeps ms s0 s) :
    Keeps ms s0 (statusIn i st s) := by
  unfold statusIn
  repeat' (first
    | with_reducible assumption | (with_reducible intro _)
    | (extract_lets +onlyGivenNames x; refine (fun hx : Keeps ms s0 x => ?_) ?_; clear_value x; on_goal 2 => subst x)
    | (extract_lets +onlyGivenNames _) | with_reducible apply State.modHws_keeps
    | with_reducible apply State.post_keeps | with_reducible apply reloadStart_keeps
    | with_reducible apply State.finishWhere_keeps | with_reducible apply eachBelow_keeps
    | with_reducible apply modPart_keeps | with_reducible apply gangSettleAll_keeps | split)

theorem execStatusRx_keeps (p) (h) (st) {s : State} (h3 : Keeps ms s0 s) :
    KeepsO ms s0 (execStatusRx p h st s) := by
  unfold execStatusRx
  repeat' (first
    | with_reducible assumption | (with_reducible intro _) | (extract_lets +onlyGivenNames _)
    | with_reducible apply KeepsO.next | with_reducible apply hwArrive_keeps | with_reducible apply statusIn_keeps)

theorem memberLags_keeps (i) {s : State} (h1 : Keeps ms s0 s) :
    Keeps ms s0 (memberLags i s) := by
  unfold memberLags
  repeat' (first
    | with_reducible assumption
    | (extract_lets +onlyGivenNames x; refine (fun hx : Keeps ms s0 x => ?_) ?_; clear_value x; on_goal 2 => subst x)
    | (extract_lets +onlyGivenNames _) | with_reducible apply State.modHws_keeps
    | with_reducible apply State.post_keeps | split)

theorem execEpochLagTimeout_keeps (i) {s : State} (h1 : Keeps ms s0 s) :
    KeepsO ms s0 (execEpochLagTimeout i s) := by
  unfold execEpochLagTimeout
  repeat' (first
    | with_reducible assumption
    | (extract_lets +onlyGivenNames x; refine (fun hx : Keeps ms s0 x => ?_) ?_; clear_value x; on_goal 2 => subst x)
    | (extract_lets +onlyGivenNames _) | with_reducible apply KeepsO.next | with_reducible apply memberLags_keeps
    | with_reducible apply reloadStart_keeps | split)

theorem execDigestRecompute_keeps {s : State} (h0 : Keeps ms s0 s) :
    KeepsO ms s0 (execDigestRecompute s) := by
  unfold execDigestRecompute
  repeat' (first
    | with_reducible assumption | (extract_lets +onlyGivenNames _) | with_reducible apply KeepsO.next
    | with_reducible apply gangSettleAll_keeps | with_reducible apply digestTick_keeps | split)

theorem execGangStatus_keeps (m) {s : State} (h1 : Keeps true s0 s) :
    KeepsO true s0 (execGangStatus m s) := by
  unfold execGangStatus
  repeat' (first
    | with_reducible assumption | (with_reducible intro _) | (extract_lets +onlyGivenNames _)
    | with_reducible apply KeepsO.next | with_reducible apply runCmd_keeps
    | with_reducible apply State.finishStaged_keeps)

theorem gangConfig_keeps (a) (m) (f) {s : State} (h2 : ∀ a0 t1, Keeps ms s0 t1 → Keeps ms s0 (f a0 t1)) (h3 : Keeps ms s0 s) :
    Keeps ms s0 (gangConfig a m f s) := by
  unfold gangConfig
  repeat' (first
    | with_reducible assumption | (with_reducible intro _) | (extract_lets +onlyGivenNames _)
    | with_reducible apply h2 | with_reducible apply runCmd_keeps | with_reducible apply State.finish_keeps | split)

theorem gangParameters_keeps (c) {s : State} (h1 : Keeps ms s0 s) :
    Keeps ms s0 (gangParameters c s) := by
  unfold gangParameters
  repeat' (first
    | with_reducible assumption
    | (extract_lets +onlyGivenNames x; refine (fun hx : Keeps ms s0 x => ?_) ?_; clear_value x; on_goal 2 => subst x)
    | with_reducible apply State.put_keeps | with_reducible apply hwBroadcast_keeps | split)

theorem execGangConfigParameters_keeps (m) {s : State} (h1 : Keeps ms s0 s) :
    KeepsO ms s0 (execGangConfigParameters m s) := by
  unfold execGangConfigParameters
  repeat' (first
    | with_reducible assumption | (with_reducible intro _) | (extract_lets +onlyGivenNames _)
    | with_reducible apply KeepsO.next | with_reducible apply gangConfig_keeps
    | with_reducible apply State.finish_keeps | with_reducible apply gangParameters_keeps | split)

theorem execGangConfigList_keeps (m) {s : State} (h1 : Keeps ms s0 s) :
    KeepsO ms s0 (execGangConfigList m s) := by
  unfold execGangConfigList
  repeat' (first
    | with_reducible assumption | (with_reducible intro _) | (extract_lets +onlyGivenNames _)
    | with_reducible apply KeepsO.next | with_reducible apply gangConfig_keeps
    | with_reducible apply State.finish_keeps | with_reducible apply epochBump_keeps
    | with_reducible apply hwBroadcast_keeps | with_reducible apply State.modHws_keeps | split)

theorem execGangConfigRediscover_keeps (m) {s : State} (h1 : Keeps ms s0 s) :
    KeepsO ms s0 (execGangConfigRediscover m s) := by
  unfold execGangConfigRediscover
  repeat' (first
    | with_reducible assumption | (with_reducible intro _)
    | (extract_lets +onlyGivenNames x; refine (fun hx : Keeps ms s0 x => ?_) ?_; clear_value x; on_goal 2 => subst x)
    | (extract_lets +onlyGivenNames _) | with_reducible apply KeepsO.next | with_reducible apply gangConfig_keeps
    | with_reducible apply State.await_keeps | with_reducible apply discStart_keeps | split)

theorem execGangConfigPush_keeps (m) {s : State} (h1 : Keeps ms s0 s) :
    KeepsO ms s0 (execGangConfigPush m s) := by
  unfold execGangConfigPush
  repeat' (first
    | with_reducible assumption | (with_reducible intro _) | (extract_lets +onlyGivenNames _)
    | with_reducible apply KeepsO.next | with_reducible apply keeps_foldl | with_reducible apply gangConfig_keeps
    | with_reducible apply State.finish_keeps | with_reducible apply State.hwSendTo_keeps
    | with_reducible apply State.await_keeps | split)

theorem execGangPushTimeout_keeps (i) {s : State} (h1 : Keeps ms s0 s) :
    KeepsO ms s0 (execGangPushTimeout i s) := by
  unfold execGangPushTimeout
  repeat' (first
    | with_reducible assumption | (extract_lets +onlyGivenNames _) | with_reducible apply KeepsO.next
    | with_reducible apply State.finishWhere_keeps)

theorem execGangConfigReload_keeps (m) {s : State} (h1 : Keeps ms s0 s) :
    KeepsO ms s0 (execGangConfigReload m s) := by
  unfold execGangConfigReload
  repeat' (first
    | with_reducible assumption | (with_reducible intro _) | (extract_lets +onlyGivenNames _)
    | with_reducible apply KeepsO.next | with_reducible apply gangConfig_keeps
    | with_reducible apply State.finish_keeps | with_reducible apply reloadStart_keeps
    | with_reducible apply State.await_keeps | split)

end Sys2Proof.Machine
end

