-- ==== Sys2Proof/Laws/KeepBoundary.lean ====
section
/-! SUPPORT. Sys2Proof/Laws/KeepBoundary.lean: each operation of Machine/Boundary.lean keeps what Keeps says. -/

namespace Sys2Proof.Machine

variable {ms : Bool} {s0 : State}

theorem execTxAmBoundary_keeps (n) (fillA) (fillB) (data) {s : State} (h4 : Keeps true s0 s) :
    KeepsO true s0 (execTxAmBoundary n fillA fillB data s) := by
  unfold execTxAmBoundary
  repeat' (first
    | with_reducible assumption | (extract_lets +onlyGivenNames _) | with_reducible apply KeepsO.next
    | with_reducible apply txBoundary_keeps | with_reducible apply knotBoundary_keeps
    | with_reducible apply txData_keeps | split)

theorem execRxAmBoundary_keeps (n) (codes) (lv) (am) {s : State} (h2 : Keeps true s0 s) :
    KeepsO true s0 (execRxAmBoundary n codes lv am s) := by
  unfold execRxAmBoundary
  repeat' (first
    | with_reducible assumption | (extract_lets +onlyGivenNames _) | with_reducible apply KeepsO.next
    | with_reducible apply rxBoundary_keeps | with_reducible apply knotBoundary_keeps
    | with_reducible apply rxData_keeps | split)

theorem lockstepFault_keeps {s : State} (h2 : Keeps ms s0 s) : Keeps ms s0 (lockstepFault s) := by
  unfold lockstepFault
  repeat' (first
    | with_reducible assumption
    | (extract_lets +onlyGivenNames x; refine (fun hx : Keeps ms s0 x => ?_) ?_; clear_value x; on_goal 2 => subst x)
    | with_reducible apply State.put_keeps
    | with_reducible apply State.modCmis_keeps | with_reducible apply modFault_keeps | split)

theorem execSafetyFault_keeps (b) (n) {s : State} (h2 : Keeps ms s0 s) :
    KeepsO ms s0 (execSafetyFault b n s) := by
  unfold execSafetyFault
  repeat' (first
    | with_reducible assumption | (with_reducible intro _)
    | (extract_lets +onlyGivenNames x; refine (fun hx : Keeps ms s0 x => ?_) ?_; clear_value x; on_goal 2 => subst x)
    | (extract_lets +onlyGivenNames _) | with_reducible apply KeepsO.next | with_reducible apply keeps_foldl
    | with_reducible apply faultLane_keeps | with_reducible apply lockstepFault_keeps | split)

end Sys2Proof.Machine
end

