-- ==== Sys2Proof/Laws/KeepCmis.lean ====
section
/-! SUPPORT. Sys2Proof/Laws/KeepCmis.lean: each operation of Machine/Cmis.lean keeps what Keeps says. -/

namespace Sys2Proof.Machine

variable {ms : Bool} {s0 : State}

theorem State.modWindow_keeps {s : State} (f) (h0 : Keeps ms s0 s) :
    Keeps ms s0 (State.modWindow s f) := by
  unfold State.modWindow
  repeat' (first | with_reducible assumption | with_reducible apply State.modCmis_keeps)

theorem windowStart_keeps (write) (u) {s : State} (h2 : Keeps true s0 s) :
    Keeps true s0 (windowStart write u s) := by
  unfold windowStart
  repeat' (first
    | with_reducible assumption | (extract_lets +onlyGivenNames _) | with_reducible apply sramWrite_keeps
    | with_reducible apply State.modWindow_keeps | with_reducible apply sramRead_keeps
    | with_reducible apply busWrite_keeps | with_reducible apply busRead_keeps | split)

theorem execRegisterWindowRead_keeps (u) {s : State} (h1 : Keeps true s0 s) :
    KeepsO true s0 (execRegisterWindowRead u s) := by
  unfold execRegisterWindowRead
  repeat' (first
    | with_reducible assumption | (extract_lets +onlyGivenNames _) | with_reducible apply KeepsO.next
    | with_reducible apply windowStart_keeps)

theorem execRegisterWindowWrite_keeps (u) {s : State} (h1 : Keeps true s0 s) :
    KeepsO true s0 (execRegisterWindowWrite u s) := by
  unfold execRegisterWindowWrite
  repeat' (first
    | with_reducible assumption | (extract_lets +onlyGivenNames _) | with_reducible apply KeepsO.next
    | with_reducible apply windowStart_keeps)

theorem execWindowAccessComplete_keeps {s : State} (h0 : Keeps ms s0 s) :
    KeepsO ms s0 (execWindowAccessComplete s) := by
  unfold execWindowAccessComplete
  repeat' (first
    | with_reducible assumption | (extract_lets +onlyGivenNames _) | with_reducible apply KeepsO.next
    | with_reducible apply State.modWindow_keeps | split)

theorem execFathomReadoutCopy_keeps {s : State} (h0 : Keeps ms s0 s) :
    KeepsO ms s0 (execFathomReadoutCopy s) := by
  unfold execFathomReadoutCopy
  repeat' (first
    | with_reducible assumption | (extract_lets +onlyGivenNames _) | with_reducible apply KeepsO.next
    | with_reducible apply State.modCmis_keeps)

theorem execPerfWindowCopy_keeps {s : State} (h0 : Keeps ms s0 s) :
    KeepsO ms s0 (execPerfWindowCopy s) := by
  unfold execPerfWindowCopy
  repeat' (first
    | with_reducible assumption | (extract_lets +onlyGivenNames _) | with_reducible apply KeepsO.next
    | with_reducible apply State.modCmis_keeps | split)

theorem mailboxWrite_keeps (page) (off) (w) {s : State} (h3 : Keeps ms s0 s) :
    Keeps ms s0 (mailboxWrite page off w s) := by
  unfold mailboxWrite
  repeat' (first
    | with_reducible assumption
    | (extract_lets +onlyGivenNames x; refine (fun hx : Keeps ms s0 x => ?_) ?_; clear_value x; on_goal 2 => subst x)
    | (extract_lets +onlyGivenNames _) | with_reducible apply mbxWordWrite_keeps | with_reducible apply mbxGo_keeps
    | with_reducible apply State.put_keeps | with_reducible apply State.putB_keeps | with_reducible apply ran_keeps
    | with_reducible apply execCompletionRingPop_keeps | split)

theorem customWrite_keeps (page) (off) (bs) {s : State} (h3 : Keeps true s0 s) :
    Keeps true s0 (customWrite page off bs s) := by
  unfold customWrite
  repeat' (first
    | with_reducible assumption | (extract_lets +onlyGivenNames _) | with_reducible apply State.modWindow_keeps
    | with_reducible apply windowStart_keeps | with_reducible apply ran_keeps
    | with_reducible apply execEventQueuePop_keeps | with_reducible apply State.setCmisByte_keeps
    | with_reducible apply State.modCmis_keeps | with_reducible apply execFathomReadoutCopy_keeps
    | with_reducible apply execPerfWindowCopy_keeps | with_reducible apply mailboxWrite_keeps | split)

theorem Xfer.s_keeps (self) (h0 : Keeps ms s0 self.s) :
    Keeps ms s0 (Xfer.s self) := by
  unfold Xfer.s
  repeat' with_reducible assumption

theorem fieldByte_keeps (b) (p) (x) (v) (h2 : Keeps true s0 x.s) :
    Keeps true s0 (fieldByte b p x v).1 := by
  unfold fieldByte
  repeat' (first
    | with_reducible assumption | (extract_lets +onlyGivenNames _) | with_reducible apply customWrite_keeps
    | with_reducible apply ctlWrite_keeps | split)

theorem Xfer.byte_keeps (b) (page) (x) (v) (h2 : Keeps true s0 x.s) :
    Keeps true s0 (Xfer.byte b page x v).s := by
  unfold Xfer.byte
  dsimp only
  repeat' (first
    | with_reducible exact h2 | split | with_reducible exact State.mbxRefuse_keeps _ _ h2
    | with_reducible exact fieldByte_keeps _ _ _ _ h2)

/-- The data bytes of a transfer, one after another. -/
theorem Keeps.xfer {s : State} (h : Keeps true s0 s) (b page : Nat) (off : Nat) (data : List Byte) :
    Keeps true s0 (data.foldl (Xfer.byte b page) { s := s, off := off }).s := by
  have g : ∀ (l : List Byte) (x : Xfer), Keeps true s0 x.s → Keeps true s0 (l.foldl (Xfer.byte b page) x).s := by
    intro l
    induction l with
    | nil => exact fun _ k => k
    | cons v l ih => exact fun x k => ih _ (Xfer.byte_keeps _ _ _ _ k)
  exact g data _ h

theorem i2cBytes_keeps (off) (data) {s : State} (h2 : Keeps true s0 s) :
    Keeps true s0 (i2cBytes off data s).s := by
  unfold i2cBytes
  exact h2.xfer _ _ _ _

theorem i2cWritten_keeps (off) (data) (x) {s : State} (h2 : Keeps ms s0 x.s) (h3 : Keeps ms s0 s) :
    Keeps ms s0 (i2cWritten off data x s) := by
  unfold i2cWritten
  repeat' (first
    | with_reducible assumption
    | (extract_lets +onlyGivenNames x; refine (fun hx : Keeps ms s0 x => ?_) ?_; clear_value x; on_goal 2 => subst x)
    | with_reducible apply State.modCmis_keeps | split)

theorem execI2cWrite_keeps (off) (data) {s : State} (h2 : Keeps true s0 s) :
    KeepsO true s0 (execI2cWrite off data s) := by
  unfold execI2cWrite
  split
  · exact KeepsO.next (State.answer_keeps _ h2)
  · refine KeepsO.next (State.answer_keeps _ (irqUpdate_keeps ?_))
    exact i2cWritten_keeps _ _ _ (i2cBytes_keeps _ _ (edgeWake_keeps 1 h2)) (edgeWake_keeps 1 h2)

theorem readFirst_keeps (page) (offs) {s : State} (h2 : Keeps ms s0 s) :
    Keeps ms s0 (readFirst page offs s).1 := by
  unfold readFirst
  repeat' (first
    | with_reducible assumption | (extract_lets +onlyGivenNames _) | with_reducible apply snapRead_keeps
    | with_reducible apply tsqRead_keeps | split | dsimp +zetaDelta only | (with_reducible refine Keeps.ofSnd ‹_› ?_))

theorem readLast_keeps (b) (page) (offs) {s : State} (h3 : Keeps ms s0 s) :
    Keeps ms s0 (readLast b page offs s) := by
  unfold readLast
  repeat' (first
    | with_reducible assumption | (with_reducible intro _) | (extract_lets +onlyGivenNames _)
    | with_reducible apply keeps_foldl | with_reducible apply flagClear_keeps | with_reducible apply State.put_keeps
    | split)

theorem i2cFetch_keeps (off) (k) {s : State} (h2 : Keeps ms s0 s) :
    Keeps ms s0 (i2cFetch off k s).1 := by
  unfold i2cFetch
  repeat' (first
    | with_reducible assumption | (extract_lets +onlyGivenNames _) | with_reducible apply readFirst_keeps
    | with_reducible apply readLast_keeps | with_reducible apply State.modCmis_keeps)

theorem execI2cRead_keeps (off) (k) {s : State} (h2 : Keeps ms s0 s) :
    KeepsO ms s0 (execI2cRead off k s) := by
  unfold execI2cRead
  repeat' (first
    | with_reducible assumption
    | (extract_lets +onlyGivenNames x; refine (fun hx : Keeps ms s0 x => ?_) ?_; clear_value x; on_goal 2 => subst x)
    | (extract_lets +onlyGivenNames _) | with_reducible apply KeepsO.next | with_reducible apply State.answer_keeps
    | with_reducible apply edgeWake_keeps | with_reducible apply i2cFetch_keeps
    | with_reducible apply irqUpdate_keeps | split)

theorem execI3cCcc_keeps (code) {s : State} (h1 : Keeps ms s0 s) :
    KeepsO ms s0 (execI3cCcc code s) := by
  unfold execI3cCcc
  repeat' (first
    | with_reducible assumption
    | (extract_lets +onlyGivenNames x; refine (fun hx : Keeps ms s0 x => ?_) ?_; clear_value x; on_goal 2 => subst x)
    | (extract_lets +onlyGivenNames _) | with_reducible apply KeepsO.next | with_reducible apply State.answer_keeps
    | with_reducible apply edgeWake_keeps | with_reducible apply State.modCmis_keeps | split)

end Sys2Proof.Machine
end

