-- ==== Sys2Proof/Laws/KeepAccess.lean ====
section
/-! SUPPORT. Sys2Proof/Laws/KeepAccess.lean: each operation of Machine/Access.lean keeps what Keeps says. -/

namespace Sys2Proof.Machine

variable {ms : Bool} {s0 : State}

theorem accWrite_keeps (q) (r) (n) (m) (v) {s : State} (h5 : Keeps true s0 s) :
    KeepsO true s0 (accWrite q r n m v s) := by
  unfold accWrite
  repeat' (first
    | with_reducible assumption | (extract_lets +onlyGivenNames _) | with_reducible apply KeepsO.next
    | with_reducible apply busWrite_keeps | with_reducible apply State.answer_keeps)

theorem accRead_keeps (q) (r) (n) (m) {s : State} (h4 : Keeps ms s0 s) :
    KeepsO ms s0 (accRead q r n m s) := by
  unfold accRead
  repeat' (first
    | with_reducible assumption | (extract_lets +onlyGivenNames _) | with_reducible apply KeepsO.next
    | with_reducible apply busRead_keeps | with_reducible apply State.answer_keeps)

theorem execRegisterWrite_keeps (q) (k) (a) (v) {s : State} (h4 : Keeps true s0 s) :
    KeepsO true s0 (execRegisterWrite q k a v s) := by
  unfold execRegisterWrite
  repeat' (first
    | with_reducible assumption | (extract_lets +onlyGivenNames _) | with_reducible apply KeepsO.next
    | with_reducible apply anyWrite_keeps | with_reducible apply State.answer_keeps)

theorem execSramPartialWrite_keeps (q) (a) (bs) (u) {s : State} (h4 : Keeps true s0 s) :
    KeepsO true s0 (execSramPartialWrite q a bs u s) := by
  unfold execSramPartialWrite
  repeat' (first
    | with_reducible assumption | (extract_lets +onlyGivenNames _) | with_reducible apply KeepsO.next
    | with_reducible apply anyWrite_keeps | with_reducible apply State.answer_keeps)

theorem dmaHalt_keeps (ch) (a) {s : State} (h2 : Keeps ms s0 s) :
    Keeps ms s0 (dmaHalt ch a s) := by
  unfold dmaHalt
  repeat' (first
    | with_reducible assumption
    | (extract_lets +onlyGivenNames x; refine (fun hx : Keeps ms s0 x => ?_) ?_; clear_value x; on_goal 2 => subst x)
    | (extract_lets +onlyGivenNames _) | with_reducible apply State.addSat_keeps
    | with_reducible apply State.put_keeps | with_reducible apply State.post_keeps
    | with_reducible apply State.setWord_keeps)

theorem pathAction_keeps (path) (a) {s : State} (h2 : Keeps true s0 s) :
    Keeps true s0 (pathAction path a s) := by
  cases path <;> unfold pathAction <;> dsimp only
  case riggerFetch => exact riggerCause_keeps _ _ _ _ h2
  case dma0 =>
    have g := dmaHalt_keeps 0 a h2
    split
    · split
      · exact State.cdbDone_keeps _ _ _ (State.modFw_keeps _ g fun _ => rfl)
      · exact State.modFw_keeps _ g fun _ => rfl
    · exact g
  case dma1 =>
    apply State.put_keeps
    have g := State.addSat_keeps F.HWS_DROP_DMA 1 0 0 (dmaHalt_keeps 1 a h2)
    split
    · exact droppedIn_keeps _ _ _ _ g
    · exact State.hwSendTo_keeps _ _ g
  case coefficient => exact rxRestart_keeps _ h2
  case cleatRam => exact aonReset_keeps _ (lifeAppend_keeps h2)
  all_goals first
    | exact h2
    | (split; exact capSet_keeps _ h2; exact h2)

theorem execSramRead_keeps (path) (k) (a) (u) {s : State} (h4 : Keeps true s0 s) :
    KeepsO true s0 (execSramRead path k a u s) := by
  unfold execSramRead
  repeat' (first
    | with_reducible assumption | (extract_lets +onlyGivenNames _) | with_reducible apply KeepsO.next
    | with_reducible apply State.eccError_keeps | with_reducible apply pathAction_keeps
    | with_reducible apply State.eccRead_keeps | with_reducible apply State.answer_keeps
    | with_reducible apply anyRead_keeps | split)

theorem execEccInjectArm_keeps (q) (v) {s : State} (h2 : Keeps true s0 s) :
    KeepsO true s0 (execEccInjectArm q v s) := by
  unfold execEccInjectArm
  repeat' (first | with_reducible assumption | with_reducible apply accWrite_keeps)

theorem execEccLogClear_keeps (q) (v) {s : State} (h2 : Keeps true s0 s) :
    KeepsO true s0 (execEccLogClear q v s) := by
  unfold execEccLogClear
  repeat' (first | with_reducible assumption | with_reducible apply accWrite_keeps)

theorem execLtxLaneCfgWrite_keeps (q) (n) (v) {s : State} (h3 : Keeps true s0 s) :
    KeepsO true s0 (execLtxLaneCfgWrite q n v s) := by
  unfold execLtxLaneCfgWrite
  repeat' (first | with_reducible assumption | with_reducible apply accWrite_keeps)

theorem execShapeApply_keeps (q) (n) (v) {s : State} (h3 : Keeps true s0 s) :
    KeepsO true s0 (execShapeApply q n v s) := by
  unfold execShapeApply
  repeat' (first | with_reducible assumption | with_reducible apply accWrite_keeps)

theorem execMaskCtrlWrite_keeps (q) (n) (m) (v) {s : State} (h4 : Keeps true s0 s) :
    KeepsO true s0 (execMaskCtrlWrite q n m v s) := by
  unfold execMaskCtrlWrite
  repeat' (first | with_reducible assumption | with_reducible apply accWrite_keeps | split)

theorem execTxCalRevert_keeps (q) (n) (v) {s : State} (h3 : Keeps true s0 s) :
    KeepsO true s0 (execTxCalRevert q n v s) := by
  unfold execTxCalRevert
  repeat' (first | with_reducible assumption | with_reducible apply accWrite_keeps)

theorem execTiaRetrim_keeps (q) (n) (v) {s : State} (h3 : Keeps true s0 s) :
    KeepsO true s0 (execTiaRetrim q n v s) := by
  unfold execTiaRetrim
  repeat' (first | with_reducible assumption | with_reducible apply accWrite_keeps)

theorem execWinchReseed_keeps (q) (i) (v) {s : State} (h3 : Keeps true s0 s) :
    KeepsO true s0 (execWinchReseed q i v s) := by
  unfold execWinchReseed
  repeat' (first | with_reducible assumption | with_reducible apply accWrite_keeps)

theorem execRxCalRevert_keeps (q) (n) (v) {s : State} (h3 : Keeps true s0 s) :
    KeepsO true s0 (execRxCalRevert q n v s) := by
  unfold execRxCalRevert
  repeat' (first | with_reducible assumption | with_reducible apply accWrite_keeps)

theorem execCaptureArm_keeps (q) (n) (v) {s : State} (h3 : Keeps true s0 s) :
    KeepsO true s0 (execCaptureArm q n v s) := by
  unfold execCaptureArm
  repeat' (first | with_reducible assumption | with_reducible apply accWrite_keeps)

theorem execCaptureAbort_keeps (q) (n) (v) {s : State} (h3 : Keeps true s0 s) :
    KeepsO true s0 (execCaptureAbort q n v s) := by
  unfold execCaptureAbort
  repeat' (first | with_reducible assumption | with_reducible apply accWrite_keeps)

theorem execDeadlineWrite_keeps (q) (v) {s : State} (h2 : Keeps true s0 s) :
    KeepsO true s0 (execDeadlineWrite q v s) := by
  unfold execDeadlineWrite
  repeat' (first | with_reducible assumption | with_reducible apply accWrite_keeps)

theorem execCapstanSnapshot_keeps (q) {s : State} (h1 : Keeps true s0 s) :
    KeepsO true s0 (execCapstanSnapshot q s) := by
  unfold execCapstanSnapshot
  repeat' (first | with_reducible assumption | with_reducible apply accWrite_keeps)

theorem execHostTxApply_keeps (q) (h) (v) {s : State} (h3 : Keeps true s0 s) :
    KeepsO true s0 (execHostTxApply q h v s) := by
  unfold execHostTxApply
  repeat' (first | with_reducible assumption | with_reducible apply accWrite_keeps)

theorem execHostLoopbackSet_keeps (q) (h) (v) {s : State} (h3 : Keeps true s0 s) :
    KeepsO true s0 (execHostLoopbackSet q h v s) := by
  unfold execHostLoopbackSet
  repeat' (first | with_reducible assumption | with_reducible apply accWrite_keeps)

theorem execRsmEnable_keeps (q) (h) (v) {s : State} (h3 : Keeps true s0 s) :
    KeepsO true s0 (execRsmEnable q h v s) := by
  unfold execRsmEnable
  repeat' (first | with_reducible assumption | with_reducible apply accWrite_keeps)

theorem execRsmSnapshot_keeps (q) (h) (v) {s : State} (h3 : Keeps true s0 s) :
    KeepsO true s0 (execRsmSnapshot q h v s) := by
  unfold execRsmSnapshot
  repeat' (first | with_reducible assumption | with_reducible apply accWrite_keeps)

theorem execOlcReqWrite_keeps (q) (n) (v) {s : State} (h3 : Keeps true s0 s) :
    KeepsO true s0 (execOlcReqWrite q n v s) := by
  unfold execOlcReqWrite
  repeat' (first | with_reducible assumption | with_reducible apply accWrite_keeps)

theorem execProbeGo_keeps (q) (n) (v) {s : State} (h3 : Keeps true s0 s) :
    KeepsO true s0 (execProbeGo q n v s) := by
  unfold execProbeGo
  repeat' (first | with_reducible assumption | with_reducible apply accWrite_keeps)

theorem execLbRangeWrite_keeps (q) (n) (v) {s : State} (h3 : Keeps true s0 s) :
    KeepsO true s0 (execLbRangeWrite q n v s) := by
  unfold execLbRangeWrite
  repeat' (first | with_reducible assumption | with_reducible apply accWrite_keeps)

theorem execOlcCodeWrite_keeps (q) (n) (k) (v) {s : State} (h4 : Keeps true s0 s) :
    KeepsO true s0 (execOlcCodeWrite q n k v s) := by
  unfold execOlcCodeWrite
  repeat' (first | with_reducible assumption | with_reducible apply accWrite_keeps)

theorem execStrobeWrite_keeps (q) (v) {s : State} (h2 : Keeps true s0 s) :
    KeepsO true s0 (execStrobeWrite q v s) := by
  unfold execStrobeWrite
  repeat' (first | with_reducible assumption | with_reducible apply accWrite_keeps)

theorem execWaveformStart_keeps (q) (c) (v) {s : State} (h3 : Keeps true s0 s) :
    KeepsO true s0 (execWaveformStart q c v s) := by
  unfold execWaveformStart
  repeat' (first | with_reducible assumption | with_reducible apply accWrite_keeps)

theorem execWaveformStop_keeps (q) (c) (v) {s : State} (h3 : Keeps true s0 s) :
    KeepsO true s0 (execWaveformStop q c v s) := by
  unfold execWaveformStop
  repeat' (first | with_reducible assumption | with_reducible apply accWrite_keeps)

theorem execFaultClear_keeps (q) (n) (v) {s : State} (h3 : Keeps true s0 s) :
    KeepsO true s0 (execFaultClear q n v s) := by
  unfold execFaultClear
  repeat' (first | with_reducible assumption | with_reducible apply accWrite_keeps)

theorem execLaneReset_keeps (q) (v) {s : State} (h2 : Keeps true s0 s) :
    KeepsO true s0 (execLaneReset q v s) := by
  unfold execLaneReset
  repeat' (first | with_reducible assumption | with_reducible apply accWrite_keeps)

theorem execLydTxEnWrite_keeps (q) (n) (v) {s : State} (h3 : Keeps true s0 s) :
    KeepsO true s0 (execLydTxEnWrite q n v s) := by
  unfold execLydTxEnWrite
  repeat' (first | with_reducible assumption | with_reducible apply accWrite_keeps)

theorem execLydRxEnWrite_keeps (q) (n) (v) {s : State} (h3 : Keeps true s0 s) :
    KeepsO true s0 (execLydRxEnWrite q n v s) := by
  unfold execLydRxEnWrite
  repeat' (first | with_reducible assumption | with_reducible apply accWrite_keeps)

theorem execLydCoefWrite_keeps (q) (n) (m) (v) {s : State} (h4 : Keeps true s0 s) :
    KeepsO true s0 (execLydCoefWrite q n m v s) := by
  unfold execLydCoefWrite
  repeat' (first | with_reducible assumption | with_reducible apply accWrite_keeps)

theorem execUserSlotFree_keeps (q) (v) {s : State} (h2 : Keeps true s0 s) :
    KeepsO true s0 (execUserSlotFree q v s) := by
  unfold execUserSlotFree
  repeat' (first | with_reducible assumption | with_reducible apply accWrite_keeps)

theorem execTimeApplyRate_keeps (q) (v) {s : State} (h2 : Keeps true s0 s) :
    KeepsO true s0 (execTimeApplyRate q v s) := by
  unfold execTimeApplyRate
  repeat' (first | with_reducible assumption | with_reducible apply accWrite_keeps)

theorem execTimeApplyStep_keeps (q) (v) {s : State} (h2 : Keeps true s0 s) :
    KeepsO true s0 (execTimeApplyStep q v s) := by
  unfold execTimeApplyStep
  repeat' (first | with_reducible assumption | with_reducible apply accWrite_keeps)

theorem execTimeClearCoarse_keeps (q) (v) {s : State} (h2 : Keeps true s0 s) :
    KeepsO true s0 (execTimeClearCoarse q v s) := by
  unfold execTimeClearCoarse
  repeat' (first | with_reducible assumption | with_reducible apply accWrite_keeps)

theorem execTimeSnapshotRead_keeps (q) (w) {s : State} (h2 : Keeps ms s0 s) :
    KeepsO ms s0 (execTimeSnapshotRead q w s) := by
  unfold execTimeSnapshotRead
  repeat' (first | with_reducible assumption | with_reducible apply accRead_keeps | split)

theorem execTsqPop_keeps (q) (rx) (w) {s : State} (h3 : Keeps ms s0 s) :
    KeepsO ms s0 (execTsqPop q rx w s) := by
  unfold execTsqPop
  repeat' (first | with_reducible assumption | with_reducible apply accRead_keeps)

theorem execAonCounterRead_keeps (q) (high) {s : State} (h2 : Keeps ms s0 s) :
    KeepsO ms s0 (execAonCounterRead q high s) := by
  unfold execAonCounterRead
  repeat' (first | with_reducible assumption | with_reducible apply accRead_keeps | split)

theorem execTwoWayRead_keeps (q) (n) (w) {s : State} (h3 : Keeps ms s0 s) :
    KeepsO ms s0 (execTwoWayRead q n w s) := by
  unfold execTwoWayRead
  repeat' (first | with_reducible assumption | with_reducible apply accRead_keeps | split)

theorem execPpsInRead_keeps (q) (w) {s : State} (h2 : Keeps ms s0 s) :
    KeepsO ms s0 (execPpsInRead q w s) := by
  unfold execPpsInRead
  repeat' (first | with_reducible assumption | with_reducible apply accRead_keeps | split)

theorem execMailboxWordWrite_keeps (q) (m) (w) (v) (stg) {s : State} (h5 : Keeps true s0 s) :
    KeepsO true s0 (execMailboxWordWrite q m w v stg s) := by
  unfold execMailboxWordWrite
  repeat' (first
    | with_reducible assumption | (extract_lets +onlyGivenNames _) | with_reducible apply KeepsO.next
    | with_reducible apply accWrite_keeps | with_reducible apply sramWrite_keeps
    | with_reducible apply State.answer_keeps | split)

theorem execMailboxGo_keeps (q) (m) {s : State} (h2 : Keeps true s0 s) :
    KeepsO true s0 (execMailboxGo q m s) := by
  unfold execMailboxGo
  repeat' (first | with_reducible assumption | with_reducible apply accWrite_keeps)

theorem execInternalRingPop_keeps (q) (k) (i) {s : State} (h3 : Keeps ms s0 s) :
    KeepsO ms s0 (execInternalRingPop q k i s) := by
  unfold execInternalRingPop
  repeat' (first | with_reducible assumption | with_reducible apply accRead_keeps)

theorem execRiggerReady_keeps (c) (v) {s : State} (h2 : Keeps true s0 s) :
    KeepsO true s0 (execRiggerReady c v s) := by
  unfold execRiggerReady
  repeat' (first | with_reducible assumption | with_reducible apply accWrite_keeps)

theorem execWatchdogKick_keeps (c) (v) {s : State} (h2 : Keeps true s0 s) :
    KeepsO true s0 (execWatchdogKick c v s) := by
  unfold execWatchdogKick
  repeat' (first | with_reducible assumption | with_reducible apply accWrite_keeps)

theorem execUrgentConversion_keeps (q) (v) {s : State} (h2 : Keeps true s0 s) :
    KeepsO true s0 (execUrgentConversion q v s) := by
  unfold execUrgentConversion
  repeat' (first | with_reducible assumption | with_reducible apply accWrite_keeps)

theorem execReferenceEnable_keeps (q) (v) {s : State} (h2 : Keeps true s0 s) :
    KeepsO true s0 (execReferenceEnable q v s) := by
  unfold execReferenceEnable
  repeat' (first | with_reducible assumption | with_reducible apply accWrite_keeps)

theorem execFathomStart_keeps (q) (i) (v) {s : State} (h3 : Keeps true s0 s) :
    KeepsO true s0 (execFathomStart q i v s) := by
  unfold execFathomStart
  repeat' (first | with_reducible assumption | with_reducible apply accWrite_keeps)

theorem execFathomStop_keeps (q) (i) (word) (v) {s : State} (h4 : Keeps true s0 s) :
    KeepsO true s0 (execFathomStop q i word v s) := by
  unfold execFathomStop
  repeat' (first | with_reducible assumption | with_reducible apply accWrite_keeps | split)

theorem execPerfSnapshot_keeps (q) (v) {s : State} (h2 : Keeps true s0 s) :
    KeepsO true s0 (execPerfSnapshot q v s) := by
  unfold execPerfSnapshot
  repeat' (first | with_reducible assumption | with_reducible apply accWrite_keeps)

theorem execPerfCounterRead_keeps (q) (j) (high) {s : State} (h3 : Keeps ms s0 s) :
    KeepsO ms s0 (execPerfCounterRead q j high s) := by
  unfold execPerfCounterRead
  repeat' (first | with_reducible assumption | with_reducible apply accRead_keeps | split)

theorem execBlockEnableWrite_keeps (q) (v) {s : State} (h2 : Keeps true s0 s) :
    KeepsO true s0 (execBlockEnableWrite q v s) := by
  unfold execBlockEnableWrite
  repeat' (first | with_reducible assumption | with_reducible apply accWrite_keeps)

theorem execSoftwareAonReset_keeps {s : State} (h0 : Keeps true s0 s) :
    KeepsO true s0 (execSoftwareAonReset s) := by
  unfold execSoftwareAonReset
  repeat' (first | with_reducible assumption | with_reducible apply accWrite_keeps)

theorem execHawserPortEnable_keeps (q) (p) (v) {s : State} (h3 : Keeps true s0 s) :
    KeepsO true s0 (execHawserPortEnable q p v s) := by
  unfold execHawserPortEnable
  repeat' (first | with_reducible assumption | with_reducible apply accWrite_keeps)

theorem execHawserRetrain_keeps (q) (p) (v) {s : State} (h3 : Keeps true s0 s) :
    KeepsO true s0 (execHawserRetrain q p v s) := by
  unfold execHawserRetrain
  repeat' (first | with_reducible assumption | with_reducible apply accWrite_keeps)

end Sys2Proof.Machine
end

