-- ==== Sys2Proof/Laws/State.lean ====
section
/-! SUPPORT. Sys2Proof/Laws/State.lean: what each elementary update leaves in each field of the state, so that no proof
unfolds a record update. -/

namespace Sys2Proof.Machine

/-! ## State.setWord -/

@[simp] theorem State.setWord_sram (s : State) (r : RegD) (w : Word) (n m : Nat) :
    (s.setWord r w n m).sram = s.sram := rfl
@[simp] theorem State.setWord_mbx (s : State) (r : RegD) (w : Word) (n m : Nat) : (s.setWord r w n m).mbx = s.mbx := rfl
@[simp] theorem State.setWord_ecc (s : State) (r : RegD) (w : Word) (n m : Nat) : (s.setWord r w n m).ecc = s.ecc := rfl
@[simp] theorem State.setWord_tim (s : State) (r : RegD) (w : Word) (n m : Nat) : (s.setWord r w n m).tim = s.tim := rfl
@[simp] theorem State.setWord_mon (s : State) (r : RegD) (w : Word) (n m : Nat) : (s.setWord r w n m).mon = s.mon := rfl
@[simp] theorem State.setWord_fw (s : State) (r : RegD) (w : Word) (n m : Nat) : (s.setWord r w n m).fw = s.fw := rfl
@[simp] theorem State.setWord_hws (s : State) (r : RegD) (w : Word) (n m : Nat) : (s.setWord r w n m).hws = s.hws := rfl
@[simp] theorem State.setWord_knt (s : State) (r : RegD) (w : Word) (n m : Nat) : (s.setWord r w n m).knt = s.knt := rfl
@[simp] theorem State.setWord_cmis (s : State) (r : RegD) (w : Word) (n m : Nat) :
    (s.setWord r w n m).cmis = s.cmis := rfl
@[simp] theorem State.setWord_pwr (s : State) (r : RegD) (w : Word) (n m : Nat) : (s.setWord r w n m).pwr = s.pwr := rfl
@[simp] theorem State.setWord_bst (s : State) (r : RegD) (w : Word) (n m : Nat) : (s.setWord r w n m).bst = s.bst := rfl
@[simp] theorem State.setWord_lanes (s : State) (r : RegD) (w : Word) (n m : Nat) :
    (s.setWord r w n m).lanes = s.lanes := rfl
@[simp] theorem State.setWord_optics (s : State) (r : RegD) (w : Word) (n m : Nat) :
    (s.setWord r w n m).optics = s.optics := rfl
@[simp] theorem State.setWord_lyd (s : State) (r : RegD) (w : Word) (n m : Nat) : (s.setWord r w n m).lyd = s.lyd := rfl
@[simp] theorem State.setWord_cap (s : State) (r : RegD) (w : Word) (n m : Nat) : (s.setWord r w n m).cap = s.cap := rfl
@[simp] theorem State.setWord_resp (s : State) (r : RegD) (w : Word) (n m : Nat) :
    (s.setWord r w n m).resp = s.resp := rfl
@[simp] theorem State.setWord_fresh (s : State) (r : RegD) (w : Word) (n m : Nat) :
    (s.setWord r w n m).fresh = s.fresh := rfl
@[simp] theorem State.setWord_pending (s : State) (r : RegD) (w : Word) (n m : Nat) :
    (s.setWord r w n m).pending = s.pending := rfl

/-! ## State.put -/

@[simp] theorem State.put_sram (s : State) (f : Fld) (v n m : Nat) : (s.put f v n m).sram = s.sram := rfl
@[simp] theorem State.put_mbx (s : State) (f : Fld) (v n m : Nat) : (s.put f v n m).mbx = s.mbx := rfl
@[simp] theorem State.put_ecc (s : State) (f : Fld) (v n m : Nat) : (s.put f v n m).ecc = s.ecc := rfl
@[simp] theorem State.put_tim (s : State) (f : Fld) (v n m : Nat) : (s.put f v n m).tim = s.tim := rfl
@[simp] theorem State.put_mon (s : State) (f : Fld) (v n m : Nat) : (s.put f v n m).mon = s.mon := rfl
@[simp] theorem State.put_fw (s : State) (f : Fld) (v n m : Nat) : (s.put f v n m).fw = s.fw := rfl
@[simp] theorem State.put_hws (s : State) (f : Fld) (v n m : Nat) : (s.put f v n m).hws = s.hws := rfl
@[simp] theorem State.put_knt (s : State) (f : Fld) (v n m : Nat) : (s.put f v n m).knt = s.knt := rfl
@[simp] theorem State.put_cmis (s : State) (f : Fld) (v n m : Nat) : (s.put f v n m).cmis = s.cmis := rfl
@[simp] theorem State.put_pwr (s : State) (f : Fld) (v n m : Nat) : (s.put f v n m).pwr = s.pwr := rfl
@[simp] theorem State.put_bst (s : State) (f : Fld) (v n m : Nat) : (s.put f v n m).bst = s.bst := rfl
@[simp] theorem State.put_lanes (s : State) (f : Fld) (v n m : Nat) : (s.put f v n m).lanes = s.lanes := rfl
@[simp] theorem State.put_optics (s : State) (f : Fld) (v n m : Nat) : (s.put f v n m).optics = s.optics := rfl
@[simp] theorem State.put_lyd (s : State) (f : Fld) (v n m : Nat) : (s.put f v n m).lyd = s.lyd := rfl
@[simp] theorem State.put_cap (s : State) (f : Fld) (v n m : Nat) : (s.put f v n m).cap = s.cap := rfl
@[simp] theorem State.put_resp (s : State) (f : Fld) (v n m : Nat) : (s.put f v n m).resp = s.resp := rfl
@[simp] theorem State.put_fresh (s : State) (f : Fld) (v n m : Nat) : (s.put f v n m).fresh = s.fresh := rfl
@[simp] theorem State.put_pending (s : State) (f : Fld) (v n m : Nat) : (s.put f v n m).pending = s.pending := rfl

/-! ## State.putB -/

@[simp] theorem State.putB_sram (s : State) (f : Fld) (v : Bool) (n m : Nat) : (s.putB f v n m).sram = s.sram := rfl
@[simp] theorem State.putB_mbx (s : State) (f : Fld) (v : Bool) (n m : Nat) : (s.putB f v n m).mbx = s.mbx := rfl
@[simp] theorem State.putB_ecc (s : State) (f : Fld) (v : Bool) (n m : Nat) : (s.putB f v n m).ecc = s.ecc := rfl
@[simp] theorem State.putB_tim (s : State) (f : Fld) (v : Bool) (n m : Nat) : (s.putB f v n m).tim = s.tim := rfl
@[simp] theorem State.putB_mon (s : State) (f : Fld) (v : Bool) (n m : Nat) : (s.putB f v n m).mon = s.mon := rfl
@[simp] theorem State.putB_fw (s : State) (f : Fld) (v : Bool) (n m : Nat) : (s.putB f v n m).fw = s.fw := rfl
@[simp] theorem State.putB_hws (s : State) (f : Fld) (v : Bool) (n m : Nat) : (s.putB f v n m).hws = s.hws := rfl
@[simp] theorem State.putB_knt (s : State) (f : Fld) (v : Bool) (n m : Nat) : (s.putB f v n m).knt = s.knt := rfl
@[simp] theorem State.putB_cmis (s : State) (f : Fld) (v : Bool) (n m : Nat) : (s.putB f v n m).cmis = s.cmis := rfl
@[simp] theorem State.putB_pwr (s : State) (f : Fld) (v : Bool) (n m : Nat) : (s.putB f v n m).pwr = s.pwr := rfl
@[simp] theorem State.putB_bst (s : State) (f : Fld) (v : Bool) (n m : Nat) : (s.putB f v n m).bst = s.bst := rfl
@[simp] theorem State.putB_lanes (s : State) (f : Fld) (v : Bool) (n m : Nat) : (s.putB f v n m).lanes = s.lanes := rfl
@[simp] theorem State.putB_optics (s : State) (f : Fld) (v : Bool) (n m : Nat) :
    (s.putB f v n m).optics = s.optics := rfl
@[simp] theorem State.putB_lyd (s : State) (f : Fld) (v : Bool) (n m : Nat) : (s.putB f v n m).lyd = s.lyd := rfl
@[simp] theorem State.putB_cap (s : State) (f : Fld) (v : Bool) (n m : Nat) : (s.putB f v n m).cap = s.cap := rfl
@[simp] theorem State.putB_resp (s : State) (f : Fld) (v : Bool) (n m : Nat) : (s.putB f v n m).resp = s.resp := rfl
@[simp] theorem State.putB_fresh (s : State) (f : Fld) (v : Bool) (n m : Nat) : (s.putB f v n m).fresh = s.fresh := rfl
@[simp] theorem State.putB_pending (s : State) (f : Fld) (v : Bool) (n m : Nat) :
    (s.putB f v n m).pending = s.pending := rfl

/-! ## State.addSat -/

@[simp] theorem State.addSat_sram (s : State) (f : Fld) (k n m : Nat) : (s.addSat f k n m).sram = s.sram := rfl
@[simp] theorem State.addSat_mbx (s : State) (f : Fld) (k n m : Nat) : (s.addSat f k n m).mbx = s.mbx := rfl
@[simp] theorem State.addSat_ecc (s : State) (f : Fld) (k n m : Nat) : (s.addSat f k n m).ecc = s.ecc := rfl
@[simp] theorem State.addSat_tim (s : State) (f : Fld) (k n m : Nat) : (s.addSat f k n m).tim = s.tim := rfl
@[simp] theorem State.addSat_mon (s : State) (f : Fld) (k n m : Nat) : (s.addSat f k n m).mon = s.mon := rfl
@[simp] theorem State.addSat_fw (s : State) (f : Fld) (k n m : Nat) : (s.addSat f k n m).fw = s.fw := rfl
@[simp] theorem State.addSat_hws (s : State) (f : Fld) (k n m : Nat) : (s.addSat f k n m).hws = s.hws := rfl
@[simp] theorem State.addSat_knt (s : State) (f : Fld) (k n m : Nat) : (s.addSat f k n m).knt = s.knt := rfl
@[simp] theorem State.addSat_cmis (s : State) (f : Fld) (k n m : Nat) : (s.addSat f k n m).cmis = s.cmis := rfl
@[simp] theorem State.addSat_pwr (s : State) (f : Fld) (k n m : Nat) : (s.addSat f k n m).pwr = s.pwr := rfl
@[simp] theorem State.addSat_bst (s : State) (f : Fld) (k n m : Nat) : (s.addSat f k n m).bst = s.bst := rfl
@[simp] theorem State.addSat_lanes (s : State) (f : Fld) (k n m : Nat) : (s.addSat f k n m).lanes = s.lanes := rfl
@[simp] theorem State.addSat_optics (s : State) (f : Fld) (k n m : Nat) : (s.addSat f k n m).optics = s.optics := rfl
@[simp] theorem State.addSat_lyd (s : State) (f : Fld) (k n m : Nat) : (s.addSat f k n m).lyd = s.lyd := rfl
@[simp] theorem State.addSat_cap (s : State) (f : Fld) (k n m : Nat) : (s.addSat f k n m).cap = s.cap := rfl
@[simp] theorem State.addSat_resp (s : State) (f : Fld) (k n m : Nat) : (s.addSat f k n m).resp = s.resp := rfl
@[simp] theorem State.addSat_fresh (s : State) (f : Fld) (k n m : Nat) : (s.addSat f k n m).fresh = s.fresh := rfl
@[simp] theorem State.addSat_pending (s : State) (f : Fld) (k n m : Nat) : (s.addSat f k n m).pending = s.pending := rfl

/-! ## State.incWrap -/

@[simp] theorem State.incWrap_sram (s : State) (f : Fld) (n m : Nat) : (s.incWrap f n m).sram = s.sram := rfl
@[simp] theorem State.incWrap_mbx (s : State) (f : Fld) (n m : Nat) : (s.incWrap f n m).mbx = s.mbx := rfl
@[simp] theorem State.incWrap_ecc (s : State) (f : Fld) (n m : Nat) : (s.incWrap f n m).ecc = s.ecc := rfl
@[simp] theorem State.incWrap_tim (s : State) (f : Fld) (n m : Nat) : (s.incWrap f n m).tim = s.tim := rfl
@[simp] theorem State.incWrap_mon (s : State) (f : Fld) (n m : Nat) : (s.incWrap f n m).mon = s.mon := rfl
@[simp] theorem State.incWrap_fw (s : State) (f : Fld) (n m : Nat) : (s.incWrap f n m).fw = s.fw := rfl
@[simp] theorem State.incWrap_hws (s : State) (f : Fld) (n m : Nat) : (s.incWrap f n m).hws = s.hws := rfl
@[simp] theorem State.incWrap_knt (s : State) (f : Fld) (n m : Nat) : (s.incWrap f n m).knt = s.knt := rfl
@[simp] theorem State.incWrap_cmis (s : State) (f : Fld) (n m : Nat) : (s.incWrap f n m).cmis = s.cmis := rfl
@[simp] theorem State.incWrap_pwr (s : State) (f : Fld) (n m : Nat) : (s.incWrap f n m).pwr = s.pwr := rfl
@[simp] theorem State.incWrap_bst (s : State) (f : Fld) (n m : Nat) : (s.incWrap f n m).bst = s.bst := rfl
@[simp] theorem State.incWrap_lanes (s : State) (f : Fld) (n m : Nat) : (s.incWrap f n m).lanes = s.lanes := rfl
@[simp] theorem State.incWrap_optics (s : State) (f : Fld) (n m : Nat) : (s.incWrap f n m).optics = s.optics := rfl
@[simp] theorem State.incWrap_lyd (s : State) (f : Fld) (n m : Nat) : (s.incWrap f n m).lyd = s.lyd := rfl
@[simp] theorem State.incWrap_cap (s : State) (f : Fld) (n m : Nat) : (s.incWrap f n m).cap = s.cap := rfl
@[simp] theorem State.incWrap_resp (s : State) (f : Fld) (n m : Nat) : (s.incWrap f n m).resp = s.resp := rfl
@[simp] theorem State.incWrap_fresh (s : State) (f : Fld) (n m : Nat) : (s.incWrap f n m).fresh = s.fresh := rfl
@[simp] theorem State.incWrap_pending (s : State) (f : Fld) (n m : Nat) : (s.incWrap f n m).pending = s.pending := rfl

/-! ## State.answer -/

@[simp] theorem State.answer_regs (s : State) (r : Resp) : (s.answer r).regs = s.regs := rfl
@[simp] theorem State.answer_sram (s : State) (r : Resp) : (s.answer r).sram = s.sram := rfl
@[simp] theorem State.answer_mbx (s : State) (r : Resp) : (s.answer r).mbx = s.mbx := rfl
@[simp] theorem State.answer_ecc (s : State) (r : Resp) : (s.answer r).ecc = s.ecc := rfl
@[simp] theorem State.answer_tim (s : State) (r : Resp) : (s.answer r).tim = s.tim := rfl
@[simp] theorem State.answer_mon (s : State) (r : Resp) : (s.answer r).mon = s.mon := rfl
@[simp] theorem State.answer_fw (s : State) (r : Resp) : (s.answer r).fw = s.fw := rfl
@[simp] theorem State.answer_hws (s : State) (r : Resp) : (s.answer r).hws = s.hws := rfl
@[simp] theorem State.answer_knt (s : State) (r : Resp) : (s.answer r).knt = s.knt := rfl
@[simp] theorem State.answer_cmis (s : State) (r : Resp) : (s.answer r).cmis = s.cmis := rfl
@[simp] theorem State.answer_pwr (s : State) (r : Resp) : (s.answer r).pwr = s.pwr := rfl
@[simp] theorem State.answer_bst (s : State) (r : Resp) : (s.answer r).bst = s.bst := rfl
@[simp] theorem State.answer_lanes (s : State) (r : Resp) : (s.answer r).lanes = s.lanes := rfl
@[simp] theorem State.answer_optics (s : State) (r : Resp) : (s.answer r).optics = s.optics := rfl
@[simp] theorem State.answer_lyd (s : State) (r : Resp) : (s.answer r).lyd = s.lyd := rfl
@[simp] theorem State.answer_cap (s : State) (r : Resp) : (s.answer r).cap = s.cap := rfl
@[simp] theorem State.answer_resp (s : State) (r : Resp) : (s.answer r).resp = r := rfl
@[simp] theorem State.answer_fresh (s : State) (r : Resp) : (s.answer r).fresh = s.fresh := rfl
@[simp] theorem State.answer_pending (s : State) (r : Resp) : (s.answer r).pending = s.pending := rfl
@[simp] theorem State.answer_word (s : State) (r : Resp) (x : RegD) (i j : Nat) :
    (s.answer r).word x i j = s.word x i j := rfl
@[simp] theorem State.answer_get (s : State) (r : Resp) (x : Fld) (i j : Nat) :
    (s.answer r).get x i j = s.get x i j := rfl
@[simp] theorem State.answer_flag (s : State) (r : Resp) (x : Fld) (i j : Nat) :
    (s.answer r).flag x i j = s.flag x i j := rfl

/-! ## State.setPhysByte -/

@[simp] theorem State.setPhysByte_regs (s : State) (p : Nat) (v : Byte) : (s.setPhysByte p v).regs = s.regs := rfl
@[simp] theorem State.setPhysByte_mbx (s : State) (p : Nat) (v : Byte) : (s.setPhysByte p v).mbx = s.mbx := rfl
@[simp] theorem State.setPhysByte_ecc (s : State) (p : Nat) (v : Byte) : (s.setPhysByte p v).ecc = s.ecc := rfl
@[simp] theorem State.setPhysByte_tim (s : State) (p : Nat) (v : Byte) : (s.setPhysByte p v).tim = s.tim := rfl
@[simp] theorem State.setPhysByte_mon (s : State) (p : Nat) (v : Byte) : (s.setPhysByte p v).mon = s.mon := rfl
@[simp] theorem State.setPhysByte_fw (s : State) (p : Nat) (v : Byte) : (s.setPhysByte p v).fw = s.fw := rfl
@[simp] theorem State.setPhysByte_hws (s : State) (p : Nat) (v : Byte) : (s.setPhysByte p v).hws = s.hws := rfl
@[simp] theorem State.setPhysByte_knt (s : State) (p : Nat) (v : Byte) : (s.setPhysByte p v).knt = s.knt := rfl
@[simp] theorem State.setPhysByte_cmis (s : State) (p : Nat) (v : Byte) : (s.setPhysByte p v).cmis = s.cmis := rfl
@[simp] theorem State.setPhysByte_pwr (s : State) (p : Nat) (v : Byte) : (s.setPhysByte p v).pwr = s.pwr := rfl
@[simp] theorem State.setPhysByte_bst (s : State) (p : Nat) (v : Byte) : (s.setPhysByte p v).bst = s.bst := rfl
@[simp] theorem State.setPhysByte_lanes (s : State) (p : Nat) (v : Byte) : (s.setPhysByte p v).lanes = s.lanes := rfl
@[simp] theorem State.setPhysByte_optics (s : State) (p : Nat) (v : Byte) : (s.setPhysByte p v).optics = s.optics := rfl
@[simp] theorem State.setPhysByte_lyd (s : State) (p : Nat) (v : Byte) : (s.setPhysByte p v).lyd = s.lyd := rfl
@[simp] theorem State.setPhysByte_cap (s : State) (p : Nat) (v : Byte) : (s.setPhysByte p v).cap = s.cap := rfl
@[simp] theorem State.setPhysByte_resp (s : State) (p : Nat) (v : Byte) : (s.setPhysByte p v).resp = s.resp := rfl
@[simp] theorem State.setPhysByte_fresh (s : State) (p : Nat) (v : Byte) : (s.setPhysByte p v).fresh = s.fresh := rfl
@[simp] theorem State.setPhysByte_pending (s : State) (p : Nat) (v : Byte) :
    (s.setPhysByte p v).pending = s.pending := rfl
@[simp] theorem State.setPhysByte_word (s : State) (p : Nat) (v : Byte) (x : RegD) (i j : Nat) :
    (s.setPhysByte p v).word x i j = s.word x i j := rfl
@[simp] theorem State.setPhysByte_get (s : State) (p : Nat) (v : Byte) (x : Fld) (i j : Nat) :
    (s.setPhysByte p v).get x i j = s.get x i j := rfl
@[simp] theorem State.setPhysByte_flag (s : State) (p : Nat) (v : Byte) (x : Fld) (i j : Nat) :
    (s.setPhysByte p v).flag x i j = s.flag x i j := rfl

/-! ## State.modMbx -/

@[simp] theorem State.modMbx_regs (s : State) (f : Mbx → Mbx) : (s.modMbx f).regs = s.regs := rfl
@[simp] theorem State.modMbx_sram (s : State) (f : Mbx → Mbx) : (s.modMbx f).sram = s.sram := rfl
@[simp] theorem State.modMbx_mbx (s : State) (f : Mbx → Mbx) : (s.modMbx f).mbx = f s.mbx := rfl
@[simp] theorem State.modMbx_ecc (s : State) (f : Mbx → Mbx) : (s.modMbx f).ecc = s.ecc := rfl
@[simp] theorem State.modMbx_tim (s : State) (f : Mbx → Mbx) : (s.modMbx f).tim = s.tim := rfl
@[simp] theorem State.modMbx_mon (s : State) (f : Mbx → Mbx) : (s.modMbx f).mon = s.mon := rfl
@[simp] theorem State.modMbx_fw (s : State) (f : Mbx → Mbx) : (s.modMbx f).fw = s.fw := rfl
@[simp] theorem State.modMbx_hws (s : State) (f : Mbx → Mbx) : (s.modMbx f).hws = s.hws := rfl
@[simp] theorem State.modMbx_knt (s : State) (f : Mbx → Mbx) : (s.modMbx f).knt = s.knt := rfl
@[simp] theorem State.modMbx_cmis (s : State) (f : Mbx → Mbx) : (s.modMbx f).cmis = s.cmis := rfl
@[simp] theorem State.modMbx_pwr (s : State) (f : Mbx → Mbx) : (s.modMbx f).pwr = s.pwr := rfl
@[simp] theorem State.modMbx_bst (s : State) (f : Mbx → Mbx) : (s.modMbx f).bst = s.bst := rfl
@[simp] theorem State.modMbx_lanes (s : State) (f : Mbx → Mbx) : (s.modMbx f).lanes = s.lanes := rfl
@[simp] theorem State.modMbx_optics (s : State) (f : Mbx → Mbx) : (s.modMbx f).optics = s.optics := rfl
@[simp] theorem State.modMbx_lyd (s : State) (f : Mbx → Mbx) : (s.modMbx f).lyd = s.lyd := rfl
@[simp] theorem State.modMbx_cap (s : State) (f : Mbx → Mbx) : (s.modMbx f).cap = s.cap := rfl
@[simp] theorem State.modMbx_resp (s : State) (f : Mbx → Mbx) : (s.modMbx f).resp = s.resp := rfl
@[simp] theorem State.modMbx_fresh (s : State) (f : Mbx → Mbx) : (s.modMbx f).fresh = s.fresh := rfl
@[simp] theorem State.modMbx_pending (s : State) (f : Mbx → Mbx) : (s.modMbx f).pending = s.pending := rfl
@[simp] theorem State.modMbx_word (s : State) (f : Mbx → Mbx) (x : RegD) (i j : Nat) :
    (s.modMbx f).word x i j = s.word x i j := rfl
@[simp] theorem State.modMbx_get (s : State) (f : Mbx → Mbx) (x : Fld) (i j : Nat) :
    (s.modMbx f).get x i j = s.get x i j := rfl
@[simp] theorem State.modMbx_flag (s : State) (f : Mbx → Mbx) (x : Fld) (i j : Nat) :
    (s.modMbx f).flag x i j = s.flag x i j := rfl

/-! ## State.modEcc -/

@[simp] theorem State.modEcc_regs (s : State) (f : Ecc → Ecc) : (s.modEcc f).regs = s.regs := rfl
@[simp] theorem State.modEcc_sram (s : State) (f : Ecc → Ecc) : (s.modEcc f).sram = s.sram := rfl
@[simp] theorem State.modEcc_mbx (s : State) (f : Ecc → Ecc) : (s.modEcc f).mbx = s.mbx := rfl
@[simp] theorem State.modEcc_ecc (s : State) (f : Ecc → Ecc) : (s.modEcc f).ecc = f s.ecc := rfl
@[simp] theorem State.modEcc_tim (s : State) (f : Ecc → Ecc) : (s.modEcc f).tim = s.tim := rfl
@[simp] theorem State.modEcc_mon (s : State) (f : Ecc → Ecc) : (s.modEcc f).mon = s.mon := rfl
@[simp] theorem State.modEcc_fw (s : State) (f : Ecc → Ecc) : (s.modEcc f).fw = s.fw := rfl
@[simp] theorem State.modEcc_hws (s : State) (f : Ecc → Ecc) : (s.modEcc f).hws = s.hws := rfl
@[simp] theorem State.modEcc_knt (s : State) (f : Ecc → Ecc) : (s.modEcc f).knt = s.knt := rfl
@[simp] theorem State.modEcc_cmis (s : State) (f : Ecc → Ecc) : (s.modEcc f).cmis = s.cmis := rfl
@[simp] theorem State.modEcc_pwr (s : State) (f : Ecc → Ecc) : (s.modEcc f).pwr = s.pwr := rfl
@[simp] theorem State.modEcc_bst (s : State) (f : Ecc → Ecc) : (s.modEcc f).bst = s.bst := rfl
@[simp] theorem State.modEcc_lanes (s : State) (f : Ecc → Ecc) : (s.modEcc f).lanes = s.lanes := rfl
@[simp] theorem State.modEcc_optics (s : State) (f : Ecc → Ecc) : (s.modEcc f).optics = s.optics := rfl
@[simp] theorem State.modEcc_lyd (s : State) (f : Ecc → Ecc) : (s.modEcc f).lyd = s.lyd := rfl
@[simp] theorem State.modEcc_cap (s : State) (f : Ecc → Ecc) : (s.modEcc f).cap = s.cap := rfl
@[simp] theorem State.modEcc_resp (s : State) (f : Ecc → Ecc) : (s.modEcc f).resp = s.resp := rfl
@[simp] theorem State.modEcc_fresh (s : State) (f : Ecc → Ecc) : (s.modEcc f).fresh = s.fresh := rfl
@[simp] theorem State.modEcc_pending (s : State) (f : Ecc → Ecc) : (s.modEcc f).pending = s.pending := rfl
@[simp] theorem State.modEcc_word (s : State) (f : Ecc → Ecc) (x : RegD) (i j : Nat) :
    (s.modEcc f).word x i j = s.word x i j := rfl
@[simp] theorem State.modEcc_get (s : State) (f : Ecc → Ecc) (x : Fld) (i j : Nat) :
    (s.modEcc f).get x i j = s.get x i j := rfl
@[simp] theorem State.modEcc_flag (s : State) (f : Ecc → Ecc) (x : Fld) (i j : Nat) :
    (s.modEcc f).flag x i j = s.flag x i j := rfl

/-! ## State.modTim -/

@[simp] theorem State.modTim_regs (s : State) (f : Tim → Tim) : (s.modTim f).regs = s.regs := rfl
@[simp] theorem State.modTim_sram (s : State) (f : Tim → Tim) : (s.modTim f).sram = s.sram := rfl
@[simp] theorem State.modTim_mbx (s : State) (f : Tim → Tim) : (s.modTim f).mbx = s.mbx := rfl
@[simp] theorem State.modTim_ecc (s : State) (f : Tim → Tim) : (s.modTim f).ecc = s.ecc := rfl
@[simp] theorem State.modTim_tim (s : State) (f : Tim → Tim) : (s.modTim f).tim = f s.tim := rfl
@[simp] theorem State.modTim_mon (s : State) (f : Tim → Tim) : (s.modTim f).mon = s.mon := rfl
@[simp] theorem State.modTim_fw (s : State) (f : Tim → Tim) : (s.modTim f).fw = s.fw := rfl
@[simp] theorem State.modTim_hws (s : State) (f : Tim → Tim) : (s.modTim f).hws = s.hws := rfl
@[simp] theorem State.modTim_knt (s : State) (f : Tim → Tim) : (s.modTim f).knt = s.knt := rfl
@[simp] theorem State.modTim_cmis (s : State) (f : Tim → Tim) : (s.modTim f).cmis = s.cmis := rfl
@[simp] theorem State.modTim_pwr (s : State) (f : Tim → Tim) : (s.modTim f).pwr = s.pwr := rfl
@[simp] theorem State.modTim_bst (s : State) (f : Tim → Tim) : (s.modTim f).bst = s.bst := rfl
@[simp] theorem State.modTim_lanes (s : State) (f : Tim → Tim) : (s.modTim f).lanes = s.lanes := rfl
@[simp] theorem State.modTim_optics (s : State) (f : Tim → Tim) : (s.modTim f).optics = s.optics := rfl
@[simp] theorem State.modTim_lyd (s : State) (f : Tim → Tim) : (s.modTim f).lyd = s.lyd := rfl
@[simp] theorem State.modTim_cap (s : State) (f : Tim → Tim) : (s.modTim f).cap = s.cap := rfl
@[simp] theorem State.modTim_resp (s : State) (f : Tim → Tim) : (s.modTim f).resp = s.resp := rfl
@[simp] theorem State.modTim_fresh (s : State) (f : Tim → Tim) : (s.modTim f).fresh = s.fresh := rfl
@[simp] theorem State.modTim_pending (s : State) (f : Tim → Tim) : (s.modTim f).pending = s.pending := rfl
@[simp] theorem State.modTim_word (s : State) (f : Tim → Tim) (x : RegD) (i j : Nat) :
    (s.modTim f).word x i j = s.word x i j := rfl
@[simp] theorem State.modTim_get (s : State) (f : Tim → Tim) (x : Fld) (i j : Nat) :
    (s.modTim f).get x i j = s.get x i j := rfl
@[simp] theorem State.modTim_flag (s : State) (f : Tim → Tim) (x : Fld) (i j : Nat) :
    (s.modTim f).flag x i j = s.flag x i j := rfl

/-! ## State.modMon -/

@[simp] theorem State.modMon_regs (s : State) (f : Mon → Mon) : (s.modMon f).regs = s.regs := rfl
@[simp] theorem State.modMon_sram (s : State) (f : Mon → Mon) : (s.modMon f).sram = s.sram := rfl
@[simp] theorem State.modMon_mbx (s : State) (f : Mon → Mon) : (s.modMon f).mbx = s.mbx := rfl
@[simp] theorem State.modMon_ecc (s : State) (f : Mon → Mon) : (s.modMon f).ecc = s.ecc := rfl
@[simp] theorem State.modMon_tim (s : State) (f : Mon → Mon) : (s.modMon f).tim = s.tim := rfl
@[simp] theorem State.modMon_mon (s : State) (f : Mon → Mon) : (s.modMon f).mon = f s.mon := rfl
@[simp] theorem State.modMon_fw (s : State) (f : Mon → Mon) : (s.modMon f).fw = s.fw := rfl
@[simp] theorem State.modMon_hws (s : State) (f : Mon → Mon) : (s.modMon f).hws = s.hws := rfl
@[simp] theorem State.modMon_knt (s : State) (f : Mon → Mon) : (s.modMon f).knt = s.knt := rfl
@[simp] theorem State.modMon_cmis (s : State) (f : Mon → Mon) : (s.modMon f).cmis = s.cmis := rfl
@[simp] theorem State.modMon_pwr (s : State) (f : Mon → Mon) : (s.modMon f).pwr = s.pwr := rfl
@[simp] theorem State.modMon_bst (s : State) (f : Mon → Mon) : (s.modMon f).bst = s.bst := rfl
@[simp] theorem State.modMon_lanes (s : State) (f : Mon → Mon) : (s.modMon f).lanes = s.lanes := rfl
@[simp] theorem State.modMon_optics (s : State) (f : Mon → Mon) : (s.modMon f).optics = s.optics := rfl
@[simp] theorem State.modMon_lyd (s : State) (f : Mon → Mon) : (s.modMon f).lyd = s.lyd := rfl
@[simp] theorem State.modMon_cap (s : State) (f : Mon → Mon) : (s.modMon f).cap = s.cap := rfl
@[simp] theorem State.modMon_resp (s : State) (f : Mon → Mon) : (s.modMon f).resp = s.resp := rfl
@[simp] theorem State.modMon_fresh (s : State) (f : Mon → Mon) : (s.modMon f).fresh = s.fresh := rfl
@[simp] theorem State.modMon_pending (s : State) (f : Mon → Mon) : (s.modMon f).pending = s.pending := rfl
@[simp] theorem State.modMon_word (s : State) (f : Mon → Mon) (x : RegD) (i j : Nat) :
    (s.modMon f).word x i j = s.word x i j := rfl
@[simp] theorem State.modMon_get (s : State) (f : Mon → Mon) (x : Fld) (i j : Nat) :
    (s.modMon f).get x i j = s.get x i j := rfl
@[simp] theorem State.modMon_flag (s : State) (f : Mon → Mon) (x : Fld) (i j : Nat) :
    (s.modMon f).flag x i j = s.flag x i j := rfl

/-! ## State.modFw -/

@[simp] theorem State.modFw_regs (s : State) (f : Fw → Fw) : (s.modFw f).regs = s.regs := rfl
@[simp] theorem State.modFw_sram (s : State) (f : Fw → Fw) : (s.modFw f).sram = s.sram := rfl
@[simp] theorem State.modFw_mbx (s : State) (f : Fw → Fw) : (s.modFw f).mbx = s.mbx := rfl
@[simp] theorem State.modFw_ecc (s : State) (f : Fw → Fw) : (s.modFw f).ecc = s.ecc := rfl
@[simp] theorem State.modFw_tim (s : State) (f : Fw → Fw) : (s.modFw f).tim = s.tim := rfl
@[simp] theorem State.modFw_mon (s : State) (f : Fw → Fw) : (s.modFw f).mon = s.mon := rfl
@[simp] theorem State.modFw_fw (s : State) (f : Fw → Fw) : (s.modFw f).fw = f s.fw := rfl
@[simp] theorem State.modFw_hws (s : State) (f : Fw → Fw) : (s.modFw f).hws = s.hws := rfl
@[simp] theorem State.modFw_knt (s : State) (f : Fw → Fw) : (s.modFw f).knt = s.knt := rfl
@[simp] theorem State.modFw_cmis (s : State) (f : Fw → Fw) : (s.modFw f).cmis = s.cmis := rfl
@[simp] theorem State.modFw_pwr (s : State) (f : Fw → Fw) : (s.modFw f).pwr = s.pwr := rfl
@[simp] theorem State.modFw_bst (s : State) (f : Fw → Fw) : (s.modFw f).bst = s.bst := rfl
@[simp] theorem State.modFw_lanes (s : State) (f : Fw → Fw) : (s.modFw f).lanes = s.lanes := rfl
@[simp] theorem State.modFw_optics (s : State) (f : Fw → Fw) : (s.modFw f).optics = s.optics := rfl
@[simp] theorem State.modFw_lyd (s : State) (f : Fw → Fw) : (s.modFw f).lyd = s.lyd := rfl
@[simp] theorem State.modFw_cap (s : State) (f : Fw → Fw) : (s.modFw f).cap = s.cap := rfl
@[simp] theorem State.modFw_resp (s : State) (f : Fw → Fw) : (s.modFw f).resp = s.resp := rfl
@[simp] theorem State.modFw_fresh (s : State) (f : Fw → Fw) : (s.modFw f).fresh = s.fresh := rfl
@[simp] theorem State.modFw_pending (s : State) (f : Fw → Fw) : (s.modFw f).pending = s.pending := rfl
@[simp] theorem State.modFw_word (s : State) (f : Fw → Fw) (x : RegD) (i j : Nat) :
    (s.modFw f).word x i j = s.word x i j := rfl
@[simp] theorem State.modFw_get (s : State) (f : Fw → Fw) (x : Fld) (i j : Nat) :
    (s.modFw f).get x i j = s.get x i j := rfl
@[simp] theorem State.modFw_flag (s : State) (f : Fw → Fw) (x : Fld) (i j : Nat) :
    (s.modFw f).flag x i j = s.flag x i j := rfl

/-! ## State.modHws -/

@[simp] theorem State.modHws_regs (s : State) (f : Hws → Hws) : (s.modHws f).regs = s.regs := rfl
@[simp] theorem State.modHws_sram (s : State) (f : Hws → Hws) : (s.modHws f).sram = s.sram := rfl
@[simp] theorem State.modHws_mbx (s : State) (f : Hws → Hws) : (s.modHws f).mbx = s.mbx := rfl
@[simp] theorem State.modHws_ecc (s : State) (f : Hws → Hws) : (s.modHws f).ecc = s.ecc := rfl
@[simp] theorem State.modHws_tim (s : State) (f : Hws → Hws) : (s.modHws f).tim = s.tim := rfl
@[simp] theorem State.modHws_mon (s : State) (f : Hws → Hws) : (s.modHws f).mon = s.mon := rfl
@[simp] theorem State.modHws_fw (s : State) (f : Hws → Hws) : (s.modHws f).fw = s.fw := rfl
@[simp] theorem State.modHws_hws (s : State) (f : Hws → Hws) : (s.modHws f).hws = f s.hws := rfl
@[simp] theorem State.modHws_knt (s : State) (f : Hws → Hws) : (s.modHws f).knt = s.knt := rfl
@[simp] theorem State.modHws_cmis (s : State) (f : Hws → Hws) : (s.modHws f).cmis = s.cmis := rfl
@[simp] theorem State.modHws_pwr (s : State) (f : Hws → Hws) : (s.modHws f).pwr = s.pwr := rfl
@[simp] theorem State.modHws_bst (s : State) (f : Hws → Hws) : (s.modHws f).bst = s.bst := rfl
@[simp] theorem State.modHws_lanes (s : State) (f : Hws → Hws) : (s.modHws f).lanes = s.lanes := rfl
@[simp] theorem State.modHws_optics (s : State) (f : Hws → Hws) : (s.modHws f).optics = s.optics := rfl
@[simp] theorem State.modHws_lyd (s : State) (f : Hws → Hws) : (s.modHws f).lyd = s.lyd := rfl
@[simp] theorem State.modHws_cap (s : State) (f : Hws → Hws) : (s.modHws f).cap = s.cap := rfl
@[simp] theorem State.modHws_resp (s : State) (f : Hws → Hws) : (s.modHws f).resp = s.resp := rfl
@[simp] theorem State.modHws_fresh (s : State) (f : Hws → Hws) : (s.modHws f).fresh = s.fresh := rfl
@[simp] theorem State.modHws_pending (s : State) (f : Hws → Hws) : (s.modHws f).pending = s.pending := rfl
@[simp] theorem State.modHws_word (s : State) (f : Hws → Hws) (x : RegD) (i j : Nat) :
    (s.modHws f).word x i j = s.word x i j := rfl
@[simp] theorem State.modHws_get (s : State) (f : Hws → Hws) (x : Fld) (i j : Nat) :
    (s.modHws f).get x i j = s.get x i j := rfl
@[simp] theorem State.modHws_flag (s : State) (f : Hws → Hws) (x : Fld) (i j : Nat) :
    (s.modHws f).flag x i j = s.flag x i j := rfl

/-! ## State.modCmis -/

@[simp] theorem State.modCmis_regs (s : State) (f : Cmis → Cmis) : (s.modCmis f).regs = s.regs := rfl
@[simp] theorem State.modCmis_sram (s : State) (f : Cmis → Cmis) : (s.modCmis f).sram = s.sram := rfl
@[simp] theorem State.modCmis_mbx (s : State) (f : Cmis → Cmis) : (s.modCmis f).mbx = s.mbx := rfl
@[simp] theorem State.modCmis_ecc (s : State) (f : Cmis → Cmis) : (s.modCmis f).ecc = s.ecc := rfl
@[simp] theorem State.modCmis_tim (s : State) (f : Cmis → Cmis) : (s.modCmis f).tim = s.tim := rfl
@[simp] theorem State.modCmis_mon (s : State) (f : Cmis → Cmis) : (s.modCmis f).mon = s.mon := rfl
@[simp] theorem State.modCmis_fw (s : State) (f : Cmis → Cmis) : (s.modCmis f).fw = s.fw := rfl
@[simp] theorem State.modCmis_hws (s : State) (f : Cmis → Cmis) : (s.modCmis f).hws = s.hws := rfl
@[simp] theorem State.modCmis_knt (s : State) (f : Cmis → Cmis) : (s.modCmis f).knt = s.knt := rfl
@[simp] theorem State.modCmis_cmis (s : State) (f : Cmis → Cmis) : (s.modCmis f).cmis = f s.cmis := rfl
@[simp] theorem State.modCmis_pwr (s : State) (f : Cmis → Cmis) : (s.modCmis f).pwr = s.pwr := rfl
@[simp] theorem State.modCmis_bst (s : State) (f : Cmis → Cmis) : (s.modCmis f).bst = s.bst := rfl
@[simp] theorem State.modCmis_lanes (s : State) (f : Cmis → Cmis) : (s.modCmis f).lanes = s.lanes := rfl
@[simp] theorem State.modCmis_optics (s : State) (f : Cmis → Cmis) : (s.modCmis f).optics = s.optics := rfl
@[simp] theorem State.modCmis_lyd (s : State) (f : Cmis → Cmis) : (s.modCmis f).lyd = s.lyd := rfl
@[simp] theorem State.modCmis_cap (s : State) (f : Cmis → Cmis) : (s.modCmis f).cap = s.cap := rfl
@[simp] theorem State.modCmis_resp (s : State) (f : Cmis → Cmis) : (s.modCmis f).resp = s.resp := rfl
@[simp] theorem State.modCmis_fresh (s : State) (f : Cmis → Cmis) : (s.modCmis f).fresh = s.fresh := rfl
@[simp] theorem State.modCmis_pending (s : State) (f : Cmis → Cmis) : (s.modCmis f).pending = s.pending := rfl
@[simp] theorem State.modCmis_word (s : State) (f : Cmis → Cmis) (x : RegD) (i j : Nat) :
    (s.modCmis f).word x i j = s.word x i j := rfl
@[simp] theorem State.modCmis_get (s : State) (f : Cmis → Cmis) (x : Fld) (i j : Nat) :
    (s.modCmis f).get x i j = s.get x i j := rfl
@[simp] theorem State.modCmis_flag (s : State) (f : Cmis → Cmis) (x : Fld) (i j : Nat) :
    (s.modCmis f).flag x i j = s.flag x i j := rfl

/-! ## State.modPwr -/

@[simp] theorem State.modPwr_regs (s : State) (f : Pwr → Pwr) : (s.modPwr f).regs = s.regs := rfl
@[simp] theorem State.modPwr_sram (s : State) (f : Pwr → Pwr) : (s.modPwr f).sram = s.sram := rfl
@[simp] theorem State.modPwr_mbx (s : State) (f : Pwr → Pwr) : (s.modPwr f).mbx = s.mbx := rfl
@[simp] theorem State.modPwr_ecc (s : State) (f : Pwr → Pwr) : (s.modPwr f).ecc = s.ecc := rfl
@[simp] theorem State.modPwr_tim (s : State) (f : Pwr → Pwr) : (s.modPwr f).tim = s.tim := rfl
@[simp] theorem State.modPwr_mon (s : State) (f : Pwr → Pwr) : (s.modPwr f).mon = s.mon := rfl
@[simp] theorem State.modPwr_fw (s : State) (f : Pwr → Pwr) : (s.modPwr f).fw = s.fw := rfl
@[simp] theorem State.modPwr_hws (s : State) (f : Pwr → Pwr) : (s.modPwr f).hws = s.hws := rfl
@[simp] theorem State.modPwr_knt (s : State) (f : Pwr → Pwr) : (s.modPwr f).knt = s.knt := rfl
@[simp] theorem State.modPwr_cmis (s : State) (f : Pwr → Pwr) : (s.modPwr f).cmis = s.cmis := rfl
@[simp] theorem State.modPwr_pwr (s : State) (f : Pwr → Pwr) : (s.modPwr f).pwr = f s.pwr := rfl
@[simp] theorem State.modPwr_bst (s : State) (f : Pwr → Pwr) : (s.modPwr f).bst = s.bst := rfl
@[simp] theorem State.modPwr_lanes (s : State) (f : Pwr → Pwr) : (s.modPwr f).lanes = s.lanes := rfl
@[simp] theorem State.modPwr_optics (s : State) (f : Pwr → Pwr) : (s.modPwr f).optics = s.optics := rfl
@[simp] theorem State.modPwr_lyd (s : State) (f : Pwr → Pwr) : (s.modPwr f).lyd = s.lyd := rfl
@[simp] theorem State.modPwr_cap (s : State) (f : Pwr → Pwr) : (s.modPwr f).cap = s.cap := rfl
@[simp] theorem State.modPwr_resp (s : State) (f : Pwr → Pwr) : (s.modPwr f).resp = s.resp := rfl
@[simp] theorem State.modPwr_fresh (s : State) (f : Pwr → Pwr) : (s.modPwr f).fresh = s.fresh := rfl
@[simp] theorem State.modPwr_pending (s : State) (f : Pwr → Pwr) : (s.modPwr f).pending = s.pending := rfl
@[simp] theorem State.modPwr_word (s : State) (f : Pwr → Pwr) (x : RegD) (i j : Nat) :
    (s.modPwr f).word x i j = s.word x i j := rfl
@[simp] theorem State.modPwr_get (s : State) (f : Pwr → Pwr) (x : Fld) (i j : Nat) :
    (s.modPwr f).get x i j = s.get x i j := rfl
@[simp] theorem State.modPwr_flag (s : State) (f : Pwr → Pwr) (x : Fld) (i j : Nat) :
    (s.modPwr f).flag x i j = s.flag x i j := rfl

/-! ## State.modBst -/

@[simp] theorem State.modBst_regs (s : State) (f : Bst → Bst) : (s.modBst f).regs = s.regs := rfl
@[simp] theorem State.modBst_sram (s : State) (f : Bst → Bst) : (s.modBst f).sram = s.sram := rfl
@[simp] theorem State.modBst_mbx (s : State) (f : Bst → Bst) : (s.modBst f).mbx = s.mbx := rfl
@[simp] theorem State.modBst_ecc (s : State) (f : Bst → Bst) : (s.modBst f).ecc = s.ecc := rfl
@[simp] theorem State.modBst_tim (s : State) (f : Bst → Bst) : (s.modBst f).tim = s.tim := rfl
@[simp] theorem State.modBst_mon (s : State) (f : Bst → Bst) : (s.modBst f).mon = s.mon := rfl
@[simp] theorem State.modBst_fw (s : State) (f : Bst → Bst) : (s.modBst f).fw = s.fw := rfl
@[simp] theorem State.modBst_hws (s : State) (f : Bst → Bst) : (s.modBst f).hws = s.hws := rfl
@[simp] theorem State.modBst_knt (s : State) (f : Bst → Bst) : (s.modBst f).knt = s.knt := rfl
@[simp] theorem State.modBst_cmis (s : State) (f : Bst → Bst) : (s.modBst f).cmis = s.cmis := rfl
@[simp] theorem State.modBst_pwr (s : State) (f : Bst → Bst) : (s.modBst f).pwr = s.pwr := rfl
@[simp] theorem State.modBst_bst (s : State) (f : Bst → Bst) : (s.modBst f).bst = f s.bst := rfl
@[simp] theorem State.modBst_lanes (s : State) (f : Bst → Bst) : (s.modBst f).lanes = s.lanes := rfl
@[simp] theorem State.modBst_optics (s : State) (f : Bst → Bst) : (s.modBst f).optics = s.optics := rfl
@[simp] theorem State.modBst_lyd (s : State) (f : Bst → Bst) : (s.modBst f).lyd = s.lyd := rfl
@[simp] theorem State.modBst_cap (s : State) (f : Bst → Bst) : (s.modBst f).cap = s.cap := rfl
@[simp] theorem State.modBst_resp (s : State) (f : Bst → Bst) : (s.modBst f).resp = s.resp := rfl
@[simp] theorem State.modBst_fresh (s : State) (f : Bst → Bst) : (s.modBst f).fresh = s.fresh := rfl
@[simp] theorem State.modBst_pending (s : State) (f : Bst → Bst) : (s.modBst f).pending = s.pending := rfl
@[simp] theorem State.modBst_word (s : State) (f : Bst → Bst) (x : RegD) (i j : Nat) :
    (s.modBst f).word x i j = s.word x i j := rfl
@[simp] theorem State.modBst_get (s : State) (f : Bst → Bst) (x : Fld) (i j : Nat) :
    (s.modBst f).get x i j = s.get x i j := rfl
@[simp] theorem State.modBst_flag (s : State) (f : Bst → Bst) (x : Fld) (i j : Nat) :
    (s.modBst f).flag x i j = s.flag x i j := rfl

/-! ## State.modLanes -/

@[simp] theorem State.modLanes_regs (s : State) (f : Lanes → Lanes) : (s.modLanes f).regs = s.regs := rfl
@[simp] theorem State.modLanes_sram (s : State) (f : Lanes → Lanes) : (s.modLanes f).sram = s.sram := rfl
@[simp] theorem State.modLanes_mbx (s : State) (f : Lanes → Lanes) : (s.modLanes f).mbx = s.mbx := rfl
@[simp] theorem State.modLanes_ecc (s : State) (f : Lanes → Lanes) : (s.modLanes f).ecc = s.ecc := rfl
@[simp] theorem State.modLanes_tim (s : State) (f : Lanes → Lanes) : (s.modLanes f).tim = s.tim := rfl
@[simp] theorem State.modLanes_mon (s : State) (f : Lanes → Lanes) : (s.modLanes f).mon = s.mon := rfl
@[simp] theorem State.modLanes_fw (s : State) (f : Lanes → Lanes) : (s.modLanes f).fw = s.fw := rfl
@[simp] theorem State.modLanes_hws (s : State) (f : Lanes → Lanes) : (s.modLanes f).hws = s.hws := rfl
@[simp] theorem State.modLanes_knt (s : State) (f : Lanes → Lanes) : (s.modLanes f).knt = s.knt := rfl
@[simp] theorem State.modLanes_cmis (s : State) (f : Lanes → Lanes) : (s.modLanes f).cmis = s.cmis := rfl
@[simp] theorem State.modLanes_pwr (s : State) (f : Lanes → Lanes) : (s.modLanes f).pwr = s.pwr := rfl
@[simp] theorem State.modLanes_bst (s : State) (f : Lanes → Lanes) : (s.modLanes f).bst = s.bst := rfl
@[simp] theorem State.modLanes_lanes (s : State) (f : Lanes → Lanes) : (s.modLanes f).lanes = f s.lanes := rfl
@[simp] theorem State.modLanes_optics (s : State) (f : Lanes → Lanes) : (s.modLanes f).optics = s.optics := rfl
@[simp] theorem State.modLanes_lyd (s : State) (f : Lanes → Lanes) : (s.modLanes f).lyd = s.lyd := rfl
@[simp] theorem State.modLanes_cap (s : State) (f : Lanes → Lanes) : (s.modLanes f).cap = s.cap := rfl
@[simp] theorem State.modLanes_resp (s : State) (f : Lanes → Lanes) : (s.modLanes f).resp = s.resp := rfl
@[simp] theorem State.modLanes_fresh (s : State) (f : Lanes → Lanes) : (s.modLanes f).fresh = s.fresh := rfl
@[simp] theorem State.modLanes_pending (s : State) (f : Lanes → Lanes) : (s.modLanes f).pending = s.pending := rfl
@[simp] theorem State.modLanes_word (s : State) (f : Lanes → Lanes) (x : RegD) (i j : Nat) :
    (s.modLanes f).word x i j = s.word x i j := rfl
@[simp] theorem State.modLanes_get (s : State) (f : Lanes → Lanes) (x : Fld) (i j : Nat) :
    (s.modLanes f).get x i j = s.get x i j := rfl
@[simp] theorem State.modLanes_flag (s : State) (f : Lanes → Lanes) (x : Fld) (i j : Nat) :
    (s.modLanes f).flag x i j = s.flag x i j := rfl

/-! ## State.modCap -/

@[simp] theorem State.modCap_regs (s : State) (f : Cap → Cap) : (s.modCap f).regs = s.regs := rfl
@[simp] theorem State.modCap_sram (s : State) (f : Cap → Cap) : (s.modCap f).sram = s.sram := rfl
@[simp] theorem State.modCap_mbx (s : State) (f : Cap → Cap) : (s.modCap f).mbx = s.mbx := rfl
@[simp] theorem State.modCap_ecc (s : State) (f : Cap → Cap) : (s.modCap f).ecc = s.ecc := rfl
@[simp] theorem State.modCap_tim (s : State) (f : Cap → Cap) : (s.modCap f).tim = s.tim := rfl
@[simp] theorem State.modCap_mon (s : State) (f : Cap → Cap) : (s.modCap f).mon = s.mon := rfl
@[simp] theorem State.modCap_fw (s : State) (f : Cap → Cap) : (s.modCap f).fw = s.fw := rfl
@[simp] theorem State.modCap_hws (s : State) (f : Cap → Cap) : (s.modCap f).hws = s.hws := rfl
@[simp] theorem State.modCap_knt (s : State) (f : Cap → Cap) : (s.modCap f).knt = s.knt := rfl
@[simp] theorem State.modCap_cmis (s : State) (f : Cap → Cap) : (s.modCap f).cmis = s.cmis := rfl
@[simp] theorem State.modCap_pwr (s : State) (f : Cap → Cap) : (s.modCap f).pwr = s.pwr := rfl
@[simp] theorem State.modCap_bst (s : State) (f : Cap → Cap) : (s.modCap f).bst = s.bst := rfl
@[simp] theorem State.modCap_lanes (s : State) (f : Cap → Cap) : (s.modCap f).lanes = s.lanes := rfl
@[simp] theorem State.modCap_optics (s : State) (f : Cap → Cap) : (s.modCap f).optics = s.optics := rfl
@[simp] theorem State.modCap_lyd (s : State) (f : Cap → Cap) : (s.modCap f).lyd = s.lyd := rfl
@[simp] theorem State.modCap_cap (s : State) (f : Cap → Cap) : (s.modCap f).cap = f s.cap := rfl
@[simp] theorem State.modCap_resp (s : State) (f : Cap → Cap) : (s.modCap f).resp = s.resp := rfl
@[simp] theorem State.modCap_fresh (s : State) (f : Cap → Cap) : (s.modCap f).fresh = s.fresh := rfl
@[simp] theorem State.modCap_pending (s : State) (f : Cap → Cap) : (s.modCap f).pending = s.pending := rfl
@[simp] theorem State.modCap_word (s : State) (f : Cap → Cap) (x : RegD) (i j : Nat) :
    (s.modCap f).word x i j = s.word x i j := rfl
@[simp] theorem State.modCap_get (s : State) (f : Cap → Cap) (x : Fld) (i j : Nat) :
    (s.modCap f).get x i j = s.get x i j := rfl
@[simp] theorem State.modCap_flag (s : State) (f : Cap → Cap) (x : Fld) (i j : Nat) :
    (s.modCap f).flag x i j = s.flag x i j := rfl

/-! ## State.perf and State.post -/

theorem State.perfAdd_frame (fuel : Nat) : ∀ (s : State) (j k : Nat),
    ∃ r m, s.perfAdd fuel j k = { s with regs := r, mon := m } := by
  induction fuel with
  | zero =>
    intro s j k
    unfold State.perfAdd
    dsimp only
    split <;> exact ⟨_, _, rfl⟩
  | succ n ih =>
    intro s j k
    unfold State.perfAdd
    dsimp only
    split
    · exact ⟨_, _, rfl⟩
    · split
      · rename_i hb hc
        obtain ⟨r, m, h⟩ := ih (({ s with mon := { s.mon with counters := Bank.put s.mon.counters j (BitVec.ofNat 48 ((Bank.get s.mon.counters j 0).toNat + k)) 0 } } : State).setWord R.PMU_OVF (s.word R.PMU_OVF (j / 32) ||| BitVec.ofNat 32 (2 ^ (j % 32))) (j / 32)) (j + 1) (((Bank.get s.mon.counters j 0).toNat + k) / 2 ^ 48)
        exact ⟨r, m, h⟩
      · exact ⟨_, _, rfl⟩

/-- A performance count changes the counters and PMU_OVF at most. -/
theorem State.perf_frame (s : State) (j k : Nat) : ∃ r m, s.perf j k = { s with regs := r, mon := m } := by
  unfold State.perf
  split
  · exact ⟨s.regs, s.mon, rfl⟩
  · exact State.perfAdd_frame 255 s j k

@[simp] theorem State.perf_sram (s : State) (j k : Nat) : (s.perf j k).sram = s.sram := by
  obtain ⟨r, m, h⟩ := s.perf_frame j k; rw [h]
@[simp] theorem State.perf_mbx (s : State) (j k : Nat) : (s.perf j k).mbx = s.mbx := by
  obtain ⟨r, m, h⟩ := s.perf_frame j k; rw [h]
@[simp] theorem State.perf_ecc (s : State) (j k : Nat) : (s.perf j k).ecc = s.ecc := by
  obtain ⟨r, m, h⟩ := s.perf_frame j k; rw [h]
@[simp] theorem State.perf_tim (s : State) (j k : Nat) : (s.perf j k).tim = s.tim := by
  obtain ⟨r, m, h⟩ := s.perf_frame j k; rw [h]
@[simp] theorem State.perf_fw (s : State) (j k : Nat) : (s.perf j k).fw = s.fw := by
  obtain ⟨r, m, h⟩ := s.perf_frame j k; rw [h]
@[simp] theorem State.perf_hws (s : State) (j k : Nat) : (s.perf j k).hws = s.hws := by
  obtain ⟨r, m, h⟩ := s.perf_frame j k; rw [h]
@[simp] theorem State.perf_knt (s : State) (j k : Nat) : (s.perf j k).knt = s.knt := by
  obtain ⟨r, m, h⟩ := s.perf_frame j k; rw [h]
@[simp] theorem State.perf_cmis (s : State) (j k : Nat) : (s.perf j k).cmis = s.cmis := by
  obtain ⟨r, m, h⟩ := s.perf_frame j k; rw [h]
@[simp] theorem State.perf_pwr (s : State) (j k : Nat) : (s.perf j k).pwr = s.pwr := by
  obtain ⟨r, m, h⟩ := s.perf_frame j k; rw [h]
@[simp] theorem State.perf_bst (s : State) (j k : Nat) : (s.perf j k).bst = s.bst := by
  obtain ⟨r, m, h⟩ := s.perf_frame j k; rw [h]
@[simp] theorem State.perf_lanes (s : State) (j k : Nat) : (s.perf j k).lanes = s.lanes := by
  obtain ⟨r, m, h⟩ := s.perf_frame j k; rw [h]
@[simp] theorem State.perf_optics (s : State) (j k : Nat) : (s.perf j k).optics = s.optics := by
  obtain ⟨r, m, h⟩ := s.perf_frame j k; rw [h]
@[simp] theorem State.perf_lyd (s : State) (j k : Nat) : (s.perf j k).lyd = s.lyd := by
  obtain ⟨r, m, h⟩ := s.perf_frame j k; rw [h]
@[simp] theorem State.perf_cap (s : State) (j k : Nat) : (s.perf j k).cap = s.cap := by
  obtain ⟨r, m, h⟩ := s.perf_frame j k; rw [h]
@[simp] theorem State.perf_resp (s : State) (j k : Nat) : (s.perf j k).resp = s.resp := by
  obtain ⟨r, m, h⟩ := s.perf_frame j k; rw [h]
@[simp] theorem State.perf_fresh (s : State) (j k : Nat) : (s.perf j k).fresh = s.fresh := by
  obtain ⟨r, m, h⟩ := s.perf_frame j k; rw [h]
@[simp] theorem State.perf_pending (s : State) (j k : Nat) : (s.perf j k).pending = s.pending := by
  obtain ⟨r, m, h⟩ := s.perf_frame j k; rw [h]

/-- An event changes the queue of events, its registers and the counters at most. -/
theorem State.post_frame (s : State) (code lane arg : Nat) :
    ∃ r m x, s.post code lane arg = { s with regs := r, mon := m, mbx := x } := by
  unfold State.post
  dsimp only
  split
  · obtain ⟨r, m, h⟩ := State.perf_frame { s with mbx := { s.mbx with events := s.mbx.events ++ [{ code := code, lane := lane, seq := s.mbx.evGen, arg := BitVec.ofNat 32 arg, raw := s.tim.raw, anchor := s.inAnchor }], evGen := s.mbx.evGen + 1 } } 0xEC 1
    exact ⟨r, m, _, h⟩
  · obtain ⟨r, m, h⟩ := State.perf_frame (State.addSat { s with mbx := { s.mbx with evGen := s.mbx.evGen + 1 } } F.MBX_EVQ_STAT_LOST 1) 0xED 1
    exact ⟨r, m, _, h⟩

@[simp] theorem State.post_sram (s : State) (code lane arg : Nat) : (s.post code lane arg).sram = s.sram := by
  obtain ⟨r, m, x, h⟩ := s.post_frame code lane arg; rw [h]
@[simp] theorem State.post_ecc (s : State) (code lane arg : Nat) : (s.post code lane arg).ecc = s.ecc := by
  obtain ⟨r, m, x, h⟩ := s.post_frame code lane arg; rw [h]
@[simp] theorem State.post_tim (s : State) (code lane arg : Nat) : (s.post code lane arg).tim = s.tim := by
  obtain ⟨r, m, x, h⟩ := s.post_frame code lane arg; rw [h]
@[simp] theorem State.post_fw (s : State) (code lane arg : Nat) : (s.post code lane arg).fw = s.fw := by
  obtain ⟨r, m, x, h⟩ := s.post_frame code lane arg; rw [h]
@[simp] theorem State.post_hws (s : State) (code lane arg : Nat) : (s.post code lane arg).hws = s.hws := by
  obtain ⟨r, m, x, h⟩ := s.post_frame code lane arg; rw [h]
@[simp] theorem State.post_knt (s : State) (code lane arg : Nat) : (s.post code lane arg).knt = s.knt := by
  obtain ⟨r, m, x, h⟩ := s.post_frame code lane arg; rw [h]
@[simp] theorem State.post_cmis (s : State) (code lane arg : Nat) : (s.post code lane arg).cmis = s.cmis := by
  obtain ⟨r, m, x, h⟩ := s.post_frame code lane arg; rw [h]
@[simp] theorem State.post_pwr (s : State) (code lane arg : Nat) : (s.post code lane arg).pwr = s.pwr := by
  obtain ⟨r, m, x, h⟩ := s.post_frame code lane arg; rw [h]
@[simp] theorem State.post_bst (s : State) (code lane arg : Nat) : (s.post code lane arg).bst = s.bst := by
  obtain ⟨r, m, x, h⟩ := s.post_frame code lane arg; rw [h]
@[simp] theorem State.post_lanes (s : State) (code lane arg : Nat) : (s.post code lane arg).lanes = s.lanes := by
  obtain ⟨r, m, x, h⟩ := s.post_frame code lane arg; rw [h]
@[simp] theorem State.post_optics (s : State) (code lane arg : Nat) : (s.post code lane arg).optics = s.optics := by
  obtain ⟨r, m, x, h⟩ := s.post_frame code lane arg; rw [h]
@[simp] theorem State.post_lyd (s : State) (code lane arg : Nat) : (s.post code lane arg).lyd = s.lyd := by
  obtain ⟨r, m, x, h⟩ := s.post_frame code lane arg; rw [h]
@[simp] theorem State.post_cap (s : State) (code lane arg : Nat) : (s.post code lane arg).cap = s.cap := by
  obtain ⟨r, m, x, h⟩ := s.post_frame code lane arg; rw [h]
@[simp] theorem State.post_resp (s : State) (code lane arg : Nat) : (s.post code lane arg).resp = s.resp := by
  obtain ⟨r, m, x, h⟩ := s.post_frame code lane arg; rw [h]
@[simp] theorem State.post_fresh (s : State) (code lane arg : Nat) : (s.post code lane arg).fresh = s.fresh := by
  obtain ⟨r, m, x, h⟩ := s.post_frame code lane arg; rw [h]
@[simp] theorem State.post_pending (s : State) (code lane arg : Nat) : (s.post code lane arg).pending = s.pending := by
  obtain ⟨r, m, x, h⟩ := s.post_frame code lane arg; rw [h]

/-- A posted event enters the queue while it has room. -/
theorem State.post_events (s : State) (code lane arg : Nat) (h : s.mbx.events.length < 64) :
    (s.post code lane arg).mbx.events = s.mbx.events ++ [(({ code := code, lane := lane, seq := s.mbx.evGen, arg := BitVec.ofNat 32 arg, raw := s.tim.raw, anchor := s.inAnchor } : Evt))] := by
  unfold State.post; simp [h]

/-- A full queue keeps its events. -/
theorem State.post_full (s : State) (code lane arg : Nat) (h : 64 ≤ s.mbx.events.length) :
    (s.post code lane arg).mbx.events = s.mbx.events := by
  unfold State.post; rw [if_neg (by omega)]; simp

/-- An event leaves the rings alone. -/
@[simp] theorem State.post_host (s : State) (code lane arg : Nat) : (s.post code lane arg).mbx.host = s.mbx.host := by
  unfold State.post; split <;> simp

@[simp] theorem State.post_internal (s : State) (code lane arg : Nat) :
    (s.post code lane arg).mbx.internal = s.mbx.internal := by
  unfold State.post; split <;> simp

end Sys2Proof.Machine
end

