-- ==== Sys2Proof/Laws/Registers.lean ====
section
/-! SUPPORT. Sys2Proof/Laws/Registers.lean: reading a register or a field after a register or a field was written, and a
byte of SRAM after a byte was stored. -/

namespace Sys2Proof.Machine

/-! ## Registers -/

theorem Registers.setWord_wf {s : State} (h : Registers.wf s = true) (r : RegD) (w : Word) (n m : Nat) :
    Registers.wf (s.setWord r w n m) = true := Bank.put_keysRise _ _ _ h

theorem Registers.put_wf {s : State} (h : Registers.wf s = true) (f : Fld) (v n m : Nat) :
    Registers.wf (s.put f v n m) = true := Registers.setWord_wf h _ _ _ _

theorem State.word_setWord_same {s : State} (h : Registers.wf s = true) (r : RegD) (w : Word) (n m : Nat) :
    (s.setWord r w n m).word r n m = w := Bank.get_put_same _ _ _ _ h

theorem State.word_setWord_other {s : State} (h : Registers.wf s = true) (r x : RegD) (w : Word) (n m i j : Nat)
    (ha : x.addr i j ≠ r.addr n m) : (s.setWord r w n m).word x i j = s.word x i j :=
  Bank.get_put_other _ _ _ _ _ _ h ha

theorem State.word_put_other {s : State} (h : Registers.wf s = true) (f : Fld) (x : RegD) (v n m i j : Nat)
    (ha : x.addr i j ≠ f.reg.addr n m) : (s.put f v n m).word x i j = s.word x i j :=
  State.word_setWord_other h f.reg x _ n m i j ha

/-! ## Bit fields -/

theorem withBits_toNat (w : Word) (hi lo v : Nat) (hl : lo ≤ hi) (hh : hi < 32) :
    (withBits w hi lo v).toNat
      = w.toNat / 2 ^ (hi + 1) * 2 ^ (hi + 1) + v % 2 ^ (hi + 1 - lo) * 2 ^ lo + w.toNat % 2 ^ lo := by
  have hw := w.isLt
  obtain ⟨d, rfl⟩ : ∃ d, hi = lo + d := ⟨hi - lo, by omega⟩
  have he : lo + d + 1 - lo = d + 1 := by omega
  unfold withBits bitsOf
  rw [BitVec.toNat_ofNat, he]
  have hp : 2 ^ (lo + d + 1) = 2 ^ lo * 2 ^ (d + 1) := by rw [← Nat.pow_add]; congr 1
  rw [hp]
  generalize ha : 2 ^ lo = a
  generalize hb : 2 ^ (d + 1) = b
  have hap : 0 < a := by rw [← ha]; exact Nat.two_pow_pos _
  have hbp : 0 < b := by rw [← hb]; exact Nat.two_pow_pos _
  have hab : a * b ∣ 2 ^ 32 := by
    rw [← ha, ← hb, ← Nat.pow_add]
    exact Nat.pow_dvd_pow 2 (by omega)
  obtain ⟨c, hc⟩ := hab
  have h1 := Nat.div_add_mod w.toNat a
  have h2 := Nat.div_add_mod (w.toNat / a) b
  have h3 : w.toNat / (a * b) = w.toNat / a / b := (Nat.div_div_eq_div_mul _ _ _).symm
  have hv : v % b < b := Nat.mod_lt _ hbp
  have hr : w.toNat % a < a := Nat.mod_lt _ hap
  rw [h3]
  have e1 : w.toNat = a * (b * (w.toNat / a / b)) + a * (w.toNat / a % b) + w.toNat % a := by
    rw [← Nat.mul_add, h2]; exact h1.symm
  have hq : w.toNat / a / b < c := by
    rw [← h3, Nat.div_lt_iff_lt_mul (Nat.mul_pos hap hbp)]
    calc w.toNat < 2 ^ 32 := hw
      _ = c * (a * b) := by rw [hc, Nat.mul_comm]
  generalize hQ : w.toNat / a / b = Q at *
  generalize hM : w.toNat / a % b = M at *
  generalize hR : w.toNat % a = R at *
  generalize hV : v % b = V at *
  have e2 : w.toNat - M * a + V * a = Q * (a * b) + V * a + R := by
    have : a * (b * Q) = Q * (a * b) := by ring
    have : a * M = M * a := by ring
    omega
  rw [e2, Nat.mod_eq_of_lt]
  have k1 : V * a + R < a * b := by
    have : V + 1 ≤ b := hv
    have := Nat.mul_le_mul_right a this
    have : b * a = a * b := by ring
    have : (V + 1) * a = V * a + a := by ring
    omega
  have k2 : (Q + 1) * (a * b) ≤ c * (a * b) := Nat.mul_le_mul_right _ hq
  have k3 : (Q + 1) * (a * b) = Q * (a * b) + a * b := by ring
  have k4 : c * (a * b) = 2 ^ 32 := by rw [hc]; ring
  omega

/-- A field reads back what was written to it, cut to its width. -/
theorem bitsOf_withBits_same (w : Word) (hi lo v : Nat) (hl : lo ≤ hi) (hh : hi < 32) :
    bitsOf (withBits w hi lo v) hi lo = v % 2 ^ (hi + 1 - lo) := by
  unfold bitsOf
  rw [withBits_toNat w hi lo v hl hh]
  obtain ⟨d, rfl⟩ : ∃ d, hi = lo + d := ⟨hi - lo, by omega⟩
  have he : lo + d + 1 - lo = d + 1 := by omega
  rw [he]
  have hp : 2 ^ (lo + d + 1) = 2 ^ lo * 2 ^ (d + 1) := by rw [← Nat.pow_add]; congr 1
  rw [hp]
  have hr : w.toNat % 2 ^ lo < 2 ^ lo := Nat.mod_lt _ (Nat.two_pow_pos _)
  generalize 2 ^ (d + 1) = b at *
  have hap : 0 < 2 ^ lo := Nat.two_pow_pos _
  generalize 2 ^ lo = a at *
  have : w.toNat / (a * b) * (a * b) + v % b * a + w.toNat % a
      = w.toNat % a + a * (v % b + b * (w.toNat / (a * b))) := by ring
  rw [this, Nat.add_mul_div_left _ _ hap, Nat.div_eq_of_lt hr]
  simp

/-- A field above or below the one written keeps its value. -/
theorem bitsOf_withBits_other (w : Word) (hi lo v h l : Nat) (hl : lo ≤ hi) (hh : hi < 32) (hq : l ≤ h)
    (hd : h < lo ∨ hi < l) : bitsOf (withBits w hi lo v) h l = bitsOf w h l := by
  unfold bitsOf
  rw [withBits_toNat w hi lo v hl hh]
  have h1 := Nat.div_add_mod w.toNat (2 ^ (hi + 1))
  rcases hd with hd | hd
  · have e : ∀ x y z : Nat, x * 2 ^ (hi + 1) + y * 2 ^ lo + z = z + 2 ^ (h + 1) * (x * 2 ^ (hi - h) + y * 2 ^ (lo - h - 1)) := by
      intro x y z
      have a1 : 2 ^ (hi + 1) = 2 ^ (h + 1) * 2 ^ (hi - h) := by rw [← Nat.pow_add]; congr 1; omega
      have a2 : 2 ^ lo = 2 ^ (h + 1) * 2 ^ (lo - h - 1) := by rw [← Nat.pow_add]; congr 1; omega
      rw [a1, a2]; ring
    have a3 : 2 ^ (h + 1) = 2 ^ l * 2 ^ (h + 1 - l) := by rw [← Nat.pow_add]; congr 1; omega
    rw [e, ← Nat.mod_mul_right_div_self, ← Nat.mod_mul_right_div_self, ← a3, Nat.add_mul_mod_self_left]
    congr 1
    exact Nat.mod_mod_of_dvd _ (Nat.pow_dvd_pow 2 (by omega))
  · have hs : v % 2 ^ (hi + 1 - lo) * 2 ^ lo + w.toNat % 2 ^ lo < 2 ^ (hi + 1) := by
      have b1 : v % 2 ^ (hi + 1 - lo) + 1 ≤ 2 ^ (hi + 1 - lo) := Nat.mod_lt _ (Nat.two_pow_pos _)
      have b2 : w.toNat % 2 ^ lo < 2 ^ lo := Nat.mod_lt _ (Nat.two_pow_pos _)
      have b3 := Nat.mul_le_mul_right (2 ^ lo) b1
      have b4 : 2 ^ (hi + 1 - lo) * 2 ^ lo = 2 ^ (hi + 1) := by rw [← Nat.pow_add]; congr 1; omega
      rw [b4, Nat.add_mul] at b3
      omega
    have hl2 : 2 ^ l = 2 ^ (hi + 1) * 2 ^ (l - hi - 1) := by rw [← Nat.pow_add]; congr 1; omega
    rw [hl2, ← Nat.div_div_eq_div_mul, ← Nat.div_div_eq_div_mul, Nat.add_assoc, Nat.mul_comm,
      Nat.mul_add_div (Nat.two_pow_pos _), Nat.div_eq_of_lt hs, Nat.add_zero]

/-- A field reads back what was put in it, cut to its width. -/
theorem State.get_put_same {s : State} (h : Registers.wf s = true) (f : Fld) (v n m : Nat) (hl : f.lo ≤ f.hi)
    (hh : f.hi < 32) : (s.put f v n m).get f n m = v % 2 ^ (f.hi + 1 - f.lo) := by
  unfold State.get State.put
  rw [State.word_setWord_same h]
  exact bitsOf_withBits_same _ _ _ _ hl hh

/-- A field of another register is left alone. -/
theorem State.get_put_far {s : State} (h : Registers.wf s = true) (f g : Fld) (v n m i j : Nat)
    (ha : g.reg.addr i j ≠ f.reg.addr n m) : (s.put f v n m).get g i j = s.get g i j := by
  unfold State.get
  rw [State.word_put_other h f g.reg v n m i j ha]

/-- Another field of the same register is left alone. -/
theorem State.get_put_near {s : State} (h : Registers.wf s = true) (f g : Fld) (v n m : Nat) (hr : g.reg = f.reg)
    (hl : f.lo ≤ f.hi) (hh : f.hi < 32) (hq : g.lo ≤ g.hi) (hd : g.hi < f.lo ∨ f.hi < g.lo) :
    (s.put f v n m).get g n m = s.get g n m := by
  unfold State.get State.put
  rw [hr, State.word_setWord_same h]
  exact bitsOf_withBits_other _ _ _ _ _ _ hl hh hq hd

/-! ## SRAM -/

theorem Memory.setPhysByte_wf {s : State} (h : Memory.wf s = true) (p : Nat) (v : Byte) :
    Memory.wf (s.setPhysByte p v) = true := Bank.put_wf p v h

theorem State.physByte_set_same {s : State} (h : Memory.wf s = true) (p : Nat) (v : Byte) :
    (s.setPhysByte p v).physByte p = v := Bank.get_put_same _ _ _ _ (Bank.wf_rise _ _ _ h)

theorem State.physByte_set_other {s : State} (h : Memory.wf s = true) (p j : Nat) (v : Byte) (hj : j ≠ p) :
    (s.setPhysByte p v).physByte j = s.physByte j := Bank.get_put_other _ _ _ _ _ _ (Bank.wf_rise _ _ _ h) hj

end Sys2Proof.Machine
end

