-- ==== Sys2Proof/WellFormed.lean ====
section
/-! DEFINITION. Sys2Proof/WellFormed.lean: the checks on a command that its operand types do not make: access sizes,
lengths of what arrives, and the index ranges of a Hawser header. -/

namespace Sys2Proof

/-- Sizes in bytes that an access can have (R6). -/
def accessSize (k : Nat) : Bool := [1, 2, 4, 8].contains k

/-- A header names a device of a gang of at most 128 as its source, and one of them or all of them as its destination
(R419, R421). -/
def HwHdr.wf (h : HwHdr) : Bool := h.src < 128 && h.dst ≤ 128

/-- Command i has operands that can occur. -/
def Instr.wf (i : Instr) : Bool :=
  match i with
  | .registerWrite _ k _ _ => accessSize k
  | .sramPartialWrite _ _ bs _ => accessSize bs.length
  | .sramRead _ k _ _ => accessSize k
  | .rxAmBoundary _ codes lv am => lv.length = codes.length && am.length = codes.length
  | .maskEstimateEnd _ a b => b.length ≤ a.length
  | .firstPassDecode _ _ _ _ w _ => w.codes.length = 143
  | .winchVisitEnd b => b.codes.length = 8286 && b.levels.length = 8194
  | .lanyardBlock _ _ b _ _ => b.soft.length ≤ 31
  | .lanyardHeaderFound _ _ body fcs => body.isEmpty || fcs.length = 4
  | .i2cWrite _ data => data.length ≤ 128
  | .cdbStartDownload _ header => header.length ≤ 112
  | .cdbWriteBlockLpl _ data => data.length ≤ 116
  | .cdbWriteBlockEpl _ data => data.length ≤ 2048
  | .gangPrepareRx _ h _ _ _ => h.wf
  | .gangPreparedRx _ h _ => h.wf
  | .gangRefusedRx _ h _ _ => h.wf
  | .gangCommitRx _ h _ => h.wf
  | .gangAbortRx _ h _ => h.wf
  | .gangAppliedRx _ h _ => h.wf
  | .debugUnlockResponse _ key sig => key.length = 97 && sig.length = 96
  | .porRelease _ _ t => t.sram.all fun f => f.page / 128 = f.bank
  | .statusRx _ h st => h.wf && st.caps.length = 32
  | .epochRx _ h _ _ _ _ => h.wf
  | .droppedRx _ h _ _ _ _ => h.wf
  | .msgRx _ h g _ => h.wf && g.bytes.length ≤ 256
  | .pushRx _ h offset bytes _ => h.wf && bytes.length ≤ 256 && offset.val + bytes.length ≤ 8388608
  | .takenRx _ h _ => h.wf
  | .completionRx _ h _ _ _ _ _ _ _ g => h.wf && g.bytes.length ≤ 256
  | .eccInjectArm .. | .eccLogClear .. | .scrubRead .. | .laneSetMode .. | .laneMap .. | .ltxLaneCfgWrite ..
  | .pendingChangeNoFraming .. | .txAmBoundary .. | .amGroupArrival .. | .amPositionMissed ..
  | .slotLockWindowEnd .. | .laneProtectArm .. | .laneProtectDisarm .. | .laneProtectSwitch ..
  | .laneProtectRevert .. | .protectArmTimeout | .protectionSwitch | .protectionRevert | .emergencySwitch
  | .l8FailRevert | .l8FailSelectionReturn | .protectFinalPoint | .proposeRepeat | .proposeDeadline
  | .elasticBufferSlip .. | .errorInjection .. | .shapeApply .. | .txSetShaping .. | .txLoadPattern ..
  | .maskCtrlWrite .. | .driverSwingResume .. | .txPllBandCalComplete .. | .txPllLocked .. | .txPllReady ..
  | .txPllLockLoss .. | .txPllReferenceSwitch .. | .txPllHoldoverExpiry .. | .txPllStop .. | .txCalResult ..
  | .txCalRevert .. | .losAssert .. | .losDeassert .. | .lolAssert .. | .timingRecoveryLock ..
  | .tiaGainAcquired .. | .tiaAcqTimeout .. | .tiaRetrim .. | .retrimMeasureDone .. | .adcRotationTimer ..
  | .winchSlot | .winchReseed .. | .rxCalResult .. | .rxCalRevert .. | .checkerSyncAcquired ..
  | .checkerSyncLost .. | .captureArm .. | .captureAbort .. | .captureTrigger .. | .captureStop .. | .captureAdc ..
  | .captureAdcTimeout .. | .rxSetEqPolicy .. | .sliceBoundary | .capstanIterationResult .. | .writebackEntry ..
  | .codewordRelease .. | .wasteWindowEnd | .capstanSetPolicy .. | .deadlineWrite .. | .capstanSnapshot ..
  | .hostLosAssert .. | .hostLosDeassert .. | .hostLolAssert .. | .hostLolDeassert .. | .ctleSearchStep ..
  | .hostEqTimeout .. | .hostRxFrameBoundary .. | .hostTxFrameBoundary .. | .hostTxApply .. | .hostLoopbackSet ..
  | .rsmEnable .. | .rsmCodeword .. | .rsmSnapshot .. | .hostSetEq .. | .laneSetState .. | .olcReqWrite ..
  | .laneProbe .. | .probeGo .. | .probeDurationEnd .. | .slewTick .. | .lbRangeWrite .. | .olcCodeWrite ..
  | .strobeWrite .. | .waveformStart .. | .waveformStop .. | .heaterPwmPeriod .. | .tokenAcquired
  | .tokenSegmentEnd .. | .tokenWaitTimeout .. | .deferredLiveTimeout .. | .safetyFault .. | .faultClear ..
  | .txDisableSet .. | .txDisableClear .. | .lockinPeriodEnd .. | .laneReset .. | .lydTxEnWrite ..
  | .lydRxEnWrite .. | .lydCoefWrite .. | .lanyardFrameEnd .. | .helloPeriod .. | .telemetryPeriod ..
  | .timePeriod .. | .helloRx .. | .helloPeriodMissed .. | .telemetryRx .. | .txadjRequestRx .. | .txadjResultRx ..
  | .timeRx .. | .protectProposeRx .. | .protectAcceptRx .. | .protectConfirmRx .. | .protectAbandonRx ..
  | .protectNotifyRx .. | .userFragmentRx .. | .userReassemblyTimeout .. | .userSlotFree .. | .lanyardConfig ..
  | .lanyardSend .. | .lanyardSendTimeout .. | .lanyardPartnerRead .. | .lanyardPartnerHello ..
  | .lanyardPartnerForget .. | .lanyardTxadjPolicy .. | .rawWrap | .timeApplyRate .. | .timeApplyStep ..
  | .timeClearCoarse .. | .timeSnapshotRead .. | .tsqPop .. | .aonCounterRead .. | .twoWayRead .. | .ppsInRead ..
  | .cleatAonWake | .ppsInEdge .. | .ppsOutSecond | .ppsOutPulseEnd | .timeSet .. | .timeAdjust ..
  | .timeStampConfig .. | .timeSetPpsTimeout | .scheduledTimeReached .. | .i2cRead .. | .i3cCcc ..
  | .sidebandReset .. | .cmisSoftwareReset | .lowPowerRequestChange .. | .modselChange .. | .cmisApplyDpinit ..
  | .cmisApplyImmediate .. | .dpdeinitWrite .. | .outputDisableTxWrite .. | .datapathStateAdvance ..
  | .cmisFlagEvaluation | .cmisMonitorRefresh | .hostPasswordEntry .. | .hostPasswordChange ..
  | .registerWindowRead .. | .registerWindowWrite .. | .windowAccessComplete | .completionRingPop | .eventQueuePop
  | .fathomReadoutCopy | .perfWindowCopy | .vdmFreeze | .vdmUnfreeze | .cdbQueryStatus | .cdbModuleFeatures
  | .cdbFwMgmtFeatures | .cdbGetFwInfo | .cdbAbortDownload | .cdbCompleteDownload | .flashWriteComplete ..
  | .cdbRunImage .. | .cdbCommitImage | .cdbUnknownCommand | .mailboxWordWrite .. | .mailboxGo .. | .mailboxTake
  | .internalRingPop .. | .ping .. | .getInfo .. | .cancel .. | .flushCompletions .. | .setPolicySender ..
  | .setPolicyBit .. | .setPolicyQuota .. | .knotOpen .. | .knotStage .. | .knotCinchImmediate .. | .knotCinchAm ..
  | .knotCinchTime .. | .knotCinchGang .. | .knotReady .. | .knotAbandon .. | .knotStatus .. | .knotIdleExpiry ..
  | .knotAmWaitExpiry .. | .gangDecisionPoint .. | .gangCommitRepeat .. | .participantDeadline .. | .fwStatus ..
  | .fwRestartRunning .. | .fwRestartOther .. | .attestReport .. | .attestCertificate .. | .riggerReady ..
  | .watchdogKick .. | .watchdogExpiry | .riggerRestart | .riggerImageLoaded | .riggerCoreHalt .. | .powerOn ..
  | .memsSettleTimeout | .riggerRelease | .mgmtinitComplete | .urgentConversion .. | .triggeredConversionRequest ..
  | .sequencerRound | .adcConversionEnd .. | .referenceEnable .. | .referenceReady | .anchorMonitorRound ..
  | .fathomStart .. | .fathomStop .. | .fathomSample .. | .fathomCaptureEnd .. | .fathomSnapshotSwap ..
  | .fathomWriteoutDone .. | .monConfig .. | .monSnapshot .. | .monSetWindow .. | .perfConfigChain ..
  | .perfConfigSampler .. | .perfConfigClearOvf .. | .perfSnapshot .. | .perfCounterRead .. | .samplerCrossing ..
  | .anchorIdleTimeout | .anchorRiggerHalted | .anchorWindowClose .. | .wakeEvent .. | .wakeKeepReached
  | .wakeSramFilled | .powerUpComplete | .powerDownComplete | .coreIdleGate | .memsReferenceLoss
  | .referenceRestored | .blockEnableWrite .. | .blockEnableComplete .. | .softwareAonReset | .brownOut ..
  | .aonWatchdogExpiry | .vinLoss | .powerAccountingUpdate .. | .setPowerState .. | .getPowerAccounting ..
  | .retirePage .. | .retireLedgerWritten | .bistRun .. | .bistBlockDone .. | .bistResult .. | .eccLog ..
  | .lifetimeMinute | .lifetimeRecordAppend | .hawserPortEnable .. | .hawserRetrain .. | .hawserDetectPulse ..
  | .trainingSetRx .. | .hawserSymbolLock .. | .capsRx .. | .hawserStateTimeout .. | .hawserLos .. | .hawserLol ..
  | .linkFrameRx .. | .syncPeriod | .syncReqRx .. | .syncRespRx .. | .assignRx .. | .doneRx ..
  | .discoveryDelayExpiry | .epochLagTimeout .. | .digestRecompute | .gangForward .. | .gangStatus ..
  | .gangConfigParameters .. | .gangConfigList .. | .gangConfigRediscover .. | .gangConfigPush ..
  | .gangConfigReload .. | .pgtkiRise .. | .pgtkiFall | .powerGrantRoundEnd | .powerGrantStepEnd ..
  | .hostCdrLock .. | .rxPllLock .. | .hostPllLock .. | .coreUngateComplete | .lanyardSymbolBoundary ..
  | .lanyardChainSettled .. | .triggeredConversionDue .. | .hawserLosDeassert .. | .gangPushTimeout ..
  | .boundaryScanEntry => true

end Sys2Proof
end

