-- ==== Sys2Proof/Tests/Slice0.lean ====
section
/-! SUPPORT. Sys2Proof/Tests/Slice0.lean: the checks of WellFormed refuse what they should, worked examples of the spec,
and for every obligation with hypotheses concrete states and operands that meet them, clause by clause. -/

open Sys2Proof Sys2Proof.Machine

/- A term is deep when its state is built by many writes. -/
set_option maxRecDepth 20000

namespace Sys2Proof.Tests

/-- Field f of repetition n (and of its first second index) holds v. -/
def puts (s : State) (l : List (Fld × Nat × Nat)) : State := l.foldl (fun s x => s.put x.1 x.2.2 x.2.1) s

/-- A powered device: reset released, the management clock locked, every partition enabled. -/
def up : State :=
  puts (State.reset.modPwr fun p => { p with vin := true, held := false })
    [(F.PWR_CLK_STAT_MGMT_LOCK, 0, 1), (F.PWR_BLK_EN_LANE, 0, 0x1FF), (F.PWR_BLK_EN_HSTQ, 0, 15),
     (F.PWR_BLK_EN_CORE, 0, 1), (F.PWR_BLK_EN_HWS, 0, 1)]

/-- The same with the module in ACTIVE, the core and every receive and host clock locked, and Rigger running. -/
def live : State :=
  puts (up.modFw fun f => { f with running := true, released := true })
    [(F.PWR_STATE_STATE, 0, 3), (F.PWR_CLK_STAT_CORE_LOCK, 0, 1), (F.PWR_CLK_STAT_RX_LOCK, 0, 0x1FF),
     (F.PWR_CLK_STAT_HST_LOCK, 0, 15)]

/-- Line lane n in mode k, alone. -/
def moded (s : State) (n k : Nat) : State := puts s [(F.LTX_LANE_CFG_MODE, n, k)]

/-- Signal and lock at line receiver n and host lane h. -/
def lockd (s : State) (n h : Nat) : State :=
  puts s [(F.LRX_LOS_STAT_LOS, n, 0), (F.LRX_LOS_STAT_LOL, n, 0), (F.HST_LANE_STAT_LOS, h, 0), (F.HST_LANE_STAT_LOL, h, 0)]

/-- A message with opcode op from identity who: the bytes of its extended payload and its words from 2 on. -/
def cm (op : Nat) (ws : List Nat) (who : Nat := 3) (ext : Nat := 0) (id : Nat := 1) : Cmd :=
  { id := id, m := 0, words := ([who * 2 ^ 24 + op * 2 ^ 16, ext * 2 ^ 16] ++ ws).map (BitVec.ofNat 32) }

/-- Those commands are outstanding, and Rigger runs. -/
def fr (s : State) (l : List Cmd) : State :=
  (s.modFw fun f => { f with running := true }).modMbx fun x => { x with outstanding := l }

/-- A codeword of lane 0, stream A, at position 0, with deadline d, at a place of Capstan or at none. -/
def cw (p : Option CapPlace) (d : Int) : CapCw :=
  { lane := 0, streamB := false, pos := 0, tfp := 0, deadline := d, counted := true, cand := true, adm := true, place := p,
    entry := 0, ring := 0, z := [], le := [], cl := 0, trail := [], best := none }

/-- Capstan holds those codewords. -/
def caps (s : State) (l : List CapCw) : State := s.modCap fun c => { c with cws := l }

/-! ## Well-formedness -/

theorem test_wf_register_write : (Instr.registerWrite .cleat 3 0 0).wf = false := by decide
theorem test_wf_register_write_ok : (Instr.registerWrite .cleat 4 0 0).wf = true := by decide
theorem test_wf_sram_write : (Instr.sramPartialWrite .cleat 0 [1, 2, 3] .none).wf = false := by decide
theorem test_wf_sram_read : (Instr.sramRead .cleat 16 0 .none).wf = false := by decide
theorem test_wf_first_pass : (Instr.firstPassDecode 0 false 0 0 ⟨List.replicate 142 0, 0⟩ 0).wf = false := by decide
theorem test_wf_winch_visit : (Instr.winchVisitEnd ⟨List.replicate 95 0, List.replicate 3 0, 0⟩).wf = false := by decide
theorem test_wf_lanyard_block : (Instr.lanyardBlock 0 [] ⟨List.replicate 32 0, false⟩ 0 0).wf = false := by decide
theorem test_wf_rx_boundary : (Instr.rxAmBoundary 0 [1] [] []).wf = false := by decide
theorem test_wf_mask_estimate : (Instr.maskEstimateEnd 0 [] [[]]).wf = false := by decide
theorem test_wf_lanyard_header : (Instr.lanyardHeaderFound 0 [] [1] [1, 2, 3]).wf = false := by decide
theorem test_wf_unlock : (Instr.debugUnlockResponse true [] []).wf = false := by decide
theorem test_wf_i2c_write : (Instr.i2cWrite 0 (List.replicate 129 0)).wf = false := by decide
theorem test_wf_cdb_start : (Instr.cdbStartDownload 0 (List.replicate 113 0)).wf = false := by decide
theorem test_wf_cdb_lpl : (Instr.cdbWriteBlockLpl 0 (List.replicate 117 0)).wf = false := by decide
theorem test_wf_cdb_epl : (Instr.cdbWriteBlockEpl 0 (List.replicate 2049 0)).wf = false := by
  show decide ((List.replicate 2049 (0 : Byte)).length ≤ 2048) = false
  simp
theorem test_wf_por_release : (Instr.porRelease true true
    { sram := [{ bank := 0, row := true, index := 0, page := 8192 }], engines := [], lanes := [], cleatRam := false,
      blocks := 0 }).wf = false := by decide

/-- A header with a source index of 128. -/
def badHdr : HwHdr := { src := 128, dst := 0, hops := 0, lseq := 0, good := true }

/-- A header to all devices, and one to no index. -/
def allHdr (d : Nat) : HwHdr := { src := 0, dst := d, hops := 0, lseq := 0, good := true }

theorem test_wf_header_destination : (allHdr 128).wf = true ∧ (allHdr 129).wf = false := by decide
theorem test_wf_gang_frames : (Instr.gangPrepareRx 0 badHdr 0 0 0).wf = false ∧ (Instr.gangPreparedRx 0 badHdr 0).wf = false
    ∧ (Instr.gangRefusedRx 0 badHdr 0 0).wf = false ∧ (Instr.gangCommitRx 0 badHdr 0).wf = false
    ∧ (Instr.gangAbortRx 0 badHdr 0).wf = false ∧ (Instr.gangAppliedRx 0 badHdr 0).wf = false
    ∧ (Instr.epochRx 0 badHdr ⟨0, 0, 0⟩ 0 none none).wf = false ∧ (Instr.droppedRx 0 badHdr 0 0 0 0).wf = false
    ∧ (Instr.takenRx 0 badHdr 0).wf = false := by decide

/-- A STATUS of a device alone, with its CAPS bytes. -/
def someStatus (caps : List Byte) : HwStatus :=
  { caps := caps, digest := 0, e := 0, suspect := false, suspectDepth := false, diverged := false, ports := 0, depth := 0,
    up := 0xFF }

theorem test_wf_status : (Instr.statusRx 0 badHdr (someStatus (List.replicate 32 0))).wf = false
    ∧ (Instr.statusRx 0 (allHdr 0) (someStatus (List.replicate 31 0))).wf = false := by decide
theorem test_wf_msg : (Instr.msgRx 0 badHdr ⟨[], true, true⟩ 0).wf = false
    ∧ (Instr.msgRx 0 (allHdr 0) ⟨List.replicate 257 0, true, true⟩ 0).wf = false := by decide
theorem test_wf_push : (Instr.pushRx 0 badHdr 0 [] true).wf = false
    ∧ (Instr.pushRx 0 (allHdr 0) 0 (List.replicate 257 0) true).wf = false
    ∧ (Instr.pushRx 0 (allHdr 0) 8388607 [1, 2] true).wf = false := by decide
theorem test_wf_completion : (Instr.completionRx 0 badHdr 0 0 0 0 0 true 0 ⟨[], true, true⟩).wf = false
    ∧ (Instr.completionRx 0 (allHdr 0) 0 0 0 0 0 true 0 ⟨List.replicate 257 0, true, true⟩).wf = false := by decide

/-- The table gives bits to no row, so no word spells a command, and nothing is put into the queue. -/
theorem test_decode_none (k w : Nat) : decodeTableWord k w = none := rfl
theorem test_with_fetch_word (s : State) (k w : Nat) : s.withFetchWord k w = s := rfl

/-! ## Worked examples of the spec -/

/-- 00_scope.md, base addresses: the LRX block of L5 starts at 0x3050_0000. -/
theorem test_lane_base : R.LRX_FRAME_STAT.addr 5 0 = 0x30500000 := by decide

/-- 00_scope.md: TOP_ID reads 0x3208_A100. -/
theorem test_top_id : State.reset.word R.TOP_ID = 0x3208A100 := by decide

/-- 12_knots.md, mode of a lane pair: CAP_LANE_CFG6 lies at 0x3800_0118. -/
theorem test_cap_lane_cfg : R.CAP_LANE_CFG.addr 6 0 = 0x38000118 := by decide

/-- 12_knots.md, the same: L200 on L6 alone is refused (R41), on L6 and L7 together it is accepted. -/
theorem test_pair_map : mapValid (fun n => if n = 6 then 0xDC02 else if n = 7 then 0xFE03 else 0) = false
    ∧ mapValid (fun n => if n = 6 then 0xDC02 else if n = 7 then 0xFE02 else 0) = true := by decide

/-- 12_knots.md, the same: slot 0 with GEN 3 has the handle 0x0300. -/
theorem test_knot_handle : (State.reset.put F.KNT_SLOT_STAT_GEN 3 0).handle 0 = 0x0300 := by decide

/-- 06_host_lanes.md: codes 2, 3 and 2 give HST_TX_FIR0 = 0x019B_F200, HST_TX_FIR1 = 0x0000_01ED and SWING = 70. -/
theorem test_host_codes : hstCodes 2 3 2 = (0x019BF200, 0x1ED, 70) := by decide

/-- 06_host_lanes.md: HST_RSM_CTRL = 0x0C00_0101 is the group of H10 and H11, the egress direction, enabled. -/
theorem test_rsm_group : (State.reset.setWord R.HST_RSM_CTRL 0x0C000101 10).rsmGroup 10 = [10, 11]
    ∧ (State.reset.setWord R.HST_RSM_CTRL 0x0C000101 10).flag F.HST_RSM_CTRL_DIR 10 = true := by decide

/-- 14_monitors_and_counters.md: code 512 with GAIN 5,000 is 10,000 units of 0.1 µW. -/
theorem test_tx_power : convResult 2 512 5000 0 = 10000 := by decide

/-- 11_mailboxes_and_commands.md, worked exchange: word 0 of MB0 reads 0x0121_0101 after HOST.USER has written GO. -/
theorem test_go_stamp : (mbxGo 0 1 1 (State.reset.setWord R.MBX_W0 0x00210101 0)).2.word R.MBX_W0 0 = 0x01210101 := by
  decide

/-- The check values of the two CRCs that R209 names, for the nine digits "123456789" (from the CRC catalogues). -/
theorem test_crc16 : crc16 [0x31, 0x32, 0x33, 0x34, 0x35, 0x36, 0x37, 0x38, 0x39] = 0x29B1 := by decide
theorem test_crc32 : crc32 [0x31, 0x32, 0x33, 0x34, 0x35, 0x36, 0x37, 0x38, 0x39] = 0xCBF43926 := by decide +kernel

/-- R230: 2 lies 3 counts after the value before the last of RAW's 48 bits. -/
theorem test_raw_wrap : rawDiff 2 0xFFFFFFFFFFFF = 3 := by decide

/-- 03_line_transmitter.md, shaping L2: the taps of setting 1 (MAIN 3), and level 3 between the levels a before and b after,
with the pre-distortion of entries 12 to 15 where pd says so. -/
def shaped (pd : Bool) (a b : Nat) : List TxSym :=
  let set : TxSet := { taps := [0, 0x00E003F0, 0x3F0, 0, 0, 0, 0, 0], pd := [0, 0, 0, 0xFDFDFDFD], main := 3, pdEn := pd }
  List.replicate 13 { level := 1 } ++ [{ level := a }, { level := 3, set := set }, { level := b }] ++ List.replicate 13 { level := 1 }

/-- The same: the codes 95, 111 and 127; an isolated +1 with the Lanyard's 2.86 LSB clamps, and no more with -3 LSB. -/
theorem test_shaping_codes : dacCode (dacV (shaped false 3 3)) 0 false = (95, false)
    ∧ dacCode (dacV (shaped false 0 3)) 0 false = (111, false) ∧ dacCode (dacV (shaped false 0 0)) 0 false = (127, false)
    ∧ dacCode (dacV (shaped false 0 0)) (286 / 100) false = (127, true)
    ∧ dacCode (dacV (shaped true 0 0)) (286 / 100) false = (127, false) := by decide +kernel

/-- The same: Pb / Ptot = 1 / (32 x 0.7734) is reported as p = 28. -/
theorem test_mask_step : maskStep 1 (32 * 7734 / 10000) = 28 := by decide +kernel

/-- IEEE 802.3, table 36-2: K28.5 is 001111 1010 at negative running disparity, and 110000 0101 at positive. -/
theorem test_k28_5 : codeGroup false true 0xBC = 0b0011111010 ∧ codeGroup true true 0xBC = 0b1100000101 := by decide
/-- R413: K28.1 has no use, and is a code error. -/
theorem test_unknown_k : (symbolOf false 0b0011111001).2 = true := by decide +kernel

/-- 17_hawser_and_gangs.md, chain: at TOL 50 ns an index at depth 26 is TIME_SUSPECT for its depth, one at 25 is not. -/
theorem test_chain_depth : (puts State.reset [(F.HWS_TIME_CFG_TOL, 0, 50), (F.HWS_GANG_STAT_DEPTH, 0, 26)]).tooDeep = true
    ∧ (puts State.reset [(F.HWS_TIME_CFG_TOL, 0, 50), (F.HWS_GANG_STAT_DEPTH, 0, 25)]).tooDeep = false := by decide

/-! ## Witnesses: the hypotheses of each clause of each obligation, met together -/

theorem test_wit_MailboxesComplete :
    (∃ (s : State) (m : Nat), (inboxNext 16 s).flag F.MBX_ENG_STAT_RUNNING ∧ (inboxNext 16 s).nextFull = some m) ∧
    (∃ (s : State) (e : Cpl) (rest : List Cpl), s.mbx.host.entries = e :: rest) ∧
    (∃ (s : State) (m : MBox) (c : Cmd), s.fronts m 0x01 c) ∧
    (∃ (s : State) (m : MBox) (c : Cmd), s.fronts m 0x02 c) ∧
    (∃ (s : State) (m : MBox) (c : Cmd), s.fronts m 0x05 c ∧ c.bits 2 0 0 = 0) ∧
    (∃ (s : State) (m : MBox) (c : Cmd), s.fronts m 0x05 c ∧ c.bits 2 0 0 = 1) ∧
    (∃ (s : State) (m : MBox) (c : Cmd), s.fronts m 0x04 c ∧ c.cancelTag ≠ 0 ∧ c.mayCancel ∧ s.windowFind
      c.cancelOf c.cancelTag = none) ∧
    (∃ (s : State) (m : MBox) (c : Cmd) (e : WinEntry), s.fronts m 0x04 c ∧ c.cancelTag ≠ 0 ∧ c.mayCancel ∧
      s.windowFind c.cancelOf c.cancelTag = some e ∧ e.final.isSome) ∧
    (∃ (s : State) (m : MBox) (c : Cmd) (d : Cmd) (e : WinEntry), s.fronts m 0x04 c ∧ c.cancelTag ≠ 0 ∧ c.mayCancel
      ∧ s.windowFind c.cancelOf c.cancelTag = some e ∧ e.final = none ∧ s.cmdById e.id = some d ∧ d.id ≠ c.id
      ∧ d.stage = .queued) ∧
    (∃ (s : State) (m : MBox) (c : Cmd) (d : Cmd) (e : WinEntry), s.fronts m 0x04 c ∧ c.cancelTag ≠ 0 ∧ c.mayCancel
      ∧ s.windowFind c.cancelOf c.cancelTag = some e ∧ e.final = none ∧ s.cmdById e.id = some d ∧ (d.id = c.id
      ∨ d.stage ≠ .queued)) :=
  ⟨⟨(puts up [(F.MBX_ENG_STAT_RUNNING, 0, 1), (F.MBX_STAT_FULL, 2, 1)]), 2, by decide, by decide⟩,
    ⟨(up.modMbx fun x => { x with host := { entries := [{ w0 := 1, status := .done, orig := .done, epoch := 0, result := 0, final := true, m := 0, seq := 0 }] } }),
      _, _, rfl⟩,
    ⟨(fr up [(cm 0x01 [])]), 0, (cm 0x01 []), ⟨by decide, by decide⟩⟩,
    ⟨(fr up [(cm 0x02 [])]), 0, (cm 0x02 []), ⟨by decide, by decide⟩⟩,
    ⟨(fr up [(cm 0x05 [0])]), 0, (cm 0x05 [0]), ⟨by decide, by decide⟩, by decide⟩,
    ⟨(fr up [(cm 0x05 [1])]), 0, (cm 0x05 [1]), ⟨by decide, by decide⟩, by decide⟩,
    ⟨(fr up [(cm 0x04 [7])]), 0, (cm 0x04 [7]), ⟨by decide, by decide⟩, by decide, by decide, by decide⟩,
    ⟨(fr (up.modMbx fun x => { x with windows := [(3, [{ tag := 7, id := 2, final := some (.done, 0) }])] }) [(cm 0x04 [7])]),
      0, (cm 0x04 [7]), { tag := 7, id := 2, final := some (.done, 0) }, ⟨by decide, by decide⟩, by decide, by
      decide, by decide, by decide⟩,
    ⟨(fr (up.modMbx fun x => { x with windows := [(3, [{ tag := 7, id := 2 }])] }) [(cm 0x04 [7]), cm 0x20 [] (id := 2)]),
      0, (cm 0x04 [7]), (cm 0x20 [] (id := 2)), { tag := 7, id := 2 }, ⟨by decide, by decide⟩, by decide, by
      decide, by decide, by decide, by decide, by decide, by decide⟩,
    ⟨(fr (up.modMbx fun x => { x with windows := [(3, [{ tag := 7, id := 1 }])] }) [(cm 0x04 [7])]), 0, (cm 0x04
      [7]), (cm 0x04 [7]), { tag := 7, id := 1 }, ⟨by decide, by decide⟩, by decide, by decide, by decide, by
      decide, by decide, by decide⟩⟩

theorem test_wit_SetPolicyObeysItsSenders :
    (∃ (s : State) (m : MBox) (c : Cmd), s.fronts m 0x03 c ∧ c.ident = 3 ∧ c.bits 2 1 0 = 0 ∧ opcodes.contains
      (c.bits 2 15 8) ∧ ((c.bits 2 15 8 = 0x03 → (BitVec.ofNat 6 (c.bits 3 5 0)).getLsbD 2))) ∧
    (∃ (s : State) (m : MBox) (c : Cmd), s.fronts m 0x03 c ∧ c.ident = 3 ∧ c.bits 2 1 0 = 1 ∧ c.bits 2 15 8 ≤ 5) ∧
    (∃ (s : State) (m : MBox) (c : Cmd), s.fronts m 0x03 c ∧ c.ident = 3 ∧ c.bits 2 1 0 = 2 ∧ c.bits 2 15 8 ≤ 5) ∧
    (∃ (s : State) (m : MBox) (c : Cmd), s.fronts m 0x03 c ∧ c.bits 2 1 0 = 0 ∧ opcodes.contains (c.bits 2 15 8) ∧
      (c.ident = 1 ∨ c.ident = 5 ∨ 0x80 ≤ c.ident)) ∧
    (∃ (s : State) (m : MBox) (c : Cmd), s.fronts m 0x03 c ∧ c.bits 2 1 0 = 1 ∧ 5 < c.bits 2 15 8) ∧
    (∃ (s : State) (m : MBox) (c : Cmd), s.fronts m 0x03 c ∧ c.bits 2 1 0 = 2 ∧ c.bits 2 15 8 ≤ 5 ∧ c.ident ≠ 3 ∧
      c.ident ≠ 2) :=
  ⟨⟨(fr up [(cm 0x03 [0x300, 4])]), 0, (cm 0x03 [0x300, 4]), ⟨by decide, by decide⟩, by decide, by decide, by
      decide, by decide⟩,
    ⟨(fr up [(cm 0x03 [0x501])]), 0, (cm 0x03 [0x501]), ⟨by decide, by decide⟩, by decide, by decide, by decide⟩,
    ⟨(fr up [(cm 0x03 [0x502])]), 0, (cm 0x03 [0x502]), ⟨by decide, by decide⟩, by decide, by decide, by decide⟩,
    ⟨(fr up [(cm 0x03 [0x300] (who := 1))]), 0, (cm 0x03 [0x300] (who := 1)), ⟨by decide, by decide⟩, by decide,
      by decide, by decide⟩,
    ⟨(fr up [(cm 0x03 [0x601])]), 0, (cm 0x03 [0x601]), ⟨by decide, by decide⟩, by decide, by decide⟩,
    ⟨(fr up [(cm 0x03 [0x502] (who := 4))]), 0, (cm 0x03 [0x502] (who := 4)), ⟨by decide, by decide⟩, by decide,
      by decide, by decide, by decide⟩⟩

theorem test_wit_ConversionCommandsComplete :
    (∃ (s : State) (c : Fin 64), (c.val, false) ∈ s.mon.triggered) ∧
    (∃ (s : State), s.flag F.MON_ADC_CTRL_SEQ_EN ∧ s.flag F.MON_ADC_CTRL_REF_RDY ∧ s.mon.slots = [] ∧
      s.mon.roundLate = false) ∧
    (∃ (s : State), s.flag F.MON_ADC_CTRL_SEQ_EN ∧ s.flag F.MON_ADC_CTRL_REF_RDY ∧ (s.mon.slots ≠ [] ∨
      s.mon.roundLate = true)) ∧
    (∃ (s : State) (cv : Conv), s.mon.conv = some cv ∧ cv.urgent = false) ∧
    (∃ (s : State) (cv : Conv), s.mon.conv = some cv ∧ cv.urgent = true) ∧
    (∃ (s : State), s.flag F.MON_ADC_CTRL_REF_EN ∧ s.flag F.MON_ADC_CTRL_REF_RDY = false ∧ s.mon.bootSeq = false) ∧
    (∃ (s : State), s.flag F.MON_ADC_CTRL_REF_EN ∧ s.flag F.MON_ADC_CTRL_REF_RDY = false ∧ s.mon.bootSeq = true) ∧
    (∃ (s : State), s.inAnchor) :=
  ⟨⟨(up.modMon fun x => { x with triggered := [(5, false)] }), 5, by decide⟩,
    ⟨(puts up [(F.MON_ADC_CTRL_SEQ_EN, 0, 1), (F.MON_ADC_CTRL_REF_RDY, 0, 1)]), by decide, by decide, by decide,
      by decide⟩,
    ⟨((puts up [(F.MON_ADC_CTRL_SEQ_EN, 0, 1), (F.MON_ADC_CTRL_REF_RDY, 0, 1)]).modMon fun x => { x with slots := [3] }),
      by decide, by decide, by decide⟩,
    ⟨(up.modMon fun x => { x with conv := some { input := 2, urgent := false, gain := 0, offs := 0 } }), { input := 2, urgent := false, gain := 0, offs := 0 },
      by decide, by decide⟩,
    ⟨(up.modMon fun x => { x with conv := some { input := 2, urgent := true, gain := 0, offs := 0 } }), { input := 2, urgent := true, gain := 0, offs := 0 },
      by decide, by decide⟩,
    ⟨(puts up [(F.MON_ADC_CTRL_REF_EN, 0, 1), (F.MON_ADC_CTRL_REF_RDY, 0, 0)]), by decide, by decide, by decide⟩,
    ⟨((puts up [(F.MON_ADC_CTRL_REF_EN, 0, 1), (F.MON_ADC_CTRL_REF_RDY, 0, 0)]).modMon fun x => { x with bootSeq := true }),
      by decide, by decide, by decide⟩,
    ⟨(puts up [(F.PWR_STATE_STATE, 0, 1)]), by decide⟩⟩

theorem test_wit_FathomAndPerformanceComplete :
    (∃ (s : State) (i : Fin 32) (y : SymbolSample), 1 ≤ s.get F.MON_FTH_CFG_SOURCE i ∧ s.get F.MON_FTH_CFG_SOURCE i
      ≤ 3 ∧ (s.word R.MON_FTH_FILT i).getLsbD (4 + y.level.toNat) ∧ (s.word R.MON_FTH_FILT i).getLsbD (8 +
      y.prev.toNat)) ∧
    (∃ (s : State) (i : Fin 32), s.flag F.MON_FTH_CFG_RUN i ∧ fathomEnded s i) ∧
    (∃ (s : State) (i : Fin 32), s.mon.fathom[i].req = true ∧ s.mon.fathom[i].writing = false) ∧
    (∃ (s : State) (i : Fin 32), s.mon.fathom[i].writing = true) ∧
    (∃ (s : State) (m : MBox) (c : Cmd), s.fronts m 0x50 c ∧ c.bits 2 8 8 = 0) ∧
    (∃ (s : State) (m : MBox) (c : Cmd), s.fronts m 0x50 c ∧ c.bits 2 8 8 = 1) ∧
    (∃ (s : State) (m : MBox) (c : Cmd) (low : Nat) (rest : List Nat), s.fronts m 0x51 c ∧ maskBits 32 (c.word
      2).toNat = low :: rest ∧ (low :: rest).all (fun i => fathomLive s i)) ∧
    (∃ (s : State) (m : MBox) (c : Cmd), s.fronts m 0x52 c ∧ c.ident = 3 ∧ c.bits 2 6 0 ≤ 79) ∧
    (∃ (s : State) (m : MBox) (c : Cmd), s.fronts m 0x53 c ∧ c.bits 2 1 0 = 0) ∧
    (∃ (s : State) (m : MBox) (c : Cmd), s.fronts m 0x53 c ∧ c.bits 2 1 0 = 1) ∧
    (∃ (s : State) (m : MBox) (c : Cmd), s.fronts m 0x53 c ∧ c.bits 2 1 0 = 2) ∧
    (∃ (s : State) (k : Fin 4), samplerDue s k ∧ s.flag F.PMU_SAMP_CFG_PEND k = false) ∧
    (∃ (s : State) (k : Fin 4), samplerDue s k ∧ s.flag F.PMU_SAMP_CFG_PEND k = true) :=
  ⟨⟨(puts (up.setWord R.MON_FTH_FILT 0xFF0 31) [(F.MON_FTH_CFG_SOURCE, 31, 3)]), 31, ⟨0, 3, 3⟩, by decide, by
      decide, by decide, by decide⟩,
    ⟨((puts up [(F.MON_FTH_CFG_RUN, 0, 1), (F.MON_FTH_CFG_MODE, 0, 1)]).modTim fun x => { x with raw := 4000000 }),
      0, by decide, by decide⟩,
    ⟨(up.modFathom 0 fun x => { x with req := true }), 0, by decide, by decide⟩,
    ⟨(up.modFathom 0 fun x => { x with writing := true }), 0, by decide⟩,
    ⟨(fr up [(cm 0x50 [0])]), 0, (cm 0x50 [0]), ⟨by decide, by decide⟩, by decide⟩,
    ⟨(fr up [(cm 0x50 [0x100])]), 0, (cm 0x50 [0x100]), ⟨by decide, by decide⟩, by decide⟩,
    ⟨(fr (puts up [(F.MON_FTH_CFG_SOURCE, 31, 10)]) [(cm 0x51 [0x80000000])]), 0, (cm 0x51 [0x80000000]), 31, [],
      ⟨by decide, by decide⟩, by decide, by decide⟩,
    ⟨(fr up [(cm 0x52 [79])]), 0, (cm 0x52 [79]), ⟨by decide, by decide⟩, by decide, by decide⟩,
    ⟨(fr up [(cm 0x53 [0])]), 0, (cm 0x53 [0]), ⟨by decide, by decide⟩, by decide⟩,
    ⟨(fr up [(cm 0x53 [1])]), 0, (cm 0x53 [1]), ⟨by decide, by decide⟩, by decide⟩,
    ⟨(fr up [(cm 0x53 [2])]), 0, (cm 0x53 [2]), ⟨by decide, by decide⟩, by decide⟩,
    ⟨((puts up [(F.PMU_SAMP_CFG_EN, 3, 1)]).modMon fun x => { x with counters := [(0, 5)] }), 3, by decide, by
      decide⟩,
    ⟨(puts ((puts up [(F.PMU_SAMP_CFG_EN, 3, 1)]).modMon fun x => { x with counters := [(0, 5)] })
      [(F.PMU_SAMP_CFG_PEND, 3, 1)]), 3, by decide, by decide⟩⟩

theorem test_wit_EccCommandsComplete :
    (∃ (s : State), s.flag F.ECC_STAT_SCRUB_EN ∧ s.inAnchor = false ∧ s.get F.ECC_SCRUB_STAT_POS ≠ 4194303) ∧
    (∃ (s : State), s.flag F.ECC_STAT_SCRUB_EN ∧ s.inAnchor = false ∧ s.get F.ECC_SCRUB_STAT_POS = 4194303) ∧
    (∃ (s : State) (m : MBox) (c : Cmd), s.fronts m 0x92 c) ∧
    (∃ (s : State) (m : MBox) (c : Cmd), s.fronts m 0x93 c ∧ (c.word 2).toNat % 0x1000 = 0 ∧ 0x80000000 ≤ (c.word
      2).toNat ∧ (c.word 2).toNat ≤ 0x81FBFFFF ∧ s.ecc.retired.findIdx? (fun p => p = (c.word 2).toNat /
      0x1000) = none ∧ s.ecc.retired.length < 64) :=
  ⟨⟨(puts up [(F.ECC_STAT_SCRUB_EN, 0, 1)]), by decide, by decide, by decide⟩,
    ⟨(puts (puts up [(F.ECC_STAT_SCRUB_EN, 0, 1)]) [(F.ECC_SCRUB_STAT_POS, 0, 4194303)]), by decide, by decide, by
      decide⟩,
    ⟨(fr up [(cm 0x92 [])]), 0, (cm 0x92 []), ⟨by decide, by decide⟩⟩,
    ⟨(fr up [(cm 0x93 [0x81FBF000])]), 0, (cm 0x93 [0x81FBF000]), ⟨by decide, by decide⟩, by decide, by decide, by
      decide, by decide, by decide⟩⟩

theorem test_wit_TimeCommandsComplete :
    (∃ (s : State), s.tim.running = true ∧ s.tim.raw = BitVec.allOnes 48) ∧
    (∃ (s : State), s.inAnchor) ∧
    (∃ (s : State) (falling : Bool), s.flag F.TIM_PPSI_CTRL_EN ∧ s.inAnchor = false ∧ s.flag F.TIM_PPSI_CTRL_EDGE =
      falling ∧ (ppsStamp s).tim.pend = none) ∧
    (∃ (s : State) (falling : Bool) (clear : Bool) (i : Nat) (a : TimeApply), s.flag F.TIM_PPSI_CTRL_EN ∧
      s.inAnchor = false ∧ s.flag F.TIM_PPSI_CTRL_EDGE = falling ∧ (ppsStamp s).tim.pend = some { cmd := i, change := a, clear := clear, target := none }) ∧
    (∃ (s : State), ppsAllowed s ∧ s.tim.ppsSec < s.ppsNow) ∧
    (∃ (s : State) (m : MBox) (c : Cmd), s.fronts m 0x60 c ∧ (c.word 5).toNat ≤ 999999999 ∧ c.timeSet.rate.all
      rateOk ∧ c.bits 2 0 0 = 0) ∧
    (∃ (s : State) (m : MBox) (c : Cmd), s.fronts m 0x60 c ∧ (c.word 5).toNat ≤ 999999999 ∧ c.timeSet.rate.all
      rateOk ∧ c.bits 2 0 0 = 1) ∧
    (∃ (s : State) (m : MBox) (c : Cmd), s.fronts m 0x61 c ∧ c.timeAdjust.rate.all rateOk ∧ c.bits 2 3 3 = 0) ∧
    (∃ (s : State) (m : MBox) (c : Cmd), s.fronts m 0x61 c ∧ c.timeAdjust.rate.all rateOk ∧ c.bits 2 3 3 = 1 ∧
      (c.word 9).toNat ≤ 999999999 ∧ s.tooFar c.adjustAt = false) ∧
    (∃ (s : State) (m : MBox) (c : Cmd), s.fronts m 0x62 c ∧ ((∀ i, i = 2 ∨ i = 3 → c.bits i 20 20 = 1 → c.bits i
      19 16 ≤ 12))) ∧
    (∃ (s : State) (c : Cmd) (i : Nat) (a : TimeApply) (clear : Bool), s.tim.pend = some { cmd := i, change := a, clear := clear, target := none }
      ∧ s.cmdById i = some c) :=
  ⟨⟨(up.modTim fun x => { x with running := true, raw := BitVec.allOnes 48 }), by decide, by decide⟩,
    ⟨(puts up [(F.PWR_STATE_STATE, 0, 1)]), by decide⟩,
    ⟨(puts up [(F.PWR_STATE_STATE, 0, 3), (F.TIM_PPSI_CTRL_EN, 0, 1)]), false, by decide, by decide, by decide, by
      decide⟩,
    ⟨((puts up [(F.PWR_STATE_STATE, 0, 3), (F.TIM_PPSI_CTRL_EN, 0, 1)]).modTim fun x => { x with pend := some { cmd := 1, change := {}, clear := false, target := none } }),
      false, false, 1, {}, by decide, by decide, by decide, by decide⟩,
    ⟨((puts up [(F.PWR_STATE_STATE, 0, 3), (F.TIM_PPSO_CTRL_EN, 0, 1), (F.TIM_PPSO_CTRL_FORCE, 0, 1)]).modTim fun
      x => { x with ppsSec := -1 }), by decide, by decide⟩,
    ⟨(fr up [(cm 0x60 [2, 0, 0, 999999999, 0, 1, 0])]), 0, (cm 0x60 [2, 0, 0, 999999999, 0, 1, 0]), ⟨by decide, by
      decide⟩, by decide, by decide, by decide⟩,
    ⟨(fr up [(cm 0x60 [1])]), 0, (cm 0x60 [1]), ⟨by decide, by decide⟩, by decide, by decide, by decide⟩,
    ⟨(fr up [(cm 0x61 [1, 0, 5])]), 0, (cm 0x61 [1, 0, 5]), ⟨by decide, by decide⟩, by decide, by decide⟩,
    ⟨(fr up [(cm 0x61 [9, 0, 5, 0, 0, 0, 0, 999999999])]), 0, (cm 0x61 [9, 0, 5, 0, 0, 0, 0, 999999999]), ⟨by
      decide, by decide⟩, by decide, by decide, by decide, by decide⟩,
    ⟨(fr up [(cm 0x62 [0x1C0000])]), 0, (cm 0x62 [0x1C0000]), ⟨by decide, by decide⟩, by rintro i (rfl | rfl) <;>
      decide⟩,
    ⟨(fr (up.modTim fun x => { x with pend := some { cmd := 1, change := {}, clear := false, target := none } })
      [cm 0x60 [1]]), (cm 0x60 [1]), 1, {}, false, by decide, by decide⟩⟩

theorem test_wit_HostLanesComplete :
    (∃ (s : State) (q : Fin 4), s.powered (.hst q) ∧ s.get F.PWR_CLK_STAT_HST_LOCK / 2 ^ q.val % 2 = 0) ∧
    (∃ (s : State) (h : HLane), s.hostRuns h ∧ s.flag F.HST_LANE_STAT_LOS h = false) ∧
    (∃ (s : State) (h : HLane), s.hostRuns h ∧ s.flag F.HST_LANE_STAT_LOS h) ∧
    (∃ (s : State) (h : HLane), s.hostRuns h ∧ s.flag F.HST_LANE_STAT_LOS h = false ∧ s.flag F.HST_LANE_STAT_LOL h
      = false ∧ (s.hst h).lolHeld = false) ∧
    (∃ (s : State) (h : HLane), s.hostRuns h ∧ s.flag F.HST_LANE_STAT_LOS h = false ∧ s.flag F.HST_LANE_STAT_LOL h) ∧
    (∃ (s : State) (h : HLane), s.hostRuns h ∧ s.flag F.HST_LANE_STAT_LOS h = false ∧ s.flag F.HST_LANE_STAT_LOL h
      = false) ∧
    (∃ (s : State) (h : HLane) (k : Nat) (best : Nat) (code : Nat), (s.hst h).search = some (k, best, code) ∧ k ≠
      15) ∧
    (∃ (s : State) (h : HLane) (best : Nat) (code : Nat), (s.hst h).search = some (15, best, code)) ∧
    (∃ (s : State) (h : HLane), (s.hst h).cdr = true ∧ s.flag F.HST_LANE_STAT_FRAME_LOCK h = false) ∧
    (∃ (s : State) (h : HLane), s.flag F.HST_LANE_STAT_FRAME_LOCK h) ∧
    (∃ (s : State) (h : HLane), s.hostTxFramed h) ∧
    (∃ (s : State) (h : HLane) (skew : Nat), s.rsmGroup h ≠ [] ∧ skew ≤ 200 ∧ (∀ k ∈ s.rsmGroup h, if s.flag
      F.HST_RSM_CTRL_DIR h then s.hostTxFramed k = true else s.flag F.HST_LANE_STAT_FRAME_LOCK k = true)) ∧
    (∃ (s : State) (h : HLane) (skew : Nat), s.rsmGroup h ≠ [] ∧ 200 < skew) ∧
    (∃ (s : State) (m : MBox) (c : Cmd), s.fronts m 0x28 c ∧ c.hostEqBad = false ∧ (∀ h ∈ maskLanes 16 (c.bits 2 15
      0), s.hostOn h = true) ∧ c.hostEqWaits (maskLanes 16 (c.bits 2 15 0)) ≠ []) :=
  ⟨⟨(up.modGrant fun g => { g with on := [.hst 3] }), 3, by decide, by decide⟩,
    ⟨(lockd (moded live 0 2) 0 0), 0, by decide, by decide⟩,
    ⟨(puts (lockd (moded live 0 2) 0 0) [(F.HST_LANE_STAT_LOS, 0, 1)]), 0, by decide, by decide⟩,
    ⟨(lockd (moded live 0 2) 0 0), 0, by decide, by decide, by decide, by decide⟩,
    ⟨(puts (lockd (moded live 0 2) 0 0) [(F.HST_LANE_STAT_LOL, 0, 1)]), 0, by decide, by decide, by decide⟩,
    ⟨(lockd (moded live 0 2) 0 0), 0, by decide, by decide, by decide⟩,
    ⟨(live.modHst 15 fun t => { t with search := some (14, 3, 2) }), 15, 14, 3, 2, by decide, by decide⟩,
    ⟨(live.modHst 15 fun t => { t with search := some (15, 3, 2) }), 15, 3, 2, by decide⟩,
    ⟨(live.modHst 15 fun t => { t with cdr := true }), 15, by decide, by decide⟩,
    ⟨(puts live [(F.HST_LANE_STAT_FRAME_LOCK, 15, 1)]), 15, by decide⟩,
    ⟨(puts (lockd (moded live 0 2) 0 0) [(F.LRX_FRAME_STAT_AMLOCK_A, 0, 1)]), 0, by decide⟩,
    ⟨(puts (lockd (moded live 0 2) 0 0) [(F.HST_RSM_CTRL_EN, 0, 1), (F.HST_RSM_CTRL_GROUP, 0, 3), (F.HST_LANE_STAT_FRAME_LOCK, 0, 1), (F.HST_LANE_STAT_FRAME_LOCK, 1, 1)]),
      0, 200, by decide, by decide, by decide⟩,
    ⟨(puts (lockd (moded live 0 2) 0 0) [(F.HST_RSM_CTRL_EN, 0, 1), (F.HST_RSM_CTRL_GROUP, 0, 3), (F.HST_LANE_STAT_FRAME_LOCK, 0, 1), (F.HST_LANE_STAT_FRAME_LOCK, 1, 1)]),
      0, 201, by decide, by decide⟩,
    ⟨(fr up [(cm 0x28 [0x8000 + 2 ^ 19, 0, 0, 120, 0])]), 0, (cm 0x28 [0x8000 + 2 ^ 19, 0, 0, 120, 0]), ⟨by
      decide, by decide⟩, by decide, by decide, by decide⟩⟩

theorem test_wit_LineTransmitDataCompletes :
    (∃ (s : State) (n : Line) (b : Bool), injects n b s ∧ injectTurn n b s) ∧
    (∃ (s : State) (n : Line) (b : Bool) (fill : Int), s.mode n ≠ 0 ∧ ((b = true → s.mode n = 3)) ∧ (fill - (if b
      then (s.tx n).centreB else (s.tx n).centreA)).natAbs ≤ 64) ∧
    (∃ (s : State) (n : Line) (b : Bool) (fill : Int), s.mode n ≠ 0 ∧ ((b = true → s.mode n = 3)) ∧ 64 < (fill -
      (if b then (s.tx n).centreB else (s.tx n).centreA)).natAbs) ∧
    (∃ (s : State) (t : State) (n : Line) (a : List (List (BitVec 128))) (b : List (List (BitVec 128))), txData n
      (txOf a b) s = t ∧ t.flag F.LTX_MASK_CTRL_EN n ∧ 2 ^ t.get F.LTX_MASK_CTRL_AVG n ≤ (t.tx n).maskBlocks) ∧
    (∃ (s : State) (t : State) (n : Line) (data : TxData), txData n data s = t ∧ t.flag F.LYD_CTRL_TX_EN n = false) ∧
    (∃ (s : State) (t : State) (n : Line) (data : TxData), txData n data s = t ∧ t.flag F.LYD_CTRL_TX_EN n) ∧
    (∃ (s : State) (n : Line) (k : Fin 3), s.flag F.LTX_CAL_CTRL_FREEZE n = false ∧ (s.get F.OLC_STAT_STATE n = 2 ∨
      (s.get F.OLC_STAT_STATE n = 1 ∧ k ≠ 2))) ∧
    (∃ (s : State) (n : Line) (k : Fin 3), s.flag F.LTX_CAL_CTRL_FREEZE n = false ∧ s.get F.OLC_STAT_STATE n = 3 ∧
      k ≠ 2) :=
  ⟨⟨(puts (moded live 8 0) [(F.LTX_ERR_INJ_EN, 7, 1), (F.LTX_LANE_CFG_MODE, 7, 3), (F.LTX_ERR_INJ_STREAM, 7, 1)]),
      7, true, by decide, by decide⟩,
    ⟨(moded live 0 3), 0, true, (-64), by decide, by decide, by decide⟩,
    ⟨(moded live 0 3), 0, true, 65, by decide, by decide, by decide⟩,
    ⟨((puts live [(F.LTX_MASK_CTRL_EN, 8, 1), (F.LTX_MASK_CTRL_AVG, 8, 0)]).modTx 8 fun t => { t with maskBlocks := 1 }),
      _, 8, [], [], rfl, by decide, by decide⟩,
    ⟨live, _, 0, [], rfl, by decide⟩,
    ⟨(puts live [(F.LYD_CTRL_TX_EN, 0, 1)]), _, 0, [], rfl, by decide⟩,
    ⟨(puts live [(F.OLC_STAT_STATE, 8, 2)]), 8, 2, by decide, by decide⟩,
    ⟨(puts live [(F.OLC_STAT_STATE, 8, 3)]), 8, 1, by decide, by decide, by decide⟩⟩

theorem test_wit_TransmitClockAndShapingComplete :
    (∃ (s : State) (p : Fin 5), ((s.pll p).state = 1 ∨ (s.pll p).state = 2)) ∧
    (∃ (s : State) (p : Fin 5), ((s.pll p).state = 4 ∨ (s.pll p).state = 5)) ∧
    (∃ (s : State) (p : Fin 5) (h : Nat), (s.pll p).state = 5 ∧ s.pllBest p = some h) ∧
    (∃ (s : State) (p : Fin 5), (s.pll p).state = 5) ∧
    (∃ (s : State) (p : Fin 5), (s.pll p).state ≠ 0 ∧ (∀ n ∈ pairLanes p, s.needsPll n = false)) ∧
    (∃ (s : State) (m : MBox) (c : Cmd), s.fronts m 0x25 c ∧ c.bits 2 27 24 ≠ 15 ∧ c.extLen = (if c.bits 2 17 17 =
      1 then 64 else 0) ∧ (∀ n ∈ maskLanes 9 (c.bits 2 8 0), s.laneOn n = true) ∧ maskLanes 9 (c.bits 2 8 0) ≠
      []) ∧
    (∃ (s : State) (m : MBox) (c : Cmd), s.fronts m 0x2A c ∧ c.patternBad = false ∧ (∀ n ∈ maskLanes 9 (c.bits 2 8
      0), s.laneOn n = true) ∧ maskLanes 9 (c.bits 2 8 0) ≠ []) ∧
    (∃ (s : State) (m : MBox) (c : Cmd), s.fronts m 0x2A c ∧ c.patternBad = false ∧ maskLanes 9 (c.bits 2 8 0) = []) :=
  ⟨⟨(live.modPll 4 fun p => { p with state := 2 }), 4, by decide⟩,
    ⟨(live.modPll 4 fun p => { p with state := 4 }), 4, by decide⟩,
    ⟨(((lockd (moded live 0 2) 0 0).modPll 0 fun p => { p with state := 5 }).modHst 0 fun t => { t with cdr := true }),
      0, 0, by decide, by decide⟩,
    ⟨(live.modPll 4 fun p => { p with state := 5 }), 4, by decide⟩,
    ⟨(live.modPll 4 fun p => { p with state := 3 }), 4, by decide, by decide⟩,
    ⟨(fr up [(cm 0x25 [0x100])]), 0, (cm 0x25 [0x100]), ⟨by decide, by decide⟩, by decide, by decide, by decide,
      by decide⟩,
    ⟨(fr up [(cm 0x2A [0x501FF, 0, 64, 0])]), 0, (cm 0x2A [0x501FF, 0, 64, 0]), ⟨by decide, by decide⟩, by decide,
      by decide, by decide⟩,
    ⟨(fr up [(cm 0x2A [0])]), 0, (cm 0x2A [0]), ⟨by decide, by decide⟩, by decide, by decide⟩⟩

theorem test_wit_ReceiveFrontEndCompletes :
    (∃ (s : State) (n : Line), tiaLoop n s) ∧
    (∃ (s : State) (n : Line), tiaLoop n s ∧ s.flag F.LRX_TIA_STAT_ACQ_DONE n = false) ∧
    (∃ (s : State) (n : Line), (s.rx n).retrimming = true) ∧
    (∃ (s : State) (n : Line), s.rxFramed n = false) ∧
    (∃ (s : State) (n : Line), s.powered (.lrx n) ∧ s.rxRuns n = false) ∧
    (∃ (s : State) (n : Line) (k : Fin 3), k ≠ 0 ∧ s.flag F.LRX_CAL_CTRL_FREEZE n = false ∧ s.rxFramed n) ∧
    (∃ (s : State) (n : Line) (k : Fin 3), k ≠ 0 ∧ s.flag F.LRX_CAL_CTRL_FREEZE n = false ∧ s.rxFramed n = false) :=
  ⟨⟨(lockd up 8 0), 8, by decide⟩,
    ⟨(lockd up 8 0), 8, by decide, by decide⟩,
    ⟨(live.modRx 8 fun x => { x with retrimming := true }), 8, by decide⟩,
    ⟨up, 0, by decide⟩,
    ⟨(up.modGrant fun g => { g with on := [.lrx 8] }), 8, by decide, by decide⟩,
    ⟨(puts live [(F.LRX_FRAME_STAT_AMLOCK_A, 8, 1)]), 8, 2, by decide, by decide, by decide⟩,
    ⟨live, 8, 1, by decide, by decide, by decide⟩⟩

theorem test_wit_ReceiveEventsAndServicesComplete :
    (∃ (s : State) (n : Line), s.rxRuns n ∧ s.flag F.LRX_LOS_STAT_LOS n = false) ∧
    (∃ (s : State) (n : Line), s.rxRuns n ∧ s.flag F.LRX_LOS_STAT_LOS n) ∧
    (∃ (s : State) (n : Line), s.rxRuns n ∧ s.flag F.LRX_LOS_STAT_LOS n = false ∧ s.flag F.LRX_LOS_STAT_LOL n =
      false ∧ (s.rx n).lolHeld = false ∧ (s.rx n).lolMode = false) ∧
    (∃ (s : State) (n : Line), s.rxRuns n ∧ s.flag F.LRX_LOS_STAT_LOS n = false ∧ s.flag F.LRX_TR_STAT_LOCK n =
      false) ∧
    (∃ (s : State) (n : Line) (even : Nat) (odd : Nat), s.mode n = 3 ∧ s.flag F.LRX_FRAME_STAT_SLOT_LOCK n = false
      ∧ 4 ≤ (s.rx n).visits ∧ s.flag F.LRX_TR_STAT_LOCK n ∧ 192 ≤ even ∧ 192 ≤ odd) ∧
    (∃ (s : State) (n : Line) (even : Nat) (odd : Nat), s.mode n = 3 ∧ s.flag F.LRX_FRAME_STAT_SLOT_LOCK n ∧ even <
      32 ∧ odd < 32) ∧
    (∃ (s : State) (n : Line) (even : Nat) (odd : Nat), s.mode n = 3 ∧ s.flag F.LRX_FRAME_STAT_SLOT_LOCK n ∧ (32 ≤
      even ∨ 32 ≤ odd)) ∧
    (∃ (s : State) (n : Line), s.powered (.lrx n)) ∧
    (∃ (s : State) (h : HLane), s.powered (.hst (h / 4))) ∧
    (∃ (s : State) (n : Line) (level : Nat) (c : Chk), s.get F.LRX_CHK_CTRL_SRC n ≠ 0 ∧ s.flag
      F.LRX_CHK_CTRL_INVERT n = false ∧ s.flag F.LRX_CHK_STAT_SYNC n = false ∧ (s.rx n).chk.next (s.get
      F.LRX_CHK_CTRL_SRC n) (s.get F.LRX_CHK_CTRL_SQ_HALF n) level = (c, some level) ∧ 63 ≤ c.run) ∧
    (∃ (s : State) (n : Line) (level : Nat) (e : Nat) (c : Chk), s.get F.LRX_CHK_CTRL_SRC n ≠ 0 ∧ s.flag
      F.LRX_CHK_CTRL_INVERT n = false ∧ s.flag F.LRX_CHK_STAT_SYNC n = true ∧ (s.rx n).chk.next (s.get
      F.LRX_CHK_CTRL_SRC n) (s.get F.LRX_CHK_CTRL_SQ_HALF n) level = (c, some e) ∧ level ≠ e ∧ 31 ≤
      (c.errs.filter fun a => a + 1 < 1024).length) ∧
    (∃ (s : State) (t : State) (n : Line) (data : RxData), rxData n data s = t ∧ t.get F.LRX_CAP_STAT_STATE n = 1 ∧
      (t.rx n).capTrig = true) ∧
    (∃ (s : State) (n : Line), s.powered (.lrx n)) ∧
    (∃ (s : State) (n : Line), s.get F.LRX_CAP_STAT_STATE n = 2 ∧ (8 - s.get F.LRX_CAP_CTRL_PRE n) * 0x20000 ≤
      (s.rx n).capPost + 1) ∧
    (∃ (s : State) (m : MBox) (c : Cmd), s.fronts m 0x29 c ∧ c.bits 2 3 0 ≤ 8 ∧ s.laneOn (c.bits 2 3 0) ∧ capActive
      s (c.bits 2 3 0) = false) ∧
    (∃ (s : State) (n : Line), s.get F.LRX_CAP_STAT_STATE n = 1 ∧ (∃ c ∈ s.mbx.outstanding, c.stage = .executing
      (.capture n))) ∧
    (∃ (s : State) (m : MBox) (c : Cmd) (all : List Nat), s.fronts m 0x26 c ∧ all = maskLanes 9 (c.bits 2 8 0) ++
      (maskLanes 16 (c.bits 3 15 0)).map (· + 9) ∧ all ≠ [] ∧ (∀ n ∈ maskLanes 9 (c.bits 2 8 0), s.laneOn n =
      true) ∧ (∀ h ∈ maskLanes 16 (c.bits 3 15 0), s.hostOn h = true)) :=
  ⟨⟨(lockd live 8 0), 8, by decide, by decide⟩,
    ⟨(puts live [(F.LRX_LOS_STAT_LOS, 8, 1)]), 8, by decide, by decide⟩,
    ⟨((lockd live 8 0).modRx 8 fun x => { x with lolHeld := false }), 8, by decide, by decide, by decide, by
      decide, by decide⟩,
    ⟨(lockd live 8 0), 8, by decide, by decide, by decide⟩,
    ⟨((puts (moded live 7 3) [(F.LRX_TR_STAT_LOCK, 7, 1)]).modRx 7 fun x => { x with visits := 4 }), 7, 192, 192,
      by decide, by decide, by decide, by decide, by decide, by decide⟩,
    ⟨(puts (moded live 7 3) [(F.LRX_FRAME_STAT_SLOT_LOCK, 7, 1)]), 7, 31, 31, by decide, by decide, by decide, by
      decide⟩,
    ⟨(puts (moded live 7 3) [(F.LRX_FRAME_STAT_SLOT_LOCK, 7, 1)]), 7, 31, 32, by decide, by decide, by decide⟩,
    ⟨(live.modGrant fun g => { g with on := [.lrx 0, .hst 0] }), 0, by decide⟩,
    ⟨(live.modGrant fun g => { g with on := [.lrx 0, .hst 0] }), 0, by decide⟩,
    ⟨((puts live [(F.LRX_CHK_CTRL_SRC, 8, 1)]).modRx 8 fun t => { t with chk := { seen := 7, run := 63 } }), 8,
      (prbsLevel prbs13 0).1, _, by decide, by decide, by decide, rfl, by decide⟩,
    ⟨((puts (puts live [(F.LRX_CHK_CTRL_SRC, 8, 1)]) [(F.LRX_CHK_STAT_SYNC, 8, 1)]).modRx 8 fun t => { t with chk := { seen := 7, errs := List.range 31 } }),
      8, ((prbsLevel prbs13 0).1 + 1), _, _, by decide, by decide, by decide, rfl, by decide, by decide⟩,
    ⟨((puts live [(F.LRX_CAP_STAT_STATE, 8, 1)]).modRx 8 fun t => { t with capTrig := true }), _, 8, [], rfl, by
      decide, by decide⟩,
    ⟨(live.modGrant fun g => { g with on := [.lrx 0, .hst 0] }), 0, by decide⟩,
    ⟨((puts live [(F.LRX_CAP_STAT_STATE, 8, 2), (F.LRX_CAP_CTRL_PRE, 8, 7)]).modRx 8 fun t => { t with capPost := 0x1FFFF }),
      8, by decide, by decide⟩,
    ⟨(fr up [(cm 0x29 [8])]), 0, (cm 0x29 [8]), ⟨by decide, by decide⟩, by decide, by decide, by decide⟩,
    ⟨(fr (puts live [(F.LRX_CAP_STAT_STATE, 8, 1)]) [{ cm 0x29 [8] with stage := .executing (.capture 8) }]), 8,
      by decide, by decide⟩,
    ⟨(fr live [(cm 0x26 [0x100, 0x8000])]), 0, (cm 0x26 [0x100, 0x8000]), _, ⟨by decide, by decide⟩, rfl, by
      decide, by decide, by decide⟩⟩

theorem test_wit_FramingAndBoundariesComplete :
    (∃ (s : State), s.coreOn ∧ s.lanes.winch.visiting = none ∧ s.lanes.winch.started = false) ∧
    (∃ (s : State), s.coreOn ∧ s.lanes.winch.visiting = none ∧ s.lanes.winch.started = true ∧ s.get F.WNC_STAT_SLOT
      ≠ 33) ∧
    (∃ (s : State), s.coreOn ∧ s.lanes.winch.visiting = none ∧ s.lanes.winch.started = true ∧ s.get F.WNC_STAT_SLOT
      = 33) ∧
    (∃ (s : State) (i : Nat), s.lanes.winch.visiting = some i ∧ s.lanes.winch.spoiled = true) ∧
    (∃ (s : State) (i : Nat), s.lanes.winch.visiting = some i ∧ s.lanes.winch.spoiled = false) ∧
    (∃ (s : State) (m : MBox) (c : Cmd), s.fronts m 0x20 c ∧ (∀ x ∈ modeChanges c s, s.laneOn x.1 = true) ∧
      mapAccepts s (modeChanges c s) ∧ modeChanges c s ≠ []) ∧
    (∃ (s : State) (m : MBox) (c : Cmd), s.fronts m 0x23 c ∧ (∀ x ∈ mapChanges c s, s.laneOn x.1 = true) ∧
      mapAccepts s (mapChanges c s) ∧ mapChanges c s ≠ []) ∧
    (∃ (s : State) (f : Framer), framerRuns s f ∧ framerLock s f = false ∧ (framerSearch s f).found = true) ∧
    (∃ (s : State) (f : Framer), framerRuns s f ∧ framerLock s f) ∧
    (∃ (s : State) (f : Framer), framerRuns s f ∧ framerLock s f) ∧
    (∃ (s : State) (f : Framer), framerLock s f ∧ (framerSearch s f).missed < 3) ∧
    (∃ (s : State) (n : Line) (b : Bool), framerLock s (.lrx n b) ∧ 3 ≤ (framerSearch s (.lrx n b)).missed) ∧
    (∃ (s : State) (n : Line) (b : Bool), framerLock s (.ltx n b) ∧ 3 ≤ (framerSearch s (.ltx n b)).missed) ∧
    (∃ (s : State) (h : HLane), framerLock s (.hst h) ∧ 3 ≤ (framerSearch s (.hst h)).missed) ∧
    (∃ (s : State) (n : Line), s.txFramed n) ∧
    (∃ (s : State) (n : Line), s.rxFramed n) ∧
    (∃ (s : State) (n : Line), s.rxFramed n = false) ∧
    (∃ (s : State) (h : HLane), s.flag F.HST_LANE_STAT_FRAME_LOCK h = false) ∧
    (∃ (s : State) (h : HLane), s.hostTxFramed h = false) ∧
    (∃ (s : State) (t : State) (n : Line), s.txFramed n = false ∧ txChanges n (cfgTake n (s.squelch n (s.tx
      n).sqFrame ((s.tx n).sqPll && !pllServes s n))) = t ∧ (t.laneTrans n = false ∨ t.laneTarget n ≠ 4)) ∧
    (∃ (s : State) (t : State) (n : Line), s.txFramed n = false ∧ txChanges n (cfgTake n (s.squelch n (s.tx
      n).sqFrame ((s.tx n).sqPll && !pllServes s n))) = t ∧ t.laneTrans n ∧ t.laneTarget n = 4 ∧ 2 ≤
      t.laneState n ∧ t.laneState n ≤ 3) :=
  ⟨⟨live, by decide, by decide, by decide⟩,
    ⟨(live.modWinch fun x => { x with started := true }), by decide, by decide, by decide, by decide⟩,
    ⟨(puts (live.modWinch fun x => { x with started := true }) [(F.WNC_STAT_SLOT, 0, 33)]), by decide, by decide,
      by decide, by decide⟩,
    ⟨(live.modWinch fun x => { x with visiting := some 24, spoiled := true }), 24, by decide, by decide⟩,
    ⟨(live.modWinch fun x => { x with visiting := some 24 }), 24, by decide, by decide⟩,
    ⟨(fr live [(cm 0x20 [0x10080])]), 0, (cm 0x20 [0x10080]), ⟨by decide, by decide⟩, by decide, by decide, by
      decide⟩,
    ⟨(fr live [(cm 0x23 [1, 0x1002])]), 0, (cm 0x23 [1, 0x1002]), ⟨by decide, by decide⟩, by decide, by decide, by
      decide⟩,
    ⟨(((lockd (moded live 0 2) 0 0).modHst 0 fun t => { t with cdr := true }).modHst 0 fun t => { t with rx := { found := true }, visits := 4 }),
      (.hst 0), by decide, by decide, by decide⟩,
    ⟨(puts (((lockd (moded live 0 2) 0 0).modHst 0 fun t => { t with cdr := true }).modHst 0 fun t => { t with visits := 4 })
      [(F.HST_LANE_STAT_FRAME_LOCK, 0, 1)]), (.hst 0), by decide, by decide⟩,
    ⟨((puts live [(F.LRX_FRAME_STAT_SLOT_LOCK, 7, 1), (F.LRX_FRAME_STAT_AMLOCK_B, 7, 1), (F.LTX_LANE_CFG_MODE, 7, 3), (F.LRX_LOS_STAT_LOS, 7, 0), (F.LRX_LOS_STAT_LOL, 7, 0)]).modGrant
      fun g => { g with on := [.lrx 7] }), (.lrx 7 true), by decide, by decide⟩,
    ⟨(puts (live.modHst 15 fun t => { t with rx := { missed := 2 } }) [(F.HST_LANE_STAT_FRAME_LOCK, 15, 1)]),
      (.hst 15), by decide, by decide⟩,
    ⟨(puts (live.modRx 8 fun t => { t with b := { missed := 3 } }) [(F.LRX_FRAME_STAT_AMLOCK_B, 8, 1)]), 8, true,
      by decide, by decide⟩,
    ⟨(puts (live.modTx 8 fun t => { t with b := { missed := 3 } }) [(F.LTX_LANE_STAT_AMLOCK_B, 8, 1)]), 8, true,
      by decide, by decide⟩,
    ⟨((puts live [(F.HST_LANE_STAT_FRAME_LOCK, 15, 1)]).modHst 15 fun t => { t with rx := { missed := 3 } }), 15,
      by decide, by decide⟩,
    ⟨(puts live [(F.LTX_LANE_STAT_AMLOCK_A, 8, 1)]), 8, by decide⟩,
    ⟨(puts live [(F.LRX_FRAME_STAT_AMLOCK_A, 8, 1)]), 8, by decide⟩,
    ⟨live, 0, by decide⟩,
    ⟨live, 0, by decide⟩,
    ⟨live, 0, by decide⟩,
    ⟨live, _, 0, by decide, rfl, by decide⟩,
    ⟨(puts live [(F.OLC_STAT_TRANS, 8, 1), (F.OLC_STAT_TARGET, 8, 4), (F.OLC_STAT_STATE, 8, 2)]), _, 8, by decide,
      rfl, by decide, by decide, by decide, by decide⟩⟩

theorem test_wit_OpticalLanesComplete :
    (∃ (s : State) (m : MBox) (c : Cmd), s.fronts m 0x21 c ∧ c.bits 2 18 16 ≤ 3 ∧ laneRefusal s (maskLanes 9
      (c.bits 2 8 0)) (c.bits 2 18 16) false = none ∧ maskLanes 9 (c.bits 2 8 0) ≠ []) ∧
    (∃ (s : State) (t : State) (m : MBox) (c : Cmd), s.fronts m 0x22 c ∧ c.bits 2 3 0 ≤ 8 ∧ s.probeStart (c.bits 2
      3 0) (c.bits 2 5 4) (c.bits 2 11 8) (c.bits 2 13 12) (c.bits 2 31 16) = (none, t)) ∧
    (∃ (s : State) (n : Line) (p : Probe), (s.olc n).probe = some p ∧ s.laneState n = 4 ∧ p.held = false) ∧
    (∃ (s : State) (n : Line), s.grant.running = some (.ramp n)) ∧
    (∃ (s : State) (n : Line), lockinRuns n s) ∧
    (∃ (s : State) (p : Fin 5) (h : Nat), (s.pll p).state = 3 ∧ (s.pll p).rxRef = false ∧ (if (s.pll p).relock then
      s.pllAgain p else s.pllPick p) = some h) ∧
    (∃ (s : State) (p : Fin 5), (s.pll p).state = 3 ∧ (s.pll p).rxRef = true) ∧
    (∃ (s : State) (p : Fin 5), (s.pll p).state = 4 ∧ (s.pll p).ready = false) ∧
    (∃ (s : State) (b : Fin 6) (n : Line), b.val ≤ 1 ∧ s.faultShows b n) ∧
    (∃ (s : State) (b : Fin 6) (n : Line), 1 < b.val ∧ b ≠ 5 ∧ s.faultShows b n) ∧
    (∃ (b : Fin 6), b = 5) :=
  ⟨⟨(fr (moded live 7 1) [(cm 0x21 [0x30080])]), 0, (cm 0x21 [0x30080]), ⟨by decide, by decide⟩, by decide, by
      decide, by decide⟩,
    ⟨(fr (puts (moded live 7 1) [(F.OLC_STAT_STATE, 7, 3)]) [(cm 0x22 [7 + 2 ^ 31])]), _, 0, (cm 0x22 [7 + 2 ^ 31]),
      ⟨by decide, by decide⟩, by decide, rfl⟩,
    ⟨(puts (live.modOlc 8 fun o => { o with probe := some { kind := 0, src := 1, ret := 2, held := false } })
      [(F.OLC_STAT_STATE, 8, 4)]), 8, _, rfl, by decide, by decide⟩,
    ⟨(live.modGrant fun g => { g with running := some (.ramp 8) }), 8, by decide⟩,
    ⟨(puts (live.modChan 41 fun c => { c with play := some { entry := 0, left := none } }) [(F.OLC_LOCK_CFG_EN, 8, 1), (F.OLC_CH_WAV_MODE, 41, 2)]),
      8, by decide⟩,
    ⟨(((lockd (moded live 0 2) 0 0).modPll 0 fun p => { p with state := 3 }).modHst 0 fun t => { t with cdr := true }),
      0, 0, by decide, by decide, by decide⟩,
    ⟨(live.modPll 4 fun p => { p with state := 3, rxRef := true }), 4, by decide, by decide⟩,
    ⟨(live.modPll 4 fun p => { p with state := 4 }), 4, by decide, by decide⟩,
    ⟨(puts live [(F.OLC_STAT_STATE, 8, 3), (F.OLC_SAFE_LIM_MPD_CHK, 8, 1), (F.MON_IN_RES_VALUE, 8, 1), (F.MON_WIN_HI_HI_ALM, 8, 0)]),
      1, 8, by decide, by decide⟩,
    ⟨(puts live [(F.OLC_SAFE_GLB_TJ_MAX, 0, 0), (F.MON_IN_RES_VALUE, 58, 1)]), 3, 0, by decide, by decide, by
      decide⟩,
    ⟨5, by decide⟩⟩

theorem test_wit_ProtectionCompletes :
    (∃ (s : State) (m : MBox) (c : Cmd), s.fronts m 0x24 c ∧ c.bits 2 3 0 = 1 ∧ (c.bits 2 31 24 = 0 ∨ 15 < c.bits 2
      31 24) ∧ s.l8Present ∧ (s.protState = 0 ∨ s.protState = 4) ∧ s.lanes.prot.disarming = false ∧
      laneRefusal (shadowSet (c.bits 2 10 8) s) [8] 3 true = none) ∧
    (∃ (s : State) (m : MBox) (c : Cmd), s.fronts m 0x24 c ∧ c.bits 2 3 0 = 0 ∧ (c.bits 2 31 24 = 0 ∨ 15 < c.bits 2
      31 24) ∧ s.l8Present ∧ s.protState ≠ 3 ∧ (s.protState ≠ 0 ∨ s.laneState 8 ≠ 0)) ∧
    (∃ (s : State) (m : MBox) (c : Cmd), s.fronts m 0x24 c ∧ c.bits 2 3 0 = 0 ∧ (c.bits 2 31 24 = 0 ∨ 15 < c.bits 2
      31 24) ∧ s.l8Present ∧ s.protState = 0 ∧ s.laneState 8 = 0) ∧
    (∃ (s : State) (m : MBox) (c : Cmd), s.fronts m 0x24 c ∧ c.bits 2 3 0 = 2 ∧ (c.bits 2 31 24 = 0 ∨ 15 < c.bits 2
      31 24) ∧ s.l8Present ∧ s.protState = 2 ∧ s.lanes.prot.lane = c.bits 2 10 8 ∧ s.agreeOpen = false ∧ s.get
      F.LYD_AGREE_STAT_STAGE ≠ 4) ∧
    (∃ (s : State) (m : MBox) (c : Cmd), s.fronts m 0x24 c ∧ c.bits 2 3 0 = 3 ∧ (c.bits 2 31 24 = 0 ∨ 15 < c.bits 2
      31 24) ∧ s.l8Present ∧ s.protState = 3 ∧ s.lanes.prot.lane = c.bits 2 10 8 ∧ s.agreeOpen = false ∧ s.get
      F.LYD_AGREE_STAT_STAGE ≠ 4) ∧
    (∃ (s : State), s.protState = 1) ∧
    (∃ (s : State), s.protState = 2 ∧ s.lanes.prot.emergency = true ∧ s.rxFramed 8) ∧
    (∃ (s : State), s.protState = 3 ∧ s.lanes.prot.returning = false ∧ s.l8Failed) ∧
    (∃ (s : State), s.lanes.prot.returning = true ∧ s.rxFramed s.lanes.prot.lane) :=
  ⟨⟨(fr (puts (moded (live.modFw fun f => { f with l8 := true }) 7 1) [(F.LRX_PROT_STAT_STATE, 0, 4)]) [(cm 0x24 [0x701])]),
      0, (cm 0x24 [0x701]), ⟨by decide, by decide⟩, by decide, by decide, by decide, by decide, by decide, by
      decide⟩,
    ⟨(fr (puts (live.modFw fun f => { f with l8 := true }) [(F.LRX_PROT_STAT_STATE, 0, 2)]) [(cm 0x24 [0x10000000])]),
      0, (cm 0x24 [0x10000000]), ⟨by decide, by decide⟩, by decide, by decide, by decide, by decide, by
      decide⟩,
    ⟨(fr (puts (live.modFw fun f => { f with l8 := true }) [(F.LRX_PROT_STAT_STATE, 0, 0)]) [(cm 0x24 [0])]), 0,
      (cm 0x24 [0]), ⟨by decide, by decide⟩, by decide, by decide, by decide, by decide, by decide⟩,
    ⟨(fr ((puts (live.modFw fun f => { f with l8 := true }) [(F.LRX_PROT_STAT_STATE, 0, 2)]).modProt fun p => { p with lane := 7 })
      [(cm 0x24 [0x10000702])]), 0, (cm 0x24 [0x10000702]), ⟨by decide, by decide⟩, by decide, by decide, by
      decide, by decide, by decide, by decide, by decide⟩,
    ⟨(fr ((puts (live.modFw fun f => { f with l8 := true }) [(F.LRX_PROT_STAT_STATE, 0, 3)]).modProt fun p => { p with lane := 7 })
      [(cm 0x24 [0x703])]), 0, (cm 0x24 [0x703]), ⟨by decide, by decide⟩, by decide, by decide, by decide, by
      decide, by decide, by decide, by decide⟩,
    ⟨(puts (live.modFw fun f => { f with l8 := true }) [(F.LRX_PROT_STAT_STATE, 0, 1)]), by decide⟩,
    ⟨((puts live [(F.LRX_PROT_STAT_STATE, 0, 2), (F.LRX_FRAME_STAT_AMLOCK_A, 8, 1)]).modProt fun p => { p with emergency := true }),
      by decide, by decide, by decide⟩,
    ⟨(puts live [(F.LRX_PROT_STAT_STATE, 0, 3)]), by decide, by decide, by decide⟩,
    ⟨((puts live [(F.LRX_PROT_STAT_STATE, 0, 3), (F.LRX_FRAME_STAT_AMLOCK_A, 0, 1)]).modProt fun p => { p with returning := true }),
      by decide, by decide⟩⟩

theorem test_wit_AgreementCompletes :
    (∃ (s : State), s.get F.LYD_AGREE_STAT_ROLE = 1 ∧ s.get F.LYD_AGREE_STAT_STAGE = 1 ∧ s.fw.running = true) ∧
    (∃ (s : State), s.get F.LYD_AGREE_STAT_ROLE = 1 ∧ s.get F.LYD_AGREE_STAT_STAGE = 1 ∧ s.get F.LTX_AM_SEQ_SEQ
      s.lanes.prot.lane = (s.get F.LYD_AGREE_SEQ_K_I + 4094) % 4096) ∧
    (∃ (s : State), s.agreeOpen ∧ s.get F.LYD_AGREE_STAT_STAGE = 3 ∧ s.get F.LRX_AM_SEQ_SEQ s.lanes.prot.lane =
      (s.agreeK + 4095) % 4096) ∧
    (∃ (s : State), s.agreeOpen ∧ s.get F.LYD_AGREE_STAT_STAGE = 2 ∧ s.get F.LRX_AM_SEQ_SEQ s.lanes.prot.lane =
      (s.agreeK + 4095) % 4096) ∧
    (∃ (s : State) (n : Line) (b : List Byte), s.delivers n ∧ (s.frameIn n).get F.LYD_AGREE_STAT_ROLE = 2 ∧ 2 ≤
      (s.frameIn n).get F.LYD_AGREE_STAT_STAGE ∧ (s.frameIn n).get F.LYD_AGREE_STAT_STAGE ≤ 4 ∧ (s.frameIn
      n).get F.LYD_AGREE_STAT_AGREE_ID = cbyte b 1) ∧
    (∃ (s : State) (n : Line), s.delivers n ∧ (s.frameIn n).agreeOpen ∧ (s.frameIn n).get F.LYD_AGREE_STAT_ROLE = 1
      ∧ s.fw.serial < (s.frameIn n).partnerSerial n ∧ (s.frameIn n).fw.serial = s.fw.serial) ∧
    (∃ (s : State) (n : Line) (b : List Byte), s.delivers n ∧ (s.frameIn n).agreeOpen = false ∧ (s.frameIn n).get
      F.LYD_AGREE_STAT_ROLE ≠ 2 ∧ proposeRefusal n b (s.frameIn n) = none) ∧
    (∃ (s : State) (n : Line) (b : List Byte) (r : Nat), s.delivers n ∧ (s.frameIn n).agreeOpen = false ∧
      (s.frameIn n).get F.LYD_AGREE_STAT_ROLE ≠ 2 ∧ proposeRefusal n b (s.frameIn n) = some r) ∧
    (∃ (s : State) (n : Line) (b : List Byte), s.delivers n ∧ (s.frameIn n).get F.LYD_AGREE_STAT_ROLE = 1 ∧
      (s.frameIn n).get F.LYD_AGREE_STAT_AGREE_ID = cbyte b 1 ∧ (s.frameIn n).get F.LYD_AGREE_STAT_STAGE = 3) ∧
    (∃ (s : State) (n : Line) (b : List Byte) (left : Nat), s.delivers n ∧ (s.frameIn n).get F.LYD_AGREE_STAT_ROLE
      = 1 ∧ (s.frameIn n).get F.LYD_AGREE_STAT_AGREE_ID = cbyte b 1 ∧ (s.frameIn n).get F.LYD_AGREE_STAT_STAGE
      = 1 ∧ left = (cval b 4 2 % 4096 + 4096 - 1 - (s.frameIn n).get F.LRX_AM_SEQ_SEQ (s.frameIn
      n).lanes.prot.lane) % 4096 ∧ left ≠ 0 ∧ left ≤ 2047) ∧
    (∃ (s : State) (n : Line) (b : List Byte) (left : Nat), s.delivers n ∧ (s.frameIn n).get F.LYD_AGREE_STAT_ROLE
      = 1 ∧ (s.frameIn n).get F.LYD_AGREE_STAT_AGREE_ID = cbyte b 1 ∧ (s.frameIn n).get F.LYD_AGREE_STAT_STAGE
      = 1 ∧ left = (cval b 4 2 % 4096 + 4096 - 1 - (s.frameIn n).get F.LRX_AM_SEQ_SEQ (s.frameIn
      n).lanes.prot.lane) % 4096 ∧ (left = 0 ∨ 2047 < left)) ∧
    (∃ (s : State) (n : Line) (b : List Byte), s.delivers n ∧ (s.frameIn n).get F.LYD_AGREE_STAT_ROLE = 2 ∧
      (s.frameIn n).get F.LYD_AGREE_STAT_STAGE = 2 ∧ (s.frameIn n).get F.LYD_AGREE_STAT_AGREE_ID = cbyte b 1 ∧
      (s.frameIn n).get F.LYD_AGREE_SEQ_K_I = cval b 4 2 % 4096) ∧
    (∃ (s : State) (n : Line) (b : List Byte), s.delivers n ∧ (s.frameIn n).get F.LYD_AGREE_STAT_AGREE_ID = cbyte b
      1 ∧ ((s.frameIn n).get F.LYD_AGREE_STAT_ROLE ≠ 1 ∨ ((s.frameIn n).get F.LYD_AGREE_STAT_STAGE ≠ 4 ∧
      (s.frameIn n).get F.LYD_AGREE_STAT_STAGE ≠ 6))) ∧
    (∃ (s : State) (n : Line) (b : List Byte), s.delivers n ∧ (s.frameIn n).get F.LYD_AGREE_STAT_AGREE_ID = cbyte b
      1 ∧ (s.frameIn n).get F.LYD_AGREE_STAT_ROLE = 1 ∧ ((s.frameIn n).get F.LYD_AGREE_STAT_STAGE = 4 ∨
      (s.frameIn n).get F.LYD_AGREE_STAT_STAGE = 6)) ∧
    (∃ (s : State) (n : Line), s.delivers n) :=
  ⟨⟨(puts live [(F.LYD_AGREE_STAT_ROLE, 0, 1), (F.LYD_AGREE_STAT_STAGE, 0, 1)]), by decide, by decide, by decide⟩,
    ⟨(puts live [(F.LYD_AGREE_STAT_ROLE, 0, 1), (F.LYD_AGREE_STAT_STAGE, 0, 1), (F.LTX_AM_SEQ_SEQ, 0, 4094)]), by
      decide, by decide, by decide⟩,
    ⟨(puts live [(F.LYD_AGREE_STAT_STAGE, 0, 3), (F.LRX_AM_SEQ_SEQ, 0, 4095)]), by decide, by decide, by decide⟩,
    ⟨(puts live [(F.LYD_AGREE_STAT_STAGE, 0, 2), (F.LRX_AM_SEQ_SEQ, 0, 4095)]), by decide, by decide, by decide⟩,
    ⟨(puts live [(F.LYD_PHY_STAT_PHY_LOCK, 8, 1), (F.LYD_PHY_STAT_SYNC_ST, 8, 2), (F.LYD_AGREE_STAT_ROLE, 0, 2), (F.LYD_AGREE_STAT_STAGE, 0, 4), (F.LYD_AGREE_STAT_AGREE_ID, 0, 7)]),
      8, [1, 7], by decide, by decide, by decide, by decide, by decide⟩,
    ⟨(puts live [(F.LYD_PHY_STAT_PHY_LOCK, 8, 1), (F.LYD_PHY_STAT_SYNC_ST, 8, 2), (F.LYD_AGREE_STAT_ROLE, 0, 1), (F.LYD_AGREE_STAT_STAGE, 0, 1), (F.LYD_PTR_SER_LO_VALUE, 8, 1)]),
      8, by decide, by decide, by decide, by decide, by decide⟩,
    ⟨(puts live [(F.LYD_PHY_STAT_PHY_LOCK, 0, 1), (F.LYD_PHY_STAT_SYNC_ST, 0, 2), (F.LRX_PROT_STAT_STATE, 0, 2), (F.LYD_PTR_INFO_VALID, 0, 1), (F.LRX_AM_SEQ_VALID, 0, 1)]),
      0, [0, 0, 0, 0, 0, 4], by decide, by decide, by decide, by decide⟩,
    ⟨(puts live [(F.LYD_PHY_STAT_PHY_LOCK, 8, 1), (F.LYD_PHY_STAT_SYNC_ST, 8, 2)]), 8, [], _, by decide, by
      decide, by decide, rfl⟩,
    ⟨(puts live [(F.LYD_PHY_STAT_PHY_LOCK, 8, 1), (F.LYD_PHY_STAT_SYNC_ST, 8, 2), (F.LYD_AGREE_STAT_ROLE, 0, 1), (F.LYD_AGREE_STAT_STAGE, 0, 3)]),
      8, [], by decide, by decide, by decide, by decide⟩,
    ⟨(puts live [(F.LYD_PHY_STAT_PHY_LOCK, 8, 1), (F.LYD_PHY_STAT_SYNC_ST, 8, 2), (F.LYD_AGREE_STAT_ROLE, 0, 1), (F.LYD_AGREE_STAT_STAGE, 0, 1), (F.LYD_AGREE_STAT_AGREE_ID, 0, 7), (F.LRX_AM_SEQ_SEQ, 0, 4095)]),
      8, [2, 7, 0, 0, 7, 255], _, by decide, by decide, by decide, by decide, rfl, by decide, by decide⟩,
    ⟨(puts live [(F.LYD_PHY_STAT_PHY_LOCK, 8, 1), (F.LYD_PHY_STAT_SYNC_ST, 8, 2), (F.LYD_AGREE_STAT_ROLE, 0, 1), (F.LYD_AGREE_STAT_STAGE, 0, 1), (F.LYD_AGREE_STAT_AGREE_ID, 0, 7), (F.LRX_AM_SEQ_SEQ, 0, 4095)]),
      8, [2, 7, 0, 0, 8, 0], _, by decide, by decide, by decide, by decide, rfl, by decide⟩,
    ⟨(puts live [(F.LYD_PHY_STAT_PHY_LOCK, 8, 1), (F.LYD_PHY_STAT_SYNC_ST, 8, 2), (F.LYD_AGREE_STAT_ROLE, 0, 2), (F.LYD_AGREE_STAT_STAGE, 0, 2)]),
      8, [], by decide, by decide, by decide, by decide, by decide⟩,
    ⟨(puts live [(F.LYD_PHY_STAT_PHY_LOCK, 8, 1), (F.LYD_PHY_STAT_SYNC_ST, 8, 2)]), 8, [], by decide, by decide,
      by decide⟩,
    ⟨(puts live [(F.LYD_PHY_STAT_PHY_LOCK, 8, 1), (F.LYD_PHY_STAT_SYNC_ST, 8, 2), (F.LYD_AGREE_STAT_ROLE, 0, 1), (F.LYD_AGREE_STAT_STAGE, 0, 6), (F.LYD_AGREE_STAT_AGREE_ID, 0, 7)]),
      8, [4, 7], by decide, by decide, by decide, by decide⟩,
    ⟨(puts live [(F.LYD_PHY_STAT_PHY_LOCK, 8, 1), (F.LYD_PHY_STAT_SYNC_ST, 8, 2)]), 8, by decide⟩⟩

theorem test_wit_CapstanCompletes :
    (∃ (s : State) (n : Line) (b : Bool) (pos : Nat), fpTakes n b pos s) ∧
    (∃ (s : State), s.coreOn) ∧
    (∃ (s : State) (e : Fin 6) (k : Fin 16) (dt : Fin 64) (w : CapCw) (since : Int) (t : Int), s.coreOn ∧ t =
      s.cap.now + Int.ofNat dt.val ∧ inFlight s e k dt = some (w, since) ∧ w.released = false ∧ w.converged =
      false ∧ since ≤ t - 8 ∧ ((8 ≤ dt.val → w.finished s.cap.maxIter (t - 8) = false)) ∧ 10 ≤ w.deadline - (t
      - 8)) ∧
    (∃ (s : State) (e : Fin 6) (k : Fin 16) (dt : Fin 64) (t : Int), t = s.cap.now + Int.ofNat dt.val ∧ inContext
      (capSettle t s) e k = none ∧ (capSettle t s).coreOn) ∧
    (∃ (s : State) (e : Fin 6) (k : Fin 16) (dt : Fin 64) (w : CapCw) (t : Int), t = s.cap.now + Int.ofNat dt.val ∧
      inContext (capSettle t s) e k = some w ∧ (capSettle t s).coreOn ∧ w.finished (capSettle t s).cap.maxIter
      t ∧ ((capSettle t s).cap.cws.filter fun v => v.place = some .writeback).length < 32) ∧
    (∃ (s : State) (e : Fin 6) (k : Fin 16) (dt : Fin 64) (w : CapCw) (t : Int), t = s.cap.now + Int.ofNat dt.val ∧
      inContext (capSettle t s) e k = some w ∧ (capSettle t s).coreOn ∧ w.finished (capSettle t s).cap.maxIter
      t ∧ 32 ≤ ((capSettle t s).cap.cws.filter fun v => v.place = some .writeback).length) ∧
    (∃ (s : State) (n : Line) (b : Bool) (dt : Fin 64) (pos : Nat) (w : CapCw) (t : Int), s.coreOn ∧ (n.val ≠ 8 ∨
      selSwitched s = false) ∧ t = s.cap.now + Int.ofNat dt.val ∧ relPos (capSettle t s) n b = some pos ∧
      relSwitched (capSettle t s) n = false ∧ cwWaits (capSettle t s) n b pos = some w ∧ relTime (capSettle t
      s) n (relPrev (capSettle t s) n b t) w ≤ t) ∧
    (∃ (s : State) (n : Line) (b : Bool) (dt : Fin 64) (pos : Nat) (t : Int), s.coreOn ∧ (n.val ≠ 8 ∨ selSwitched s
      = false) ∧ t = s.cap.now + Int.ofNat dt.val ∧ relPos (capSettle t s) n b = some pos ∧ relSwitched
      (capSettle t s) n) ∧
    (∃ (s : State), (s.protState = 2 ∨ s.protState = 3) ∧ s.lanes.prot.windowLeft = 0 ∧ (wasteBeyond s = false ∨
      s.lanes.prot.ratioReady = false ∨ s.lanes.prot.onRatio = false)) ∧
    (∃ (s : State), (s.protState = 2 ∨ s.protState = 3) ∧ s.lanes.prot.windowLeft = 0 ∧ wasteBeyond s ∧
      s.lanes.prot.ratioReady = true ∧ s.lanes.prot.onRatio = true) ∧
    (∃ (s : State) (m : MBox) (c : Cmd), s.fronts m 0x27 c ∧ c.capBad = false ∧ (c.on 4 9 = false ∨ deadlineHeld s
      = false) ∧ s.coreOn) :=
  ⟨⟨((moded live 7 3).modGrant fun g => { g with on := [.lrx 7] }), 7, true, 0, by decide⟩,
    ⟨live, by decide⟩,
    ⟨(caps live [(cw (some (.context 5 15)) 1000)]), 5, 15, 8, (cw (some (.context 5 15)) 1000), _, _, by decide,
      rfl, rfl, by decide, by decide, by decide, by decide, by decide⟩,
    ⟨live, 0, 0, 0, _, rfl, by decide, by decide⟩,
    ⟨(caps live [(cw (some (.context 5 15)) 0)]), 5, 15, 0, (cw (some (.context 5 15)) 0), _, rfl, by decide, by
      decide, by decide, by decide⟩,
    ⟨(caps live ((cw (some (.context 5 15)) 0) :: (List.range 32).map fun i => { cw (some .writeback) 100 with pos := i + 1, ready := some 100 })),
      5, 15, 0, (cw (some (.context 5 15)) 0), _, rfl, by decide, by decide, by decide, by decide⟩,
    ⟨(caps live [(cw none 10)]), 0, false, 10, 0, (cw none 10), _, by decide, by decide, rfl, by decide, by
      decide, by decide, by decide⟩,
    ⟨(caps (puts live [(F.LRX_PROT_STAT_STATE, 0, 3)]) [(cw none 10)]), 0, false, 0, 0, _, by decide, by decide,
      rfl, by decide, by decide⟩,
    ⟨(puts live [(F.LRX_PROT_STAT_STATE, 0, 2)]), by decide, by decide, by decide⟩,
    ⟨(((puts (puts live [(F.LRX_PROT_STAT_STATE, 0, 2)]) [(F.CAP_PROT_CFG_WASTE_TH, 0, 255)]).modCap fun c => { c with lanes := [(6, 1000000)] }).modProt
      fun p => { p with onRatio := true }), by decide, by decide, by decide, by decide, by decide⟩,
    ⟨(fr live [(cm 0x27 [0, 0, 384 + 2 ^ 9])]), 0, (cm 0x27 [0, 0, 384 + 2 ^ 9]), ⟨by decide, by decide⟩, by
      decide, by decide, by decide⟩⟩

theorem test_wit_LanyardLinkAndCommandsComplete :
    (∃ (s : State) (t : State) (n : Line) (data : RxData), rxData n data s = t ∧ t.flag F.LYD_CTRL_RX_EN n ∧ t.flag
      F.LYD_PHY_STAT_SETTLED n ∧ t.flag F.LRX_LOS_STAT_LOS n = false) ∧
    (∃ (s : State) (n : Line), s.powered (.lrx n)) ∧
    (∃ (s : State) (t : State) (n : Line) (x : Int) (y : Int), dcBlock n x s = (y, t) ∧ 39 ≤ (t.lydOf
      n).chain.count) ∧
    (∃ (s : State) (t : State) (n : Line) (hdr : List Byte) (body : List Byte) (fcs : List Byte), s.flag
      F.LYD_PHY_STAT_PHY_LOCK n ∧ t = lydBody n body (beVal fcs = crc32 body) s ∧ hdrGood hdr) ∧
    (∃ (s : State) (t : State) (n : Line) (hdr : List Byte) (body : List Byte) (fcs : List Byte), s.flag
      F.LYD_PHY_STAT_PHY_LOCK n ∧ t = lydBody n body (beVal fcs = crc32 body) s ∧ hdrGood hdr = false ∧ 2 ≤
      t.get F.LYD_PHY_STAT_SYNC_ST n) ∧
    (∃ (s : State) (n : Line), s.flag F.LYD_CTRL_TX_EN n) ∧
    (∃ (s : State) (n : Line), s.fw.running = true ∧ s.lydTxOn n) ∧
    (∃ (s : State) (n : Line), s.fw.running = true ∧ s.lydTxOn n ∧ s.get F.LYD_PER_TEL_PER ≠ 0) ∧
    (∃ (s : State) (n : Line), s.fw.running = true ∧ s.lydTxOn n ∧ s.get F.LYD_PER_TEL_PER ≠ 0) ∧
    (∃ (s : State) (n : Line), s.fw.running = true ∧ s.lydTxOn n ∧ s.get F.LYD_PER_TIME_PER ≠ 0) ∧
    (∃ (s : State) (m : MBox) (c : Cmd), s.fronts m 0x70 c ∧ ((c.bits 3 13 13 = 1 → 4 ≤ c.bits 3 12 8 ∧ c.bits 3 12
      8 ≤ 24)) ∧ ((c.bits 3 3 3 = 1 → ∀ n ∈ maskLanes 9 (c.bits 2 8 0), s.laneOn n = true))) ∧
    (∃ (s : State) (m : MBox) (c : Cmd), s.fronts m 0x71 c ∧ c.bits 2 3 0 ≤ 8 ∧ c.extLen ≠ 0 ∧ c.extLen ≤ 200 ∧
      s.partnerOf (c.bits 2 3 0) ∧ s.get F.LYD_PTR_CAP_CAP (c.bits 2 3 0) / 128 % 2 ≠ 0 ∧ (s.lydOf (c.bits 2 3
      0)).userTx.length < 4) ∧
    (∃ (s : State) (n : Line) (u : Nat × Nat) (rest : List (Nat × Nat)) (c : Cmd), (s.lydOf n).userTx = u :: rest ∧
      (userDrop n u.1 rest s).cmdById u.2 = some c) ∧
    (∃ (s : State) (m : MBox) (c : Cmd), s.fronts m 0x72 c ∧ c.bits 2 3 0 ≤ 8 ∧ c.bits 2 9 8 = 0) ∧
    (∃ (s : State) (m : MBox) (c : Cmd), s.fronts m 0x72 c ∧ c.bits 2 3 0 ≤ 8 ∧ c.bits 2 9 8 = 1) ∧
    (∃ (s : State) (m : MBox) (c : Cmd), s.fronts m 0x72 c ∧ c.bits 2 3 0 ≤ 8 ∧ c.bits 2 9 8 = 2) ∧
    (∃ (s : State) (m : MBox) (c : Cmd), s.fronts m 0x73 c) :=
  ⟨⟨(puts (lockd live 8 0) [(F.LYD_CTRL_RX_EN, 8, 1), (F.LYD_PHY_STAT_SETTLED, 8, 1)]), _, 8, [], rfl, by decide,
      by decide, by decide⟩,
    ⟨(live.modGrant fun g => { g with on := [.lrx 0] }), 0, by decide⟩,
    ⟨(live.modChain 8 fun c => { c with count := 39 }), _, 8, 0, _, rfl, by decide⟩,
    ⟨(puts live [(F.LYD_PHY_STAT_PHY_LOCK, 8, 1), (F.LYD_PHY_STAT_SYNC_ST, 8, 2)]), _, 8, ([0, 0] ++ [BitVec.ofNat 8 (crc16 [0, 0] / 256), BitVec.ofNat 8 (crc16 [0, 0])]),
      [], [], by decide, rfl, by decide⟩,
    ⟨(puts live [(F.LYD_PHY_STAT_PHY_LOCK, 8, 1), (F.LYD_PHY_STAT_SYNC_ST, 8, 2)]), _, 8, [], [], [], by decide,
      rfl, by decide, by decide⟩,
    ⟨(puts live [(F.LYD_CTRL_TX_EN, 8, 1), (F.OLC_STAT_STATE, 8, 3), (F.LTX_SLIP_STAT_SQUELCHED, 8, 0), (F.LYD_PER_TEL_PER, 0, 1), (F.LYD_PER_TIME_PER, 0, 1)]),
      8, by decide⟩,
    ⟨(puts live [(F.LYD_CTRL_TX_EN, 8, 1), (F.OLC_STAT_STATE, 8, 3), (F.LTX_SLIP_STAT_SQUELCHED, 8, 0), (F.LYD_PER_TEL_PER, 0, 1), (F.LYD_PER_TIME_PER, 0, 1)]),
      8, by decide, by decide⟩,
    ⟨(puts live [(F.LYD_CTRL_TX_EN, 8, 1), (F.OLC_STAT_STATE, 8, 3), (F.LTX_SLIP_STAT_SQUELCHED, 8, 0), (F.LYD_PER_TEL_PER, 0, 1), (F.LYD_PER_TIME_PER, 0, 1)]),
      8, by decide, by decide, by decide⟩,
    ⟨(puts live [(F.LYD_CTRL_TX_EN, 8, 1), (F.OLC_STAT_STATE, 8, 3), (F.LTX_SLIP_STAT_SQUELCHED, 8, 0), (F.LYD_PER_TEL_PER, 0, 1)]),
      8, by decide, by decide, by decide⟩,
    ⟨(puts live [(F.LYD_CTRL_TX_EN, 8, 1), (F.OLC_STAT_STATE, 8, 3), (F.LTX_SLIP_STAT_SQUELCHED, 8, 0), (F.LYD_PER_TEL_PER, 0, 1), (F.LYD_PER_TIME_PER, 0, 1)]),
      8, by decide, by decide, by decide⟩,
    ⟨(fr live [(cm 0x70 [0x1FF, 2 ^ 13 + 24 * 2 ^ 8 + 8])]), 0, (cm 0x70 [0x1FF, 2 ^ 13 + 24 * 2 ^ 8 + 8]), ⟨by
      decide, by decide⟩, by decide, by decide⟩,
    ⟨(fr (puts live [(F.LYD_PTR_INFO_VALID, 8, 1), (F.LYD_PTR_CAP_CAP, 8, 255)]) [(cm 0x71 [8] (ext := 200))]), 0,
      (cm 0x71 [8] (ext := 200)), ⟨by decide, by decide⟩, by decide, by decide, by decide, by decide, by
      decide, by decide⟩,
    ⟨(fr (live.modLyd 8 fun l => { l with userTx := [(4, 1)] }) [cm 0x71 [8]]), 8, (4, 1), [], (cm 0x71 [8]), by
      decide, by decide⟩,
    ⟨(fr up [(cm 0x72 [8])]), 0, (cm 0x72 [8]), ⟨by decide, by decide⟩, by decide, by decide⟩,
    ⟨(fr up [(cm 0x72 [0x108])]), 0, (cm 0x72 [0x108]), ⟨by decide, by decide⟩, by decide, by decide⟩,
    ⟨(fr up [(cm 0x72 [0x208])]), 0, (cm 0x72 [0x208]), ⟨by decide, by decide⟩, by decide, by decide⟩,
    ⟨(fr up [(cm 0x73 [])]), 0, (cm 0x73 []), ⟨by decide, by decide⟩⟩⟩

theorem test_wit_LanyardReceptionCompletes :
    (∃ (s : State) (n : Line), s.delivers n) ∧
    (∃ (s : State) (n : Line), s.partnerOf n) ∧
    (∃ (s : State) (n : Line), s.delivers n) ∧
    (∃ (s : State) (n : Line), s.delivers n) ∧
    (∃ (s : State) (t : State) (n : Line) (flags : BitVec 8) (b : List Byte) (pilot : BitVec 48) (t4 : Stamp),
      s.delivers n ∧ t = timeTaken n b pilot (s.frameIn n) ∧ rxStampOf t n (cval b 2 2 % 4096) = some t4 ∧
      cbyte b 1 % 2 = 1 ∧ cbyte b 1 / 2 % 2 = 1 ∧ t.timeInvalid = false ∧ flags.getLsbD 1 = false) ∧
    (∃ (s : State) (n : Line) (b : List Byte), s.delivers n ∧ cbyte b 2 ≤ 8 ∧ (s.frameIn n).partnerOf n ∧
      txadjKnown (cbyte b 2) (cbyte b 1) ((s.frameIn n).partnerSerial n) (s.frameIn n) = none ∧ ((s.frameIn
      n).lydOf (cbyte b 2)).waiting ≠ some ((s.frameIn n).partnerSerial n, cbyte b 1) ∧ txadjAllows (cbyte b
      2) ((s.frameIn n).partnerSerial n) (s.frameIn n) ∧ txadjHeld (cbyte b 2) ((s.frameIn n).partnerSerial n)
      b (s.frameIn n) = false) ∧
    (∃ (s : State) (n : Line) (b : List Byte), s.delivers n ∧ cbyte b 2 ≤ 8 ∧ (s.frameIn n).partnerOf n ∧
      txadjKnown (cbyte b 2) (cbyte b 1) ((s.frameIn n).partnerSerial n) (s.frameIn n) = none ∧ ((s.frameIn
      n).lydOf (cbyte b 2)).waiting ≠ some ((s.frameIn n).partnerSerial n, cbyte b 1) ∧ txadjAllows (cbyte b
      2) ((s.frameIn n).partnerSerial n) (s.frameIn n) = false) ∧
    (∃ (s : State) (n : Line) (b : List Byte), s.delivers n ∧ cbyte b 1 / 16 < cbyte b 1 % 16 ∧ cbyte b 1 % 16 ≤ 4) ∧
    (∃ (s : State) (n : Line) (id : BitVec 8), (∃ u ∈ (s.lydOf n).userRx, u.id = id.toNat)) :=
  ⟨⟨(puts live [(F.LYD_PHY_STAT_PHY_LOCK, 8, 1), (F.LYD_PHY_STAT_SYNC_ST, 8, 2)]), 8, by decide⟩,
    ⟨(puts live [(F.LYD_PHY_STAT_PHY_LOCK, 8, 1), (F.LYD_PHY_STAT_SYNC_ST, 8, 2), (F.LYD_PTR_INFO_VALID, 8, 1)]),
      8, by decide⟩,
    ⟨(puts live [(F.LYD_PHY_STAT_PHY_LOCK, 8, 1), (F.LYD_PHY_STAT_SYNC_ST, 8, 2)]), 8, by decide⟩,
    ⟨(puts live [(F.LYD_PHY_STAT_PHY_LOCK, 8, 1), (F.LYD_PHY_STAT_SYNC_ST, 8, 2)]), 8, by decide⟩,
    ⟨((puts live [(F.LYD_PHY_STAT_PHY_LOCK, 8, 1), (F.LYD_PHY_STAT_SYNC_ST, 8, 2), (F.TIM_STAT_TIME_INVALID, 0, 0)]).modRx
      8 fun x => { x with history := [(0, { coarse := false, invalid := false, seqValid := true, lane := 8, seq := 4095, tod := 0 })] }),
      _, 8, 0, [0, 3, 0x0F, 0xFF], 0, _, by decide, rfl, rfl, by decide, by decide, by decide, by decide⟩,
    ⟨(puts live [(F.LYD_PHY_STAT_PHY_LOCK, 8, 1), (F.LYD_PHY_STAT_SYNC_ST, 8, 2), (F.LYD_PTR_INFO_VALID, 8, 1), (F.LYD_TXADJ_POL_MODE, 8, 1), (F.LYD_PTR_INFO_HEARD, 8, 8)]),
      8, [0, 1, 8], by decide, by decide, by decide, by decide, by decide, by decide, by decide⟩,
    ⟨(puts live [(F.LYD_PHY_STAT_PHY_LOCK, 8, 1), (F.LYD_PHY_STAT_SYNC_ST, 8, 2), (F.LYD_PTR_INFO_VALID, 8, 1), (F.LYD_TXADJ_POL_MODE, 8, 0)]),
      8, [0, 1, 8], by decide, by decide, by decide, by decide, by decide, by decide⟩,
    ⟨(puts live [(F.LYD_PHY_STAT_PHY_LOCK, 8, 1), (F.LYD_PHY_STAT_SYNC_ST, 8, 2)]), 8, [0, 0x34], by decide, by
      decide, by decide⟩,
    ⟨(live.modLyd 8 fun l => { l with userRx := [{ id := 255, count := 2, frags := [] }] }), 8, 255, by decide⟩⟩

theorem test_wit_BootAndFirmwareComplete :
    (∃ (s : State), s.pwr.held = true ∧ s.pwr.vin = true) ∧
    (∃ (s : State) (t : State), s.pwr.held = false ∧ s.fw.released = false ∧ s.flag F.TOP_BOOT_STAT_HELD = false ∧
      s.bst.noRigger = false ∧ t = s.noteFail (slotFail s s.fw.committed)) ∧
    (∃ (s : State) (r : Restart), s.fw.restart = some r) ∧
    (∃ (s : State), s.fw.wdog = true ∧ s.flag F.TOP_WDOG_CFG_EN) ∧
    (∃ (s : State) (t : State) (r : Restart) (other : Bool), s.fw.restart = some r ∧ r.loaded = false ∧ other = (if
      r.slotB = r.prev then !r.prev else r.prev) ∧ t = ((s.noteFail (slotFail s r.slotB)).modFw fun f => { f with stagedRuns := f.stagedRuns && !r.run })) ∧
    (∃ (s : State) (m : MBox) (c : Cmd), s.fronts m 0xA0 c) ∧
    (∃ (s : State) (m : MBox) (c : Cmd), s.fronts m 0xA1 c ∧ c.bits 2 0 0 = 0 ∧ s.fw.write = none) ∧
    (∃ (s : State) (m : MBox) (c : Cmd), s.fronts m 0xA1 c ∧ c.bits 2 0 0 = 1 ∧ s.fw.write = none) ∧
    (∃ (s : State) (m : MBox) (c : Cmd), s.fronts m 0xA2 c ∧ c.bits 10 0 0 = 0) ∧
    (∃ (s : State) (m : MBox) (c : Cmd), s.fronts m 0xA2 c ∧ c.bits 10 0 0 = 1) ∧
    (∃ (s : State), s.mbx.policyBits.getLsbD 5 = true ∧ s.fw.otp.dbgPermanent = false ∧ s.fw.debugFails < 3) ∧
    (∃ (s : State), s.scanOpen) :=
  ⟨⟨(State.reset.modPwr fun p => { p with vin := true, held := true }), by decide, by decide⟩,
    ⟨(puts up [(F.TOP_BOOT_STAT_HELD, 0, 0)]), _, by decide, by decide, by decide, by decide, rfl⟩,
    ⟨(live.modFw fun f => { f with restart := some { cause := 1, slotB := true, prev := false, run := false, cmd := none } }),
      _, rfl⟩,
    ⟨(live.modFw fun f => { f with wdog := true }), by decide, by decide⟩,
    ⟨(live.modFw fun f => { f with restart := some { cause := 1, slotB := true, prev := false, run := false, cmd := none } }),
      _, { cause := 1, slotB := true, prev := false, run := false, cmd := none }, _, by decide, by decide,
      rfl, rfl⟩,
    ⟨(fr up [(cm 0xA0 [])]), 0, (cm 0xA0 []), ⟨by decide, by decide⟩⟩,
    ⟨(fr up [(cm 0xA1 [0])]), 0, (cm 0xA1 [0]), ⟨by decide, by decide⟩, by decide, by decide⟩,
    ⟨(fr up [(cm 0xA1 [1])]), 0, (cm 0xA1 [1]), ⟨by decide, by decide⟩, by decide, by decide⟩,
    ⟨(fr up [(cm 0xA2 [0])]), 0, (cm 0xA2 [0]), ⟨by decide, by decide⟩, by decide⟩,
    ⟨(fr up [(cm 0xA2 [0, 0, 0, 0, 0, 0, 0, 0, 1])]), 0, (cm 0xA2 [0, 0, 0, 0, 0, 0, 0, 0, 1]), ⟨by decide, by
      decide⟩, by decide⟩,
    ⟨up, by decide, by decide, by decide⟩,
    ⟨(live.modFw fun f => { f with debug := .factory }), by decide⟩⟩

theorem test_wit_CdbFirmwareCompletes :
    (∃ (s : State) (len : Nat) (h : List Byte), s.cdbTakes ∧ s.fw.write = none ∧ h.length ≤ 112 ∧ len ≤ areaSize
      (h.getD 6 0).toNat) ∧
    (∃ (s : State), s.cdbTakes) ∧
    (∃ (s : State) (d : Download), s.cdbTakes ∧ s.fw.download = some d) ∧
    (∃ (s : State) (w : FlashWrite), s.fw.write = some w ∧ s.hws.pushed ≠ 1) ∧
    (∃ (s : State) (w : FlashWrite), s.fw.write = some w ∧ s.hws.pushed ≠ 1) ∧
    (∃ (s : State) (w : FlashWrite), s.fw.write = some w ∧ s.hws.pushed = 1) ∧
    (∃ (s : State) (mode : Byte) (b : Bool), s.cdbTakes ∧ mode.toNat ≤ 1 ∧ s.fw.write = none ∧ s.fw.completed =
      some b) ∧
    (∃ (s : State) (t : State), s.cdbTakes ∧ commitImage s = some t) ∧
    (∃ (s : State), s.cdbTakes) ∧
    (∃ (s : State), s.cdbTakes) :=
  ⟨⟨up, 0x600000, [0, 0, 0, 0, 0, 0, 1], by decide, by decide, by decide, by decide⟩,
    ⟨up, by decide⟩,
    ⟨(live.modFw fun f => { f with download := some { len := 5 } }), _, by decide, rfl⟩,
    ⟨(live.modFw fun f => { f with write := some { type := 1, slotB := true, len := 5 } }), _, rfl, by decide⟩,
    ⟨(live.modFw fun f => { f with write := some { type := 1, slotB := true, len := 5 } }), _, rfl, by decide⟩,
    ⟨((live.modFw fun f => { f with write := some { type := 1, slotB := true, len := 5 } }).modHws fun h => { h with pushed := 1 }),
      _, rfl, by decide⟩,
    ⟨(live.modFw fun f => { f with completed := some true }), 1, true, by decide, by decide, by decide, by decide⟩,
    ⟨live, _, by decide, rfl⟩,
    ⟨up, by decide⟩,
    ⟨up, by decide⟩⟩

theorem test_wit_DataPathCommandsComplete :
    (∃ (s : State) (b : Fin 2) (k : Fin 2) (mask : BitVec 8), s.cmisRuns ∧ applyCheck s b k (laneMask mask) =
      .success) ∧
    (∃ (s : State) (b : Fin 2) (k : Fin 2) (mask : BitVec 8), s.cmisRuns ∧ (∀ i ∈ laneMask mask, appKept b k i s =
      true) ∧ (∀ i ∈ laneMask mask, siBad b k i s = false)) ∧
    (∃ (s : State) (h : HLane) (i : Nat), s.cmisRuns ∧ s.pathAt h = some i) ∧
    (∃ (s : State) (t : State) (b : Fin 2) (v : BitVec 8), t = s.setCmisByte b 0x10 128 v.toNat ∧ t.cmisRuns) ∧
    (∃ (s : State) (t : State) (b : Fin 2) (v : BitVec 4), t = s.setCmisByte b 0x10 130 v.toNat ∧ t.cmisRuns) :=
  ⟨⟨(live.setCmisByte 0 0x10 148 0x56), 0, 0, 8, by decide, by decide⟩,
    ⟨((live.setCmisByte 0 0x10 148 0x56).modCmis fun c => { c with paths := [{ host := [3], line := [3], cfg := [(3, 2)], state := .activated }] }),
      0, 0, 8, by decide, by decide, by decide⟩,
    ⟨((live.setCmisByte 0 0x10 148 0x56).modCmis fun c => { c with paths := [{ host := [3], line := [3], cfg := [(3, 2)], state := .activated }] }),
      3, 0, by decide, by decide⟩,
    ⟨live, _, 1, 255, rfl, by decide⟩,
    ⟨live, _, 1, 15, rfl, by decide⟩⟩

theorem test_wit_PowerCompletes :
    (∃ (s : State), s.cmis.mod = .pwrUp ∧ s.grant.running = some .vcore) ∧
    (∃ (s : State), s.cmis.mod = .pwrDn ∧ ((∀ n, n < 9 → s.laneState n = 0 ∧ s.laneTrans n = false))) ∧
    (∃ (s : State), s.active ∧ s.assigned = false ∧ s.flag F.PWR_CLK_STAT_CORE_LOCK) ∧
    (∃ (s : State), s.grant.running = some .core) ∧
    (∃ (s : State), s.pwr.held = false ∧ s.cmis.mod = .noAnswer ∧ (s.fw.running = true ∨ s.get F.TOP_BOOT_STAT_BOOT
      / 128 % 2 = 1 ∨ s.bst.noRigger = true)) ∧
    (∃ (s : State) (m : MBox) (c : Cmd), s.fronts m 0x06 c ∧ ((c.on 2 4 → 10 ≤ c.bits 2 31 16)) ∧ c.bits 3 0 0 = 0) ∧
    (∃ (s : State) (m : MBox) (c : Cmd), s.fronts m 0x06 c ∧ ((c.on 2 4 → 10 ≤ c.bits 2 31 16)) ∧ c.bits 3 0 0 = 1
      ∧ s.cmis.mod = .lowPwr) ∧
    (∃ (s : State) (m : MBox) (c : Cmd), s.fronts m 0x07 c) ∧
    (∃ (s : State), s.pwr.held = false) ∧
    (∃ (s : State) (t : State), s.pwr.held = false ∧ s.flag F.PWR_CLK_STAT_AON_SRC = false ∧ t = (s.put
      F.PWR_CLK_STAT_AON_SRC 1).put F.TIM_STAT_CLKSRC 1) ∧
    (∃ (s : State) (t : State), s.pwr.held = false ∧ s.flag F.PWR_CLK_STAT_AON_SRC ∧ t = ((s.put
      F.PWR_CLK_STAT_AON_SRC 0).put F.TIM_STAT_CLKSRC 0).put F.PWR_STATE_REF_LOST 0) ∧
    (∃ (s : State) (b : Fin 27), s.pwr.enable.contains b.val) ∧
    (∃ (s : State), s.pwr.vin = false) ∧
    (∃ (s : State), s.pwr.vin = false) ∧
    (∃ (s : State), s.pwr.held = true ∧ s.pwr.vin = true) ∧
    (∃ (s : State), s.pwr.vin = true) ∧
    (∃ (s : State), s.pwr.vin = true) :=
  ⟨⟨((live.modCmis fun c => { c with mod := .pwrUp }).modGrant fun g => { g with running := some .vcore }), by
      decide, by decide⟩,
    ⟨(live.modCmis fun c => { c with mod := .pwrDn }), by decide, by decide⟩,
    ⟨live, by decide, by decide, by decide⟩,
    ⟨(live.modGrant fun g => { g with running := some .core }), by decide⟩,
    ⟨live, by decide, by decide, by decide⟩,
    ⟨(fr up [(cm 0x06 [10 * 2 ^ 16 + 16, 0])]), 0, (cm 0x06 [10 * 2 ^ 16 + 16, 0]), ⟨by decide, by decide⟩, by
      decide, by decide⟩,
    ⟨(fr (live.modCmis fun c => { c with mod := .lowPwr }) [(cm 0x06 [0, 1])]), 0, (cm 0x06 [0, 1]), ⟨by decide,
      by decide⟩, by decide, by decide, by decide⟩,
    ⟨(fr up [(cm 0x07 [])]), 0, (cm 0x07 []), ⟨by decide, by decide⟩⟩,
    ⟨live, by decide⟩,
    ⟨(puts up [(F.PWR_CLK_STAT_AON_SRC, 0, 0)]), _, by decide, by decide, rfl⟩,
    ⟨(puts up [(F.PWR_CLK_STAT_AON_SRC, 0, 1)]), _, by decide, by decide, rfl⟩,
    ⟨(up.modPwr fun p => { p with enable := [26] }), 26, by decide⟩,
    ⟨State.reset, by decide⟩,
    ⟨State.reset, by decide⟩,
    ⟨(State.reset.modPwr fun p => { p with vin := true, held := true }), by decide, by decide⟩,
    ⟨up, by decide⟩,
    ⟨up, by decide⟩⟩

theorem test_wit_AnchorCommandsComplete :
    (∃ (s : State), s.flag F.PWR_ANCHOR_CFG_AUTO) ∧
    (∃ (s : State), s.pwr.entry = .halting ∧ refuser s = 0) ∧
    (∃ (s : State), s.pwr.entry = .halting ∧ refuser s ≠ 0) ∧
    (∃ (s : State) (cleat : Bool), s.pwr.entry = .window ∧ levelWake cleat (anchorReached s) = none) ∧
    (∃ (s : State) (cleat : Bool) (k : Nat), s.pwr.entry = .window ∧ levelWake cleat (anchorReached s) = some k) ∧
    (∃ (s : State), s.lowWanted = false) ∧
    (∃ (s : State), alarmHolds s) ∧
    (∃ (s : State), s.inAnchor ∧ s.pwr.wake ≠ none) ∧
    (∃ (s : State) (k : Nat), s.pwr.wake = some k ∧ s.inAnchor = false) :=
  ⟨⟨(puts up [(F.PWR_ANCHOR_CFG_AUTO, 0, 1)]), by decide⟩,
    ⟨(up.modPwr fun p => { p with entry := .halting }), by decide, by decide⟩,
    ⟨(puts (up.modPwr fun p => { p with entry := .halting }) [(F.HWS_PORT_STAT_STATE, 2, 5)]), by decide, by
      decide⟩,
    ⟨((up.modCmis fun c => { c with lowPin := true, bytes := [(26, 0x40)] }).modPwr fun p => { p with entry := .window }),
      false, by decide, by decide⟩,
    ⟨((up.modCmis fun c => { c with lowPin := true, bytes := [(26, 0x40)] }).modPwr fun p => { p with entry := .window }),
      true, 5, by decide, by decide⟩,
    ⟨(up.setCmisByte 0 0 26 0), by decide⟩,
    ⟨(puts up [(F.MON_WIN_CFG_EN, 79, 1), (F.MON_WIN_CFG_IRQ_EN, 79, 1), (F.MON_WIN_STAT_ZONE, 79, 3)]), by
      decide⟩,
    ⟨((puts up [(F.PWR_STATE_STATE, 0, 1)]).modPwr fun p => { p with wake := some 2 }), by decide, by decide⟩,
    ⟨((puts up [(F.PWR_STATE_STATE, 0, 2)]).modPwr fun p => { p with wake := some 2 }), 2, by decide, by decide⟩⟩

theorem test_wit_ServiceCommandsComplete :
    (∃ (s : State) (m : MBox) (c : Cmd), s.fronts m 0x90 c ∧ (∀ b ∈ maskLanes 22 (c.bits 2 21 0), b ≠ 13 ∧ b ≠ 14 ∧
      b ≠ 16 ∧ b ≠ 18 ∧ bistOff s b = false) ∧ bistConflict s (maskLanes 22 (c.bits 2 21 0)) (c.bits 3 0 0 =
      1) = false ∧ maskLanes 22 (c.bits 2 21 0) ≠ []) ∧
    (∃ (s : State) (b : Nat) (rest : List Nat), s.bst.left = b :: rest) ∧
    (∃ (s : State) (m : MBox) (c : Cmd), s.fronts m 0x91 c ∧ c.bits 2 1 0 = 0) ∧
    (∃ (s : State) (m : MBox) (c : Cmd), s.fronts m 0x91 c ∧ c.bits 2 1 0 = 1) ∧
    (∃ (s : State) (m : MBox) (c : Cmd), s.fronts m 0x91 c ∧ c.bits 2 1 0 = 2) ∧
    (∃ (s : State) (e : Nat) (rest : List Nat), s.ecc.ledgerPending = e :: rest) ∧
    (∃ (s : State), s.pwr.held = false) ∧
    (∃ (s : State), (60 ≤ s.bst.lifeAge ∨ s.cmis.mod = .pwrDn)) :=
  ⟨⟨(fr up [(cm 0x90 [0x81, 0])]), 0, (cm 0x90 [0x81, 0]), ⟨by decide, by decide⟩, by decide, by decide, by
      decide⟩,
    ⟨(live.modBst fun b => { b with left := [21] }), 21, [], by decide⟩,
    ⟨(fr up [(cm 0x91 [0])]), 0, (cm 0x91 [0]), ⟨by decide, by decide⟩, by decide⟩,
    ⟨(fr up [(cm 0x91 [1])]), 0, (cm 0x91 [1]), ⟨by decide, by decide⟩, by decide⟩,
    ⟨(fr up [(cm 0x91 [2])]), 0, (cm 0x91 [2]), ⟨by decide, by decide⟩, by decide⟩,
    ⟨(live.modEcc fun e => { e with retired := [7], ledgerPending := [0] }), 0, [], by decide⟩,
    ⟨live, by decide⟩,
    ⟨(live.modBst fun b => { b with lifeAge := 60 }), by decide⟩⟩

theorem test_wit_HawserLinkCompletes :
    (∃ (s : State) (p : Port), s.get F.HWS_PORT_STAT_STATE p = 1 ∧ (edgeWake 4 s).mgmtOn) ∧
    (∃ (s : State) (t : State) (p : Port) (pre : Fin 3) (post : Fin 3) (askPre : Fin 3) (askPost : Fin 3) (done :
      Bool), s.get F.HWS_PORT_STAT_STATE p = 2 ∧ t = trainAsk p done askPre askPost (trainStep p pre post s)) ∧
    (∃ (s : State) (p : Port), s.get F.HWS_PORT_STAT_STATE p = 3) ∧
    (∃ (s : State) (p : Port), s.get F.HWS_PORT_STAT_STATE p = 4) ∧
    (∃ (s : State) (p : Port), s.get F.HWS_PORT_STAT_STATE p = 2) ∧
    (∃ (s : State) (p : Port), (s.get F.HWS_PORT_STAT_STATE p = 3 ∨ s.get F.HWS_PORT_STAT_STATE p = 4)) ∧
    (∃ (s : State) (p : Port), s.get F.HWS_PORT_STAT_STATE p = 0) ∧
    (∃ (s : State) (p : Port), s.get F.HWS_PORT_STAT_STATE p ≠ 0) ∧
    (∃ (s : State) (p : Port), 4 ≤ s.get F.HWS_PORT_STAT_STATE p ∧ s.flag F.HWS_PORT_STAT_BLOCKED p = false) ∧
    (∃ (s : State) (p : Port), 4 ≤ s.get F.HWS_PORT_STAT_STATE p ∧ s.flag F.HWS_PORT_STAT_BLOCKED p = false) ∧
    (∃ (s : State), s.leads ∧ s.hws.report = true ∧ s.hws.disc = none) ∧
    (∃ (s : State) (u : Port), s.portOpen u) ∧
    (∃ (s : State) (p : Port), s.portOpen p) ∧
    (∃ (s : State) (p : Nat), s.upstream = some p) ∧
    (∃ (s : State) (p : Port), portCarries s p true) ∧
    (∃ (s : State) (p : Port) (t1 : Int), s.upstream = some p.val ∧ s.hws.t1 = some t1) ∧
    (∃ (s : State) (t : State) (head : Bool), t = (s.modGrant fun g => { g with tkIn := true, head := head, passed := false, tkOut := false })) ∧
    (∃ (s : State), s.grant.head = true ∧ s.grant.passed = true) ∧
    (∃ (s : State) (t : State) (low : Bool) (p : PStep), t = (s.modGrant fun g => { g with reqIn := low }) ∧
      t.grant.running = some p) ∧
    (∃ (s : State) (t : State) (low : Bool), t = (s.modGrant fun g => { g with reqIn := low }) ∧ t.grant.running =
      none) :=
  ⟨⟨(puts live [(F.HWS_PORT_STAT_STATE, 2, 1)]), 2, by decide, by decide⟩,
    ⟨(puts live [(F.HWS_PORT_STAT_STATE, 2, 2)]), _, 2, 0, 0, 0, 0, false, by decide, rfl⟩,
    ⟨(puts live [(F.HWS_PORT_STAT_STATE, 2, 3)]), 2, by decide⟩,
    ⟨(puts live [(F.HWS_PORT_STAT_STATE, 2, 4)]), 2, by decide⟩,
    ⟨(puts live [(F.HWS_PORT_STAT_STATE, 2, 2)]), 2, by decide⟩,
    ⟨(puts live [(F.HWS_PORT_STAT_STATE, 2, 4)]), 2, by decide⟩,
    ⟨up, 0, by decide⟩,
    ⟨(puts live [(F.HWS_PORT_STAT_STATE, 2, 3)]), 2, by decide⟩,
    ⟨(puts live [(F.HWS_PORT_STAT_STATE, 2, 4)]), 2, by decide, by decide⟩,
    ⟨(puts live [(F.HWS_PORT_STAT_STATE, 2, 5)]), 2, by decide, by decide⟩,
    ⟨((puts live [(F.HWS_GANG_STAT_HOSTBUS, 0, 1)]).modHws fun h => { h with report := true }), by decide, by
      decide, by decide⟩,
    ⟨(puts live [(F.HWS_PORT_STAT_STATE, 2, 5)]), 2, by decide⟩,
    ⟨(puts live [(F.HWS_PORT_STAT_STATE, 2, 5)]), 2, by decide⟩,
    ⟨(puts (puts live [(F.HWS_PORT_STAT_STATE, 2, 5)]) [(F.HWS_DISC_STAT_UP_PORT, 0, 2), (F.HWS_GANG_STAT_HOSTBUS, 0, 0)]),
      2, by decide⟩,
    ⟨(puts live [(F.HWS_PORT_STAT_STATE, 2, 5)]), 2, by decide⟩,
    ⟨((puts (puts live [(F.HWS_PORT_STAT_STATE, 2, 5)]) [(F.HWS_DISC_STAT_UP_PORT, 0, 2), (F.HWS_GANG_STAT_HOSTBUS, 0, 0)]).modHws
      fun h => { h with t1 := some 5 }), 2, 5, by decide, by decide⟩,
    ⟨up, _, false, rfl⟩,
    ⟨(live.modGrant fun g => { g with head := true, passed := true }), by decide, by decide⟩,
    ⟨(live.modGrant fun g => { g with running := some .vlas }), _, false, .vlas, rfl, by decide⟩,
    ⟨live, _, false, rfl, by decide⟩⟩

theorem test_wit_ManagementControlsComplete :
    (∃ (s : State) (p : PinLevel), (resetLow s p = true ∧ 10000 ≤ p.ns.toNat)) ∧
    (∃ (s : State) (p : PinLevel), (resetLow s p = false ∨ p.ns.toNat < 10000)) ∧
    (∃ (s : State), s.cmis.priv = true ∧ s.mbx.policyBits.getLsbD 3 = true) ∧
    (∃ (s : State), s.cmisRuns) ∧
    (∃ (s : State), s.cmisRuns) ∧
    (∃ (s : State), s.cmisRuns) :=
  ⟨⟨State.reset, { mv := some 0, ns := 10000 }, by decide⟩,
    ⟨State.reset, { mv := some 0, ns := 9999 }, by decide⟩,
    ⟨((live.modCmis fun c => { c with priv := true }).modMbx fun x => { x with policyBits := 8 }), by decide, by
      decide⟩,
    ⟨live, by decide⟩,
    ⟨live, by decide⟩,
    ⟨live, by decide⟩⟩

theorem test_wit_KnotCommandsComplete :
    (∃ (s : State) (m : MBox) (c : Cmd) (k : Nat), s.fronts m 0x40 c ∧ freeKnot s = some k) ∧
    (∃ (s : State) (m : MBox) (c : Cmd) (k : Nat) (all : List KEntry), s.fronts m 0x41 c ∧ c.bits 2 18 16 ≤ 6 ∧
      knotOf c s = .ok k ∧ all = (stagedEntries c s).foldl stageEntry (s.knot k).entries ∧ stageRefusal k
      (stagedEntries c s) all s = none) ∧
    (∃ (s : State) (m : MBox) (c : Cmd) (k : Nat), s.fronts m 0x42 c ∧ c.bits 3 1 0 = 0 ∧ knotOf c s = .ok k ∧
      cinchRefusal 0 c k s = none) ∧
    (∃ (s : State) (m : MBox) (c : Cmd) (k : Nat), s.fronts m 0x42 c ∧ c.bits 3 1 0 = 1 ∧ knotOf c s = .ok k ∧
      cinchRefusal 1 c k s = none) ∧
    (∃ (s : State) (m : MBox) (c : Cmd) (k : Nat), s.fronts m 0x42 c ∧ c.bits 3 1 0 = 2 ∧ knotOf c s = .ok k ∧
      cinchRefusal 2 c k s = none) ∧
    (∃ (s : State) (m : MBox) (c : Cmd) (k : Nat), s.fronts m 0x43 c ∧ knotOf c s = .ok k ∧ s.knotState k ≤ 2) ∧
    (∃ (s : State) (m : MBox) (c : Cmd), s.fronts m 0x44 c) ∧
    (∃ (s : State) (k : Fin 8), s.knotState k = 1 ∧ (s.knot k).checking = false ∧ s.get F.KNT_CTRL_IDLE ≠ 0) ∧
    (∃ (s : State) (k : Fin 8), s.get F.KNT_SLOT_INFO_KIND k = 1 ∧ s.knotState k = 2) ∧
    (∃ (s : State) (k : Fin 8), s.get F.KNT_SLOT_INFO_KIND k = 1 ∧ s.knotState k = 4) :=
  ⟨⟨(fr (puts up [(F.KNT_SLOT_STAT_STATE, 0, 1), (F.KNT_SLOT_STAT_STATE, 1, 1), (F.KNT_SLOT_STAT_STATE, 2, 1), (F.KNT_SLOT_STAT_STATE, 3, 1), (F.KNT_SLOT_STAT_STATE, 4, 1), (F.KNT_SLOT_STAT_STATE, 5, 1), (F.KNT_SLOT_STAT_STATE, 6, 1)])
      [(cm 0x40 [])]), 0, (cm 0x40 []), 7, ⟨by decide, by decide⟩, by decide⟩,
    ⟨(fr (puts up [(F.KNT_SLOT_STAT_STATE, 7, 1)]) [(cm 0x41 [0x10007, 0x20000000, 2])]), 0, (cm 0x41 [0x10007, 0x20000000, 2]),
      7, _, ⟨by decide, by decide⟩, by decide, by decide, rfl, by decide⟩,
    ⟨(fr (puts up [(F.KNT_SLOT_STAT_STATE, 7, 1)]) [(cm 0x42 [7, 0])]), 0, (cm 0x42 [7, 0]), 7, ⟨by decide, by
      decide⟩, by decide, by decide, by decide⟩,
    ⟨(fr (puts up [(F.KNT_SLOT_STAT_STATE, 7, 1)]) [(cm 0x42 [7, 0x10001])]), 0, (cm 0x42 [7, 0x10001]), 7, ⟨by
      decide, by decide⟩, by decide, by decide, by decide⟩,
    ⟨(fr (puts up [(F.KNT_SLOT_STAT_STATE, 7, 1)]) [(cm 0x42 [7, 2, 0, 0, 999999999])]), 0, (cm 0x42 [7, 2, 0, 0, 999999999]),
      7, ⟨by decide, by decide⟩, by decide, by decide, by decide⟩,
    ⟨(fr (puts up [(F.KNT_SLOT_STAT_STATE, 7, 2)]) [(cm 0x43 [7])]), 0, (cm 0x43 [7]), 7, ⟨by decide, by decide⟩,
      by decide, by decide⟩,
    ⟨(fr up [(cm 0x44 [])]), 0, (cm 0x44 []), ⟨by decide, by decide⟩⟩,
    ⟨(puts up [(F.KNT_SLOT_STAT_STATE, 7, 1)]), 7, by decide, by decide, by decide⟩,
    ⟨(puts up [(F.KNT_SLOT_STAT_STATE, 7, 2), (F.KNT_SLOT_INFO_KIND, 7, 1)]), 7, by decide, by decide⟩,
    ⟨(puts up [(F.KNT_SLOT_STAT_STATE, 7, 4), (F.KNT_SLOT_INFO_KIND, 7, 1)]), 7, by decide, by decide⟩⟩

theorem test_wit_GangFramesAndCommandsComplete :
    (∃ (a : BitVec 8) (b : BitVec 8) (st : Status) (og : Status), Status.ofCode a = some st ∧ Status.ofCode b =
      some og) ∧
    (∃ (s : State) (m : MBox) (c : Cmd) (r : Member), s.fronts m 0x82 c ∧ c.bits 2 15 8 ≠ 0x82 ∧ c.bits 2 6 0 ≠
      s.hwIndex ∧ c.bits 2 6 0 < s.get F.HWS_GANG_STAT_SIZE ∧ s.leads ∧ s.member (c.bits 2 6 0) = some r ∧
      (r.quarantine = false ∨ quarantineOpen (c.bits 2 15 8))) ∧
    (∃ (s : State) (m : MBox) (c : Cmd), s.fronts m 0x80 c) ∧
    (∃ (s : State) (m : MBox) (c : Cmd), s.fronts m 0x81 c ∧ s.leads ∧ c.bits 2 2 0 = 0 ∧ ((c.on 3 10 → 50 ≤ c.bits
      3 9 0 ∧ c.bits 3 9 0 ≤ 500)) ∧ ((c.on 3 24 → 1 ≤ c.bits 3 23 16 ∧ c.bits 3 23 16 ≤ 100))) ∧
    (∃ (s : State) (m : MBox) (c : Cmd), s.fronts m 0x81 c ∧ s.leads ∧ c.bits 2 2 0 = 1 ∧ (stagedWords c s).all
      listable) ∧
    (∃ (s : State) (t : State) (m : MBox) (c : Cmd), s.fronts m 0x81 c ∧ s.leads ∧ c.bits 2 2 0 = 2 ∧ t = s.await c
      .gangRediscover) ∧
    (∃ (s : State) (m : MBox) (c : Cmd), s.fronts m 0x81 c ∧ s.leads ∧ c.bits 2 2 0 = 3 ∧ s.member (c.bits 3 6 0) ≠
      none ∧ s.hwRoute (c.bits 3 6 0) ≠ none) ∧
    (∃ (s : State) (m : MBox) (c : Cmd), s.fronts m 0x81 c ∧ s.leads ∧ c.bits 2 2 0 = 4 ∧ s.member (c.bits 3 6 0) ≠
      none ∧ s.hwRoute (c.bits 3 6 0) ≠ none) :=
  ⟨⟨1, 0, _, _, rfl, rfl⟩,
    ⟨(fr ((puts (puts live [(F.HWS_GANG_STAT_HOSTBUS, 0, 1)]) [(F.HWS_GANG_STAT_SIZE, 0, 2)]).modHws fun h => { h with members := [{ idx := 1, serial := 1, depth := 1, up := 0, version := 0, rom := 0, epoch := 0, digest := 0, e := 0, ports := 0, diverged := false, quarantine := true, suspect := false, suspectDepth := false }] })
      [(cm 0x82 [0x101])]), 0, (cm 0x82 [0x101]), _, ⟨by decide, by decide⟩, by decide, by decide, by decide,
      by decide, rfl, by decide⟩,
    ⟨(fr up [(cm 0x80 [])]), 0, (cm 0x80 []), ⟨by decide, by decide⟩⟩,
    ⟨(fr (puts live [(F.HWS_GANG_STAT_HOSTBUS, 0, 1)]) [(cm 0x81 [0, 2 ^ 24 + 2 ^ 16 + 2 ^ 10 + 500])]), 0, (cm
      0x81 [0, 2 ^ 24 + 2 ^ 16 + 2 ^ 10 + 500]), ⟨by decide, by decide⟩, by decide, by decide, by decide, by
      decide⟩,
    ⟨(fr (puts live [(F.HWS_GANG_STAT_HOSTBUS, 0, 1)]) [(cm 0x81 [1])]), 0, (cm 0x81 [1]), ⟨by decide, by decide⟩,
      by decide, by decide, by decide⟩,
    ⟨(fr (puts live [(F.HWS_GANG_STAT_HOSTBUS, 0, 1)]) [(cm 0x81 [2])]), _, 0, (cm 0x81 [2]), ⟨by decide, by
      decide⟩, by decide, by decide, rfl⟩,
    ⟨(fr (((puts (puts live [(F.HWS_GANG_STAT_HOSTBUS, 0, 1)]) [(F.HWS_PORT_STAT_STATE, 2, 5)]).modHws fun h => { h with members := [{ idx := 1, serial := 1, depth := 1, up := 0, version := 0, rom := 0, epoch := 0, digest := 0, e := 0, ports := 0, diverged := false, quarantine := true, suspect := false, suspectDepth := false }] }).modPort
      2 fun p => { p with child := some (1, 1) }) [(cm 0x81 [3, 1])]), 0, (cm 0x81 [3, 1]), ⟨by decide, by
      decide⟩, by decide, by decide, by decide, by decide⟩,
    ⟨(fr (((puts (puts live [(F.HWS_GANG_STAT_HOSTBUS, 0, 1)]) [(F.HWS_PORT_STAT_STATE, 2, 5)]).modHws fun h => { h with members := [{ idx := 1, serial := 1, depth := 1, up := 0, version := 0, rom := 0, epoch := 0, digest := 0, e := 0, ports := 0, diverged := false, quarantine := true, suspect := false, suspectDepth := false }] }).modPort
      2 fun p => { p with child := some (1, 1) }) [(cm 0x81 [4, 1])]), 0, (cm 0x81 [4, 1]), ⟨by decide, by
      decide⟩, by decide, by decide, by decide, by decide⟩⟩

theorem test_wit_GangKnotCompletes :
    (∃ (s : State) (m : MBox) (c : Cmd) (k : Nat), (s.leads ∨ s.hws.leader = none) ∧ s.fronts m 0x42 c ∧ c.bits 3 1
      0 = 3 ∧ knotOf c s = .ok k ∧ cinchRefusal 3 c k s = none) ∧
    (∃ (s : State) (k : Fin 8), (s.knot k).checking = true ∧ knotCheck k s = none ∧ s.get F.KNT_SLOT_INFO_KIND k =
      0) ∧
    (∃ (s : State) (k : Fin 8), (s.knot k).checking = true ∧ knotCheck k s = none ∧ s.get F.KNT_SLOT_INFO_KIND k =
      1 ∧ (s.knot k).leads = false) ∧
    (∃ (s : State) (k : Fin 8), (s.knot k).checking = true ∧ knotCheck k s = none ∧ 2 ≤ s.get F.KNT_SLOT_INFO_KIND
      k ∧ tooLate k 0 s) ∧
    (∃ (s : State) (k : Fin 8), (s.knot k).checking = true ∧ knotCheck k s = none ∧ 2 ≤ s.get F.KNT_SLOT_INFO_KIND
      k ∧ tooLate k 0 s = false) ∧
    (∃ (s : State) (k : Fin 8) (st : Status) (a : Option Nat), (s.knot k).checking = true ∧ knotCheck k s = some
      (st, a)) ∧
    (∃ (s : State) (k : Fin 8), (s.knot k).leads = true ∧ (s.knot k).asked = true ∧ (s.knot k).committed = false ∧
      (s.knot k).unanswered = none) ∧
    (∃ (s : State) (k : Fin 8) (q : KPart), (s.knot k).leads = true ∧ (s.knot k).asked = true ∧ (s.knot
      k).committed = false ∧ (s.knot k).unanswered = some q) ∧
    (∃ (s : State) (k : Fin 8), (s.knot k).committed = true ∧ (s.knot k).applied = false) ∧
    (∃ (s : State) (k : Fin 8), s.knotState k = 3 ∧ (s.knot k).leads = false) ∧
    (∃ (s : State) (i : Fin 128), s.leads ∧ s.hws.lagging.contains i.val) ∧
    (∃ (s : State), s.mgmtOn) :=
  ⟨⟨(fr (puts up [(F.KNT_SLOT_STAT_STATE, 7, 1), (F.HWS_GANG_STAT_HOSTBUS, 0, 1)]) [(cm 0x42 [7, 3, 0, 0, 0])]),
      0, (cm 0x42 [7, 3, 0, 0, 0]), 7, by decide, ⟨by decide, by decide⟩, by decide, by decide, by decide⟩,
    ⟨(up.modKnot 7 fun x => { x with checking := true }), 7, by decide, by decide, by decide⟩,
    ⟨((puts up [(F.KNT_SLOT_STAT_STATE, 7, 2), (F.KNT_SLOT_INFO_KIND, 7, 1)]).modKnot 7 fun x => { x with checking := true }),
      7, by decide, by decide, by decide, by decide⟩,
    ⟨((puts up [(F.KNT_SLOT_STAT_STATE, 7, 2), (F.KNT_SLOT_INFO_KIND, 7, 2)]).modKnot 7 fun x => { x with checking := true, late := true }),
      7, by decide, by decide, by decide, by decide⟩,
    ⟨((puts up [(F.KNT_SLOT_STAT_STATE, 7, 2), (F.KNT_SLOT_INFO_KIND, 7, 3)]).modKnot 7 fun x => { x with checking := true }),
      7, by decide, by decide, by decide, by decide⟩,
    ⟨((puts up [(F.KNT_SLOT_STAT_STATE, 7, 2), (F.KNT_SLOT_STAT_INELIG, 7, 1)]).modKnot 7 fun x => { x with checking := true }),
      7, _, _, by decide, rfl⟩,
    ⟨(up.modKnot 7 fun x => { x with leads := true, asked := true }), 7, by decide, by decide, by decide, by
      decide⟩,
    ⟨(up.modKnot 7 fun x => { x with leads := true, asked := true, parts := [{ idx := 1, handle := 0 }] }), 7, _,
      by decide, by decide, by decide, rfl⟩,
    ⟨(up.modKnot 7 fun x => { x with committed := true }), 7, by decide, by decide⟩,
    ⟨(puts up [(F.KNT_SLOT_STAT_STATE, 7, 3)]), 7, by decide, by decide⟩,
    ⟨((puts live [(F.HWS_GANG_STAT_HOSTBUS, 0, 1)]).modHws fun h => { h with lagging := [127] }), 127, by decide,
      by decide⟩,
    ⟨up, by decide⟩⟩

theorem test_wit_ManagementBusCompletes :
    (∃ (s : State) (off : Byte) (data : List Byte) (x : Xfer), busAnswers s ∧ x = i2cBytes off data (edgeWake 1 s)) ∧
    (∃ (s : State), busAnswers s) ∧
    (∃ (s : State), busAnswers s ∧ (edgeWake 1 s).cmis.dynAddr = none) ∧
    (∃ (s : State), busAnswers s) ∧
    (∃ (s : State), busAnswers s) ∧
    (∃ (s : State) (st : Nat) (d : Option Word), s.cmis.window.held = some (st, d)) ∧
    (∃ (s : State), s.mbx.policyBits.getLsbD 0 = true) ∧
    (∃ (s : State), s.mbx.policyBits.getLsbD 0 = false) :=
  ⟨⟨((puts live [(F.HWS_GANG_STAT_HOSTBUS, 0, 1)]).modCmis fun c => { c with mod := .lowPwr }), 0, [0], _, by
      decide, rfl⟩,
    ⟨((puts live [(F.HWS_GANG_STAT_HOSTBUS, 0, 1)]).modCmis fun c => { c with mod := .lowPwr }), by decide⟩,
    ⟨((puts live [(F.HWS_GANG_STAT_HOSTBUS, 0, 1)]).modCmis fun c => { c with mod := .lowPwr }), by decide, by
      decide⟩,
    ⟨((puts live [(F.HWS_GANG_STAT_HOSTBUS, 0, 1)]).modCmis fun c => { c with mod := .lowPwr }), by decide⟩,
    ⟨((puts live [(F.HWS_GANG_STAT_HOSTBUS, 0, 1)]).modCmis fun c => { c with mod := .lowPwr }), by decide⟩,
    ⟨(live.modCmis fun c => { c with window := { held := some (1, none) } }), 1, none, by decide⟩,
    ⟨(live.modMbx fun x => { x with policyBits := 1 }), by decide⟩,
    ⟨(live.modMbx fun x => { x with policyBits := 0x3E }), by decide⟩⟩

theorem test_wit_LineAndOpticalWritesComplete :
    (∃ (q : Req) (n : Line) (v : Word) (s : State), s.mayWrite q R.LTX_LANE_CFG n 0 v) ∧
    (∃ (q : Req) (n : Line) (v : Word) (s : State), s.mayWrite q R.LTX_SHAPE_CTRL n 0 (v ||| 1)) ∧
    (∃ (q : Req) (n : Line) (v : Word) (s : State), s.mayWrite q R.LTX_MASK_CTRL n 0 v) ∧
    (∃ (q : Req) (n : Line) (m : Fin 8) (v : Word) (s : State), s.mayWrite q R.LTX_MASK_LIM n m v) ∧
    (∃ (q : Req) (n : Line) (v : Word) (s : State), s.mayWrite q R.LTX_CAL_CTRL n 0 (v ||| 2)) ∧
    (∃ (q : Req) (n : Line) (v : Word) (s : State), s.mayWrite q R.LRX_TIA_CTRL n 0 (v ||| 0x10000)) ∧
    (∃ (q : Req) (i : Fin 25) (v : Word) (s : State), s.mayWrite q R.WNC_LANE_CFG i 0 (v ||| 0x1000000)) ∧
    (∃ (q : Req) (n : Line) (v : Word) (s : State), s.mayWrite q R.LRX_CAL_CTRL n 0 (v ||| 2)) ∧
    (∃ (q : Req) (n : Line) (v : Word) (s : State), s.mayWrite q R.LRX_CAP_CTRL n 0 (v ||| 1)) ∧
    (∃ (q : Req) (n : Line) (v : Word) (s : State), s.mayWrite q R.LRX_CAP_CTRL n 0 (v ||| 2)) ∧
    (∃ (q : Req) (v : Word) (s : State), s.mayWrite q R.CAP_CTRL 0 0 v) ∧
    (∃ (q : Req) (s : State), s.mayWrite q R.CAP_SNAP 0 0 1) ∧
    (∃ (q : Req) (h : HLane) (v : Word) (s : State), s.mayWrite q R.HST_TX_CTRL h 0 (v ||| 1)) ∧
    (∃ (q : Req) (h : HLane) (v : Word) (s : State), s.mayWrite q R.HST_TEST_CTRL h 0 v) ∧
    (∃ (q : Req) (h : HLane) (v : Word) (s : State), s.mayWrite q R.HST_RSM_CTRL h 0 (v ||| 1)) ∧
    (∃ (q : Req) (h : HLane) (v : Word) (s : State), s.mayWrite q R.HST_RSM_CTRL h 0 (v ||| 2)) ∧
    (∃ (q : Req) (n : Line) (v : Word) (s : State), s.mayWrite q R.OLC_CTRL n 0 v) ∧
    (∃ (q : Req) (n : Line) (v : Word) (s : State), s.mayWrite q R.OLC_PROBE n 0 (v ||| 1)) ∧
    (∃ (q : Req) (n : Line) (v : Word) (s : State), s.mayWrite q R.OLC_CODE n 0 v) ∧
    (∃ (q : Req) (n : Line) (k : Fin 5) (v : Word) (s : State), s.mayWrite q R.OLC_CODE n k v) ∧
    (∃ (q : Req) (v : Word) (s : State), s.mayWrite q R.OLC_STROBE 0 0 v) ∧
    (∃ (q : Req) (c : Fin 45) (v : Word) (s : State), s.mayWrite q R.OLC_CH_WAV c 0 (v ||| 1)) ∧
    (∃ (q : Req) (c : Fin 45) (v : Word) (s : State), s.mayWrite q R.OLC_CH_WAV c 0 (v ||| 2)) ∧
    (∃ (q : Req) (n : Line) (v : Word) (s : State), s.mayWrite q R.OLC_FAULT n 0 v) ∧
    (∃ (q : Req) (n : Line) (v : Word) (s : State), s.mayWrite q R.LYD_CTRL n 0 v) ∧
    (∃ (q : Req) (n : Line) (v : Word) (s : State), s.mayWrite q R.LYD_CTRL n 0 v) ∧
    (∃ (q : Req) (n : Line) (m : Fin 16) (v : Word) (s : State), s.mayWrite q R.LYD_FIR n m v) ∧
    (∃ (q : Req) (v : Word) (s : State), s.mayWrite q R.LYD_USER_FREE 0 0 v) ∧
    (∃ (q : Req) (v : Word) (s : State), s.mayWrite q R.PWR_LANE_RST 0 0 v) :=
  ⟨⟨.cleat, 0, 0, up, ⟨⟨by decide, by decide, by decide⟩, by decide⟩⟩,
    ⟨.cleat, 0, 0, up, ⟨⟨by decide, by decide, by decide⟩, by decide⟩⟩,
    ⟨.cleat, 0, 0, up, ⟨⟨by decide, by decide, by decide⟩, by decide⟩⟩,
    ⟨.cleat, 0, 0, 0, up, ⟨⟨by decide, by decide, by decide⟩, by decide⟩⟩,
    ⟨.cleat, 0, 0, up, ⟨⟨by decide, by decide, by decide⟩, by decide⟩⟩,
    ⟨.cleat, 0, 0, up, ⟨⟨by decide, by decide, by decide⟩, by decide⟩⟩,
    ⟨.cleat, 0, 0, up, ⟨⟨by decide, by decide, by decide⟩, by decide⟩⟩,
    ⟨.cleat, 0, 0, up, ⟨⟨by decide, by decide, by decide⟩, by decide⟩⟩,
    ⟨.cleat, 0, 0, up, ⟨⟨by decide, by decide, by decide⟩, by decide⟩⟩,
    ⟨.cleat, 0, 0, up, ⟨⟨by decide, by decide, by decide⟩, by decide⟩⟩,
    ⟨.cleat, 0, up, ⟨⟨by decide, by decide, by decide⟩, by decide⟩⟩,
    ⟨.cleat, up, ⟨⟨by decide, by decide, by decide⟩, by decide⟩⟩,
    ⟨.cleat, 0, 0, up, ⟨⟨by decide, by decide, by decide⟩, by decide⟩⟩,
    ⟨.cleat, 0, 0, up, ⟨⟨by decide, by decide, by decide⟩, by decide⟩⟩,
    ⟨.cleat, 0, 0, up, ⟨⟨by decide, by decide, by decide⟩, by decide⟩⟩,
    ⟨.cleat, 0, 0, up, ⟨⟨by decide, by decide, by decide⟩, by decide⟩⟩,
    ⟨.cleat, 0, 0, up, ⟨⟨by decide, by decide, by decide⟩, by decide⟩⟩,
    ⟨.cleat, 0, 0, up, ⟨⟨by decide, by decide, by decide⟩, by decide⟩⟩,
    ⟨.cleat, 0, 0, up, ⟨⟨by decide, by decide, by decide⟩, by decide⟩⟩,
    ⟨.cleat, 0, 0, 0, up, ⟨⟨by decide, by decide, by decide⟩, by decide⟩⟩,
    ⟨.cleat, 0, up, ⟨⟨by decide, by decide, by decide⟩, by decide⟩⟩,
    ⟨.cleat, 0, 0, up, ⟨⟨by decide, by decide, by decide⟩, by decide⟩⟩,
    ⟨.cleat, 0, 0, up, ⟨⟨by decide, by decide, by decide⟩, by decide⟩⟩,
    ⟨.cleat, 0, 0, up, ⟨⟨by decide, by decide, by decide⟩, by decide⟩⟩,
    ⟨.cleat, 0, 0, up, ⟨⟨by decide, by decide, by decide⟩, by decide⟩⟩,
    ⟨.cleat, 0, 0, up, ⟨⟨by decide, by decide, by decide⟩, by decide⟩⟩,
    ⟨.cleat, 0, 0, 0, up, ⟨⟨by decide, by decide, by decide⟩, by decide⟩⟩,
    ⟨.cleat, 0, up, ⟨⟨by decide, by decide, by decide⟩, by decide⟩⟩,
    ⟨.cleat, 0, up, ⟨⟨by decide, by decide, by decide⟩, by decide⟩⟩⟩

theorem test_wit_ManagementRegisterWritesComplete :
    (∃ (q : Req) (v : Word) (s : State), s.mayWrite q R.ECC_INJ_CTRL 0 0 (v ||| 0x80000000)) ∧
    (∃ (q : Req) (v : Word) (s : State), s.mayWrite q R.ECC_CTRL 0 0 (v ||| 0x100)) ∧
    (∃ (q : Req) (v : Word) (s : State), s.mayWrite q R.TIM_ADJ_CTRL 0 0 (v ||| 1)) ∧
    (∃ (q : Req) (v : Word) (s : State), s.mayWrite q R.TIM_ADJ_CTRL 0 0 (v ||| 2)) ∧
    (∃ (q : Req) (v : Word) (s : State), s.mayWrite q R.TIM_ADJ_CTRL 0 0 (v ||| 4)) ∧
    (∃ (c : Fin 4) (v : Word) (s : State), s.mayWrite (.rigger c) R.TOP_RIG_CTRL 0 0 (v ||| 1)) ∧
    (∃ (c : Fin 4) (v : Word) (s : State), s.mayWrite (.rigger c) R.TOP_RIG_CTRL 0 0 (v ||| 0x100)) ∧
    (∃ (q : Req) (v : Word) (s : State), s.mayWrite q R.MON_ADC_URG 0 0 v) ∧
    (∃ (q : Req) (v : Word) (s : State), s.mayWrite q R.MON_ADC_CTRL 0 0 v) ∧
    (∃ (q : Req) (i : Fin 32) (v : Word) (s : State), s.mayWrite q R.MON_FTH_CFG i 0 (v ||| 1)) ∧
    (∃ (q : Req) (i : Fin 32) (v : Word) (s : State), s.mayWrite q R.MON_FTH_CFG i 0 ((v ||| 2) &&& 0xFFFFFFFE)) ∧
    (∃ (q : Req) (i : Fin 32) (v : Word) (s : State), s.mayWrite q R.MON_FTH_FILT i 0 v) ∧
    (∃ (q : Req) (i : Fin 32) (v : Word) (s : State), s.mayWrite q R.MON_FTH_BIN i 0 v) ∧
    (∃ (q : Req) (i : Fin 32) (v : Word) (s : State), s.mayWrite q R.MON_FTH_BASE i 0 v) ∧
    (∃ (q : Req) (i : Fin 32) (v : Word) (s : State), s.mayWrite q R.MON_FTH_LIM i 0 v) ∧
    (∃ (q : Req) (v : Word) (s : State), s.mayWrite q R.PMU_CTRL 0 0 (v ||| 1)) ∧
    (∃ (q : Req) (v : Word) (s : State), s.mayWrite q R.PWR_BLK_EN 0 0 v) ∧
    (∃ (s : State), s.mayWrite .cleat R.PWR_RST 0 0 1) ∧
    (∃ (q : Req) (p : Port) (v : Word) (s : State), s.mayWrite q R.HWS_PORT_CTRL p 0 v) ∧
    (∃ (q : Req) (p : Port) (v : Word) (s : State), s.mayWrite q R.HWS_PORT_CTRL p 0 (v ||| 2)) :=
  ⟨⟨.cleat, 0, up, ⟨⟨by decide, by decide, by decide⟩, by decide⟩⟩,
    ⟨.cleat, 0, up, ⟨⟨by decide, by decide, by decide⟩, by decide⟩⟩,
    ⟨.cleat, 0, up, ⟨⟨by decide, by decide, by decide⟩, by decide⟩⟩,
    ⟨.cleat, 0, up, ⟨⟨by decide, by decide, by decide⟩, by decide⟩⟩,
    ⟨.cleat, 0, up, ⟨⟨by decide, by decide, by decide⟩, by decide⟩⟩,
    ⟨0, 0, up, ⟨⟨by decide, by decide, by decide⟩, by decide⟩⟩,
    ⟨0, 0, up, ⟨⟨by decide, by decide, by decide⟩, by decide⟩⟩,
    ⟨.cleat, 0, up, ⟨⟨by decide, by decide, by decide⟩, by decide⟩⟩,
    ⟨.cleat, 0, up, ⟨⟨by decide, by decide, by decide⟩, by decide⟩⟩,
    ⟨.cleat, 0, 0, up, ⟨⟨by decide, by decide, by decide⟩, by decide⟩⟩,
    ⟨.cleat, 0, 0, up, ⟨⟨by decide, by decide, by decide⟩, by decide⟩⟩,
    ⟨.cleat, 0, 0, up, ⟨⟨by decide, by decide, by decide⟩, by decide⟩⟩,
    ⟨.cleat, 0, 0, up, ⟨⟨by decide, by decide, by decide⟩, by decide⟩⟩,
    ⟨.cleat, 0, 0, up, ⟨⟨by decide, by decide, by decide⟩, by decide⟩⟩,
    ⟨.cleat, 0, 0, up, ⟨⟨by decide, by decide, by decide⟩, by decide⟩⟩,
    ⟨.cleat, 0, up, ⟨⟨by decide, by decide, by decide⟩, by decide⟩⟩,
    ⟨.cleat, 0, up, ⟨⟨by decide, by decide, by decide⟩, by decide⟩⟩,
    ⟨up, ⟨⟨by decide, by decide, by decide⟩, by decide⟩⟩,
    ⟨.cleat, 0, 0, up, ⟨⟨by decide, by decide, by decide⟩, by decide⟩⟩,
    ⟨.cleat, 0, 0, up, ⟨⟨by decide, by decide, by decide⟩, by decide⟩⟩⟩

theorem test_wit_CapturingReadsComplete :
    (∃ (q : Req) (s : State), s.reaches q R.TIM_SNAP_W0 0 0 false) ∧
    (∃ (q : Req) (s : State), s.reaches q R.TIM_SNAP_TOD 0 0 false) ∧
    (∃ (q : Req) (s : State), s.reaches q R.TIM_SNAP_TOD 1 0 false) ∧
    (∃ (q : Req) (s : State), s.reaches q R.TIM_SNAP_TOD 2 0 false) ∧
    (∃ (q : Req) (s : State), s.reaches q R.TIM_SNAP_W4 0 0 false) ∧
    (∃ (q : Req) (rx : Bool) (s : State), s.reaches q R.TIM_TSQ_W rx.toNat 0 false) ∧
    (∃ (q : Req) (rx : Bool) (w : Fin 4) (s : State), s.reaches q R.TIM_TSQ_W rx.toNat w false ∧ w ≠ 0) ∧
    (∃ (q : Req) (s : State), s.reaches q R.TIM_AON_LO 0 0 false) ∧
    (∃ (q : Req) (s : State), s.reaches q R.TIM_AON_HI 0 0 false) ∧
    (∃ (q : Req) (n : Line) (s : State), s.reaches q R.TIM_TT_STAT n 0 false) ∧
    (∃ (q : Req) (n : Line) (s : State), s.reaches q R.TIM_TT_LO n 0 false) ∧
    (∃ (q : Req) (n : Line) (s : State), s.reaches q R.TIM_TT_HI n 0 false) ∧
    (∃ (q : Req) (n : Line) (s : State), s.reaches q R.TIM_TT_LO n 1 false) ∧
    (∃ (q : Req) (n : Line) (s : State), s.reaches q R.TIM_TT_HI n 1 false) ∧
    (∃ (q : Req) (s : State), s.reaches q R.TIM_PPSI_W0 0 0 false) ∧
    (∃ (q : Req) (s : State), s.reaches q R.TIM_PPSI_TOD 0 0 false) ∧
    (∃ (q : Req) (s : State), s.reaches q R.TIM_PPSI_TOD 1 0 false) ∧
    (∃ (q : Req) (s : State), s.reaches q R.TIM_PPSI_TOD 2 0 false) ∧
    (∃ (q : Req) (k : Fin 3) (s : State), s.reaches q R.MBX_IRING_W k 0 false) ∧
    (∃ (q : Req) (k : Fin 3) (i : Fin 4) (s : State), s.reaches q R.MBX_IRING_W k i false ∧ i ≠ 0) ∧
    (∃ (q : Req) (j : BitVec 8) (s : State), s.reaches q R.PMU_CNT_LO j.toNat 0 false) ∧
    (∃ (q : Req) (j : BitVec 8) (s : State), s.reaches q R.PMU_CNT_HI j.toNat 0 false) :=
  ⟨⟨.cleat, up, ⟨by decide, by decide, by decide⟩⟩,
    ⟨.cleat, up, ⟨by decide, by decide, by decide⟩⟩,
    ⟨.cleat, up, ⟨by decide, by decide, by decide⟩⟩,
    ⟨.cleat, up, ⟨by decide, by decide, by decide⟩⟩,
    ⟨.cleat, up, ⟨by decide, by decide, by decide⟩⟩,
    ⟨.cleat, false, up, ⟨by decide, by decide, by decide⟩⟩,
    ⟨.cleat, true, 3, up, ⟨by decide, by decide, by decide⟩, by decide⟩,
    ⟨.cleat, up, ⟨by decide, by decide, by decide⟩⟩,
    ⟨.cleat, up, ⟨by decide, by decide, by decide⟩⟩,
    ⟨.cleat, 0, up, ⟨by decide, by decide, by decide⟩⟩,
    ⟨.cleat, 0, up, ⟨by decide, by decide, by decide⟩⟩,
    ⟨.cleat, 0, up, ⟨by decide, by decide, by decide⟩⟩,
    ⟨.cleat, 0, up, ⟨by decide, by decide, by decide⟩⟩,
    ⟨.cleat, 0, up, ⟨by decide, by decide, by decide⟩⟩,
    ⟨.cleat, up, ⟨by decide, by decide, by decide⟩⟩,
    ⟨.cleat, up, ⟨by decide, by decide, by decide⟩⟩,
    ⟨.cleat, up, ⟨by decide, by decide, by decide⟩⟩,
    ⟨.cleat, up, ⟨by decide, by decide, by decide⟩⟩,
    ⟨.cleat, 0, up, ⟨by decide, by decide, by decide⟩⟩,
    ⟨.cleat, 0, 3, up, ⟨by decide, by decide, by decide⟩, by decide⟩,
    ⟨.cleat, 0, up, ⟨by decide, by decide, by decide⟩⟩,
    ⟨.cleat, 0, up, ⟨by decide, by decide, by decide⟩⟩⟩

theorem test_wit_MemoryAccessesComplete :
    (∃ (q : Req) (r : RegD) (n : Nat) (m : Nat) (v : Word) (s : State), r ∈ regMap ∧ n < r.n1 ∧ m < r.n2 ∧
      mbxTarget r = false ∧ s.mayWrite q r n m v) ∧
    (∃ (q : Req) (m : MBox) (w : Fin 16) (s : State), s.busUp = true ∧ mbxCause s m (s.identOf q) false = 0 ∧
      s.reaches q (if w = 0 then R.MBX_W0 else R.MBX_W) m (w.val - 1) true) ∧
    (∃ (q : Req) (m : MBox) (o : Fin 1024) (s : State) (t : State), s.busUp = true ∧ sramCheck q 4 (stagingBase m +
      4 * o) true s = .ok ∧ (if q = .cleat then s.flag F.MBX_STAT_STG_BUSY m = false else stagingCause s m
      (s.identOf q) = 0) ∧ s.eccRead (stagingBase m + 4 * o) (reqNum q) .none = (true, t)) ∧
    (∃ (q : Req) (m : MBox) (s : State), s.reaches q R.MBX_DB m 0 true ∧ mbxCause s m (s.identOf q) true = 0) ∧
    (∃ (q : Req) (a : Word) (bs : List Byte) (s : State), isSram a.toNat = true ∧ s.busUp = true ∧ sramCheck q
      bs.length a.toNat true s = .ok ∧ ¬(0x81F60000 ≤ a.toNat ∧ a.toNat < 0x81F6F000) ∧ bs.length = 8) ∧
    (∃ (q : Req) (a : Word) (bs : List Byte) (u : Upset) (s : State) (t : State), isSram a.toNat = true ∧ s.busUp =
      true ∧ sramCheck q bs.length a.toNat true s = .ok ∧ ¬(0x81F60000 ≤ a.toNat ∧ a.toNat < 0x81F6F000) ∧
      bs.length ≠ 8 ∧ s.eccRead a.toNat (reqNum q) u = (true, t)) ∧
    (∃ (p : ReadPath) (q : Req) (k : Nat) (a : Word) (u : Upset) (s : State) (t : State), readMem p = none ∧
      readRequester p = some q ∧ isSram a.toNat = true ∧ s.busUp = true ∧ sramCheck q k a.toNat false s = .ok
      ∧ s.eccRead a.toNat (reqNum q) u = (true, t)) :=
  ⟨⟨.cleat, R.OLC_CTRL, 0, 0, 0, up, R.OLC_CTRL_mem, by decide, by decide, by decide, ⟨⟨by decide, by decide, by
      decide⟩, by decide⟩⟩,
    ⟨(.rigger 0), 13, 15, up, by decide, by decide, ⟨by decide, by decide, by decide⟩⟩,
    ⟨.cleat, 0, 1023, up, _, by decide, by decide, by decide, rfl⟩,
    ⟨.cleat, 12, up, ⟨by decide, by decide, by decide⟩, by decide⟩,
    ⟨(.rigger 3), 0x81FFFFF8, (List.replicate 8 0), up, by decide, by decide, by decide, by decide, by decide⟩,
    ⟨.cleat, 0x81FFFFFC, (List.replicate 4 0), .none, up, _, by decide, by decide, by decide, by decide, by
      decide, rfl⟩,
    ⟨(.riggerLoad 3), _, 4, 0x80000000, .none, up, _, by decide, rfl, by decide, by decide, by decide, rfl⟩⟩

theorem test_wit_StepTakesTheFront :
    (∃ (s : State) (c : Instr) (rest : List Instr), s.pending = c :: rest) ∧
    (∃ (s : State), s.pending = []) :=
  ⟨⟨{ State.reset with pending := [.memsSettleTimeout] }, .memsSettleTimeout, [], by decide⟩,
    ⟨up, by decide⟩⟩

theorem test_wit_StepKeepsStores :
    ∃ (s : State) (t : State), s.wf = true ∧ step s = .next t :=
  ⟨State.reset, _, by decide, rfl⟩

theorem test_wit_StepKeepsCapacities :
    ∃ (s : State) (t : State), s.bounded = true ∧ step s = .next t :=
  ⟨State.reset, _, by decide, rfl⟩

theorem test_wit_StepGrowsOtp :
    ∃ (s : State) (t : State), step s = .next t :=
  ⟨State.reset, _, rfl⟩

theorem test_wit_CommandsKeepQueue :
    ∃ (c : Instr) (s : State) (t : State), exec c s = .next t :=
  ⟨.memsSettleTimeout, State.reset, _, rfl⟩

theorem test_wit_GoStampsSender :
    (∃ (q : Req) (m : MBox) (s : State), Registers.wf s = true ∧ s.reaches q R.MBX_DB m 0 true ∧ mbxCause s m
      (s.identOf q) true = 0) ∧
    (∃ (m : MBox) (i : Fin 128) (s : State), Registers.wf s = true ∧ mbxCause s m (0x80 + i) true = 0) ∧
    (∃ (s : State), Registers.wf s = true) :=
  ⟨⟨.cleat, 12, up, by decide, ⟨by decide, by decide, by decide⟩, by decide⟩,
    ⟨11, 127, up, by decide, by decide⟩,
    ⟨up, by decide⟩⟩

theorem test_wit_SramWriteMergesOrDiscards :
    (∃ (q : Req) (a : Word) (bs : List Byte) (u : Upset) (s : State), isSram a.toNat = true ∧ s.busUp = true ∧
      sramCheck q bs.length a.toNat true s = .ok ∧ ¬(0x81F60000 ≤ a.toNat ∧ a.toNat < 0x81F6F000) ∧ bs.length
      ≠ 8 ∧ (s.eccRead a.toNat (reqNum q) u).1 = false) ∧
    (∃ (q : Req) (a : Word) (bs : List Byte) (u : Upset) (s : State), s.wf = true ∧ isSram a.toNat = true ∧ s.busUp
      = true ∧ sramCheck q bs.length a.toNat true s = .ok ∧ ¬(0x81F60000 ≤ a.toNat ∧ a.toNat < 0x81F6F000) ∧
      (bs.length = 8 ∨ (s.eccRead a.toNat (reqNum q) u).1 = true)) :=
  ⟨⟨.cleat, 0x80000000, [1], (.double 0 1), up, by decide, by decide, by decide, by decide, by decide, by decide⟩,
    ⟨.cleat, 0x80000000, [1], (.bit 71), up, by decide, by decide, by decide, by decide, by decide, by decide⟩⟩

theorem test_wit_RawComparison :
    ∃ (d : Int), -(2 ^ 47) ≤ d ∧ d < 2 ^ 47 :=
  ⟨(-(2 ^ 47)), by decide, by decide⟩

theorem test_wit_RefusedWriteChangesNothing :
    ∃ (q : Req) (k : Nat) (a : Word) (s : State) (e : Acc), Registers.wf s = true ∧ s.busUp = true ∧ e ≠ .off ∧
      (if isSram a.toNat then sramCheck q k a.toNat true s = e ∧ e ≠ .ok else regCheck q k a.toNat true s =
      .error e) :=
  ⟨.cleat, 4, 0x3FFFFFFC, up, .unmapped, by decide, by decide, by decide, rfl⟩

theorem test_wit_RegisterWriteFrame :
    ∃ (q : Req) (r : RegD) (n : Nat) (m : Nat) (v : Word) (s : State), Registers.wf s = true ∧ r ∈ regMap ∧ n <
      r.n1 ∧ m < r.n2 ∧ mbxTarget r = false ∧ (writeHooks.all fun h => h.1.base != r.base) = true ∧ s.mayWrite
      q r n m v ∧ (∀ k : Fin 8, r.addr n m ≠ R.KNT_SLOT_STAT.addr k 0) :=
  ⟨.cleat, R.MON_WIN_LO, 79, 0, 0, up, by decide, List.mem_of_getElem? (i := 204) rfl, by decide, by decide, by
      decide, by decide, ⟨⟨by decide, by decide, by decide⟩, by decide⟩, by decide⟩

theorem test_wit_FullRingDropsCompletion :
    (∃ (s : State) (w0 : Word), bitsOf w0 31 24 ≤ 2 ∧ 256 ≤ s.mbx.host.entries.length) ∧
    (∃ (s : State) (w0 : Word), bitsOf w0 31 24 ≤ 2 ∧ s.mbx.host.entries.length < 256) ∧
    (∃ (s : State) (w0 : Word) (k : Fin 3), bitsOf w0 31 24 = 3 + k ∧ 64 ≤ s.mbx.internal[k].entries.length) :=
  ⟨⟨(up.modMbx fun x => { x with host := { entries := List.replicate 256 { w0 := 0, status := .done, orig := .done, epoch := 0, result := 0, final := true, m := 0, seq := 0 } } }),
      0x2000000, by decide, by decide⟩,
    ⟨(up.modMbx fun x => { x with host := { entries := List.replicate 255 { w0 := 0, status := .done, orig := .done, epoch := 0, result := 0, final := true, m := 0, seq := 0 } } }),
      0x2000000, by decide, by decide⟩,
    ⟨(up.modMbx fun x => { x with internal := Vector.replicate 3 { entries := List.replicate 64 { w0 := 0, status := .done, orig := .done, epoch := 0, result := 0, final := true, m := 0, seq := 0 } } }),
      0x5000000, 2, by decide, by decide⟩⟩

theorem test_wit_ResetIsFullBoot :
    (∃ (s : State), s.pwr.vin = true ∧ s.pwr.held = false) ∧
    (∃ (s : State), s.pwr.vin = true) ∧
    (∃ (s : State), s.pwr.held = true ∧ s.pwr.vin = true) :=
  ⟨⟨up, by decide, by decide⟩,
    ⟨up, by decide⟩,
    ⟨(State.reset.modPwr fun p => { p with vin := true, held := true }), by decide, by decide⟩⟩

theorem test_wit_AccessesJudgedInOrder :
    (∃ (k : Nat) (a : Word) (s : State), Registers.wf s = true ∧ s.busUp = true ∧ isSram a.toNat = false ∧ (k ≠ 4 ∨
      a.toNat % 4 ≠ 0)) ∧
    (∃ (a : Word) (s : State), Registers.wf s = true ∧ s.busUp = true ∧ a.toNat % 4 = 0 ∧ isSram a.toNat = false ∧
      findReg a.toNat = none) ∧
    (∃ (q : Req) (a : Word) (r : RegD) (n : Nat) (m : Nat) (s : State), Registers.wf s = true ∧ s.busUp = true ∧
      a.toNat % 4 = 0 ∧ findReg a.toNat = some (r, n, m) ∧ regGrant s q r n true = false) ∧
    (∃ (q : Req) (a : Word) (r : RegD) (n : Nat) (m : Nat) (s : State), Registers.wf s = true ∧ s.busUp = true ∧
      a.toNat % 4 = 0 ∧ findReg a.toNat = some (r, n, m) ∧ regGrant s q r n true = true ∧ blockOff s a.toNat =
      true) ∧
    (∃ (q : Req) (a : Word) (v : Word) (r : RegD) (n : Nat) (m : Nat) (s : State), Registers.wf s = true ∧ s.busUp
      = true ∧ a.toNat % 4 = 0 ∧ findReg a.toNat = some (r, n, m) ∧ regGrant s q r n true = true ∧ blockOff s
      a.toNat = false ∧ mbxTarget r = false ∧ rwlChanges s r n m v = true ∧ rwlAllows s q r n = false) ∧
    (∃ (q : Req) (a : Word) (v : Word) (r : RegD) (n : Nat) (m : Nat) (s : State), Registers.wf s = true ∧ s.busUp
      = true ∧ a.toNat % 4 = 0 ∧ findReg a.toNat = some (r, n, m) ∧ regGrant s q r n true = true ∧ blockOff s
      a.toNat = false ∧ mbxTarget r = false ∧ ((rwlChanges s r n m v = true → rwlAllows s q r n = true))) ∧
    (∃ (q : Req) (a : Word) (v : Word) (s : State) (t : State), Registers.wf s = true ∧ s.busUp = true ∧ exec
      (.registerWrite q 4 a v) s = .next t ∧ t.resp = .access .mbx 0) ∧
    (∃ (k : Nat) (a : Word) (s : State), Registers.wf s = true ∧ s.busUp = true ∧ (k ≠ 4 ∨ a.toNat % 4 ≠ 0) ∧
      isSram a.toNat = false) ∧
    (∃ (a : Word) (s : State), Registers.wf s = true ∧ s.busUp = true ∧ a.toNat % 4 = 0 ∧ isSram a.toNat = false ∧
      findReg a.toNat = none) ∧
    (∃ (q : Req) (a : Word) (r : RegD) (n : Nat) (m : Nat) (s : State), Registers.wf s = true ∧ s.busUp = true ∧
      a.toNat % 4 = 0 ∧ findReg a.toNat = some (r, n, m) ∧ regGrant s q r n false = false) ∧
    (∃ (q : Req) (a : Word) (r : RegD) (n : Nat) (m : Nat) (s : State), Registers.wf s = true ∧ s.busUp = true ∧
      a.toNat % 4 = 0 ∧ findReg a.toNat = some (r, n, m) ∧ regGrant s q r n false = true ∧ blockOff s a.toNat
      = true) ∧
    (∃ (p : ReadPath) (q : Req) (a : Word), readRequester p = some q ∧ isSram a.toNat = false) ∧
    (∃ (q : Req) (a : Word) (bs : List Byte) (s : State), Registers.wf s = true ∧ s.busUp = true ∧ isSram a.toNat =
      true ∧ ((bs.length ∈ [1, 2, 4] ∨ (bs.length = 8 ∧ (q = .dma ∨ ∃ c, q = .rigger c)) → a.toNat % bs.length
      ≠ 0))) ∧
    (∃ (q : Req) (a : Word) (bs : List Byte) (s : State), Registers.wf s = true ∧ s.busUp = true ∧ isSram a.toNat =
      true ∧ (bs.length ∈ [1, 2, 4] ∧ a.toNat % bs.length = 0) ∧ sramGrant s q a.toNat true = false) ∧
    (∃ (q : Req) (a : Word) (bs : List Byte) (s : State), Registers.wf s = true ∧ s.busUp = true ∧ isSram a.toNat =
      true ∧ (bs.length ∈ [1, 2, 4] ∧ a.toNat % bs.length = 0) ∧ sramGrant s q a.toNat true = true ∧ blockOff
      s a.toNat = true) :=
  ⟨⟨4, 0xFFFFFFFF, up, by decide, by decide, by decide, by decide⟩,
    ⟨0x3FFFFFFC, up, by decide, by decide, by decide, by decide, by decide⟩,
    ⟨.hawser, 0x16000000, _, _, _, up, by decide, by decide, by decide, rfl, by decide⟩,
    ⟨.cleat, 0x50000000, _, _, _, (puts up [(F.PWR_CLK_STAT_MGMT_LOCK, 0, 0)]), by decide, by decide, by decide,
      rfl, by decide, by decide⟩,
    ⟨.host, 0x15000800, 1, _, _, _, up, by decide, by decide, by decide, rfl, by decide, by decide, by decide, by
      decide, by decide⟩,
    ⟨.cleat, 0x50000000, 1, _, _, _, up, by decide, by decide, by decide, rfl, by decide, by decide, by decide, by
      decide⟩,
    ⟨.jtag, 0x13000000, 0, up, _, by decide, by decide, rfl, by decide⟩,
    ⟨8, 0xFFFFFFFC, up, by decide, by decide, by decide, by decide⟩,
    ⟨0x3FFFFFFC, up, by decide, by decide, by decide, by decide, by decide⟩,
    ⟨.dma, 0x16000000, _, _, _, up, by decide, by decide, by decide, rfl, by decide⟩,
    ⟨.cleat, 0x50000000, _, _, _, (puts up [(F.PWR_CLK_STAT_MGMT_LOCK, 0, 0)]), by decide, by decide, by decide,
      rfl, by decide, by decide⟩,
    ⟨.cleat, .cleat, 0, by decide, by decide⟩,
    ⟨(.rigger 0), 0x80000001, [0, 0], up, by decide, by decide, by decide, by decide⟩,
    ⟨.host, 0x80000000, [0], up, by decide, by decide, by decide, by decide, by decide⟩,
    ⟨.cleat, 0x81FFFFFC, (List.replicate 4 0), (puts up [(F.PWR_CLK_STAT_MGMT_LOCK, 0, 0)]), by decide, by decide,
      by decide, by decide, by decide, by decide⟩⟩

theorem test_wit_FieldTypes :
    (∃ (q : Req) (r : RegD) (n : Nat) (m : Nat) (v : Word) (s : State), Registers.wf s = true ∧ r ∈ regMap ∧ n <
      r.n1 ∧ m < r.n2 ∧ mbxTarget r = false ∧ (writeHooks.all fun h => h.1.base != r.base) = true ∧ s.mayWrite
      q r n m v ∧ (∀ k : Fin 8, r.addr n m ≠ R.KNT_SLOT_STAT.addr k 0)) ∧
    (∃ (q : Req) (r : RegD) (n : Nat) (m : Nat) (s : State), Registers.wf s = true ∧ r ∈ regMap ∧ n < r.n1 ∧ m <
      r.n2 ∧ (readHooks.all fun h => h.1.base != r.base) = true ∧ s.reaches q r n m false) ∧
    (∃ (q : Req) (r : RegD) (n : Nat) (m : Nat) (v : Word) (s : State), Registers.wf s = true ∧ r ∈ regMap ∧ n <
      r.n1 ∧ m < r.n2 ∧ mbxTarget r = false ∧ s.reaches q r n m true ∧ rwlChanges s r n m v = true ∧ rwlAllows
      s q r n = false) :=
  ⟨⟨.cleat, R.MON_WIN_LO, 79, 0, 0, up, by decide, List.mem_of_getElem? (i := 204) rfl, by decide, by decide, by
      decide, by decide, ⟨⟨by decide, by decide, by decide⟩, by decide⟩, by decide⟩,
    ⟨.cleat, R.MON_WIN_LO, 79, 0, up, by decide, List.mem_of_getElem? (i := 204) rfl, by decide, by decide, by
      decide, ⟨by decide, by decide, by decide⟩⟩,
    ⟨.host, R.MON_WIN_LO, 79, 0, 1, up, by decide, List.mem_of_getElem? (i := 204) rfl, by decide, by decide, by
      decide, ⟨by decide, by decide, by decide⟩, by decide, by decide⟩⟩

theorem test_wit_SramReadCorrects :
    ∃ (p : ReadPath) (q : Req) (k : Nat) (a : Word) (s : State), readRequester p = some q ∧ q ≠ .dma ∧ (∀ c, p ≠
      .riggerFetch c) ∧ isSram a.toNat = true ∧ s.busUp = true ∧ sramCheck q k a.toNat false s = .ok ∧ Bank.wf
      (fun _ => []) s.ecc.flips = true :=
  ⟨.hostWindow, _, 4, 0x80E00000, up, rfl, by decide, (by intro c h; cases h), by decide, by decide, by decide,
      by decide⟩

theorem test_wit_MailboxRefusals :
    (∃ (q : Req) (m : MBox) (w : Fin 16) (s : State), Registers.wf s = true ∧ s.reaches q (if w = 0 then R.MBX_W0
      else R.MBX_W) m (w.val - 1) true ∧ mbxAccepts m (s.identOf q) = false) ∧
    (∃ (q : Req) (m : MBox) (w : Fin 16) (s : State), Registers.wf s = true ∧ s.reaches q (if w = 0 then R.MBX_W0
      else R.MBX_W) m (w.val - 1) true ∧ mbxAccepts m (s.identOf q) = true ∧ s.flag F.MBX_STAT_FULL m = true) ∧
    (∃ (q : Req) (m : MBox) (s : State), Registers.wf s = true ∧ s.reaches q R.MBX_DB m 0 true ∧ mbxAccepts m
      (s.identOf q) = false) ∧
    (∃ (q : Req) (m : MBox) (s : State), Registers.wf s = true ∧ s.reaches q R.MBX_DB m 0 true ∧ mbxAccepts m
      (s.identOf q) = true ∧ s.flag F.MBX_STAT_FULL m = true) ∧
    (∃ (q : Req) (m : MBox) (s : State), Registers.wf s = true ∧ s.reaches q R.MBX_DB m 0 true ∧ mbxAccepts m
      (s.identOf q) = true ∧ s.flag F.MBX_STAT_FULL m = false ∧ s.flag F.MBX_STAT_STG_BUSY m = true ∧
      needsStaging (s.mbxMessage m) = true) ∧
    (∃ (q : Req) (m : MBox) (o : Fin 1024) (s : State), Registers.wf s = true ∧ s.busUp = true ∧ sramCheck q 4
      (stagingBase m + 4 * o) true s = .ok ∧ q ≠ .cleat ∧ mbxAccepts m (s.identOf q) = false) ∧
    (∃ (q : Req) (m : MBox) (o : Fin 1024) (s : State), Registers.wf s = true ∧ s.busUp = true ∧ sramCheck q 4
      (stagingBase m + 4 * o) true s = .ok ∧ ((q ≠ .cleat → mbxAccepts m (s.identOf q) = true)) ∧ s.flag
      F.MBX_STAT_STG_BUSY m = true) :=
  ⟨⟨.host, 14, 15, up, by decide, ⟨by decide, by decide, by decide⟩, by decide⟩,
    ⟨.cleat, 12, 0, (puts up [(F.MBX_STAT_FULL, 12, 1)]), by decide, ⟨by decide, by decide, by decide⟩, by decide,
      by decide⟩,
    ⟨.host, 14, up, by decide, ⟨by decide, by decide, by decide⟩, by decide⟩,
    ⟨.cleat, 12, (puts up [(F.MBX_STAT_FULL, 12, 1)]), by decide, ⟨by decide, by decide, by decide⟩, by decide, by
      decide⟩,
    ⟨.cleat, 12, (((puts up [(F.MBX_STAT_STG_BUSY, 12, 1)]).setWord R.MBX_W0 0x020000 12)), by decide, ⟨by decide,
      by decide, by decide⟩, by decide, by decide, by decide, by decide⟩,
    ⟨.host, 14, 1023, up, by decide, by decide, by decide, by decide, by decide⟩,
    ⟨.cleat, 0, 1023, (puts up [(F.MBX_STAT_STG_BUSY, 0, 1)]), by decide, by decide, by decide, by decide, by
      decide⟩⟩

theorem test_wit_DuplicateIsReplayed :
    ∃ (m : Nat) (c : Cmd) (e : WinEntry) (st : Status) (res : Word) (s : State), Registers.wf s = true ∧
      s.hws.inbox = [] ∧ s.flag F.MBX_ENG_STAT_RUNNING = true ∧ s.nextFull = some m ∧ c = { id := 0, m := m, words := s.mbxMessage m, locked := needsStaging (s.mbxMessage m) }
      ∧ c.bits 1 15 1 = 0 ∧ opcodes.contains c.opcode = true ∧ lenAccepted c = true ∧ (s.allow
      c.opcode).getLsbD (classOf c.ident) = true ∧ c.tag ≠ 0 ∧ (c.ident = 1 ∨ c.ident = 2) ∧ s.windowFind
      c.ident c.tag = some e ∧ e.final = some (st, res) ∧ s.mbx.host.entries.length < 256 :=
  ⟨0, _, { tag := 7, id := 2, final := some (.done, 5) }, .done, 5, (((puts up [(F.MBX_ENG_STAT_RUNNING, 0, 1), (F.MBX_STAT_FULL, 0, 1)]).modMbx
      fun x => { x with windows := [(1, [{ tag := 7, id := 2, final := some (.done, 5) }])] }).setWord
      R.MBX_W0 0x01010007), by decide, by decide, by decide, by decide, rfl, by decide, by decide, by decide,
      by decide, by decide, by decide, by decide, by decide, by decide⟩

theorem test_wit_KnotHandles :
    (∃ (m : MBox) (c : Cmd) (k : Nat) (s : State), Registers.wf s = true ∧ s.fronts m 0x40 c ∧ freeKnot s = some k) ∧
    (∃ (m : MBox) (c : Cmd) (s : State), s.fronts m 0x40 c ∧ ((∀ k, k < 8 → s.knotState k ≠ 0))) ∧
    (∃ (m : MBox) (c : Cmd) (s : State), s.fronts m 0x41 c ∧ c.bits 2 18 16 ≤ 6 ∧ s.named (c.bits 2 15 0) = none) ∧
    (∃ (m : MBox) (c : Cmd) (s : State), s.fronts m 0x42 c ∧ c.bits 3 1 0 = 0 ∧ s.named (c.bits 2 15 0) = none) ∧
    (∃ (m : MBox) (c : Cmd) (s : State), s.fronts m 0x42 c ∧ c.bits 3 1 0 = 1 ∧ s.named (c.bits 2 15 0) = none) ∧
    (∃ (m : MBox) (c : Cmd) (s : State), s.fronts m 0x42 c ∧ c.bits 3 1 0 = 2 ∧ s.named (c.bits 2 15 0) = none) ∧
    (∃ (m : MBox) (c : Cmd) (s : State), s.fronts m 0x42 c ∧ c.bits 3 1 0 = 3 ∧ (s.leads = true ∨ s.hws.leader =
      none) ∧ s.named (c.bits 2 15 0) = none) :=
  ⟨⟨0, (cm 0x40 []), 7, (fr (puts up [(F.KNT_SLOT_STAT_STATE, 0, 1), (F.KNT_SLOT_STAT_STATE, 1, 1), (F.KNT_SLOT_STAT_STATE, 2, 1), (F.KNT_SLOT_STAT_STATE, 3, 1), (F.KNT_SLOT_STAT_STATE, 4, 1), (F.KNT_SLOT_STAT_STATE, 5, 1), (F.KNT_SLOT_STAT_STATE, 6, 1), (F.KNT_SLOT_STAT_GEN, 7, 255)])
      [(cm 0x40 [])]), by decide, ⟨by decide, by decide⟩, by decide⟩,
    ⟨0, (cm 0x40 []), (fr (puts up [(F.KNT_SLOT_STAT_STATE, 0, 4), (F.KNT_SLOT_STAT_STATE, 1, 4), (F.KNT_SLOT_STAT_STATE, 2, 4), (F.KNT_SLOT_STAT_STATE, 3, 4), (F.KNT_SLOT_STAT_STATE, 4, 4), (F.KNT_SLOT_STAT_STATE, 5, 4), (F.KNT_SLOT_STAT_STATE, 6, 4), (F.KNT_SLOT_STAT_STATE, 7, 4)])
      [(cm 0x40 [])]), ⟨by decide, by decide⟩, by decide⟩,
    ⟨0, (cm 0x41 [6 * 2 ^ 16 + 7]), (fr up [(cm 0x41 [6 * 2 ^ 16 + 7])]), ⟨by decide, by decide⟩, by decide, by
      decide⟩,
    ⟨0, (cm 0x42 [7, 0]), (fr up [(cm 0x42 [7, 0])]), ⟨by decide, by decide⟩, by decide, by decide⟩,
    ⟨0, (cm 0x42 [7, 1]), (fr up [(cm 0x42 [7, 1])]), ⟨by decide, by decide⟩, by decide, by decide⟩,
    ⟨0, (cm 0x42 [7, 2]), (fr up [(cm 0x42 [7, 2])]), ⟨by decide, by decide⟩, by decide, by decide⟩,
    ⟨0, (cm 0x42 [7, 3]), (fr (puts up [(F.HWS_GANG_STAT_HOSTBUS, 0, 1)]) [(cm 0x42 [7, 3])]), ⟨by decide, by
      decide⟩, by decide, by decide, by decide⟩⟩

theorem test_wit_SlewStep :
    (∃ (c : Fin 45) (k : Nat) (s : State) (t : State), Registers.wf s = true ∧ chanStep s c = some k ∧ exec
      (.slewTick c) s = .next t) ∧
    (∃ (c : Fin 45) (d : Fin 45) (s : State) (t : State), d ≠ c ∧ exec (.slewTick c) s = .next t) :=
  ⟨⟨44, 16, up, _, by decide, by decide, rfl⟩,
    ⟨44, 0, up, _, by decide, rfl⟩⟩

theorem test_wit_SafetyFaultCuts :
    ∃ (b : Fin 6) (n : Line) (s : State) (t : State), Registers.wf s = true ∧ b ≠ 5 ∧ exec (.safetyFault b n) s =
      .next t :=
  ⟨0, 8, (puts live [(F.OLC_STAT_STATE, 8, 3)]), _, by decide, by decide, rfl⟩

theorem test_wit_OnlyStoringCommandsStore :
    ∃ (c : Instr) (s : State) (t : State), c.stores = false ∧ exec c s = .next t :=
  ⟨.memsSettleTimeout, up, _, by decide, rfl⟩

theorem test_wit_LaneCommandsFrame :
    (∃ (c : Instr) (s : State) (t : State), c.onLanes = true ∧ exec c s = .next t) ∧
    (∃ (c : Instr) (s : State) (t : State), c.onLines = true ∧ exec c s = .next t) :=
  ⟨⟨(.tiaGainAcquired 8 1), up, _, by decide, rfl⟩,
    ⟨(.lanyardSymbolBoundary ⟨8, []⟩), live, _, by decide, rfl⟩⟩

theorem test_wit_MailboxCommandsFrame :
    ∃ (c : Instr) (s : State) (t : State), c.onMailboxes = true ∧ exec c s = .next t :=
  ⟨(.ping 14), up, _, by decide, rfl⟩

theorem test_wit_ManagementCommandsFrame :
    ∃ (c : Instr) (s : State) (t : State), c.onManagement = true ∧ exec c s = .next t :=
  ⟨.cmisFlagEvaluation, up, _, by decide, rfl⟩

end Sys2Proof.Tests
end

section
/-! The reset and its release (R22, R389): what each event of the boot leaves of the reset's state and of SRAM, and the
obligation on resets. -/

namespace Sys2Proof.Machine

/-- What a boot settles: whether the reset is still asserted, the reset epoch, the SRAM bytes and their flipped bits. -/
def State.bootView (s : State) : Bool × BitVec 16 × List Host.Cell × List (Nat × List Nat) :=
  (s.pwr.held, s.fw.epoch, s.sram, s.ecc.flips)

/-! ## Operations that leave it alone -/

@[simp] theorem State.put_bootView (s : State) (f : Fld) (v n m : Nat) : (s.put f v n m).bootView = s.bootView := rfl
@[simp] theorem State.putB_bootView (s : State) (f : Fld) (b : Bool) (n m : Nat) :
    (s.putB f b n m).bootView = s.bootView := rfl
@[simp] theorem State.writePlain_bootView (s : State) (r : RegD) (v : Word) (n m : Nat) :
    (s.writePlain r v n m).bootView = s.bootView := rfl
@[simp] theorem State.bootBit_bootView (s : State) (b : Nat) (v : Bool) : (s.bootBit b v).bootView = s.bootView := rfl
@[simp] theorem State.modBst_bootView (s : State) (f : Bst → Bst) : (s.modBst f).bootView = s.bootView := rfl
@[simp] theorem State.modTim_bootView (s : State) (f : Tim → Tim) : (s.modTim f).bootView = s.bootView := rfl
@[simp] theorem State.modMbx_bootView (s : State) (f : Mbx → Mbx) : (s.modMbx f).bootView = s.bootView := rfl
@[simp] theorem State.free_bootView (s : State) (site : Nat) : (s.free site).2.bootView = s.bootView := rfl
@[simp] theorem State.flashWrite_bootView (s : State) (o : Nat) (bs : List Byte) :
    (s.flashWrite o bs).bootView = s.bootView := rfl
@[simp] theorem State.ledgerAppend_bootView (s : State) (r : List Byte) : (s.ledgerAppend r).bootView = s.bootView := rfl

/-- An update of the firmware's state leaves it alone where it keeps the epoch. -/
theorem State.modFw_bootView (s : State) (f : Fw → Fw) (h : (f s.fw).epoch = s.fw.epoch) :
    (s.modFw f).bootView = s.bootView := by
  simp [State.bootView, State.modFw, h]

@[simp] theorem State.post_bootView (s : State) (code lane arg : Nat) :
    (s.post code lane arg).bootView = s.bootView := by
  simp [State.bootView]

@[simp] theorem State.postBare_bootView (s : State) (code lane : Nat) :
    (s.postBare code lane).bootView = s.bootView := by
  simp [State.postBare]

@[simp] theorem State.noteFail_bootView (s : State) (f : Option Nat) : (s.noteFail f).bootView = s.bootView := by
  cases f <;> rfl

@[simp] theorem State.invalidate_bootView (s : State) : s.invalidate.bootView = s.bootView := by
  unfold State.invalidate ppsGate
  split <;> simp

/-- Repeated operations leave it alone where each does. -/
theorem foldl_bootView {α : Type} {g : State → α → State} (hg : ∀ s x, (g s x).bootView = s.bootView) (l : List α)
    (s : State) : (l.foldl g s).bootView = s.bootView := by
  induction l generalizing s with
  | nil => rfl
  | cons x l ih => rw [List.foldl_cons, ih, hg]

/-! ## The events of the boot -/

theorem ledgerTurn_bootView (s : State) : (ledgerTurn s).bootView = s.bootView := by
  unfold ledgerTurn
  split
  · rfl
  · extract_lets h t u
    rw [State.modBst_bootView, State.flashWrite_bootView, State.flashWrite_bootView]

theorem repairSram_bootView (f : SramFault) (s : State) : (repairSram f s).2.bootView = s.bootView := by
  unfold repairSram
  split
  · dsimp only
    rw [apply_ite State.bootView, State.post_bootView, ite_self, State.ledgerAppend_bootView, State.modBst_bootView]
  · split
    · rfl
    · split
      · exact State.ledgerAppend_bootView ..
      · rfl

theorem repairAll_bootView (l : List SramFault) (s : State) : (repairAll l s).2.bootView = s.bootView := by
  have step : ∀ acc : Nat × State, (l.foldl (fun (acc : Nat × State) f =>
      let (ok, s) := repairSram f acc.2; (acc.1 + ok.toNat, s)) acc).2.bootView = acc.2.bootView := by
    induction l with
    | nil => intro acc; rfl
    | cons f l ih => intro acc; rw [List.foldl_cons, ih]; exact repairSram_bootView f acc.2
  exact step (0, s)

theorem startupTest_bootView (t : SelfTest) (s : State) : (startupTest t s).bootView = s.bootView := by
  unfold startupTest
  by_cases hc : s.fw.otp.compat = true
  · simp [hc]
  · simp only [hc, Bool.false_eq_true, if_false]
    rw [foldl_bootView (fun s n => State.put_bootView ..), foldl_bootView (fun s e => State.put_bootView ..)]
    simp [repairAll_bootView]

theorem startupRecs_bootView (t : SelfTest) (s : State) : (startupRecs t s).bootView = s.bootView := by
  unfold startupRecs
  extract_lets fail used
  refine foldl_bootView (fun s b => ?_) _ s
  simp only [State.modBst_bootView, State.free_bootView]

theorem persBoot_bootView (s : State) : (persBoot s).bootView = s.bootView := by
  unfold persBoot
  extract_lets f r d lim w limited allowed quotas
  split
  · exact State.noteFail_bootView s f
  · calc _ = quotas.bootView := State.modFw_bootView _ _ rfl
      _ = allowed.bootView := foldl_bootView (fun s q => State.put_bootView ..) _ allowed
      _ = limited.bootView := State.modMbx_bootView ..
      _ = (eachBelow 9 (fun n s => s.writePlain R.OLC_SAFE_LIM (w n) n) s).bootView := State.writePlain_bootView ..
      _ = s.bootView := foldl_bootView (fun s n => State.writePlain_bootView ..) _ s

/-- Cleat's first events release the reset and count the epoch (R22). -/
theorem cleatFirst_bootView (scl sda : Bool) (s : State) :
    (cleatFirst scl sda s).bootView = (false, s.fw.epoch + 1, s.sram, s.ecc.flips) := by
  unfold cleatFirst
  dsimp only
  rw [State.modFw_bootView _ _ rfl]
  simp only [State.noteFail_bootView, State.putB_bootView]
  split
  · simp only [State.postBare_bootView, State.invalidate_bootView]
    rfl
  · rfl

/-- The self-test ends with every byte of SRAM zero and no bit flipped (R22, R399). -/
theorem cleatTest_bootView (t : SelfTest) (s : State) :
    (cleatTest t s).bootView = (s.pwr.held, s.fw.epoch, [], []) := by
  have h : (startupRecs t (startupTest t (ledgerTurn s))).bootView = s.bootView := by
    rw [startupRecs_bootView, startupTest_bootView, ledgerTurn_bootView]
  simp only [State.bootView, Prod.mk.injEq] at h
  obtain ⟨hheld, hepoch, -, -⟩ := h
  simp [cleatTest, State.bootView, hheld, hepoch]

theorem cleatLast_bootView (s : State) : (cleatLast s).bootView = s.bootView := by
  unfold cleatLast
  dsimp only
  split
  · rw [State.put_bootView, State.modFw_bootView _ _ rfl, persBoot_bootView]
  · rw [State.modFw_bootView _ _ rfl, persBoot_bootView]

/-- The whole boot of a released reset. -/
theorem boot_bootView (scl sda : Bool) (t : SelfTest) (s : State) :
    (cleatLast (cleatTest t (cleatFirst scl sda s))).bootView = (false, s.fw.epoch + 1, [], []) := by
  have h := cleatFirst_bootView scl sda s
  simp only [State.bootView, Prod.mk.injEq] at h
  obtain ⟨hheld, hepoch, -, -⟩ := h
  rw [cleatLast_bootView, cleatTest_bootView, hheld, hepoch]

/-- Unlisted bytes are zero, wherever a retired page's accesses go (R22, R399). -/
theorem State.byte_of_sram_nil {s : State} (h : s.sram = []) (a : Nat) : s.byte a = 0 := by
  simp [State.byte, State.physByte, h, Bank.get, Bank.find]

/-! ## The reset itself -/

theorem otpCal_pwr (s : State) : (otpCal s).pwr = s.pwr := by
  unfold otpCal
  generalize s.fw.otp.cal = l
  induction l generalizing s with
  | nil => rfl
  | cons p l ih =>
    rw [List.foldl_cons, ih]
    split <;> rfl

/-- A reset is asserted as it begins; the supply stays as it is (R22, R389). -/
theorem State.deviceReset_pwr (s : State) (por : Bool) (cause : Nat) :
    (s.deviceReset por cause).pwr = { vin := s.pwr.vin, rcStart := s.pwr.rcStart && !por } := by
  unfold State.deviceReset
  rw [State.put_pwr, otpCal_pwr]
  rfl

theorem exec_aonWatchdogExpiry (s : State) : exec .aonWatchdogExpiry s = .next (aonReset 5 s) := rfl

theorem exec_brownOut {s : State} (v : Bool) (h : s.pwr.vin = true) :
    exec (.brownOut v) s = .next ((s.deviceReset true 2).modPwr fun p => { p with vin := !v }) := if_pos h

theorem exec_porRelease {s : State} (scl sda : Bool) (t : SelfTest) (hh : s.pwr.held = true) (hv : s.pwr.vin = true) :
    exec (.porRelease scl sda t) s = .next (cleatLast (cleatTest t (cleatFirst scl sda s))) :=
  if_neg (by simp [hh, hv])

/-- Settles O48: the reset holds the device, and the view that the boot leaves says the rest. -/
theorem resetIsFullBoot : Obligations.ResetIsFullBoot := by
  refine ⟨fun s hv hh => ?_, fun v s hv => ?_, fun scl sda u s hh hv => ?_⟩
  · have hr : aonReset 5 s = s.deviceReset false 5 := by simp [aonReset, hh, hv]
    exact ⟨_, exec_aonWatchdogExpiry s, by rw [hr, State.deviceReset_pwr], by rw [hr, State.deviceReset_pwr]; exact hv⟩
  · exact ⟨_, exec_brownOut v hv, by rw [State.modPwr_pwr, State.deviceReset_pwr]⟩
  · have h := boot_bootView scl sda u s
    simp only [State.bootView, Prod.mk.injEq] at h
    obtain ⟨hheld, hepoch, hsram, hflips⟩ := h
    exact ⟨_, exec_porRelease scl sda u hh hv, hheld, State.byte_of_sram_nil hsram, hflips, hepoch⟩

end Sys2Proof.Machine
end

section
/-! The judgement of accesses (R27): what a refused access leaves in the capture registers (R26, R28, R383), which check
decides it, and the obligation on the order of the checks. -/

namespace Sys2Proof.Machine

/-! ## Registers after a performance count -/

theorem Registers.perf_wf {s : State} (h : Registers.wf s = true) (j k : Nat) : Registers.wf (s.perf j k) = true :=
  (State.perf_keeps (ms := false) j k (Keeps.refl s)).regs h

/-- Counting writes no register but PMU_OVF (R369). -/
theorem State.perfAdd_word {x : RegD} {i l : Nat} (hx : ∀ n, x.addr i l ≠ R.PMU_OVF.addr n 0) (fuel : Nat) :
    ∀ {s : State} (j k : Nat), Registers.wf s = true → (s.perfAdd fuel j k).word x i l = s.word x i l := by
  induction fuel with
  | zero =>
    intro s j k h
    unfold State.perfAdd
    extract_lets sum mon counted wrapped
    have hwrap : wrapped.word x i l = s.word x i l := State.word_setWord_other (s := counted) h _ x _ _ 0 i l (hx _)
    split
    · rfl
    · exact hwrap
  | succ fuel ih =>
    intro s j k h
    unfold State.perfAdd
    extract_lets sum mon counted wrapped
    have hwrap : wrapped.word x i l = s.word x i l := State.word_setWord_other (s := counted) h _ x _ _ 0 i l (hx _)
    split
    · rfl
    · dsimp only
      split
      · exact (ih _ _ (Registers.setWord_wf (s := counted) h ..)).trans hwrap
      · exact hwrap

theorem State.perf_word {s : State} (h : Registers.wf s = true) {x : RegD} {i l : Nat}
    (hx : ∀ n, x.addr i l ≠ R.PMU_OVF.addr n 0) (j k : Nat) : (s.perf j k).word x i l = s.word x i l := by
  unfold State.perf
  split
  · rfl
  · exact State.perfAdd_word hx 255 j k h

/-! ## A pair of capture registers -/

/-- The update that TOP_DECERR and PWR_OFFACC share: register ad takes the address a; in the status register st field
[hi:lo] takes the kind v of refusal, bit 20 the direction and bits 19 to 16 the requester, and bits 15 to 0 count. -/
def State.latchAccess (s : State) (ad st : RegD) (hi lo a v : Nat) (write : Bool) (q : Req) : State :=
  ((((s.setWord ad (BitVec.ofNat 32 a)).put ⟨st, hi, lo⟩ v).putB ⟨st, 20, 20⟩ write).put ⟨st, 19, 16⟩ (reqNum q)).addSat
    ⟨st, 15, 0⟩ 1

theorem State.capture_eq (s : State) (q : Req) (a cause : Nat) (write : Bool) : s.capture q a cause write
    = (s.latchAccess R.TOP_DECERR_ADDR R.TOP_DECERR_STAT 23 22 a cause write q).perf 0xF7 := rfl

theorem State.offAccess_eq (s : State) (q : Req) (a : Nat) (write : Bool) : s.offAccess q a write
    = (s.latchAccess R.PWR_OFFACC_ADDR R.PWR_OFFACC_STAT 31 24 a (offDomain a) write q).perf 0xF6 := rfl

theorem reqNum_lt (q : Req) : reqNum q < 16 := by
  cases q with
  | rigger c => exact Nat.lt_of_lt_of_le (Nat.succ_lt_succ c.isLt) (by decide)
  | _ => decide

theorem blockOf_lt {a b : Nat} (h : blockOf a = some b) : b < 27 := by
  simp only [blockOf, Bool.and_eq_true, decide_eq_true_eq] at h
  repeat' split at h
  all_goals (cases h <;> omega)

theorem offDomain_lt (a : Nat) : offDomain a < 256 := by
  unfold offDomain
  split
  · decide
  · decide
  · decide
  · have := blockOf_lt ‹_›
    split <;> omega
  · decide

section
variable {s : State} {ad st : RegD} {hi lo a v : Nat} {write : Bool} {q : Req}

theorem Registers.latchAccess_wf (h : Registers.wf s = true) :
    Registers.wf (s.latchAccess ad st hi lo a v write q) = true :=
  Registers.put_wf (Registers.put_wf (Registers.put_wf (Registers.put_wf (Registers.setWord_wf h ..) ..) ..) ..) ..

/-- The fields lie in the status register: any other register reads as after the address was stored. -/
theorem State.latchAccess_setWord (h : Registers.wf s = true) {x : RegD} {i j : Nat} (hs : x.addr i j ≠ st.addr 0 0) :
    (s.latchAccess ad st hi lo a v write q).word x i j = (s.setWord ad (BitVec.ofNat 32 a)).word x i j := by
  have h1 := Registers.setWord_wf h ad (BitVec.ofNat 32 a) 0 0
  have h2 := Registers.put_wf h1 ⟨st, hi, lo⟩ v 0 0
  have h3 := Registers.put_wf h2 ⟨st, 20, 20⟩ write.toNat 0 0
  have h4 := Registers.put_wf h3 ⟨st, 19, 16⟩ (reqNum q) 0 0
  unfold State.latchAccess State.addSat State.putB
  rw [State.word_put_other h4 _ _ _ _ _ _ _ hs, State.word_put_other h3 _ _ _ _ _ _ _ hs,
    State.word_put_other h2 _ _ _ _ _ _ _ hs, State.word_put_other h1 _ _ _ _ _ _ _ hs]

/-- No other register changes. -/
theorem State.latchAccess_word (h : Registers.wf s = true) {x : RegD} {i j : Nat} (ha : x.addr i j ≠ ad.addr 0 0)
    (hs : x.addr i j ≠ st.addr 0 0) : (s.latchAccess ad st hi lo a v write q).word x i j = s.word x i j :=
  (State.latchAccess_setWord h hs).trans (State.word_setWord_other h _ _ _ _ _ _ _ ha)

/-- The address register holds the address. -/
theorem State.latchAccess_addr (h : Registers.wf s = true) (hd : ad.addr 0 0 ≠ st.addr 0 0) :
    (s.latchAccess ad st hi lo a v write q).word ad = BitVec.ofNat 32 a :=
  (State.latchAccess_setWord h hd).trans (State.word_setWord_same h _ _ _ _)

/-- A field above the one written keeps its value. -/
theorem State.get_put_above (h : Registers.wf s = true) {b c d e n w : Nat} (hf : c ≤ b ∧ b < e ∧ e ≤ d ∧ d < 32) :
    (s.put ⟨st, b, c⟩ w n).get ⟨st, d, e⟩ n = s.get ⟨st, d, e⟩ n := by
  obtain ⟨hcb, hbe, hed, hd⟩ := hf
  exact State.get_put_near h ⟨st, b, c⟩ ⟨st, d, e⟩ w n 0 rfl hcb (by dsimp only; omega) hed (.inr hbe)

/-- The status register names the kind, the direction and the requester. -/
theorem State.latchAccess_stat (h : Registers.wf s = true) (hl : 20 < lo) (hlh : lo ≤ hi) (hh : hi < 32)
    (hv : v < 2 ^ (hi + 1 - lo)) :
    (s.latchAccess ad st hi lo a v write q).get ⟨st, hi, lo⟩ = v
      ∧ (s.latchAccess ad st hi lo a v write q).flag ⟨st, 20, 20⟩ = write
      ∧ (s.latchAccess ad st hi lo a v write q).get ⟨st, 19, 16⟩ = reqNum q := by
  have h1 := Registers.setWord_wf h ad (BitVec.ofNat 32 a) 0 0
  have h2 := Registers.put_wf h1 ⟨st, hi, lo⟩ v 0 0
  have h3 := Registers.put_wf h2 ⟨st, 20, 20⟩ write.toNat 0 0
  have h4 := Registers.put_wf h3 ⟨st, 19, 16⟩ (reqNum q) 0 0
  unfold State.latchAccess State.flag State.addSat State.putB
  refine ⟨?_, ?_, ?_⟩
  · rw [State.get_put_above h4 (by omega), State.get_put_above h3 (by omega), State.get_put_above h2 (by omega),
      State.get_put_same h1 _ _ _ _ hlh hh]
    exact Nat.mod_eq_of_lt hv
  · rw [State.get_put_above h4 (by omega), State.get_put_above h3 (by omega),
      State.get_put_same h2 _ _ _ _ (show 20 ≤ 20 by decide) (show 20 < 32 by decide)]
    cases write <;> rfl
  · rw [State.get_put_above h4 (by omega),
      State.get_put_same h3 _ _ _ _ (show 16 ≤ 19 by decide) (show 19 < 32 by decide)]
    exact Nat.mod_eq_of_lt (reqNum_lt q)

/-- A register below the PMU block is no PMU_OVF. -/
theorem addr_ne_pmuOvf {x : Nat} (h : x < 0x16001020) (n : Nat) : x ≠ R.PMU_OVF.addr n 0 := by
  have : R.PMU_OVF.addr n 0 = 0x16001020 + 4 * n + 0 := rfl
  omega

/-- The pair still says so once the refusal is counted. -/
theorem State.latchAccess_perf (h : Registers.wf s = true) (hd : ad.addr 0 0 ≠ st.addr 0 0)
    (had : ad.addr 0 0 < 0x16001020) (hst : st.addr 0 0 < 0x16001020) (hl : 20 < lo) (hlh : lo ≤ hi) (hh : hi < 32)
    (hv : v < 2 ^ (hi + 1 - lo)) (j : Nat) {t : State} (ht : t = (s.latchAccess ad st hi lo a v write q).perf j) :
    t.word ad = BitVec.ofNat 32 a ∧ t.get ⟨st, hi, lo⟩ = v ∧ t.flag ⟨st, 20, 20⟩ = write
      ∧ t.get ⟨st, 19, 16⟩ = reqNum q := by
  have hw := Registers.latchAccess_wf (ad := ad) (st := st) (hi := hi) (lo := lo) (a := a) (v := v) (write := write)
    (q := q) h
  have hword := (State.perf_word hw (addr_ne_pmuOvf had) j 1).trans (State.latchAccess_addr h hd)
  have hstat := State.perf_word hw (addr_ne_pmuOvf hst) j 1
  obtain ⟨hkind, hwrite, hreq⟩ := State.latchAccess_stat (ad := ad) (st := st) (a := a) (write := write) (q := q) h hl hlh
    hh hv
  subst ht
  exact ⟨hword, (congrArg (bitsOf · hi lo) hstat).trans hkind,
    (congrArg (fun w => decide (bitsOf w 20 20 = 1)) hstat).trans hwrite, (congrArg (bitsOf · 19 16) hstat).trans hreq⟩

/-- No other register below the PMU block has changed then. -/
theorem State.latchAccess_perf_word (h : Registers.wf s = true) {x : RegD} {i l : Nat} (ha : x.addr i l ≠ ad.addr 0 0)
    (hs : x.addr i l ≠ st.addr 0 0) (hx : x.addr i l < 0x16001020) (j : Nat) :
    ((s.latchAccess ad st hi lo a v write q).perf j).word x i l = s.word x i l :=
  (State.perf_word (Registers.latchAccess_wf h) (addr_ne_pmuOvf hx) j 1).trans (State.latchAccess_word h ha hs)

end

/-! ## What each refusal leaves -/

section
variable {s : State} (h : Registers.wf s = true) (q : Req) (write : Bool)
include h

/-- A refusal with a CAUSE stands in the TOP registers (R26, R28). -/
theorem State.capture_captured (a : Word) {cause : Nat} (hc : cause < 4) :
    (s.capture q a.toNat cause write).captured q a cause write := by
  have hlatch := State.latchAccess_perf h (by decide) (by decide) (by decide) (by decide) (by decide) (by decide) hc 0xF7
    (s.capture_eq q a.toNat cause write)
  rwa [BitVec.ofNat_toNat, BitVec.setWidth_eq] at hlatch

theorem State.capture_sameOff (a cause : Nat) : s.sameOff (s.capture q a cause write) := by
  rw [State.capture_eq]
  exact ⟨State.latchAccess_perf_word h (by decide) (by decide) (by decide) _,
    State.latchAccess_perf_word h (by decide) (by decide) (by decide) _⟩

/-- An access to a block that is off stands in the PWR_OFFACC registers (R383). -/
theorem State.offAccess_offCaptured (a : Word) : (s.offAccess q a.toNat write).offCaptured q a write := by
  have hlatch := State.latchAccess_perf h (by decide) (by decide) (by decide) (by decide) (by decide) (by decide)
    (offDomain_lt a.toNat) 0xF6 (s.offAccess_eq q a.toNat write)
  rwa [BitVec.ofNat_toNat, BitVec.setWidth_eq] at hlatch

theorem State.offAccess_sameTop (a : Nat) : s.sameTop (s.offAccess q a write) := by
  rw [State.offAccess_eq]
  exact ⟨State.latchAccess_perf_word h (by decide) (by decide) (by decide) _,
    State.latchAccess_perf_word h (by decide) (by decide) (by decide) _⟩

/-- A mailbox's refusal is captured in neither pair (R287). -/
theorem State.mbxRefuse_uncaptured (m cause : Nat) :
    s.sameTop (s.mbxRefuse m cause) ∧ s.sameOff (s.mbxRefuse m cause) := by
  have hword : ∀ x : RegD, x.addr 0 0 < 0x13000044 → (s.mbxRefuse m cause).word x = s.word x := by
    intro x hx
    have hne : x.addr 0 0 ≠ R.MBX_STAT.addr m 0 := by
      have : R.MBX_STAT.addr m 0 = 0x13000044 + 0x100 * m + 0 := rfl
      omega
    unfold State.mbxRefuse
    rw [State.word_put_other (Registers.put_wf h ..) _ _ _ _ _ _ _ hne, State.word_put_other h _ _ _ _ _ _ _ hne]
  exact ⟨⟨hword _ (by decide), hword _ (by decide)⟩, hword _ (by decide), hword _ (by decide)⟩

end

/-! ## Which check decides -/

section
variable {q : Req} {k a n m : Nat} {write : Bool} {s : State} {r : RegD}

theorem regCheck_narrow (h : k ≠ 4 ∨ a % 4 ≠ 0) : regCheck q k a write s = .error .narrow := if_pos (by simpa using h)

theorem regCheck_unmapped (ha : a % 4 = 0) (hf : findReg a = none) : regCheck q 4 a write s = .error .unmapped := by
  simp [regCheck, ha, hf]

theorem regCheck_denied (ha : a % 4 = 0) (hf : findReg a = some (r, n, m)) (hg : regGrant s q r n write = false) :
    regCheck q 4 a write s = .error .denied := by
  simp [regCheck, ha, hf, hg]

theorem regCheck_off (ha : a % 4 = 0) (hf : findReg a = some (r, n, m)) (hg : regGrant s q r n write = true)
    (ho : blockOff s a = true) : regCheck q 4 a write s = .error .off := by
  simp [regCheck, ha, hf, hg, ho]

theorem regCheck_ok (ha : a % 4 = 0) (hf : findReg a = some (r, n, m)) (hg : regGrant s q r n write = true)
    (ho : blockOff s a = false) : regCheck q 4 a write s = .ok (r, n, m) := by
  simp [regCheck, ha, hf, hg, ho]

/-- The checks of a register access refuse in these four ways only. -/
theorem regCheck_error {e : Acc} (h : regCheck q k a write s = .error e) :
    e = .narrow ∨ e = .unmapped ∨ e = .denied ∨ e = .off := by
  unfold regCheck at h
  repeat' split at h
  all_goals cases h <;> simp

/-- The first check of an SRAM access: 1, 2 or 4 bytes, 8 of them for the DMA and Rigger alone, aligned to the size. -/
theorem sramMisfit_iff : (!([1, 2, 4].contains k || (k = 8 && (isRigger q || q = .dma))) || a % k ≠ 0) = true
    ↔ (k ∈ [1, 2, 4] ∨ (k = 8 ∧ (q = .dma ∨ ∃ c, q = .rigger c)) → a % k ≠ 0) := by
  have hwide : (isRigger q || q = .dma) = true ↔ q = .dma ∨ ∃ c, q = .rigger c := by cases q <;> simp [isRigger]
  rw [← hwide, ← List.contains_iff_mem]
  cases [1, 2, 4].contains k <;> cases (isRigger q || decide (q = .dma)) <;> simp [imp_iff_not_or]

theorem sramCheck_narrow (h : k ∈ [1, 2, 4] ∨ (k = 8 ∧ (q = .dma ∨ ∃ c, q = .rigger c)) → a % k ≠ 0) :
    sramCheck q k a write s = .narrow := if_pos (sramMisfit_iff.mpr h)

section
variable (hk : k ∈ [1, 2, 4]) (ha : a % k = 0)
include hk ha

theorem sramCheck_fits : sramCheck q k a write s
    = if !sramGrant s q a write then .denied else if blockOff s a then .off else .ok :=
  if_neg fun hm => sramMisfit_iff.mp hm (.inl hk) ha

theorem sramCheck_denied (hg : sramGrant s q a write = false) : sramCheck q k a write s = .denied := by
  simp [sramCheck_fits hk ha, hg]

theorem sramCheck_off (hg : sramGrant s q a write = true) (ho : blockOff s a = true) :
    sramCheck q k a write s = .off := by
  simp [sramCheck_fits hk ha, hg, ho]

end

theorem sramCheck_ne_mbx : sramCheck q k a write s ≠ .mbx := by
  intro h
  unfold sramCheck at h
  dsimp only at h
  repeat' split at h
  all_goals cases h

/-! ## What the checks' outcome does -/

theorem busWrite_refused {e : Acc} (v : Word) (hu : s.busUp = true) (h : regCheck q k a true s = .error e) :
    busWrite q k a v s = (e, s.refusal q a true e) := by
  simp [busWrite, hu, h]

/-- Past the four checks of a register that is no mailbox's, the RWL policy decides (R473). -/
theorem busWrite_checked {v : Word} (hu : s.busUp = true) (h : regCheck q k a true s = .ok (r, n, m))
    (hb : mbxTarget r = false) : busWrite q k a v s =
      if rwlChanges s r n m v && !rwlAllows s q r n then (.denied, s.refusal q a true .denied)
      else (.ok, regWrite r n m v (knotDirty a s)) := by
  simp only [mbxTarget, Bool.or_eq_false_iff, decide_eq_false_iff_not] at hb
  obtain ⟨⟨h0, h1⟩, h2⟩ := hb
  simp [busWrite, hu, h, h0, h1, h2]

theorem busRead_refused {e : Acc} (hu : s.busUp = true) (h : regCheck q k a false s = .error e) :
    busRead q k a s = ((e, e.refusedWord), s.refusal q a false e) := by
  simp [busRead, hu, h]

/-- A register read meets no uncorrectable word. -/
theorem busRead_ne_uncorrectable : (busRead q k a s).1.1 ≠ .uncorrectable := by
  unfold busRead
  split
  · simp
  · split
    · rcases regCheck_error ‹_› with he | he | he | he <;> simp [he]
    · simp

theorem sramWrite_refused {bs : List Byte} {e : Acc} (u : Upset) (hu : s.busUp = true)
    (h : sramCheck q bs.length a true s = e) (he : e ≠ .ok) : sramWrite q a bs u s = (e, s.refusal q a true e) := by
  unfold sramWrite
  rw [if_neg (by simp [hu]), h]
  cases e with
  | ok => exact absurd rfl he
  | _ => rfl

/-! ## Refusals by a mailbox -/

/-- An access answered o from state s: where a mailbox refused it, the mailbox's refusal is all that it left (R287). -/
def State.MbxRefusal (s : State) (o : Acc × State) : Prop := o.1 = .mbx → ∃ m c, o.2 = s.mbxRefuse m c

theorem State.mbxRefusal_of_ne {e : Acc} {t : State} (he : e ≠ .mbx) : s.MbxRefusal (e, t) := fun h => absurd h he

theorem mbxWordWrite_mbxRefusal (m w ident : Nat) (v : Word) : s.MbxRefusal (mbxWordWrite m w ident v s) := by
  unfold mbxWordWrite
  split
  · exact State.mbxRefusal_of_ne (by decide)
  · exact fun _ => ⟨_, _, rfl⟩

theorem mbxGo_mbxRefusal (m ident : Nat) (v : Word) : s.MbxRefusal (mbxGo m ident v s) := by
  unfold mbxGo
  dsimp only
  split
  · split <;> exact State.mbxRefusal_of_ne (by decide)
  · exact fun _ => ⟨_, _, rfl⟩

theorem busWrite_mbxRefusal (q : Req) (k a : Nat) (v : Word) : s.MbxRefusal (busWrite q k a v s) := by
  unfold busWrite
  split
  · exact State.mbxRefusal_of_ne (by decide)
  · split
    · rcases regCheck_error ‹_› with rfl | rfl | rfl | rfl <;> exact State.mbxRefusal_of_ne (by decide)
    · split
      · exact mbxWordWrite_mbxRefusal _ _ _ _
      · split
        · exact mbxWordWrite_mbxRefusal _ _ _ _
        · split
          · exact mbxGo_mbxRefusal _ _ _
          · split <;> exact State.mbxRefusal_of_ne (by decide)

theorem sramWrite_mbxRefusal (q : Req) (a : Nat) (bs : List Byte) (u : Upset) :
    s.MbxRefusal (sramWrite q a bs u s) := by
  unfold sramWrite
  split
  · exact State.mbxRefusal_of_ne (by decide)
  · split
    · extract_lets m cause
      split
      · exact fun _ => ⟨_, _, rfl⟩
      · split <;> exact State.mbxRefusal_of_ne (by decide)
    · exact State.mbxRefusal_of_ne sramCheck_ne_mbx

theorem anyWrite_mbxRefusal (q : Req) (a : Nat) (bs : List Byte) (u : Upset) :
    s.MbxRefusal (anyWrite q a bs u s) := by
  unfold anyWrite
  split
  · exact sramWrite_mbxRefusal _ _ _ _
  · exact busWrite_mbxRefusal _ _ _ _

end

/-! ## The access commands -/

section
variable {q : Req} {k : Nat} {a v : Word} {bs : List Byte} {u : Upset} {s : State}

theorem exec_registerWrite (q : Req) (k : Nat) (a v : Word) (s : State) : exec (.registerWrite q k a v) s
    = .next ((anyWrite q a.toNat (leBytes k v.toNat) .none s).2.answer
        (.access (anyWrite q a.toNat (leBytes k v.toNat) .none s).1 0)) := rfl

theorem exec_sramPartialWrite (q : Req) (a : Word) (bs : List Byte) (u : Upset) (s : State) :
    exec (.sramPartialWrite q a bs u) s
      = .next ((anyWrite q a.toNat bs u s).2.answer (.access (anyWrite q a.toNat bs u s).1 0)) := rfl

/-- A register write that a check refuses answers so and leaves the refusal's capture. -/
theorem exec_registerWrite_refused {e : Acc} (v : Word) (hu : s.busUp = true) (hs : isSram a.toNat = false)
    (hc : regCheck q k a.toNat true s = .error e) :
    exec (.registerWrite q k a v) s = .next ((s.refusal q a.toNat true e).answer (.access e 0)) := by
  have hany : anyWrite q a.toNat (leBytes k v.toNat) .none s = (e, s.refusal q a.toNat true e) := by
    rw [anyWrite, if_neg (by simp [hs]), leBytes_length, busWrite_refused _ hu hc]
  rw [exec_registerWrite, hany]

theorem exec_registerWrite_word (v : Word) (hs : isSram a.toNat = false) : exec (.registerWrite q 4 a v) s
    = .next ((busWrite q 4 a.toNat v s).2.answer (.access (busWrite q 4 a.toNat v s).1 0)) := by
  rw [exec_registerWrite, anyWrite_reg q v .none s hs]

theorem exec_sramPartialWrite_refused {e : Acc} (u : Upset) (hu : s.busUp = true) (hs : isSram a.toNat = true)
    (hc : sramCheck q bs.length a.toNat true s = e) (he : e ≠ .ok) :
    exec (.sramPartialWrite q a bs u) s = .next ((s.refusal q a.toNat true e).answer (.access e 0)) := by
  have hany : anyWrite q a.toNat bs u s = (e, s.refusal q a.toNat true e) := by
    rw [anyWrite, if_pos hs, sramWrite_refused u hu hc he]
  rw [exec_sramPartialWrite, hany]

/-- Outside SRAM a read by a requester's path is a register read. -/
theorem exec_sramRead_reg {p : ReadPath} (u : Upset) (hp : readRequester p = some q) (hs : isSram a.toNat = false) :
    exec (.sramRead p k a u) s = .next ((busRead q k a.toNat s).2.answer
      (.access (busRead q k a.toNat s).1.1 (BitVec.ofNat 64 (leVal (leBytes k (busRead q k a.toNat s).1.2.toNat))))) := by
  have hm : readMem p = none := by cases p <;> cases hp <;> rfl
  have hany : anyRead q k a.toNat u s = (((busRead q k a.toNat s).1.1, leBytes k (busRead q k a.toNat s).1.2.toNat),
      (busRead q k a.toNat s).2) := if_neg (by simp [hs])
  have hexec : exec (.sramRead p k a u) s = execSramRead p k a u s := rfl
  simp only [hexec, execSramRead, hm, hp, hany, if_neg busRead_ne_uncorrectable]

/-! ## The judgement of an access -/

theorem State.refusal_off (s : State) (q : Req) (a : Nat) (write : Bool) :
    s.refusal q a write .off = s.offAccess q a write := rfl

/-- An answer to the sender captures nothing. -/
theorem State.answer_captured {t : State} {x : Resp} {c : Nat} {write : Bool} :
    (t.answer x).captured q a c write ↔ t.captured q a c write := Iff.rfl
theorem State.answer_offCaptured {t : State} {x : Resp} {write : Bool} :
    (t.answer x).offCaptured q a write ↔ t.offCaptured q a write := Iff.rfl
theorem State.answer_sameOff {t : State} {x : Resp} : s.sameOff (t.answer x) ↔ s.sameOff t := Iff.rfl
theorem State.answer_sameTop {t : State} {x : Resp} : s.sameTop (t.answer x) ↔ s.sameTop t := Iff.rfl

/-- The CAUSE of a refusal that the TOP registers capture (R26). -/
def Acc.cause : Acc → Option Nat
  | .narrow => some 1
  | .unmapped => some 0
  | .denied => some 2
  | _ => none

/-- What each refusal but that of a block that is off captures: its CAUSE in the TOP registers. -/
theorem State.refusal_captured (h : Registers.wf s = true) (q : Req) (a : Word) (write : Bool) {c : Nat} {e : Acc}
    (he : e.cause = some c) :
    (s.refusal q a.toNat write e).captured q a c write ∧ s.sameOff (s.refusal q a.toNat write e) := by
  have hcap : c < 4 ∧ s.refusal q a.toNat write e = s.capture q a.toNat c write := by
    cases e <;> cases he <;> exact ⟨by decide, rfl⟩
  obtain ⟨hc, heq⟩ := hcap
  rw [heq]
  exact ⟨State.capture_captured h q write a hc, State.capture_sameOff h q write _ _⟩

/-- A write refused with a CAUSE. -/
theorem refused_write {o : Host.Outcome State Fault Refusal} {e : Acc} {c : Nat} (h : Registers.wf s = true)
    (he : e.cause = some c)
    (ho : o = .next ((s.refusal q a.toNat true e).answer (.access e 0))) :
    ∃ t, o = .next t ∧ t.resp = .access e 0 ∧ t.captured q a c true ∧ s.sameOff t := by
  obtain ⟨hcap, hoff⟩ := State.refusal_captured h q a true he
  exact ⟨_, ho, State.answer_resp .., State.answer_captured.mpr hcap, State.answer_sameOff.mpr hoff⟩

/-- A write to a block that is off. -/
theorem off_write {o : Host.Outcome State Fault Refusal} (h : Registers.wf s = true)
    (ho : o = .next ((s.refusal q a.toNat true .off).answer (.access .off 0))) :
    ∃ t, o = .next t ∧ t.resp = .access .off 0 ∧ t.offCaptured q a true ∧ s.sameTop t := by
  rw [State.refusal_off] at ho
  exact ⟨_, ho, State.answer_resp .., State.answer_offCaptured.mpr (State.offAccess_offCaptured h q true a),
    State.answer_sameTop.mpr (State.offAccess_sameTop h q true _)⟩

/-- A read refused with a CAUSE. -/
theorem refused_read {e : Acc} {c : Nat} (h : Registers.wf s = true) (hu : s.busUp = true)
    (he : e.cause = some c) (hw : e.refusedWord = 0)
    (hc : regCheck q k a.toNat false s = .error e) : (busRead q k a.toNat s).1 = (e, 0)
      ∧ (busRead q k a.toNat s).2.captured q a c false ∧ s.sameOff (busRead q k a.toNat s).2 := by
  rw [busRead_refused hu hc, hw]
  exact ⟨rfl, State.refusal_captured h q a false he⟩

end

/-- Settles O49: each clause is the check that decides and what a refusal by it captures. -/
theorem accessesJudgedInOrder : Obligations.AccessesJudgedInOrder := by
  refine ⟨?narrowWrite, ?unmappedWrite, ?deniedWrite, ?offWrite, ?policyWrite, ?grantedWrite, ?mailboxWrite,
    ?narrowRead, ?unmappedRead, ?deniedRead, ?offRead, ?pathRead, ?narrowSram, ?deniedSram, ?offSram⟩
  case narrowWrite =>
    exact fun q k a v s h hu hs hk =>
      refused_write h rfl (exec_registerWrite_refused v hu hs (regCheck_narrow hk))
  case unmappedWrite =>
    exact fun q a v s h hu ha hs hf =>
      refused_write h rfl (exec_registerWrite_refused v hu hs (regCheck_unmapped ha hf))
  case deniedWrite =>
    exact fun q a v r n m s h hu ha hf hg =>
      refused_write h rfl (exec_registerWrite_refused v hu (findReg_low hf) (regCheck_denied ha hf hg))
  case offWrite =>
    exact fun q a v r n m s h hu ha hf hg ho =>
      off_write h (exec_registerWrite_refused v hu (findReg_low hf) (regCheck_off ha hf hg ho))
  case policyWrite =>
    intro q a v r n m s h hu ha hf hg ho hb hr hp
    have hw := busWrite_checked (v := v) hu (regCheck_ok ha hf hg ho) hb
    rw [if_pos (by simp [hr, hp])] at hw
    exact refused_write h rfl (by rw [exec_registerWrite_word v (findReg_low hf), hw])
  case grantedWrite =>
    intro q a v r n m s h hu ha hf hg ho hb hp
    have hw := busWrite_checked (v := v) hu (regCheck_ok ha hf hg ho) hb
    rw [if_neg (by simpa using hp)] at hw
    exact ⟨_, exec_registerWrite_word v (findReg_low hf), by rw [hw, State.answer_resp]⟩
  case mailboxWrite =>
    intro q a v s t h hu he hr
    rw [exec_registerWrite] at he
    cases he
    have hmbx : (anyWrite q a.toNat (leBytes 4 v.toNat) .none s).1 = .mbx := by
      simpa only [State.answer_resp, Resp.access.injEq, and_true] using hr
    obtain ⟨m, c, ht⟩ := anyWrite_mbxRefusal q a.toNat (leBytes 4 v.toNat) .none hmbx
    rw [ht]
    exact State.mbxRefuse_uncaptured h m c
  case narrowRead => exact fun q k a s h hu hk hs => refused_read h hu rfl rfl (regCheck_narrow hk)
  case unmappedRead => exact fun q a s h hu ha hs hf => refused_read h hu rfl rfl (regCheck_unmapped ha hf)
  case deniedRead => exact fun q a r n m s h hu ha hf hg => refused_read h hu rfl rfl (regCheck_denied ha hf hg)
  case offRead =>
    intro q a r n m s h hu ha hf hg ho
    rw [busRead_refused hu (regCheck_off ha hf hg ho), State.refusal_off]
    exact ⟨rfl, State.offAccess_offCaptured h q false a, State.offAccess_sameTop h q false _⟩
  case pathRead => exact fun p q k a u s hp hs => exec_sramRead_reg u hp hs
  case narrowSram =>
    exact fun q a bs u s h hu hs hk =>
      refused_write h rfl (exec_sramPartialWrite_refused u hu hs (sramCheck_narrow hk) (by decide))
  case deniedSram =>
    rintro q a bs u s h hu hs ⟨hk, ha⟩ hg
    exact refused_write h rfl (exec_sramPartialWrite_refused u hu hs (sramCheck_denied hk ha hg) (by decide))
  case offSram =>
    rintro q a bs u s h hu hs ⟨hk, ha⟩ hg ho
    exact off_write h (exec_sramPartialWrite_refused u hu hs (sramCheck_off hk ha hg ho) (by decide))

end Sys2Proof.Machine
end

section
/-! The comparison of RAW values (R230): the signed difference is the subtraction of 48-bit words read in two's
complement, and the obligation on RAW comparison. -/

namespace Sys2Proof.Machine

/-- R230's formula, over the integers. -/
theorem rawDiff_eq_emod (a b : BitVec 48) : rawDiff a b = ((a.toNat : Int) - b.toNat + 2 ^ 47) % 2 ^ 48 - 2 ^ 47 := rfl

theorem rawDiff_eq_bmod (a b : BitVec 48) : rawDiff a b = ((a.toNat : Int) - b.toNat).bmod (2 ^ 48) := by
  rw [rawDiff_eq_emod, Int.bmod_def]
  omega

/-- Nothing is lost at a wrap of RAW, because subtraction of words wraps with it. -/
theorem rawDiff_eq_toInt_sub (a b : BitVec 48) : rawDiff a b = (a - b).toInt := by
  rw [rawDiff_eq_bmod, BitVec.toInt_sub, BitVec.toInt_eq_toNat_bmod, BitVec.toInt_eq_toNat_bmod,
    Int.bmod_sub_bmod, Int.sub_bmod_bmod]

/-- An event `d` ns after `b` (before it where `d` is negative) compares as `d` when two's complement holds `d`. -/
theorem rawDiff_add_ofInt (b : BitVec 48) {d : Int} (hlo : -(2 ^ 47) ≤ d) (hhi : d < 2 ^ 47) :
    rawDiff (b + BitVec.ofInt 48 d) b = d := by
  rw [rawDiff_eq_toInt_sub, add_sub_cancel_left, BitVec.toInt_ofInt_eq_self (by decide) hlo hhi]

/-- Settles O44: the formula is R230's, and as the two's complement of the difference it is exact in its range. -/
theorem rawComparison : Obligations.RawComparison :=
  ⟨rawDiff_eq_emod, fun b _ hlo hhi => rawDiff_add_ofInt b hlo hhi⟩

end Sys2Proof.Machine
end

section
/-! The sender field (R286): what the writes of a mailbox's doorbell and of its words leave in the identity field of
word 0, and the obligation on the stamp of a GO. -/

namespace Sys2Proof.Machine

/-! ## The identities -/

/-- Every identity fits the sender field. -/
theorem State.identOf_lt (s : State) (q : Req) : s.identOf q < 256 := by
  cases q with
  | host => simp only [State.identOf]; split <;> decide
  | _ => simp only [State.identOf]; decide

/-- Reset leaves no identity in the field. -/
theorem State.reset_sender (m : Nat) : State.reset.get F.MBX_W0_SENDER m = 0 := by
  have hword : State.reset.word R.MBX_W0 m = R.MBX_W0.reset m 0 := rfl
  have hzero : R.MBX_W0.reset m 0 = 0 := by simp [RegD.reset, R.MBX_W0]
  exact congrArg (bitsOf · 31 24) (hword.trans hzero)

/-! ## Operations of a mailbox and the field -/

section
variable {s : State} (h : Registers.wf s = true) (m : Nat)
include h

/-- The status register of a mailbox is not its word 0. -/
theorem State.put_mbxStat_sender {f : Fld} (hf : f.reg = R.MBX_STAT) (v : Nat) :
    (s.put f v m).get F.MBX_W0_SENDER m = s.get F.MBX_W0_SENDER m := by
  refine State.get_put_far h f F.MBX_W0_SENDER v m 0 m 0 ?_
  rw [hf]
  change 0x13000000 + 0x100 * m + 0 ≠ 0x13000044 + 0x100 * m + 0
  omega

/-- A refused write leaves the field alone (R287). -/
theorem State.mbxRefuse_sender (cause : Nat) :
    (s.mbxRefuse m cause).get F.MBX_W0_SENDER m = s.get F.MBX_W0_SENDER m := by
  unfold State.mbxRefuse
  rw [State.put_mbxStat_sender (Registers.put_wf h ..) m rfl, State.put_mbxStat_sender h m rfl]

/-- A write of word 0 changes its opcode and tag, the fields below the sender's. -/
theorem State.writePlain_mbxW0_sender (v : Word) :
    (s.writePlain R.MBX_W0 v m).get F.MBX_W0_SENDER m = s.get F.MBX_W0_SENDER m := by
  have hfields (old : Word) : R.MBX_W0.fields.foldl (writeField old v) old
      = withBits (withBits old 23 16 (bitsOf v 23 16)) 15 0 (bitsOf v 15 0) := rfl
  change bitsOf ((s.writePlain R.MBX_W0 v m).word R.MBX_W0 m) 31 24 = bitsOf (s.word R.MBX_W0 m) 31 24
  rw [State.writePlain, State.word_setWord_same h, hfields]
  rw [bitsOf_withBits_other _ 15 0 _ 31 24 (by decide) (by decide) (by decide) (by decide),
    bitsOf_withBits_other _ 23 16 _ 31 24 (by decide) (by decide) (by decide) (by decide)]

/-- Words 1 to 15 are registers of their own. -/
theorem State.writePlain_mbxW_sender (v : Word) {w : Nat} (hw : w < 15) :
    (s.writePlain R.MBX_W v m w).get F.MBX_W0_SENDER m = s.get F.MBX_W0_SENDER m := by
  have hne : R.MBX_W0.addr m 0 ≠ R.MBX_W.addr m w := by
    change 0x13000000 + 0x100 * m + 0 ≠ 0x13000004 + 0x100 * m + 4 * w
    omega
  exact congrArg (bitsOf · 31 24) (State.word_setWord_other h _ _ _ _ _ _ _ hne)

/-- A write of a word, accepted or refused, leaves the field alone (R285). -/
theorem mbxWordWrite_sender {w : Nat} (hw : w < 16) (ident : Nat) (v : Word) :
    (mbxWordWrite m w ident v s).2.get F.MBX_W0_SENDER m = s.get F.MBX_W0_SENDER m := by
  unfold mbxWordWrite
  split
  · dsimp only
    split
    · exact State.writePlain_mbxW0_sender h m v
    · exact State.writePlain_mbxW_sender h m v (by omega)
  · exact State.mbxRefuse_sender h m _

/-- An accepted GO stamps the field; locking the staging buffer after it does not reach word 0 (R286, R289). -/
theorem mbxGo_sender {ident : Nat} (hi : ident < 256) (hc : mbxCause s m ident true = 0) :
    (mbxGo m ident 1 s).2.get F.MBX_W0_SENDER m = ident := by
  have hfull := Registers.put_wf (Registers.put_wf h F.MBX_STAT_FULL 1 m 0) F.MBX_STAT_TAKEN 0 m 0
  have hstamp := State.get_put_same hfull F.MBX_W0_SENDER ident m 0 (by decide) (by decide)
  have hgo : bitsOf 1 0 0 = 1 := by decide
  simp only [mbxGo, hgo, decide_true, hc, if_true]
  split
  · rw [State.put_mbxStat_sender (Registers.put_wf hfull ..) m rfl, hstamp]
    exact Nat.mod_eq_of_lt hi
  · exact hstamp.trans (Nat.mod_eq_of_lt hi)

end

/-! ## The doorbell's command -/

/-- Past the checks of R27 a write of the doorbell is a GO of the requester's identity. -/
theorem exec_mailboxGo {q : Req} {m : MBox} {s : State} (hr : s.reaches q R.MBX_DB m 0 true) :
    exec (.mailboxGo q m) s = .next ((mbxGo m (s.identOf q) 1 s).2.answer
      (.access (mbxGo m (s.identOf q) 1 s).1 0)) := by
  obtain ⟨hu, hg, ho⟩ := hr
  have hcheck := regCheck_ok (addr_mod_four R.MBX_DB_mem m.isLt Nat.one_pos)
    (findReg_addr R.MBX_DB_mem m.isLt Nat.one_pos) hg ho
  have hbus : busWrite q 4 (R.MBX_DB.addr m 0) 1 s = mbxGo m (s.identOf q) 1 s := by
    simp only [busWrite, hu, hcheck]
    rfl
  have hexec : exec (.mailboxGo q m) s = accWrite q R.MBX_DB m 0 1 s := rfl
  rw [hexec, accWrite, hbus]

/-- Settles O42: an accepted GO stamps what it was given, and no write of a word reaches the field. -/
theorem goStampsSender : Obligations.GoStampsSender := by
  refine ⟨fun q m s h hr hc => ?stamp, fun s => ?identities, fun m i s h hc => ?forwarded,
    fun m w ident v s h => ?words, fun m => ?reset⟩
  case stamp =>
    refine ⟨_, exec_mailboxGo hr, ?_⟩
    rw [State.answer_get]
    exact mbxGo_sender h m (s.identOf_lt q) hc
  case identities => exact ⟨rfl, rfl, fun _ => rfl, rfl⟩
  case forwarded => exact mbxGo_sender h m (by omega) hc
  case words => exact mbxWordWrite_sender h m w.isLt ident v
  case reset => exact State.reset_sender m

end Sys2Proof.Machine
end

section
/-! Writes to SRAM (R393 to R399): the bytes that a write stores, what a read of a word leaves of the memory and enters
in the error log, and the obligation on partial writes. -/

namespace Sys2Proof.Machine

/-! ## What an SRAM byte depends on -/

/-- What decides the byte at every SRAM address: the bytes stored and the retire map. -/
def State.memView (s : State) : List Host.Cell × List Nat := (s.sram, s.ecc.retired)

theorem State.phys_of_retired {s t : State} (h : t.ecc.retired = s.ecc.retired) (a : Nat) : t.phys a = s.phys a := by
  simp only [State.phys, h]

theorem State.phys_of_memView {s t : State} (h : t.memView = s.memView) (a : Nat) : t.phys a = s.phys a :=
  State.phys_of_retired (congrArg Prod.snd h) a

theorem State.byte_of_memView {s t : State} (h : t.memView = s.memView) (a : Nat) : t.byte a = s.byte a := by
  have hsram : t.sram = s.sram := congrArg Prod.fst h
  rw [State.byte, State.byte, State.phys_of_memView h, State.physByte, State.physByte, hsram]

theorem Memory.wf_of_memView {s t : State} (h : t.memView = s.memView) : Memory.wf t = Memory.wf s :=
  congrArg (fun v : List Host.Cell × List Nat => Bank.wf (fun _ => 0) v.1) h

/-- Within one page no two addresses share a byte, retired or not (R399). -/
theorem State.phys_ne_of_page (s : State) {a b : Nat} (hp : a / 0x1000 = b / 0x1000) (hab : a ≠ b) :
    s.phys a ≠ s.phys b := by
  simp only [State.phys, hp]
  split <;> omega

/-! ## Bytes stored in a row -/

/-- Store bytes from SRAM address a on, their check bits aside. -/
def State.storeBytes (s : State) (a : Nat) : List Byte → State
  | [] => s
  | b :: bs => (s.setByte a b).storeBytes (a + 1) bs

/-- The pass of setBytes over its bytes is storeBytes. -/
theorem State.foldl_setByte (a : Nat) (bs : List Byte) : ∀ (n : Nat) (s : State),
    (bs.zipIdx n).foldl (fun s p => s.setByte (a + p.2) p.1) s = s.storeBytes (a + n) bs := by
  induction bs with
  | nil => exact fun _ _ => rfl
  | cons b bs ih => exact fun n s => ih (n + 1) (s.setByte (a + n) b)

@[simp] theorem State.storeBytes_ecc (bs : List Byte) : ∀ (s : State) (a : Nat), (s.storeBytes a bs).ecc = s.ecc := by
  induction bs with
  | nil => exact fun _ _ => rfl
  | cons b bs ih => exact fun s a => ih (s.setByte a b) (a + 1)

@[simp] theorem State.storeBytes_flag (f : Fld) (bs : List Byte) : ∀ (s : State) (a : Nat),
    (s.storeBytes a bs).flag f = s.flag f := by
  induction bs with
  | nil => exact fun _ _ => rfl
  | cons b bs ih => exact fun s a => ih (s.setByte a b) (a + 1)

theorem State.byte_setByte_same {s : State} (h : Memory.wf s = true) (a : Nat) (v : Byte) :
    (s.setByte a v).byte a = v := State.physByte_set_same h _ v

theorem State.byte_setByte_other {s : State} (h : Memory.wf s = true) {a b : Nat} (v : Byte)
    (hb : s.phys b ≠ s.phys a) : (s.setByte a v).byte b = s.byte b := State.physByte_set_other h _ _ v hb

/-- A byte that none of the addresses written shares is left alone. -/
theorem State.byte_storeBytes_other {b : Nat} (bs : List Byte) : ∀ (s : State) (a : Nat), Memory.wf s = true →
    (∀ i, i < bs.length → s.phys b ≠ s.phys (a + i)) → (s.storeBytes a bs).byte b = s.byte b := by
  induction bs with
  | nil => exact fun _ _ _ _ => rfl
  | cons x bs ih =>
    intro s a h hne
    have htail : ∀ i, i < bs.length → s.phys b ≠ s.phys (a + 1 + i) := by
      intro i hi
      have := hne (i + 1) (Nat.succ_lt_succ hi)
      rwa [Nat.add_right_comm]
    calc (s.storeBytes a (x :: bs)).byte b
        _ = (s.setByte a x).byte b := ih _ _ (Memory.setPhysByte_wf h _ x) htail
        _ = s.byte b := State.byte_setByte_other h x (hne 0 (Nat.succ_pos _))

/-- Inside one page each byte written reads back, since no later one takes its place. -/
theorem State.byte_storeBytes_same (bs : List Byte) : ∀ (s : State) (a : Nat), Memory.wf s = true →
    a % 0x1000 + bs.length ≤ 0x1000 → ∀ i, i < bs.length → (s.storeBytes a bs).byte (a + i) = bs.getD i 0 := by
  induction bs with
  | nil => exact fun _ _ _ _ i hi => absurd hi (Nat.not_lt_zero i)
  | cons x bs ih =>
    intro s a h hpage i hi
    rw [List.length_cons] at hpage hi
    have hwf := Memory.setPhysByte_wf h (s.phys a) x
    cases i with
    | zero =>
      have hlater : ∀ i, i < bs.length → s.phys a ≠ s.phys (a + 1 + i) := fun i hi =>
        s.phys_ne_of_page (by omega) (by omega)
      calc ((s.setByte a x).storeBytes (a + 1) bs).byte a
          _ = (s.setByte a x).byte a := State.byte_storeBytes_other bs _ _ hwf hlater
          _ = x := State.byte_setByte_same h a x
    | succ i =>
      have := ih _ (a + 1) hwf (by omega) i (by omega)
      rwa [Nat.add_right_comm] at this

/-! ## Check bits -/

@[simp] theorem State.setFlips_memView (s : State) (p : Nat) (l : List Nat) :
    (s.setFlips p l).memView = s.memView := rfl

@[simp] theorem State.put_memView (s : State) (f : Fld) (v n m : Nat) : (s.put f v n m).memView = s.memView := rfl

@[simp] theorem State.eccWritten_memView (s : State) (a : Nat) : (s.eccWritten a).memView = s.memView := by
  unfold State.eccWritten
  dsimp only
  split
  · rw [State.setFlips_memView, State.put_memView]
  · exact State.setFlips_memView ..

/-- A write of bytes leaves the bytes that it stores; the words' check bits are no part of them. -/
theorem State.setBytes_memView (s : State) (a : Nat) (bs : List Byte) :
    (s.setBytes a bs).memView = (s.storeBytes a bs).memView := by
  unfold State.setBytes
  rw [State.foldl_setByte a bs 0]
  refine List.foldlRecOn (motive := fun t : State => t.memView = (s.storeBytes a bs).memView) _ _ rfl fun t ht i _ => ?_
  dsimp only
  split
  · exact ht
  · split
    · rw [State.eccWritten_memView, ht]
    · split <;> exact ht

/-- Eight bytes at a word's address are one full write of that word. -/
theorem State.setBytes_word (s : State) {a : Nat} {bs : List Byte} (hl : bs.length = 8) (ha : a % 8 = 0) :
    s.setBytes a bs = (s.storeBytes a bs).eccWritten a := by
  have hrange : List.range (8 / 8 + 2) = [0, 1, 2] := rfl
  have hw : a / 8 * 8 = a := Nat.div_mul_cancel (Nat.dvd_of_mod_eq_zero ha)
  unfold State.setBytes
  rw [State.foldl_setByte a bs 0, hl, hrange]
  have h1 : a + 8 ≤ (a / 8 + 1) * 8 := by omega
  have h2 : a + 8 ≤ (a / 8 + 2) * 8 := by omega
  simp [h1, h2, hw]

theorem State.flips_setFlips_same {s : State} (h : keysRise 0 s.ecc.flips = true) (p : Nat) (l : List Nat) :
    (s.setFlips p l).flips p = l := Bank.get_put_same _ _ _ _ h

/-- With no injection armed a full write leaves good check bits (R393). -/
theorem State.flips_setBytes_word {s : State} {a : Nat} {bs : List Byte} (hl : bs.length = 8) (ha : a % 8 = 0)
    (harm : s.flag F.ECC_INJ_CTRL_ARM = false) (hf : Bank.wf (fun _ => []) s.ecc.flips = true) :
    (s.setBytes a bs).flips (s.phys a) = [] := by
  have hw : a / 8 * 8 = a := Nat.div_mul_cancel (Nat.dvd_of_mod_eq_zero ha)
  have hphys : (s.storeBytes a bs).phys a = s.phys a := State.phys_of_retired (by rw [State.storeBytes_ecc]) a
  have hgood : (s.storeBytes a bs).eccWritten a = (s.storeBytes a bs).setFlips (s.phys a) [] := by
    simp [State.eccWritten, harm, hw, hphys]
  have hrise : keysRise 0 (s.storeBytes a bs).ecc.flips = true := by
    rw [State.storeBytes_ecc]
    exact Bank.wf_rise _ _ 0 hf
  rw [State.setBytes_word s hl ha, hgood]
  exact State.flips_setFlips_same hrise _ _

/-! ## Errors met by a read -/

@[simp] theorem State.eccLog_memView (s : State) (mem addr : Nat) (unc : Bool) (bit req : Nat) :
    (s.eccLog mem addr unc bit req).2.memView = s.memView := by
  unfold State.eccLog
  extract_lets a new t old
  split
  · rfl
  · split
    · rfl
    · split <;> rfl

@[simp] theorem State.eccError_memView (s : State) (mem addr : Nat) (unc : Bool) (bit req : Nat) :
    (s.eccError mem addr unc bit req).memView = s.memView := by
  have hcount : ((s.perf (if unc then 0xF5 else 0xF4)).lifeAdd (if unc then 99 else 100)).memView = s.memView := by
    simp [State.memView, State.lifeAdd]
  have hpost (t : State) (arg : Nat) : (t.post 0x90 0xF arg).memView = t.memView := by simp [State.memView]
  unfold State.eccError
  dsimp only
  split
  · rw [State.eccLog_memView, hcount]
  · rw [hpost]
    exact (State.eccLog_memView ..).trans hcount

@[simp] theorem State.eccRead_memView (s : State) (a req : Nat) (u : Upset) :
    (s.eccRead a req u).2.memView = s.memView := by
  unfold State.eccRead
  dsimp only
  split <;> simp

/-- The log lists an uncorrectable error of memory mem at this address (R397). -/
def State.logsUncorrectable (s : State) (mem addr : Nat) : Prop :=
  ∃ e ∈ s.ecc.log, e.mem = mem ∧ e.addr = BitVec.ofNat 32 addr ∧ e.unc = true

/-- An uncorrectable error is listed afterwards, at its old entry or a new one, unless the log was full (R397). -/
theorem State.eccLog_uncorrectable (s : State) (mem addr bit req : Nat) :
    (s.eccLog mem addr true bit req).2.logsUncorrectable mem addr ∨ 64 ≤ s.ecc.log.length := by
  unfold State.eccLog State.logsUncorrectable
  extract_lets a new t old
  split
  · rename_i i hi
    obtain ⟨hlt, hmatch, -⟩ := List.findIdx?_eq_some_iff_getElem.mp hi
    simp only [Bool.and_eq_true, decide_eq_true_eq] at hmatch
    obtain ⟨hmem, haddr⟩ := hmatch
    refine .inl ⟨_, List.mem_of_getElem (h := by simpa using hlt) (List.getElem_modify_eq ..), hmem, haddr, ?_⟩
    exact Bool.or_true _
  · split
    · exact .inl ⟨new, List.mem_append_right _ (List.mem_singleton_self new), rfl, rfl, rfl⟩
    · exact .inr (Nat.le_of_not_lt ‹_›)

theorem State.eccError_uncorrectable (s : State) (mem addr bit req : Nat) :
    (s.eccError mem addr true bit req).logsUncorrectable mem addr ∨ 64 ≤ s.ecc.log.length := by
  have hlog := ((s.perf 0xF5).lifeAdd 99).eccLog_uncorrectable mem addr bit req
  have hcount : ((s.perf 0xF5).lifeAdd 99).ecc = s.ecc := s.perf_ecc _ _
  rw [hcount] at hlog
  have herr : (s.eccError mem addr true bit req).ecc
      = (((s.perf 0xF5).lifeAdd 99).eccLog mem addr true bit req).2.ecc := by
    simp [State.eccError, State.free]
  rwa [State.logsUncorrectable, herr]

/-- A read that finds its word bad has met an uncorrectable error there (R393, R395). -/
theorem State.eccRead_uncorrectable {s : State} {a req : Nat} {u : Upset} (hbad : (s.eccRead a req u).1 = false) :
    (s.eccRead a req u).2.logsUncorrectable 0 (a / 8 * 8) ∨ 64 ≤ s.ecc.log.length := by
  unfold State.eccRead at *
  dsimp only at *
  split at hbad
  · cases hbad
  · cases hbad
  · exact State.eccError_uncorrectable ..

/-! ## Writes past the checks -/

/-- The checks of an SRAM access pass sizes up to 8 only, aligned (R27). -/
theorem sramCheck_ok_fits {q : Req} {k a : Nat} {write : Bool} {s : State} (h : sramCheck q k a write s = .ok) :
    k ∈ [1, 2, 4, 8] ∧ a % k = 0 := by
  by_contra hn
  have hmisfit : k ∈ [1, 2, 4] ∨ (k = 8 ∧ (q = .dma ∨ ∃ c, q = .rigger c)) → a % k ≠ 0 := by
    intro hk ha
    refine hn ⟨?_, ha⟩
    rcases hk with hk | ⟨rfl, -⟩
    · simp only [List.mem_cons] at hk ⊢
      tauto
    · simp
  rw [sramCheck_narrow hmisfit] at h
  cases h

/-- An aligned access stays inside its page. -/
theorem page_of_aligned {k a : Nat} (hk : k ∈ [1, 2, 4, 8]) (ha : a % k = 0) : a % 0x1000 + k ≤ 0x1000 := by
  simp only [List.mem_cons, List.not_mem_nil, or_false] at hk
  rcases hk with rfl | rfl | rfl | rfl <;> omega

section
variable {q : Req} {a : Word} {bs : List Byte} {s : State} (u : Upset)
  (hs : isSram a.toNat = true) (hu : s.busUp = true) (hc : sramCheck q bs.length a.toNat true s = .ok)
  (hb : ¬(0x81F60000 ≤ a.toNat ∧ a.toNat < 0x81F6F000))
include hs hu hc hb

/-- Outside the staging buffers a write that passes the checks is answered by the word it goes to. -/
theorem exec_sramPartialWrite_word : exec (.sramPartialWrite q a bs u) s
    = .next ((s.eccWrite a.toNat bs (reqNum q) u).2.answer
        (.access (if (s.eccWrite a.toNat bs (reqNum q) u).1 then .ok else .uncorrectable) 0)) := by
  have hword : sramWrite q a.toNat bs u s = (if (s.eccWrite a.toNat bs (reqNum q) u).1 then .ok else .uncorrectable,
      (s.eccWrite a.toNat bs (reqNum q) u).2) := by
    have hstage : (decide (0x81F60000 ≤ a.toNat) && decide (a.toNat < 0x81F6F000)) = false := by simpa using hb
    rcases hw : s.eccWrite a.toNat bs (reqNum q) u with ⟨_ | _, t⟩ <;> simp [sramWrite, hu, hc, hstage, hw]
  rw [exec_sramPartialWrite, anyWrite, if_pos hs, hword]

/-- A partial write whose read finds a bad word ends with the read (R394). -/
theorem exec_sramPartialWrite_bad (hl : bs.length ≠ 8) (hbad : (s.eccRead a.toNat (reqNum q) u).1 = false) :
    exec (.sramPartialWrite q a bs u) s
      = .next ((s.eccRead a.toNat (reqNum q) u).2.answer (.access .uncorrectable 0)) := by
  have hw : s.eccWrite a.toNat bs (reqNum q) u = (false, (s.eccRead a.toNat (reqNum q) u).2) := by
    rcases hr : s.eccRead a.toNat (reqNum q) u with ⟨good, t⟩
    obtain rfl : good = false := by simpa [hr] using hbad
    simp [State.eccWrite, hl, hr]
  rw [exec_sramPartialWrite_word u hs hu hc hb, hw]
  rfl

/-- A full write, and a partial one whose read finds a good word, stores its bytes; what the read corrects is no byte,
and a full write reads nothing (R394). -/
theorem exec_sramPartialWrite_good (hg : bs.length = 8 ∨ (s.eccRead a.toNat (reqNum q) u).1 = true) :
    ∃ r : State, r.memView = s.memView ∧ (bs.length = 8 → r = s)
      ∧ exec (.sramPartialWrite q a bs u) s = .next ((r.setBytes a.toNat bs).answer (.access .ok 0)) := by
  rw [exec_sramPartialWrite_word u hs hu hc hb]
  by_cases hl : bs.length = 8
  · exact ⟨s, rfl, fun _ => rfl, by simp [State.eccWrite, hl]⟩
  · have hgood := hg.resolve_left hl
    refine ⟨(s.eccRead a.toNat (reqNum q) u).2, State.eccRead_memView .., fun h => absurd h hl, ?_⟩
    rcases hr : s.eccRead a.toNat (reqNum q) u with ⟨good, t⟩
    obtain rfl : good = true := by simpa [hr] using hgood
    simp [State.eccWrite, hl, hr]

end

/-- Settles O43: a refused write ends with its read, which stores nothing and logs the error; any other stores its
bytes inside one page, where no two of them share a place. -/
theorem sramWriteMergesOrDiscards : Obligations.SramWriteMergesOrDiscards := by
  refine ⟨fun q a bs u s hs hu hc hb hl hbad => ?discarded, fun q a bs u s h hs hu hc hb hg => ?stored⟩
  case discarded =>
    have hmem : (s.eccRead a.toNat (reqNum q) u).2.memView = s.memView := State.eccRead_memView ..
    exact ⟨_, exec_sramPartialWrite_bad u hs hu hc hb hl hbad, State.answer_resp .., congrArg Prod.fst hmem,
      State.eccRead_uncorrectable hbad⟩
  case stored =>
    obtain ⟨hk, ha⟩ := sramCheck_ok_fits hc
    obtain ⟨r, hr, hfull, hexec⟩ := exec_sramPartialWrite_good u hs hu hc hb hg
    have hwf : Memory.wf r = true := by
      rw [Memory.wf_of_memView hr]
      exact (Bool.and_eq_true_iff.mp h).1
    have hbyte (b : Nat) : ((r.setBytes a.toNat bs).answer (.access .ok 0)).byte b = (r.storeBytes a.toNat bs).byte b :=
      State.byte_of_memView (State.setBytes_memView r a.toNat bs) b
    refine ⟨_, hexec, State.answer_resp .., fun i hi => ?written, fun b hne => ?kept, fun hl harm hf => ?checkBits⟩
    case written =>
      rw [hbyte]
      exact State.byte_storeBytes_same bs r _ hwf (page_of_aligned hk ha) i hi
    case kept =>
      rw [hbyte, ← State.byte_of_memView hr]
      refine State.byte_storeBytes_other bs r _ hwf fun i hi => ?_
      rw [State.phys_of_memView hr, State.phys_of_memView hr]
      exact hne i hi
    case checkBits =>
      obtain rfl := hfull hl
      exact State.flips_setBytes_word hl (hl ▸ ha) harm hf

end Sys2Proof.Machine
end

section
/-! The whole machine: what every step keeps, that every command answers, and the state after reset. -/

namespace Sys2Proof.Machine

/-! ## What each command and each step keeps -/

/-- Each command keeps what Keeps says of it, by the law of its meaning. -/
theorem exec_keeps (c : Instr) (s : State) : KeepsO c.stores s (exec c s) :=
  match c with
  | .registerWrite q k a v => execRegisterWrite_keeps q k a v (Keeps.refl s)
  | .sramPartialWrite q a bs u => execSramPartialWrite_keeps q a bs u (Keeps.refl s)
  | .sramRead path k a u => execSramRead_keeps path k a u (Keeps.refl s)
  | .eccInjectArm q v => execEccInjectArm_keeps q v (Keeps.refl s)
  | .eccLogClear q v => execEccLogClear_keeps q v (Keeps.refl s)
  | .scrubRead u raced => execScrubRead_keeps u raced (Keeps.refl s)
  | .laneSetMode m => execLaneSetMode_keeps m (Keeps.refl s)
  | .laneMap m => execLaneMap_keeps m (Keeps.refl s)
  | .ltxLaneCfgWrite q n v => execLtxLaneCfgWrite_keeps q n v (Keeps.refl s)
  | .pendingChangeNoFraming u => execPendingChangeNoFraming_keeps u (Keeps.refl s)
  | .txAmBoundary n fillA fillB data => execTxAmBoundary_keeps n fillA fillB data (Keeps.refl s)
  | .rxAmBoundary n codes lv am => execRxAmBoundary_keeps n codes lv am (Keeps.refl s)
  | .amGroupArrival f onPeriod => execAmGroupArrival_keeps f onPeriod (Keeps.refl s)
  | .amPositionMissed f => execAmPositionMissed_keeps f (Keeps.refl s)
  | .slotLockWindowEnd n even odd cwLock => execSlotLockWindowEnd_keeps n even odd cwLock (Keeps.refl s)
  | .laneProtectArm m => execLaneProtectArm_keeps m (Keeps.refl s)
  | .laneProtectDisarm m => execLaneProtectDisarm_keeps m (Keeps.refl s)
  | .laneProtectSwitch m => execLaneProtectSwitch_keeps m (Keeps.refl s)
  | .laneProtectRevert m => execLaneProtectRevert_keeps m (Keeps.refl s)
  | .protectArmTimeout => execProtectArmTimeout_keeps (Keeps.refl s)
  | .protectionSwitch => execProtectionSwitch_keeps (Keeps.refl s)
  | .protectionRevert => execProtectionRevert_keeps (Keeps.refl s)
  | .emergencySwitch => execEmergencySwitch_keeps (Keeps.refl s)
  | .l8FailRevert => execL8FailRevert_keeps (Keeps.refl s)
  | .l8FailSelectionReturn => execL8FailSelectionReturn_keeps (Keeps.refl s)
  | .protectFinalPoint => execProtectFinalPoint_keeps (Keeps.refl s)
  | .proposeRepeat => execProposeRepeat_keeps (Keeps.refl s)
  | .proposeDeadline => execProposeDeadline_keeps (Keeps.refl s)
  | .elasticBufferSlip n f => execElasticBufferSlip_keeps n f (Keeps.refl s)
  | .errorInjection n streamB block => execErrorInjection_keeps n streamB block (Keeps.refl s)
  | .shapeApply q n v => execShapeApply_keeps q n v (Keeps.refl s)
  | .txSetShaping m => execTxSetShaping_keeps m (Keeps.refl s)
  | .txLoadPattern m => execTxLoadPattern_keeps m (Keeps.refl s)
  | .maskCtrlWrite q n m v => execMaskCtrlWrite_keeps q n m v (Keeps.refl s)
  | .maskEstimateEnd n a b => execMaskEstimateEnd_keeps n a b (Keeps.refl s)
  | .driverSwingResume n => execDriverSwingResume_keeps n (Keeps.refl s)
  | .txPllBandCalComplete p => execTxPllBandCalComplete_keeps p (Keeps.refl s)
  | .txPllLocked p => execTxPllLocked_keeps p (Keeps.refl s)
  | .txPllReady p => execTxPllReady_keeps p (Keeps.refl s)
  | .txPllLockLoss p => execTxPllLockLoss_keeps p (Keeps.refl s)
  | .txPllReferenceSwitch p => execTxPllReferenceSwitch_keeps p (Keeps.refl s)
  | .txPllHoldoverExpiry p => execTxPllHoldoverExpiry_keeps p (Keeps.refl s)
  | .txPllStop p => execTxPllStop_keeps p (Keeps.refl s)
  | .txCalResult n kind v => execTxCalResult_keeps n kind v (Keeps.refl s)
  | .txCalRevert q n v => execTxCalRevert_keeps q n v (Keeps.refl s)
  | .losAssert n => execLosAssert_keeps n (Keeps.refl s)
  | .losDeassert n => execLosDeassert_keeps n (Keeps.refl s)
  | .lolAssert n range => execLolAssert_keeps n range (Keeps.refl s)
  | .timingRecoveryLock n freq => execTimingRecoveryLock_keeps n freq (Keeps.refl s)
  | .tiaGainAcquired n gain => execTiaGainAcquired_keeps n gain (Keeps.refl s)
  | .tiaAcqTimeout n high => execTiaAcqTimeout_keeps n high (Keeps.refl s)
  | .tiaRetrim q n v => execTiaRetrim_keeps q n v (Keeps.refl s)
  | .retrimMeasureDone n rms256 => execRetrimMeasureDone_keeps n rms256 (Keeps.refl s)
  | .adcRotationTimer n data => execAdcRotationTimer_keeps n data (Keeps.refl s)
  | .firstPassDecode n streamB pos dt w tie => execFirstPassDecode_keeps n streamB pos dt w tie (Keeps.refl s)
  | .winchSlot => execWinchSlot_keeps (Keeps.refl s)
  | .winchVisitEnd b => execWinchVisitEnd_keeps b (Keeps.refl s)
  | .winchReseed q idx v => execWinchReseed_keeps q idx v (Keeps.refl s)
  | .rxCalResult n kind v => execRxCalResult_keeps n kind v (Keeps.refl s)
  | .rxCalRevert q n v => execRxCalRevert_keeps q n v (Keeps.refl s)
  | .checkerSyncAcquired d => execCheckerSyncAcquired_keeps d (Keeps.refl s)
  | .checkerSyncLost u line host => execCheckerSyncLost_keeps u line host (Keeps.refl s)
  | .captureArm q n v => execCaptureArm_keeps q n v (Keeps.refl s)
  | .captureAbort q n v => execCaptureAbort_keeps q n v (Keeps.refl s)
  | .captureTrigger n data => execCaptureTrigger_keeps n data (Keeps.refl s)
  | .captureStop n data => execCaptureStop_keeps n data (Keeps.refl s)
  | .captureAdc m => execCaptureAdc_keeps m (Keeps.refl s)
  | .captureAdcTimeout n => execCaptureAdcTimeout_keeps n (Keeps.refl s)
  | .rxSetEqPolicy m => execRxSetEqPolicy_keeps m (Keeps.refl s)
  | .sliceBoundary => execSliceBoundary_keeps (Keeps.refl s)
  | .capstanIterationResult e k dt tie => execCapstanIterationResult_keeps e k dt tie (Keeps.refl s)
  | .writebackEntry e k dt => execWritebackEntry_keeps e k dt (Keeps.refl s)
  | .codewordRelease n streamB dt => execCodewordRelease_keeps n streamB dt (Keeps.refl s)
  | .wasteWindowEnd => execWasteWindowEnd_keeps (Keeps.refl s)
  | .capstanSetPolicy m => execCapstanSetPolicy_keeps m (Keeps.refl s)
  | .deadlineWrite q v => execDeadlineWrite_keeps q v (Keeps.refl s)
  | .capstanSnapshot q => execCapstanSnapshot_keeps q (Keeps.refl s)
  | .hostLosAssert h => execHostLosAssert_keeps h (Keeps.refl s)
  | .hostLosDeassert h => execHostLosDeassert_keeps h (Keeps.refl s)
  | .hostLolAssert h => execHostLolAssert_keeps h (Keeps.refl s)
  | .hostLolDeassert h => execHostLolDeassert_keeps h (Keeps.refl s)
  | .ctleSearchStep h eye => execCtleSearchStep_keeps h eye (Keeps.refl s)
  | .hostEqTimeout h => execHostEqTimeout_keeps h (Keeps.refl s)
  | .hostRxFrameBoundary h before after => execHostRxFrameBoundary_keeps h before after (Keeps.refl s)
  | .hostTxFrameBoundary d => execHostTxFrameBoundary_keeps d (Keeps.refl s)
  | .hostTxApply q h v => execHostTxApply_keeps q h v (Keeps.refl s)
  | .hostLoopbackSet q h v => execHostLoopbackSet_keeps q h v (Keeps.refl s)
  | .rsmEnable q h v => execRsmEnable_keeps q h v (Keeps.refl s)
  | .rsmCodeword h skew corr unc => execRsmCodeword_keeps h skew corr unc (Keeps.refl s)
  | .rsmSnapshot q h v => execRsmSnapshot_keeps q h v (Keeps.refl s)
  | .hostSetEq m => execHostSetEq_keeps m (Keeps.refl s)
  | .laneSetState m => execLaneSetState_keeps m (Keeps.refl s)
  | .olcReqWrite q n v => execOlcReqWrite_keeps q n v (Keeps.refl s)
  | .laneProbe m => execLaneProbe_keeps m (Keeps.refl s)
  | .probeGo q n v => execProbeGo_keeps q n v (Keeps.refl s)
  | .probeDurationEnd n => execProbeDurationEnd_keeps n (Keeps.refl s)
  | .slewTick c => execSlewTick_keeps c (Keeps.refl s)
  | .lbRangeWrite q n v => execLbRangeWrite_keeps q n v (Keeps.refl s)
  | .olcCodeWrite q n k v => execOlcCodeWrite_keeps q n k v (Keeps.refl s)
  | .strobeWrite q v => execStrobeWrite_keeps q v (Keeps.refl s)
  | .waveformStart q c v => execWaveformStart_keeps q c v (Keeps.refl s)
  | .waveformStop q c v => execWaveformStop_keeps q c v (Keeps.refl s)
  | .heaterPwmPeriod n j => execHeaterPwmPeriod_keeps n j (Keeps.refl s)
  | .tokenAcquired => execTokenAcquired_keeps (Keeps.refl s)
  | .tokenSegmentEnd n => execTokenSegmentEnd_keeps n (Keeps.refl s)
  | .tokenWaitTimeout n => execTokenWaitTimeout_keeps n (Keeps.refl s)
  | .deferredLiveTimeout n => execDeferredLiveTimeout_keeps n (Keeps.refl s)
  | .safetyFault b n => execSafetyFault_keeps b n (Keeps.refl s)
  | .faultClear q n v => execFaultClear_keeps q n v (Keeps.refl s)
  | .txDisableSet n => execTxDisableSet_keeps n (Keeps.refl s)
  | .txDisableClear n => execTxDisableClear_keeps n (Keeps.refl s)
  | .lockinPeriodEnd n m => execLockinPeriodEnd_keeps n m (Keeps.refl s)
  | .laneReset q v => execLaneReset_keeps q v (Keeps.refl s)
  | .lydTxEnWrite q n v => execLydTxEnWrite_keeps q n v (Keeps.refl s)
  | .lydRxEnWrite q n v => execLydRxEnWrite_keeps q n v (Keeps.refl s)
  | .lydCoefWrite q n m v => execLydCoefWrite_keeps q n m v (Keeps.refl s)
  | .lanyardBlock n data b snr fofs => execLanyardBlock_keeps n data b snr fofs (Keeps.refl s)
  | .lanyardFrameEnd n pilot => execLanyardFrameEnd_keeps n pilot (Keeps.refl s)
  | .lanyardHeaderFound n hdr body fcs => execLanyardHeaderFound_keeps n hdr body fcs (Keeps.refl s)
  | .helloPeriod n => execHelloPeriod_keeps n (Keeps.refl s)
  | .telemetryPeriod n request => execTelemetryPeriod_keeps n request (Keeps.refl s)
  | .timePeriod n => execTimePeriod_keeps n (Keeps.refl s)
  | .helloRx n b pilot => execHelloRx_keeps n b pilot (Keeps.refl s)
  | .helloPeriodMissed n => execHelloPeriodMissed_keeps n (Keeps.refl s)
  | .telemetryRx n b => execTelemetryRx_keeps n b (Keeps.refl s)
  | .txadjRequestRx n b => execTxadjRequestRx_keeps n b (Keeps.refl s)
  | .txadjResultRx n b => execTxadjResultRx_keeps n b (Keeps.refl s)
  | .timeRx n flags b pilot => execTimeRx_keeps n flags b pilot (Keeps.refl s)
  | .protectProposeRx n b => execProtectProposeRx_keeps n b (Keeps.refl s)
  | .protectAcceptRx n b => execProtectAcceptRx_keeps n b (Keeps.refl s)
  | .protectConfirmRx n b => execProtectConfirmRx_keeps n b (Keeps.refl s)
  | .protectAbandonRx n b => execProtectAbandonRx_keeps n b (Keeps.refl s)
  | .protectNotifyRx n b => execProtectNotifyRx_keeps n b (Keeps.refl s)
  | .userFragmentRx n b => execUserFragmentRx_keeps n b (Keeps.refl s)
  | .userReassemblyTimeout n id => execUserReassemblyTimeout_keeps n id (Keeps.refl s)
  | .userSlotFree q v => execUserSlotFree_keeps q v (Keeps.refl s)
  | .lanyardConfig m => execLanyardConfig_keeps m (Keeps.refl s)
  | .lanyardSend m => execLanyardSend_keeps m (Keeps.refl s)
  | .lanyardSendTimeout n => execLanyardSendTimeout_keeps n (Keeps.refl s)
  | .lanyardPartnerRead m => execLanyardPartnerRead_keeps m (Keeps.refl s)
  | .lanyardPartnerHello m => execLanyardPartnerHello_keeps m (Keeps.refl s)
  | .lanyardPartnerForget m => execLanyardPartnerForget_keeps m (Keeps.refl s)
  | .lanyardTxadjPolicy m => execLanyardTxadjPolicy_keeps m (Keeps.refl s)
  | .rawWrap => execRawWrap_keeps (Keeps.refl s)
  | .timeApplyRate q v => execTimeApplyRate_keeps q v (Keeps.refl s)
  | .timeApplyStep q v => execTimeApplyStep_keeps q v (Keeps.refl s)
  | .timeClearCoarse q v => execTimeClearCoarse_keeps q v (Keeps.refl s)
  | .timeSnapshotRead q w => execTimeSnapshotRead_keeps q w (Keeps.refl s)
  | .tsqPop q rx w => execTsqPop_keeps q rx w (Keeps.refl s)
  | .aonCounterRead q high => execAonCounterRead_keeps q high (Keeps.refl s)
  | .twoWayRead q n w => execTwoWayRead_keeps q n w (Keeps.refl s)
  | .ppsInRead q w => execPpsInRead_keeps q w (Keeps.refl s)
  | .cleatAonWake => execCleatAonWake_keeps (Keeps.refl s)
  | .ppsInEdge falling short => execPpsInEdge_keeps falling short (Keeps.refl s)
  | .ppsOutSecond => execPpsOutSecond_keeps (Keeps.refl s)
  | .ppsOutPulseEnd => execPpsOutPulseEnd_keeps (Keeps.refl s)
  | .timeSet m => execTimeSet_keeps m (Keeps.refl s)
  | .timeAdjust m => execTimeAdjust_keeps m (Keeps.refl s)
  | .timeStampConfig m => execTimeStampConfig_keeps m (Keeps.refl s)
  | .timeSetPpsTimeout => execTimeSetPpsTimeout_keeps (Keeps.refl s)
  | .scheduledTimeReached k => execScheduledTimeReached_keeps k (Keeps.refl s)
  | .i2cWrite off data => execI2cWrite_keeps off data (Keeps.refl s)
  | .i2cRead off k => execI2cRead_keeps off k (Keeps.refl s)
  | .i3cCcc code => execI3cCcc_keeps code (Keeps.refl s)
  | .sidebandReset p => execSidebandReset_keeps p (Keeps.refl s)
  | .cmisSoftwareReset => execCmisSoftwareReset_keeps (Keeps.refl s)
  | .lowPowerRequestChange pin sw => execLowPowerRequestChange_keeps pin sw (Keeps.refl s)
  | .modselChange p => execModselChange_keeps p (Keeps.refl s)
  | .cmisApplyDpinit b k mask => execCmisApplyDpinit_keeps b k mask (Keeps.refl s)
  | .cmisApplyImmediate b k mask => execCmisApplyImmediate_keeps b k mask (Keeps.refl s)
  | .dpdeinitWrite b v => execDpdeinitWrite_keeps b v (Keeps.refl s)
  | .outputDisableTxWrite b v => execOutputDisableTxWrite_keeps b v (Keeps.refl s)
  | .datapathStateAdvance h => execDatapathStateAdvance_keeps h (Keeps.refl s)
  | .cmisFlagEvaluation => execCmisFlagEvaluation_keeps (Keeps.refl s)
  | .cmisMonitorRefresh => execCmisMonitorRefresh_keeps (Keeps.refl s)
  | .hostPasswordEntry v => execHostPasswordEntry_keeps v (Keeps.refl s)
  | .hostPasswordChange v => execHostPasswordChange_keeps v (Keeps.refl s)
  | .registerWindowRead u => execRegisterWindowRead_keeps u (Keeps.refl s)
  | .registerWindowWrite u => execRegisterWindowWrite_keeps u (Keeps.refl s)
  | .windowAccessComplete => execWindowAccessComplete_keeps (Keeps.refl s)
  | .completionRingPop => execCompletionRingPop_keeps (Keeps.refl s)
  | .eventQueuePop => execEventQueuePop_keeps (Keeps.refl s)
  | .fathomReadoutCopy => execFathomReadoutCopy_keeps (Keeps.refl s)
  | .perfWindowCopy => execPerfWindowCopy_keeps (Keeps.refl s)
  | .vdmFreeze => execVdmFreeze_keeps (Keeps.refl s)
  | .vdmUnfreeze => execVdmUnfreeze_keeps (Keeps.refl s)
  | .cdbQueryStatus => execCdbQueryStatus_keeps (Keeps.refl s)
  | .cdbModuleFeatures => execCdbModuleFeatures_keeps (Keeps.refl s)
  | .cdbFwMgmtFeatures => execCdbFwMgmtFeatures_keeps (Keeps.refl s)
  | .cdbGetFwInfo => execCdbGetFwInfo_keeps (Keeps.refl s)
  | .cdbStartDownload len header => execCdbStartDownload_keeps len header (Keeps.refl s)
  | .cdbAbortDownload => execCdbAbortDownload_keeps (Keeps.refl s)
  | .cdbWriteBlockLpl addr data => execCdbWriteBlockLpl_keeps addr data (Keeps.refl s)
  | .cdbWriteBlockEpl addr data => execCdbWriteBlockEpl_keeps addr data (Keeps.refl s)
  | .cdbCompleteDownload => execCdbCompleteDownload_keeps (Keeps.refl s)
  | .flashWriteComplete ok => execFlashWriteComplete_keeps ok (Keeps.refl s)
  | .cdbRunImage mode => execCdbRunImage_keeps mode (Keeps.refl s)
  | .cdbCommitImage => execCdbCommitImage_keeps (Keeps.refl s)
  | .cdbUnknownCommand => execCdbUnknownCommand_keeps (Keeps.refl s)
  | .mailboxWordWrite q m w v stg => execMailboxWordWrite_keeps q m w v stg (Keeps.refl s)
  | .mailboxGo q m => execMailboxGo_keeps q m (Keeps.refl s)
  | .mailboxTake => execMailboxTake_keeps (Keeps.refl s)
  | .internalRingPop q k idx => execInternalRingPop_keeps q k idx (Keeps.refl s)
  | .ping m => execPing_keeps m (Keeps.refl s)
  | .getInfo m => execGetInfo_keeps m (Keeps.refl s)
  | .cancel m => execCancel_keeps m (Keeps.refl s)
  | .flushCompletions m => execFlushCompletions_keeps m (Keeps.refl s)
  | .setPolicySender m => execSetPolicySender_keeps m (Keeps.refl s)
  | .setPolicyBit m => execSetPolicyBit_keeps m (Keeps.refl s)
  | .setPolicyQuota m => execSetPolicyQuota_keeps m (Keeps.refl s)
  | .knotOpen m => execKnotOpen_keeps m (Keeps.refl s)
  | .knotStage m => execKnotStage_keeps m (Keeps.refl s)
  | .knotCinchImmediate m => execKnotCinchImmediate_keeps m (Keeps.refl s)
  | .knotCinchAm m => execKnotCinchAm_keeps m (Keeps.refl s)
  | .knotCinchTime m => execKnotCinchTime_keeps m (Keeps.refl s)
  | .knotCinchGang m => execKnotCinchGang_keeps m (Keeps.refl s)
  | .knotReady k => execKnotReady_keeps k (Keeps.refl s)
  | .knotAbandon m => execKnotAbandon_keeps m (Keeps.refl s)
  | .knotStatus m => execKnotStatus_keeps m (Keeps.refl s)
  | .knotIdleExpiry k => execKnotIdleExpiry_keeps k (Keeps.refl s)
  | .knotAmWaitExpiry k => execKnotAmWaitExpiry_keeps k (Keeps.refl s)
  | .gangPrepareRx p h sec ns handle => execGangPrepareRx_keeps p h sec ns handle (Keeps.refl s)
  | .gangPreparedRx p h handle => execGangPreparedRx_keeps p h handle (Keeps.refl s)
  | .gangRefusedRx p h handle status => execGangRefusedRx_keeps p h handle status (Keeps.refl s)
  | .gangDecisionPoint k => execGangDecisionPoint_keeps k (Keeps.refl s)
  | .gangCommitRepeat k acked => execGangCommitRepeat_keeps k acked (Keeps.refl s)
  | .gangCommitRx p h handle => execGangCommitRx_keeps p h handle (Keeps.refl s)
  | .gangAbortRx p h handle => execGangAbortRx_keeps p h handle (Keeps.refl s)
  | .gangAppliedRx p h handle => execGangAppliedRx_keeps p h handle (Keeps.refl s)
  | .participantDeadline k => execParticipantDeadline_keeps k (Keeps.refl s)
  | .fwStatus m => execFwStatus_keeps m (Keeps.refl s)
  | .fwRestartRunning m => execFwRestartRunning_keeps m (Keeps.refl s)
  | .fwRestartOther m => execFwRestartOther_keeps m (Keeps.refl s)
  | .attestReport m => execAttestReport_keeps m (Keeps.refl s)
  | .attestCertificate m => execAttestCertificate_keeps m (Keeps.refl s)
  | .riggerReady c v => execRiggerReady_keeps c v (Keeps.refl s)
  | .watchdogKick c v => execWatchdogKick_keeps c v (Keeps.refl s)
  | .watchdogExpiry => execWatchdogExpiry_keeps (Keeps.refl s)
  | .riggerRestart => execRiggerRestart_keeps (Keeps.refl s)
  | .riggerImageLoaded => execRiggerImageLoaded_keeps (Keeps.refl s)
  | .riggerCoreHalt core => execRiggerCoreHalt_keeps core (Keeps.refl s)
  | .debugUnlockResponse factory key sig => execDebugUnlockResponse_keeps factory key sig (Keeps.refl s)
  | .powerOn unpowered => execPowerOn_keeps unpowered (Keeps.refl s)
  | .memsSettleTimeout => execMemsSettleTimeout_keeps (Keeps.refl s)
  | .porRelease scl sda t => execPorRelease_keeps scl sda t (Keeps.refl s)
  | .riggerRelease => execRiggerRelease_keeps (Keeps.refl s)
  | .mgmtinitComplete => execMgmtinitComplete_keeps (Keeps.refl s)
  | .urgentConversion q v => execUrgentConversion_keeps q v (Keeps.refl s)
  | .triggeredConversionRequest ch kind => execTriggeredConversionRequest_keeps ch kind (Keeps.refl s)
  | .sequencerRound => execSequencerRound_keeps (Keeps.refl s)
  | .adcConversionEnd code => execAdcConversionEnd_keeps code (Keeps.refl s)
  | .referenceEnable q v => execReferenceEnable_keeps q v (Keeps.refl s)
  | .referenceReady => execReferenceReady_keeps (Keeps.refl s)
  | .anchorMonitorRound codes => execAnchorMonitorRound_keeps codes (Keeps.refl s)
  | .fathomStart q idx v => execFathomStart_keeps q idx v (Keeps.refl s)
  | .fathomStop q idx word v => execFathomStop_keeps q idx word v (Keeps.refl s)
  | .fathomSample idx y excess => execFathomSample_keeps idx y excess (Keeps.refl s)
  | .fathomCaptureEnd idx => execFathomCaptureEnd_keeps idx (Keeps.refl s)
  | .fathomSnapshotSwap idx => execFathomSnapshotSwap_keeps idx (Keeps.refl s)
  | .fathomWriteoutDone idx => execFathomWriteoutDone_keeps idx (Keeps.refl s)
  | .monConfig m => execMonConfig_keeps m (Keeps.refl s)
  | .monSnapshot m => execMonSnapshot_keeps m (Keeps.refl s)
  | .monSetWindow m => execMonSetWindow_keeps m (Keeps.refl s)
  | .perfConfigChain m => execPerfConfigChain_keeps m (Keeps.refl s)
  | .perfConfigSampler m => execPerfConfigSampler_keeps m (Keeps.refl s)
  | .perfConfigClearOvf m => execPerfConfigClearOvf_keeps m (Keeps.refl s)
  | .perfSnapshot q v => execPerfSnapshot_keeps q v (Keeps.refl s)
  | .perfCounterRead q j high => execPerfCounterRead_keeps q j high (Keeps.refl s)
  | .samplerCrossing k pc => execSamplerCrossing_keeps k pc (Keeps.refl s)
  | .anchorIdleTimeout => execAnchorIdleTimeout_keeps (Keeps.refl s)
  | .anchorRiggerHalted => execAnchorRiggerHalted_keeps (Keeps.refl s)
  | .anchorWindowClose cleat => execAnchorWindowClose_keeps cleat (Keeps.refl s)
  | .wakeEvent k => execWakeEvent_keeps k (Keeps.refl s)
  | .wakeKeepReached => execWakeKeepReached_keeps (Keeps.refl s)
  | .wakeSramFilled => execWakeSramFilled_keeps (Keeps.refl s)
  | .powerUpComplete => execPowerUpComplete_keeps (Keeps.refl s)
  | .powerDownComplete => execPowerDownComplete_keeps (Keeps.refl s)
  | .coreIdleGate => execCoreIdleGate_keeps (Keeps.refl s)
  | .memsReferenceLoss => execMemsReferenceLoss_keeps (Keeps.refl s)
  | .referenceRestored => execReferenceRestored_keeps (Keeps.refl s)
  | .blockEnableWrite q v => execBlockEnableWrite_keeps q v (Keeps.refl s)
  | .blockEnableComplete b => execBlockEnableComplete_keeps b (Keeps.refl s)
  | .softwareAonReset => execSoftwareAonReset_keeps (Keeps.refl s)
  | .brownOut vinFell => execBrownOut_keeps vinFell (Keeps.refl s)
  | .aonWatchdogExpiry => execAonWatchdogExpiry_keeps (Keeps.refl s)
  | .vinLoss => execVinLoss_keeps (Keeps.refl s)
  | .powerAccountingUpdate mW mA blocks => execPowerAccountingUpdate_keeps mW mA blocks (Keeps.refl s)
  | .setPowerState m => execSetPowerState_keeps m (Keeps.refl s)
  | .getPowerAccounting m => execGetPowerAccounting_keeps m (Keeps.refl s)
  | .retirePage m => execRetirePage_keeps m (Keeps.refl s)
  | .retireLedgerWritten => execRetireLedgerWritten_keeps (Keeps.refl s)
  | .bistRun m => execBistRun_keeps m (Keeps.refl s)
  | .bistBlockDone failed us m0 m1 m2 => execBistBlockDone_keeps failed us m0 m1 m2 (Keeps.refl s)
  | .bistResult m => execBistResult_keeps m (Keeps.refl s)
  | .eccLog m => execEccLog_keeps m (Keeps.refl s)
  | .lifetimeMinute => execLifetimeMinute_keeps (Keeps.refl s)
  | .lifetimeRecordAppend => execLifetimeRecordAppend_keeps (Keeps.refl s)
  | .hawserPortEnable q p v => execHawserPortEnable_keeps q p v (Keeps.refl s)
  | .hawserRetrain q p v => execHawserRetrain_keeps q p v (Keeps.refl s)
  | .hawserDetectPulse p load => execHawserDetectPulse_keeps p load (Keeps.refl s)
  | .trainingSetRx p pre post done askPre askPost =>
    execTrainingSetRx_keeps p pre post done askPre askPost (Keeps.refl s)
  | .hawserSymbolLock p => execHawserSymbolLock_keeps p (Keeps.refl s)
  | .capsRx p caps => execCapsRx_keeps p caps (Keeps.refl s)
  | .hawserStateTimeout p => execHawserStateTimeout_keeps p (Keeps.refl s)
  | .hawserLos p => execHawserLos_keeps p (Keeps.refl s)
  | .hawserLol p l => execHawserLol_keeps p l (Keeps.refl s)
  | .linkFrameRx p ack credits replay => execLinkFrameRx_keeps p ack credits replay (Keeps.refl s)
  | .syncPeriod => execSyncPeriod_keeps (Keeps.refl s)
  | .syncReqRx p delay => execSyncReqRx_keeps p delay (Keeps.refl s)
  | .syncRespRx p t2 t3 e coarse invalid => execSyncRespRx_keeps p t2 t3 e coarse invalid (Keeps.refl s)
  | .assignRx u next leader e hops => execAssignRx_keeps u next leader e hops (Keeps.refl s)
  | .doneRx p r => execDoneRx_keeps p r (Keeps.refl s)
  | .statusRx p h st => execStatusRx_keeps p h st (Keeps.refl s)
  | .discoveryDelayExpiry => execDiscoveryDelayExpiry_keeps (Keeps.refl s)
  | .epochRx p h e d list params => execEpochRx_keeps p h e d list params (Keeps.refl s)
  | .epochLagTimeout idx => execEpochLagTimeout_keeps idx (Keeps.refl s)
  | .digestRecompute => execDigestRecompute_keeps (Keeps.refl s)
  | .droppedRx p h src dst type tag => execDroppedRx_keeps p h src dst type tag (Keeps.refl s)
  | .msgRx p h g ns => execMsgRx_keeps p h g ns (Keeps.refl s)
  | .pushRx p h offset bytes last => execPushRx_keeps p h offset bytes last (Keeps.refl s)
  | .takenRx p h tag => execTakenRx_keeps p h tag (Keeps.refl s)
  | .completionRx p h w0 status orig epoch result final mb g =>
    execCompletionRx_keeps p h w0 status orig epoch result final mb g (Keeps.refl s)
  | .gangForward m => execGangForward_keeps m (Keeps.refl s)
  | .gangStatus m => execGangStatus_keeps m (Keeps.refl s)
  | .gangConfigParameters m => execGangConfigParameters_keeps m (Keeps.refl s)
  | .gangConfigList m => execGangConfigList_keeps m (Keeps.refl s)
  | .gangConfigRediscover m => execGangConfigRediscover_keeps m (Keeps.refl s)
  | .gangConfigPush m => execGangConfigPush_keeps m (Keeps.refl s)
  | .gangConfigReload m => execGangConfigReload_keeps m (Keeps.refl s)
  | .pgtkiRise head => execPgtkiRise_keeps head (Keeps.refl s)
  | .pgtkiFall => execPgtkiFall_keeps (Keeps.refl s)
  | .powerGrantRoundEnd => execPowerGrantRoundEnd_keeps (Keeps.refl s)
  | .powerGrantStepEnd low => execPowerGrantStepEnd_keeps low (Keeps.refl s)
  | .hostCdrLock h => execHostCdrLock_keeps h (Keeps.refl s)
  | .rxPllLock n => execRxPllLock_keeps n (Keeps.refl s)
  | .hostPllLock q => execHostPllLock_keeps q (Keeps.refl s)
  | .coreUngateComplete => execCoreUngateComplete_keeps (Keeps.refl s)
  | .lanyardSymbolBoundary d => execLanyardSymbolBoundary_keeps d (Keeps.refl s)
  | .lanyardChainSettled d => execLanyardChainSettled_keeps d (Keeps.refl s)
  | .triggeredConversionDue c => execTriggeredConversionDue_keeps c (Keeps.refl s)
  | .hawserLosDeassert p => execHawserLosDeassert_keeps p (Keeps.refl s)
  | .gangPushTimeout idx => execGangPushTimeout_keeps idx (Keeps.refl s)
  | .boundaryScanEntry => execBoundaryScanEntry_keeps (Keeps.refl s)

/-- A step keeps, of the state with the rest of the queue, what its command or its tick keeps. -/
theorem step_keeps {s t : State} (h : step s = .next t) : ∃ rest, Keeps true { s with pending := rest } t := by
  unfold step at h
  split at h
  case h_1 c rest _ => exact ⟨rest, (exec_keeps c _ t h).weaken⟩
  case h_2 =>
    obtain rfl : s.tick = t := Host.Outcome.next.inj h
    exact ⟨s.pending, State.tick_keeps (Keeps.refl s)⟩

/-- Settles O41. -/
theorem commandsKeepQueue : Obligations.CommandsKeepQueue :=
  fun c s t h => (exec_keeps c s t h).pending

/-- Settles O57: what a byte of SRAM reads depends on the stored bytes and the retired pages alone. -/
theorem onlyStoringCommandsStore : Obligations.OnlyStoringCommandsStore := by
  intro c s t hc h
  obtain ⟨hsram, hretired⟩ := (exec_keeps c s t h).bytes hc
  exact ⟨hsram, State.byte_of_memView (Prod.ext hsram hretired)⟩

/-- Settles O38. -/
theorem stepKeepsStores : Obligations.StepKeepsStores := by
  intro s t hwf h
  obtain ⟨rest, hk⟩ := step_keeps h
  obtain ⟨hsram, hregs⟩ := Bool.and_eq_true_iff.mp hwf
  exact Bool.and_eq_true_iff.mpr ⟨hk.sram hsram, hk.regs hregs⟩

/-- Settles O39. -/
theorem stepKeepsCapacities : Obligations.StepKeepsCapacities := by
  intro s t hb h
  obtain ⟨rest, hk⟩ := step_keeps h
  exact hk.bounded hb

/-- Settles O40. -/
theorem stepGrowsOtp : Obligations.StepGrowsOtp := by
  intro s t h
  obtain ⟨rest, hk⟩ := step_keeps h
  exact hk.otp

/-- Settles O35: the two cases of a step. -/
theorem stepTakesTheFront : Obligations.StepTakesTheFront :=
  ⟨fun s c rest h => by simp only [step, h], fun s h => by simp only [step, h]⟩


/-! ## Every command answers -/

/-- The meaning answers a next state. -/
def Answers (o : Host.Outcome State Fault Refusal) : Prop := ∃ t, o = .next t

theorem Answers.next (t : State) : Answers (.next t) := ⟨t, rfl⟩

theorem Answers.ite {p : Prop} [Decidable p] {a b : Host.Outcome State Fault Refusal} (ha : Answers a)
    (hb : Answers b) : Answers (if p then a else b) := by
  split <;> assumption

/-- Settles O36: a meaning is one next state, a choice between two of them, or a deeper choice, whose last branches are
next states all the same. -/
theorem everyCommandAnswers : Obligations.EveryCommandAnswers := by
  intro c s
  show Answers (exec c s)
  cases c
  all_goals try exact .next _
  all_goals try exact .ite (.next _) (.next _)
  all_goals
    simp only [exec,
      execSramRead, execPendingChangeNoFraming, execAmGroupArrival, execAmPositionMissed,
      execSlotLockWindowEnd, execProtectFinalPoint, execMaskCtrlWrite, execTxPllLocked,
      execTxPllReferenceSwitch, execTxCalResult, execWinchVisitEnd, execRxCalResult,
      execCapstanIterationResult, execWritebackEntry, execCodewordRelease, execWasteWindowEnd,
      execCtleSearchStep, execRsmCodeword, execProbeDurationEnd, execLanyardHeaderFound, execTelemetryPeriod,
      execHelloPeriodMissed, execTxadjRequestRx, execTimeRx, execProtectProposeRx, execProtectAcceptRx,
      execProtectConfirmRx, execProtectAbandonRx, execUserFragmentRx, execLanyardSendTimeout,
      execTimeSnapshotRead, execTwoWayRead, execPpsInEdge, execTimeSetPpsTimeout, execScheduledTimeReached,
      execI3cCcc, execCmisApplyDpinit, execCmisApplyImmediate, execDatapathStateAdvance,
      execWindowAccessComplete, execCompletionRingPop, execCdbStartDownload, execCdbCompleteDownload,
      execFlashWriteComplete, execCdbRunImage, execCdbCommitImage, execMailboxWordWrite, execMailboxTake,
      execKnotReady, execKnotAmWaitExpiry, execGangDecisionPoint, execRiggerRestart, execRiggerImageLoaded,
      execDebugUnlockResponse, execRiggerRelease, execSequencerRound, execAdcConversionEnd, execFathomStop,
      execAnchorRiggerHalted, execAnchorWindowClose, execWakeEvent, execWakeSramFilled, execMemsReferenceLoss,
      execReferenceRestored, execRetireLedgerWritten, execBistBlockDone, execHawserDetectPulse,
      execLinkFrameRx, execSyncPeriod, execSyncRespRx, execCompletionRx, execPgtkiRise, execPowerGrantStepEnd]
    repeat' split
    all_goals exact .next _

/-! ## The state after reset -/

/-- Settles O37: at reset no byte and no register is listed, so that each reads its default. -/
theorem resetInForm : Obligations.ResetInForm :=
  ⟨rfl, by decide, rfl, State.byte_of_sram_nil rfl, fun _ _ _ => rfl⟩

end Sys2Proof.Machine
end

section
/-! The frames of the commands: State.rest hides the parts that a command may change, and each operation leaves the rest
alone, given that it may change the parts it works on. -/

namespace Sys2Proof.Machine

/-- The parts of the state that a command may change. -/
structure Parts where
  regs : Bool := false
  mbx : Bool := false
  mon : Bool := false
  hws : Bool := false
  fw : Bool := false
  cmis : Bool := false
  lanes : Bool := false
  optics : Bool := false
  lyd : Bool := false
  fresh : Bool := false

/-- The state with these parts as at reset: what a command that may change them alone leaves. -/
def State.rest (s : State) (p : Parts) : State :=
  { s with
    regs := if p.regs then State.reset.regs else s.regs
    mbx := if p.mbx then State.reset.mbx else s.mbx
    mon := if p.mon then State.reset.mon else s.mon
    hws := if p.hws then State.reset.hws else s.hws
    fw := if p.fw then State.reset.fw else s.fw
    cmis := if p.cmis then State.reset.cmis else s.cmis
    lanes := if p.lanes then State.reset.lanes else s.lanes
    optics := if p.optics then State.reset.optics else s.optics
    lyd := if p.lyd then State.reset.lyd else s.lyd
    fresh := if p.fresh then State.reset.fresh else s.fresh }

variable {P : Parts} {s : State}

@[simp] theorem State.rest_ite {c : Prop} [Decidable c] {a b : State} :
    (if c then a else b).rest P = if c then a.rest P else b.rest P := apply_ite (State.rest · P) ..

@[simp] theorem State.rest_regs {x} (h : P.regs = true) : ({ s with regs := x } : State).rest P = s.rest P := by
  simp [State.rest, h]
@[simp] theorem State.rest_mbx {x} (h : P.mbx = true) : ({ s with mbx := x } : State).rest P = s.rest P := by
  simp [State.rest, h]
@[simp] theorem State.rest_mon {x} (h : P.mon = true) : ({ s with mon := x } : State).rest P = s.rest P := by
  simp [State.rest, h]
@[simp] theorem State.rest_hws {x} (h : P.hws = true) : ({ s with hws := x } : State).rest P = s.rest P := by
  simp [State.rest, h]
@[simp] theorem State.rest_fw {x} (h : P.fw = true) : ({ s with fw := x } : State).rest P = s.rest P := by
  simp [State.rest, h]
@[simp] theorem State.rest_cmis {x} (h : P.cmis = true) : ({ s with cmis := x } : State).rest P = s.rest P := by
  simp [State.rest, h]
@[simp] theorem State.rest_lanes {x} (h : P.lanes = true) : ({ s with lanes := x } : State).rest P = s.rest P := by
  simp [State.rest, h]
@[simp] theorem State.rest_optics {x} (h : P.optics = true) : ({ s with optics := x } : State).rest P = s.rest P := by
  simp [State.rest, h]
@[simp] theorem State.rest_lyd {x} (h : P.lyd = true) : ({ s with lyd := x } : State).rest P = s.rest P := by
  simp [State.rest, h]
@[simp] theorem State.rest_fresh {x} (h : P.fresh = true) : ({ s with fresh := x } : State).rest P = s.rest P := by
  simp [State.rest, h]

@[simp] theorem foldl_rest {α : Type} {g : State → α → State} (hg : ∀ s x, (g s x).rest P = s.rest P)
    (l : List α) : (l.foldl g s).rest P = s.rest P := by
  induction l generalizing s with
  | nil => rfl
  | cons x l ih => rw [List.foldl_cons, ih, hg]

@[simp] theorem eachOf_rest {f : Nat → State → State} (hf : ∀ n s, (f n s).rest P = s.rest P) (l : List Nat) :
    (eachOf l f s).rest P = s.rest P := foldl_rest (fun s n => hf n s) l

@[simp] theorem eachBelow_rest {f : Nat → State → State} (hf : ∀ n s, (f n s).rest P = s.rest P) (k : Nat) :
    (eachBelow k f s).rest P = s.rest P := foldl_rest (fun s n => hf n s) _

@[simp] theorem runCmd_rest {f : Cmd → State → State} (hf : ∀ c s, (f c s).rest P = s.rest P)
    (op : Nat) (m : MBox) : (runCmd op m f s).rest P = s.rest P := by
  unfold runCmd
  split
  · rfl
  · simp [hf]

/-! ## Operations on the registers -/

section
variable (hregs : P.regs = true)
include hregs

@[simp] theorem State.setWord_rest (r w n m) : (s.setWord r w n m).rest P = s.rest P := State.rest_regs hregs

@[simp] theorem State.put_rest (f v n m) : (State.put s f v n m).rest P = s.rest P := by
  simp [State.put, hregs]

@[simp] theorem State.putB_rest (f b n m) : (State.putB s f b n m).rest P = s.rest P := by
  simp [State.putB, hregs]

@[simp] theorem State.addSat_rest (f k n m) : (State.addSat s f k n m).rest P = s.rest P := by
  simp [State.addSat, hregs]

@[simp] theorem State.incWrap_rest (f n m) : (State.incWrap s f n m).rest P = s.rest P := by
  simp [State.incWrap, hregs]

@[simp] theorem State.unlockStaging_rest (m) : (State.unlockStaging s m).rest P = s.rest P := by
  simp [State.unlockStaging, hregs]

@[simp] theorem State.writePlain_rest (r v n m) : (State.writePlain s r v n m).rest P = s.rest P := by
  simp [State.writePlain, hregs]

@[simp] theorem fathomStop_rest (i) : (fathomStop i s).rest P = s.rest P := by
  simp [fathomStop, hregs]

@[simp] theorem monConfigured_rest (c i) : (monConfigured c i s).rest P = s.rest P := by
  simp [monConfigured, hregs]

@[simp] theorem monWinCfgWrite_rest (w v) : (monWinCfgWrite w v s).rest P = s.rest P := by
  simp [monWinCfgWrite, hregs]

@[simp] theorem windowSet_rest (c w) : (windowSet c w s).rest P = s.rest P := by
  simp [windowSet, hregs]

@[simp] theorem State.rsmCheck_rest : (State.rsmCheck s).rest P = s.rest P := by
  simp [State.rsmCheck, hregs]

@[simp] theorem shapeApply_rest (n) : (shapeApply n s).rest P = s.rest P := by
  simp [shapeApply, hregs]

@[simp] theorem shadowTaps_rest (n ws) : (shadowTaps n ws s).rest P = s.rest P := by
  simp [shadowTaps, hregs]

@[simp] theorem shadowPd_rest (n bs) : (shadowPd n bs s).rest P = s.rest P := by
  simp [shadowPd, hregs]

@[simp] theorem maskJudge_rest (n) : (maskJudge n s).rest P = s.rest P := by
  unfold maskJudge
  split <;> simp [hregs]

@[simp] theorem hstRefuse_rest (h) : (hstRefuse h s).rest P = s.rest P := by
  simp [hstRefuse, hregs]

@[simp] theorem hstApply_rest (h) : (hstApply h s).rest P = s.rest P := by
  simp [hstApply, hregs]

@[simp] theorem State.noteFail_rest (f) : (State.noteFail s f).rest P = s.rest P := by
  unfold State.noteFail
  split <;> simp [hregs]

@[simp] theorem acctBlock_rest (k mW) : (acctBlock k mW s).rest P = s.rest P := by
  simp [acctBlock, hregs]

@[simp] theorem trainStep_rest (p pre post) : (trainStep p pre post s).rest P = s.rest P := by
  simp [trainStep, hregs]

@[simp] theorem windowFlags_rest (w) : (windowFlags w s).rest P = s.rest P := by
  simp [windowFlags, hregs]

@[simp] theorem gangDigest_rest : (gangDigest s).rest P = s.rest P := by
  simp [gangDigest, hregs]

@[simp] theorem quarantineJudge_rest : (quarantineJudge s).rest P = s.rest P := by
  unfold quarantineJudge
  split <;> simp [hregs]

@[simp] theorem digestJudge_rest : (digestJudge s).rest P = s.rest P := by
  unfold digestJudge
  split <;> simp [hregs]

@[simp] theorem commitIn_rest (handle) : (commitIn handle s).rest P = s.rest P := by
  unfold commitIn
  split <;> simp [hregs]

end

/-! ## Operations on the mailboxes -/

section
variable (hmbx : P.mbx = true)
include hmbx

@[simp] theorem State.setWindow_rest (ident w) : (State.setWindow s ident w).rest P = s.rest P := by
  simp [State.setWindow, hmbx]

@[simp] theorem State.windowFinal_rest (c st result) : (State.windowFinal s c st result).rest P = s.rest P := by
  simp [State.windowFinal, hmbx]

@[simp] theorem State.setCmd_rest (c) : (State.setCmd s c).rest P = s.rest P := by
  simp [State.setCmd, hmbx]

@[simp] theorem State.await_rest (c w) : (State.await s c w).rest P = s.rest P := by
  simp [State.await, hmbx]

@[simp] theorem State.modMbx_rest (f) : (s.modMbx f).rest P = s.rest P := State.rest_mbx hmbx

@[simp] theorem State.setAllow_rest (op mask) : (State.setAllow s op mask).rest P = s.rest P := by
  simp [State.setAllow, hmbx]

@[simp] theorem State.setPolicyBit_rest (b v) : (State.setPolicyBit s b v).rest P = s.rest P := by
  simp [State.setPolicyBit, hmbx]

end

/-! ## Operations on the monitors -/

section
variable (hmon : P.mon = true)
include hmon

@[simp] theorem State.modMon_rest (f) : (State.modMon s f).rest P = s.rest P := by
  simp [State.modMon, hmon]

@[simp] theorem State.modFathom_rest (i f) : (State.modFathom s i f).rest P = s.rest P := by
  simp [State.modFathom, hmon]

@[simp] theorem convStart_rest (c urgent) : (convStart c urgent s).rest P = s.rest P := by
  simp [convStart, hmon]

@[simp] theorem convNext_rest : (convNext s).rest P = s.rest P := by
  unfold convNext
  (repeat' split) <;> simp [hmon]

@[simp] theorem samplerArm_rest (k) : (samplerArm k s).rest P = s.rest P := by
  simp [samplerArm, hmon]

end

/-! ## Operations on Hawser -/

section
variable (hhws : P.hws = true)
include hhws

@[simp] theorem State.modPort_rest (p f) : (State.modPort s p f).rest P = s.rest P := by
  simp [State.modPort, hhws]

@[simp] theorem State.modHws_rest (f) : (State.modHws s f).rest P = s.rest P := by
  simp [State.modHws, hhws]

@[simp] theorem takenIn_rest (i tag) : (takenIn i tag s).rest P = s.rest P := by
  simp [takenIn, hhws]

end

/-! ## Operations on the firmware state -/

section
variable (hfw : P.fw = true)
include hfw

@[simp] theorem State.modFw_rest (f) : (s.modFw f).rest P = s.rest P := State.rest_fw hfw

@[simp] theorem State.flashWrite_rest (o bs) : (State.flashWrite s o bs).rest P = s.rest P := by
  simp [State.flashWrite, hfw]

theorem commitImage_rest {t : State} (h : commitImage s = some t) : t.rest P = s.rest P := by
  unfold commitImage at h
  dsimp only at h
  split at h
  · cases h
  · obtain rfl := Option.some.inj h
    simp [hfw]

end

/-! ## Operations on the management interface -/

section
variable (hcmis : P.cmis = true)
include hcmis

@[simp] theorem State.modCmis_rest (f) : (State.modCmis s f).rest P = s.rest P := by
  simp [State.modCmis, hcmis]

@[simp] theorem State.latchFlag_rest (bank page off b) : (State.latchFlag s bank page off b).rest P = s.rest P := by
  simp [State.latchFlag, hcmis]

@[simp] theorem State.cdbDone_rest (st vendor reply) : (State.cdbDone s st vendor reply).rest P = s.rest P := by
  simp [State.cdbDone, hcmis]

@[simp] theorem State.setConfig_rest (b lanes st) : (State.setConfig s b lanes st).rest P = s.rest P := by
  simp [State.setConfig, hcmis]

@[simp] theorem vdmEach_rest (f) : (vdmEach f s).rest P = s.rest P := by
  simp [vdmEach, hcmis]

@[simp] theorem vdmSample_rest : (vdmSample s).rest P = s.rest P := by
  simp [vdmSample, hcmis]

@[simp] theorem vdmRefresh_rest : (vdmRefresh s).rest P = s.rest P := by
  simp [vdmRefresh, hcmis]

@[simp] theorem vdmFlags_rest (b g o) : (vdmFlags b g o s).rest P = s.rest P := by
  unfold vdmFlags
  split <;> simp [hcmis]

@[simp] theorem State.setMonitor_rest (kind n v) : (State.setMonitor s kind n v).rest P = s.rest P := by
  simp [State.setMonitor, hcmis]

@[simp] theorem laneMonitors_rest (n) : (laneMonitors n s).rest P = s.rest P := by
  simp [laneMonitors, hcmis]

@[simp] theorem irqUpdate_rest : (irqUpdate s).rest P = s.rest P := by
  simp [irqUpdate, hcmis]

@[simp] theorem latchWhile_rest (on b off i) : (latchWhile on b off i s).rest P = s.rest P := by
  simp [latchWhile, hcmis]

@[simp] theorem hostFlags_rest (h) : (hostFlags h s).rest P = s.rest P := by
  simp [hostFlags, hcmis]

@[simp] theorem mediaFlags_rest (n) : (mediaFlags n s).rest P = s.rest P := by
  simp [mediaFlags, hcmis]

@[simp] theorem State.modWindow_rest (f) : (State.modWindow s f).rest P = s.rest P := by
  simp [State.modWindow, hcmis]

end

/-! ## Operations on the lanes -/

section
variable (hlanes : P.lanes = true)
include hlanes

@[simp] theorem State.modLanes_rest (f) : (State.modLanes s f).rest P = s.rest P := by
  simp [State.modLanes, hlanes]

@[simp] theorem State.modTx_rest (n f) : (State.modTx s n f).rest P = s.rest P := by
  simp [State.modTx, hlanes]

@[simp] theorem State.modRx_rest (n f) : (State.modRx s n f).rest P = s.rest P := by
  simp [State.modRx, hlanes]

@[simp] theorem State.modHst_rest (h f) : (State.modHst s h f).rest P = s.rest P := by
  simp [State.modHst, hlanes]

@[simp] theorem State.modPll_rest (p f) : (State.modPll s p f).rest P = s.rest P := by
  simp [State.modPll, hlanes]

@[simp] theorem State.modWinch_rest (f) : (State.modWinch s f).rest P = s.rest P := by
  simp [State.modWinch, hlanes]

@[simp] theorem State.modProt_rest (f) : (State.modProt s f).rest P = s.rest P := by
  simp [State.modProt, hlanes]

@[simp] theorem State.preClear_rest (n) : (State.preClear s n).rest P = s.rest P := by
  simp [State.preClear, hlanes]

@[simp] theorem State.pllRefLost_rest (h) : (State.pllRefLost s h).rest P = s.rest P := by
  simp [State.pllRefLost, hlanes]

@[simp] theorem State.capSource_rest (n k) : (State.capSource s n k).rest P = s.rest P := by
  simp [State.capSource, hlanes]

@[simp] theorem maskTake_rest (n) : (maskTake n s).rest P = s.rest P := by
  simp [maskTake, hlanes]

@[simp] theorem maskClear_rest (n) : (maskClear n s).rest P = s.rest P := by
  simp [maskClear, hlanes]

@[simp] theorem txMux_rest (n g) : (txMux n g s).2.rest P = s.rest P := by
  unfold txMux
  dsimp only
  split <;> simp [hlanes]

@[simp] theorem State.winchSpoil_rest (i) : (State.winchSpoil s i).rest P = s.rest P := by
  simp [State.winchSpoil, hlanes]

@[simp] theorem State.protLoss_rest (n) : (State.protLoss s n).rest P = s.rest P := by
  simp [State.protLoss, hlanes]

@[simp] theorem State.visitEarly_rest (i) : (State.visitEarly s i).rest P = s.rest P := by
  simp [State.visitEarly, hlanes]

@[simp] theorem setSearch_rest (f x) : (setSearch f x s).rest P = s.rest P := by
  unfold setSearch
  split <;> simp [hlanes]

end

/-! ## Operations on the optical state -/

section
variable (hoptics : P.optics = true)
include hoptics

@[simp] theorem State.modGrant_rest (f) : (State.modGrant s f).rest P = s.rest P := by
  simp [State.modGrant, hoptics]

@[simp] theorem State.modOlc_rest (n f) : (State.modOlc s n f).rest P = s.rest P := by
  simp [State.modOlc, hoptics]

@[simp] theorem State.modChan_rest (c f) : (State.modChan s c f).rest P = s.rest P := by
  simp [State.modChan, hoptics]

end

/-! ## Operations on the Lanyard -/

section
variable (hlyd : P.lyd = true)
include hlyd

@[simp] theorem State.modLyd_rest (n f) : (State.modLyd s n f).rest P = s.rest P := by
  simp [State.modLyd, hlyd]

@[simp] theorem State.lydLose_rest (n) : (State.lydLose s n).rest P = s.rest P := by
  simp [State.lydLose, hlyd]

@[simp] theorem State.lydQueue_rest (n type content) : (State.lydQueue s n type content).rest P = s.rest P := by
  simp [State.lydQueue, hlyd]

@[simp] theorem State.sendProtect_rest (op k reason) : (State.sendProtect s op k reason).rest P = s.rest P := by
  simp [State.sendProtect, hlyd]

@[simp] theorem txadjSend_rest (n r) : (txadjSend n r s).rest P = s.rest P := by
  simp [txadjSend, hlyd]

end

/-! ## Operations on the counter behind the free values -/

section
variable (hfresh : P.fresh = true)
include hfresh

@[simp] theorem State.free_rest (site) : (State.free s site).2.rest P = s.rest P := by
  simp [State.free, hfresh]

@[simp] theorem State.freeRound_rest (site num den) : (s.freeRound site num den).2.rest P = s.rest P := by
  unfold State.freeRound
  split
  · rfl
  · exact State.rest_fresh hfresh

@[simp] theorem maskBin_rest (n b) : (maskBin n b s).2.rest P = s.rest P := by
  unfold maskBin
  dsimp only
  split <;> simp [hfresh]

@[simp] theorem maskBinsOf_rest (n) : (maskBinsOf n s).2.rest P = s.rest P := by
  unfold maskBinsOf
  refine List.foldlRecOn (motive := fun a : List Nat × State => a.2.rest P = s.rest P) _ _ rfl fun a ha b _ => ?_
  dsimp only
  rw [maskBin_rest hfresh, ha]

@[simp] theorem preBer_rest (b cw) : (preBer b cw s).2.rest P = s.rest P := by
  unfold preBer
  split <;> simp [hfresh]

@[simp] theorem wasteRatio_rest (n) : (wasteRatio n s).2.rest P = s.rest P := by
  unfold wasteRatio
  dsimp only
  split
  · exact State.free_rest hfresh 10
  · exact State.freeRound_rest hfresh 11 _ _

@[simp] theorem levelByte_rest (lo hi q) : (levelByte lo hi q s).2.rest P = s.rest P := by
  unfold levelByte
  dsimp only
  (repeat' split) <;> simp [hfresh]

@[simp] theorem levelBytes_rest (n) : (levelBytes n s).2.rest P = s.rest P := by
  unfold levelBytes
  refine List.foldlRecOn (motive := fun a : List Byte × State => a.2.rest P = s.rest P) _ _ rfl fun a ha i _ => ?_
  dsimp only
  rw [levelByte_rest hfresh, levelByte_rest hfresh, ha]

end

/-! ## Operations on the registers and the mailboxes -/

section
variable (hregs : P.regs = true) (hmbx : P.mbx = true)
include hregs hmbx

@[simp] theorem State.flushRing_rest (ident) : (State.flushRing s ident).rest P = s.rest P := by
  simp [State.flushRing, hregs, hmbx]

end

/-! ## Operations on the registers and the monitors -/

section
variable (hregs : P.regs = true) (hmon : P.mon = true)
include hregs hmon

@[simp] theorem State.perfAdd_rest (fuel : Nat) :
    ∀ (s : State) (j k : Nat), (s.perfAdd fuel j k).rest P = s.rest P := by
  induction fuel with
  | zero => intro s j k; unfold State.perfAdd; simp [hregs, hmon]
  | succ fuel ih => intro s j k; unfold State.perfAdd; simp [hregs, hmon, ih]


@[simp] theorem State.perf_rest (j k) : (State.perf s j k).rest P = s.rest P := by
  simp [State.perf, hregs, hmon]

@[simp] theorem fathomStart_rest (i) : (fathomStart i s).rest P = s.rest P := by
  simp [fathomStart, hregs, hmon]

@[simp] theorem fathomRequest_rest (i) : (fathomRequest i s).rest P = s.rest P := by
  simp [fathomRequest, hregs, hmon]

@[simp] theorem fathomSwap_rest (i) : (fathomSwap i s).rest P = s.rest P := by
  simp [fathomSwap, hregs, hmon]

@[simp] theorem State.frameIn_rest (n) : (State.frameIn s n).rest P = s.rest P := by
  simp [State.frameIn, hregs, hmon]

end

/-! ## Operations on the registers and Hawser -/

section
variable (hregs : P.regs = true) (hhws : P.hws = true)
include hregs hhws

@[simp] theorem capsTaken_rest (p l) : (capsTaken p l s).rest P = s.rest P := by
  simp [capsTaken, hregs, hhws]

end

/-! ## Operations on the registers and the lanes -/

section
variable (hregs : P.regs = true) (hlanes : P.lanes = true)
include hregs hlanes

@[simp] theorem State.refreshHost_rest (h) : (State.refreshHost s h).rest P = s.rest P := by
  simp [State.refreshHost, hregs, hlanes]

@[simp] theorem State.refreshHosts_rest : (State.refreshHosts s).rest P = s.rest P := by
  simp [State.refreshHosts, hregs, hlanes]

@[simp] theorem State.rxFramingLost_rest (n b) : (State.rxFramingLost s n b).rest P = s.rest P := by
  simp [State.rxFramingLost, hregs, hlanes]

@[simp] theorem State.slotLost_rest (n) : (State.slotLost s n).rest P = s.rest P := by
  simp [State.slotLost, hregs, hlanes]

@[simp] theorem State.rxLost_rest (n) : (State.rxLost s n).rest P = s.rest P := by
  simp [State.rxLost, hregs, hlanes]

@[simp] theorem txInject_rest (n streamB cw) : (txInject n streamB cw s).2.rest P = s.rest P := by
  unfold txInject
  (repeat' split) <;> simp [hregs, hlanes]

@[simp] theorem bufferCentre_rest (n streamB) : (bufferCentre n streamB s).rest P = s.rest P := by
  simp [bufferCentre, hregs, hlanes]

@[simp] theorem shadowBegin_rest (n) : (shadowBegin n s).rest P = s.rest P := by
  unfold shadowBegin
  split <;> simp [hregs, hlanes]

@[simp] theorem maskResult_rest (n p) : (maskResult n p s).rest P = s.rest P := by
  simp [maskResult, hregs, hlanes]

@[simp] theorem txCalApply_rest (n r) : (txCalApply n r s).rest P = s.rest P := by
  simp [txCalApply, hregs, hlanes]

@[simp] theorem State.rxDown_rest (n) : (State.rxDown s n).rest P = s.rest P := by
  simp [State.rxDown, hregs, hlanes]

@[simp] theorem rxCalApply_rest (n r) : (rxCalApply n r s).rest P = s.rest P := by
  simp [rxCalApply, hregs, hlanes]

@[simp] theorem State.ctleStart_rest (h) : (State.ctleStart s h).rest P = s.rest P := by
  simp [State.ctleStart, hregs, hlanes]

@[simp] theorem hstShadowBegin_rest (h) : (hstShadowBegin h s).rest P = s.rest P := by
  unfold hstShadowBegin
  split <;> simp [hregs, hlanes]

@[simp] theorem hstCodeApply_rest (h) : (hstCodeApply h s).rest P = s.rest P := by
  simp [hstCodeApply, hregs, hlanes]

@[simp] theorem streamFramed_rest (n b) : (streamFramed n b s).rest P = s.rest P := by
  simp [streamFramed, hregs, hlanes]

@[simp] theorem framerLocked_rest (f) : (framerLocked f s).rest P = s.rest P := by
  unfold framerLocked
  split <;> simp [hregs, hlanes]

@[simp] theorem applySi_rest (b k lanes) : (applySi b k lanes s).rest P = s.rest P := by
  simp [applySi, hregs, hlanes]

end

/-! ## Operations on the registers and the Lanyard -/

section
variable (hregs : P.regs = true) (hlyd : P.lyd = true)
include hregs hlyd

@[simp] theorem txadjResult_rest (t id serial st seq) : (txadjResult t id serial st seq s).rest P = s.rest P := by
  simp [txadjResult, hregs, hlyd]

end

/-! ## Operations on Hawser and the counter behind the free values -/

section
variable (hhws : P.hws = true) (hfresh : P.fresh = true)
include hhws hfresh

@[simp] theorem State.hwLine_rest (x) : (State.hwLine s x).rest P = s.rest P := by
  simp [State.hwLine, hhws, hfresh]

@[simp] theorem State.hwReliable_rest (ack x) : (State.hwReliable s ack x).rest P = s.rest P := by
  simp [State.hwReliable, hhws, hfresh]

@[simp] theorem State.hwEmit_rest (p src dst hops m) : (State.hwEmit s p src dst hops m).rest P = s.rest P := by
  unfold State.hwEmit
  split <;> simp [hhws, hfresh]

@[simp] theorem State.hwTryAll_rest (d ms1) : (State.hwTryAll s d ms1).1.rest P = s.rest P := by
  unfold State.hwTryAll
  split <;> simp [hhws, hfresh]

@[simp] theorem State.hwTry_rest (d m) : (State.hwTry s d m).1.rest P = s.rest P := by
  simp [State.hwTry, hhws, hfresh]

@[simp] theorem trainAsk_rest (p done askPre askPost) : (trainAsk p done askPre askPost s).rest P = s.rest P := by
  simp [trainAsk, hhws, hfresh]

@[simp] theorem hwBroadcast_rest (m) : (hwBroadcast m s).rest P = s.rest P := by
  simp [hwBroadcast, hhws, hfresh]

end

/-! ## Operations on the management interface and the counter behind the free values -/

section
variable (hcmis : P.cmis = true) (hfresh : P.fresh = true)
include hcmis hfresh

@[simp] theorem cdbQuery_rest (k) : (cdbQuery k s).rest P = s.rest P := by
  simp [cdbQuery, hcmis, hfresh]

end

/-! ## Operations on the lanes and the Lanyard -/

section
variable (hlanes : P.lanes = true) (hlyd : P.lyd = true)
include hlanes hlyd

@[simp] theorem lydBoundary_rest (n) : (lydBoundary n s).rest P = s.rest P := by
  simp [lydBoundary, hlanes, hlyd]

@[simp] theorem telemetryReset_rest (n) : (telemetryReset n s).rest P = s.rest P := by
  simp [telemetryReset, hlanes, hlyd]

end

/-! ## Operations on the registers, the mailboxes and the monitors -/

section
variable (hregs : P.regs = true) (hmbx : P.mbx = true) (hmon : P.mon = true)
include hregs hmbx hmon

@[simp] theorem State.post_rest (code lane arg) : (State.post s code lane arg).rest P = s.rest P := by
  simp [State.post, hregs, hmbx, hmon]

@[simp] theorem fathomSample_rest (i v excess) : (fathomSample i v excess s).rest P = s.rest P := by
  simp [fathomSample, hregs, hmbx, hmon]

@[simp] theorem fathomOffer_rest (src pass v) : (fathomOffer src pass v s).rest P = s.rest P := by
  simp [fathomOffer, hregs, hmbx, hmon]

@[simp] theorem completionOffer_rest (ident us) : (completionOffer ident us s).rest P = s.rest P := by
  simp [completionOffer, hregs, hmbx, hmon]

@[simp] theorem windowOutward_rest (w z v) : (windowOutward w z v s).rest P = s.rest P := by
  simp [windowOutward, hregs, hmbx, hmon]

@[simp] theorem windowEval_rest (c v w) : (windowEval c v s w).rest P = s.rest P := by
  simp [windowEval, hregs, hmbx, hmon]

@[simp] theorem convDone_rest (c code gain offs) : (convDone c code gain offs s).rest P = s.rest P := by
  simp [convDone, hregs, hmbx, hmon]

@[simp] theorem triggerDrop_rest (c) : (triggerDrop c s).rest P = s.rest P := by
  simp [triggerDrop, hregs, hmbx, hmon]

@[simp] theorem triggerEvent_rest (c) : (triggerEvent s c).rest P = s.rest P := by
  simp [triggerEvent, hregs, hmbx, hmon]

@[simp] theorem fathomEnd_rest (i) : (fathomEnd i s).rest P = s.rest P := by
  simp [fathomEnd, hregs, hmbx, hmon]

end

/-! ## Operations on the registers, the monitors and the lanes -/

section
variable (hregs : P.regs = true) (hmon : P.mon = true) (hlanes : P.lanes = true)
include hregs hmon hlanes

@[simp] theorem txSymbol_rest (n x) : (txSymbol n x s).rest P = s.rest P := by
  simp [txSymbol, hregs, hmon, hlanes]

@[simp] theorem txLevel_rest (n g) : (txLevel n g s).rest P = s.rest P := by
  simp [txLevel, hregs, hmon, hlanes]

@[simp] theorem txBlock_rest (n streamB p) : (txBlock n streamB p s).rest P = s.rest P := by
  simp [txBlock, hregs, hmon, hlanes]

@[simp] theorem txSlots_rest (n) (fuel : Nat) : ∀ s : State, (txSlots fuel n s).rest P = s.rest P := by
  induction fuel with
  | zero => exact fun _ => rfl
  | succ fuel ih =>
    intro s
    unfold txSlots
    dsimp only
    split
    · rfl
    · simp [ih, hregs, hmon, hlanes]

@[simp] theorem txInterval_rest (n) (x) : (txInterval n x s).rest P = s.rest P := by
  unfold txInterval
  split
  · rfl
  · simp [hregs, hmon, hlanes]

@[simp] theorem txData_rest (n) (data) : (txData n data s).rest P = s.rest P := by
  unfold txData
  simp [hregs, hmon, hlanes]

@[simp] theorem slotStart_rest (i) : (slotStart i s).rest P = s.rest P := by
  simp [slotStart, hregs, hmon, hlanes]

end

/-! ## Operations on the registers, Hawser and the counter behind the free values -/

section
variable (hregs : P.regs = true) (hhws : P.hws = true) (hfresh : P.fresh = true)
include hregs hhws hfresh

@[simp] theorem State.hwSendTo_rest (d m) : (State.hwSendTo s d m).rest P = s.rest P := by
  simp [State.hwSendTo, hregs, hhws, hfresh]

@[simp] theorem State.hwReport_rest (topo) : (State.hwReport s topo).rest P = s.rest P := by
  simp [State.hwReport, hregs, hhws, hfresh]

@[simp] theorem portActive_rest (p) : (portActive p s).rest P = s.rest P := by
  simp [portActive, hregs, hhws, hfresh]

@[simp] theorem hwDrop_rest (h m) : (hwDrop h m s).rest P = s.rest P := by
  unfold hwDrop
  split <;> simp [hregs, hhws, hfresh]

@[simp] theorem suspectEval_rest (good) : (suspectEval good s).rest P = s.rest P := by
  unfold suspectEval
  split <;> simp [hregs, hhws, hfresh]

@[simp] theorem syncMissed_rest : (syncMissed s).rest P = s.rest P := by
  simp [syncMissed, hregs, hhws, hfresh]

@[simp] theorem epochBump_rest : (epochBump s).rest P = s.rest P := by
  simp [epochBump, hregs, hhws, hfresh]

@[simp] theorem digestTick_rest : (digestTick s).rest P = s.rest P := by
  simp [digestTick, hregs, hhws, hfresh]

@[simp] theorem epochIn_rest (e d m list params) : (epochIn e d m list params s).rest P = s.rest P := by
  unfold epochIn
  (repeat' split) <;> simp [hregs, hhws, hfresh]

@[simp] theorem ownForward_rest (i op words ext) : (ownForward i op words ext s).2.rest P = s.rest P := by
  simp [ownForward, hregs, hhws, hfresh]

@[simp] theorem reloadStart_rest (i) : (reloadStart i s).rest P = s.rest P := by
  simp [reloadStart, hregs, hhws, hfresh]

@[simp] theorem gangParameters_rest (c) : (gangParameters c s).rest P = s.rest P := by
  simp [gangParameters, hregs, hhws, hfresh]

end

/-! ## Operations on the registers, the lanes and the optical state -/

section
variable (hregs : P.regs = true) (hlanes : P.lanes = true) (hoptics : P.optics = true)
include hregs hlanes hoptics

@[simp] theorem State.stepStart_rest (p) : (s.stepStart p).rest P = s.rest P := by
  unfold State.stepStart
  split
  · exact (State.rest_optics hoptics).trans (State.put_rest hregs ..)
  · simp [hlanes, hoptics]
  · simp [hoptics]

@[simp] theorem State.takeStep_rest : (State.takeStep s).rest P = s.rest P := by
  unfold State.takeStep
  split <;> simp [hregs, hlanes, hoptics]

@[simp] theorem State.wantStep_rest (p) : (State.wantStep s p).rest P = s.rest P := by
  unfold State.wantStep
  (repeat' split) <;> simp [hregs, hlanes, hoptics]

@[simp] theorem State.pass_rest : (State.pass s).rest P = s.rest P := by
  simp [State.pass, hregs, hlanes, hoptics]

@[simp] theorem State.stepEnd_rest (p) : (State.stepEnd s p).rest P = s.rest P := by
  simp [State.stepEnd, hregs, hlanes, hoptics]

@[simp] theorem State.dropStep_rest (p) : (State.dropStep s p).rest P = s.rest P := by
  simp [State.dropStep, hregs, hlanes, hoptics]

@[simp] theorem State.vdrvDemand_rest : (State.vdrvDemand s).rest P = s.rest P := by
  simp [State.vdrvDemand, hregs, hlanes, hoptics]

@[simp] theorem chanLoad_rest (n k code) : (chanLoad n k code s).rest P = s.rest P := by
  simp [chanLoad, hregs, hlanes, hoptics]

@[simp] theorem lockinClose_rest (n) : (lockinClose n s).rest P = s.rest P := by
  simp [lockinClose, hregs, hlanes, hoptics]

@[simp] theorem coreDown_rest : (coreDown s).rest P = s.rest P := by
  simp [coreDown, hregs, hlanes, hoptics]

end

/-! ## Operations on the registers, the lanes and the Lanyard -/

section
variable (hregs : P.regs = true) (hlanes : P.lanes = true) (hlyd : P.lyd = true)
include hregs hlanes hlyd

@[simp] theorem State.squelch_rest (n frame pll) : (State.squelch s n frame pll).rest P = s.rest P := by
  simp [State.squelch, hregs, hlanes, hlyd]

@[simp] theorem State.txFramingLost_rest (n b) : (State.txFramingLost s n b).rest P = s.rest P := by
  simp [State.txFramingLost, hregs, hlanes, hlyd]

@[simp] theorem State.hostLost_rest (h) : (s.hostLost h).rest P = s.rest P := by
  unfold State.hostLost
  dsimp only
  rw [State.rsmCheck_rest hregs, eachBelow_rest]
  · simp [hregs, hlanes]
  · intro n s
    split <;> simp [hregs, hlanes, hlyd]

@[simp] theorem bufferSlip_rest (n streamB) : (bufferSlip n streamB s).rest P = s.rest P := by
  simp [bufferSlip, hregs, hlanes, hlyd]

@[simp] theorem bufferFill_rest (n streamB fill) : (bufferFill n streamB fill s).rest P = s.rest P := by
  simp [bufferFill, hregs, hlanes, hlyd]

@[simp] theorem pllSquelch_rest (p on) : (pllSquelch p on s).rest P = s.rest P := by
  simp [pllSquelch, hregs, hlanes, hlyd]

@[simp] theorem State.hostDown_rest (h) : (State.hostDown s h).rest P = s.rest P := by
  simp [State.hostDown, hregs, hlanes, hlyd]

@[simp] theorem txadjTake_rest (t id serial b) : (txadjTake t id serial b s).rest P = s.rest P := by
  simp [txadjTake, hregs, hlanes, hlyd]

end

/-! ## Operations on the registers, the lanes and the counter behind the free values -/

section
variable (hregs : P.regs = true) (hlanes : P.lanes = true) (hfresh : P.fresh = true)
include hregs hlanes hfresh

@[simp] theorem maskEstimate_rest (n) : (maskEstimate n s).rest P = s.rest P := by
  simp [maskEstimate, hregs, hlanes, hfresh]

end

/-! ## Operations on the registers, the optical state and the counter behind the free values -/

section
variable (hregs : P.regs = true) (hoptics : P.optics = true) (hfresh : P.fresh = true)
include hregs hoptics hfresh

@[simp] theorem lockinCorrelate_rest (n) (m) : (lockinCorrelate n m s).rest P = s.rest P := by
  unfold lockinCorrelate
  extract_lets
  simp [hregs, hoptics, hfresh]

end

/-! ## Operations on the lanes, the Lanyard and the counter behind the free values -/

section
variable (hlanes : P.lanes = true) (hlyd : P.lyd = true) (hfresh : P.fresh = true)
include hlanes hlyd hfresh

@[simp] theorem telemetryQueue_rest (n) : (telemetryQueue n s).rest P = s.rest P := by
  simp [telemetryQueue, hlanes, hlyd, hfresh]

end

/-! ## Operations on the registers, the mailboxes, the monitors and Hawser -/

section
variable (hregs : P.regs = true) (hmbx : P.mbx = true) (hmon : P.mon = true) (hhws : P.hws = true)
include hregs hmbx hmon hhws

@[simp] theorem memberLags_rest (i) : (memberLags i s).rest P = s.rest P := by
  simp [memberLags, hregs, hmbx, hmon, hhws]

end

/-! ## Operations on the registers, the mailboxes, the monitors and the counter behind the free values -/

section
variable (hregs : P.regs = true) (hmbx : P.mbx = true) (hmon : P.mon = true) (hfresh : P.fresh = true)
include hregs hmbx hmon hfresh

@[simp] theorem State.postBare_rest (code lane) : (State.postBare s code lane).rest P = s.rest P := by
  simp [State.postBare, hregs, hmbx, hmon, hfresh]

end

/-! ## Operations on the registers, the monitors, Hawser and the counter behind the free values -/

section
variable (hregs : P.regs = true) (hmon : P.mon = true) (hhws : P.hws = true) (hfresh : P.fresh = true)
include hregs hmon hhws hfresh

@[simp] theorem hwForward_rest (h m) : (hwForward h m s).rest P = s.rest P := by
  unfold hwForward
  split <;> simp [hregs, hmon, hhws, hfresh]

@[simp] theorem hwCopy_rest (h m) : (hwCopy h m s).rest P = s.rest P := by
  simp [hwCopy, hregs, hmon, hhws, hfresh]

@[simp] theorem hwArrive_rest {deliver : State → State} (hd : ∀ s, (deliver s).rest P = s.rest P) (p h m keep) :
    (hwArrive p h m deliver keep s).rest P = s.rest P := by
  unfold hwArrive
  extract_lets route
  have hroute (s : State) : (route s).rest P = s.rest P := by simp [route, hd, hregs, hmon, hhws, hfresh]
  split
  · rfl
  · split
    · simp [hroute]
    · simp [hroute, hhws, hfresh]

end

/-! ## Operations on the registers, the mailboxes, the monitors, Hawser and the counter behind the free values -/

section
variable (hregs : P.regs = true) (hmbx : P.mbx = true) (hmon : P.mon = true) (hhws : P.hws = true)
  (hfresh : P.fresh = true)
include hregs hmbx hmon hhws hfresh

@[simp] theorem State.postCpl_rest (w0 m st orig result final) :
    (State.postCpl s w0 m st orig result final).rest P = s.rest P := by
  simp [State.postCpl, hregs, hmbx, hmon, hhws, hfresh]

@[simp] theorem State.finishAs_rest (c st orig result) : (State.finishAs s c st orig result).rest P = s.rest P := by
  simp [State.finishAs, hregs, hmbx, hmon, hhws, hfresh]

@[simp] theorem State.finish_rest (c st result) : (State.finish s c st result).rest P = s.rest P := by
  simp [State.finish, hregs, hmbx, hmon, hhws, hfresh]

@[simp] theorem State.finishWhere_rest (p st result) : (State.finishWhere s p st result).rest P = s.rest P := by
  simp [State.finishWhere, hregs, hmbx, hmon, hhws, hfresh]

@[simp] theorem capStop_rest (n state st) : (capStop n state st s).rest P = s.rest P := by
  simp [capStop, hregs, hmbx, hmon, hhws, hfresh]

@[simp] theorem forward_rest (c t op) : (forward c t op s).rest P = s.rest P := by
  simp [forward, hregs, hmbx, hmon, hhws, hfresh]

@[simp] theorem forwardFails_rest (i tag) : (forwardFails i tag s).rest P = s.rest P := by
  unfold forwardFails
  dsimp only
  (repeat' split) <;> simp [hregs, hmbx, hmon, hhws, hfresh]

@[simp] theorem droppedIn_rest (src dst type tag) : (droppedIn src dst type tag s).rest P = s.rest P := by
  simp [droppedIn, hregs, hmbx, hmon, hhws, hfresh]

end

/-! ## Commands -/

/-- What this meaning answers differs from s in these parts alone. -/
def Within (P : Parts) (s : State) (o : Host.Outcome State Fault Refusal) : Prop :=
  ∀ t, o = .next t → t.rest P = s.rest P

@[simp] theorem within_next {t : State} : Within P s (.next t) ↔ t.rest P = s.rest P :=
  ⟨fun h => h t rfl, fun h _ e => Host.Outcome.next.inj e ▸ h⟩

@[simp] theorem within_ite {c : Prop} [Decidable c] {a b : Host.Outcome State Fault Refusal} :
    Within P s (if c then a else b) ↔ if c then Within P s a else Within P s b := by
  split <;> rfl

/-! ### Commands of a mailbox with their own effect f -/

section
variable (hregs : P.regs = true) (hmbx : P.mbx = true) (hmon : P.mon = true) (hhws : P.hws = true)
  (hfresh : P.fresh = true)
include hregs hmbx hmon hhws hfresh

@[simp] theorem setPolicy_rest {f : Cmd → State → State} (hf : ∀ c s, (f c s).rest P = s.rest P) (t m) :
    (setPolicy t m f s).rest P = s.rest P := by
  simp [setPolicy, hf, hregs, hmbx, hmon, hhws, hfresh]

@[simp] theorem gangConfig_rest {f : Cmd → State → State} (hf : ∀ c s, (f c s).rest P = s.rest P) (a m) :
    (gangConfig a m f s).rest P = s.rest P := by
  simp [gangConfig, hf, hregs, hmbx, hmon, hhws, hfresh]

@[simp] theorem perfConfig_within {f : Cmd → State → State} (hf : ∀ c s, (f c s).rest P = s.rest P) (a m) :
    Within P s (perfConfig a f m s) := by
  simp [perfConfig, hf, hregs, hmbx, hmon, hhws, hfresh]

@[simp] theorem lanyardPartner_within {f : Nat → State → State} (hf : ∀ n s, (f n s).rest P = s.rest P) (a m) :
    Within P s (lanyardPartner a f m s) := by
  simp [lanyardPartner, hf, hregs, hmbx, hmon, hhws, hfresh]

@[simp] theorem execPerfConfigChain_within (m) : Within P s (execPerfConfigChain m s) :=
  perfConfig_within hregs hmbx hmon hhws hfresh (fun _ _ => by simp [hregs]) _ m

@[simp] theorem execPerfConfigClearOvf_within (m) : Within P s (execPerfConfigClearOvf m s) :=
  perfConfig_within hregs hmbx hmon hhws hfresh (fun _ _ => by simp [hregs]) _ m

@[simp] theorem execGangConfigPush_within (m) : Within P s (execGangConfigPush m s) :=
  within_next.mpr (gangConfig_rest hregs hmbx hmon hhws hfresh
    (fun _ _ => by simp [hregs, hmbx, hmon, hhws, hfresh]) ..)

@[simp] theorem execCancel_within (m) : Within P s (execCancel m s) := by
  unfold execCancel
  refine within_next.mpr (runCmd_rest (fun c s => ?_) ..)
  (repeat' split) <;> simp [hregs, hmbx, hmon, hhws, hfresh]

@[simp] theorem execMonSnapshot_within (m) : Within P s (execMonSnapshot m s) := by
  unfold execMonSnapshot
  refine within_next.mpr (runCmd_rest (fun c s => ?_) ..)
  dsimp only
  (repeat' split) <;> simp [hregs, hmbx, hmon, hhws, hfresh]

@[simp] theorem execGangForward_within (m) : Within P s (execGangForward m s) := by
  unfold execGangForward
  refine within_next.mpr (runCmd_rest (fun c s => ?_) ..)
  dsimp only
  (repeat' split) <;> simp [hregs, hmbx, hmon, hhws, hfresh]

end

@[simp] theorem execCdbCommitImage_within (hcmis : P.cmis = true) (hfw : P.fw = true) :
    Within P s (execCdbCommitImage s) := by
  unfold execCdbCommitImage
  split
  · exact within_next.mpr rfl
  · split
    · simp [hcmis]
    next t h => simp [hcmis, commitImage_rest hfw h]

/-- The parts that the commands of Instr.onLanes may change. -/
def laneParts : Parts := { regs := true, mon := true, lanes := true, optics := true }

theorem exec_within_laneParts (c : Instr) (s : State) (hc : c.onLanes = true) :
    Within laneParts s (exec c s) := by
  cases c
  all_goals try cases hc
  all_goals
    simp only [exec,
      execAmGroupArrival, execSlotLockWindowEnd, execErrorInjection, execDriverSwingResume,
      execTxPllBandCalComplete, execTxPllReferenceSwitch, execTxPllHoldoverExpiry, execTxCalResult,
      execLosDeassert, execLolAssert, execTimingRecoveryLock, execTiaGainAcquired, execTiaAcqTimeout,
      execRetrimMeasureDone, execWinchSlot, execRxCalResult, execHostLosDeassert, execHostLolDeassert,
      execCtleSearchStep, execHostEqTimeout, execHeaterPwmPeriod, execTokenAcquired, execTokenSegmentEnd,
      execProtectConfirmRx, execSequencerRound, execReferenceReady, execFathomSnapshotSwap, execSamplerCrossing,
      execCoreIdleGate, execPowerAccountingUpdate, execPgtkiRise, execPgtkiFall, execPowerGrantRoundEnd,
      execPowerGrantStepEnd, execHostCdrLock, execRxPllLock, execHostPllLock, execTriggeredConversionDue,
      execHawserLosDeassert]
    repeat' split
    all_goals simp [laneParts]

/-- The parts that the commands of Instr.onLines may change. -/
def lineParts : Parts := { regs := true, mon := true, lanes := true, optics := true, lyd := true, fresh := true }

theorem exec_within_lineParts (c : Instr) (s : State) (hc : c.onLines = true) :
    Within lineParts s (exec c s) := by
  cases c
  all_goals try cases hc
  all_goals
    simp only [exec,
      execAmGroupArrival, execAmPositionMissed, execSlotLockWindowEnd, execProposeRepeat, execElasticBufferSlip,
      execErrorInjection, execMaskEstimateEnd, execDriverSwingResume, execTxPllBandCalComplete,
      execTxPllLockLoss, execTxPllReferenceSwitch, execTxPllHoldoverExpiry, execTxPllStop, execTxCalResult,
      execLosDeassert, execLolAssert, execTimingRecoveryLock, execTiaGainAcquired, execTiaAcqTimeout,
      execRetrimMeasureDone, execWinchSlot, execRxCalResult, execHostLosAssert, execHostLosDeassert,
      execHostLolAssert, execHostLolDeassert, execCtleSearchStep, execHostEqTimeout, execHeaterPwmPeriod,
      execTokenAcquired, execTokenSegmentEnd, execLockinPeriodEnd, execHelloPeriod, execTelemetryPeriod,
      execTimePeriod, execTelemetryRx, execTxadjRequestRx, execTxadjResultRx, execProtectConfirmRx,
      execUserReassemblyTimeout, execSequencerRound, execReferenceReady, execFathomSnapshotSwap,
      execSamplerCrossing, execCoreIdleGate, execPowerAccountingUpdate, execPgtkiRise, execPgtkiFall,
      execPowerGrantRoundEnd, execPowerGrantStepEnd, execHostCdrLock, execRxPllLock, execHostPllLock,
      execLanyardSymbolBoundary, execTriggeredConversionDue, execHawserLosDeassert]
    repeat' split
    all_goals simp [lineParts]

/-- The parts that the commands of Instr.onMailboxes may change. -/
def mailboxParts : Parts := { regs := true, mbx := true, mon := true, hws := true, fresh := true }

theorem exec_within_mailboxParts (c : Instr) (s : State) (hc : c.onMailboxes = true) :
    Within mailboxParts s (exec c s) := by
  cases c
  all_goals try cases hc
  all_goals
    simp only [exec,
      execTiaGainAcquired, execTiaAcqTimeout, execCaptureAdcTimeout, execHostEqTimeout, execProtectConfirmRx,
      execProtectNotifyRx, execLanyardPartnerRead, execCompletionRingPop, execEventQueuePop, execPing,
      execFlushCompletions, execSetPolicySender, execSetPolicyBit, execSetPolicyQuota, execKnotStatus,
      execGangCommitRx, execTriggeredConversionRequest, execSequencerRound, execAdcConversionEnd,
      execReferenceReady, execAnchorMonitorRound, execFathomSample, execFathomCaptureEnd,
      execFathomSnapshotSwap, execMonConfig, execMonSetWindow, execPerfConfigSampler,
      execSamplerCrossing, execPowerAccountingUpdate, execTrainingSetRx,
      execHawserSymbolLock, execCapsRx, execSyncPeriod, execSyncReqRx, execEpochRx, execEpochLagTimeout,
      execDroppedRx, execTakenRx, execGangConfigParameters, execGangConfigList,
      execGangConfigReload, execRxPllLock, execHostPllLock, execTriggeredConversionDue, execHawserLosDeassert,
      execGangPushTimeout]
    repeat' split
    all_goals simp [mailboxParts]

/-- The parts that the commands of Instr.onManagement may change. -/
def managementParts : Parts := { regs := true, cmis := true, fw := true, lanes := true, fresh := true }

theorem exec_within_managementParts (c : Instr) (s : State) (hc : c.onManagement = true) :
    Within managementParts s (exec c s) := by
  cases c
  all_goals try cases hc
  all_goals
    simp only [exec,
      execAmGroupArrival, execSlotLockWindowEnd, execDriverSwingResume, execTxPllBandCalComplete,
      execTxPllReferenceSwitch, execTxPllHoldoverExpiry, execTxCalResult, execLosDeassert, execLolAssert,
      execTimingRecoveryLock, execTiaGainAcquired, execTiaAcqTimeout, execRetrimMeasureDone, execRxCalResult,
      execHostLosDeassert, execHostLolDeassert, execCtleSearchStep, execHostEqTimeout, execModselChange,
      execCmisApplyImmediate, execCmisFlagEvaluation, execCmisMonitorRefresh, execHostPasswordEntry,
      execHostPasswordChange, execWindowAccessComplete, execFathomReadoutCopy, execPerfWindowCopy,
      execVdmUnfreeze, execCdbQueryStatus, execCdbModuleFeatures, execCdbFwMgmtFeatures, execCdbGetFwInfo,
      execCdbAbortDownload, execCdbCompleteDownload, execCdbUnknownCommand, execDebugUnlockResponse,
      execPowerAccountingUpdate, execHostCdrLock, execRxPllLock, execHostPllLock, execHawserLosDeassert]
    repeat' split
    all_goals simp [managementParts]

/-! ## The frames -/

/-- Settles O58: what the commands leave of the state is all of it but their parts. -/
theorem laneCommandsFrame : Obligations.LaneCommandsFrame := by
  constructor
  · intro c s t hc h
    have hrest := exec_within_laneParts c s hc t h
    cases s
    simpa [State.rest, laneParts] using hrest
  · intro c s t hc h
    have hrest := exec_within_lineParts c s hc t h
    cases s
    simpa [State.rest, lineParts] using hrest

/-- Settles O59. -/
theorem mailboxCommandsFrame : Obligations.MailboxCommandsFrame := by
  intro c s t hc h
  have hrest := exec_within_mailboxParts c s hc t h
  cases s
  simpa [State.rest, mailboxParts] using hrest

/-- Settles O60. -/
theorem managementCommandsFrame : Obligations.ManagementCommandsFrame := by
  intro c s t hc h
  have hrest := exec_within_managementParts c s hc t h
  cases s
  simpa [State.rest, managementParts] using hrest

end Sys2Proof.Machine
end

section
/-! Accesses that are refused, and accesses that do no more than store and show fields: the obligations on refused
writes, on the frame of a register write, and on the field types. -/

namespace Sys2Proof.Machine

/-! ## Addresses of registers -/

/-- Every register lies below SRAM, so its address is a word (R25). -/
theorem RegD.addr_lt {r : RegD} {n m : Nat} (hr : r ∈ regMap) (hn : n < r.n1) (hm : m < r.n2) :
    r.addr n m < 0x80000000 := by
  have hall : regMap.all (fun r => decide (r.top ≤ 0x80000000)) = true := by decide +kernel
  have htop : r.top ≤ 0x80000000 := of_decide_eq_true (List.all_eq_true.1 hall r hr)
  have hlow := (RegD.addr_low hn hm).2
  omega

theorem RegD.addr_toNat {r : RegD} {n m : Nat} (hr : r ∈ regMap) (hn : n < r.n1) (hm : m < r.n2) :
    (BitVec.ofNat 32 (r.addr n m)).toNat = r.addr n m := by
  have := RegD.addr_lt hr hn hm
  rw [BitVec.toNat_ofNat]
  omega

/-! ## What a refusal leaves -/

/-- Counting from a counter of the last word on sets no overflow flag but that word's (R369). -/
theorem State.perfAdd_word_last {x : RegD} {i l : Nat} (hx : x.addr i l ≠ R.PMU_OVF.addr 7 0) (fuel : Nat) :
    ∀ {s : State} (j k : Nat), Registers.wf s = true → j / 32 = 7 → (s.perfAdd fuel j k).word x i l = s.word x i l := by
  induction fuel with
  | zero =>
    intro s j k h hj
    unfold State.perfAdd
    extract_lets sum mon counted wrapped
    have hwrap : wrapped.word x i l = s.word x i l :=
      State.word_setWord_other (s := counted) h _ x _ _ 0 i l (by rwa [hj])
    split
    · rfl
    · exact hwrap
  | succ fuel ih =>
    intro s j k h hj
    unfold State.perfAdd
    extract_lets sum mon counted wrapped
    have hwrap : wrapped.word x i l = s.word x i l :=
      State.word_setWord_other (s := counted) h _ x _ _ 0 i l (by rwa [hj])
    split
    · rfl
    · dsimp only
      split
      · rename_i hchain
        have hj1 : j < 255 := by simpa using (Bool.and_eq_true_iff.mp hchain).2
        exact (ih _ _ (Registers.setWord_wf (s := counted) h ..) (by omega)).trans hwrap
      · exact hwrap

section
variable {s : State} (h : Registers.wf s = true) (q : Req) (a cause : Nat) (write : Bool)

/-- What leaves the rest beside the registers and the monitors alone changes nothing else. -/
theorem State.frame_of_rest {s t : State}
    (h : t.rest { regs := true, mon := true } = s.rest { regs := true, mon := true })
    (x : Resp) : { t.answer x with regs := s.regs, mon := s.mon, resp := s.resp } = s :=
  congrArg (fun u : State => { u with regs := s.regs, mon := s.mon, resp := s.resp }) h

/-- A refusal touches the registers and the monitors' counters alone (R26). -/
theorem State.capture_frame :
    (s.capture q a cause write).rest { regs := true, mon := true } = s.rest { regs := true, mon := true } := by
  simp [State.capture]

include h

/-- Of the registers it changes the two that capture it and an overflow flag of the performance counters. -/
theorem State.capture_word {x : RegD} {i j : Nat} (ha : x.addr i j ≠ 0x10000020) (hs : x.addr i j ≠ 0x10000024)
    (ho : ∀ k : Fin 8, x.addr i j ≠ R.PMU_OVF.addr k 0) : (s.capture q a cause write).word x i j = s.word x i j := by
  rw [State.capture_eq]
  have hlatch : (s.latchAccess R.TOP_DECERR_ADDR R.TOP_DECERR_STAT 23 22 a cause write q).word x i j = s.word x i j :=
    State.latchAccess_word h ha hs
  rw [← hlatch]
  unfold State.perf
  split
  · rfl
  · exact State.perfAdd_word_last (ho 7) 255 _ _ (Registers.latchAccess_wf h) (by decide)

end

/-! ## Refused writes -/

/-- The checks refuse a write by one of the causes that TOP captures, or as one to a block that is off (R27). -/
theorem refusedWrite_kind {q : Req} {k a : Nat} {s : State} {e : Acc} (hoff : e ≠ .off)
    (h : if isSram a then sramCheck q k a true s = e ∧ e ≠ .ok else regCheck q k a true s = .error e) :
    e = .narrow ∨ e = .unmapped ∨ e = .denied := by
  split at h
  · obtain ⟨hcheck, hok⟩ := h
    unfold sramCheck at hcheck
    dsimp only at hcheck
    repeat' split at hcheck
    all_goals (subst hcheck; simp at hoff hok ⊢)
  · have := regCheck_error h
    tauto

/-- A refused write of any width, in SRAM or elsewhere, answers so and leaves the refusal's capture. -/
theorem exec_registerWrite_judged {q : Req} {k : Nat} {a v : Word} {s : State} {e : Acc} (hu : s.busUp = true)
    (h : if isSram a.toNat then sramCheck q k a.toNat true s = e ∧ e ≠ .ok
      else regCheck q k a.toNat true s = .error e) :
    exec (.registerWrite q k a v) s = .next ((s.refusal q a.toNat true e).answer (.access e 0)) := by
  split at h
  · obtain ⟨hcheck, hok⟩ := h
    have hany : anyWrite q a.toNat (leBytes k v.toNat) .none s = (e, s.refusal q a.toNat true e) := by
      rw [anyWrite, if_pos ‹_›, sramWrite_refused .none hu (by rwa [leBytes_length]) hok]
    rw [exec_registerWrite, hany]
  · rename_i hs
    exact exec_registerWrite_refused v hu (Bool.eq_false_of_not_eq_true hs) h

/-- The capture is all that a write refused with cause c leaves. -/
theorem refusedWrite_leaves {q : Req} {a : Word} {s : State} {e : Acc} {c : Nat} {o : Host.Outcome State Fault Refusal}
    (h : Registers.wf s = true) (hc : e.cause = some c)
    (ho : o = .next ((s.refusal q a.toNat true e).answer (.access e 0))) :
    ∃ t, o = .next t ∧ t.resp = .access e 0 ∧ { t with regs := s.regs, mon := s.mon, resp := s.resp } = s
      ∧ t.word R.TOP_DECERR_ADDR = a ∧ t.get F.TOP_DECERR_STAT_CAUSE = c ∧ t.get F.TOP_DECERR_STAT_WRITE = 1
      ∧ t.get F.TOP_DECERR_STAT_REQ = reqNum q
      ∧ (∀ (r : RegD) (n m : Nat), r.addr n m ≠ 0x10000020 → r.addr n m ≠ 0x10000024 →
          (∀ k : Fin 8, r.addr n m ≠ R.PMU_OVF.addr k 0) → t.word r n m = s.word r n m) := by
  obtain ⟨⟨haddr, hstat, hwrite, hreq⟩, -⟩ := State.refusal_captured h q a true hc
  have hcapture : s.refusal q a.toNat true e = s.capture q a.toNat c true := by cases e <;> cases hc <;> rfl
  have hframe := State.capture_frame (s := s) q a.toNat c true
  have hword := fun {x : RegD} {i j : Nat} => State.capture_word h q a.toNat c true (x := x) (i := i) (j := j)
  rw [← hcapture] at hframe hword
  generalize s.refusal q a.toNat true e = u at *
  exact ⟨_, ho, State.answer_resp .., State.frame_of_rest hframe _, haddr, hstat, of_decide_eq_true hwrite, hreq,
    fun r n m h20 h24 hovf => hword h20 h24 hovf⟩

/-- Settles O45: the three kinds of refusal leave their capture, each with its cause. -/
theorem refusedWriteChangesNothing : Obligations.RefusedWriteChangesNothing := by
  intro q k a v s e h hu hoff hcheck
  have hexec := exec_registerWrite_judged (v := v) hu hcheck
  rcases refusedWrite_kind hoff hcheck with rfl | rfl | rfl <;> exact refusedWrite_leaves h rfl hexec

end Sys2Proof.Machine
end

section
/-! Registers without a rule of their own: what a write stores in their fields and what a read shows and clears, and
the obligations on the frame of a register write and on the field types. -/

namespace Sys2Proof.Machine

/-! ## Fields of a word -/

/-- Field f set to its value x, where p names it. -/
def putField (p : FieldD → Bool) (x : FieldD → Nat) (w : Word) (f : FieldD) : Word :=
  if p f then withBits w f.hi f.lo (x f) else w

/-- Fields that lie in a word, none over another. -/
def fieldsApart : List FieldD → Bool
  | [] => true
  | f :: fs => decide (f.lo ≤ f.hi) && decide (f.hi < 32)
      && fs.all (fun g => decide (g.hi < f.lo) || decide (f.hi < g.lo)) && fieldsApart fs

/-- The fields of every register do (R8). -/
theorem regMap_fieldsApart {r : RegD} (hr : r ∈ regMap) : fieldsApart r.fields = true := by
  have hall : regMap.all (fun r => fieldsApart r.fields) = true := by decide +kernel
  exact List.all_eq_true.mp hall r hr

theorem fieldsApart_cons {f : FieldD} {fs : List FieldD} (h : fieldsApart (f :: fs) = true) :
    f.lo ≤ f.hi ∧ f.hi < 32 ∧ (∀ g ∈ fs, g.hi < f.lo ∨ f.hi < g.lo) ∧ fieldsApart fs = true := by
  simp only [fieldsApart, Bool.and_eq_true, decide_eq_true_eq, List.all_eq_true, Bool.or_eq_true] at h
  obtain ⟨⟨⟨hl, hh⟩, hg⟩, hfs⟩ := h
  exact ⟨hl, hh, hg, hfs⟩

theorem fieldsApart_mem {f : FieldD} {fs : List FieldD} (h : fieldsApart fs = true) (hf : f ∈ fs) :
    f.lo ≤ f.hi ∧ f.hi < 32 := by
  induction fs with
  | nil => cases hf
  | cons g fs ih =>
    obtain ⟨hlo, hhi, -, htail⟩ := fieldsApart_cons h
    rcases List.mem_cons.mp hf with rfl | hmem
    · exact ⟨hlo, hhi⟩
    · exact ih htail hmem

section
variable {p : FieldD → Bool} {x : FieldD → Nat}

theorem bitsOf_putField_same {f : FieldD} (hlo : f.lo ≤ f.hi) (hhi : f.hi < 32) (w : Word) :
    bitsOf (putField p x w f) f.hi f.lo = if p f then x f % 2 ^ (f.hi + 1 - f.lo) else bitsOf w f.hi f.lo := by
  unfold putField
  split
  · exact bitsOf_withBits_same w f.hi f.lo _ hlo hhi
  · rfl

theorem bitsOf_putField_other {f : FieldD} (hlo : f.lo ≤ f.hi) (hhi : f.hi < 32) {h l : Nat} (hl : l ≤ h)
    (hd : h < f.lo ∨ f.hi < l) (w : Word) : bitsOf (putField p x w f) h l = bitsOf w h l := by
  unfold putField
  split
  · exact bitsOf_withBits_other w f.hi f.lo _ h l hlo hhi hl hd
  · rfl

/-- Bits that no field of the list covers are left alone. -/
theorem bitsOf_foldl_putField_other {h l : Nat} (hl : l ≤ h) (fs : List FieldD) (w : Word)
    (hfs : fieldsApart fs = true) (hd : ∀ f ∈ fs, h < f.lo ∨ f.hi < l) :
    bitsOf (fs.foldl (putField p x) w) h l = bitsOf w h l := by
  induction fs generalizing w with
  | nil => rfl
  | cons f fs ih =>
    obtain ⟨hlo, hhi, -, htail⟩ := fieldsApart_cons hfs
    rw [List.foldl_cons, ih _ htail fun g hg => hd g (List.mem_cons_of_mem f hg),
      bitsOf_putField_other hlo hhi hl (hd f List.mem_cons_self)]

/-- A field of the list takes its value where p names it, and keeps its bits elsewhere. -/
theorem bitsOf_foldl_putField (fs : List FieldD) (w : Word) (hfs : fieldsApart fs = true) {f : FieldD} (hf : f ∈ fs) :
    bitsOf (fs.foldl (putField p x) w) f.hi f.lo
      = if p f then x f % 2 ^ (f.hi + 1 - f.lo) else bitsOf w f.hi f.lo := by
  induction fs generalizing w with
  | nil => cases hf
  | cons g fs ih =>
    obtain ⟨hlo, hhi, happart, htail⟩ := fieldsApart_cons hfs
    rw [List.foldl_cons]
    rcases List.mem_cons.mp hf with rfl | hmem
    · rw [bitsOf_foldl_putField_other hlo fs _ htail fun g hg => (happart g hg).symm, bitsOf_putField_same hlo hhi]
    · rw [ih _ htail hmem, bitsOf_putField_other hlo hhi (fieldsApart_mem htail hmem).1 (happart f hmem)]

/-- A bit outside every field of the list is left alone. -/
theorem getLsbD_foldl_putField {i : Nat} (fs : List FieldD) (w : Word) (hfs : fieldsApart fs = true)
    (hd : ∀ f ∈ fs, i < f.lo ∨ f.hi < i) : (fs.foldl (putField p x) w).getLsbD i = w.getLsbD i := by
  have hbit (w : Word) : w.getLsbD i = decide (bitsOf w i i = 1) := by
    simp [bitsOf, BitVec.getLsbD, Nat.testBit_eq_decide_div_mod_eq]
  rw [hbit, hbit, bitsOf_foldl_putField_other (Nat.le_refl i) fs w hfs hd]

end

theorem bitsOf_lt (w : Word) (hi lo : Nat) : bitsOf w hi lo < 2 ^ (hi + 1 - lo) := Nat.mod_lt _ (Nat.two_pow_pos _)

/-! ## Writes of a plain register -/

/-- What a write of v makes of a field that holds a part of old. -/
def FieldD.written (old v : Word) (f : FieldD) : Nat :=
  if f.kind = .rw1c then bitsOf (old &&& ~~~v) f.hi f.lo else bitsOf v f.hi f.lo

theorem writeField_eq (old v : Word) :
    writeField old v = putField (fun f => f.kind = .rw || f.kind = .rwl || f.kind = .rw1c) (FieldD.written old v) := by
  funext w f
  unfold writeField putField FieldD.written
  cases hk : f.kind <;> simp [hk]

/-- A field after a write, by its type (R8). -/
theorem bitsOf_writeField (old v : Word) {fs : List FieldD} (hfs : fieldsApart fs = true) {f : FieldD} (hf : f ∈ fs) :
    bitsOf (fs.foldl (writeField old v) old) f.hi f.lo = match f.kind with
      | .rw | .rwl => bitsOf v f.hi f.lo
      | .rw1c => bitsOf (old &&& ~~~v) f.hi f.lo
      | .ro | .rc | .wo => bitsOf old f.hi f.lo := by
  rw [writeField_eq, bitsOf_foldl_putField fs old hfs hf]
  unfold FieldD.written
  cases f.kind <;> simp [Nat.mod_eq_of_lt (bitsOf_lt ..)]

/-! ## The DIRTY marks of the knots -/

/-- The register of a mark is KNT_SLOT_STAT of its slot. -/
theorem State.put_dirty_word {s : State} (h : Registers.wf s = true) {k : Nat} {x : RegD} {i j : Nat}
    (hx : x.addr i j ≠ R.KNT_SLOT_STAT.addr k 0) : (s.put F.KNT_SLOT_STAT_DIRTY 1 k).word x i j = s.word x i j :=
  State.word_put_other h _ x _ k 0 i j hx

theorem Registers.knotDirty_wf {s : State} (h : Registers.wf s = true) (a : Nat) :
    Registers.wf (knotDirty a s) = true := (knotDirty_keeps (ms := false) a (Keeps.refl s)).regs h

@[simp] theorem knotDirty_rest {P : Parts} (hregs : P.regs = true) (a : Nat) (s : State) :
    (knotDirty a s).rest P = s.rest P := by
  simp [knotDirty, hregs]

/-- Marking the knots that stage an address leaves every other register alone (R315). -/
theorem knotDirty_word {s : State} (h : Registers.wf s = true) (a : Nat) {x : RegD} {i j : Nat}
    (hx : ∀ k : Fin 8, x.addr i j ≠ R.KNT_SLOT_STAT.addr k 0) : (knotDirty a s).word x i j = s.word x i j := by
  suffices hkeep : Registers.wf (knotDirty a s) = true ∧ (knotDirty a s).word x i j = s.word x i j from hkeep.2
  refine List.foldlRecOn (motive := fun t : State => Registers.wf t = true ∧ t.word x i j = s.word x i j) _ _
    ⟨h, rfl⟩ ?_
  rintro t ⟨hwf, hword⟩ k hk
  dsimp only
  split
  · exact ⟨Registers.put_wf hwf .., (State.put_dirty_word hwf (hx ⟨k, List.mem_range.mp hk⟩)).trans hword⟩
  · exact ⟨hwf, hword⟩

/-! ## The write -/

/-- What leaves the rest beside the registers alone changes nothing else. -/
theorem State.frame_of_regs {s t : State} (h : t.rest { regs := true } = s.rest { regs := true }) (x : Resp) :
    { t.answer x with regs := s.regs, resp := s.resp } = s :=
  congrArg (fun u : State => { u with regs := s.regs, resp := s.resp }) h

section
variable {q : Req} {r : RegD} {n m : Nat} {v : Word} {s : State} (hr : r ∈ regMap) (hn : n < r.n1) (hm : m < r.n2)
  (hb : mbxTarget r = false)
include hr hn hm hb

/-- A granted write to a register with no rule stores its fields after the knots' marks. -/
theorem exec_registerWrite_plain (hp : (writeHooks.all fun h => h.1.base != r.base) = true)
    (hw : s.mayWrite q r n m v) : exec (.registerWrite q 4 (BitVec.ofNat 32 (r.addr n m)) v) s
      = .next (((knotDirty (r.addr n m) s).writePlain r v n m).answer (.access .ok 0)) := by
  have hs : isSram (r.addr n m) = false := findReg_low (findReg_addr hr hn hm)
  obtain ⟨⟨hu, hg, ho⟩, hl⟩ := hw
  have hcheck := regCheck_ok (addr_mod_four hr hn hm) (findReg_addr hr hn hm) hg ho
  have hpolicy : (rwlChanges s r n m v && !rwlAllows s q r n) = false := by
    simpa using hl
  rw [exec_registerWrite_word v (by rwa [RegD.addr_toNat hr hn hm]), RegD.addr_toNat hr hn hm,
    busWrite_checked hu hcheck hb, hpolicy, regWrite_plain hp]
  rfl

/-- What it leaves. -/
theorem exec_registerWrite_stores (h : Registers.wf s = true) (hp : (writeHooks.all fun h => h.1.base != r.base) = true)
    (hw : s.mayWrite q r n m v) (hk : ∀ k : Fin 8, r.addr n m ≠ R.KNT_SLOT_STAT.addr k 0) :
    ∃ t, exec (.registerWrite q 4 (BitVec.ofNat 32 (r.addr n m)) v) s = .next t ∧ t.resp = .access .ok 0
      ∧ t.word r n m = r.fields.foldl (writeField (s.word r n m) v) (s.word r n m)
      ∧ { t with regs := s.regs, resp := s.resp } = s
      ∧ (∀ (x : RegD) (i j : Nat), x.addr i j ≠ r.addr n m → (∀ k : Fin 8, x.addr i j ≠ R.KNT_SLOT_STAT.addr k 0) →
          t.word x i j = s.word x i j) := by
  have hwf := Registers.knotDirty_wf h (r.addr n m)
  refine ⟨_, exec_registerWrite_plain hr hn hm hb hp hw, State.answer_resp .., ?stored, ?frame,
    fun x i j hx hknot => ?other⟩
  case stored =>
    have hold := knotDirty_word h (r.addr n m) hk
    rw [State.answer_word, State.writePlain, State.word_setWord_same hwf, hold]
  case frame =>
    exact State.frame_of_regs (by simp) _
  case other =>
    rw [State.answer_word, State.writePlain, State.word_setWord_other hwf _ _ _ _ _ _ _ hx, knotDirty_word h _ hknot]

end

/-- Settles O46: a plain write stores its fields and marks knots, and nothing else. -/
theorem registerWriteFrame : Obligations.RegisterWriteFrame :=
  fun _ _ _ _ _ _ h hr hn hm hb hp hw hk => exec_registerWrite_stores hr hn hm hb h hp hw hk

/-! ## Reads of a plain register -/

/-- The fields of one kind shown or left as zero. -/
theorem bitsOf_zeroKind (kind : Kind) (w : Word) {fs : List FieldD} (hfs : fieldsApart fs = true) {f : FieldD}
    (hf : f ∈ fs) :
    bitsOf (fs.foldl (fun w f => if f.kind = kind then withBits w f.hi f.lo 0 else w) w) f.hi f.lo
      = if f.kind = kind then 0 else bitsOf w f.hi f.lo := by
  have hput : (fun (w : Word) (f : FieldD) => if f.kind = kind then withBits w f.hi f.lo 0 else w)
      = putField (fun f => f.kind = kind) (fun _ => 0) := by
    funext w f
    simp [putField]
  rw [hput, bitsOf_foldl_putField fs w hfs hf]
  simp

/-- The state that a read leaves: the RC fields that it has shown are zero (R8). -/
def State.readClears (s : State) (r : RegD) (n m : Nat) : State :=
  if r.fields.any fun f => f.kind = .rc then
    s.setWord r (r.fields.foldl (fun w f => if f.kind = .rc then withBits w f.hi f.lo 0 else w) (s.word r n m)) n m
  else s

theorem regRead_plain {r : RegD} (hp : (readHooks.all fun h => h.1.base != r.base) = true) (q : Req) (n m : Nat)
    (s : State) : regRead q r n m s
      = (r.fields.foldl (fun w f => if f.kind = .wo then withBits w f.hi f.lo 0 else w) (regView s r n m),
          s.readClears r n m) := by
  have hf : readHooks.find? (fun h => h.1.base = r.base) = none := by
    rw [List.find?_eq_none]
    intro x hx
    have := List.all_eq_true.mp hp x hx
    simpa using this
  unfold State.readClears
  simp only [regRead, hf]
  split <;> rfl

theorem State.readClears_word {s : State} (h : Registers.wf s = true) {r : RegD} (hr : r ∈ regMap) (n m : Nat)
    {f : FieldD} (hf : f ∈ r.fields) : bitsOf ((s.readClears r n m).word r n m) f.hi f.lo
      = if f.kind = .rc then 0 else bitsOf (s.word r n m) f.hi f.lo := by
  unfold State.readClears
  split
  · rw [State.word_setWord_same h, bitsOf_zeroKind .rc _ (regMap_fieldsApart hr) hf]
  · rename_i hany
    have hkind : f.kind ≠ .rc := by
      intro hrc
      exact hany (List.any_eq_true.mpr ⟨f, hf, decide_eq_true hrc⟩)
    rw [if_neg hkind]

theorem State.readClears_other {s : State} (h : Registers.wf s = true) {r x : RegD} {n m i j : Nat}
    (hx : x.addr i j ≠ r.addr n m) : (s.readClears r n m).word x i j = s.word x i j := by
  unfold State.readClears
  split
  · exact State.word_setWord_other h _ _ _ _ _ _ _ hx
  · rfl

theorem State.readClears_frame (s : State) (r : RegD) (n m : Nat) : { s.readClears r n m with regs := s.regs } = s := by
  unfold State.readClears
  split <;> rfl

/-- Settles O50: a write and a read each act on the fields one after the other, and the fields lie apart; a write that
the policy refuses is a refused write. -/
theorem fieldTypes : Obligations.FieldTypes := by
  refine ⟨fun q r n m v s h hr hn hm hb hp hw hk => ?write, fun q r n m s h hr hn hm hp hw => ?read,
    fun q r n m v s h hr hn hm hb hw hc hl => ?policy⟩
  case write =>
    obtain ⟨t, hexec, hresp, hword, -, -⟩ := exec_registerWrite_stores hr hn hm hb h hp hw hk
    refine ⟨t, hexec, hresp, fun f hf => ?_, fun i hi => ?_⟩
    · rw [hword]
      exact bitsOf_writeField _ v (regMap_fieldsApart hr) hf
    · rw [hword, writeField_eq]
      exact getLsbD_foldl_putField _ _ (regMap_fieldsApart hr) hi
  case read =>
    obtain ⟨hu, hg, ho⟩ := hw
    have hcheck := regCheck_ok (addr_mod_four hr hn hm) (findReg_addr hr hn hm) hg ho
    refine ⟨_, s.readClears r n m, ?_, fun f hf => bitsOf_zeroKind .wo _ (regMap_fieldsApart hr) hf,
      fun f hf => State.readClears_word h hr n m hf, State.readClears_frame s r n m,
      fun x i j hx => State.readClears_other h hx⟩
    simp only [busRead, hu, hcheck, regRead_plain hp, Bool.not_true, Bool.false_eq_true, if_false]
  case policy =>
    obtain ⟨hu, hg, ho⟩ := hw
    have ha := RegD.addr_toNat hr hn hm
    have hcheck := regCheck_ok (addr_mod_four hr hn hm) (findReg_addr hr hn hm) hg ho
    have hbus := busWrite_checked (v := v) hu hcheck hb
    rw [if_pos (by simp [hc, hl])] at hbus
    have hexec := exec_registerWrite_word (q := q) (a := BitVec.ofNat 32 (r.addr n m)) (s := s) v
      (by rw [ha]; exact findReg_low (findReg_addr hr hn hm))
    rw [ha, hbus, ← ha] at hexec
    obtain ⟨t, ht, hresp, hframe, -, -, -, -, hword⟩ := refusedWrite_leaves h rfl hexec
    rw [ha] at ht
    exact ⟨t, ht, hresp, hframe, hword⟩

end Sys2Proof.Machine
end

section
/-! The completion rings (R294 to R298): what a posted completion leaves of its ring and of the event queue, and the
obligation on full rings. -/

namespace Sys2Proof.Machine

/-! ## One completion into a ring -/

theorem Ring.push_room {r : Ring} {cap : Nat} (c : Cpl) (h : r.entries.length < cap) : r.push cap c
    = ({ entries := r.entries ++ [{ c with seq := r.gen }], gen := r.gen + 1, dropping := false }, false, false) :=
  if_pos h

theorem Ring.push_full {r : Ring} {cap : Nat} (c : Cpl) (h : cap ≤ r.entries.length) :
    r.push cap c = ({ r with gen := r.gen + 1, dropping := true }, true, !r.dropping) :=
  if_neg (Nat.not_lt.mpr h)

section
variable {s : State} {w0 : Word} (m : Nat) (st orig : Status) (v : Word) (fin : Bool)

/-- The completion that postCpl makes, as a ring with this SEQ number takes it. -/
def State.cpl (s : State) (w0 : Word) (m : Nat) (st orig : Status) (v : Word) (fin : Bool) (seq : BitVec 16) : Cpl :=
  { w0 := w0, status := st, orig := orig, epoch := s.fw.epoch, result := v, final := fin, m := m, seq := seq }

/-- With room in the host ring the completion stands at its end. -/
theorem State.postCpl_room (hi : bitsOf w0 31 24 ≤ 2) (hl : s.mbx.host.entries.length < 256) :
    (s.postCpl w0 m st orig v fin).mbx = { s.mbx with host :=
      { entries := s.mbx.host.entries ++ [s.cpl w0 m st orig v fin s.mbx.host.gen], gen := s.mbx.host.gen + 1,
        dropping := false } } := by
  have hsender : ¬bitsOf w0 31 24 ≥ 0x80 := by omega
  simp [State.postCpl, hi, hsender, Ring.push_room _ hl, State.cpl]

/-- A full host ring, of which this is not the first drop. -/
theorem State.postCpl_dropping (hi : bitsOf w0 31 24 ≤ 2) (hl : 256 ≤ s.mbx.host.entries.length)
    (hd : s.mbx.host.dropping = true) : (s.postCpl w0 m st orig v fin).mbx
      = { s.mbx with host := { s.mbx.host with gen := s.mbx.host.gen + 1, dropping := true } } := by
  have hsender : ¬bitsOf w0 31 24 ≥ 0x80 := by omega
  simp [State.postCpl, hi, hsender, Ring.push_full _ hl, hd]

/-- The first drop of a full host ring posts event 0x0A with the SEQ number used up. -/
theorem State.postCpl_firstDrop (hi : bitsOf w0 31 24 ≤ 2) (hl : 256 ≤ s.mbx.host.entries.length)
    (hd : s.mbx.host.dropping = false) : ∃ u : State,
      s.postCpl w0 m st orig v fin = u.post 0x0A 0xF s.mbx.host.gen.toNat
      ∧ u.mbx = { s.mbx with host := { s.mbx.host with gen := s.mbx.host.gen + 1, dropping := true } } := by
  have hsender : ¬bitsOf w0 31 24 ≥ 0x80 := by omega
  simp only [State.postCpl, hi, hsender, Ring.push_full _ hl, hd, if_true, if_false, Bool.not_false]
  exact ⟨_, rfl, by rw [State.perf_mbx, State.addSat_mbx]⟩

/-- A full internal ring keeps its entries. -/
theorem State.postCpl_internal (k : Fin 3) (hk : bitsOf w0 31 24 = 3 + k)
    (hl : 64 ≤ s.mbx.internal[k].entries.length) : (s.postCpl w0 m st orig v fin).mbx.internal
      = s.mbx.internal.set k { s.mbx.internal[k] with gen := s.mbx.internal[k].gen + 1, dropping := true } := by
  have hsender : ¬bitsOf w0 31 24 ≥ 0x80 := by omega
  have hhost : ¬bitsOf w0 31 24 ≤ 2 := by omega
  have hring : Fin.ofNat 3 (bitsOf w0 31 24 - 3) = k := by
    apply Fin.ext
    simp only [Fin.ofNat, hk]
    omega
  simp only [State.postCpl, hsender, hhost, if_false, hring, Ring.push_full _ hl, if_true]
  split
  · rw [State.post_internal, State.perf_mbx, State.addSat_mbx]
  · rw [State.perf_mbx, State.addSat_mbx]

end

/-- Settles O47: a ring takes a completion or drops it, and the first drop posts its event. -/
theorem fullRingDropsCompletion : Obligations.FullRingDropsCompletion := by
  refine ⟨fun s w0 m st orig v fin hi hl => ?full, fun s w0 m st orig v fin hi hl => ?room,
    fun s w0 m st orig v fin k hk hl => State.postCpl_internal m st orig v fin k hk hl⟩
  case room =>
    exact ⟨by rw [State.postCpl_room m st orig v fin hi hl]; rfl, by rw [State.postCpl_room m st orig v fin hi hl]⟩
  case full =>
    cases hd : s.mbx.host.dropping with
    | true =>
      have hmbx := State.postCpl_dropping m st orig v fin hi hl hd
      exact ⟨by rw [hmbx], fun _ => by rw [hmbx], nofun⟩
    | false =>
      obtain ⟨u, hpost, hmbx⟩ := State.postCpl_firstDrop m st orig v fin hi hl hd
      rw [hpost]
      refine ⟨by rw [State.post_host, hmbx], nofun, fun _ hroom => ?_⟩
      have hevents : u.mbx.events = s.mbx.events := by rw [hmbx]
      exact ⟨_, by rw [State.post_events u _ _ _ (by rwa [hevents]), hevents], rfl, BitVec.ofNat_toNat ..⟩

end Sys2Proof.Machine
end

section
/-! The refusals of a mailbox (R287): the causes in their order, what a refused write leaves, and the obligation on
refused mailbox writes. -/

namespace Sys2Proof.Machine

/-! ## What a refusal leaves -/

section
variable {s : State} (h : Registers.wf s = true) (m : MBox) {cause : Nat}
include h

/-- The fields of MBX_STAT below ERROR are left alone. -/
theorem State.mbxRefuse_below {b : Nat} (hb : b < 3 ∨ b = 4) :
    (s.mbxRefuse m cause).flag ⟨R.MBX_STAT, b, b⟩ m = s.flag ⟨R.MBX_STAT, b, b⟩ m := by
  have herror := Registers.put_wf h F.MBX_STAT_ERROR 1 m 0
  have hcause := State.get_put_near herror F.MBX_STAT_ERR_CAUSE ⟨R.MBX_STAT, b, b⟩ cause m 0 rfl (by decide) (by decide)
    (Nat.le_refl b) (.inl (show b < 8 by omega))
  have hfirst := State.get_put_near h F.MBX_STAT_ERROR ⟨R.MBX_STAT, b, b⟩ 1 m 0 rfl (by decide) (by decide)
    (Nat.le_refl b) (show b < 3 ∨ 3 < b by omega)
  exact congrArg (fun g => decide (g = 1)) (hcause.trans hfirst)

/-- A refusal sets ERROR and ERR_CAUSE of its mailbox and nothing else. -/
theorem State.mbxRefused_mbxRefuse (hc : cause < 4) :
    s.mbxRefused ((s.mbxRefuse m cause).answer (.access .mbx 0)) m cause := by
  have herror := Registers.put_wf h F.MBX_STAT_ERROR 1 m 0
  refine ⟨rfl, rfl, ?error, ?cause, State.mbxRefuse_below h m (.inl (by decide)),
    State.mbxRefuse_below h m (.inr rfl), fun r i j hx => ?word⟩
  case error =>
    have hnear := State.get_put_near herror F.MBX_STAT_ERR_CAUSE F.MBX_STAT_ERROR cause m 0 rfl (by decide) (by decide)
      (by decide) (by decide)
    exact decide_eq_true (hnear.trans (State.get_put_same h F.MBX_STAT_ERROR 1 m 0 (by decide) (by decide)))
  case cause =>
    have hsame := State.get_put_same herror F.MBX_STAT_ERR_CAUSE cause m 0 (by decide) (by decide)
    exact hsame.trans (Nat.mod_eq_of_lt (Nat.lt_trans hc (by decide)))
  case word =>
    exact (State.word_put_other herror F.MBX_STAT_ERR_CAUSE r cause m 0 i j hx).trans
      (State.word_put_other h F.MBX_STAT_ERROR r 1 m 0 i j hx)

end

/-! ## The cause of a refusal -/

section
variable {s : State} {m ident : Nat} {go : Bool}

theorem mbxCause_sender (ha : mbxAccepts m ident = false) : mbxCause s m ident go = 0x02 := by
  simp [mbxCause, ha]

theorem mbxCause_full (ha : mbxAccepts m ident = true) (hf : s.flag F.MBX_STAT_FULL m = true) :
    mbxCause s m ident go = 0x01 := by
  simp [mbxCause, ha, hf]

theorem mbxCause_busy (ha : mbxAccepts m ident = true) (hf : s.flag F.MBX_STAT_FULL m = false)
    (hb : s.flag F.MBX_STAT_STG_BUSY m = true) (hn : needsStaging (s.mbxMessage m) = true) :
    mbxCause s m ident true = 0x03 := by
  simp [mbxCause, ha, hf, hb, hn]

theorem mbxWordWrite_refused {w c : Nat} {v : Word} (hc : mbxCause s m ident false = c + 1) :
    mbxWordWrite m w ident v s = (.mbx, s.mbxRefuse m (c + 1)) := by
  simp [mbxWordWrite, hc]

theorem mbxGo_refused {c : Nat} (hc : mbxCause s m ident true = c + 1) :
    mbxGo m ident 1 s = (.mbx, s.mbxRefuse m (c + 1)) := by
  have hgo : decide (bitsOf 1 0 0 = 1) = true := by decide
  simp only [mbxGo, hgo, hc]

end

/-! ## The commands -/

section
variable {q : Req} {m : MBox} {s : State}

/-- Past the checks of R27 a write of a mailbox's word is one by the requester's identity. -/
theorem exec_mailboxWordWrite {w : Fin 16} (v : Word)
    (hr : s.reaches q (if w = 0 then R.MBX_W0 else R.MBX_W) m (w.val - 1) true) :
    exec (.mailboxWordWrite q m w v none) s = .next ((mbxWordWrite m w (s.identOf q) v s).2.answer
      (.access (mbxWordWrite m w (s.identOf q) v s).1 0)) := by
  have hexec : exec (.mailboxWordWrite q m w v none) s
    = if w = 0 then accWrite q R.MBX_W0 m 0 v s else accWrite q R.MBX_W m (w.val - 1) v s := rfl
  by_cases hw : w = 0
  · subst hw
    obtain ⟨hu, hg, ho⟩ := hr
    have hcheck := regCheck_ok (addr_mod_four R.MBX_W0_mem m.isLt Nat.one_pos)
      (findReg_addr R.MBX_W0_mem m.isLt Nat.one_pos) hg ho
    have hbus : busWrite q 4 (R.MBX_W0.addr m 0) v s = mbxWordWrite m 0 (s.identOf q) v s := by
      simp only [busWrite, hu, hcheck]
      rfl
    rw [hexec, if_pos rfl, accWrite, hbus]
    rfl
  · rw [if_neg hw] at hr
    obtain ⟨hu, hg, ho⟩ := hr
    have hword : w.val ≠ 0 := fun h0 => hw (Fin.ext h0)
    have hlt : w.val - 1 < R.MBX_W.n2 := by
      have : R.MBX_W.n2 = 15 := rfl
      omega
    have hcheck := regCheck_ok (addr_mod_four R.MBX_W_mem m.isLt hlt) (findReg_addr R.MBX_W_mem m.isLt hlt) hg ho
    have hbus : busWrite q 4 (R.MBX_W.addr m (w.val - 1)) v s = mbxWordWrite m (w.val - 1 + 1) (s.identOf q) v s := by
      simp only [busWrite, hu, hcheck]
      rfl
    rw [hexec, if_neg hw, accWrite, hbus, Nat.sub_add_cancel (Nat.pos_of_ne_zero hword)]

/-- A write of a staging buffer that its mailbox refuses for this cause (R289). -/
theorem exec_stagingWrite_refused {o : Fin 1024} (w : Fin 16) (v : Word) {c : Nat} (hu : s.busUp = true)
    (hs : sramCheck q 4 (stagingBase m + 4 * o) true s = .ok)
    (hc : (if q ≠ .cleat then stagingCause s m (s.identOf q)
      else if s.flag F.MBX_STAT_STG_BUSY m then 3 else 0) = c + 1) :
    exec (.mailboxWordWrite q m w v (some o)) s
      = .next ((s.mbxRefuse m (c + 1)).answer (.access .mbx 0)) := by
  have hlow : 0x81F60000 ≤ stagingBase m + 4 * o := by unfold stagingBase; omega
  have hhigh : stagingBase m + 4 * o < 0x81F6F000 := by unfold stagingBase; omega
  have hbox : (stagingBase m + 4 * o - 0x81F60000) / 0x1000 = m := by unfold stagingBase; omega
  have hwrite : sramWrite q (stagingBase m + 4 * o) (leBytes 4 v.toNat) .none s = (.mbx, s.mbxRefuse m (c + 1)) := by
    unfold sramWrite
    rw [if_neg (by simp [hu]), leBytes_length, hs]
    by_cases hq : q = .cleat
    · simp_all
    · simp_all
  have hexec : exec (.mailboxWordWrite q m w v (some o)) s
    = .next ((sramWrite q (stagingBase m + 4 * o) (leBytes 4 v.toNat) .none s).2.answer
        (.access (sramWrite q (stagingBase m + 4 * o) (leBytes 4 v.toNat) .none s).1 0)) := rfl
  rw [hexec, hwrite]

theorem stagingCause_sender (ha : mbxAccepts m (s.identOf q) = false) : stagingCause s m (s.identOf q) = 0x02 := by
  simp [stagingCause, ha]

theorem stagingCause_busy (ha : mbxAccepts m (s.identOf q) = true) (hb : s.flag F.MBX_STAT_STG_BUSY m = true) :
    stagingCause s m (s.identOf q) = 0x03 := by
  simp [stagingCause, ha, hb]

end

/-- Settles O52: each refusal has its cause, and leaves ERROR and that cause. -/
theorem mailboxRefusals : Obligations.MailboxRefusals := by
  refine ⟨fun q m w v s h hr ha => ?wordSender, fun q m w v s h hr ha hf => ?wordFull, fun q m s h hr ha => ?goSender,
    fun q m s h hr ha hf => ?goFull, fun q m s h hr ha hf hb hn => ?goBusy, fun q m o w v s h hu hs hq ha => ?stgSender,
    fun q m o w v s h hu hs ha hb => ?stgBusy⟩
  case wordSender =>
    refine ⟨_, exec_mailboxWordWrite v hr, ?_⟩
    rw [mbxWordWrite_refused (mbxCause_sender ha)]
    exact State.mbxRefused_mbxRefuse h m (by decide)
  case wordFull =>
    refine ⟨_, exec_mailboxWordWrite v hr, ?_⟩
    rw [mbxWordWrite_refused (mbxCause_full ha hf)]
    exact State.mbxRefused_mbxRefuse h m (by decide)
  case goSender =>
    refine ⟨_, exec_mailboxGo hr, ?_⟩
    rw [mbxGo_refused (mbxCause_sender ha)]
    exact State.mbxRefused_mbxRefuse h m (by decide)
  case goFull =>
    refine ⟨_, exec_mailboxGo hr, ?_⟩
    rw [mbxGo_refused (mbxCause_full ha hf)]
    exact State.mbxRefused_mbxRefuse h m (by decide)
  case goBusy =>
    refine ⟨_, exec_mailboxGo hr, ?_⟩
    rw [mbxGo_refused (mbxCause_busy ha hf hb hn)]
    exact State.mbxRefused_mbxRefuse h m (by decide)
  case stgSender =>
    have hcause := stagingCause_sender (q := q) (s := s) ha
    exact ⟨_, exec_stagingWrite_refused w v hu hs (by rw [if_pos hq, hcause]),
      State.mbxRefused_mbxRefuse h m (by decide)⟩
  case stgBusy =>
    have hcause : (if q ≠ .cleat then stagingCause s m (s.identOf q)
        else if s.flag F.MBX_STAT_STG_BUSY m then 3 else 0) = 3 := by
      rw [if_pos hb]
      split
      · exact stagingCause_busy (ha ‹_›) hb
      · rfl
    exact ⟨_, exec_stagingWrite_refused w v hu hs hcause, State.mbxRefused_mbxRefuse h m (by decide)⟩

end Sys2Proof.Machine
end

section
/-! Reads of SRAM by a requester (R393, R395, R397): what a read leaves of the word's check bits and of the error log,
and the obligation on SRAM reads. -/

namespace Sys2Proof.Machine

/-! ## The error log -/

/-- The log lists an error of memory mem at this address (R397). -/
def State.logs (s : State) (mem addr : Nat) : Prop := ∃ e ∈ s.ecc.log, e.mem = mem ∧ e.addr = BitVec.ofNat 32 addr

/-- An error is listed afterwards, at its old entry or a new one, unless the log was full. -/
theorem State.eccLog_logs (s : State) (mem addr : Nat) (unc : Bool) (bit req : Nat) :
    (s.eccLog mem addr unc bit req).2.logs mem addr ∨ 64 ≤ s.ecc.log.length := by
  unfold State.eccLog State.logs
  extract_lets a new t old
  split
  · rename_i i hi
    obtain ⟨hlt, hmatch, -⟩ := List.findIdx?_eq_some_iff_getElem.mp hi
    simp only [Bool.and_eq_true, decide_eq_true_eq] at hmatch
    obtain ⟨hmem, haddr⟩ := hmatch
    exact .inl ⟨_, List.mem_of_getElem (h := by simpa using hlt) (List.getElem_modify_eq ..), hmem, haddr⟩
  · split
    · exact .inl ⟨new, List.mem_append_right _ (List.mem_singleton_self new), rfl, rfl⟩
    · exact .inr (Nat.le_of_not_lt ‹_›)

theorem State.eccLog_flips (s : State) (mem addr : Nat) (unc : Bool) (bit req : Nat) :
    (s.eccLog mem addr unc bit req).2.ecc.flips = s.ecc.flips := by
  unfold State.eccLog
  extract_lets a new t old
  split
  · rfl
  · split
    · rfl
    · split <;> rfl

/-- Entering an error counts it first, and an uncorrectable one posts its event after. -/
theorem State.eccError_ecc (s : State) (mem addr : Nat) (unc : Bool) (bit req : Nat) :
    ∃ u : State, u.ecc = s.ecc
      ∧ (s.eccError mem addr unc bit req).ecc = (u.eccLog mem addr unc bit req).2.ecc := by
  refine ⟨(s.perf (if unc then 0xF5 else 0xF4)).lifeAdd (if unc then 99 else 100), s.perf_ecc _ _, ?_⟩
  unfold State.eccError
  cases unc <;> simp [State.free]

theorem State.eccError_logs (s : State) (mem addr : Nat) (unc : Bool) (bit req : Nat) :
    (s.eccError mem addr unc bit req).logs mem addr ∨ 64 ≤ s.ecc.log.length := by
  obtain ⟨u, hu, he⟩ := s.eccError_ecc mem addr unc bit req
  have hlog := u.eccLog_logs mem addr unc bit req
  rw [hu] at hlog
  rwa [State.logs, he]

theorem State.eccError_flips (s : State) (mem addr : Nat) (unc : Bool) (bit req p : Nat) :
    (s.eccError mem addr unc bit req).flips p = s.flips p := by
  obtain ⟨u, hu, he⟩ := s.eccError_ecc mem addr unc bit req
  rw [State.flips, he, State.eccLog_flips, hu]
  rfl

/-! ## A word read -/

section
variable {s : State} (hf : Bank.wf (fun _ => []) s.ecc.flips = true) {a req : Nat} {u : Upset}
include hf

/-- A word with no flipped bit. -/
theorem State.eccRead_clean (h : upsetAdd u (s.flips (s.phys (a / 8 * 8))) = []) :
    (s.eccRead a req u).1 = true ∧ (s.eccRead a req u).2.flips (s.phys (a / 8 * 8)) = []
      ∧ (s.eccRead a req u).2.ecc.log = s.ecc.log := by
  unfold State.eccRead
  simp only [h]
  exact ⟨trivial, State.flips_setFlips_same (Bank.wf_rise _ _ 0 hf) _ _, rfl⟩

/-- One flipped bit is corrected and logged. -/
theorem State.eccRead_corrected {b : Nat} (h : upsetAdd u (s.flips (s.phys (a / 8 * 8))) = [b]) :
    (s.eccRead a req u).1 = true ∧ (s.eccRead a req u).2.flips (s.phys (a / 8 * 8)) = []
      ∧ ((s.eccRead a req u).2.logs 0 (a / 8 * 8) ∨ 64 ≤ s.ecc.log.length) := by
  unfold State.eccRead
  simp only [h]
  exact ⟨trivial, (State.eccError_flips ..).trans (State.flips_setFlips_same (Bank.wf_rise _ _ 0 hf) _ _),
    State.eccError_logs (s.setFlips (s.phys (a / 8 * 8)) []) ..⟩

/-- Two flipped bits and more stay, and are logged as uncorrectable. -/
theorem State.eccRead_bad {b c : Nat} {l : List Nat} (h : upsetAdd u (s.flips (s.phys (a / 8 * 8))) = b :: c :: l) :
    (s.eccRead a req u).1 = false ∧ (s.eccRead a req u).2.flips (s.phys (a / 8 * 8)) = b :: c :: l
      ∧ ((s.eccRead a req u).2.logsUncorrectable 0 (a / 8 * 8) ∨ 64 ≤ s.ecc.log.length) := by
  have hread : s.eccRead a req u
      = (false, (s.setFlips (s.phys (a / 8 * 8)) (b :: c :: l)).eccError 0 (a / 8 * 8) true 0 req) := by
    unfold State.eccRead
    simp only [h]
  have hbad : (s.eccRead a req u).1 = false := by rw [hread]
  refine ⟨hbad, ?_, State.eccRead_uncorrectable hbad⟩
  rw [hread, State.eccError_flips]
  exact State.flips_setFlips_same (Bank.wf_rise _ _ 0 hf) _ _

end

/-! ## The read command -/

section
variable {p : ReadPath} {q : Req} {k : Nat} {a : Word} {u : Upset} {s : State}

theorem leVal_replicate_zero (k : Nat) : leVal (List.replicate k 0#8) = 0 := by
  induction k with
  | zero => rfl
  | succ k ih => rw [List.replicate_succ, leVal_cons, ih]; rfl

/-- Paths whose uncorrectable word is refused and nothing more (R395). -/
theorem pathAction_plain (hp : readRequester p = some q) (hq : q ≠ .dma) (hfetch : ∀ c, p ≠ .riggerFetch c) (a : Nat)
    (s : State) : pathAction p a s = s := by
  cases p with
  | riggerFetch c => exact absurd rfl (hfetch c)
  | dma0 => exact absurd (Option.some.inj hp).symm hq
  | dma1 => exact absurd (Option.some.inj hp).symm hq
  | riggerLoad c => rfl
  | cleat | hawser | jtag | hostWindow => rfl
  | dataPath | candidate | engine | coefficient | cleatRam => cases hp

/-- A read that passes the checks is answered by its word. -/
theorem exec_sramRead_word (hp : readRequester p = some q) (hq : q ≠ .dma) (hfetch : ∀ c, p ≠ .riggerFetch c)
    (hs : isSram a.toNat = true) (hu : s.busUp = true) (hc : sramCheck q k a.toNat false s = .ok) :
    exec (.sramRead p k a u) s = .next (if (s.eccRead a.toNat (reqNum q) u).1
      then (s.eccRead a.toNat (reqNum q) u).2.answer (.access .ok (BitVec.ofNat 64 (leVal (s.bytes a.toNat k))))
      else (s.eccRead a.toNat (reqNum q) u).2.answer (.access .uncorrectable 0)) := by
  have hm : readMem p = none := by cases p <;> cases hp <;> rfl
  have hexec : exec (.sramRead p k a u) s = execSramRead p k a u s := rfl
  have hbytes : (s.eccRead a.toNat (reqNum q) u).2.bytes a.toNat k = s.bytes a.toNat k :=
    List.map_congr_left fun i _ => State.byte_of_memView (State.eccRead_memView ..) _
  rw [hexec, execSramRead, hm]
  simp only [hp, anyRead, hs, sramRead, hu, hc]
  rcases hr : s.eccRead a.toNat (reqNum q) u with ⟨good, t⟩
  rw [hr] at hbytes
  cases good with
  | true => simp [hbytes]
  | false => simp [pathAction_plain hp hq hfetch, leVal_replicate_zero]

end

/-- Settles O51: the word read decides the answer, and no read stores a byte. -/
theorem sramReadCorrects : Obligations.SramReadCorrects := by
  intro p q k a u s hp hq hfetch hs hu hc hf
  have hview : (s.eccRead a.toNat (reqNum q) u).2.memView = s.memView := State.eccRead_memView ..
  have hclean := State.eccRead_clean (a := a.toNat) (req := reqNum q) (u := u) hf
  have hone := fun b => State.eccRead_corrected (a := a.toNat) (req := reqNum q) (u := u) (b := b) hf
  have hmore := fun b c l => State.eccRead_bad (a := a.toNat) (req := reqNum q) (u := u) (b := b) (c := c) (l := l) hf
  refine ⟨_, exec_sramRead_word hp hq hfetch hs hu hc, ?_⟩
  generalize s.eccRead a.toNat (reqNum q) u = r at *
  have hsram : r.2.sram = s.sram := congrArg Prod.fst hview
  have hretired : r.2.ecc.retired = s.ecc.retired := congrArg Prod.snd hview
  cases hl : upsetAdd u (s.flips (s.phys (a.toNat / 8 * 8))) with
  | nil =>
    obtain ⟨hgood, hflips, hlog⟩ := hclean hl
    rw [if_pos hgood]
    exact ⟨hsram, hretired, State.answer_resp .., hflips, hlog⟩
  | cons b l =>
    cases l with
    | nil =>
      obtain ⟨hgood, hflips, hlog⟩ := hone b hl
      rw [if_pos hgood]
      exact ⟨hsram, hretired, State.answer_resp .., hflips, hlog⟩
    | cons c l =>
      obtain ⟨hbad, hflips, hlog⟩ := hmore b c l hl
      rw [if_neg (by simp [hbad])]
      exact ⟨hsram, hretired, State.answer_resp .., hflips, hlog⟩

end Sys2Proof.Machine
end

section
/-! The taking of a message (R290 to R293, R299): what the completion of a message at its intake leaves of the mailbox's
status and of the tables, and the obligation on duplicates. -/

namespace Sys2Proof.Machine

/-! ## The entries of a bank below a key -/

/-- The entries of a bank below key k. -/
def Bank.below {α : Type} (k : Nat) (b : List (Nat × α)) : List (Nat × α) := b.filter fun e => e.1 < k

section
variable {α : Type} {k j : Nat}

theorem Bank.below_cons (a : Nat) (v : α) (b : List (Nat × α)) :
    Bank.below k ((a, v) :: b) = if a < k then (a, v) :: Bank.below k b else Bank.below k b := by
  simp [Bank.below, List.filter_cons]

theorem Bank.below_insert (hj : k ≤ j) (b : List (Nat × α)) (v : α) :
    Bank.below k (Bank.insert b j v) = Bank.below k b := by
  have hk : ¬j < k := by omega
  induction b with
  | nil => simp [Bank.insert, Bank.below, hk]
  | cons e t ih =>
    obtain ⟨a, w⟩ := e
    unfold Bank.insert
    split
    · rw [Bank.below_cons j, if_neg hk]
    · split
      · subst a
        simp [Bank.below_cons, hk]
      · simp [Bank.below_cons, ih]

theorem Bank.below_erase (hj : k ≤ j) (b : List (Nat × α)) : Bank.below k (Bank.erase b j) = Bank.below k b := by
  have hk : ¬j < k := by omega
  induction b with
  | nil => rfl
  | cons e t ih =>
    obtain ⟨a, w⟩ := e
    unfold Bank.erase
    split
    · subst a
      simp [Bank.below_cons, hk]
    · split
      · rfl
      · simp [Bank.below_cons, ih]

/-- A write at a higher key leaves them alone. -/
theorem Bank.below_put [DecidableEq α] (hj : k ≤ j) (b : List (Nat × α)) (v d : α) :
    Bank.below k (Bank.put b j v d) = Bank.below k b := by
  unfold Bank.put
  split
  · exact Bank.below_erase hj b
  · exact Bank.below_insert hj b v

theorem Bank.below_eq_nil {lo : Nat} (b : List (Nat × α)) (h : keysRise lo b = true) (hk : k ≤ lo) :
    Bank.below k b = [] := by
  induction b generalizing lo with
  | nil => rfl
  | cons e t ih =>
    obtain ⟨a, w⟩ := e
    simp only [keysRise, Bool.and_eq_true, decide_eq_true_eq] at h
    obtain ⟨ha, ht⟩ := h
    rw [Bank.below_cons, if_neg (by omega), ih ht (by omega)]

/-- A key below the bound is found among them. -/
theorem Bank.find_below {lo : Nat} (hj : j < k) (b : List (Nat × α)) (h : keysRise lo b = true) :
    Bank.find (Bank.below k b) j = Bank.find b j := by
  induction b generalizing lo with
  | nil => rfl
  | cons e t ih =>
    obtain ⟨a, w⟩ := e
    simp only [keysRise, Bool.and_eq_true, decide_eq_true_eq] at h
    obtain ⟨-, ht⟩ := h
    rw [Bank.below_cons]
    split
    · simp only [Bank.find, ih ht]
    · have hfound : Bank.find ((a, w) :: t) j = none := by
        rw [Bank.find, if_neg (by omega), if_pos (by omega)]
      rw [hfound, Bank.below_eq_nil t ht (by omega)]
      rfl

end

/-! ## What a completion leaves alone -/

/-- The registers of the mailboxes themselves, and what decides a message's intake: the completions, the outstanding
table, the replay windows and Hawser. -/
def State.takeView (s : State) : List (Nat × Word) × Ring × List Cmd × List (Nat × List WinEntry) × Hws :=
  (Bank.below 0x13001000 s.regs, s.mbx.host, s.mbx.outstanding, s.mbx.windows, s.hws)

section
variable (s : State)

/-- The status of a mailbox is among these registers. -/
theorem State.mbxStat_of_below {s t : State} (hs : Registers.wf s = true) (ht : Registers.wf t = true)
    (hregs : Bank.below 0x13001000 t.regs = Bank.below 0x13001000 s.regs) {m : Nat} (hm : m < 15) :
    t.word R.MBX_STAT m = s.word R.MBX_STAT m := by
  have hlow : R.MBX_STAT.addr m 0 < 0x13001000 := by
    change 0x13000044 + 0x100 * m + 0 < 0x13001000
    omega
  unfold State.word Bank.get
  rw [← Bank.find_below hlow t.regs ht, ← Bank.find_below hlow s.regs hs, hregs]

theorem State.setWord_takeView (r : RegD) (w : Word) (n m : Nat) (h : 0x13001000 ≤ r.base) :
    (s.setWord r w n m).takeView = s.takeView := by
  have haddr : 0x13001000 ≤ r.addr n m := by unfold RegD.addr; omega
  simp [State.takeView, State.setWord, Bank.below_put haddr]

theorem State.put_takeView (f : Fld) (v n m : Nat) (h : 0x13001000 ≤ f.reg.base) :
    (s.put f v n m).takeView = s.takeView := State.setWord_takeView s _ _ _ _ h

theorem State.putB_takeView (f : Fld) (b : Bool) (n m : Nat) (h : 0x13001000 ≤ f.reg.base) :
    (s.putB f b n m).takeView = s.takeView := State.put_takeView s _ _ _ _ h

theorem State.addSat_takeView (f : Fld) (k n m : Nat) (h : 0x13001000 ≤ f.reg.base) :
    (s.addSat f k n m).takeView = s.takeView := State.put_takeView s _ _ _ _ h

theorem State.incWrap_takeView (f : Fld) (n m : Nat) (h : 0x13001000 ≤ f.reg.base) :
    (s.incWrap f n m).takeView = s.takeView := State.put_takeView s _ _ _ _ h

@[simp] theorem State.modFathom_takeView (i : Fin 32) (f : Fathom → Fathom) :
    (s.modFathom i f).takeView = s.takeView := rfl

theorem State.perfAdd_takeView (fuel : Nat) :
    ∀ (s : State) (j k : Nat), (s.perfAdd fuel j k).takeView = s.takeView := by
  induction fuel with
  | zero =>
    intro s j k
    unfold State.perfAdd
    dsimp only
    split
    · rfl
    · exact State.setWord_takeView _ _ _ _ _ (by decide)
  | succ fuel ih =>
    intro s j k
    unfold State.perfAdd
    dsimp only
    split
    · rfl
    · split
      · exact (ih ..).trans (State.setWord_takeView _ _ _ _ _ (by decide))
      · exact State.setWord_takeView _ _ _ _ _ (by decide)

@[simp] theorem State.perf_takeView (j k : Nat) : (s.perf j k).takeView = s.takeView := by
  unfold State.perf
  split
  · rfl
  · exact State.perfAdd_takeView 255 s j k

@[simp] theorem State.post_takeView (code lane arg : Nat) : (s.post code lane arg).takeView = s.takeView := by
  unfold State.post
  dsimp only
  split
  · rw [State.perf_takeView]
    rfl
  · rw [State.perf_takeView, State.addSat_takeView _ _ _ _ _ (by decide)]
    rfl

/-- A sample of Fathom touches the monitors and posts at most an event (R364). -/
@[simp] theorem fathomSample_takeView (i : Fin 32) (v : Int) (excess : Bool) :
    (fathomSample i v excess s).takeView = s.takeView := by
  unfold fathomSample
  dsimp only
  split
  · rfl
  · split
    · rw [State.perf_takeView, State.addSat_takeView _ _ _ _ _ (by decide)]
    · split
      · split
        · rw [State.post_takeView, State.put_takeView _ _ _ _ _ (by decide), State.modFathom_takeView,
            State.putB_takeView _ _ _ _ _ (by decide), State.modFathom_takeView]
        · rw [State.put_takeView _ _ _ _ _ (by decide), State.modFathom_takeView,
            State.putB_takeView _ _ _ _ _ (by decide), State.modFathom_takeView]
      · rw [State.putB_takeView _ _ _ _ _ (by decide), State.modFathom_takeView]

@[simp] theorem completionOffer_takeView (ident us : Nat) : (completionOffer ident us s).takeView = s.takeView := by
  refine List.foldlRecOn (motive := fun t : State => t.takeView = s.takeView) _ _ rfl fun t ht i _ => ?_
  split
  · rw [fathomSample_takeView, ht]
  · exact ht

end

/-- A completion into a host ring with room changes no more of it than the ring (R294). -/
theorem State.postCpl_takeView {s : State} {w0 : Word} (m : Nat) (st orig : Status) (v : Word) (fin : Bool)
    (hi : bitsOf w0 31 24 ≤ 2) (hl : s.mbx.host.entries.length < 256) :
    (s.postCpl w0 m st orig v fin).takeView = (Bank.below 0x13001000 s.regs,
      { entries := s.mbx.host.entries ++ [s.cpl w0 m st orig v fin s.mbx.host.gen], gen := s.mbx.host.gen + 1,
        dropping := false }, s.mbx.outstanding, s.mbx.windows, s.hws) := by
  have hsender : ¬bitsOf w0 31 24 ≥ 0x80 := by omega
  simp only [State.postCpl, hi, hsender, Ring.push_room _ hl, if_true, if_false, Bool.false_eq_true]
  rw [State.perf_takeView, State.incWrap_takeView _ _ _ _ (by decide)]
  rfl

/-! ## The message at its mailbox -/

/-- MAILBOX_TAKE's own writes: the mailbox is empty again, and its message taken (R290). -/
def State.taken (s : State) (m : Nat) (c : Cmd) : State :=
  (((((s.modMbx fun x => { x with rr := (m + 1) % 15 }).put F.MBX_STAT_FULL 0 m).put F.MBX_STAT_TAKEN 1 m).put
    F.MBX_STAT_EMPTY_IRQ 1 m).put F.MBX_STAT_LAST_TAG c.tag.toNat m).perf 0xE9

/-- The message that stands in mailbox m. -/
def State.message (s : State) (m : Nat) : Cmd :=
  { id := 0, m := m, words := s.mbxMessage m, locked := needsStaging (s.mbxMessage m) }

theorem takeMessage_host {s : State} {m : Nat} (hi : (s.message m).ident < 0x80) :
    takeMessage m s = intake (s.message m) (s.taken m (s.message m)) := by
  have hn : ¬(s.message m).ident ≥ 0x80 := by omega
  unfold takeMessage
  dsimp only
  rw [if_neg (by exact hn)]
  rfl

theorem State.taken_wf {s : State} (h : Registers.wf s = true) (m : Nat) (c : Cmd) :
    Registers.wf (s.taken m c) = true :=
  Registers.perf_wf (Registers.put_wf (Registers.put_wf (Registers.put_wf (Registers.put_wf
    (s := s.modMbx fun x => { x with rr := (m + 1) % 15 }) h ..) ..) ..) ..) ..

/-- The taking empties the mailbox. -/
theorem State.taken_full {s : State} (h : Registers.wf s = true) {m : Nat} (hm : m < 15) (c : Cmd) :
    (s.taken m c).flag F.MBX_STAT_FULL m = false := by
  let s0 := s.modMbx fun x => { x with rr := (m + 1) % 15 }
  have h1 : Registers.wf (s0.put F.MBX_STAT_FULL 0 m) = true := Registers.put_wf (s := s0) h ..
  have h2 := Registers.put_wf h1 F.MBX_STAT_TAKEN 1 m 0
  have h3 := Registers.put_wf h2 F.MBX_STAT_EMPTY_IRQ 1 m 0
  have h4 := Registers.put_wf h3 F.MBX_STAT_LAST_TAG c.tag.toNat m 0
  have hlow : R.MBX_STAT.addr m 0 < 0x16001020 := by
    change 0x13000044 + 0x100 * m + 0 < 0x16001020
    omega
  have hperf := State.perf_word h4 (addr_ne_pmuOvf hlow) 0xE9 1
  have hlast := State.get_put_near h3 F.MBX_STAT_LAST_TAG F.MBX_STAT_FULL c.tag.toNat m 0 rfl (by decide) (by decide)
    (by decide) (by decide)
  have hempty := State.get_put_near h2 F.MBX_STAT_EMPTY_IRQ F.MBX_STAT_FULL 1 m 0 rfl (by decide) (by decide)
    (by decide) (by decide)
  have htaken := State.get_put_near h1 F.MBX_STAT_TAKEN F.MBX_STAT_FULL 1 m 0 rfl (by decide) (by decide)
    (by decide) (by decide)
  have hsame := State.get_put_same (s := s0) h F.MBX_STAT_FULL 0 m 0 (by decide) (by decide)
  have hget : (s.taken m c).get F.MBX_STAT_FULL m = 0 :=
    (congrArg (bitsOf · 0 0) hperf).trans (hlast.trans (hempty.trans (htaken.trans hsame)))
  simp [State.flag, hget]

theorem State.taken_mbx (s : State) (m : Nat) (c : Cmd) :
    (s.taken m c).mbx = { s.mbx with rr := (m + 1) % 15 } := by
  simp [State.taken]

@[simp] theorem State.taken_fw (s : State) (m : Nat) (c : Cmd) : (s.taken m c).fw = s.fw := by simp [State.taken]
@[simp] theorem State.taken_hws (s : State) (m : Nat) (c : Cmd) : (s.taken m c).hws = s.hws := by simp [State.taken]

/-- A duplicate with a final completion is answered by it (R299). -/
theorem intake_replayed {c : Cmd} {e : WinEntry} {st : Status} {res : Word} {s : State} (hr : c.bits 1 15 1 = 0)
    (ho : opcodes.contains c.opcode = true) (hl : lenAccepted c = true)
    (ha : (s.allow c.opcode).getLsbD (classOf c.ident) = true) (ht : c.tag ≠ 0)
    (hw : s.windowFind c.ident c.tag = some e) (he : e.final = some (st, res)) : intake c s
      = if c.locked then (completionOffer c.ident 0 (s.postCpl (c.word 0) c.m .replayed st res true)).unlockStaging c.m
        else completionOffer c.ident 0 (s.postCpl (c.word 0) c.m .replayed st res true) := by
  obtain ⟨tag, id, final⟩ := e
  dsimp only at he
  subst he
  have ho : c.opcode ∈ opcodes := List.contains_iff_mem.mp ho
  have ht : ¬c.tag = 0#16 := ht
  simp [intake, hr, ho, hl, ha, ht, hw]

/-- The staging buffer is unlocked without a change of FULL (R289). -/
theorem State.unlockStaging_stat {s : State} (h : Registers.wf s = true) (m : Nat) :
    (s.unlockStaging m).flag F.MBX_STAT_FULL m = s.flag F.MBX_STAT_FULL m
      ∧ (s.unlockStaging m).flag F.MBX_STAT_STG_BUSY m = false := by
  have hfull := State.get_put_near h F.MBX_STAT_STG_BUSY F.MBX_STAT_FULL 0 m 0 rfl (by decide) (by decide) (by decide)
    (by decide)
  have hbusy := State.get_put_same h F.MBX_STAT_STG_BUSY 0 m 0 (by decide) (by decide)
  exact ⟨congrArg (fun g => decide (g = 1)) hfull, congrArg (fun g => decide (g = 1)) hbusy⟩

theorem State.nextFull_lt {s : State} {m : Nat} (h : s.nextFull = some m) : m < 15 := by
  obtain ⟨i, -, rfl⟩ := List.mem_map.mp (List.mem_of_find?_eq_some h)
  omega

theorem inboxNext_nil {s : State} (h : s.hws.inbox = []) (fuel : Nat) : inboxNext fuel s = s := by
  cases fuel <;> simp [inboxNext, h]

/-- MAILBOX_TAKE of the next full mailbox while nothing waits from Hawser, before and after (R290). -/
theorem exec_mailboxTake {s : State} {m : Nat} (hi : s.hws.inbox = []) (hrun : s.flag F.MBX_ENG_STAT_RUNNING = true)
    (hn : s.nextFull = some m) (ht : (takeMessage m s).hws.inbox = []) :
    exec .mailboxTake s = .next (takeMessage m s) := by
  have hexec : exec .mailboxTake s = execMailboxTake s := rfl
  simp only [hexec, execMailboxTake, inboxNext_nil hi, hrun, hn, inboxNext_nil ht, Bool.not_true, Bool.false_eq_true,
    if_false]

/-- Settles O53: the message is taken, and its intake posts the cached outcome. -/
theorem duplicateIsReplayed : Obligations.DuplicateIsReplayed := by
  intro m c e st res s h hi hrun hn hc hr ho hl ha ht hident hw he hroom
  obtain rfl : c = s.message m := hc
  have hm := State.nextFull_lt hn
  have hlow : (s.message m).ident < 0x80 ∧ bitsOf ((s.message m).word 0) 31 24 ≤ 2 := by
    change (s.message m).ident < 0x80 ∧ (s.message m).ident ≤ 2
    omega
  have hwf := State.taken_wf h m (s.message m)
  have hfull := State.taken_full h hm (s.message m)
  have hmbx := s.taken_mbx m (s.message m)
  have htake := (takeMessage_host hlow.1).trans (intake_replayed (s := s.taken m (s.message m)) hr ho hl
    (by rw [State.allow, hmbx]; exact ha) ht (by rw [State.windowFind, State.window, hmbx]; exact hw) he)
  have hview := (completionOffer_takeView ((s.taken m (s.message m)).postCpl ((s.message m).word 0) m .replayed st res
    true) (s.message m).ident 0).trans (State.postCpl_takeView m .replayed st res true hlow.2 (by rwa [hmbx]))
  have hwfu := (completionOffer_keeps (ms := false) (s.message m).ident 0
    (State.postCpl_keeps ((s.message m).word 0) m .replayed st res true
      (Keeps.refl (s.taken m (s.message m))))).regs hwf
  have hbox : (s.message m).m = m := rfl
  rw [hbox] at htake
  generalize completionOffer (s.message m).ident 0 _ = u at htake hview hwfu
  simp only [State.takeView, Prod.mk.injEq, hmbx, State.cpl, State.taken_fw, State.taken_hws] at hview
  obtain ⟨hregs, hhost, hout, hwin, hhws⟩ := hview
  have hstat := State.mbxStat_of_below hwf hwfu hregs hm
  have hfullu : u.flag F.MBX_STAT_FULL m = false :=
    (congrArg (fun w => decide (bitsOf w 0 0 = 1)) hstat).trans hfull
  have hinbox : (takeMessage m s).hws.inbox = [] := by
    have hunlocked : (u.unlockStaging m).hws = u.hws := rfl
    rw [htake, apply_ite State.hws, hunlocked, ite_self, hhws, hi]
  obtain ⟨hunlock, hbusy⟩ := State.unlockStaging_stat hwfu m
  refine ⟨_, exec_mailboxTake hi hrun hn hinbox, ?_⟩
  rw [htake]
  cases hlock : (s.message m).locked with
  | true =>
    rw [if_pos rfl]
    exact ⟨congrArg Ring.entries hhost, hout, hwin, hunlock.trans hfullu, fun _ => hbusy⟩
  | false =>
    rw [if_neg Bool.false_ne_true]
    exact ⟨congrArg Ring.entries hhost, hout, hwin, hfullu,
      fun hneed => absurd (hlock.symm.trans hneed) Bool.false_ne_true⟩

end Sys2Proof.Machine
end

section
/-! The command that a mailbox executes (R293), and the check that a command makes of every lane it names. -/

namespace Sys2Proof.Machine

variable {s : State} {m : MBox} {op : Nat} {c : Cmd}

/-- The command at the front of its mailbox is executed by its opcode's effect. -/
theorem runCmd_fronts (f : Cmd → State → State) (h : s.fronts m op c) : runCmd op m f s = f c s := by
  obtain ⟨hfront, hop⟩ := h
  simp [runCmd, hfront, hop]

/-- A check that every lane passes finds none that fails it. -/
theorem any_not_eq_false {α : Type} {l : List α} {p : α → Bool} (h : ∀ x ∈ l, p x = true) :
    (l.any fun x => !p x) = false := by
  rw [List.any_eq_false]
  intro x hx
  simp [h x hx]

/-- A check that no lane meets finds none. -/
theorem any_eq_false_of {α : Type} {l : List α} {p : α → Bool} (h : ∀ x ∈ l, p x = false) : l.any p = false := by
  rw [List.any_eq_false]
  intro x hx
  simp [h x hx]

end Sys2Proof.Machine
end

section
/-! Handles of knots (R309 to R311): what KNOT_OPEN makes of a free slot, what a handle without a knot answers, and the
obligation on them. -/

namespace Sys2Proof.Machine

/-! ## The free slot -/

theorem freeKnot_some {s : State} {k : Nat} (h : freeKnot s = some k) :
    k < 8 ∧ s.knotState k = 0 ∧ ∀ j, j < k → s.knotState j ≠ 0 := by
  obtain ⟨hk, hmem, hlow⟩ := List.find?_range_eq_some.mp h
  refine ⟨List.mem_range.mp hmem, of_decide_eq_true hk, fun j hj => ?_⟩
  simpa using hlow j hj

theorem freeKnot_none {s : State} (h : ∀ k, k < 8 → s.knotState k ≠ 0) : freeKnot s = none := by
  rw [freeKnot, List.find?_eq_none]
  intro k hk
  simpa using h k (List.mem_range.mp hk)

/-! ## The slot opened -/

/-- The words of slot k that KNOT_OPEN clears (R310). -/
def State.slotCleared (s : State) (k : Nat) : State :=
  ((((s.setWord R.KNT_SLOT_TGT 0 k 0).setWord R.KNT_SLOT_TGT 0 k 1).setWord R.KNT_SLOT_TGT 0 k 2).setWord
    R.KNT_SLOT_LANES 0 k).setWord R.KNT_SLOT_ERR 0 k

/-- Its status as OPEN under generation gen. -/
def openStat (gen : Nat) : Word := BitVec.ofNat 32 (gen * 2 ^ 16 + 2 ^ 13)

theorem knotOpened_eq (owner k : Nat) (s : State) : knotOpened owner k s
    = (((s.setWord R.KNT_SLOT_STAT (openStat ((s.get F.KNT_SLOT_STAT_GEN k + 1) % 256)) k).setWord R.KNT_SLOT_INFO
        (BitVec.ofNat 32 (owner * 2 ^ 24)) k).slotCleared k).modKnot k fun _ => {} := rfl

theorem State.modKnot_word (s : State) (k : Nat) (f : Knot → Knot) (r : RegD) (n m : Nat) :
    (s.modKnot k f).word r n m = s.word r n m := rfl

section
variable {s : State} (h : Registers.wf s = true) (k : Nat)
include h

/-- The slot's status and owner stand before the words cleared. -/
theorem State.slotCleared_word {x : RegD} (hx : x.addr k 0 < 0x14000108 + 0x20 * k) :
    (s.slotCleared k).word x k = s.word x k := by
  have htgt (i : Nat) : R.KNT_SLOT_TGT.addr k i = 0x14000108 + 0x20 * k + 4 * i := rfl
  have hlanes : R.KNT_SLOT_LANES.addr k 0 = 0x14000114 + 0x20 * k + 0 := rfl
  have herr : R.KNT_SLOT_ERR.addr k 0 = 0x14000118 + 0x20 * k + 0 := rfl
  have h0 := Registers.setWord_wf h R.KNT_SLOT_TGT 0 k 0
  have h1 := Registers.setWord_wf h0 R.KNT_SLOT_TGT 0 k 1
  have h2 := Registers.setWord_wf h1 R.KNT_SLOT_TGT 0 k 2
  have h3 := Registers.setWord_wf h2 R.KNT_SLOT_LANES 0 k 0
  unfold State.slotCleared
  rw [State.word_setWord_other h3 _ _ _ _ _ _ _ (by omega), State.word_setWord_other h2 _ _ _ _ _ _ _ (by omega),
    State.word_setWord_other h1 _ _ _ _ _ _ _ (by rw [htgt]; omega),
    State.word_setWord_other h0 _ _ _ _ _ _ _ (by rw [htgt]; omega),
    State.word_setWord_other h _ _ _ _ _ _ _ (by rw [htgt]; omega)]

variable (owner : Nat)

theorem knotOpened_stat : (knotOpened owner k s).word R.KNT_SLOT_STAT k
    = openStat ((s.get F.KNT_SLOT_STAT_GEN k + 1) % 256) := by
  have h1 := Registers.setWord_wf h R.KNT_SLOT_STAT (openStat ((s.get F.KNT_SLOT_STAT_GEN k + 1) % 256)) k 0
  have h2 := Registers.setWord_wf h1 R.KNT_SLOT_INFO (BitVec.ofNat 32 (owner * 2 ^ 24)) k 0
  have hstat : R.KNT_SLOT_STAT.addr k 0 = 0x14000100 + 0x20 * k + 0 := rfl
  have hinfo : R.KNT_SLOT_INFO.addr k 0 = 0x14000104 + 0x20 * k + 0 := rfl
  rw [knotOpened_eq, State.modKnot_word, State.slotCleared_word h2 k (by omega),
    State.word_setWord_other h1 _ _ _ _ _ _ _ (by omega), State.word_setWord_same h]

theorem knotOpened_info : (knotOpened owner k s).word R.KNT_SLOT_INFO k = BitVec.ofNat 32 (owner * 2 ^ 24) := by
  have h1 := Registers.setWord_wf h R.KNT_SLOT_STAT (openStat ((s.get F.KNT_SLOT_STAT_GEN k + 1) % 256)) k 0
  have h2 := Registers.setWord_wf h1 R.KNT_SLOT_INFO (BitVec.ofNat 32 (owner * 2 ^ 24)) k 0
  have hinfo : R.KNT_SLOT_INFO.addr k 0 = 0x14000104 + 0x20 * k + 0 := rfl
  rw [knotOpened_eq, State.modKnot_word, State.slotCleared_word h2 k (by omega), State.word_setWord_same h1]

/-- The slot is OPEN under the next generation, for its owner. -/
theorem knotOpened_fields (ho : owner < 256) : (knotOpened owner k s).knotState k = 1
    ∧ (knotOpened owner k s).get F.KNT_SLOT_STAT_GEN k = (s.get F.KNT_SLOT_STAT_GEN k + 1) % 256
    ∧ (knotOpened owner k s).get F.KNT_SLOT_INFO_OWNER k = owner := by
  have hgen : (s.get F.KNT_SLOT_STAT_GEN k + 1) % 256 < 256 := Nat.mod_lt _ (by decide)
  have hword := knotOpened_stat h k owner
  generalize (s.get F.KNT_SLOT_STAT_GEN k + 1) % 256 = gen at *
  have hnat : (openStat gen).toNat = gen * 2 ^ 16 + 2 ^ 13 := by
    rw [openStat, BitVec.toNat_ofNat, Nat.mod_eq_of_lt (by omega)]
  have hown : (BitVec.ofNat 32 (owner * 2 ^ 24)).toNat = owner * 2 ^ 24 := by
    rw [BitVec.toNat_ofNat, Nat.mod_eq_of_lt (by omega)]
  refine ⟨?state, ?gen, ?owner⟩
  case state =>
    have hbits : bitsOf (openStat gen) 15 13 = 1 := by
      rw [bitsOf, hnat]
      omega
    exact (congrArg (bitsOf · 15 13) hword).trans hbits
  case gen =>
    have hbits : bitsOf (openStat gen) 23 16 = gen := by
      rw [bitsOf, hnat]
      omega
    exact (congrArg (bitsOf · 23 16) hword).trans hbits
  case owner =>
    have hbits : bitsOf (BitVec.ofNat 32 (owner * 2 ^ 24)) 31 24 = owner := by
      rw [bitsOf, hown]
      omega
    exact (congrArg (bitsOf · 31 24) (knotOpened_info h k owner)).trans hbits

end

/-- What leaves the rest beside the registers alone changes the registers at most. -/
theorem State.eq_of_rest {s t : State} (h : t.rest { regs := true } = s.rest { regs := true }) :
    t = { s with regs := t.regs } := congrArg (fun u : State => { u with regs := t.regs }) h

/-- Beside the registers KNOT_OPEN makes the slot anew. -/
theorem knotOpened_frame (owner k : Nat) (s : State) : ∃ regs, knotOpened owner k s
    = { s with regs := regs, knt := { s.knt with slots := s.knt.slots.set (Fin.ofNat 8 k) {} } } := by
  have hregs := State.eq_of_rest (s := s) (t := ((s.setWord R.KNT_SLOT_STAT
    (openStat ((s.get F.KNT_SLOT_STAT_GEN k + 1) % 256)) k).setWord R.KNT_SLOT_INFO (BitVec.ofNat 32 (owner * 2 ^ 24))
    k).slotCleared k) (by simp [State.slotCleared])
  rw [knotOpened_eq, hregs]
  exact ⟨_, rfl⟩

theorem knotOpened_knot (owner k : Nat) (s : State) : (knotOpened owner k s).knot k = {} := by
  obtain ⟨regs, hopen⟩ := knotOpened_frame owner k s
  rw [hopen]
  exact Vector.getElem_set_self ..

theorem knotOpened_others (owner k : Nat) (s : State) :
    { knotOpened owner k s with regs := s.regs, knt := s.knt } = s := by
  obtain ⟨regs, hopen⟩ := knotOpened_frame owner k s
  rw [hopen]

/-- The opened slot is what its handle names. -/
theorem State.named_handle {s : State} {k gen : Nat} (hk : k < 8) (hs : s.knotState k = 1)
    (hg : s.get F.KNT_SLOT_STAT_GEN k = gen) : s.named (k + gen * 256) = some k := by
  have hslot : (k + gen * 256) % 8 = k := by omega
  have hhandle : s.handle k = k + gen * 256 := by rw [State.handle, hg]
  simp [State.named, hslot, hhandle, hs]

/-! ## Handles without a knot -/

section
variable {s : State} {m : MBox} {c : Cmd}

theorem knotOf_none (hn : s.named (c.bits 2 15 0) = none) : knotOf c s = .error .cancelled := by simp [knotOf, hn]

/-- KNOT_CINCH of a handle that names no knot. -/
theorem cinch_cancelled {kind : Nat} (f : Cmd → Nat → State → State) (h : s.fronts m 0x42 c) (hk : c.bits 3 1 0 = kind)
    (hn : s.named (c.bits 2 15 0) = none) : cinch kind m f s = s.finish c .cancelled := by
  unfold cinch
  rw [runCmd_fronts _ h, if_neg (by simp [hk]), knotOf_none hn]

end

/-- Settles O54: the slot that is opened is the one its handle names, and a handle without a knot is cancelled. -/
theorem knotHandles : Obligations.KnotHandles := by
  refine ⟨fun m c k s h hf hk => ?opened, fun m c s hf hk => ?noneFree, fun m c s hf hc hn => ?stage,
    fun m c s hf hc hn => ?immediate, fun m c s hf hc hn => ?am, fun m c s hf hc hn => ?time,
    fun m c s hf hc hl hn => ?gang⟩
  case opened =>
    obtain ⟨hlt, hfree, hlow⟩ := freeKnot_some hk
    obtain ⟨hstate, hgen, howner⟩ := knotOpened_fields h k c.ident (bitsOf_lt (c.word 0) 31 24)
    have hhandle : (knotOpened c.ident k s).handle k = k + (s.get F.KNT_SLOT_STAT_GEN k + 1) % 256 * 256 := by
      rw [State.handle, hgen]
    refine ⟨hlt, hfree, hlow, knotOpened c.ident k s, ?_, hstate, hgen, howner,
      congrArg Knot.entries (knotOpened_knot ..), State.named_handle hlt hstate hgen, knotOpened_others ..⟩
    have hexec : exec (.knotOpen m) s = execKnotOpen m s := rfl
    rw [hexec, execKnotOpen, runCmd_fronts _ hf, hk]
    dsimp only
    rw [hhandle]
  case noneFree =>
    have hexec : exec (.knotOpen m) s = execKnotOpen m s := rfl
    rw [hexec, execKnotOpen, runCmd_fronts _ hf, freeKnot_none hk]
  case stage =>
    have hexec : exec (.knotStage m) s = execKnotStage m s := rfl
    rw [hexec, execKnotStage, runCmd_fronts _ hf, if_neg (by omega), knotOf_none hn]
  case immediate => exact congrArg Host.Outcome.next (cinch_cancelled _ hf hc hn)
  case am => exact congrArg Host.Outcome.next (cinch_cancelled _ hf hc hn)
  case time => exact congrArg Host.Outcome.next (cinch_cancelled _ hf hc hn)
  case gang =>
    have hlead : (!s.leads && s.hws.leader.isSome) = false := by
      rcases hl with hl | hl <;> simp [hl]
    have hexec : exec (.knotCinchGang m) s = execKnotCinchGang m s := rfl
    rw [hexec, execKnotCinchGang, hlead, if_neg Bool.false_ne_true, cinch_cancelled _ hf hc hn]

end Sys2Proof.Machine
end

section
/-! Slew ticks (R178, R179, R182): the outputs stand apart from what the lanes and their commands do, the tick itself
moves its own output by at most its step, and the obligation on the step. -/

namespace Sys2Proof.Machine

/-! ## The outputs of the channels -/

/-- The output of each channel before what a waveform adds. -/
def State.outs (s : State) (c : Fin 45) : Nat := s.optics.chan[c].slewed

theorem State.chan_slewed (s : State) (c : Fin 45) : (s.chan c).slewed = s.outs c := by
  have hc : Fin.ofNat 45 c.val = c := Fin.ext (Nat.mod_eq_of_lt c.isLt)
  simp only [State.chan, State.outs, hc]

theorem State.outs_of_optics {s t : State} (h : t.optics = s.optics) : t.outs = s.outs := by
  unfold State.outs
  rw [h]

/-- The parts that commands work on beside the optical state. -/
def beyondOptics : Parts :=
  { regs := true, mbx := true, mon := true, hws := true, lanes := true, lyd := true, fresh := true }

/-- An operation on these leaves the outputs alone. -/
theorem State.outs_of_rest {s t : State} (h : t.rest beyondOptics = s.rest beyondOptics) : t.outs = s.outs := by
  have hoptics := congrArg State.optics h
  exact State.outs_of_optics hoptics

variable (s : State)

@[simp] theorem State.outs_ite {p : Prop} [Decidable p] {a b : State} :
    (if p then a else b).outs = if p then a.outs else b.outs := apply_ite ..

@[simp] theorem State.put_outs (f v n m) : (s.put f v n m).outs = s.outs := (rfl)
@[simp] theorem State.putB_outs (f v n m) : (s.putB f v n m).outs = s.outs := (rfl)
@[simp] theorem State.addSat_outs (f k n m) : (s.addSat f k n m).outs = s.outs := (rfl)
@[simp] theorem State.incWrap_outs (f n m) : (s.incWrap f n m).outs = s.outs := (rfl)
@[simp] theorem State.modGrant_outs (f) : (s.modGrant f).outs = s.outs := (rfl)
@[simp] theorem State.modOlc_outs (n f) : (s.modOlc n f).outs = s.outs := (rfl)
@[simp] theorem State.modProt_outs (f) : (s.modProt f).outs = s.outs := (rfl)
@[simp] theorem State.modPll_outs (p f) : (s.modPll p f).outs = s.outs := (rfl)
@[simp] theorem State.modRx_outs (n f) : (s.modRx n f).outs = s.outs := (rfl)
@[simp] theorem State.mapWaits_outs (f) : (s.mapWaits f).outs = s.outs := (rfl)

/-- Repeated operations leave them alone where each does. -/
@[simp] theorem foldl_outs {α : Type} {g : State → α → State} (hg : ∀ s x, (g s x).outs = s.outs) (l : List α)
    (s : State) : (l.foldl g s).outs = s.outs :=
  List.foldlRecOn (motive := fun t : State => t.outs = s.outs) _ _ rfl fun t ht x _ => (hg t x).trans ht

@[simp] theorem eachBelow_outs {f : Nat → State → State} (hf : ∀ n s, (f n s).outs = s.outs) (k : Nat) (s : State) :
    (eachBelow k f s).outs = s.outs := foldl_outs (fun s n => hf n s) _ s

/-- A change of a channel that keeps its output. -/
theorem State.modChan_outs (c : Nat) {f : Chan → Chan} (hf : ∀ t, (f t).slewed = t.slewed) :
    (s.modChan c f).outs = s.outs := by
  funext d
  simp only [State.outs, State.modChan]
  by_cases hc : Fin.ofNat 45 c = d
  · subst hc
    rw [Fin.getElem_fin, Vector.getElem_set_self, hf]
  · rw [Fin.getElem_fin, Vector.getElem_set_ne _ _ (fun h => hc (Fin.ext h))]
    rfl

/-! ## The lanes' operations -/

@[simp] theorem State.setLane_outs (n st) : (s.setLane n st).outs = s.outs :=
  State.outs_of_rest (by simp [State.setLane, beyondOptics])

@[simp] theorem State.rxDown_outs (n) : (s.rxDown n).outs = s.outs := State.outs_of_rest (by simp [beyondOptics])

@[simp] theorem State.refreshHosts_outs : s.refreshHosts.outs = s.outs := State.outs_of_rest (by simp [beyondOptics])

@[simp] theorem pllSquelch_outs (p on) : (pllSquelch p on s).outs = s.outs :=
  State.outs_of_rest (by simp [beyondOptics])

@[simp] theorem State.finish_outs (c st r) : (s.finish c st r).outs = s.outs :=
  State.outs_of_rest (by simp [beyondOptics])

@[simp] theorem State.finishWhere_outs (p st r) : (s.finishWhere p st r).outs = s.outs :=
  State.outs_of_rest (by simp [beyondOptics])

@[simp] theorem patStart_outs (n src) : (patStart n src s).outs = s.outs :=
  State.outs_of_rest (by simp [patStart, beyondOptics])

@[simp] theorem State.hostOff_outs (h) : (s.hostOff h).outs = s.outs :=
  State.outs_of_rest (by simp [State.hostOff, beyondOptics])

@[simp] theorem State.phyLost_outs (n) : (s.phyLost n).outs = s.outs :=
  State.outs_of_rest
    (by simp [State.phyLost, State.agreeLinkLost, State.abandon, State.postProtectResult, beyondOptics])

@[simp] theorem State.chainRestart_outs (n) : (s.chainRestart n).outs = s.outs := by
  have hlyd (t : State) (f : Lyd → Lyd) : (t.modLyd n f).outs = t.outs := rfl
  rw [State.chainRestart, hlyd, State.put_outs, State.phyLost_outs]

/-! ## The power steps (R186) -/

/-- A ramp starts with its output driven again. -/
theorem State.stepStart_ramp (n : Nat) : s.stepStart (.ramp n)
    = (s.put F.OLC_STAT_TOKEN_WAIT 0 n).modChan (Fin.ofNat 45 (5 * n)) fun t => { t with hiZ := false } := by
  have hn : Fin.ofNat 45 (Fin.ofNat 45 (5 * n)).val = Fin.ofNat 45 (5 * n) := Fin.ext (Nat.mod_mod ..)
  simp only [State.stepStart, State.modChan, hn]

@[simp] theorem State.stepStart_outs (p) : (s.stepStart p).outs = s.outs := by
  cases p with
  | ramp n => simp [State.stepStart_ramp, State.modChan_outs]
  | _ => simp [State.stepStart]

@[simp] theorem State.takeStep_outs : s.takeStep.outs = s.outs := by
  unfold State.takeStep
  split <;> simp

@[simp] theorem State.wantStep_outs (p) : (s.wantStep p).outs = s.outs := by
  unfold State.wantStep
  split
  · rfl
  · dsimp only
    split <;> simp

@[simp] theorem State.pass_outs : s.pass.outs = s.outs := by simp [State.pass]

@[simp] theorem State.stepEnd_outs (p) : (s.stepEnd p).outs = s.outs := by simp [State.stepEnd]

@[simp] theorem State.dropStep_outs (p) : (s.dropStep p).outs = s.outs := by simp [State.dropStep]

@[simp] theorem State.vlasDrop_outs : s.vlasDrop.outs = s.outs := by simp [State.vlasDrop]

@[simp] theorem State.vdrvDemand_outs : s.vdrvDemand.outs = s.outs := by simp [State.vdrvDemand]

@[simp] theorem pllStart_outs (p) : (pllStart p s).outs = s.outs := by simp [pllStart]

@[simp] theorem State.rxOff_outs (n) : (s.rxOff n).outs = s.outs := by simp [State.rxOff]

@[simp] theorem State.demand_outs : s.demand.outs = s.outs := by simp [State.demand]

/-! ## The lanes' states -/

@[simp] theorem State.arrive_outs (n) : (s.arrive n).outs = s.outs := by simp [State.arrive]

@[simp] theorem State.probeExit_outs (n) : (s.probeExit n).outs = s.outs := by
  unfold State.probeExit
  split <;> simp

@[simp] theorem State.laneAdvance_outs (fuel : Nat) :
    ∀ (s : State) (n : Nat), (s.laneAdvance fuel n).outs = s.outs := by
  induction fuel with
  | zero => exact fun _ _ => rfl
  | succ fuel ih =>
    intro s n
    unfold State.laneAdvance
    dsimp only
    split
    · rfl
    · split <;> simp [ih]

@[simp] theorem chanLoad_outs (n k code) : (chanLoad n k code s).outs = s.outs := by
  have hmod := State.modChan_outs s (5 * n + k) (f := fun c => { c with target := code }) fun _ => rfl
  simp [chanLoad, hmod]

@[simp] theorem rangeZero_outs (n) : (rangeZero n s).outs = s.outs := State.modChan_outs s _ fun _ => rfl

@[simp] theorem rampDone_outs (n) : (rampDone n s).outs = s.outs := by
  unfold rampDone
  dsimp only
  split
  · rw [chanLoad_outs, State.modChan_outs]
    exact fun _ => rfl
  · simp [State.modChan_outs]

@[simp] theorem slewEnd_outs (c played) : (slewEnd c played s).outs = s.outs := by simp [slewEnd]

@[simp] theorem turnOnStart_outs (c) : (turnOnStart c s).outs = s.outs := by simp [turnOnStart, State.modChan_outs]

@[simp] theorem wavTick_outs (c) : (wavTick c s).2.outs = s.outs := by
  unfold wavTick
  split
  · rfl
  · simp [State.modChan_outs]

/-! ## The step in use -/

/-- What the step of channel c depends on. -/
def State.stepView (s : State) (c : Nat) : Word × Nat × Nat :=
  (s.word R.OLC_CH_CFG c, s.get F.OLC_SAFE_LIM_MAX_SLEW (c / 5), (s.chan c).range)

theorem chanStep_of_stepView {s t : State} {c : Nat} (h : t.stepView c = s.stepView c) :
    chanStep t c = chanStep s c := by
  simp only [State.stepView, Prod.mk.injEq] at h
  obtain ⟨hcfg, hlim, hrange⟩ := h
  have hstep : t.get F.OLC_CH_CFG_STEP c = s.get F.OLC_CH_CFG_STEP c := congrArg (bitsOf · _ _) hcfg
  have hdiv : t.get F.OLC_CH_CFG_DIV c = s.get F.OLC_CH_CFG_DIV c := congrArg (bitsOf · _ _) hcfg
  simp only [chanStep, hstep, hdiv, hlim, hrange]

theorem State.modChan_stepView (s : State) (c : Fin 45) {f : Chan → Chan} (hf : ∀ t, (f t).range = t.range) :
    (s.modChan c f).stepView c = s.stepView c := by
  have hrange : ((s.modChan c f).chan c).range = (s.chan c).range := by
    simp [State.chan, State.modChan, hf]
  have hword (r : RegD) (n : Nat) : (s.modChan c f).word r n = s.word r n := rfl
  simp only [State.stepView, State.get, hword, hrange]

/-- Showing whether a waveform plays is no part of it. -/
theorem State.putPlaying_stepView {s : State} (h : Registers.wf s = true) (c : Fin 45) (v : Nat) :
    (s.put F.OLC_CH_OUT_PLAYING v c).stepView c = s.stepView c := by
  have hout : R.OLC_CH_OUT.addr c 0 = 0x50001010 + 0x20 * c + 0 := rfl
  have hcfg : R.OLC_CH_CFG.addr c 0 = 0x50001000 + 0x20 * c + 0 := rfl
  have hlim : R.OLC_SAFE_LIM.addr (c / 5) 0 = 0x50000050 + 0x100 * (c / 5) + 0 := rfl
  have hword := State.word_put_other h F.OLC_CH_OUT_PLAYING R.OLC_CH_CFG v c 0 c 0 (by
    change R.OLC_CH_CFG.addr c 0 ≠ R.OLC_CH_OUT.addr c 0
    omega)
  have hget := State.get_put_far h F.OLC_CH_OUT_PLAYING F.OLC_SAFE_LIM_MAX_SLEW v c 0 (c / 5) 0 (by
    change R.OLC_SAFE_LIM.addr (c / 5) 0 ≠ R.OLC_CH_OUT.addr c 0
    omega)
  have hchan : (s.put F.OLC_CH_OUT_PLAYING v c).chan c = s.chan c := by rw [State.chan, State.put_optics, State.chan]
  simp only [State.stepView, hword, hget, hchan]

theorem State.modChan_wf {s : State} (h : Registers.wf s = true) (c : Nat) (f : Chan → Chan) :
    Registers.wf (s.modChan c f) = true := h

theorem turnOnStart_stepView {s : State} (h : Registers.wf s = true) (c : Fin 45) :
    (turnOnStart c s).stepView c = s.stepView c := by
  unfold turnOnStart
  dsimp only
  split
  · rw [State.putPlaying_stepView (State.modChan_wf h c _)]
    exact State.modChan_stepView s c fun _ => rfl
  · rfl

theorem wavTick_stepView {s : State} (h : Registers.wf s = true) (c : Fin 45) :
    (wavTick c s).2.stepView c = s.stepView c := by
  unfold wavTick
  split
  · rfl
  · dsimp only
    rw [State.putB, State.putPlaying_stepView (State.modChan_wf h c _)]
    exact State.modChan_stepView s c fun _ => rfl

/-! ## The tick -/

/-- The playback of a tick: its entry, if any, and the state that it leaves. -/
def slewEntry (c : Fin 45) (s : State) : Option Nat × State :=
  if s.turningOn c && s.grant.running ≠ some (.ramp (c.val / 5)) then (none, s) else wavTick c s

/-- The state after it. -/
def slewPlayed (c : Fin 45) (s : State) : State := (slewEntry c (s.modChan c fun t => { t with ended := false })).2

theorem slewPlayed_outs (c : Fin 45) (s : State) : (slewPlayed c s).outs = s.outs := by
  have hfirst := State.modChan_outs s c (f := fun t => { t with ended := false }) fun _ => rfl
  refine Eq.trans ?_ hfirst
  unfold slewPlayed slewEntry
  split
  · rfl
  · exact wavTick_outs _ c

theorem slewPlayed_stepView {s : State} (h : Registers.wf s = true) (c : Fin 45) :
    (slewPlayed c s).stepView c = s.stepView c := by
  have hfirst := State.modChan_stepView s c (f := fun t => { t with ended := false }) fun _ => rfl
  refine Eq.trans ?_ hfirst
  unfold slewPlayed slewEntry
  split
  · rfl
  · exact wavTick_stepView (State.modChan_wf h c _) c

theorem slewTo_or_stay {p : Prop} [Decidable p] (step : Option Nat) (x goal : Nat) :
    (if p then slewTo step x goal else x) = x
      ∨ ∃ goal', (if p then slewTo step x goal else x) = slewTo step x goal' := by
  split
  · exact .inr ⟨goal, rfl⟩
  · exact .inl rfl

/-- After the playback the channel takes its target, and its output stays or makes one move. -/
theorem slewMove_eq (c : Fin 45) (s : State) : ∃ (aim : Chan → Chan) (y out : Nat),
    (∀ t, (aim t).slewed = t.slewed ∧ (aim t).range = t.range)
      ∧ slewMove c s
        = (((slewPlayed c s).modChan c aim).modChan c fun t => { t with slewed := y }).put F.OLC_CH_OUT_OUT out c
      ∧ (y = (((slewPlayed c s).modChan c aim).chan c).slewed ∨ ∃ goal, y = slewTo
          (chanStep ((slewPlayed c s).modChan c aim) c) (((slewPlayed c s).modChan c aim).chan c).slewed goal) := by
  have hentry (s : State) : (if s.turningOn c && s.grant.running ≠ some (.ramp (c.val / 5)) then (none, s)
    else wavTick c s) = slewEntry c s := rfl
  unfold slewMove
  extract_lets n k lit abs s1
  rw [hentry s1]
  have hplayed : slewPlayed c s = (slewEntry c s1).2 := rfl
  rw [hplayed]
  exact ⟨fun t => { t with absTarget := if abs then (slewEntry c s1).1.map (min (chanMax k)) else none }, _, _,
    fun _ => ⟨rfl, rfl⟩, rfl, slewTo_or_stay ..⟩

/-- One step on the way to a goal is at most the step. -/
theorem slewTo_near (k x goal : Nat) : slewTo (some k) x goal ≤ x + k ∧ x ≤ slewTo (some k) x goal + k := by
  simp only [slewTo]
  split <;> omega

/-- The outputs after a tick of channel c. -/
theorem slewTick_outs {c : Fin 45} {s t : State} (he : exec (.slewTick c) s = .next t) :
    t.outs = (slewMove c (turnOnStart c s)).outs := by
  have hexec : exec (.slewTick c) s
    = .next (slewEnd c ((turnOnStart c s).turningOn c) (slewMove c (turnOnStart c s))) :=
    rfl
  rw [hexec] at he
  cases he
  exact slewEnd_outs ..

/-- The change of a channel's output is seen at that channel alone. -/
theorem State.modChan_outs_slewed (s : State) (c d : Fin 45) (y : Nat) :
    (s.modChan c fun t => { t with slewed := y }).outs d = if d = c then y else s.outs d := by
  have hc : Fin.ofNat 45 c.val = c := Fin.ext (Nat.mod_eq_of_lt c.isLt)
  simp only [State.outs, State.modChan, hc, Fin.getElem_fin, Vector.getElem_set, Fin.val_inj, eq_comm]
  split <;> rfl

/-- The step of a laser channel (R178). -/
theorem chanStep_laser (s : State) (n : Line) : ∃ k, chanStep s (5 * n) = some k
    ∧ k ≤ s.get F.OLC_SAFE_LIM_MAX_SLEW n * max 1 (min 1000 (s.get F.OLC_CH_CFG_DIV (5 * n)))
        * (if (s.chan (5 * n)).range = 0 then 4 else 1)
    ∧ (s.get F.OLC_CH_CFG_STEP (5 * n) ≠ 0 → k ≤ s.get F.OLC_CH_CFG_STEP (5 * n)) := by
  have hlaser : 5 * n.val % 5 = 0 := Nat.mul_mod_right ..
  have hlane : 5 * n.val / 5 = n := Nat.mul_div_cancel_left _ (by decide)
  simp only [chanStep, hlaser, if_true, hlane]
  by_cases hstep : s.get F.OLC_CH_CFG_STEP (5 * n) = 0
  · exact ⟨_, rfl, by rw [if_pos hstep], fun h => absurd hstep h⟩
  · exact ⟨_, rfl, by rw [if_neg hstep]; exact Nat.min_le_right ..,
      fun _ => by rw [if_neg hstep]; exact Nat.min_le_left ..⟩

/-- The output that a tick gives its channel. -/
theorem slewMove_near {s : State} (h : Registers.wf s = true) {c : Fin 45} {k : Nat} (hk : chanStep s c = some k) :
    (slewMove c s).outs c ≤ s.outs c + k ∧ s.outs c ≤ (slewMove c s).outs c + k := by
  obtain ⟨aim, y, out, haim, hmove, hy⟩ := slewMove_eq c s
  have houts := (State.modChan_outs (slewPlayed c s) c fun t => (haim t).1).trans (slewPlayed_outs c s)
  have hstep := (State.modChan_stepView (slewPlayed c s) c fun t => (haim t).2).trans (slewPlayed_stepView h c)
  rw [State.chan_slewed, houts, chanStep_of_stepView hstep, hk] at hy
  have hout : (slewMove c s).outs c = y := by
    rw [hmove, State.put_outs, State.modChan_outs_slewed, if_pos rfl]
  rw [hout]
  rcases hy with rfl | ⟨goal, rfl⟩
  · omega
  · exact slewTo_near ..

theorem slewMove_other {s : State} {c d : Fin 45} (hd : d ≠ c) : (slewMove c s).outs d = s.outs d := by
  obtain ⟨aim, y, out, haim, hmove, -⟩ := slewMove_eq c s
  have houts := (State.modChan_outs (slewPlayed c s) c fun t => (haim t).1).trans (slewPlayed_outs c s)
  rw [hmove, State.put_outs, State.modChan_outs_slewed, if_neg hd, houts]

/-- Settles O55: a tick makes one move of its channel, and nothing else touches an output. -/
theorem slewStep : Obligations.SlewStep := by
  refine ⟨fun c k s t h hk he => ?near, fun c d s t hd he => ?others, fun n s => chanStep_laser s n⟩
  case near =>
    have hwf : Registers.wf (turnOnStart c s) = true := (turnOnStart_keeps (ms := false) c (Keeps.refl s)).regs h
    have hnear := slewMove_near hwf ((chanStep_of_stepView (turnOnStart_stepView h c)).trans hk)
    rwa [State.chan_slewed, State.chan_slewed, slewTick_outs he, ← turnOnStart_outs s c]
  case others =>
    rw [State.chan_slewed, State.chan_slewed, slewTick_outs he, slewMove_other hd, turnOnStart_outs]

end Sys2Proof.Machine
end

section
/-! The mailbox engine's commands, policy, conversions, Fathom, counters, the ECC commands and time (O1 to O6): under
the conditions of a clause the branches of its command come down to the one that the clause names. -/

namespace Sys2Proof.Machine

variable {s : State} {m : MBox} {c : Cmd}

/-- SET_POLICY with its TABLE at the front of its mailbox is executed by that table's effect. -/
theorem setPolicy_fronts {t : Nat} (f : Cmd → State → State) (h : s.fronts m 0x03 c) (ht : c.bits 2 1 0 = t)
    (h3 : t ≠ 3) : setPolicy t m f s = f c s := by
  simp [setPolicy, runCmd_fronts _ h, ht, h3]

/-- PERF_CONFIG with its action at the front of its mailbox is done with that action's effect. -/
theorem perfConfig_fronts {a : Nat} (f : Cmd → State → State) (h : s.fronts m 0x53 c) (ha : c.bits 2 1 0 = a)
    (h3 : a ≠ 3) : perfConfig a f m s = .next ((f c s).finish c .done) := by
  simp [perfConfig, runCmd_fronts _ h, ha, h3]

/-- Settles O1: CANCEL's answers follow its target's window entry, the others their own command's branches. -/
theorem mailboxesComplete : Obligations.MailboxesComplete := by
  refine ⟨?take, ?popCompletion, ?popEvent, ?ping, ?getInfo, ?flushRing, ?flushAll, ?cancelUnknown, ?cancelFinished,
    ?cancelQueued, ?cancelExecuting⟩
  case take =>
    intro s m hrunning hfull
    simp [exec, execMailboxTake, hrunning, hfull]
  case popCompletion =>
    intro s e rest hentries
    simp [exec, execCompletionRingPop, hentries, State.modMbx, Ring.pop]
  case popEvent =>
    exact fun _ => rfl
  case ping =>
    intro s m c hf
    rw [exec, execPing, runCmd_fronts _ hf]
  case getInfo =>
    intro s m c hf
    rw [exec, execGetInfo, runCmd_fronts _ hf]
  case flushRing =>
    intro s m c hf hmode
    simp [exec, execFlushCompletions, runCmd_fronts _ hf, hmode]
  case flushAll =>
    intro s m c hf hmode
    simp [exec, execFlushCompletions, runCmd_fronts _ hf, hmode]
  case cancelUnknown =>
    intro s m c hf htag hmay hfind
    simp only [exec, execCancel, runCmd_fronts _ hf, if_neg htag]
    simp [hmay, hfind]
  case cancelFinished =>
    intro s m c ⟨tag, id, final⟩ hf htag hmay hfind hfinal
    obtain ⟨x, rfl⟩ := Option.isSome_iff_exists.mp hfinal
    simp only [exec, execCancel, runCmd_fronts _ hf, if_neg htag]
    simp [hmay, hfind]
  case cancelQueued =>
    intro s m c d ⟨tag, id, final⟩ hf htag hmay hfind hfinal hid hne hqueued
    cases hfinal
    simp only [exec, execCancel, runCmd_fronts _ hf, if_neg htag]
    simp [hmay, hfind, hid, hne, hqueued]
  case cancelExecuting =>
    intro s m c d ⟨tag, id, final⟩ hf htag hmay hfind hfinal hid hnot
    cases hfinal
    simp only [exec, execCancel, runCmd_fronts _ hf, if_neg htag]
    have hnot' : ¬(d.id ≠ c.id ∧ d.stage = .queued) := fun ⟨hne, hq⟩ => hnot.elim hne fun h => h hq
    simp [hmay, hfind, hid, hnot']

/-- Settles O2: each table's checks decide by the sender's identity and by what the table names. -/
theorem setPolicyObeysItsSenders : Obligations.SetPolicyObeysItsSenders := by
  refine ⟨?allowMask, ?policyBit, ?quota, ?allowDenied, ?noSuchBit, ?quotaDenied⟩
  case allowMask =>
    intro s m c hf hcleat htable hopcode hkeeps
    rw [exec, execSetPolicySender, setPolicy_fronts _ hf htable (by decide)]
    by_cases h : c.bits 2 15 8 = 3
    · simp [hcleat, h, hkeeps h, opcodes]
    · simp [hcleat, h, List.contains_iff_mem.mp hopcode]
  case policyBit =>
    intro s m c hf hcleat htable hbit
    rw [exec, execSetPolicyBit, setPolicy_fronts _ hf htable (by decide)]
    simp [hcleat, hbit]
  case quota =>
    intro s m c hf hcleat htable hclass
    rw [exec, execSetPolicyQuota, setPolicy_fronts _ hf htable (by decide)]
    simp [hcleat, hclass]
  case allowDenied =>
    intro s m c hf htable hopcode hident
    have h3 : c.ident ≠ 3 := by omega
    have h2 : c.ident ≠ 2 := by omega
    have h4 : c.ident ≠ 4 := by omega
    rw [exec, execSetPolicySender, setPolicy_fronts _ hf htable (by decide)]
    simp [List.contains_iff_mem.mp hopcode, h3, h2, h4]
  case noSuchBit =>
    intro s m c hf htable hbit
    rw [exec, execSetPolicyBit, setPolicy_fronts _ hf htable (by decide)]
    simp [hbit]
  case quotaDenied =>
    intro s m c hf htable hclass h3 h2
    rw [exec, execSetPolicyQuota, setPolicy_fronts _ hf htable (by decide)]
    simp [hclass, h3, h2]

/-- Settles O3: the sequencer's enable, the reference's readiness and the conversion in flight decide each event. -/
theorem conversionCommandsComplete : Obligations.ConversionCommandsComplete := by
  refine ⟨?request, ?due, ?round, ?roundLate, ?conversionEnd, ?urgentEnd, ?reference, ?referenceAtBoot, ?anchorRound⟩
  case request =>
    exact fun _ _ _ => rfl
  case due =>
    intro s c htriggered
    simp [exec, execTriggeredConversionDue, htriggered]
  case round =>
    intro s hen hrdy hslots hlate
    simp [exec, execSequencerRound, hen, hrdy, hslots, hlate]
  case roundLate =>
    intro s hen hrdy hlate
    have hbusy : ¬(s.mon.slots = [] ∧ s.mon.roundLate = false) := by
      rintro ⟨hslots, hon⟩
      simp [hslots, hon] at hlate
    simp [exec, execSequencerRound, hen, hrdy, hbusy]
  case conversionEnd =>
    intro s code cv hconv hurgent
    simp [exec, execAdcConversionEnd, hconv, hurgent]
  case urgentEnd =>
    intro s code cv hconv hurgent
    simp [exec, execAdcConversionEnd, hconv, hurgent]
  case reference =>
    intro s hen hrdy hboot
    simp [exec, execReferenceReady, hen, hrdy, hboot]
  case referenceAtBoot =>
    intro s hen hrdy hboot
    simp [exec, execReferenceReady, hen, hrdy, hboot]
  case anchorRound =>
    intro s codes hanchor
    simp [exec, execAnchorMonitorRound, hanchor]

/-- Settles O4: the unit's request, its run and its filter, and PERF_CONFIG's action, decide each command. -/
theorem fathomAndPerformanceComplete : Obligations.FathomAndPerformanceComplete := by
  refine ⟨?sample, ?captureEnd, ?swap, ?written, ?config, ?configStart, ?snapshot, ?setWindow, ?chain, ?sampler,
    ?clearOvf, ?crossing, ?crossingLost⟩
  case sample =>
    intro s i y x hlow hhigh hlevel hprev
    simp [exec, execFathomSample, hlow, hhigh, hlevel, hprev]
  case captureEnd =>
    intro s i hrun hended
    simp [exec, execFathomCaptureEnd, hrun, hended]
  case swap =>
    intro s i hreq hwriting
    rw [exec, execFathomSnapshotSwap, if_pos (by rw [hreq, hwriting]; rfl)]
  case written =>
    intro s i hwriting
    rw [exec, execFathomWriteoutDone, if_pos hwriting]
  case config =>
    intro s m c hf hstart
    simp [exec, execMonConfig, runCmd_fronts _ hf, hstart]
  case configStart =>
    intro s m c hf hstart
    simp [exec, execMonConfig, runCmd_fronts _ hf, hstart]
  case snapshot =>
    intro s m c low rest hf hmask hlive
    have hall : ((low :: rest).any fun i => !fathomLive s i) = false := by
      rw [← List.not_all_eq_any_not, hlive, Bool.not_true]
    simp only [exec, execMonSnapshot, runCmd_fronts _ hf, hmask, hall]
    rfl
  case setWindow =>
    intro s m c hf hcleat hwindow
    simp [exec, execMonSetWindow, runCmd_fronts _ hf, hcleat, hwindow]
  case chain =>
    intro s m c hf haction
    rw [exec, execPerfConfigChain, perfConfig_fronts _ hf haction (by decide)]
  case sampler =>
    intro s m c hf haction
    rw [exec, execPerfConfigSampler, perfConfig_fronts _ hf haction (by decide)]
    simp only [Fin.val_ofNat]
  case clearOvf =>
    intro s m c hf haction
    rw [exec, execPerfConfigClearOvf, perfConfig_fronts _ hf haction (by decide)]
  case crossing =>
    intro s k pc hdue hpend
    simp [exec, execSamplerCrossing, hdue, hpend]
  case crossingLost =>
    intro s k pc hdue hpend
    simp [exec, execSamplerCrossing, hdue, hpend]

/-- Settles O5: a page that the argument names whole, in range and not yet retired takes the next spare page. -/
theorem eccCommandsComplete : Obligations.EccCommandsComplete := by
  refine ⟨?scrub, ?scrubLast, ?log, ?retire⟩
  case scrub =>
    intro s u r hen hanchor hpos
    simp [exec, execScrubRead, hen, hanchor, hpos]
  case scrubLast =>
    intro s u r hen hanchor hpos
    simp [exec, execScrubRead, hen, hanchor, hpos]
  case log =>
    intro s m c hf
    rw [exec, execEccLog, runCmd_fronts _ hf]
  case retire =>
    intro s m c hf hpage hlow hhigh hnew hroom
    have hnamed : (decide ((c.word 2).toNat % 0x1000 ≠ 0) || decide ((c.word 2).toNat < 0x80000000)
        || decide (0x81FBFFFF < (c.word 2).toNat)) = false := by
      rw [decide_eq_false (not_not.mpr hpage), decide_eq_false (Nat.not_lt.mpr hlow),
        decide_eq_false (Nat.not_lt.mpr hhigh)]
      rfl
    simp only [exec, execRetirePage, runCmd_fronts _ hf, hnamed, hnew, ge_iff_le, Nat.not_le.mpr hroom, if_false]
    rfl

/-- Settles O6: each event of time and each command falls into the branch that its conditions name. -/
theorem timeCommandsComplete : Obligations.TimeCommandsComplete := by
  refine ⟨?rawWrap, ?aonWake, ?edge, ?edgeApplies, ?ppsSecond, ?ppsEnd, ?setNow, ?setAtEdge, ?adjustNow, ?adjustLater,
    ?stampConfig, ?setTimeout⟩
  case rawWrap =>
    intro s hrunning hraw
    simp [exec, execRawWrap, hrunning, hraw]
  case aonWake =>
    intro s hanchor
    simp [exec, execCleatAonWake, hanchor]
  case edge =>
    intro s falling hen hanchor hedge hpend
    simp [exec, execPpsInEdge, hen, hanchor, hedge, hpend]
  case edgeApplies =>
    intro s falling clear i a hen hanchor hedge hpend
    simp [exec, execPpsInEdge, hen, hanchor, hedge, hpend]
  case ppsSecond =>
    intro s hallowed hlater
    simp [exec, execPpsOutSecond, hallowed, hlater]
  case ppsEnd =>
    exact fun _ => rfl
  case setNow =>
    intro s m c hf hns hrate hwhen
    simp [exec, execTimeSet, runCmd_fronts _ hf, hns, hrate, hwhen]
  case setAtEdge =>
    intro s m c hf hns hrate hwhen
    simp [exec, execTimeSet, runCmd_fronts _ hf, hns, hrate, hwhen]
  case adjustNow =>
    intro s m c hf hrate hwhen
    simp [exec, execTimeAdjust, runCmd_fronts _ hf, hrate, hwhen]
  case adjustLater =>
    intro s m c hf hrate hwhen hns hnear
    simp [exec, execTimeAdjust, runCmd_fronts _ hf, hrate, hwhen, hns, hnear]
  case stampConfig =>
    intro s m c hf hshift
    have h2 : ¬(c.bits 2 20 20 = 1 ∧ 12 < c.bits 2 19 16) := fun ⟨hset, hover⟩ =>
      absurd (hshift 2 (.inl rfl) hset) (Nat.not_le.mpr hover)
    have h3 : ¬(c.bits 3 20 20 = 1 ∧ 12 < c.bits 3 19 16) := fun ⟨hset, hover⟩ =>
      absurd (hshift 3 (.inr rfl) hset) (Nat.not_le.mpr hover)
    simp [exec, execTimeStampConfig, runCmd_fronts _ hf, h2, h3]
  case setTimeout =>
    intro s c i a clear hpend hcmd
    simp only [exec, execTimeSetPpsTimeout, hpend, hcmd]

end Sys2Proof.Machine
end

section
/-! The host lanes, the line transmitter and its clock, the line receiver and its framing, and the optical front end
(O7 to O13). -/

namespace Sys2Proof.Machine

variable {s : State} {m : MBox} {c : Cmd}

/-- The lanes of a group that all have framing leave the group framed. -/
theorem State.rsmUnframed_eq_false {h : Nat} (hframed : ∀ k ∈ s.rsmGroup h,
    if s.flag F.HST_RSM_CTRL_DIR h then s.hostTxFramed k = true else s.flag F.HST_LANE_STAT_FRAME_LOCK k = true) :
    s.rsmUnframed h = false := by
  rw [State.rsmUnframed, List.any_eq_false]
  intro k hk
  have hk := hframed k hk
  split at hk <;> simp_all

/-- Settles O7: the lane's run, its LOS, LOL and framing, and the group's skew decide each event. -/
theorem hostLanesComplete : Obligations.HostLanesComplete := by
  refine ⟨?pllLock, ?losAssert, ?losDeassert, ?lolAssert, ?lolDeassert, ?cdrLock, ?search, ?searchEnd, ?eqTimeout,
    ?rxBoundary, ?txBoundary, ?codeword, ?skew, ?setEq⟩
  case pllLock =>
    intro s q hpowered hlock
    simp [exec, execHostPllLock, hpowered, hlock]
  case losAssert =>
    intro s h hruns hlos
    simp [exec, execHostLosAssert, hruns, hlos]
  case losDeassert =>
    intro s h hruns hlos
    simp [exec, execHostLosDeassert, hruns, hlos]
  case lolAssert =>
    intro s h hruns hlos hlol hheld
    simp [exec, execHostLolAssert, hruns, hlos, hlol, hheld]
  case lolDeassert =>
    intro s h hruns hlos hlol
    simp [exec, execHostLolDeassert, hruns, hlos, hlol]
  case cdrLock =>
    intro s h hruns hlos hlol
    simp [exec, execHostCdrLock, hruns, hlos, hlol]
  case search =>
    intro s h eye k best code hsearch hk
    simp [exec, execCtleSearchStep, hsearch, hk]
  case searchEnd =>
    intro s h eye best code hsearch
    by_cases hbest : best < eye <;> simp [exec, execCtleSearchStep, hsearch, hbest]
  case eqTimeout =>
    intro s h hcdr hlock
    simp [exec, execHostEqTimeout, hcdr, hlock]
  case rxBoundary =>
    intro s h before after hlock
    simp [exec, execHostRxFrameBoundary, hlock]
  case txBoundary =>
    intro s h levels hframed
    simp [exec, execHostTxFrameBoundary, hframed]
  case codeword =>
    intro s h skew corr unc hgroup hskew hframed
    simp only [exec, execRsmCodeword, List.isEmpty_eq_false_iff.mpr hgroup, Nat.not_lt.mpr hskew,
      State.rsmUnframed_eq_false hframed, Bool.false_eq_true, gt_iff_lt, if_false]
  case skew =>
    intro s h skew corr unc hgroup hskew
    simp [exec, execRsmCodeword, hgroup, hskew]
  case setEq =>
    intro s m c hf hgood hon hwaits
    simp only [exec, execHostSetEq, runCmd_fronts _ hf, hgood, any_not_eq_false hon,
      List.isEmpty_eq_false_iff.mpr hwaits, Bool.false_eq_true, if_false]

/-- A codeword whose turn it is leaves with its injected bits, and restarts its stream's interval. -/
theorem txInject_turn {n : Line} {b : Bool} (cw : BitVec 128) (hinjects : injects n b s) (hturn : injectTurn n b s) :
    txInject n b cw s
      = (injected n b cw s, (s.modTx n fun t => if b then { t with sent := injected n b cw s, injB := 0 }
      else { t with sent := injected n b cw s, injA := 0 }).addSat F.LTX_ERR_INJ_CNT_COUNT 1 n) := by
  simp [txInject, hinjects, hturn]

/-- A stream that its lane carries takes its elastic buffer's fill. -/
theorem exec_elasticBufferSlip {n : Line} {b : Bool} (fill : Int) (hmode : s.mode n ≠ 0)
    (hb : b = true → s.mode n = 3) :
    exec (.elasticBufferSlip n ⟨b, fill⟩) s = .next (bufferFill n b fill s) := by
  have hcarried : ¬(s.mode n = 0 ∨ b = true ∧ ¬s.mode n = 3) := by
    rintro (h | ⟨hb', h⟩)
    · exact hmode h
    · exact h (hb hb')
  simp [exec, execElasticBufferSlip, hcarried]

/-- Settles O8: the turn of an injection, the buffer's fill against its centre and FREEZE decide the events. -/
theorem lineTransmitDataCompletes : Obligations.LineTransmitDataCompletes := by
  refine ⟨?inject, ?fill, ?slip, ?slipMeans, ?mask, ?swing, ?symbol, ?symbolSends, ?calNow, ?calKept⟩
  case inject =>
    intro s n b p hinjects hturn
    simp only [exec, execErrorInjection, hinjects, hturn, Bool.and_self, if_true, txBlock,
      txInject_turn _ hinjects hturn]
  case fill =>
    intro s n b fill hmode hb hnear
    rw [exec_elasticBufferSlip fill hmode hb, bufferFill, if_neg (Nat.not_lt.mpr hnear)]
  case slip =>
    intro s n b fill hmode hb hfar
    rw [exec_elasticBufferSlip fill hmode hb, bufferFill, if_pos hfar]
  case slipMeans =>
    exact fun _ _ _ => rfl
  case mask =>
    rintro s t n a b rfl hen hblocks
    rw [exec, execMaskEstimateEnd, maskEstimate, if_pos (by rw [hen, decide_eq_true hblocks]; rfl)]
  case swing =>
    exact fun _ _ => rfl
  case symbol =>
    rintro s t n data rfl hoff
    rw [exec, execLanyardSymbolBoundary, lydBoundary, hoff]
    rfl
  case symbolSends =>
    rintro s t n data rfl hon
    rw [exec, execLanyardSymbolBoundary, lydBoundary, if_pos hon]
  case calNow =>
    intro s n k v hfreeze hstate
    have hkind : if k = 2 then s.get F.OLC_STAT_STATE n = 2
        else (decide (1 ≤ s.get F.OLC_STAT_STATE n) && decide (s.get F.OLC_STAT_STATE n ≤ 3)) = true := by
      obtain h | ⟨h, hk⟩ := hstate
      · simp [h]
      · simp [h, hk]
    have hlive : s.get F.OLC_STAT_STATE n ≠ 3 := by omega
    simp only [exec, execTxCalResult, hkind, hfreeze, hlive, if_false]
    rfl
  case calKept =>
    intro s n k v hfreeze hlive hk
    simp [exec, execTxCalResult, hfreeze, hlive, hk]

/-- Settles O9: the PLL's state decides its events, the lanes and the staged samples the two commands. -/
theorem transmitClockAndShapingComplete : Obligations.TransmitClockAndShapingComplete := by
  refine ⟨?bandCal, ?lockLoss, ?switch, ?holdover, ?stop, ?shaping, ?pattern, ?patternNoLane⟩
  case bandCal =>
    intro s p hstate
    simp [exec, execTxPllBandCalComplete, hstate]
  case lockLoss =>
    intro s p hstate
    simp [exec, execTxPllLockLoss, hstate]
  case switch =>
    intro s p h hstate hbest
    simp [exec, execTxPllReferenceSwitch, hstate, hbest]
  case holdover =>
    intro s p hstate
    simp [exec, execTxPllHoldoverExpiry, hstate]
  case stop =>
    intro s p hruns hneeds
    simp only [exec, execTxPllStop, hruns, any_eq_false_of hneeds, decide_false, Bool.or_false,
      Bool.false_eq_true, if_false]
  case shaping =>
    intro s m c hf hpd hlen hon hlanes
    simp only [exec, execTxSetShaping, runCmd_fronts _ hf, hpd, hlen, any_not_eq_false hon,
      List.isEmpty_eq_false_iff.mpr hlanes, ne_eq, not_true_eq_false, decide_false, Bool.or_false, Bool.false_eq_true,
      if_false]
  case pattern =>
    intro s m c hf hgood hon hlanes
    simp only [exec, execTxLoadPattern, runCmd_fronts _ hf, hgood, any_not_eq_false hon,
      List.isEmpty_eq_false_iff.mpr hlanes, Bool.false_eq_true, if_false]
  case patternNoLane =>
    intro s m c hf hgood hnone
    simp only [exec, execTxLoadPattern, runCmd_fronts _ hf, hgood, hnone]
    rfl

/-- Settles O10: the gain loop's acquisition, the lane's framing and FREEZE decide the events. -/
theorem receiveFrontEndCompletes : Obligations.ReceiveFrontEndCompletes := by
  refine ⟨?gain, ?gainLimit, ?retrim, ?rotation, ?pllLock, ?calAdc, ?calKept, ?calNow⟩
  case gain =>
    intro s n g hloop
    simp [exec, execTiaGainAcquired, hloop]
  case gainLimit =>
    intro s n high hloop hdone
    simp [exec, execTiaAcqTimeout, hloop, hdone]
  case retrim =>
    intro s n rms256 hretrimming
    simp [exec, execRetrimMeasureDone, hretrimming]
  case rotation =>
    intro s n data hframed
    simp [exec, execAdcRotationTimer, hframed]
  case pllLock =>
    intro s n hpowered hruns
    simp [exec, execRxPllLock, hpowered, hruns]
  case calAdc =>
    exact fun _ _ _ => rfl
  case calKept =>
    intro s n k v hk hfreeze hframed
    simp [exec, execRxCalResult, hk, hfreeze, hframed]
  case calNow =>
    intro s n k v hk hfreeze hframed
    simp [exec, execRxCalResult, hk, hfreeze, hframed]

end Sys2Proof.Machine
end

section
/-! The line receiver's services, its framing and boundaries, and the optical front end (O11 to O13). -/

namespace Sys2Proof.Machine

variable {s : State} {m : MBox} {c : Cmd}

@[simp] theorem State.rx_modRx (n : Nat) (f : Lrx → Lrx) : (s.modRx n f).rx n = f (s.rx n) := by
  simp [State.rx, State.modRx, State.modLanes]

@[simp] theorem State.get_modRx (n : Nat) (f : Lrx → Lrx) (fld : Fld) (k j : Nat) :
    (s.modRx n f).get fld k j = s.get fld k j := (rfl)

/-- The line receiver's checker has the fields that checker names. -/
theorem chkLevel_rx {n : Line} {level e : Nat} {x : Chk} (hsrc : s.get F.LRX_CHK_CTRL_SRC n ≠ 0)
    (hinvert : s.flag F.LRX_CHK_CTRL_INVERT n = false)
    (hnext : (s.rx n).chk.next (s.get F.LRX_CHK_CTRL_SRC n) (s.get F.LRX_CHK_CTRL_SQ_HALF n) level = (x, some e)) :
    chkLevel (.rx n) level s = if s.flag F.LRX_CHK_STAT_SYNC n then
      chkCount (.rx n) [F.LRX_CHK_STAT_SYNC, F.LRX_CHK_STAT_SYNC_LOST, F.LRX_CHK_CTRL_SRC, F.LRX_CHK_CTRL_INVERT,
        F.LRX_CHK_CTRL_SQ_HALF, F.LRX_CHK_SYM_COUNT, F.LRX_CHK_BIT_COUNT] n x level e s
    else if level ≠ e then s.setChk (.rx n) (({} : Chk).next (s.get F.LRX_CHK_CTRL_SRC n)
      (s.get F.LRX_CHK_CTRL_SQ_HALF n) level).1
    else if x.run < 63 then s.setChk (.rx n) { x with run := x.run + 1 }
    else (s.setChk (.rx n) { x with errs := [] }).put F.LRX_CHK_STAT_SYNC 1 n := by
  simp [chkLevel, checker, State.chk, hsrc, hinvert, hnext]

/-- The 32nd error within 1,024 symbols ends the checker's synchronisation. -/
theorem chkCount_lost {n : Line} {level e : Nat} {x : Chk} (hne : level ≠ e)
    (herrs : 31 ≤ (x.errs.filter fun a => a + 1 < 1024).length) :
    chkCount (.rx n) [F.LRX_CHK_STAT_SYNC, F.LRX_CHK_STAT_SYNC_LOST, F.LRX_CHK_CTRL_SRC, F.LRX_CHK_CTRL_INVERT,
        F.LRX_CHK_CTRL_SQ_HALF, F.LRX_CHK_SYM_COUNT, F.LRX_CHK_BIT_COUNT] n x level e s
      = ((((s.addSat F.LRX_CHK_SYM_COUNT 1 n).addSat F.LRX_CHK_BIT_COUNT
          (((grayBits level).1 != (grayBits e).1).toNat + ((grayBits level).2 != (grayBits e).2).toNat) n).modRx n
          fun t => { t with chk := {} }).put F.LRX_CHK_STAT_SYNC 0 n).put F.LRX_CHK_STAT_SYNC_LOST 1 n := by
  have hfull : 32 ≤ ((x.errs.map (· + 1)).filter (· < 1024) ++ [0]).length := by
    simpa [List.filter_map, Function.comp_def] using herrs
  simp only [chkCount, hne, if_false, if_pos hfull]
  rfl

/-- A powered receiver processes its samples in order. -/
theorem rxData_powered {n : Line} (data : RxData) (h : s.powered (.lrx n)) :
    rxData n data s = data.foldl (fun s x => rxSample n x s) (s.modChain n fun c => { c with out := [] }) := by
  rw [rxData, if_pos h]

@[simp] theorem get_capWrite (n : Nat) (b : Byte) (fld : Fld) (k j : Nat) :
    (capWrite n [b] s).get fld k j = s.get fld k j := (rfl)

@[simp] theorem capPost_capWrite (n : Nat) (b : Byte) : ((capWrite n [b] s).rx n).capPost = (s.rx n).capPost := by
  rw [capWrite, State.rx_modRx]
  rfl

/-- Settles O11: the defects' flags, the checker's engine and the capture's state decide the events. -/
theorem receiveEventsAndServicesComplete : Obligations.ReceiveEventsAndServicesComplete := by
  refine ⟨?losAssert, ?losDeassert, ?lolAssert, ?timingLock, ?slotLock, ?slotLost, ?slotKept, ?lineChecker,
    ?hostChecker, ?checkerSync, ?checkerLost, ?trigger, ?stop, ?postTrigger, ?capture, ?captureTimeout, ?eqPolicy⟩
  case losAssert =>
    intro s n hruns hlos
    simp [exec, execLosAssert, hruns, hlos]
  case losDeassert =>
    intro s n hruns hlos
    simp [exec, execLosDeassert, hruns, hlos]
  case lolAssert =>
    intro s n range hruns hlos hlol hheld hmode
    simp [exec, execLolAssert, hruns, hlos, hlol, hheld, hmode]
  case timingLock =>
    intro s n freq hruns hlos hlock
    simp [exec, execTimingRecoveryLock, hruns, hlos, hlock]
  case slotLock =>
    intro s n even odd w hmode hlock hvisits htiming heven hodd
    simp [exec, execSlotLockWindowEnd, hmode, hlock, hvisits, htiming, heven, hodd]
  case slotLost =>
    intro s n even odd w hmode hlock heven hodd
    simp [exec, execSlotLockWindowEnd, hmode, hlock, heven, hodd]
  case slotKept =>
    intro s n even odd w hmode hlock hgood
    have hnot : ¬(even < 32 ∧ odd < 32) := by omega
    simp [exec, execSlotLockWindowEnd, hmode, hlock, hnot]
  case lineChecker =>
    intro s n line host hpowered
    simp only [exec, execCheckerSyncAcquired, execCheckerSyncLost, checkerData, rxData_powered _ hpowered, and_self]
  case hostChecker =>
    intro s h line host hpowered
    simp [exec, execCheckerSyncAcquired, execCheckerSyncLost, checkerData, hostData, hpowered]
  case checkerSync =>
    intro s n level x hsrc hinvert hsync hnext hrun
    rw [chkLevel_rx hsrc hinvert hnext, if_neg (by simp [hsync]), if_neg (by simp), if_neg (Nat.not_lt.mpr hrun)]
    rfl
  case checkerLost =>
    intro s n level e x hsrc hinvert hsync hnext hne herrs
    rw [chkLevel_rx hsrc hinvert hnext, if_pos hsync, chkCount_lost hne herrs]
  case trigger =>
    intro s t n data hdata hstate htrig
    simp [exec, execCaptureTrigger, hdata, hstate, htrig]
  case stop =>
    intro s n data hpowered
    rw [exec, execCaptureStop, rxData_powered _ hpowered]
  case postTrigger =>
    intro s n code z hstate hshare
    simp [capSample, capActive, hstate, hshare]
  case capture =>
    intro s m c hf hlane hon hactive
    simp [exec, execCaptureAdc, runCmd_fronts _ hf, hlane, hon, hactive]
  case captureTimeout =>
    intro s n hstate hwaits
    simp [exec, execCaptureAdcTimeout, hstate, hwaits]
  case eqPolicy =>
    rintro s m c all hf rfl hsome hlanes hhosts
    simp only [exec, execRxSetEqPolicy, runCmd_fronts _ hf, any_not_eq_false hlanes, any_not_eq_false hhosts,
      List.isEmpty_eq_false_iff.mpr hsome, Bool.or_self, Bool.false_eq_true, if_false]

/-- A command whose changes fit its lanes leaves them pending and waits for their boundaries. -/
theorem laneMapCmd_accepted {ch : List (Nat × Word)} (hon : ∀ x ∈ ch, s.laneOn x.1 = true) (hfit : mapAccepts s ch)
    (hsome : ch ≠ []) :
    laneMapCmd c ch s = (ch.foldl (fun s x => cfgPend x.1 x.2 s) s).await c (.laneCfg (ch.map Prod.fst)) := by
  simp only [laneMapCmd, any_not_eq_false hon, hfit, List.isEmpty_eq_false_iff.mpr hsome, Bool.not_true,
    Bool.false_eq_true, if_false]

/-- Settles O12: CORE, the visit in progress, the framer's lock and the lane's framing decide the events. -/
theorem framingAndBoundariesComplete : Obligations.FramingAndBoundariesComplete := by
  refine ⟨?firstSlot, ?nextSlot, ?newRound, ?visitSpoiled, ?visitRetired, ?setMode, ?map, ?lock, ?keep, ?keepOther,
    ?missed, ?rxLost, ?txLost, ?hostLost, ?txBoundary, ?rxBoundary, ?rxUnframed, ?hostRxUnframed, ?hostTxUnframed,
    ?txUnframed, ?txProbes⟩
  case firstSlot =>
    intro s hcore hvisiting hstarted
    simp [exec, execWinchSlot, hcore, hvisiting, hstarted]
  case nextSlot =>
    intro s hcore hvisiting hstarted hslot
    simp [exec, execWinchSlot, hcore, hvisiting, hstarted, hslot]
  case newRound =>
    intro s hcore hvisiting hstarted hslot
    simp [exec, execWinchSlot, hcore, hvisiting, hstarted, hslot]
  case visitSpoiled =>
    intro s codes lv off i hvisiting hspoiled
    simp [exec, execWinchVisitEnd, hvisiting, hspoiled]
  case visitRetired =>
    intro s codes lv off i hvisiting hspoiled
    simp [exec, execWinchVisitEnd, hvisiting, hspoiled]
  case setMode =>
    intro s m c hf hon hfit hsome
    rw [exec, execLaneSetMode, runCmd_fronts _ hf, laneMapCmd_accepted hon hfit hsome]
  case map =>
    intro s m c hf hon hfit hsome
    rw [exec, execLaneMap, runCmd_fronts _ hf, laneMapCmd_accepted hon hfit hsome]
  case lock =>
    intro s f hruns hlock hfound
    simp [exec, execAmGroupArrival, hruns, hlock, hfound]
  case keep =>
    intro s f hruns hlock
    simp [exec, execAmGroupArrival, hruns, hlock]
  case keepOther =>
    intro s f hruns hlock
    simp [exec, execAmGroupArrival, hruns, hlock]
  case missed =>
    intro s f hlock hfew
    simp [exec, execAmPositionMissed, hlock, hfew]
  case rxLost =>
    intro s n b hlock hmany
    simp [exec, execAmPositionMissed, hlock, hmany]
  case txLost =>
    intro s n b hlock hmany
    simp [exec, execAmPositionMissed, hlock, hmany]
  case hostLost =>
    intro s h hlock hmany
    simp [exec, execAmPositionMissed, hlock, hmany]
  case txBoundary =>
    intro s n fillA fillB data hframed
    simp [exec, execTxAmBoundary, hframed]
  case rxBoundary =>
    intro s n codes lv am hframed
    simp [exec, execRxAmBoundary, hframed]
  case rxUnframed =>
    intro s n hframed
    simp [exec, execPendingChangeNoFraming, hframed]
  case hostRxUnframed =>
    intro s h hlock
    simp [exec, execPendingChangeNoFraming, hlock]
  case hostTxUnframed =>
    intro s h hframed
    simp [exec, execPendingChangeNoFraming, hframed]
  case txUnframed =>
    intro s t n hframed ht hnoProbe
    have hnot : ¬(t.laneTrans n = true ∧ t.laneTarget n = 4) := by
      rintro ⟨htrans, htarget⟩
      simp [htrans, htarget] at hnoProbe
    simp [exec, execPendingChangeNoFraming, hframed, ht, hnot]
  case txProbes =>
    intro s t n hframed ht htrans htarget hlow hhigh
    simp [exec, execPendingChangeNoFraming, hframed, ht, htrans, htarget, hlow, hhigh]

/-- Settles O13: the lanes' states, the PLL's state and the latest conversions decide the events. -/
theorem opticalLanesComplete : Obligations.OpticalLanesComplete := by
  refine ⟨?setState, ?probe, ?probeEnd, ?txDisable, ?txEnable, ?slew, ?heater, ?token, ?segmentEnd, ?lockin, ?pllLocked,
    ?pllLockedRx, ?pllReady, ?laneFault, ?globalFault, ?lockstep, ?lockstepMeans⟩
  case setState =>
    intro s m c hf htarget hgood hlanes
    simp [exec, execLaneSetState, runCmd_fronts _ hf, htarget, hgood, hlanes]
  case probe =>
    intro s t m c hf hlane hstart
    simp [exec, execLaneProbe, runCmd_fronts _ hf, hlane, hstart]
  case probeEnd =>
    intro s n p hprobe hstate hheld
    simp [exec, execProbeDurationEnd, hprobe, hstate, hheld]
  case txDisable =>
    exact fun _ _ => rfl
  case txEnable =>
    exact fun _ _ => rfl
  case slew =>
    exact fun _ _ => rfl
  case heater =>
    exact fun _ _ _ => rfl
  case token =>
    exact fun _ => rfl
  case segmentEnd =>
    intro s n hrunning
    simp [exec, execTokenSegmentEnd, hrunning]
  case lockin =>
    intro s n m hruns
    simp [exec, execLockinPeriodEnd, hruns]
  case pllLocked =>
    intro s p h hstate href hpick
    simp [exec, execTxPllLocked, hstate, href, hpick]
  case pllLockedRx =>
    intro s p hstate href
    simp [exec, execTxPllLocked, hstate, href]
  case pllReady =>
    intro s p hstate hready
    simp [exec, execTxPllReady, hstate, hready]
  case laneFault =>
    intro s b n hb hshows
    have h5 : b ≠ 5 := by
      rintro rfl
      exact absurd hb (by decide)
    simp only [exec, execSafetyFault, hshows, hb, h5, Bool.not_true, Bool.false_eq_true, if_false, if_true]
  case globalFault =>
    intro s b n hb h5 hshows
    simp [exec, execSafetyFault, hb, h5, hshows]
  case lockstep =>
    rintro s b n rfl
    rfl
  case lockstepMeans =>
    exact fun _ => rfl

end Sys2Proof.Machine
end

section
/-! Protection, its agreement over the Lanyard, and Capstan (O14 to O16). -/

namespace Sys2Proof.Machine

variable {s : State} {m : MBox} {c : Cmd}

/-- LANE_PROTECT with its action, a lead time that it may have and L8 present is executed by that action's effect. -/
theorem laneProtect_fronts {a : Nat} (f : Cmd → Nat → State → State) (h : s.fronts m 0x24 c) (ha : c.bits 2 3 0 = a)
    (hlead : c.bits 2 31 24 = 0 ∨ 15 < c.bits 2 31 24) (hl8 : s.l8Present) (h3 : a ≤ 3) :
    laneProtect f a m s = .next (f c (c.bits 2 10 8) s) := by
  have hgood : ¬(1 ≤ c.bits 2 31 24 ∧ c.bits 2 31 24 ≤ 15) := by omega
  simp [laneProtect, runCmd_fronts _ h, ha, Nat.not_lt.mpr h3, hgood, hl8]

/-- Settles O14: the protection's state decides each command and each event. -/
theorem protectionCompletes : Obligations.ProtectionCompletes := by
  refine ⟨?arm, ?disarm, ?disarmIdle, ?switch, ?revert, ?armTimeout, ?agreedSwitch, ?agreedRevert, ?emergency, ?l8Fails,
    ?l8Returns⟩
  case arm =>
    intro s m c hf haction hlead hl8 hstate _ hgood
    have hfree : ¬(s.protState ≠ 0 ∧ s.protState ≠ 4) := fun ⟨h0, h4⟩ => hstate.elim h0 h4
    rw [exec, execLaneProtectArm, laneProtect_fronts _ hf haction hlead hl8 (by decide)]
    simp [hfree, hgood]
  case disarm =>
    intro s m c hf haction hlead hl8 hnot3 hsome
    have hbusy : ¬(s.protState = 0 ∧ s.laneState 8 = 0) := fun ⟨h0, hoff⟩ => hsome.elim (· h0) (· hoff)
    rw [exec, execLaneProtectDisarm, laneProtect_fronts _ hf haction hlead hl8 (by decide)]
    simp [hnot3, hbusy]
  case disarmIdle =>
    intro s m c hf haction hlead hl8 hstate hoff
    rw [exec, execLaneProtectDisarm, laneProtect_fronts _ hf haction hlead hl8 (by decide)]
    simp [hstate, hoff]
  case switch =>
    intro s m c hf haction hlead hl8 hstate hlane hopen hstage
    rw [exec, execLaneProtectSwitch, laneProtect_fronts _ hf haction hlead hl8 (by decide)]
    simp [hstate, hlane, hopen, hstage]
  case revert =>
    intro s m c hf haction hlead hl8 hstate hlane hopen hstage
    rw [exec, execLaneProtectRevert, laneProtect_fronts _ hf haction hlead hl8 (by decide)]
    simp [hstate, hlane, hopen, hstage]
  case armTimeout =>
    intro s hstate
    simp [exec, execProtectArmTimeout, hstate, and_assoc]
  case agreedSwitch =>
    exact fun _ => rfl
  case agreedRevert =>
    exact fun _ => rfl
  case emergency =>
    intro s hstate hemergency hframed
    simp [exec, execEmergencySwitch, hstate, hemergency, hframed]
  case l8Fails =>
    intro s hstate hreturning hfailed
    simp [exec, execL8FailRevert, hstate, hreturning, hfailed]
  case l8Returns =>
    intro s hreturning hframed
    simp [exec, execL8FailSelectionReturn, hreturning, hframed]

/-- Settles O15: the side's ROLE, STAGE and agreement identity decide what a frame of the agreement does. -/
theorem agreementCompletes : Obligations.AgreementCompletes := by
  refine ⟨?propose, ?deadline, ?finalPoint, ?finalAbandons, ?sameAccept, ?lowerSerial, ?accept, ?refuse, ?acceptAgain,
    ?acceptInTime, ?acceptLate, ?confirm, ?abandon, ?asymmetry, ?notify⟩
  case propose =>
    intro s hrole hstage hrunning
    simp [exec, execProposeRepeat, hrole, hstage, hrunning]
  case deadline =>
    intro s hrole hstage hseq
    simp [exec, execProposeDeadline, hrole, hstage, hseq]
  case finalPoint =>
    intro s hopen hstage hseq
    simp [exec, execProtectFinalPoint, hopen, hstage, hseq]
  case finalAbandons =>
    intro s hopen hstage hseq
    simp [exec, execProtectFinalPoint, hopen, hstage, hseq]
  case sameAccept =>
    intro s n b hdelivers hrole hlow hhigh hid
    simp [exec, execProtectProposeRx, hdelivers, hrole, hlow, hhigh, hid]
  case lowerSerial =>
    intro s n b hdelivers hopen hrole hlower hserial
    simp [exec, execProtectProposeRx, hdelivers, hopen, hrole, hlower, hserial]
  case accept =>
    intro s n b hdelivers hopen hrole hnone
    simp [exec, execProtectProposeRx, hdelivers, hopen, hrole, hnone]
  case refuse =>
    intro s n b r hdelivers hopen hrole hwhy
    simp [exec, execProtectProposeRx, hdelivers, hopen, hrole, hwhy]
  case acceptAgain =>
    intro s n b hdelivers hrole hid hstage
    simp [exec, execProtectAcceptRx, hdelivers, hrole, hid, hstage]
  case acceptInTime =>
    intro s n b left hdelivers hrole hid hstage hleft hsome hsoon
    simp only [exec, execProtectAcceptRx, ← hleft]
    simp [hdelivers, hrole, hid, hstage, hsome, Nat.not_lt.mpr hsoon]
  case acceptLate =>
    intro s n b left hdelivers hrole hid hstage hleft hlate
    simp only [exec, execProtectAcceptRx, ← hleft]
    simp [hdelivers, hrole, hid, hstage, hlate]
  case confirm =>
    intro s n b hdelivers hrole hstage hid hki
    simp [exec, execProtectConfirmRx, hdelivers, hrole, hstage, hid, hki]
  case abandon =>
    intro s n b hdelivers hid hbefore
    have hnot : ¬((s.frameIn n).get F.LYD_AGREE_STAT_ROLE = 1 ∧ ((s.frameIn n).get F.LYD_AGREE_STAT_STAGE = 4
        ∨ (s.frameIn n).get F.LYD_AGREE_STAT_STAGE = 6)) := by omega
    simp only [exec, execProtectAbandonRx]
    simp [hdelivers, hid, hnot]
  case asymmetry =>
    intro s n b hdelivers hid hrole hstage
    simp [exec, execProtectAbandonRx, hdelivers, hid, hrole, hstage]
  case notify =>
    intro s n b hdelivers
    simp [exec, execProtectNotifyRx, hdelivers]

/-- Settles O16: the store's contexts and the places and times of its codewords decide the events. -/
theorem capstanCompletes : Obligations.CapstanCompletes := by
  refine ⟨?firstPass, ?slice, ?iterate, ?contextEmpty, ?writeback, ?writebackFull, ?release, ?releaseL8, ?window,
    ?fires, ?setPolicy⟩
  case firstPass =>
    intro s n b pos dt codes off tie htakes
    simp [exec, execFirstPassDecode, htakes]
  case slice =>
    intro s hcore
    simp [exec, execSliceBoundary, hcore]
  case iterate =>
    intro s e k dt tie w since t hcore ht hflight hreleased hconverged hsince hgoing hdeadline
    have hgoing' : ¬(8 ≤ dt.val ∧ w.finished s.cap.maxIter (t - 8) = true) := by
      rintro ⟨h8, hfinished⟩
      simp [hgoing h8] at hfinished
    simp only [exec, execCapstanIterationResult, ← ht]
    simp [hcore, hflight, hreleased, hconverged, Int.not_lt.mpr hsince, hgoing', Int.not_lt.mpr hdeadline]
  case contextEmpty =>
    intro s e k dt t ht hcontext hcore
    simp only [exec, execWritebackEntry, ← ht]
    simp [hcontext, hcore]
  case writeback =>
    intro s e k dt w t ht hcontext hcore hfinished hroom
    simp only [exec, execWritebackEntry, ← ht]
    simp [hcontext, hcore, hfinished, hroom]
  case writebackFull =>
    intro s e k dt w t ht hcontext hcore hfinished hfull
    simp only [exec, execWritebackEntry, ← ht]
    simp [hcontext, hcore, hfinished, Nat.not_lt.mpr hfull]
  case release =>
    intro s n b dt pos w t hcore hown ht hpos hswitched hwaits htime
    have hown' : ¬(n.val = 8 ∧ selSwitched s = true) := by
      rintro ⟨h8, hsel⟩
      simp [h8, hsel] at hown
    simp only [exec, execCodewordRelease, ← ht]
    simp [hcore, hown', hpos, hswitched, hwaits, htime]
  case releaseL8 =>
    intro s n b dt pos t hcore hown ht hpos hswitched
    have hown' : ¬(n.val = 8 ∧ selSwitched s = true) := by
      rintro ⟨h8, hsel⟩
      simp [h8, hsel] at hown
    simp only [exec, execCodewordRelease, ← ht]
    simp [hcore, hown', hpos, hswitched]
  case window =>
    intro s hstate hleft hquiet
    have hrun : ¬(s.protState ≠ 2 ∧ s.protState ≠ 3) := fun ⟨h2, h3⟩ => hstate.elim h2 h3
    have hquiet' : ¬((wasteBeyond s = true ∧ s.lanes.prot.ratioReady = true) ∧ s.lanes.prot.onRatio = true) := by
      rintro ⟨⟨hbeyond, hready⟩, hon⟩
      simp [hbeyond, hready, hon] at hquiet
    simp [exec, execWasteWindowEnd, hrun, hleft, hquiet']
  case fires =>
    intro s hstate hleft hbeyond hready hon
    have hrun : ¬(s.protState ≠ 2 ∧ s.protState ≠ 3) := fun ⟨h2, h3⟩ => hstate.elim h2 h3
    simp [exec, execWasteWindowEnd, hrun, hleft, hbeyond, hready, hon]
  case setPolicy =>
    intro s m c hf hgood hfree hcore
    have hfree' : ¬(c.on 4 9 = true ∧ deadlineHeld s = true) := by
      rintro ⟨hset, hheld⟩
      simp [hset, hheld] at hfree
    simp only [exec, execCapstanSetPolicy, runCmd_fronts _ hf]
    simp [hgood, hfree', hcore]

end Sys2Proof.Machine
end

section
/-! The Lanyard's link, its commands and the frames that it delivers (O17 and O18). -/

namespace Sys2Proof.Machine

variable {s : State} {m : MBox} {c : Cmd}

@[simp] theorem State.chain_modChain (n : Nat) (f : Chain → Chain) :
    ((s.modChain n f).lydOf n).chain = f (s.lydOf n).chain := by
  simp [State.modChain, State.modLyd, State.lydOf]

/-- LANYARD_PARTNER with its action and a lane at the front of its mailbox acts, and answers the partner's record. -/
theorem lanyardPartner_fronts {a : Nat} (f : Nat → State → State) (h : s.fronts m 0x72 c) (hlane : c.bits 2 3 0 ≤ 8)
    (ha : c.bits 2 9 8 = a) (h3 : a ≠ 3) :
    lanyardPartner a f m s = .next ((f (c.bits 2 3 0) s).finish c .done
      ((f (c.bits 2 3 0) s).get F.LYD_PTR_INFO_PARTNER_ID (c.bits 2 3 0)
        + 16 * (f (c.bits 2 3 0) s).get F.LYD_PTR_INFO_VALID (c.bits 2 3 0)
        + 256 * (f (c.bits 2 3 0) s).get F.LYD_PART_CNT_COUNT)) := by
  simp [lanyardPartner, runCmd_fronts _ h, Nat.not_lt.mpr hlane, ha, h3]

/-- Settles O17: the lane's enables, the synchroniser's state and the command's words decide the events. -/
theorem lanyardLinkAndCommandsComplete : Obligations.LanyardLinkAndCommandsComplete := by
  refine ⟨?block, ?chain, ?settled, ?header, ?badHeader, ?frameEnd, ?hello, ?telemetry, ?telemetryResult, ?time,
    ?config, ?send, ?sendTimeout, ?partnerRead, ?partnerHello, ?partnerForget, ?txadjPolicy⟩
  case block =>
    intro s t n data soft slip snr fofs hdata hen hsettled hlos
    simp [exec, execLanyardBlock, hdata, hen, hsettled, hlos]
  case chain =>
    intro s n data hpowered
    rw [exec, execLanyardChainSettled, rxData_powered _ hpowered]
  case settled =>
    intro s t n x y hdc hcount
    have hfull : min 40 ((t.lydOf n).chain.count + 1) = 40 := by omega
    simp [chainDeliver, hdc, hfull]
  case header =>
    rintro s t n hdr body fcs hlock rfl hgood
    simp only [exec, execLanyardHeaderFound, hlock, hgood]
    generalize lydBody n body (beVal fcs = crc32 body) s = t
    rcases t.get F.LYD_PHY_STAT_SYNC_ST n with _ | _ | k <;> rfl
  case badHeader =>
    rintro s t n hdr body fcs hlock rfl hbad hsync
    simp only [exec, execLanyardHeaderFound, hlock, hbad, apply_ite Host.Outcome.next]
    revert hsync
    generalize lydBody n body (beVal fcs = crc32 body) s = t
    rcases t.get F.LYD_PHY_STAT_SYNC_ST n with _ | _ | k <;> intro hsync
    · exact absurd hsync (by decide)
    · exact absurd hsync (by decide)
    · rfl
  case frameEnd =>
    intro s n pilot hen
    simp [exec, execLanyardFrameEnd, hen]
  case hello =>
    intro s n hrunning hon
    simp [exec, execHelloPeriod, hrunning, hon]
  case telemetry =>
    intro s n hrunning hon hper
    simp [exec, execTelemetryPeriod, hrunning, hon, hper]
  case telemetryResult =>
    intro s n r hrunning hon hper
    simp [exec, execTelemetryPeriod, hrunning, hon, hper]
  case time =>
    intro s n hrunning hon hper
    simp [exec, execTimePeriod, hrunning, hon, hper]
  case config =>
    intro s m c hf hdepth hlanes
    have hdepth' : ¬(c.bits 3 13 13 = 1 ∧ (c.bits 3 12 8 < 4 ∨ 24 < c.bits 3 12 8)) := by omega
    have hlanes' : ¬(c.bits 3 3 3 = 1 ∧ ((maskLanes 9 (c.bits 2 8 0)).any fun n => !s.laneOn n) = true) := by
      rintro ⟨hset, hsome⟩
      simp [any_not_eq_false (hlanes hset)] at hsome
    simp only [exec, execLanyardConfig, runCmd_fronts _ hf]
    rw [if_neg (by simpa using hdepth'), if_neg (by simpa using hlanes')]
  case send =>
    intro s m c hf hlane hsome hlen hpartner hcap hroom
    simp only [exec, execLanyardSend, runCmd_fronts _ hf]
    simp [Nat.not_lt.mpr hlane, hsome, Nat.not_lt.mpr hlen, hpartner, hcap, Nat.not_le.mpr hroom]
  case sendTimeout =>
    intro s n u rest c huser hcmd
    simp only [exec, execLanyardSendTimeout, huser, hcmd]
  case partnerRead =>
    intro s m c hf hlane haction
    rw [exec, execLanyardPartnerRead, lanyardPartner_fronts _ hf hlane haction (by decide)]
  case partnerHello =>
    intro s m c hf hlane haction
    rw [exec, execLanyardPartnerHello, lanyardPartner_fronts _ hf hlane haction (by decide)]
  case partnerForget =>
    intro s m c hf hlane haction
    rw [exec, execLanyardPartnerForget, lanyardPartner_fronts _ hf hlane haction (by decide)]
  case txadjPolicy =>
    intro s m c hf
    rw [exec, execLanyardTxadjPolicy, runCmd_fronts _ hf]

/-- Settles O18: what a delivered frame says, against the partner and the message it belongs to, decides its effect. -/
theorem lanyardReceptionCompletes : Obligations.LanyardReceptionCompletes := by
  refine ⟨?hello, ?helloMissed, ?telemetry, ?result, ?time, ?request, ?requestDenied, ?fragment, ?reassemblyTimeout⟩
  case hello =>
    intro s n b pilot hdelivers
    simp [exec, execHelloRx, hdelivers]
  case helloMissed =>
    intro s n hpartner
    simp only [exec, execHelloPeriodMissed, hpartner, apply_ite Host.Outcome.next]
    rfl
  case telemetry =>
    intro s n b hdelivers
    simp [exec, execTelemetryRx, hdelivers]
  case result =>
    intro s n b hdelivers
    simp [exec, execTxadjResultRx, hdelivers]
  case time =>
    rintro s t n flags b pilot t4 hdelivers rfl hstamp hechoed htwoWay hvalid hflag
    simp only [exec, execTimeRx, hdelivers, hstamp, hechoed, htwoWay, hvalid, hflag]
    rfl
  case request =>
    intro s n b hdelivers hlane hpartner hknown hwaiting hallows hheld
    simp [exec, execTxadjRequestRx, hdelivers, hlane, hpartner, hknown, hwaiting, hallows, hheld]
  case requestDenied =>
    intro s n b hdelivers hlane hpartner hknown hwaiting hallows
    simp [exec, execTxadjRequestRx, hdelivers, hlane, hpartner, hknown, hwaiting, hallows]
  case fragment =>
    intro s n b hdelivers hindex hcount
    simp only [exec, execUserFragmentRx, hdelivers, Nat.not_le.mpr hindex, Nat.not_lt.mpr hcount,
      apply_ite Host.Outcome.next]
    rfl
  case reassemblyTimeout =>
    intro s n id hsome
    simp [exec, execUserReassemblyTimeout, hsome]

end Sys2Proof.Machine
end

section
/-! Boot, the firmware commands and CDB firmware management (O19 and O20). -/

namespace Sys2Proof.Machine

/-- Settles O19: the images of the two slots, the restart in progress and the unlock policy decide the commands. -/
theorem bootAndFirmwareComplete : Obligations.BootAndFirmwareComplete := by
  refine ⟨?porRelease, ?riggerRelease, ?restart, ?coreHalt, ?watchdog, ?imageLoaded, ?fwStatus, ?restartRunning,
    ?restartOther, ?attest, ?certificate, ?unlock, ?boundaryScan⟩
  case porRelease =>
    intro s scl sda t hheld hvin
    exact exec_porRelease scl sda t hheld hvin
  case riggerRelease =>
    rintro s t hheld hreleased hflag hrigger rfl
    simp only [exec, execRiggerRelease, hheld, hreleased, hflag, hrigger, Option.isNone_iff_eq_none,
      apply_ite Host.Outcome.next]
    rfl
  case restart =>
    intro s r hrestart
    simp only [exec, execRiggerRestart, hrestart]
  case coreHalt =>
    exact fun _ _ => rfl
  case watchdog =>
    intro s hwdog hen
    simp [exec, execWatchdogExpiry, hwdog, hen]
  case imageLoaded =>
    rintro s t r other hrestart hloaded rfl rfl
    simp [exec, execRiggerImageLoaded, hrestart, hloaded, apply_ite Host.Outcome.next, and_assoc]
  case fwStatus =>
    intro s m c hf
    rw [exec, execFwStatus, runCmd_fronts _ hf]
  case restartRunning =>
    intro s m c hf hslot hwrite
    simp [exec, execFwRestartRunning, runCmd_fronts _ hf, hslot, hwrite]
  case restartOther =>
    intro s m c hf hslot hwrite
    simp [exec, execFwRestartOther, runCmd_fronts _ hf, hslot, hwrite]
  case attest =>
    intro s m c hf hkind
    simp [exec, execAttestReport, runCmd_fronts _ hf, hkind]
  case certificate =>
    intro s m c hf hkind
    simp [exec, execAttestCertificate, runCmd_fronts _ hf, hkind]
  case unlock =>
    intro s factory key sig hpolicy hpermanent hfails
    simp only [exec, execDebugUnlockResponse, hpolicy, hpermanent, Nat.not_le.mpr hfails,
      apply_ite Host.Outcome.next]
    rfl
  case boundaryScan =>
    intro s hopen
    simp [exec, execBoundaryScanEntry, hopen]

/-- Settles O20: the CDB's readiness, the download and the write in progress decide the commands. -/
theorem cdbFirmwareCompletes : Obligations.CdbFirmwareCompletes := by
  refine ⟨?start, ?abort, ?blockLpl, ?blockEpl, ?complete, ?written, ?writeFailed, ?writtenPushed, ?run, ?commit,
    ?query, ?info, ?unknown⟩
  case start =>
    intro s len h htakes hwrite hheader hlen
    have hheader' : ¬120 < h.length + 8 := by omega
    simp only [exec, execCdbStartDownload, htakes, hwrite, hheader', Nat.not_lt.mpr hlen]
    rfl
  case abort =>
    intro s htakes
    simp [exec, execCdbAbortDownload, htakes]
  case blockLpl =>
    exact fun _ _ _ => rfl
  case blockEpl =>
    exact fun _ _ _ => rfl
  case complete =>
    intro s d htakes hdownload
    simp only [exec, execCdbCompleteDownload, htakes, hdownload]
    cases imageFail s s.stagedImage s.stagedImage.type (s.slotMajor (s.fw.completed.getD s.fw.slotB)) <;> rfl
  case written =>
    intro s w hwrite hpushed
    simp [exec, execFlashWriteComplete, hwrite, hpushed]
  case writeFailed =>
    intro s w hwrite hpushed
    simp [exec, execFlashWriteComplete, hwrite, hpushed]
  case writtenPushed =>
    intro s w hwrite hpushed
    simp [exec, execFlashWriteComplete, hwrite, hpushed]
  case run =>
    intro s mode b htakes hmode hwrite hcompleted
    simp [exec, execCdbRunImage, htakes, hmode, hwrite, hcompleted]
  case commit =>
    intro s t htakes hcommit
    simp [exec, execCdbCommitImage, htakes, hcommit]
  case query =>
    exact fun _ => ⟨rfl, rfl, rfl⟩
  case info =>
    intro s htakes
    simp [exec, execCdbGetFwInfo, htakes]
  case unknown =>
    intro s htakes
    simp [exec, execCdbUnknownCommand, htakes]

end Sys2Proof.Machine
end

section
/-! The data paths, power, ANCHOR, self-test and service life (O21 to O24). -/

namespace Sys2Proof.Machine

variable {s : State} {m : MBox} {c : Cmd}

/-- Settles O21: the module's readiness and the checks of the staged configuration decide the commands. -/
theorem dataPathCommandsComplete : Obligations.DataPathCommandsComplete := by
  refine ⟨?dpinit, ?immediate, ?advance, ?deinit, ?disableTx, ?deferred, ?token⟩
  case dpinit =>
    intro s b k mask hruns hcheck
    simp [exec, execCmisApplyDpinit, hruns, hcheck]
  case immediate =>
    intro s b k mask hruns hkept hgood
    simp only [exec, execCmisApplyImmediate, hruns, List.all_eq_true.mpr hkept, any_eq_false_of hgood]
    rfl
  case advance =>
    intro s h i hruns hpath
    simp [exec, execDatapathStateAdvance, hruns, hpath]
  case deinit =>
    rintro s t b v rfl hruns
    simp only [exec, execDpdeinitWrite, hruns]
    rfl
  case disableTx =>
    rintro s t b v rfl hruns
    simp only [exec, execOutputDisableTxWrite, hruns]
    rfl
  case deferred =>
    intro s n
    simp [exec, execDeferredLiveTimeout]
  case token =>
    intro s n
    simp [exec, execTokenWaitTimeout]

/-- SET_POWER_STATE with a time that it may set and, to enter ANCHOR, in low power, sets its words. -/
theorem exec_setPowerState (h : s.fronts m 0x06 c) (htime : c.on 2 4 → 10 ≤ c.bits 2 31 16)
    (hlow : c.bits 3 0 0 = 1 → s.cmis.mod = .lowPwr) :
    exec (.setPowerState m) s = .next (if c.bits 3 0 0 = 1 then anchorAttempt ((anchorSet c s).finish c .done)
      else (anchorSet c s).finish c .done) := by
  have htime' : ¬(c.on 2 4 = true ∧ c.bits 2 31 16 < 10) := fun ⟨hset, hshort⟩ =>
    absurd (htime hset) (Nat.not_le.mpr hshort)
  have hlow' : ¬(c.bits 3 0 0 = 1 ∧ ¬s.cmis.mod = .lowPwr) := fun ⟨hone, hnot⟩ => hnot (hlow hone)
  simp only [exec, execSetPowerState, runCmd_fronts _ h]
  simp [htime', hlow']

/-- Settles O22: the module's state, the supplies and the step that runs decide the commands. -/
theorem powerCompletes : Obligations.PowerCompletes := by
  refine ⟨?powerUp, ?powerDown, ?idleGate, ?ungate, ?mgmtInit, ?setState, ?enterAnchor, ?accounting, ?accountingUpdate,
    ?refLoss, ?refBack, ?blockEnable, ?powerOnCold, ?powerOnWarm, ?settle, ?brownOut, ?vinLoss, ?watchdog⟩
  case powerUp =>
    intro s hmod hrunning
    simp [exec, execPowerUpComplete, hmod, hrunning]
  case powerDown =>
    intro s hmod hoff
    have hall : ((List.range 9).all fun n => s.laneState n = 0 && !s.laneTrans n) = true := by
      rw [List.all_eq_true]
      intro n hn
      simp [hoff n (List.mem_range.mp hn)]
    simp only [exec, execPowerDownComplete, hmod, hall, decide_true, Bool.and_self, if_true]
  case idleGate =>
    intro s hactive hassigned hlock
    simp [exec, execCoreIdleGate, hactive, hassigned, hlock]
  case ungate =>
    intro s hrunning
    simp [exec, execCoreUngateComplete, hrunning]
  case mgmtInit =>
    intro s hheld hmod hboot
    have hready : (s.fw.running || decide (s.get F.TOP_BOOT_STAT_BOOT / 128 % 2 = 1) || s.bst.noRigger) = true := by
      simpa [or_assoc] using hboot
    simp only [exec, execMgmtinitComplete, hheld, hmod, hready]
    rfl
  case setState =>
    intro s m c hf htime hstay
    rw [exec_setPowerState hf htime (by simp [hstay]), if_neg (by simp [hstay])]
  case enterAnchor =>
    intro s m c hf htime henter hlow
    rw [exec_setPowerState hf htime fun _ => hlow, if_pos henter]
  case accounting =>
    intro s m c hf
    rw [exec, execGetPowerAccounting, runCmd_fronts _ hf]
  case accountingUpdate =>
    intro s mW mA v hheld
    simp [exec, execPowerAccountingUpdate, hheld]
  case refLoss =>
    rintro s t hheld hsrc rfl
    simp only [exec, execMemsReferenceLoss, hheld, hsrc, apply_ite Host.Outcome.next]
    rfl
  case refBack =>
    rintro s t hheld hsrc rfl
    simp only [exec, execReferenceRestored, hheld, hsrc, apply_ite Host.Outcome.next]
    rfl
  case blockEnable =>
    intro s b henabling
    rw [exec, execBlockEnableComplete, if_pos henabling]
  case powerOnCold =>
    intro s hvin
    simp [exec, execPowerOn, hvin]
  case powerOnWarm =>
    intro s hvin
    simp [exec, execPowerOn, hvin]
  case settle =>
    intro s hheld hvin
    simp [exec, execMemsSettleTimeout, hheld, hvin]
  case brownOut =>
    intro s b hvin
    simp [exec, execBrownOut, hvin]
  case vinLoss =>
    intro s hvin
    simp [exec, execVinLoss, hvin]
  case watchdog =>
    exact fun _ => rfl

/-- Settles O23: the entry's stage, the refuser and the wake's level decide the commands. -/
theorem anchorCommandsComplete : Obligations.AnchorCommandsComplete := by
  refine ⟨?idle, ?halted, ?refused, ?window, ?windowWoken, ?wakes, ?wakeLow, ?wakeAlarm, ?keep, ?filled⟩
  case idle =>
    intro s hauto
    simp [exec, execAnchorIdleTimeout, hauto]
  case halted =>
    intro s hentry hrefuser
    simp [exec, execAnchorRiggerHalted, hentry, hrefuser]
  case refused =>
    intro s hentry hrefuser
    simp [exec, execAnchorRiggerHalted, hentry]
  case window =>
    intro s cleat hentry hlevel
    simp [exec, execAnchorWindowClose, hentry, hlevel]
  case windowWoken =>
    intro s cleat k hentry hlevel
    simp [exec, execAnchorWindowClose, hentry, hlevel]
  case wakes =>
    exact fun _ => ⟨rfl, rfl, rfl⟩
  case wakeLow =>
    intro s hlow
    simp [exec, execWakeEvent, hlow]
  case wakeAlarm =>
    intro s halarm
    simp [exec, execWakeEvent, halarm]
  case keep =>
    intro s hanchor hwake
    simp [exec, execWakeKeepReached, hanchor, hwake]
  case filled =>
    intro s k hwake hanchor
    simp [exec, execWakeSramFilled, hwake, hanchor]

/-- Settles O24: the blocks that BIST_RUN names, the tests left and the service life's age decide the commands. -/
theorem serviceCommandsComplete : Obligations.ServiceCommandsComplete := by
  refine ⟨?bistRun, ?blockDone, ?tests, ?repair, ?life, ?retired, ?minute, ?record⟩
  case bistRun =>
    intro s m c hf hblocks hfree hsome
    have hknown : (maskLanes 22 (c.bits 2 21 0)).any [13, 14, 16, 18].contains = false :=
      any_eq_false_of fun b hb => by
        obtain ⟨h13, h14, h16, h18, -⟩ := hblocks b hb
        simp [h13, h14, h16, h18]
    have hon : (maskLanes 22 (c.bits 2 21 0)).any (bistOff s) = false :=
      any_eq_false_of fun b hb => (hblocks b hb).2.2.2.2
    simp only [exec, execBistRun, runCmd_fronts _ hf, hknown, hfree, hon, List.isEmpty_eq_false_iff.mpr hsome,
      Bool.false_eq_true, if_false]
  case blockDone =>
    intro s failed us m0 m1 m2 b rest hleft
    simp [exec, execBistBlockDone, hleft]
  case tests =>
    intro s m c hf hselect
    simp only [exec, execBistResult, runCmd_fronts _ hf, hselect]
  case repair =>
    intro s m c hf hselect
    simp only [exec, execBistResult, runCmd_fronts _ hf, hselect]
  case life =>
    intro s m c hf hselect
    simp only [exec, execBistResult, runCmd_fronts _ hf, hselect]
  case retired =>
    intro s e rest hpending
    simp only [exec, execRetireLedgerWritten, hpending]
  case minute =>
    intro s hheld
    simp [exec, execLifetimeMinute, hheld]
  case record =>
    intro s hdue
    rw [exec, execLifetimeRecordAppend, if_pos (by simpa using hdue)]
    rfl

end Sys2Proof.Machine
end

section
/-! Hawser, the management interface and its bus, and the knots of one device and of a gang (O25 to O30). -/

namespace Sys2Proof.Machine

variable {s : State} {m : MBox} {c : Cmd}

/-- Settles O25: the port's state, the leader's and the token's state decide the events. -/
theorem hawserLinkCompletes : Obligations.HawserLinkCompletes := by
  refine ⟨?detect, ?training, ?symbolLock, ?caps, ?trainTimeout, ?lockTimeout, ?los, ?losEnd, ?lolOff, ?lol, ?link,
    ?replay, ?discovery, ?assign, ?done, ?sync, ?syncReq, ?syncResp, ?token, ?tokenGone, ?roundEnd, ?stepEnd, ?stepNone⟩
  case detect =>
    intro s p hstate hmgmt
    simp [exec, execHawserDetectPulse, hstate, hmgmt]
  case training =>
    intro s t p pre post askPre askPost done hstate ht
    simp [exec, execTrainingSetRx, hstate, ht]
  case symbolLock =>
    intro s p hstate
    simp [exec, execHawserSymbolLock, hstate]
  case caps =>
    intro s p caps hstate
    simp [exec, execCapsRx, hstate]
  case trainTimeout =>
    intro s p hstate
    simp [exec, execHawserStateTimeout, hstate]
  case lockTimeout =>
    intro s p hstate
    rcases hstate with hstate | hstate <;> simp [exec, execHawserStateTimeout, hstate]
  case los =>
    exact fun _ _ => rfl
  case losEnd =>
    exact fun _ _ => rfl
  case lolOff =>
    intro s p cdr line hstate
    simp [exec, execHawserLol, hstate]
  case lol =>
    intro s p cdr line hstate
    simp [exec, execHawserLol, hstate]
  case link =>
    intro s p ack credits hstate hblocked
    simp [exec, execLinkFrameRx, hstate, hblocked]
  case replay =>
    intro s p ack credits q hstate hblocked
    simp [exec, execLinkFrameRx, hstate, hblocked]
  case discovery =>
    intro s hleads hreport hdisc
    simp [exec, execDiscoveryDelayExpiry, hleads, hreport, hdisc]
  case assign =>
    intro s u next l e h hopen
    simp [exec, execAssignRx, hopen]
  case done =>
    intro s p r hopen
    simp [exec, execDoneRx, hopen]
  case sync =>
    intro s p hupstream
    simp only [exec, execSyncPeriod, hupstream]
  case syncReq =>
    intro s p d hcarries
    simp [exec, execSyncReqRx, hcarries]
  case syncResp =>
    intro s p t2 t3 e coarse invalid t1 hupstream ht1
    simp [exec, execSyncRespRx, hupstream, ht1]
  case token =>
    intro s t head ht
    simp only [exec, execPgtkiRise, ← ht, Bool.and_eq_true, List.isEmpty_iff, Bool.not_eq_true',
      apply_ite Host.Outcome.next]
  case tokenGone =>
    exact fun _ => rfl
  case roundEnd =>
    intro s hhead hpassed
    simp [exec, execPowerGrantRoundEnd, hhead, hpassed]
  case stepEnd =>
    rintro s t low p rfl hrunning
    simp only [exec, execPowerGrantStepEnd, hrunning, apply_ite Host.Outcome.next]
  case stepNone =>
    intro s t low ht hrunning
    simp only [exec, execPowerGrantStepEnd, ← ht, hrunning, Bool.and_eq_true, Bool.not_eq_true', and_assoc,
      apply_ite Host.Outcome.next]

/-- Settles O26: the pin's level and its time, the privileges and the module's readiness decide the controls. -/
theorem managementControlsComplete : Obligations.ManagementControlsComplete := by
  refine ⟨?lowPower, ?modsel, ?reset, ?resetShort, ?softwareReset, ?password, ?passwordChange, ?freeze, ?unfreeze,
    ?monitors, ?flags⟩
  case lowPower =>
    exact fun _ _ _ => rfl
  case modsel =>
    exact fun _ _ => rfl
  case reset =>
    intro s p hlow
    simp [exec, execSidebandReset, hlow]
  case resetShort =>
    intro s p hnot
    have hnot' : ¬(resetLow s p = true ∧ 10000 ≤ p.ns.toNat) := by
      rintro ⟨hlow, hlong⟩
      rcases hnot with hhigh | hshort
      · simp [hhigh] at hlow
      · omega
    simp [exec, execSidebandReset, hnot']
  case softwareReset =>
    exact fun _ => rfl
  case password =>
    exact fun _ _ => rfl
  case passwordChange =>
    intro s v hpriv hpolicy
    simp [exec, execHostPasswordChange, hpriv, hpolicy]
  case freeze =>
    intro s hruns
    simp [exec, execVdmFreeze, hruns]
  case unfreeze =>
    intro s hruns
    simp [exec, execVdmUnfreeze, hruns]
  case monitors =>
    intro s hruns
    simp [exec, execCmisMonitorRefresh, hruns]
  case flags =>
    exact fun _ => rfl

/-- KNOT_CINCH of its kind marks a knot that it does not refuse, and goes on with it. -/
theorem cinch_fronts {kind k : Nat} (f : Cmd → Nat → State → State) (h : s.fronts m 0x42 c)
    (hkind : c.bits 3 1 0 = kind)
    (hk : knotOf c s = .ok k) (hgood : cinchRefusal kind c k s = none) :
    cinch kind m f s = f c k (cinchMarked kind c k s) := by
  simp [cinch, runCmd_fronts _ h, hkind, hk, hgood]

/-- Settles O27: the handle's knot, its state and what the command is refused for decide the commands. -/
theorem knotCommandsComplete : Obligations.KnotCommandsComplete := by
  refine ⟨?opened, ?stage, ?immediate, ?am, ?time, ?abandon, ?status, ?idle, ?amUnarmed, ?amArmed⟩
  case opened =>
    intro s m c k hf hfree
    simp only [exec, execKnotOpen, runCmd_fronts _ hf, hfree]
  case stage =>
    rintro s m c k all hf hcount hk rfl hgood
    simp only [exec, execKnotStage, runCmd_fronts _ hf, Nat.not_lt.mpr hcount, gt_iff_lt, if_false, hk, hgood]
  case immediate =>
    intro s m c k hf hkind hk hgood
    rw [exec, execKnotCinchImmediate, cinch_fronts _ hf hkind hk hgood]
  case am =>
    intro s m c k hf hkind hk hgood
    rw [exec, execKnotCinchAm, cinch_fronts _ hf hkind hk hgood]
  case time =>
    intro s m c k hf hkind hk hgood
    rw [exec, execKnotCinchTime, cinch_fronts _ hf hkind hk hgood]
  case abandon =>
    intro s m c k hf hk hstate
    simp [exec, execKnotAbandon, runCmd_fronts _ hf, hk, hstate]
  case status =>
    intro s m c hf
    rw [exec, execKnotStatus, runCmd_fronts _ hf]
  case idle =>
    intro s k hstate hchecking hidle
    simp [exec, execKnotIdleExpiry, hstate, hchecking, hidle]
  case amUnarmed =>
    intro s k hkind hstate
    simp [exec, execKnotAmWaitExpiry, hkind, hstate]
  case amArmed =>
    intro s k hkind hstate
    simp [exec, execKnotAmWaitExpiry, hkind, hstate]

/-- Settles O29: the knot's kind, its checks and its part in the gang decide the events. -/
theorem gangKnotCompletes : Obligations.GangKnotCompletes := by
  refine ⟨?cinched, ?immediate, ?am, ?late, ?inTime, ?failed, ?commit, ?abort, ?repeated, ?deadline, ?timeAdjust,
    ?fires, ?lags, ?digest⟩
  case cinched =>
    intro s m c k hleads hf hkind hk hgood
    have hown : (!s.leads && s.hws.leader.isSome) = false := by
      rcases hleads with hleads | hnone
      · simp [hleads]
      · simp [hnone]
    rw [exec, execKnotCinchGang, hown, if_neg Bool.false_ne_true, cinch_fronts _ hf hkind hk hgood]
  case immediate =>
    intro s k hchecking hcheck hkind
    simp [exec, execKnotReady, hchecking, hcheck, hkind]
  case am =>
    intro s k hchecking hcheck hkind hleads
    simp [exec, execKnotReady, hchecking, hcheck, hkind, hleads]
  case late =>
    intro s k hchecking hcheck hkind hlate
    simp [exec, execKnotReady, hchecking, hcheck, hkind, hlate]
  case inTime =>
    intro s k hchecking hcheck hkind hlate
    have hnot0 : s.get F.KNT_SLOT_INFO_KIND k ≠ 0 := by omega
    simp only [exec, execKnotReady, hchecking, hcheck, hlate, hnot0, if_false, apply_ite Host.Outcome.next]
    simp
  case failed =>
    intro s k st a hchecking hcheck
    simp [exec, execKnotReady, hchecking, hcheck]
  case commit =>
    intro s k hleads hasked hcommitted hall
    simp [exec, execGangDecisionPoint, hleads, hasked, hcommitted, hall]
  case abort =>
    intro s k q hleads hasked hcommitted hsilent
    simp [exec, execGangDecisionPoint, hleads, hasked, hcommitted, hsilent]
  case repeated =>
    intro s k l hcommitted happlied
    simp [exec, execGangCommitRepeat, hcommitted, happlied]
  case deadline =>
    intro s k hstate hleads
    simp [exec, execParticipantDeadline, hstate, hleads]
  case timeAdjust =>
    exact fun _ => rfl
  case fires =>
    exact fun _ _ => rfl
  case lags =>
    intro s i hleads hlagging
    simp only [exec, execEpochLagTimeout, hleads, hlagging]
    rfl
  case digest =>
    intro s hmgmt
    simp [exec, execDigestRecompute, hmgmt]

/-- Settles O30: the bus's answer, the address and the access in flight decide the transactions. -/
theorem managementBusCompletes : Obligations.ManagementBusCompletes := by
  refine ⟨?write, ?read, ?setdasa, ?rstdaa, ?getpid, ?windowRead, ?windowWrite, ?windowDone, ?fathom, ?perf,
    ?perfDenied⟩
  case write =>
    intro s off data x hanswers hx
    simp [exec, execI2cWrite, hanswers, hx]
  case read =>
    intro s off k hanswers
    simp [exec, execI2cRead, hanswers]
  case setdasa =>
    intro s a hanswers haddr
    simp [exec, execI3cCcc, hanswers, haddr]
  case rstdaa =>
    intro s hanswers
    simp [exec, execI3cCcc, hanswers]
  case getpid =>
    intro s hanswers
    simp [exec, execI3cCcc, hanswers]
  case windowRead =>
    exact fun _ _ => rfl
  case windowWrite =>
    exact fun _ _ => rfl
  case windowDone =>
    intro s st d hheld
    simp only [exec, execWindowAccessComplete, hheld]
  case fathom =>
    exact fun _ => rfl
  case perf =>
    intro s hallowed
    simp only [exec, execPerfWindowCopy, if_pos hallowed]
  case perfDenied =>
    intro s hdenied
    rw [exec, execPerfWindowCopy, hdenied, if_neg Bool.false_ne_true]

end Sys2Proof.Machine
end

section
/-! The frames of a gang and the commands of its leader (O28). -/

namespace Sys2Proof.Machine

variable {s : State} {m : MBox} {c : Cmd}

/-- GANG_CONFIG with its action at the leader is executed by that action's effect. -/
theorem gangConfig_fronts {a : Nat} (f : Cmd → State → State) (h : s.fronts m 0x81 c) (hleads : s.leads)
    (ha : c.bits 2 2 0 = a) (h4 : a ≤ 4) : gangConfig a m f s = f c s := by
  simp [gangConfig, runCmd_fronts _ h, hleads, ha, Nat.not_lt.mpr h4]

/-- A member that has a record and a route is not lost. -/
theorem member_not_lost {i : Nat} (hmember : s.member i ≠ none) (hroute : s.hwRoute i ≠ none) :
    ((s.member i).isNone || (s.hwRoute i).isNone) = false := by
  simp [Option.isSome_iff_ne_none.mpr hmember, Option.isSome_iff_ne_none.mpr hroute]

/-- Settles O28: the frame's effect is its own arrival's, and the leader's records decide the commands. -/
theorem gangFramesAndCommandsComplete : Obligations.GangFramesAndCommandsComplete := by
  refine ⟨?epoch, ?msg, ?taken, ?completion, ?dropped, ?push, ?prepare, ?prepared, ?refused, ?commit, ?abort, ?applied,
    ?statusFrame, ?forward, ?status, ?parameters, ?list, ?rediscover, ?pushSegments, ?reload, ?pushTimeout⟩
  case epoch =>
    exact fun _ _ _ _ _ _ _ _ _ => rfl
  case msg =>
    exact fun _ _ _ _ _ _ _ => rfl
  case taken =>
    exact fun _ _ _ _ => rfl
  case completion =>
    intro s p h w0 a b st og e r final m l first last hst hog
    simp only [exec, execCompletionRx, hst, hog]
  case dropped =>
    exact fun _ _ _ _ _ _ _ => rfl
  case push =>
    exact fun _ _ _ _ _ _ => rfl
  case prepare =>
    exact fun _ _ _ _ _ _ => rfl
  case prepared =>
    exact fun _ _ _ _ => rfl
  case refused =>
    exact fun _ _ _ _ _ => rfl
  case commit =>
    exact fun _ _ _ _ => rfl
  case abort =>
    exact fun _ _ _ _ => rfl
  case applied =>
    exact fun _ _ _ _ => rfl
  case statusFrame =>
    exact fun _ _ _ _ => rfl
  case forward =>
    intro s m c r hf hop hother hsize hleads hmember hopen
    have hopen' : ¬(r.quarantine = true ∧ quarantineOpen (c.bits 2 15 8) = false) := by
      rintro ⟨hquarantine, hclosed⟩
      simp [hquarantine, hclosed] at hopen
    simp only [exec, execGangForward, runCmd_fronts _ hf]
    simp [hop, hother, Nat.not_le.mpr hsize, hleads, hmember, hopen']
  case status =>
    intro s m c hf
    rw [exec, execGangStatus, runCmd_fronts _ hf]
  case parameters =>
    intro s m c hf hleads haction hperiod hlimit
    have hperiod' : ¬(c.on 3 10 = true ∧ (c.bits 3 9 0 < 50 ∨ 500 < c.bits 3 9 0)) := by
      rintro ⟨hset, hout⟩
      have hin := hperiod hset
      omega
    have hlimit' : ¬(c.on 3 24 = true ∧ (c.bits 3 23 16 < 1 ∨ 100 < c.bits 3 23 16)) := by
      rintro ⟨hset, hout⟩
      have hin := hlimit hset
      omega
    rw [exec, execGangConfigParameters, gangConfig_fronts _ hf hleads haction (by decide),
      if_neg (by simpa [-not_and, not_or] using And.intro hperiod' hlimit')]
  case list =>
    intro s m c hf hleads haction hlistable
    rw [exec, execGangConfigList, gangConfig_fronts _ hf hleads haction (by decide),
      if_neg (by simp [hlistable])]
  case rediscover =>
    rintro s t m c hf hleads haction rfl
    rw [exec, execGangConfigRediscover, gangConfig_fronts _ hf hleads haction (by decide)]
  case pushSegments =>
    intro s m c hf hleads haction hmember hroute
    simp only [exec, execGangConfigPush, gangConfig_fronts _ hf hleads haction (by decide),
      member_not_lost hmember hroute, Bool.false_eq_true, if_false]
  case reload =>
    intro s m c hf hleads haction hmember hroute
    simp only [exec, execGangConfigReload, gangConfig_fronts _ hf hleads haction (by decide),
      member_not_lost hmember hroute, Bool.false_eq_true, if_false]
  case pushTimeout =>
    exact fun _ _ => rfl

end Sys2Proof.Machine
end

section
/-! The register accesses that the checks of R27 let through (O31 to O33). -/

namespace Sys2Proof.Machine

/-- Settles O31: a granted write does what the rule of its register says. -/
theorem lineAndOpticalWritesComplete : Obligations.LineAndOpticalWritesComplete := by
  refine ⟨?ltxLaneCfgWrite, ?shapeApply, ?maskCtrl, ?maskLimit, ?txCalRevert, ?tiaRetrim, ?winchReseed, ?rxCalRevert,
    ?captureArm, ?captureAbort, ?deadlineWrite, ?capstanSnapshot, ?hostTxApply, ?hostLoopbackSet, ?rsmEnable,
    ?rsmSnapshot, ?olcReqWrite, ?probeGo, ?lbRangeWrite, ?olcCodeWrite, ?strobeWrite, ?waveformStart, ?waveformStop,
    ?faultClear, ?lydTxEnWrite, ?lydRxEnWrite, ?lydCoefWrite, ?userSlotFree, ?laneReset⟩
  case ltxLaneCfgWrite =>
    exact fun q n v s hw =>
      (accWrite_done R.LTX_LANE_CFG_mem n.isLt (by decide) rfl hw).trans (by rw [R.LTX_LANE_CFG_write])
  case shapeApply =>
    exact fun q n v s hw =>
      (accWrite_done R.LTX_SHAPE_CTRL_mem n.isLt (by decide) rfl hw).trans (by rw [R.LTX_SHAPE_CTRL_write])
  case maskCtrl =>
    exact fun q n v s hw =>
      (accWrite_done R.LTX_MASK_CTRL_mem n.isLt (by decide) rfl hw).trans (by rw [R.LTX_MASK_CTRL_write])
  case maskLimit =>
    exact fun q n m v s hw =>
      (accWrite_done R.LTX_MASK_LIM_mem n.isLt m.isLt rfl hw).trans (by rw [R.LTX_MASK_LIM_write])
  case txCalRevert =>
    exact fun q n v s hw =>
      (accWrite_done R.LTX_CAL_CTRL_mem n.isLt (by decide) rfl hw).trans (by rw [R.LTX_CAL_CTRL_write])
  case tiaRetrim =>
    exact fun q n v s hw =>
      (accWrite_done R.LRX_TIA_CTRL_mem n.isLt (by decide) rfl hw).trans (by rw [R.LRX_TIA_CTRL_write])
  case winchReseed =>
    exact fun q i v s hw =>
      (accWrite_done R.WNC_LANE_CFG_mem i.isLt (by decide) rfl hw).trans (by simp [R.WNC_LANE_CFG_write])
  case rxCalRevert =>
    exact fun q n v s hw =>
      (accWrite_done R.LRX_CAL_CTRL_mem n.isLt (by decide) rfl hw).trans (by rw [R.LRX_CAL_CTRL_write])
  case captureArm =>
    exact fun q n v s hw =>
      (accWrite_done R.LRX_CAP_CTRL_mem n.isLt (by decide) rfl hw).trans (by rw [R.LRX_CAP_CTRL_write])
  case captureAbort =>
    exact fun q n v s hw =>
      (accWrite_done R.LRX_CAP_CTRL_mem n.isLt (by decide) rfl hw).trans (by rw [R.LRX_CAP_CTRL_write])
  case deadlineWrite =>
    exact fun q v s hw => (accWrite_done R.CAP_CTRL_mem (by decide) (by decide) rfl hw).trans (by rw [R.CAP_CTRL_write])
  case capstanSnapshot =>
    exact fun q s hw => (accWrite_done R.CAP_SNAP_mem (by decide) (by decide) rfl hw).trans (by rw [R.CAP_SNAP_write])
  case hostTxApply =>
    exact fun q i v s hw =>
      (accWrite_done R.HST_TX_CTRL_mem i.isLt (by decide) rfl hw).trans (by rw [R.HST_TX_CTRL_write])
  case hostLoopbackSet =>
    exact fun q i v s hw =>
      (accWrite_done R.HST_TEST_CTRL_mem i.isLt (by decide) rfl hw).trans (by rw [R.HST_TEST_CTRL_write])
  case rsmEnable =>
    exact fun q i v s hw =>
      (accWrite_done R.HST_RSM_CTRL_mem i.isLt (by decide) rfl hw).trans (by rw [R.HST_RSM_CTRL_write])
  case rsmSnapshot =>
    exact fun q i v s hw =>
      (accWrite_done R.HST_RSM_CTRL_mem i.isLt (by decide) rfl hw).trans (by rw [R.HST_RSM_CTRL_write])
  case olcReqWrite =>
    exact fun q n v s hw => (accWrite_done R.OLC_CTRL_mem n.isLt (by decide) rfl hw).trans (by rw [R.OLC_CTRL_write])
  case probeGo =>
    exact fun q n v s hw => (accWrite_done R.OLC_PROBE_mem n.isLt (by decide) rfl hw).trans (by rw [R.OLC_PROBE_write])
  case lbRangeWrite =>
    exact fun q n v s hw => (accWrite_done R.OLC_CODE_mem n.isLt (by decide) rfl hw).trans (by rw [R.OLC_CODE_write])
  case olcCodeWrite =>
    exact fun q n k v s hw => (accWrite_done R.OLC_CODE_mem n.isLt k.isLt rfl hw).trans (by rw [R.OLC_CODE_write])
  case strobeWrite =>
    exact fun q v s hw =>
      (accWrite_done R.OLC_STROBE_mem (by decide) (by decide) rfl hw).trans (by rw [R.OLC_STROBE_write])
  case waveformStart =>
    exact fun q c v s hw =>
      (accWrite_done R.OLC_CH_WAV_mem c.isLt (by decide) rfl hw).trans (by rw [R.OLC_CH_WAV_write])
  case waveformStop =>
    exact fun q c v s hw =>
      (accWrite_done R.OLC_CH_WAV_mem c.isLt (by decide) rfl hw).trans (by rw [R.OLC_CH_WAV_write])
  case faultClear =>
    exact fun q n v s hw => (accWrite_done R.OLC_FAULT_mem n.isLt (by decide) rfl hw).trans (by rw [R.OLC_FAULT_write])
  case lydTxEnWrite =>
    exact fun q n v s hw => (accWrite_done R.LYD_CTRL_mem n.isLt (by decide) rfl hw).trans (by rw [R.LYD_CTRL_write])
  case lydRxEnWrite =>
    exact fun q n v s hw => (accWrite_done R.LYD_CTRL_mem n.isLt (by decide) rfl hw).trans (by rw [R.LYD_CTRL_write])
  case lydCoefWrite =>
    exact fun q n m v s hw => (accWrite_done R.LYD_FIR_mem n.isLt m.isLt rfl hw).trans (by rw [R.LYD_FIR_write])
  case userSlotFree =>
    exact fun q v s hw =>
      (accWrite_done R.LYD_USER_FREE_mem (by decide) (by decide) rfl hw).trans (by rw [R.LYD_USER_FREE_write])
  case laneReset =>
    exact fun q v s hw =>
      (accWrite_done R.PWR_LANE_RST_mem (by decide) (by decide) rfl hw).trans (by rw [R.PWR_LANE_RST_write])

/-- Settles O32: as O31, for the registers of management. -/
theorem managementRegisterWritesComplete : Obligations.ManagementRegisterWritesComplete := by
  refine ⟨?eccInjectArm, ?eccLogClear, ?timeApplyRate, ?timeApplyStep, ?timeClearCoarse, ?riggerReady, ?watchdogKick,
    ?urgentConversion, ?referenceEnable, ?fathomStart, ?fathomCfgStop, ?fathomFiltStop, ?fathomBinStop,
    ?fathomBaseStop, ?fathomLimStop, ?perfSnapshot, ?blockEnableWrite, ?softwareAonReset, ?hawserPortEnable,
    ?hawserRetrain⟩
  case eccInjectArm =>
    exact fun q v s hw =>
      (accWrite_done R.ECC_INJ_CTRL_mem (by decide) (by decide) rfl hw).trans (by rw [R.ECC_INJ_CTRL_write])
  case eccLogClear =>
    exact fun q v s hw => (accWrite_done R.ECC_CTRL_mem (by decide) (by decide) rfl hw).trans (by rw [R.ECC_CTRL_write])
  case timeApplyRate =>
    exact fun q v s hw =>
      (accWrite_done R.TIM_ADJ_CTRL_mem (by decide) (by decide) rfl hw).trans (by rw [R.TIM_ADJ_CTRL_write])
  case timeApplyStep =>
    exact fun q v s hw =>
      (accWrite_done R.TIM_ADJ_CTRL_mem (by decide) (by decide) rfl hw).trans (by rw [R.TIM_ADJ_CTRL_write])
  case timeClearCoarse =>
    exact fun q v s hw =>
      (accWrite_done R.TIM_ADJ_CTRL_mem (by decide) (by decide) rfl hw).trans (by rw [R.TIM_ADJ_CTRL_write])
  case riggerReady =>
    exact fun c v s hw =>
      (accWrite_done R.TOP_RIG_CTRL_mem (by decide) (by decide) rfl hw).trans (by rw [R.TOP_RIG_CTRL_write])
  case watchdogKick =>
    exact fun c v s hw =>
      (accWrite_done R.TOP_RIG_CTRL_mem (by decide) (by decide) rfl hw).trans (by rw [R.TOP_RIG_CTRL_write])
  case urgentConversion =>
    exact fun q v s hw =>
      (accWrite_done R.MON_ADC_URG_mem (by decide) (by decide) rfl hw).trans (by rw [R.MON_ADC_URG_write])
  case referenceEnable =>
    exact fun q v s hw =>
      (accWrite_done R.MON_ADC_CTRL_mem (by decide) (by decide) rfl hw).trans (by rw [R.MON_ADC_CTRL_write])
  case fathomStart =>
    exact fun q i v s hw =>
      (accWrite_done R.MON_FTH_CFG_mem i.isLt (by decide) rfl hw).trans (by simp [R.MON_FTH_CFG_write])
  case fathomCfgStop =>
    exact fun q i v s hw =>
      (accWrite_done R.MON_FTH_CFG_mem i.isLt (by decide) rfl hw).trans (by simp [R.MON_FTH_CFG_write])
  case fathomFiltStop =>
    exact fun q i v s hw =>
      (accWrite_done R.MON_FTH_FILT_mem i.isLt (by decide) rfl hw).trans (by simp [R.MON_FTH_FILT_write])
  case fathomBinStop =>
    exact fun q i v s hw =>
      (accWrite_done R.MON_FTH_BIN_mem i.isLt (by decide) rfl hw).trans (by simp [R.MON_FTH_BIN_write])
  case fathomBaseStop =>
    exact fun q i v s hw =>
      (accWrite_done R.MON_FTH_BASE_mem i.isLt (by decide) rfl hw).trans (by simp [R.MON_FTH_BASE_write])
  case fathomLimStop =>
    exact fun q i v s hw =>
      (accWrite_done R.MON_FTH_LIM_mem i.isLt (by decide) rfl hw).trans (by simp [R.MON_FTH_LIM_write])
  case perfSnapshot =>
    exact fun q v s hw => (accWrite_done R.PMU_CTRL_mem (by decide) (by decide) rfl hw).trans (by rw [R.PMU_CTRL_write])
  case blockEnableWrite =>
    exact fun q v s hw =>
      (accWrite_done R.PWR_BLK_EN_mem (by decide) (by decide) rfl hw).trans (by rw [R.PWR_BLK_EN_write])
  case softwareAonReset =>
    exact fun s hw => (accWrite_done R.PWR_RST_mem (by decide) (by decide) rfl hw).trans (by simp [R.PWR_RST_write])
  case hawserPortEnable =>
    exact fun q p v s hw =>
      (accWrite_done R.HWS_PORT_CTRL_mem p.isLt (by decide) rfl hw).trans (by rw [R.HWS_PORT_CTRL_write])
  case hawserRetrain =>
    exact fun q p v s hw =>
      (accWrite_done R.HWS_PORT_CTRL_mem p.isLt (by decide) rfl hw).trans (by rw [R.HWS_PORT_CTRL_write])

/-- Settles O33: a granted read does what the rule of its register says. -/
theorem capturingReadsComplete : Obligations.CapturingReadsComplete := by
  refine ⟨?snapshotFirst, ?snapshotSecond, ?snapshotThird, ?snapshotFourth, ?snapshotFifth, ?stampQueueFirst,
    ?stampQueueNext, ?aonCounterLow, ?aonCounterHigh, ?twoWayFirst, ?twoWaySecond, ?twoWayThird, ?twoWayFourth,
    ?twoWayFifth, ?ppsFirst, ?ppsSecond, ?ppsThird, ?ppsFourth, ?ringFirst, ?ringNext, ?counterLow, ?counterHigh⟩
  case snapshotFirst =>
    exact fun q s hr => (accRead_done R.TIM_SNAP_W0_mem (by decide) (by decide) hr).trans (by rw [R.TIM_SNAP_W0_read])
  case snapshotSecond =>
    exact fun q s hr => (accRead_done R.TIM_SNAP_TOD_mem (by decide) (by decide) hr).trans (by rw [R.TIM_SNAP_TOD_read])
  case snapshotThird =>
    exact fun q s hr => (accRead_done R.TIM_SNAP_TOD_mem (by decide) (by decide) hr).trans (by rw [R.TIM_SNAP_TOD_read])
  case snapshotFourth =>
    exact fun q s hr => (accRead_done R.TIM_SNAP_TOD_mem (by decide) (by decide) hr).trans (by rw [R.TIM_SNAP_TOD_read])
  case snapshotFifth =>
    exact fun q s hr => (accRead_done R.TIM_SNAP_W4_mem (by decide) (by decide) hr).trans (by rw [R.TIM_SNAP_W4_read])
  case stampQueueFirst =>
    exact fun q rx s hr =>
      (accRead_done R.TIM_TSQ_W_mem rx.toNat_lt (by decide) hr).trans (by cases rx <;> simp [R.TIM_TSQ_W_read])
  case stampQueueNext =>
    exact fun q rx w s hr hne =>
      (accRead_done R.TIM_TSQ_W_mem rx.toNat_lt w.isLt hr).trans (by cases rx <;> simp [R.TIM_TSQ_W_read, hne])
  case aonCounterLow =>
    exact fun q s hr => (accRead_done R.TIM_AON_LO_mem (by decide) (by decide) hr).trans (by rw [R.TIM_AON_LO_read])
  case aonCounterHigh =>
    exact fun q s hr => (accRead_done R.TIM_AON_HI_mem (by decide) (by decide) hr).trans (by rw [R.TIM_AON_HI_read])
  case twoWayFirst =>
    exact fun q n s hr => (accRead_done R.TIM_TT_STAT_mem n.isLt (by decide) hr).trans (by simp [R.TIM_TT_STAT_read])
  case twoWaySecond =>
    exact fun q n s hr => (accRead_done R.TIM_TT_LO_mem n.isLt (by decide) hr).trans (by rw [R.TIM_TT_LO_read])
  case twoWayThird =>
    exact fun q n s hr => (accRead_done R.TIM_TT_HI_mem n.isLt (by decide) hr).trans (by rw [R.TIM_TT_HI_read])
  case twoWayFourth =>
    exact fun q n s hr => (accRead_done R.TIM_TT_LO_mem n.isLt (by decide) hr).trans (by rw [R.TIM_TT_LO_read])
  case twoWayFifth =>
    exact fun q n s hr => (accRead_done R.TIM_TT_HI_mem n.isLt (by decide) hr).trans (by rw [R.TIM_TT_HI_read])
  case ppsFirst =>
    exact fun q s hr => (accRead_done R.TIM_PPSI_W0_mem (by decide) (by decide) hr).trans (by rw [R.TIM_PPSI_W0_read])
  case ppsSecond =>
    exact fun q s hr => (accRead_done R.TIM_PPSI_TOD_mem (by decide) (by decide) hr).trans (by rw [R.TIM_PPSI_TOD_read])
  case ppsThird =>
    exact fun q s hr => (accRead_done R.TIM_PPSI_TOD_mem (by decide) (by decide) hr).trans (by rw [R.TIM_PPSI_TOD_read])
  case ppsFourth =>
    exact fun q s hr => (accRead_done R.TIM_PPSI_TOD_mem (by decide) (by decide) hr).trans (by rw [R.TIM_PPSI_TOD_read])
  case ringFirst =>
    exact fun q k s hr => (accRead_done R.MBX_IRING_W_mem k.isLt (by decide) hr).trans (by simp [R.MBX_IRING_W_read])
  case ringNext =>
    exact fun q k i s hr hne =>
      (accRead_done R.MBX_IRING_W_mem k.isLt i.isLt hr).trans (by simp [R.MBX_IRING_W_read, hne])
  case counterLow =>
    exact fun q j s hr => (accRead_done R.PMU_CNT_LO_mem j.isLt (by decide) hr).trans (by rw [R.PMU_CNT_LO_read])
  case counterHigh =>
    exact fun q j s hr => (accRead_done R.PMU_CNT_HI_mem j.isLt (by decide) hr).trans (by rw [R.PMU_CNT_HI_read])

end Sys2Proof.Machine
end

section
/-! The accesses of registers, mailboxes, staging buffers and SRAM that the checks let through (O34). -/

namespace Sys2Proof.Machine

variable {q : Req} {s t : State}

theorem leBytes_four_length (v : Nat) : (leBytes 4 v).length ≠ 8 := by
  rw [leBytes_length]
  decide

/-- A partial write whose word reads good stores its bytes after the read. -/
theorem State.eccWrite_good {a req : Nat} {bs : List Byte} {u : Upset} (hl : bs.length ≠ 8)
    (hread : s.eccRead a req u = (true, t)) : s.eccWrite a bs req u = (true, t.setBytes a bs) := by
  simp [State.eccWrite, hl, hread]

/-- A write of a staging buffer that its mailbox accepts stores its word (R289). -/
theorem exec_stagingWrite {m : MBox} {o : Fin 1024} (w : Fin 16) (v : Word) (hu : s.busUp = true)
    (hs : sramCheck q 4 (stagingBase m + 4 * o) true s = .ok)
    (hc : if q = .cleat then s.flag F.MBX_STAT_STG_BUSY m = false else stagingCause s m (s.identOf q) = 0)
    (hread : s.eccRead (stagingBase m + 4 * o) (reqNum q) .none = (true, t)) :
    exec (.mailboxWordWrite q m w v (some o)) s
      = .next ((t.setBytes (stagingBase m + 4 * o) (leBytes 4 v.toNat)).answer (.access .ok 0)) := by
  have hlow : 0x81F60000 ≤ stagingBase m + 4 * o := by unfold stagingBase; omega
  have hhigh : stagingBase m + 4 * o < 0x81F6F000 := by unfold stagingBase; omega
  have hbox : (stagingBase m + 4 * o - 0x81F60000) / 0x1000 = m := by unfold stagingBase; omega
  have hstores := State.eccWrite_good (bs := leBytes 4 v.toNat) (leBytes_four_length _) hread
  have hwrite : sramWrite q (stagingBase m + 4 * o) (leBytes 4 v.toNat) .none s
      = (.ok, t.setBytes (stagingBase m + 4 * o) (leBytes 4 v.toNat)) := by
    by_cases hq : q = .cleat
    · subst hq
      have hfree := (if_pos rfl).mp hc
      simp [sramWrite, hu, leBytes_length, hs, hlow, hhigh, hbox, hfree, hstores]
    · have hfree := (if_neg hq).mp hc
      simp [sramWrite, hu, leBytes_length, hs, hlow, hhigh, hbox, hq, hfree, hstores]
  have hexec : exec (.mailboxWordWrite q m w v (some o)) s
    = .next ((sramWrite q (stagingBase m + 4 * o) (leBytes 4 v.toNat) .none s).2.answer
        (.access (sramWrite q (stagingBase m + 4 * o) (leBytes 4 v.toNat) .none s).1 0)) := rfl
  rw [hexec, hwrite]

/-- A GO that nothing refuses is answered without an error. -/
theorem mbxGo_accepted {m ident : Nat} (hc : mbxCause s m ident true = 0) : (mbxGo m ident 1 s).1 = .ok := by
  have hgo : bitsOf 1 0 0 = 1 := by decide
  simp only [mbxGo, hgo, decide_true, hc, if_true]

/-- Settles O34: past its check an access is that of its register, its mailbox or its word of SRAM. -/
theorem memoryAccessesComplete : Obligations.MemoryAccessesComplete := by
  refine ⟨?register, ?sram, ?mailboxWord, ?staging, ?doorbell, ?fullWrite, ?partialWrite, ?sramRead⟩
  case register =>
    intro q r n m v s hr hn hm hbox hw
    have haddr := RegD.addr_toNat hr hn hm
    have hlow : isSram (BitVec.ofNat 32 (r.addr n m)).toNat = false := by
      rw [haddr]
      exact findReg_low (findReg_addr hr hn hm)
    rw [exec_registerWrite_word v hlow, haddr]
    exact accWrite_done hr hn hm hbox hw
  case sram =>
    exact fun _ _ _ _ _ => rfl
  case mailboxWord =>
    intro q m w v s _ hc hr
    rw [exec_mailboxWordWrite v hr, mbxWordWrite, hc]
    simp only [Fin.val_eq_zero_iff]
  case staging =>
    exact fun q m o w v s t hu hs hc hread => exec_stagingWrite w v hu hs hc hread
  case doorbell =>
    intro q m s hr hc
    rw [exec_mailboxGo hr, mbxGo_accepted hc]
  case fullWrite =>
    intro q a bs s hs hu hc hb hl u
    rw [exec_sramPartialWrite_word u hs hu hc hb]
    simp [State.eccWrite, hl]
  case partialWrite =>
    intro q a bs u s t hs hu hc hb hl hread
    rw [exec_sramPartialWrite_word u hs hu hc hb, State.eccWrite_good hl hread]
    rfl
  case sramRead =>
    intro p q k a u s t hm hp hs hu hc hread
    have hexec : exec (.sramRead p k a u) s = execSramRead p k a u s := rfl
    rw [hexec, execSramRead, hm]
    simp [hp, anyRead, hs, sramRead, hu, hc, hread]

end Sys2Proof.Machine
end

section
/-! The optical side of the state: OLC_STAT and OLC_FAULT of the lanes with the optical state, which the end of a
command and of a reception leave alone. -/

namespace Sys2Proof.Machine

/-! ## The optical side of the state -/

/-- The addresses of OLC_STAT and OLC_FAULT of the lanes. -/
def olcAt (a : Nat) : Bool := decide (0x50000000 ≤ a ∧ a < 0x50000900 ∧ (a % 0x100 = 4 ∨ a % 0x100 = 0xC))

/-- The entries of OLC_STAT and OLC_FAULT in the register bank, and the optical state. -/
def State.olcView (s : State) : List (Nat × Word) × Optics := (s.regs.filter fun e => olcAt e.1, s.optics)

/-- The first 45 repetitions of the register keep away from these addresses. -/
def RegD.offOlc (r : RegD) : Bool := decide (r.base + r.s1 * 44 < 0x50000000 ∨ 0x50000900 ≤ r.base)

theorem RegD.olcAt_addr {r : RegD} (hr : r.offOlc = true) {n : Nat} (hn : n < 45) : olcAt (r.addr n 0) = false := by
  have hle : r.s1 * n ≤ r.s1 * 44 := Nat.mul_le_mul_left _ (by omega)
  simp only [RegD.offOlc, decide_eq_true_eq] at hr
  refine decide_eq_false ?_
  simp only [RegD.addr]
  omega

theorem Bank.filter_insert {α : Type} {p : Nat → Bool} {k : Nat} (hk : p k = false) (v : α) (b : List (Nat × α)) :
    (Bank.insert b k v).filter (fun e => p e.1) = b.filter fun e => p e.1 := by
  induction b with
  | nil => simp [Bank.insert, hk]
  | cons e b ih =>
    simp only [Bank.insert]
    split
    · simp [hk]
    · split
      · next heq => simp [heq, hk]
      · simp [List.filter_cons, ih]

theorem Bank.filter_erase {α : Type} {p : Nat → Bool} {k : Nat} (hk : p k = false) (b : List (Nat × α)) :
    (Bank.erase b k).filter (fun e => p e.1) = b.filter fun e => p e.1 := by
  induction b with
  | nil => rfl
  | cons e b ih =>
    simp only [Bank.erase]
    split
    · next heq => simp [heq, hk]
    · split
      · rfl
      · simp [List.filter_cons, ih]

theorem Bank.filter_put {α : Type} [DecidableEq α] {p : Nat → Bool} {k : Nat} (hk : p k = false) (v d : α)
    (b : List (Nat × α)) : (Bank.put b k v d).filter (fun e => p e.1) = b.filter fun e => p e.1 := by
  unfold Bank.put
  split
  · exact Bank.filter_erase hk b
  · exact Bank.filter_insert hk v b

/-- An entry that the filter lets through is found as before. -/
theorem Bank.find_filter {α : Type} {p : Nat → Bool} {k : Nat} (hk : p k = true) (b : List (Nat × α)) :
    ∀ lo, keysRise lo b = true → Bank.find (b.filter fun e => p e.1) k = Bank.find b k := by
  induction b with
  | nil => exact fun _ _ => rfl
  | cons e b ih =>
    intro lo h
    simp only [keysRise, Bool.and_eq_true, decide_eq_true_eq] at h
    have hrest := ih _ h.2
    by_cases he : p e.1 = true
    · simp [he, Bank.find, hrest]
    · have hne : e.1 ≠ k := fun heq => he (heq ▸ hk)
      have hlow (hlt : k < e.1) : Bank.find b k = none := find_rise b _ h.2 (by omega)
      simp +contextual [he, Bank.find, hrest, hne, hlow]

/-- The registers that the end of a command and of a reception change. -/
@[simp] theorem offOlc_fields :
    F.MBX_EVQ_STAT_LOST.reg.offOlc = true ∧ F.MBX_RING_LOST_COUNT.reg.offOlc = true
      ∧ F.MBX_RING_STAT_PRODUCED.reg.offOlc = true ∧ F.MBX_IRING_STAT_LOST.reg.offOlc = true
      ∧ F.HWS_DROP_ORPHAN.reg.offOlc = true ∧ F.MON_FTH_DROP_COUNT.reg.offOlc = true
      ∧ F.MON_FTH_STAT_SAT_ACT.reg.offOlc = true ∧ F.MON_IRQ_STAT_FTH_SAT.reg.offOlc = true
      ∧ F.LTX_SLIP_STAT_SQUELCHED.reg.offOlc = true ∧ F.LRX_TR_STAT_LOCK.reg.offOlc = true
      ∧ F.LRX_FRAME_STAT_AMLOCK_A.reg.offOlc = true ∧ F.LRX_FRAME_STAT_AMLOCK_B.reg.offOlc = true
      ∧ F.LRX_FRAME_STAT_LOCK_LOST.reg.offOlc = true ∧ F.LRX_FRAME_STAT_SLOT_LOCK.reg.offOlc = true
      ∧ F.LRX_TIA_STAT_FROZEN.reg.offOlc = true ∧ F.LRX_TIA_STAT_ACQ_DONE.reg.offOlc = true
      ∧ F.LRX_ADC_STAT_TIMER.reg.offOlc = true ∧ F.LRX_AM_SEQ_VALID.reg.offOlc = true
      ∧ F.HST_TX_STAT_CAUSE.reg.offOlc = true ∧ F.HST_RSM_STAT_LOCK.reg.offOlc = true
      ∧ F.LYD_PHY_STAT_PHY_LOCK.reg.offOlc = true ∧ F.LYD_PHY_STAT_SYNC_ST.reg.offOlc = true
      ∧ F.LYD_PHY_STAT_LOCK_LOST.reg.offOlc = true ∧ F.LYD_AGREE_STAT_STAGE.reg.offOlc = true
      ∧ F.LYD_AGREE_STAT_REASON.reg.offOlc = true ∧ F.LRX_PROT_STAT_CAUSE.reg.offOlc = true
      ∧ F.LTX_PAT_CTRL_SRC.reg.offOlc = true := by
  decide

variable {s : State}

@[simp] theorem State.olcView_ite {p : Prop} [Decidable p] {a b : State} :
    (if p then a else b).olcView = if p then a.olcView else b.olcView := apply_ite ..

/-- What changes neither the registers nor the optical state. -/
theorem State.olcView_of_rest {P : Parts} {t : State} (h : t.rest P = s.rest P)
    (hregs : P.regs = false := by rfl) (hoptics : P.optics = false := by rfl) : t.olcView = s.olcView := by
  have hr := congrArg State.regs h
  have ho := congrArg State.optics h
  simp only [State.rest, hregs, hoptics, if_false, Bool.false_eq_true] at hr ho
  simp only [State.olcView, hr, ho]

@[simp] theorem State.setWord_olcView {r : RegD} {w : Word} {n : Nat} (hr : r.offOlc = true) (hn : n < 45) :
    (s.setWord r w n).olcView = s.olcView := by
  simp only [State.olcView, State.setWord, Bank.filter_put (RegD.olcAt_addr hr hn)]

@[simp] theorem State.put_olcView {f : Fld} {v n : Nat} (hr : f.reg.offOlc = true) (hn : n < 45) :
    (s.put f v n).olcView = s.olcView := State.setWord_olcView hr hn

@[simp] theorem State.putB_olcView {f : Fld} {v : Bool} {n : Nat} (hr : f.reg.offOlc = true) (hn : n < 45) :
    (s.putB f v n).olcView = s.olcView := State.setWord_olcView hr hn

@[simp] theorem State.addSat_olcView {f : Fld} {k n : Nat} (hr : f.reg.offOlc = true) (hn : n < 45) :
    (s.addSat f k n).olcView = s.olcView := State.setWord_olcView hr hn

@[simp] theorem State.incWrap_olcView {f : Fld} {n : Nat} (hr : f.reg.offOlc = true) (hn : n < 45) :
    (s.incWrap f n).olcView = s.olcView := State.setWord_olcView hr hn

@[simp] theorem State.mbx_olcView (x : Mbx) : ({ s with mbx := x } : State).olcView = s.olcView := (rfl)
@[simp] theorem State.mon_olcView (x : Mon) : ({ s with mon := x } : State).olcView = s.olcView := (rfl)
@[simp] theorem State.modMon_olcView (f) : (s.modMon f).olcView = s.olcView := (rfl)
@[simp] theorem State.modFathom_olcView (i f) : (s.modFathom i f).olcView = s.olcView := (rfl)
@[simp] theorem State.modTx_olcView (n f) : (s.modTx n f).olcView = s.olcView := (rfl)
@[simp] theorem State.modRx_olcView (n f) : (s.modRx n f).olcView = s.olcView := (rfl)
@[simp] theorem State.modHst_olcView (n f) : (s.modHst n f).olcView = s.olcView := (rfl)
@[simp] theorem State.modPll_olcView (p f) : (s.modPll p f).olcView = s.olcView := (rfl)
@[simp] theorem State.modWinch_olcView (f) : (s.modWinch f).olcView = s.olcView := (rfl)
@[simp] theorem State.modProt_olcView (f) : (s.modProt f).olcView = s.olcView := (rfl)
@[simp] theorem State.modLyd_olcView (n f) : (s.modLyd n f).olcView = s.olcView := (rfl)
@[simp] theorem State.free_olcView (k) : (s.free k).2.olcView = s.olcView := (rfl)

/-- Repeated operations leave it alone where each does. -/
theorem foldl_olcView {α : Type} {g : State → α → State} {l : List α}
    (hg : ∀ s, ∀ x ∈ l, (g s x).olcView = s.olcView) : (l.foldl g s).olcView = s.olcView :=
  List.foldlRecOn (motive := fun t : State => t.olcView = s.olcView) _ _ rfl fun t ht x hx => (hg t x hx).trans ht

theorem eachBelow_olcView {k : Nat} {f : Nat → State → State} (hf : ∀ n s, n < k → (f n s).olcView = s.olcView) :
    (eachBelow k f s).olcView = s.olcView := foldl_olcView fun s n hn => hf n s (List.mem_range.mp hn)

/-! ## The end of a command -/

@[simp] theorem State.unlockStaging_olcView (m : Nat) : (s.unlockStaging m).olcView = s.olcView := by
  have haddr : olcAt (R.MBX_STAT.addr m 0) = false := by
    have ha : R.MBX_STAT.addr m 0 = 0x13000044 + 0x100 * m + 0 := rfl
    refine decide_eq_false ?_
    omega
  exact congrArg (·, s.optics) (Bank.filter_put haddr _ _ _)

@[simp] theorem State.perfAdd_olcView (fuel : Nat) : ∀ {s : State} {j k : Nat}, j < 256 →
    (s.perfAdd fuel j k).olcView = s.olcView := by
  have hovf : R.PMU_OVF.offOlc = true := by decide
  induction fuel with
  | zero =>
    intro s j k hj
    have hreg : j / 32 < 45 := by omega
    unfold State.perfAdd
    simp [hovf, hreg]
  | succ fuel ih =>
    intro s j k hj
    have hreg : j / 32 < 45 := by omega
    have hnext (t : State) (l : Nat) : (if (t.word R.PMU_CHAIN (j / 32)).getLsbD (j % 32) && j < 255 then
        t.perfAdd fuel (j + 1) l else t).olcView = t.olcView := by
      split
      · next hchain =>
        simp only [Bool.and_eq_true, decide_eq_true_eq] at hchain
        exact ih (by omega)
      · rfl
    unfold State.perfAdd
    simp only [State.olcView_ite, hnext, State.setWord_olcView hovf hreg, State.mon_olcView, ite_self]

@[simp] theorem State.perf_olcView {j k : Nat} (hj : j < 256) : (s.perf j k).olcView = s.olcView := by
  simp [State.perf, hj]

@[simp] theorem State.post_olcView (code lane arg) : (s.post code lane arg).olcView = s.olcView := by
  unfold State.post
  simp

@[simp] theorem fathomSample_olcView (i : Fin 32) (v excess) : (fathomSample i v excess s).olcView = s.olcView := by
  have hi : i.val < 45 := by omega
  simp [fathomSample, hi]

@[simp] theorem fathomOffer_olcView (src pass v) : (fathomOffer src pass v s).olcView = s.olcView :=
  foldl_olcView fun s i _ => by simp

@[simp] theorem completionOffer_olcView (ident us) : (completionOffer ident us s).olcView = s.olcView := by
  simp [completionOffer]

@[simp] theorem State.hwTryAll_olcView (d ms) : (s.hwTryAll d ms).1.olcView = s.olcView :=
  State.olcView_of_rest (P := { hws := true, fresh := true }) (by simp)

@[simp] theorem State.windowFinal_olcView (c st r) : (s.windowFinal c st r).olcView = s.olcView :=
  State.olcView_of_rest (P := { mbx := true }) (by simp)

@[simp] theorem State.postCpl_olcView (w0 m st orig r final) :
    (s.postCpl w0 m st orig r final).olcView = s.olcView := by
  have hring (k : Nat) : k % 3 < 45 := by omega
  unfold State.postCpl
  simp [hring]

@[simp] theorem State.finishAs_olcView (c st orig r) : (s.finishAs c st orig r).olcView = s.olcView := by
  refine (foldl_olcView fun s d _ => ?_).trans ?_
  · simp
  · simp

@[simp] theorem State.finish_olcView (c st r) : (s.finish c st r).olcView = s.olcView := State.finishAs_olcView ..

@[simp] theorem State.finishWhere_olcView (p st r) : (s.finishWhere p st r).olcView = s.olcView :=
  foldl_olcView fun s c _ => by simp

/-! ## The end of a reception and of a pattern -/

@[simp] theorem State.lydLose_olcView (n) : (s.lydLose n).olcView = s.olcView := by simp [State.lydLose]

@[simp] theorem patStart_olcView (n src) : (patStart n src s).olcView = s.olcView := by simp [patStart]

@[simp] theorem State.winchSpoil_olcView (n) : (s.winchSpoil n).olcView = s.olcView := by simp [State.winchSpoil]

@[simp] theorem State.capSource_olcView (n k) : (s.capSource n k).olcView = s.olcView := by simp [State.capSource]

@[simp] theorem State.sendProtect_olcView (op k reason) : (s.sendProtect op k reason).olcView = s.olcView :=
  State.olcView_of_rest (P := { lyd := true }) (by simp)

@[simp] theorem State.postProtectResult_olcView (reason) : (s.postProtectResult reason).olcView = s.olcView := by
  simp [State.postProtectResult]

@[simp] theorem State.refreshHosts_olcView : s.refreshHosts.olcView = s.olcView :=
  eachBelow_olcView fun n s hn => by
    have hn : n < 45 := by omega
    simp [State.refreshHost, hn]

@[simp] theorem State.rsmCheck_olcView : s.rsmCheck.olcView = s.olcView :=
  eachBelow_olcView fun n s hn => by
    have hn : n < 45 := by omega
    simp [hn]

section
variable {n : Nat} (hn : n < 45)
include hn

@[simp] theorem State.squelch_olcView (frame pll) : (s.squelch n frame pll).olcView = s.olcView := by
  simp [State.squelch, hn]

@[simp] theorem State.rxFramingLost_olcView (b) : (s.rxFramingLost n b).olcView = s.olcView := by
  cases b <;> simp [State.rxFramingLost, hn]

@[simp] theorem State.slotLost_olcView : (s.slotLost n).olcView = s.olcView := by simp [State.slotLost, hn]

@[simp] theorem State.rxDown_olcView : (s.rxDown n).olcView = s.olcView := by simp [State.rxDown, State.rxLost, hn]

@[simp] theorem State.phyLost_olcView : (s.phyLost n).olcView = s.olcView := by
  simp [State.phyLost, State.agreeLinkLost, State.abandon, hn]

end

theorem pllSquelch_olcView {n : Nat} (hn : n < 9) (on : Bool) : (pllSquelch (n / 2) on s).olcView = s.olcView :=
  foldl_olcView fun s i hi => State.squelch_olcView (by
    simp only [pairLanes] at hi
    split at hi <;> simp at hi <;> omega) ..

end Sys2Proof.Machine
end

section
/-! Safety faults (R190, R194): the cut of a lane spares every other lane, what it leaves of its own, and the
obligation on safety faults. -/

namespace Sys2Proof.Machine

/-! ## The other lanes -/

/-- What the registers of lane k show of its cuts: its state, CAUSE and OLC_FAULT. -/
def State.cutView (s : State) (k : Line) : Nat × Nat × Word :=
  (s.laneState k, s.get F.OLC_STAT_CAUSE k, s.word R.OLC_FAULT k)

/-- From s to t lane k is not cut: its registers of cuts and its laser output stay, and so do the MB and HT channels. -/
structure Spares (k : Line) (s t : State) : Prop where
  wf : Registers.wf t = true
  lane : t.cutView k = s.cutView k
  slewed : (t.chan (5 * k)).slewed = (s.chan (5 * k)).slewed
  chans : ∀ c : Fin 45, c.val % 5 ≠ 0 → t.chan c = s.chan c

variable {s : State}

theorem olcStat_addr (n : Nat) : R.OLC_STAT.addr n 0 = 0x50000004 + 0x100 * n := rfl

theorem olcFault_addr (n : Nat) : R.OLC_FAULT.addr n 0 = 0x5000000C + 0x100 * n := rfl

theorem olcStat_addr_ne_olcFault (n : Line) : R.OLC_STAT.addr n 0 ≠ R.OLC_FAULT.addr n 0 := by
  simp only [olcStat_addr, olcFault_addr]
  omega

theorem olcAt_stat (k : Line) : olcAt (R.OLC_STAT.addr k 0) = true := by
  refine decide_eq_true ?_
  rw [olcStat_addr]
  omega

theorem olcAt_fault (k : Line) : olcAt (R.OLC_FAULT.addr k 0) = true := by
  refine decide_eq_true ?_
  rw [olcFault_addr]
  omega

/-- A register at these addresses reads as the view says. -/
theorem State.word_of_olcView {t : State} (hs : Registers.wf s = true) (ht : Registers.wf t = true)
    (hv : t.olcView = s.olcView) {r : RegD} {n : Nat} (hr : olcAt (r.addr n 0) = true) : t.word r n = s.word r n := by
  have hfind := congrArg (Bank.find · (r.addr n 0)) (congrArg Prod.fst hv)
  simp only [State.olcView, Bank.find_filter hr _ 0 hs, Bank.find_filter hr _ 0 ht] at hfind
  simp only [State.word, Bank.get, hfind]

theorem State.cutView_of_words {t : State} {k : Line} (hstat : t.word R.OLC_STAT k = s.word R.OLC_STAT k)
    (hfault : t.word R.OLC_FAULT k = s.word R.OLC_FAULT k) : t.cutView k = s.cutView k := by
  have hstate : t.laneState k = s.laneState k := congrArg (bitsOf · _ _) hstat
  have hcause : t.get F.OLC_STAT_CAUSE k = s.get F.OLC_STAT_CAUSE k := congrArg (bitsOf · _ _) hstat
  simp only [State.cutView, hstate, hcause, hfault]

theorem State.chan_modChan (c d : Nat) (f : Chan → Chan) :
    (s.modChan c f).chan d = if Fin.ofNat 45 c = Fin.ofNat 45 d then f (s.chan d) else s.chan d := by
  simp only [State.chan, State.modChan, Fin.getElem_fin, Vector.getElem_set, Fin.val_inj]
  split
  · next heq => simp only [heq]
  · rfl

namespace Spares

variable {k : Line} {s0 s t : State}

theorem refl (h : Registers.wf s = true) : Spares k s s := ⟨h, rfl, rfl, fun _ _ => rfl⟩

theorem trans (h : Spares k s0 s) (g : Spares k s t) : Spares k s0 t :=
  ⟨g.wf, g.lane.trans h.lane, g.slewed.trans h.slewed, fun c hc => (g.chans c hc).trans (h.chans c hc)⟩

/-- What changes neither these registers nor the optical state spares every lane. -/
theorem of_olcView (h : Registers.wf s = true) (hv : t.olcView = s.olcView) (ht : Registers.wf t = true) :
    Spares k s t := by
  have hoptics : t.optics = s.optics := congrArg Prod.snd hv
  have hchan (c : Nat) : t.chan c = s.chan c := by rw [State.chan, State.chan, hoptics]
  exact ⟨ht, State.cutView_of_words (State.word_of_olcView h ht hv (olcAt_stat k))
    (State.word_of_olcView h ht hv (olcAt_fault k)), by rw [hchan], fun c _ => hchan c⟩

/-- The same for what an operation that keeps the stores leaves. -/
theorem calm (h : Spares k s0 s) (hv : t.olcView = s.olcView) (hk : Keeps true s t) : Spares k s0 t :=
  h.trans (of_olcView h.wf hv (hk.regs h.wf))

theorem put_off {f : Fld} {v n : Nat} (hr : f.reg.offOlc = true) (hn : n < 45) (h : Spares k s0 s) :
    Spares k s0 (s.put f v n) := h.trans (of_olcView h.wf (State.put_olcView hr hn) (Registers.put_wf h.wf f v n 0))

/-- A field of OLC_STAT beside STATE and CAUSE. -/
theorem put_stat {hi lo v n : Nat} (hf : 2 < lo ∧ lo ≤ hi ∧ hi < 32 ∧ (hi < 16 ∨ 19 < lo)) (h : Spares k s0 s) :
    Spares k s0 (s.put ⟨R.OLC_STAT, hi, lo⟩ v n) := by
  obtain ⟨hstate, hle, hhi, hcause⟩ := hf
  have hfault : (s.put ⟨R.OLC_STAT, hi, lo⟩ v n).word R.OLC_FAULT k = s.word R.OLC_FAULT k :=
    State.word_put_other h.wf _ _ _ _ _ _ _ (by simp only [olcStat_addr, olcFault_addr]; omega)
  refine h.trans ⟨Registers.put_wf h.wf _ v n 0, ?_, rfl, fun _ _ => rfl⟩
  by_cases hn : n = k
  · subst hn
    have hs := State.get_put_near h.wf ⟨R.OLC_STAT, hi, lo⟩ F.OLC_STAT_STATE v k 0 rfl hle hhi (by decide) (.inl hstate)
    have hc := State.get_put_near h.wf ⟨R.OLC_STAT, hi, lo⟩ F.OLC_STAT_CAUSE v k 0 rfl hle hhi (by decide) hcause.symm
    simp only [State.cutView, State.laneState, hs, hc, hfault]
  · exact State.cutView_of_words (State.word_put_other h.wf _ _ _ _ _ _ _ (by simp only [olcStat_addr]; omega)) hfault

/-- Any field of these registers of another lane. -/
theorem put_lane {f : Fld} {v n : Nat} (hr : f.reg = R.OLC_STAT ∨ f.reg = R.OLC_FAULT) (hn : n ≠ k)
    (h : Spares k s0 s) : Spares k s0 (s.put f v n) := by
  refine h.trans ⟨Registers.put_wf h.wf _ v n 0, State.cutView_of_words ?_ ?_, rfl, fun _ _ => rfl⟩
  all_goals
    refine State.word_put_other h.wf _ _ _ _ _ _ _ ?_
    rcases hr with hr | hr <;> simp only [hr, olcStat_addr, olcFault_addr] <;> omega

/-- A change of the optical state that keeps the channels. -/
theorem modGrant (f : Grant → Grant) (h : Spares k s0 s) : Spares k s0 (s.modGrant f) :=
  h.trans ⟨h.wf, rfl, rfl, fun _ _ => rfl⟩

theorem modOlc (n : Nat) (f : Olc → Olc) (h : Spares k s0 s) : Spares k s0 (s.modOlc n f) :=
  h.trans ⟨h.wf, rfl, rfl, fun _ _ => rfl⟩

theorem modPll (n : Nat) (f : TxPll → TxPll) (h : Spares k s0 s) : Spares k s0 (s.modPll n f) :=
  h.trans ⟨h.wf, rfl, rfl, fun _ _ => rfl⟩

/-- A change of a laser channel, of another lane's or one that keeps the output. -/
theorem modChan {c : Nat} {f : Chan → Chan} (hc : c % 5 = 0) (hf : c % 45 ≠ 5 * k ∨ ∀ t, (f t).slewed = t.slewed)
    (h : Spares k s0 s) : Spares k s0 (s.modChan c f) := by
  refine h.trans ⟨h.wf, rfl, ?slewed, fun d hd => ?chans⟩
  case slewed =>
    rw [State.chan_modChan]
    split
    · next heq =>
      have hval : c % 45 = 5 * k % 45 := congrArg Fin.val heq
      exact hf.elim (fun hne => absurd hval (by omega)) fun hf => hf _
    · rfl
  case chans =>
    refine (State.chan_modChan ..).trans (if_neg fun heq => ?_)
    have hval : c % 45 = d % 45 := congrArg Fin.val heq
    omega

/-! ## The power steps -/

theorem stepStart (p : PStep) (h : Spares k s0 s) : Spares k s0 (s.stepStart p) := by
  cases p with
  | ramp n =>
    rw [State.stepStart_ramp]
    exact (h.put_stat (by decide)).modChan (by simp only [Fin.val_ofNat]; omega) (.inr fun _ => rfl)
  | ltx n => exact (h.modGrant _).modPll ..
  | _ =>
    simp only [State.stepStart]
    exact h.modGrant _

theorem takeStep (h : Spares k s0 s) : Spares k s0 s.takeStep := by
  unfold State.takeStep
  split
  · exact h
  · split
    · exact (((h.put_off (by decide) (by decide)).put_off (by decide) (by decide)).modGrant _).stepStart _
    · exact h

theorem pass (h : Spares k s0 s) : Spares k s0 s.pass := (h.modGrant _).takeStep

theorem dropStep (p : PStep) (h : Spares k s0 s) : Spares k s0 (s.dropStep p) := by
  unfold State.dropStep State.stepEnd
  refine modGrant _ ?_
  split
  · exact (h.modGrant _).pass
  · exact h

theorem vlasDrop (h : Spares k s0 s) : Spares k s0 s.vlasDrop := by
  unfold State.vlasDrop
  dsimp only
  split
  · exact h
  · exact h.dropStep _

/-! ## The cut of another lane -/

theorem endRequests (n : Nat) (st : Status) (h : Spares k s0 s) : Spares k s0 (s.endRequests n st) := by
  unfold State.endRequests
  dsimp only
  refine calm ?_ (State.finishWhere_olcView ..) (State.finishWhere_keeps _ _ _ (Keeps.refl _))
  split
  · exact h.put_stat (by decide)
  · exact h

theorem lydLose (n : Nat) (h : Spares k s0 s) : Spares k s0 (s.lydLose n) :=
  h.calm (State.lydLose_olcView _) (State.lydLose_keeps _ (Keeps.refl _))

theorem setLane {n st : Nat} (hn : n ≠ k) (h : Spares k s0 s) : Spares k s0 (s.setLane n st) :=
  (h.put_lane (.inl rfl) hn).lydLose n

theorem rxDown {n : Nat} (hn : n < 9) (h : Spares k s0 s) : Spares k s0 (s.rxDown n) :=
  h.calm (State.rxDown_olcView (by omega)) (State.rxDown_keeps _ (Keeps.refl _))

theorem phyLost {n : Nat} (hn : n < 9) (h : Spares k s0 s) : Spares k s0 (s.phyLost n) :=
  h.calm (State.phyLost_olcView (by omega)) (State.phyLost_keeps _ (Keeps.refl _))

theorem refreshHosts (h : Spares k s0 s) : Spares k s0 s.refreshHosts :=
  h.calm State.refreshHosts_olcView (State.refreshHosts_keeps (Keeps.refl _))

theorem patStart {n src : Nat} (h : Spares k s0 s) : Spares k s0 (patStart n src s) :=
  h.calm (patStart_olcView ..) (patStart_keeps _ _ (Keeps.refl _))

theorem pllSquelch {n : Nat} (hn : n < 9) (on : Bool) (h : Spares k s0 s) : Spares k s0 (pllSquelch (n / 2) on s) :=
  h.calm (pllSquelch_olcView hn on) (pllSquelch_keeps _ _ (Keeps.refl _))

theorem ite {p : Prop} [Decidable p] {a b : State} (ha : Spares k s0 a) (hb : Spares k s0 b) :
    Spares k s0 (if p then a else b) := by
  split
  · exact ha
  · exact hb

/-- After a probe on the received clock the PLL of the lane's pair locks again. -/
theorem relock {p : Prop} [Decidable p] {n : Nat} {f : TxPll → TxPll} (hn : n < 9) (h : Spares k s0 s) :
    Spares k s0 (if p then Machine.pllSquelch (n / 2) true (s.modPll (n / 2) f) else s) :=
  ite (pllSquelch hn true (h.modPll ..)) h

theorem probeExit {n : Nat} (hn : n < 9) (hk : n ≠ k) (h : Spares k s0 s) : Spares k s0 (s.probeExit n) := by
  unfold State.probeExit
  split
  · exact h
  · have hprobe := h.modOlc n fun o => { o with probe := none }
    exact setLane hk (relock hn (ite (put_off (by decide) (by omega) hprobe.patStart)
      (ite ((hprobe.rxDown hn).phyLost hn).refreshHosts hprobe)))

end Spares

/-! ## The cut of a lane -/

/-- What comes before the cut itself: the requests end, and so do a probe and a ramp. -/
def cutLead (n : Nat) (st : Status) (s : State) : State :=
  let s := s.endRequests n st
  let s := if s.laneState n = 4 then s.probeExit n else s.modOlc n fun o => { o with probe := none }
  s.dropStep (.ramp n)

/-- The lane is OFF with no transition under way. -/
def cutState (n : Nat) (s : State) : State :=
  let s := ((s.setLane n 0).put F.OLC_STAT_TRANS 0 n).put F.OLC_STAT_TARGET 0 n
  (s.put F.OLC_STAT_DEFER 0 n).put F.OLC_STAT_TOKEN_WAIT 0 n

/-- The laser channel stands at zero. -/
def cutChan (t : Chan) : Chan :=
  { t with
    slewed := 0
    absTarget := none
    range := t.rangeNew.getD t.range
    rangeNew := none
    rangeUp := false
    hiZ := true }

/-- What follows the channel's cut. -/
def cutEnd (n : Nat) (s : State) : State :=
  let s := s.modOlc n fun o => { o with rampHeld := false }
  ((s.put F.OLC_CH_OUT_OUT 0 (5 * n)).put F.OLC_CH_OUT_RANGE_CHG 0 (5 * n)).vlasDrop

/-- FAULT, COUNT and the record of the service life after a cut for fault bit b. -/
def faultNote (b n : Nat) (s : State) : State :=
  ((s.put F.OLC_FAULT_FAULT (s.get F.OLC_FAULT_FAULT n ||| 2 ^ b) n).addSat F.OLC_FAULT_COUNT 1 n).lifeAdd (90 + n)

theorem faultLane_eq (b n : Nat) (s : State) : faultLane b n s
    = if 3 ≤ (recentFaults (faultNote b n (s.cut n 1 .denied)) n).length then
        ((faultNote b n (s.cut n 1 .denied)).modOlc n fun o =>
          { o with faults := recentFaults (faultNote b n (s.cut n 1 .denied)) n }).put F.OLC_FAULT_LOCKOUT 1 n
      else (faultNote b n (s.cut n 1 .denied)).modOlc n fun o =>
        { o with faults := recentFaults (faultNote b n (s.cut n 1 .denied)) n } := (rfl)

theorem State.cut_eq (s : State) (n cause : Nat) (st : Status) : s.cut n cause st
    = cutEnd n (((cutState n (cutLead n st s)).put F.OLC_STAT_CAUSE cause n).modChan (5 * n) cutChan) := (rfl)

namespace Spares

variable {k : Line} {s0 s : State} {n : Nat}

theorem cutState (hk : n ≠ k) (h : Spares k s0 s) : Spares k s0 (cutState n s) :=
  ((((h.setLane hk).put_stat (by decide)).put_stat (by decide)).put_stat (by decide)).put_stat (by decide)

theorem cutEnd (hn : n < 9) (h : Spares k s0 s) : Spares k s0 (cutEnd n s) :=
  (((h.modOlc ..).put_off (by decide) (by omega)).put_off (by decide) (by omega)).vlasDrop

theorem cutLead (hn : n < 9) (hk : n ≠ k) (st : Status) (h : Spares k s0 s) : Spares k s0 (cutLead n st s) := by
  refine dropStep _ ?_
  split
  · exact (h.endRequests ..).probeExit hn hk
  · exact (h.endRequests ..).modOlc ..

theorem cut (hn : n < 9) (hk : n ≠ k) (cause : Nat) (st : Status) (h : Spares k s0 s) :
    Spares k s0 (s.cut n cause st) := by
  rw [State.cut_eq]
  exact (((h.cutLead hn hk st).cutState hk).put_lane (.inl rfl) hk).modChan (by omega) (.inl (by omega)) |>.cutEnd hn

theorem lifeAdd (w : Nat) (h : Spares k s0 s) : Spares k s0 (s.lifeAdd w) := h.trans ⟨h.wf, rfl, rfl, fun _ _ => rfl⟩

theorem faultLane (hn : n < 9) (hk : n ≠ k) (b : Nat) (h : Spares k s0 s) : Spares k s0 (faultLane b n s) := by
  rw [faultLane_eq]
  have hnoted : Spares k s0 (faultNote b n (s.cut n 1 .denied)) :=
    (((h.cut hn hk 1 .denied).put_lane (.inr rfl) hk).put_lane (.inr rfl) hk).lifeAdd (90 + n)
  exact ite ((hnoted.modOlc ..).put_lane (.inr rfl) hk) (hnoted.modOlc ..)

end Spares

/-! ## The lane that is cut -/

/-- Lane k is cut for fault bit b. -/
structure State.CutFor (s : State) (b : Nat) (k : Line) : Prop where
  state : s.laneState k = 0
  cause : s.get F.OLC_STAT_CAUSE k = 1
  bit : (s.get F.OLC_FAULT_FAULT k).testBit b = true
  slewed : (s.chan (5 * k)).slewed = 0

theorem State.CutFor.faulted {s : State} {b : Nat} {k : Line} (h : s.CutFor b k) : s.faulted k = true := by
  have hne : s.get F.OLC_FAULT_FAULT k ≠ 0 := fun h0 => by simpa [h0] using h.bit
  simp [State.faulted, hne]

theorem State.CutFor.spared {s t : State} {b : Nat} {k : Line} (h : s.CutFor b k) (g : Spares k s t) :
    t.CutFor b k := by
  obtain ⟨hstate, hcause, hfault⟩ : t.laneState k = s.laneState k ∧ t.get F.OLC_STAT_CAUSE k = s.get F.OLC_STAT_CAUSE k
      ∧ t.word R.OLC_FAULT k = s.word R.OLC_FAULT k := by simpa [State.cutView] using g.lane
  have hbits : t.get F.OLC_FAULT_FAULT k = s.get F.OLC_FAULT_FAULT k := congrArg (bitsOf · _ _) hfault
  exact ⟨hstate.trans h.state, hcause.trans h.cause, hbits ▸ h.bit, g.slewed.trans h.slewed⟩

/-- A field of OLC_FAULT above the fault bits. -/
theorem State.CutFor.put_fault {s : State} {b : Nat} {k : Line} (h : s.CutFor b k) (hs : Registers.wf s = true)
    {hi lo v : Nat} (hf : 5 < lo ∧ lo ≤ hi ∧ hi < 32) : (s.put ⟨R.OLC_FAULT, hi, lo⟩ v k).CutFor b k := by
  obtain ⟨hlo, hle, hhi⟩ := hf
  have haddr := olcStat_addr_ne_olcFault k
  have hstate := State.get_put_far hs ⟨R.OLC_FAULT, hi, lo⟩ F.OLC_STAT_STATE v k 0 k 0 haddr
  have hcause := State.get_put_far hs ⟨R.OLC_FAULT, hi, lo⟩ F.OLC_STAT_CAUSE v k 0 k 0 haddr
  have hbits := State.get_put_near hs ⟨R.OLC_FAULT, hi, lo⟩ F.OLC_FAULT_FAULT v k 0 rfl hle hhi (by decide) (.inl hlo)
  exact ⟨hstate.trans h.state, hcause.trans h.cause, hbits ▸ h.bit, h.slewed⟩

theorem cutLead_wf {s : State} (h : Registers.wf s = true) (n : Nat) (st : Status) :
    Registers.wf (cutLead n st s) = true := by
  have hprobe : Keeps true s (if (s.endRequests n st).laneState n = 4 then (s.endRequests n st).probeExit n
      else (s.endRequests n st).modOlc n fun o => { o with probe := none }) := by
    have hend : Keeps true s (s.endRequests n st) := State.endRequests_keeps _ _ (Keeps.refl _)
    split
    · exact State.probeExit_keeps _ hend
    · exact State.modOlc_keeps _ _ hend
  exact (State.dropStep_keeps _ hprobe).regs h

/-- The cut of a lane, as its registers and its channel show it. -/
theorem State.cut_self {s : State} (h : Registers.wf s = true) (n : Line) (cause : Nat) (st : Status) :
    (s.cut n cause st).laneState n = 0 ∧ (s.cut n cause st).get F.OLC_STAT_CAUSE n = cause % 16
      ∧ ((s.cut n cause st).chan (5 * n)).slewed = 0 := by
  have hlead := cutLead_wf h n st
  have hoff := State.get_put_same hlead F.OLC_STAT_STATE 0 n 0 (by decide) (by decide)
  have hstate : Spares n ((cutLead n st s).put F.OLC_STAT_STATE 0 n) (cutState n (cutLead n st s)) :=
    (((((Spares.refl (Registers.put_wf hlead _ 0 n 0)).lydLose n).put_stat (by decide)).put_stat (by decide)).put_stat
      (by decide)).put_stat (by decide)
  rw [State.cut_eq]
  generalize cutState n (cutLead n st s) = u at hstate
  have hu : u.laneState n = 0 := (congrArg Prod.fst hstate.lane).trans hoff
  have hkept := State.get_put_near hstate.wf F.OLC_STAT_CAUSE F.OLC_STAT_STATE cause n 0 rfl (by decide) (by decide)
    (by decide) (by decide)
  have hcause := State.get_put_same hstate.wf F.OLC_STAT_CAUSE cause n 0 (by decide) (by decide)
  have hchan := State.chan_modChan (s := u.put F.OLC_STAT_CAUSE cause n) (5 * n) (5 * n) cutChan
  have hend := Spares.cutEnd n.isLt (Spares.refl (k := n)
    (State.modChan_wf (Registers.put_wf hstate.wf F.OLC_STAT_CAUSE cause n 0) (5 * n) cutChan))
  have hlane : (cutEnd n ((u.put F.OLC_STAT_CAUSE cause n).modChan (5 * n) cutChan)).cutView n
    = (u.put F.OLC_STAT_CAUSE cause n).cutView n := hend.lane
  simp only [State.cutView, Prod.mk.injEq] at hlane
  obtain ⟨hstateEnd, hcauseEnd, -⟩ := hlane
  exact ⟨hstateEnd.trans (hkept.trans hu), hcauseEnd.trans hcause,
    hend.slewed.trans (by rw [hchan, if_pos rfl]; rfl)⟩

theorem faultNote_wf {s : State} (h : Registers.wf s = true) (b n : Nat) : Registers.wf (faultNote b n s) = true := by
  have hkeeps : Keeps true s (faultNote b n s) :=
    State.lifeAdd_keeps _ _ (State.addSat_keeps _ _ _ _ (State.put_keeps _ _ _ _ (Keeps.refl s)))
  exact hkeeps.regs h

theorem faultNote_cutFor {s : State} (h : Registers.wf s = true) {n : Line} (hstate : s.laneState n = 0)
    (hcause : s.get F.OLC_STAT_CAUSE n = 1) (hslewed : (s.chan (5 * n)).slewed = 0) (b : Fin 6) :
    (faultNote b n s).CutFor b n := by
  have hfar := olcStat_addr_ne_olcFault n
  have hbit : State.CutFor (s.put F.OLC_FAULT_FAULT (s.get F.OLC_FAULT_FAULT n ||| 2 ^ b.val) n) b n := by
    refine ⟨?_, ?_, ?_, hslewed⟩
    · exact (State.get_put_far h F.OLC_FAULT_FAULT F.OLC_STAT_STATE _ n 0 n 0 hfar).trans hstate
    · exact (State.get_put_far h F.OLC_FAULT_FAULT F.OLC_STAT_CAUSE _ n 0 n 0 hfar).trans hcause
    · have hb : b.val < F.OLC_FAULT_FAULT.hi + 1 - F.OLC_FAULT_FAULT.lo := b.isLt
      rw [State.get_put_same h F.OLC_FAULT_FAULT _ n 0 (by decide) (by decide), Nat.testBit_mod_two_pow, Nat.testBit_or,
        Nat.testBit_two_pow_self]
      simp [hb]
  have hwf := Registers.put_wf h F.OLC_FAULT_FAULT (s.get F.OLC_FAULT_FAULT n ||| 2 ^ b.val) n 0
  have hcount := Registers.put_wf hwf F.OLC_FAULT_COUNT
  exact (hbit.put_fault hwf (by decide)).spared ((Spares.refl (hcount _ n 0)).lifeAdd (90 + n))

/-- A lane that is cut for a fault is OFF with CAUSE 1 and the fault's bit, and its laser output stands at zero. -/
theorem faultLane_cutFor {s : State} (h : Registers.wf s = true) (b : Fin 6) (n : Line) :
    (faultLane b n s).CutFor b n := by
  obtain ⟨hstate, hcause, hslewed⟩ := State.cut_self h n 1 .denied
  have hwf : Registers.wf (s.cut n 1 .denied) = true := (State.cut_keeps (ms := true) n 1 .denied (Keeps.refl s)).regs h
  rw [faultLane_eq]
  generalize s.cut n 1 .denied = u at hstate hcause hslewed hwf
  have hnoted := faultNote_cutFor hwf hstate hcause hslewed b
  have hnotedWf := faultNote_wf hwf b n
  generalize faultNote b n u = t at hnoted hnotedWf
  have hlisted := (Spares.refl (k := n) hnotedWf).modOlc n fun o => { o with faults := recentFaults t n }
  split
  · exact (hnoted.spared hlisted).put_fault hlisted.wf (by decide)
  · exact hnoted.spared hlisted

/-! ## The lanes of a fault -/

theorem faultLane_wf {s : State} (h : Registers.wf s = true) (b n : Nat) : Registers.wf (faultLane b n s) = true :=
  (faultLane_keeps (ms := true) b n (Keeps.refl s)).regs h

/-- The lanes that are not listed are spared. -/
theorem foldl_faultLane_spares {b : Nat} {k : Line} {l : List Nat} (hl : ∀ n ∈ l, n < 9 ∧ n ≠ k) {s : State}
    (h : Registers.wf s = true) : Spares k s (l.foldl (fun s n => faultLane b n s) s) :=
  List.foldlRecOn (motive := Spares k s) _ _ (Spares.refl h) fun _ ht n hn => ht.faultLane (hl n hn).1 (hl n hn).2 b

/-- Each listed lane is cut, and stays so. -/
theorem foldl_faultLane_cutFor {b : Fin 6} {k : Line} {l : List Nat} (hl : ∀ n ∈ l, n < 9) (hk : k.val ∈ l) :
    ∀ {s : State}, Registers.wf s = true → (l.foldl (fun s n => faultLane b n s) s).CutFor b k := by
  induction l with
  | nil => nomatch hk
  | cons n l ih =>
    intro s h
    have hrest : ∀ m ∈ l, m < 9 := fun m hm => hl m (List.mem_cons_of_mem _ hm)
    by_cases hmem : k.val ∈ l
    · exact ih hrest hmem (faultLane_wf h b n)
    · have hn : k.val = n := (List.mem_cons.mp hk).resolve_right hmem
      subst hn
      have hcut := faultLane_cutFor h b k
      exact hcut.spared (foldl_faultLane_spares (fun m hm => ⟨hrest m hm, fun heq => hmem (heq ▸ hm)⟩)
        (faultLane_wf h b k))

/-- The MB and HT channels are no part of a cut. -/
theorem foldl_faultLane_chans {b : Nat} {l : List Nat} (hl : ∀ n ∈ l, n < 9) {s : State} (h : Registers.wf s = true)
    {c : Fin 45} (hc : c.val % 5 ≠ 0) : (l.foldl (fun s n => faultLane b n s) s).chan c = s.chan c := by
  refine (List.foldlRecOn (motive := fun t => Registers.wf t = true ∧ t.chan c = s.chan c) _ _ ⟨h, rfl⟩ ?_).2
  intro t ⟨ht, hchan⟩ n hn
  obtain ⟨k, hk⟩ : ∃ k : Line, n ≠ k := ⟨if n = 0 then 1 else 0, by split <;> simp [*]⟩
  have hspared := (Spares.refl (k := k) ht).faultLane (hl n hn) hk b
  exact ⟨hspared.wf, (hspared.chans c hc).trans hchan⟩

/-- The lanes that a safety fault cuts. -/
def faultLanes (b : Fin 6) (n : Line) (s : State) : List Nat :=
  if b.val ≤ 1 then [n.val] else (List.range 9).filter s.emits

theorem faultLanes_line {b : Fin 6} {n : Line} {s : State} : ∀ m ∈ faultLanes b n s, m < 9 := by
  intro m hm
  unfold faultLanes at hm
  split at hm
  · rw [List.mem_singleton.mp hm]
    exact n.isLt
  · exact List.mem_range.mp (List.mem_filter.mp hm).1

theorem mem_faultLanes {b : Fin 6} {n k : Line} {s : State} :
    k.val ∈ faultLanes b n s ↔ if b.val ≤ 1 then k = n else s.emits k = true := by
  unfold faultLanes
  split
  · simp [Fin.val_inj]
  · simp

/-- The faults that cut one lane show only while it emits. -/
theorem emits_of_faultShows {b : Fin 6} {n : Nat} {s : State} (hone : b.val ≤ 1) (h : s.faultShows b n = true) :
    s.emits n = true := by
  obtain hb | hb : b.val = 0 ∨ b.val = 1 := by omega
  all_goals
    simp only [State.faultShows, hb, Bool.and_eq_true] at h
    exact h.1.1

theorem not_mem_faultLanes {b : Fin 6} {n k : Line} {s : State} (hshows : s.faultShows b n = true)
    (hk : s.emits k = false ∨ (b.val ≤ 1 ∧ k ≠ n)) : k.val ∉ faultLanes b n s := by
  rw [mem_faultLanes]
  rcases hk with hdark | ⟨hone, hne⟩
  · split
    · next hone =>
      rintro rfl
      exact absurd (emits_of_faultShows hone hshows) (by simp [hdark])
    · simp [hdark]
  · simpa [hone] using hne

/-- A safety fault beside that of the lockstep pair cuts its lanes one by one. -/
theorem exec_safetyFault {b : Fin 6} {n : Line} {s : State} (hb : b ≠ 5) (hshows : s.faultShows b n = true) :
    exec (.safetyFault b n) s = .next ((faultLanes b n s).foldl (fun s n => faultLane b n s) s) := by
  by_cases hone : b.val ≤ 1
  · have hlanes : faultLanes b n s = [n.val] := if_pos hone
    rw [hlanes, List.foldl_cons, List.foldl_nil]
    simp [exec, execSafetyFault, hb, hshows, hone]
  · have hlanes : faultLanes b n s = (List.range 9).filter s.emits := if_neg hone
    rw [hlanes]
    simp [exec, execSafetyFault, hb, hshows, hone]

theorem exec_safetyFault_hidden {b : Fin 6} {n : Line} {s : State} (hshows : s.faultShows b n = false) :
    exec (.safetyFault b n) s = .next s := by
  simp [exec, execSafetyFault, hshows]

theorem safetyFault_next {b : Fin 6} {n : Line} {s t : State} (hb : b ≠ 5) (hshows : s.faultShows b n = true)
    (he : exec (.safetyFault b n) s = .next t) : t = (faultLanes b n s).foldl (fun s n => faultLane b n s) s :=
  Host.Outcome.next.inj (he.symm.trans (exec_safetyFault hb hshows))

theorem safetyFault_stays {b : Fin 6} {n : Line} {s t : State} (hshows : s.faultShows b n = false)
    (he : exec (.safetyFault b n) s = .next t) : t = s :=
  Host.Outcome.next.inj (he.symm.trans (exec_safetyFault_hidden hshows))

/-- Settles O56: a lane stays cut once it is listed, and the cut of one lane spares every other. -/
theorem safetyFaultCuts : Obligations.SafetyFaultCuts := by
  intro b n s t h hb he
  refine ⟨fun hno => safetyFault_stays hno he, fun k hshows hemits honly => ?cut,
    fun k hk => ?state, fun c hc => ?chans⟩
  case cut =>
    have hmem : k.val ∈ faultLanes b n s := by
      rw [mem_faultLanes]
      split
      · next hlane => exact honly hlane
      · exact hemits
    have hcut := foldl_faultLane_cutFor (b := b) faultLanes_line hmem h
    rw [← safetyFault_next hb hshows he] at hcut
    exact ⟨hcut.state, hcut.cause, hcut.bit, hcut.slewed, hcut.faulted⟩
  case state =>
    cases hshows : s.faultShows b n with
    | false => rw [safetyFault_stays hshows he]
    | true =>
      have hmem := not_mem_faultLanes hshows hk
      have hspared := foldl_faultLane_spares (b := b) (fun m hm => ⟨faultLanes_line m hm, fun heq => hmem (heq ▸ hm)⟩) h
      rw [safetyFault_next hb hshows he]
      exact congrArg Prod.fst hspared.lane
  case chans =>
    cases hshows : s.faultShows b n with
    | false => rw [safetyFault_stays hshows he]
    | true =>
      rw [safetyFault_next hb hshows he]
      exact foldl_faultLane_chans faultLanes_line h hc

end Sys2Proof.Machine
end
